-- ==== Sys2Proof/Word.lean ====
section
/-! DEFINITION. The word types of the complex (R5, R78): bytes, and the 16-, 32-, 64- and 128-bit words that registers, lanes and records hold. -/

namespace Sys2Proof

/-- One byte of memory, plate or record. -/
abbrev Byte := BitVec 8
/-- A 16-bit word (NFLAGS, R77). -/
abbrev W16 := BitVec 16
/-- A 32-bit lane: FP32 or INT32 (R38, R78). -/
abbrev W32 := BitVec 32
/-- A 64-bit word: scalar registers and BAR0 registers (R78, R511). -/
abbrev W64 := BitVec 64
/-- A 128-bit word: stipple counters and draws, tally words (R55, R70). -/
abbrev W128 := BitVec 128
/-- A vector register: 64 lanes of 32 bits, lane 0 first (R78). -/
abbrev VReg := List W32

end Sys2Proof
end

