-- ==== Sys2Proof/Syntax.lean ====
section
/-! DEFINITION. The commands of the complex: one constructor for each row of the opcode table, with the operands that its rule gives it. A core instruction carries its slot's bits below the opcode, guard included (R124). -/

namespace Sys2Proof

/-- Where a core instruction goes: the physical core (R16), and whether it is the last slot of its bundle; the bundle
issues as one whole (R79). -/
structure Hdr where
  core : Nat
  last : Bool
  deriving DecidableEq, Repr

/-- An access of the host: its address and its size in bytes (R11). -/
structure Access where
  off : Nat
  size : Nat
  deriving DecidableEq, Repr

/-- What a commit of a function's decoder states: the interleave ways and the function's position among them (R368). -/
structure Interleave where
  ways : Nat
  pos : Nat
  deriving DecidableEq, Repr

/-- An IDE key for one link: 256 bits, and containment (0) or skid mode (R362). -/
structure IdeKey where
  link : Nat
  key : Nat
  skid : Nat
  deriving DecidableEq, Repr

/-- The modes that the host negotiates as a link trains: flits (R360) and L0p (R373). -/
structure LinkMode where
  flit : Nat
  l0p : Nat
  deriving DecidableEq, Repr

/-- The commands of the complex, in the order of the opcode table. -/
inductive Instr where
  /-- NOP (R131). -/
  | nop (h : Hdr) (f : BitVec 26)
  /-- ALU (R132). -/
  | alu (h : Hdr) (f : BitVec 26)
  /-- ADDI (R131). -/
  | addi (h : Hdr) (f : BitVec 26)
  /-- ANDI (R131). -/
  | andi (h : Hdr) (f : BitVec 26)
  /-- ORI (R131). -/
  | ori (h : Hdr) (f : BitVec 26)
  /-- XORI (R131). -/
  | xori (h : Hdr) (f : BitVec 26)
  /-- SHLI (R131). -/
  | shli (h : Hdr) (f : BitVec 26)
  /-- SHRI (R131). -/
  | shri (h : Hdr) (f : BitVec 26)
  /-- SARI (R131). -/
  | sari (h : Hdr) (f : BitVec 26)
  /-- LI (R131). -/
  | li (h : Hdr) (f : BitVec 26)
  /-- LIH (R131). -/
  | lih (h : Hdr) (f : BitVec 26)
  /-- PCMP (R133). -/
  | pcmp (h : Hdr) (f : BitVec 26)
  /-- PCMPI (R133). -/
  | pcmpi (h : Hdr) (f : BitVec 26)
  /-- PLOG (R133). -/
  | plog (h : Hdr) (f : BitVec 26)
  /-- BR (R134). -/
  | br (h : Hdr) (f : BitVec 26)
  /-- BRDEC (R134). -/
  | brdec (h : Hdr) (f : BitVec 26)
  /-- JAL (R134). -/
  | jal (h : Hdr) (f : BitVec 26)
  /-- JR (R134). -/
  | jr (h : Hdr) (f : BitVec 26)
  /-- LDP (R136). -/
  | ldp (h : Hdr) (f : BitVec 26)
  /-- STP (R136). -/
  | stp (h : Hdr) (f : BitVec 26)
  /-- LDM (R137). -/
  | ldm (h : Hdr) (f : BitVec 26)
  /-- LDM_ACQ (R299). -/
  | ldmAcq (h : Hdr) (f : BitVec 26)
  /-- LDM_NC (R137). -/
  | ldmNc (h : Hdr) (f : BitVec 26)
  /-- STM (R301). -/
  | stm (h : Hdr) (f : BitVec 26)
  /-- STM_REL (R300). -/
  | stmRel (h : Hdr) (f : BitVec 26)
  /-- BAR (R306). -/
  | bar (h : Hdr) (f : BitVec 26)
  /-- WAITP (R139). -/
  | waitp (h : Hdr) (f : BitVec 26)
  /-- WAITM (R140). -/
  | waitm (h : Hdr) (f : BitVec 26)
  /-- NFLR (R144). -/
  | nflr (h : Hdr) (f : BitVec 26)
  /-- NFLC (R144). -/
  | nflc (h : Hdr) (f : BitVec 26)
  /-- SPK (R145). -/
  | spk (h : Hdr) (f : BitVec 26)
  /-- SPC (R145). -/
  | spc (h : Hdr) (f : BitVec 26)
  /-- SPR (R145). -/
  | spr (h : Hdr) (f : BitVec 26)
  /-- TRAP (R131). -/
  | trap (h : Hdr) (f : BitVec 26)
  /-- END (R143). -/
  | endK (h : Hdr) (f : BitVec 26)
  /-- VNOP (R150). -/
  | vnop (h : Hdr) (f : BitVec 42)
  /-- FADD (R150). -/
  | fadd (h : Hdr) (f : BitVec 42)
  /-- FSUB (R150). -/
  | fsub (h : Hdr) (f : BitVec 42)
  /-- FMUL (R150). -/
  | fmul (h : Hdr) (f : BitVec 42)
  /-- FFMA (R150). -/
  | ffma (h : Hdr) (f : BitVec 42)
  /-- FMIN (R65). -/
  | fmin (h : Hdr) (f : BitVec 42)
  /-- FMAX (R65). -/
  | fmax (h : Hdr) (f : BitVec 42)
  /-- FABS (R150). -/
  | fabs (h : Hdr) (f : BitVec 42)
  /-- FNEG (R150). -/
  | fneg (h : Hdr) (f : BitVec 42)
  /-- FCMP (R151). -/
  | fcmp (h : Hdr) (f : BitVec 42)
  /-- SEL (R150). -/
  | sel (h : Hdr) (f : BitVec 42)
  /-- EXP2 (R66). -/
  | exp2 (h : Hdr) (f : BitVec 42)
  /-- LOG2 (R66). -/
  | log2 (h : Hdr) (f : BitVec 42)
  /-- RCP (R66). -/
  | rcp (h : Hdr) (f : BitVec 42)
  /-- RSQRT (R66). -/
  | rsqrt (h : Hdr) (f : BitVec 42)
  /-- TANH (R66). -/
  | tanh (h : Hdr) (f : BitVec 42)
  /-- CVT_OUT (R153). -/
  | cvtOut (h : Hdr) (f : BitVec 42)
  /-- CVT_IN (R154). -/
  | cvtIn (h : Hdr) (f : BitVec 42)
  /-- FTOI (R155). -/
  | ftoi (h : Hdr) (f : BitVec 42)
  /-- ITOF (R150). -/
  | itof (h : Hdr) (f : BitVec 42)
  /-- IADD (R150). -/
  | iadd (h : Hdr) (f : BitVec 42)
  /-- ISUB (R150). -/
  | isub (h : Hdr) (f : BitVec 42)
  /-- IMUL (R150). -/
  | imul (h : Hdr) (f : BitVec 42)
  /-- IAND (R150). -/
  | iand (h : Hdr) (f : BitVec 42)
  /-- IOR (R150). -/
  | ior (h : Hdr) (f : BitVec 42)
  /-- IXOR (R150). -/
  | ixor (h : Hdr) (f : BitVec 42)
  /-- ISHL (R150). -/
  | ishl (h : Hdr) (f : BitVec 42)
  /-- ISHR (R150). -/
  | ishr (h : Hdr) (f : BitVec 42)
  /-- ISAR (R150). -/
  | isar (h : Hdr) (f : BitVec 42)
  /-- ICMP (R150). -/
  | icmp (h : Hdr) (f : BitVec 42)
  /-- PERM (R150). -/
  | perm (h : Hdr) (f : BitVec 42)
  /-- VRED (R152). -/
  | vred (h : Hdr) (f : BitVec 42)
  /-- BCST (R150). -/
  | bcst (h : Hdr) (f : BitVec 42)
  /-- VEXT (R150). -/
  | vext (h : Hdr) (f : BitVec 42)
  /-- GATH (R156). -/
  | gath (h : Hdr) (f : BitVec 42)
  /-- SCAT (R156). -/
  | scat (h : Hdr) (f : BitVec 42)
  /-- TWIN (R158). -/
  | twin (h : Hdr) (f : BitVec 42)
  /-- TWOUT (R158). -/
  | twout (h : Hdr) (f : BitVec 42)
  /-- TWADD (R158). -/
  | twadd (h : Hdr) (f : BitVec 42)
  /-- SPD (R159). -/
  | spd (h : Hdr) (f : BitVec 42)
  /-- TNOP (R161). -/
  | tnop (h : Hdr) (f : BitVec 42)
  /-- WLD (R163). -/
  | wld (h : Hdr) (f : BitVec 42)
  /-- WLD_F (R163). -/
  | wldF (h : Hdr) (f : BitVec 42)
  /-- WLD_FV (R164). -/
  | wldFv (h : Hdr) (f : BitVec 42)
  /-- MMA (R166). -/
  | mma (h : Hdr) (f : BitVec 42)
  /-- MMA_F (R166). -/
  | mmaF (h : Hdr) (f : BitVec 42)
  /-- ACZ (R167). -/
  | acz (h : Hdr) (f : BitVec 42)
  /-- DRN (R168). -/
  | drn (h : Hdr) (f : BitVec 42)
  /-- TLZ (R170). -/
  | tlz (h : Hdr) (f : BitVec 42)
  /-- TLV (R170). -/
  | tlv (h : Hdr) (f : BitVec 42)
  /-- TLR (R170). -/
  | tlr (h : Hdr) (f : BitVec 42)
  /-- TLM (R170). -/
  | tlm (h : Hdr) (f : BitVec 42)
  /-- CHS (R171). -/
  | chs (h : Hdr) (f : BitVec 42)
  /-- CHR (R171). -/
  | chr (h : Hdr) (f : BitVec 42)
  /-- CHA (R171). -/
  | cha (h : Hdr) (f : BitVec 42)
  /-- MVI (R172). -/
  | mvi (h : Hdr) (f : BitVec 42)
  /-- SRP (R107). -/
  | srp (h : Hdr) (f : BitVec 42)
  /-- SRR (R173). -/
  | srr (h : Hdr) (f : BitVec 42)
  /-- SRT (R173). -/
  | srt (h : Hdr) (f : BitVec 42)
  /-- TENSOR_COMPLETE (R83). -/
  | tensorComplete (core : Nat) (unit : Nat)
  /-- EXCEPTION_REPORT (R118). -/
  | exceptionReport (core : Nat)
  /-- LOAD_DATA_RETURN (R305). -/
  | loadDataReturn (core : Nat) (tag : Nat)
  /-- SB_ENTRY_TIMEOUT (R303). -/
  | sbEntryTimeout (core : Nat) (ent : Nat)
  /-- STORE_PERFORMED (R295). -/
  | storePerformed (core : Nat) (ent : Nat)
  /-- WAITP_REREAD (R139). -/
  | waitpReread (core : Nat)
  /-- WAITM_REREAD (R140). -/
  | waitmReread (core : Nat)
  /-- CORE_CLOCK_GATE (R114). -/
  | coreClockGate (core : Nat)
  /-- HINT_WRITE (R88). -/
  | hintWrite (core : Nat) (addr : Nat) (data : List Byte)
  /-- CHAIN_WORD_ARRIVAL (R182). -/
  | chainWordArrival (core : Nat) (slot : Nat)
  /-- CHAIN_CELL_CLOSE_TIMEOUT (R183). -/
  | chainCellCloseTimeout (core : Nat) (slot : Nat)
  /-- NOP_CMD (R329). -/
  | nopCmd (q : Nat)
  /-- MOVE (R330). -/
  | moveCmd (q : Nat)
  /-- LAUNCH (R111). -/
  | launchCmd (q : Nat)
  /-- LAUNCH_IMAGE_LOADED (R111). -/
  | launchImageLoaded (q : Nat)
  /-- LAUNCH_COMPLETE (R112). -/
  | launchComplete (q : Nat)
  /-- SIGNAL (R341). -/
  | signalCmd (q : Nat)
  /-- WAIT (R343). -/
  | waitCmd (q : Nat)
  /-- FENCE_POLL (R343). -/
  | fencePoll (q : Nat)
  /-- CLEAR (R32). -/
  | clearCmd (q : Nat)
  /-- CLEARING_STEP_DONE (R32). -/
  | clearingStepDone (q : Nat)
  /-- PROOF (R470). -/
  | proofCmd (q : Nat)
  /-- PROOF_CAPTURE_DONE (R473). -/
  | proofCaptureDone
  /-- PROOF_PAGE_COPY (R472). -/
  | proofPageCopy (page : Nat)
  /-- RESTORE (R487). -/
  | restoreCmd (q : Nat)
  /-- RESLICE (R489). -/
  | resliceCmd (q : Nat)
  /-- XLT_SYNC (R214). -/
  | xltSync (q : Nat)
  /-- XLT_INVAL (R227). -/
  | xltInval (q : Nat)
  /-- XLT_INVAL_DRAIN_DONE (R228). -/
  | xltInvalDrainDone
  /-- BIAS_SET (R249). -/
  | biasSet (q : Nat)
  /-- BIAS_WRITEBACK_DONE (R249). -/
  | biasWritebackDone (q : Nat)
  /-- WINDOW_MOVE (R252). -/
  | windowMove (q : Nat)
  /-- QUEUE_WAKE (R323). -/
  | queueWake (q : Nat)
  /-- DESC_REREAD (R324). -/
  | descReread (q : Nat)
  /-- FALLBACK_POLL (R323). -/
  | fallbackPoll
  /-- MOVER_ACCEPT (R200). -/
  | moverAccept (m : Nat)
  /-- TILE_CHECK (R219). -/
  | tileCheck (m : Nat)
  /-- TABLE_WALK_DONE (R216). -/
  | tableWalkDone (root : Nat) (va : Nat)
  /-- MOVER_TRANSACTION_DONE (R203). -/
  | moverTransactionDone (m : Nat) (txn : Nat)
  /-- STREAM_COMPLETE (R204). -/
  | streamComplete (m : Nat)
  /-- FAULT_RECORD_WRITE (R225). -/
  | faultRecordWrite
  /-- FQ_HEAD_UPDATE (R224). -/
  | fqHeadUpdate
  /-- SCRUB_PATROL (R241). -/
  | scrubPatrol (line : Nat) (found : Nat)
  /-- KEY_LOAD (R244). -/
  | keyLoad (slot : Nat)
  /-- KEY_ERASE (R244). -/
  | keyErase (slot : Nat)
  /-- KEY_CMD_DONE (R244). -/
  | keyCmdDone
  /-- WIPE_PLATES_CACHES (R255). -/
  | wipePlatesCaches
  /-- UNDER_CRYPTO_ERASE (R255). -/
  | underCryptoErase
  /-- CANOPY_WIPE_DONE (R255). -/
  | canopyWipeDone
  /-- UNDER_OVERWRITE_PAGE (R256). -/
  | underOverwritePage
  /-- COH_L1_INVAL_WRITE (R267). -/
  | cohL1InvalWrite (v : Nat)
  /-- L1_INVAL_DONE (R267). -/
  | l1InvalDone
  /-- COH_L1_EN_WRITE (R266). -/
  | cohL1EnWrite (v : Nat)
  /-- COH_PROBE_ADDR_WRITE (R293). -/
  | cohProbeAddrWrite (v : Nat)
  /-- PROBE_LOOKUP_DONE (R293). -/
  | probeLookupDone
  /-- RD_S (R283). -/
  | rdS (slice : Nat) (line : Nat)
  /-- RD_M (R283). -/
  | rdM (slice : Nat) (line : Nat)
  /-- UPG (R283). -/
  | upg (slice : Nat) (line : Nat)
  /-- OWN (R283). -/
  | own (slice : Nat) (line : Nat)
  /-- RD_CUR (R283). -/
  | rdCur (line : Nat) (sel : Nat)
  /-- WR_INV (R283). -/
  | wrInv (line : Nat) (sel : Nat) (mask : Nat) (data : List Byte)
  /-- WR_HINT (R290). -/
  | wrHint (line : Nat) (sel : Nat) (mask : Nat) (slice : Nat) (data : List Byte)
  /-- SNP_S (R282). -/
  | snpS (slice : Nat) (line : Nat)
  /-- SNP_I (R282). -/
  | snpI (slice : Nat) (line : Nat)
  /-- SNP_CUR (R282). -/
  | snpCur (slice : Nat) (line : Nat)
  /-- ACK_I (R282). -/
  | ackI (slice : Nat) (line : Nat)
  /-- ACK_S (R282). -/
  | ackS (slice : Nat) (line : Nat)
  /-- ACK_FWD (R282). -/
  | ackFwd (slice : Nat) (line : Nat)
  /-- NACK (R287). -/
  | nack (slice : Nat) (line : Nat)
  /-- NACK_RETRY (R287). -/
  | nackRetry (slice : Nat) (line : Nat)
  /-- RESERVATION_LAPSE (R288). -/
  | reservationLapse (slice : Nat) (line : Nat)
  /-- GNT (R281). -/
  | gnt (slice : Nat) (line : Nat)
  /-- CMP (R276). -/
  | cmp (slice : Nat) (line : Nat)
  /-- EVA_ACK (R281). -/
  | evaAck (slice : Nat) (line : Nat)
  /-- DATA (R279). -/
  | dataMsg (dst : Nat) (line : Nat)
  /-- EVA_CLEAN (R278). -/
  | evaClean (slice : Nat) (line : Nat)
  /-- EVA_DIRTY (R281). -/
  | evaDirty (slice : Nat) (line : Nat)
  /-- WATCH_WAKE (R274). -/
  | watchWake (line : Nat)
  /-- HOST_SNP_DATA (R286). -/
  | hostSnpData (line : Nat)
  /-- HOST_SNP_INV (R286). -/
  | hostSnpInv (line : Nat) (data : List Byte)
  /-- HOST_SNP_CUR (R286). -/
  | hostSnpCur (line : Nat)
  /-- HOST_CACHE_RESPONSE (R285). -/
  | hostCacheResponse (line : Nat) (st : Nat)
  /-- BIRSP (R284). -/
  | birsp (line : Nat)
  /-- MEM_RD (R369). -/
  | memRd (link : Nat) (dpa : Nat)
  /-- MEM_WR (R369). -/
  | memWr (link : Nat) (dpa : Nat) (mask : Nat) (poison : Nat) (data : List Byte)
  /-- MEM_INV (R369). -/
  | memInv (link : Nat) (dpa : Nat)
  /-- FLUSH_WORD_READ (R351). -/
  | flushWordRead (q : Nat)
  /-- READ_AHEAD_EXPIRY (R351). -/
  | readAheadExpiry (off : Nat)
  /-- HDM_COMMIT (R368). -/
  | hdmCommit (fn : Nat) (set : Interleave)
  /-- MSIX_UNMASK (R367). -/
  | msixUnmask (vec : Nat) (mask : Nat) (en : Nat) (fmask : Nat)
  /-- IDE_KEY_PROGRAM (R362). -/
  | ideKeyProgram (p : IdeKey)
  /-- LINK_TRAINED (R360). -/
  | linkTrained (link : Nat) (width : Nat) (rate : Nat) (m : LinkMode)
  /-- DL_DOWN (R375). -/
  | dlDown (link : Nat)
  /-- RECOVERY_TIMEOUT (R375). -/
  | recoveryTimeout (link : Nat)
  /-- VIRAL (R375). -/
  | viral (link : Nat)
  /-- LINK_RECOVERY_RETURN (R379). -/
  | linkRecoveryReturn (link : Nat) (replays : Nat)
  /-- LINK_LOST_TIMEOUT (R376). -/
  | linkLostTimeout
  /-- LINK_UP_AFTER_LOSS (R378). -/
  | linkUpAfterLoss (link : Nat) (width : Nat) (rate : Nat) (m : LinkMode)
  /-- L0P_NARROW (R373). -/
  | l0pNarrow (link : Nat)
  /-- L0P_WIDEN (R373). -/
  | l0pWiden (link : Nat)
  /-- ASPM_L1_ENTRY (R374). -/
  | aspmL1Entry (link : Nat)
  /-- ASPM_L1_EXIT (R374). -/
  | aspmL1Exit (link : Nat)
  /-- RIDE_MODE_WRITE (R383). -/
  | rideModeWrite (port : Nat) (v : Nat)
  /-- PORT_TRAINED (R383). -/
  | portTrained (port : Nat)
  /-- IDENT (R383). -/
  | ident (port : Nat) (serial : Nat) (nport : Nat) (mode : Nat)
  /-- IDLE_CELL (R384). -/
  | idleCell (port : Nat) (hdr : Nat)
  /-- CHAIN_CELL (R185). -/
  | chainCell (port : Nat) (hdr : Nat) (data : List Byte)
  /-- TILE_CELL (R391). -/
  | tileCell (port : Nat) (hdr : Nat) (data : List Byte)
  /-- TILE_ACK (R391). -/
  | tileAck (port : Nat) (hdr : Nat) (data : List Byte)
  /-- FENCE_CELL (R342). -/
  | fenceCell (port : Nat) (hdr : Nat) (data : List Byte)
  /-- FENCE_ACK (R342). -/
  | fenceAck (port : Nat) (hdr : Nat) (data : List Byte)
  /-- WIN_RD (R393). -/
  | winRd (port : Nat) (hdr : Nat) (data : List Byte)
  /-- WIN_WR (R393). -/
  | winWr (port : Nat) (hdr : Nat) (data : List Byte)
  /-- WIN_RSP (R385). -/
  | winRsp (port : Nat) (hdr : Nat) (data : List Byte)
  /-- CELL_REPLAY_TIMEOUT (R387). -/
  | cellReplayTimeout (port : Nat)
  /-- LANE_LOCK_LOST (R387). -/
  | laneLockLost (port : Nat)
  /-- PORT_RETRAIN (R383). -/
  | portRetrain (port : Nat)
  /-- RDMA_WRITE (R396). -/
  | rdmaWrite (port : Nat) (rkey : Nat) (va : Nat) (data : List Byte)
  /-- RDMA_READ (R396). -/
  | rdmaRead (port : Nat) (rkey : Nat) (va : Nat) (len : Nat)
  /-- RDMA_RESPONSE (R477). -/
  | rdmaResponse (ok : Nat) (data : List Byte)
  /-- ECN_MARKED_PACKET (R395). -/
  | ecnMarkedPacket (port : Nat) (qp : Nat) (gap : Nat)
  /-- CNP (R395). -/
  | cnp (port : Nat) (qp : Nat)
  /-- PROOF_BEGIN (R476). -/
  | proofBegin (port : Nat) (hdr : Nat) (data : List Byte)
  /-- PROOF_DATA (R476). -/
  | proofData (port : Nat) (hdr : Nat) (data : List Byte)
  /-- PROOF_COMMIT (R476). -/
  | proofCommit (port : Nat) (hdr : Nat) (data : List Byte)
  /-- PROOF_ACK (R476). -/
  | proofAck (port : Nat) (hdr : Nat) (data : List Byte)
  /-- READ_REQ (R486). -/
  | readReq (port : Nat) (hdr : Nat) (data : List Byte)
  /-- READ_DATA (R486). -/
  | readData (port : Nat) (hdr : Nat) (data : List Byte)
  /-- PROOF_ABORT (R479). -/
  | proofAbort (port : Nat) (hdr : Nat) (data : List Byte)
  /-- HEARTBEAT (R482). -/
  | heartbeat (port : Nat) (hdr : Nat) (data : List Byte)
  /-- HEARTBEAT_SEND (R482). -/
  | heartbeatSend
  /-- PAIR_LOST (R485). -/
  | pairLost
  /-- PAIR_SENSE_LOW (R527). -/
  | pairSenseLow
  /-- CAPPING_INTERVAL (R413). -/
  | cappingInterval (volt : Nat) (curr : Nat) (cnt : List Nat)
  /-- VF_STEP_SETTLED (R412). -/
  | vfStepSettled (dom : Nat)
  /-- K_UPDATE (R416). -/
  | kUpdate
  /-- EST_DIVERGE (R417). -/
  | estDiverge
  /-- MEAS_IMPLAUSIBLE (R418). -/
  | measImplausible (cause : Nat)
  /-- CAP_UNREACHABLE (R420). -/
  | capUnreachable
  /-- CAP_REACHED (R420). -/
  | capReached
  /-- SAG_END (R404). -/
  | sagEnd (low : Nat) (dur : Nat)
  /-- RIPPLE_WINDOW (R404). -/
  | rippleWindow (pp : Nat)
  /-- FEED_LOSS (R422). -/
  | feedLoss
  /-- FEED_LOSS_WRITES_SENT (R422). -/
  | feedLossWritesSent
  /-- PWR_GOOD_LOW (R525). -/
  | pwrGoodLow
  /-- THROTTLE_IN_ASSERT (R426). -/
  | throttleInAssert (gap : Nat)
  /-- THROTTLE_IN_DEASSERT (R426). -/
  | throttleInDeassert
  /-- FEED_ALERT_ASSERT (R426). -/
  | feedAlertAssert (gap : Nat)
  /-- FEED_ALERT_DEASSERT (R426). -/
  | feedAlertDeassert
  /-- PIN_STUCK (R427). -/
  | pinStuck (pin : Nat)
  /-- PIN_CHATTER_END (R427). -/
  | pinChatterEnd (pin : Nat)
  /-- PLDM_GRANT (R429). -/
  | pldmGrant (grant : Nat)
  /-- SENSOR_REFRESH (R428). -/
  | sensorRefresh
  /-- PWR_CAP_WRITE (R433). -/
  | pwrCapWrite (v : Nat)
  /-- THERMAL_CHECK (R535). -/
  | thermalCheck (temps : List Nat)
  /-- ERROR_DETECTED (R443). -/
  | errorDetected (record : Nat) (src : Nat) (synd : Nat) (addr : Nat)
  /-- BLOCK_RESET_END (R444). -/
  | blockResetEnd (record : Nat)
  /-- QUIET_PERIOD_EXPIRY (R443). -/
  | quietPeriodExpiry (record : Nat)
  /-- FR_FORCE (R453). -/
  | frForce (record : Nat) (v : Nat)
  /-- FR_INJECT_ARM (R452). -/
  | frInjectArm (record : Nat) (v : Nat)
  /-- FR_STATUS_CLEAR (R439). -/
  | frStatusClear (record : Nat)
  /-- FLT_PIN_CLEAR (R463). -/
  | fltPinClear
  /-- DELAY_MONITOR (R454). -/
  | delayMonitor (record : Nat) (v : Nat) (rings : Nat)
  /-- WEAR_FIT (R456). -/
  | wearFit (days : Nat) (core : Nat) (d0 : Nat) (d1 : Nat) (d2 : Nat) (d3 : Nat)
  /-- LOOKOUT_UPDATE (R458). -/
  | lookoutUpdate (ces : Nat) (sags : Nat)
  /-- RANGER_LOAD_CHECK (R460). -/
  | rangerLoadCheck (load : Nat)
  /-- WATCHDOG (R461). -/
  | watchdog
  /-- POWER_ON (R496). -/
  | powerOn
  /-- RESET_PIN (R496). -/
  | resetPin
  /-- SOFTWARE_RESET (R496). -/
  | softwareReset
  /-- RESET_RELEASE (R524). -/
  | resetRelease (strap : Nat)
  /-- RAMP_COMPLETE (R498). -/
  | rampComplete
  /-- FUSE_CHECK_DONE (R498). -/
  | fuseCheckDone
  /-- SELF_TEST_DONE (R500). -/
  | selfTestDone (failed : List Nat)
  /-- CONFIG_READY (R498). -/
  | configReady
  /-- FW_LOAD (R501). -/
  | fwLoad
  /-- FIRMWARE_VERIFIED (R502). -/
  | firmwareVerified
  /-- WEAR_LOAD (R505). -/
  | wearLoad
  /-- ENABLE (R506). -/
  | enableCmd
  /-- ENABLE_CHECK_DONE (R507). -/
  | enableCheckDone
  /-- DISABLE (R509). -/
  | disableCmd
  /-- SHUTDOWN (R509). -/
  | shutdown
  /-- DISABLE_END (R509). -/
  | disableEnd
  /-- DEPLOY (R508). -/
  | deploy
  /-- DECOMMISSION (R508). -/
  | decommission
  /-- READ_FAULT_LOG (R520). -/
  | readFaultLog (tag : Nat) (len : Nat)
  /-- READ_DISTURBANCE_LOG (R520). -/
  | readDisturbanceLog (tag : Nat) (len : Nat)
  /-- MBX_REQUEST_DONE (R520). -/
  | mbxRequestDone
  /-- RC_READ (R517). -/
  | rcRead (a : Access)
  /-- REGISTER_WRITE (R9). -/
  | registerWrite (off : Nat) (size : Nat) (v : Nat)
  /-- POWER_LOSS (R425). -/
  | powerLoss
  /-- ZERO_LENGTH_READ_COMPLETION (R372). -/
  | zeroLengthReadCompletion (link : Nat)
  /-- RECOVERY_ENTRY (R375). -/
  | recoveryEntry (link : Nat)
  /-- BLOCK_LOCK_LOSS (R387). -/
  | blockLockLoss (port : Nat) (lanes : Nat)
  /-- BAD_CELL (R387). -/
  | badCell (port : Nat) (kind : Nat)
  /-- RDMA_RETRY_TIMEOUT (R397). -/
  | rdmaRetryTimeout
  /-- OVERWRITE_BROUGHT_FORWARD (R256). -/
  | overwriteBroughtForward (page : Nat)
  deriving DecidableEq, Repr

end Sys2Proof
end

