-- ==== Sys2Proof/Decode.lean ====
section
/-! DEFINITION. Reading a command from a table word. The opcode table gives its rows no bits: the complex takes commands, not words. -/

namespace Sys2Proof

/-- The command that a word of `nbits` bits spells: none, since the table gives no bits. -/
def decodeTableWord (_nbits _w : Nat) : Option Instr := none

end Sys2Proof
end

