-- ==== Sys2Proof/Config.lean ====
section
/-! DEFINITION. What an implementation fixes and what the spec leaves open. Every constant here is opaque: nothing can be proved of its value. -/

namespace Sys2Proof.Config

/-- A value the spec leaves open, fresh for every value of the counter `State.free`: the model's free values. -/
opaque freeNat : Nat → Nat

/-- Whether an ECDSA P-384 signature over a SHA-384 digest verifies under the fused public key of a signing key: key,
digest, signature (R502). The keys' values are not in the spec. -/
opaque sigOk : Nat → Nat → Nat → Bool

/-- The part serial (R353), as fused. -/
opaque serial : Nat

/-- The value bytes of a discovery ROM record from its TYPE and the numbers it states, in R353's order: the rule gives the
numbers and not the places of a value's parts. -/
opaque romValue : Nat → List Nat → List Byte

/-- The part's stepping (R353, R363). -/
opaque stepping : Nat

/-- Bytes of a function's CXL component registers (R366): function, offset in the block, and the function's committed ways. CXL
3.x lays them out, and the spec does not. -/
opaque compByte : Nat → Nat → Nat → Byte

/-- Double words of a function's configuration space that R363 to R365 leave to PCIe: function and offset. -/
opaque cfgFree : Nat → Nat → Nat

/-- Estimator weight of a domain's counter in fJ (R416): domain 0 to 4, counter in R415's order. -/
opaque calWeight : Nat → Nat → Nat

/-- Leakage in mW of a domain at a point and a temperature in °C (R415): L60 × (L100 / L60)^((T − 60) / 40). -/
opaque calLeak : Nat → Nat → Nat → Nat

/-- MEM_FLOOR of the CALIBRATION record in DU (R416). -/
opaque memFloor : Nat

/-- The proof engine's internal key pair (R253). -/
opaque reserveKey : Nat

/-- Size of the partner's proof slots in GiB (R471): nothing reports it to the source. -/
opaque partnerSlot : Nat

/-- CONTEXT of the SIGNAL that a sender sent as a fence message: its part serial and MSGID (R347). No cell carries it. -/
opaque senderContext : Nat → Nat → Nat

/-- Whether the host supports RdOwnNoData (R285, R371). -/
opaque rdOwnNoData : Bool

end Sys2Proof.Config
end

