-- ==== Sys2Proof/Machine/Tab.lean ====
section
/-! DEFINITION. Sparse tables: a list of (key, value) pairs in one canonical form (keys strictly rising, no entry equal to what an unlisted key reads as). Every array of the complex (plates, registers, cache ways, queues) is one. -/

namespace Sys2Proof.Machine

/-- A sparse table; an unlisted key `k` reads as `d k` for the table's default `d`. -/
abbrev Tab (α : Type) := List (Nat × α)

/-- The value at `k`. -/
def tabGet {α : Type} (d : Nat → α) : Tab α → Nat → α
  | [], k => d k
  | (j, v) :: r, k => if j = k then v else tabGet d r k

/-- Places an entry before the first entry with a greater key. -/
def tabIns {α : Type} (k : Nat) (v : α) : Tab α → Tab α
  | [] => [(k, v)]
  | (j, w) :: r => if k < j then (k, v) :: (j, w) :: r else (j, w) :: tabIns k v r

/-- The table without an entry at `k`. -/
def tabDel {α : Type} (k : Nat) : Tab α → Tab α
  | [] => []
  | (j, w) :: r => if j = k then tabDel k r else (j, w) :: tabDel k r

/-- Writes `v` at `k`; writing what an unlisted key reads as removes the entry. -/
def tabSet {α : Type} [DecidableEq α] (d : Nat → α) (t : Tab α) (k : Nat) (v : α) : Tab α :=
  if v = d k then tabDel k t else tabIns k v (tabDel k t)

/-- Keys strictly rising, all at or above `lo`. -/
def tabSorted {α : Type} : Nat → Tab α → Bool
  | _, [] => true
  | lo, (k, _) :: r => decide (lo ≤ k) && tabSorted (k + 1) r

/-- The canonical form: keys strictly rising, and no entry equal to the default at its key. -/
def tabWf {α : Type} [DecidableEq α] (d : Nat → α) (t : Tab α) : Bool :=
  tabSorted 0 t && t.all (fun p => decide (p.2 ≠ d p.1))

/-- A set of numbers as a strictly rising list. -/
abbrev NatSet := List Nat

/-- Adds `n` to a set. -/
def setAdd (n : Nat) : NatSet → NatSet
  | [] => [n]
  | m :: r => if n < m then n :: m :: r else if n = m then m :: r else m :: setAdd n r

/-- Removes `n` from a set. -/
def setDel (n : Nat) : NatSet → NatSet
  | [] => []
  | m :: r => if m = n then setDel n r else m :: setDel n r

end Sys2Proof.Machine
end

