-- ==== Sys2Proof/Machine/Bits.lean ====
section
/-! DEFINITION. Bit fields, sign extension and byte order (R5): every multi-byte structure is little-endian, and a range [hi:lo] has bit 0 least significant. -/

namespace Sys2Proof.Machine

/-- Bits [hi:lo] of a natural number (R5). -/
def bitsOf (x hi lo : Nat) : Nat := (x >>> lo) % 2 ^ (hi + 1 - lo)

/-- Bit `i` of a natural number. -/
def bitOf (x i : Nat) : Bool := x.testBit i

/-- `x` with bits [hi:lo] replaced by the low bits of `v`. -/
def putBits (x hi lo v : Nat) : Nat :=
  let w := hi + 1 - lo
  x - (bitsOf x hi lo) * 2 ^ lo + (v % 2 ^ w) * 2 ^ lo

/-- 1 or 0. -/
def bnat (b : Bool) : Nat := if b then 1 else 0

/-- The two's-complement value of the low `w` bits of `x`. -/
def sextInt (w x : Nat) : Int :=
  let y := x % 2 ^ w
  if w = 0 then 0 else if y < 2 ^ (w - 1) then (y : Int) else (y : Int) - (2 ^ w : Nat)

/-- An integer modulo 2^w as a natural number. -/
def wrapInt (w : Nat) (i : Int) : Nat := (i % ((2 ^ w : Nat) : Int)).toNat

/-- Little-endian value of a byte list (R5). -/
def leNat : List Byte → Nat
  | [] => 0
  | b :: r => b.toNat + 256 * leNat r

/-- The `n` little-endian bytes of `x` (R5). -/
def leBytes : Nat → Nat → List Byte
  | 0, _ => []
  | n + 1, x => BitVec.ofNat 8 x :: leBytes n (x / 256)

/-- Byte `i` of a list, zero beyond its end. -/
def byteAt (l : List Byte) (i : Nat) : Byte := l.getD i 0

/-- Little-endian field of `n` bytes at offset `o` of a byte list. -/
def fieldAt (l : List Byte) (o n : Nat) : Nat := leNat ((l.drop o).take n)

/-- `n` consecutive bytes read through `g` from `a`. -/
def bytesFrom (g : Nat → Byte) (a : Nat) : Nat → List Byte
  | 0 => []
  | n + 1 => g a :: bytesFrom g (a + 1) n

/-- Writes consecutive bytes into a table whose unlisted bytes read as zero. -/
def tabPut (t : Tab Byte) (a : Nat) : List Byte → Tab Byte
  | [] => t
  | b :: r => tabPut (tabSet (fun _ => 0) t a b) (a + 1) r

/-- `n` consecutive bytes of a table whose unlisted bytes read as zero. -/
def tabBytes (t : Tab Byte) (a n : Nat) : List Byte := bytesFrom (tabGet (fun _ => 0) t) a n

/-- Replaces `n` list elements from position `o` by those of `r`. -/
def listPut {α : Type} (l : List α) (o : Nat) (r : List α) : List α := l.take o ++ r ++ l.drop (o + r.length)

/-- All naturals below `n` satisfying `p`, rising. -/
def below (n : Nat) (p : Nat → Bool) : List Nat := (List.range n).filter p

/-- Smallest natural below `n` satisfying `p`. -/
def firstBelow (n : Nat) (p : Nat → Bool) : Option Nat := (List.range n).find? p

/-- Lane `i` of a vector register, zero beyond lane 63 (R78). -/
def lane (v : VReg) (i : Nat) : W32 := v.getD i 0

/-- The vector register with lane `i` equal to `g i`. -/
def vbuild (g : Nat → W32) : VReg := (List.range 64).map g

/-- The zero vector register. -/
def vzero : VReg := List.replicate 64 0

/-- The 256 bytes of a vector register, lane 0 first, each lane little-endian (R147). -/
def vbytes (v : VReg) : List Byte := (List.range 64).flatMap (fun i => leBytes 4 (lane v i).toNat)

/-- The vector register holding 256 bytes. -/
def vofBytes (l : List Byte) : VReg := vbuild (fun i => BitVec.ofNat 32 (fieldAt l (4 * i) 4))

/-- Ceiling division. -/
def cdiv (a b : Nat) : Nat := (a + b - 1) / b

/-- Adds `n` to a counter that stays at its largest value `2^w - 1` once reached. -/
def satAdd (w c n : Nat) : Nat := min (c + n) (2 ^ w - 1)

end Sys2Proof.Machine
end

