-- ==== Sys2Proof/Machine/Crypto.lean ====
section
/-! DEFINITION. The published functions the spec names: Philox4x32-10 (R55), AES-256-XTS (R242), SHA-384 (the image digests) and the CRC-32 of IEEE 802.3 (R353). -/

namespace Sys2Proof.Machine

/-- One Philox round (R55) on words x₀ … x₃ and keys k₀, k₁. -/
def philoxRound (x : Nat × Nat × Nat × Nat) (k0 k1 : Nat) : Nat × Nat × Nat × Nat :=
  let p0 := 0xD2511F53 * x.1
  let p1 := 0xCD9E8D57 * x.2.2.1
  let w := 2 ^ 32
  ((p1 / w) ^^^ x.2.1 ^^^ k0, p1 % w, (p0 / w) ^^^ x.2.2.2 ^^^ k1, p0 % w)

/-- `n` Philox rounds, the key stepping after each (R55). -/
def philoxRounds : Nat → Nat × Nat × Nat × Nat → Nat → Nat → Nat × Nat × Nat × Nat
  | 0, x, _, _ => x
  | n + 1, x, k0, k1 =>
    philoxRounds n (philoxRound x k0 k1) ((k0 + 0x9E3779B9) % 2 ^ 32) ((k1 + 0xBB67AE85) % 2 ^ 32)

/-- The 128-bit draw of counter `c` and key `k` (R55). -/
def philox (k c : Nat) : Nat :=
  let r := philoxRounds 10 (bitsOf c 31 0, bitsOf c 63 32, bitsOf c 95 64, bitsOf c 127 96) (bitsOf k 31 0) (bitsOf k 63 32)
  r.1 + 2 ^ 32 * r.2.1 + 2 ^ 64 * r.2.2.1 + 2 ^ 96 * r.2.2.2

/-- The AES S-box, entry i in bits [8i+7:8i]. -/
def aesSBox : Nat := 0x16bb54b00f2d99416842e6bf0d89a18cdf2855cee9871e9b948ed9691198f8e19e1dc186b95735610ef6034866b53e708a8bbd4b1f74dde8c6b4a61c2e2578ba08ae7a65eaf4566ca94ed58d6d37c8e779e4959162acd3c25c2406490a3a32e0db0b5ede14b8ee4688902a22dc4f816073195d643d7ea7c41744975fec130ccdd2f3ff1021dab6bcf5389d928f40a351a89f3c507f02f94585334d43fbaaefd0cf584c4a39becb6a5bb1fc20ed00d153842fe329b3d63b52a05a6e1b1a2c830975b227ebe28012079a059618c323c7041531d871f1e5a534ccf73f362693fdb7c072a49cafa2d4adf04759fa7dc982ca76abd7fe2b670130c56f6bf27b777c63

/-- The inverse AES S-box. -/
def aesInvBox : Nat := 0x7d0c2155631469e126d677ba7e042b17619953833cbbebc8b0f52aae4d3be0a0ef9cc9939f7ae52d0d4ab519a97f51605fec8027591012b131c7078833a8dd1ff45acd78fec0db9a2079d2c64b3e56fc1bbe18aa0e62b76f89c5291d711af1476edf751ce837f9e28535ade72274ac9673e6b4f0cecff297eadc674f4111913a6b8a130103bdafc1020f3fca8f1e2cd00645b3b80558e4f70ad3bc8c00abd890849d8da75746155edab9edfd5048706c92b6655dcc5ca4d41698688664f6f87225d18b6d49a25b76b224d92866a12e084ec3fa420b954cee3d23c2a632947b54cbe9dec444438e3487ff2f9b8239e37cfbd7f3819ea340bf38a53630d56a0952

/-- S-box lookup. -/
def aesSub (b : Nat) : Nat := (aesSBox >>> (8 * b)) % 256

/-- Inverse S-box lookup. -/
def aesInvSub (b : Nat) : Nat := (aesInvBox >>> (8 * b)) % 256

/-- Multiplication by x in the AES field. -/
def aesX (b : Nat) : Nat := let c := 2 * b; if c < 256 then c else (c ^^^ 0x11B) % 256

/-- Multiplication by a constant below 16 in the AES field. -/
def aesMul (c b : Nat) : Nat :=
  (if c.testBit 0 then b else 0) ^^^ (if c.testBit 1 then aesX b else 0) ^^^
  (if c.testBit 2 then aesX (aesX b) else 0) ^^^ (if c.testBit 3 then aesX (aesX (aesX b)) else 0)

/-- Byte-wise exclusive or of two byte lists. -/
def xorB (a b : List Nat) : List Nat := List.zipWith (fun x y => x ^^^ y) a b

/-- Key expansion of AES-256: `n` more 4-byte words, newest first, from word index `i`. -/
def aesExpand : Nat → Nat → List (List Nat) → List (List Nat)
  | 0, _, ws => ws
  | n + 1, i, ws =>
    let prev := ws.headD []
    let back := ws.getD 7 []
    let t :=
      if i % 8 = 0 then
        let r := (prev.drop 1 ++ prev.take 1).map aesSub
        xorB r [2 ^ (i / 8 - 1), 0, 0, 0]
      else if i % 8 = 4 then prev.map aesSub
      else prev
    aesExpand n (i + 1) (xorB back t :: ws)

/-- The 15 round keys of a 32-byte key, each 16 bytes. -/
def aesKeys (key : List Nat) : List (List Nat) :=
  let w0 := (List.range 8).map (fun i => (key.drop (4 * i)).take 4)
  let ws := (aesExpand 52 8 w0.reverse).reverse
  (List.range 15).map (fun r => ((ws.drop (4 * r)).take 4).flatten)

/-- ShiftRows: byte i of the result is byte 5i mod 16. -/
def aesShift (s : List Nat) : List Nat := (List.range 16).map (fun i => s.getD (5 * i % 16) 0)

/-- Inverse ShiftRows. -/
def aesUnshift (s : List Nat) : List Nat := (List.range 16).map (fun i => s.getD (13 * i % 16) 0)

/-- MixColumns with the coefficient row `c`. -/
def aesMix (c : List Nat) (s : List Nat) : List Nat :=
  (List.range 16).map (fun i =>
    (List.range 4).foldl (fun a j => a ^^^ aesMul (c.getD ((j + 4 - i % 4) % 4) 0) (s.getD (4 * (i / 4) + j) 0)) 0)

/-- AES-256 encryption of a 16-byte block under its round keys. -/
def aesEnc (ks : List (List Nat)) (b : List Nat) : List Nat :=
  let s := (List.range 13).foldl (fun s r => xorB (aesMix [2, 3, 1, 1] (aesShift (s.map aesSub))) (ks.getD (r + 1) []))
    (xorB b (ks.getD 0 []))
  xorB (aesShift (s.map aesSub)) (ks.getD 14 [])

/-- AES-256 decryption. -/
def aesDec (ks : List (List Nat)) (b : List Nat) : List Nat :=
  let s := (List.range 13).foldl (fun s r =>
      aesMix [14, 11, 13, 9] (xorB ((aesUnshift s).map aesInvSub) (ks.getD (13 - r) [])))
    (xorB b (ks.getD 14 []))
  xorB ((aesUnshift s).map aesInvSub) (ks.getD 0 [])

/-- XTS: the tweak times α in GF(2^128), little-endian. -/
def xtsNext (t : Nat) : Nat := let u := 2 * t; if u < 2 ^ 128 then u else (u - 2 ^ 128) ^^^ 0x87

/-- The natural numbers of a byte list. -/
def natBytes (l : List Byte) : List Nat := l.map (·.toNat)

/-- A 512-bit key pair's data key (bits [255:0]) and tweak key (bits [511:256]) as byte lists (R242). -/
def xtsKeys (pair : Nat) : List Nat × List Nat :=
  (natBytes (leBytes 32 pair), natBytes (leBytes 32 (pair / 2 ^ 256)))

/-- One 64-byte XTS data unit under `f` (aesEnc or aesDec) with tweak `tw`, the line's PA[45:6] (R242). -/
def xtsUnit (f : List (List Nat) → List Nat → List Nat) (pair tw : Nat) (l : List Byte) : List Byte :=
  let k := xtsKeys pair
  let kd := aesKeys k.1
  let t0 := leNat ((aesEnc (aesKeys k.2) (natBytes (leBytes 16 tw))).map (BitVec.ofNat 8))
  let go := (List.range 4).foldl (fun (p : List Nat × Nat) i =>
    let t := natBytes (leBytes 16 p.2)
    let b := natBytes ((l.drop (16 * i)).take 16)
    (p.1 ++ xorB (f kd (xorB b t)) t, xtsNext p.2)) ([], t0)
  go.1.map (BitVec.ofNat 8)

/-- XTS encryption of a line. -/
def xtsEnc (pair tw : Nat) (l : List Byte) : List Byte := xtsUnit aesEnc pair tw l

/-- XTS decryption of a line. -/
def xtsDec (pair tw : Nat) (l : List Byte) : List Byte := xtsUnit aesDec pair tw l

/-- SHA-512 round constants, in five groups of sixteen 64-bit words. -/
def shaKs : List Nat := [
  0xc19bf174cf6926949bdc06a725c7123580deb1fe3b1696b172be5d74f27b896f550c7dc3d5ffb4e2243185be4ee4b28c12835b0145706fbed807aa98a3030242ab1c5ed5da6d8118923f82a4af194f9b59f111f1b605d0193956c25bf348b538e9b5dba58189dbbcb5c0fbcfec4d3b2f7137449123ef65cd428a2f98d728ae22,
  0x142929670a0e6e7006ca6351e003826fd5a79147930aa725c6e00bf33da88fc2bf597fc7beef0ee4b00327c898fb213fa831c66d2db43210983e5152ee66dfab76f988da831153b55cb0a9dcbd41fbd44a7484aa6ea6e4832de92c6f592b0275240ca1cc77ac9c650fc19dc68b8cd5b5efbe4786384f25e3e49b69c19ef14ad2,
  0x106aa07032bbd1b8f40e35855771202ad69906245565a910d192e819d6ef5218c76c51a30654be30c24b8b70d0f89791a81a664bbc423001a2bfe8a14cf1036492722c851482353b81c2c92e47edaee6766a0abb3c77b2a8650a73548baf63de53380d139d95b3df4d2c6dfc5ac42aed2e1b21385c26c92627b70a8546d22ffc,
  0xc67178f2e372532bbef9a3f7b2c67915a4506cebde82bde990befffa23631e288cc702081a6439ec84c87814a1f0ab7278a5636f43172f60748f82ee5defb2fc682e6ff3d6b2b8a35b9cca4f7763e3734ed8aa4ae3418acb391c0cb3c5c95a6334b0bcb5e19b48a82748774cdf8eeb991e376c085141ab5319a4c116b8d2d0c8,
  0x6c44198c4a4758175fcb6fab3ad6faec597f299cfc657e2a4cc5d4becb3e42b6431d67c49c100d4c3c9ebe0a15c9bebc32caab7b40c7249328db77f523047d841b710b35131c471b113f9804bef90dae0a637dc5a2c898a606f067aa72176fbaf57d4f7fee6ed178eada7dd6cde0eb1ed186b8c721c0c207ca273eceea26619c]

/-- Round constant `i`. -/
def shaK (i : Nat) : Nat := ((shaKs.getD (i / 16) 0) >>> (64 * (i % 16))) % 2 ^ 64

/-- The initial hash words of SHA-384. -/
def shaH0 : List Nat := (List.range 8).map (fun i => (0x47b5481dbefa4fa4db0c2e0d64f98fa78eb44a876858151167332667ffc00b31152fecd8f70e59399159015a3070dd17629a292a367cd507cbbb9d5dc1059ed8 >>> (64 * i)) % 2 ^ 64)

/-- 64-bit right rotation. -/
def rotr64 (x n : Nat) : Nat := (x >>> n) ||| ((x <<< (64 - n)) % 2 ^ 64)

/-- 64-bit sum. -/
def add64 (l : List Nat) : Nat := l.foldl (fun a b => a + b) 0 % 2 ^ 64

/-- Message schedule: `n` more words, newest first. -/
def shaSched : Nat → List Nat → List Nat
  | 0, w => w
  | n + 1, w =>
    let a := w.getD 1 0
    let b := w.getD 14 0
    let s1 := rotr64 a 19 ^^^ rotr64 a 61 ^^^ (a >>> 6)
    let s0 := rotr64 b 1 ^^^ rotr64 b 8 ^^^ (b >>> 7)
    shaSched n (add64 [w.getD 15 0, s0, w.getD 6 0, s1] :: w)

/-- Big-endian value of a byte list. -/
def beNat (l : List Byte) : Nat := l.foldl (fun a b => 256 * a + b.toNat) 0

/-- Compression of one 128-byte block. -/
def shaBlock (h : List Nat) (blk : List Byte) : List Nat :=
  let w0 := (List.range 16).map (fun i => beNat ((blk.drop (8 * i)).take 8))
  let w := (shaSched 64 w0.reverse).reverse
  let step := fun (s : List Nat) (i : Nat) =>
    let e := s.getD 4 0
    let a := s.getD 0 0
    let t1 := add64 [s.getD 7 0, rotr64 e 14 ^^^ rotr64 e 18 ^^^ rotr64 e 41,
      (e &&& s.getD 5 0) ^^^ ((2 ^ 64 - 1 - e) &&& s.getD 6 0), shaK i, w.getD i 0]
    let t2 := add64 [rotr64 a 28 ^^^ rotr64 a 34 ^^^ rotr64 a 39,
      (a &&& s.getD 1 0) ^^^ (a &&& s.getD 2 0) ^^^ (s.getD 1 0 &&& s.getD 2 0)]
    [add64 [t1, t2], a, s.getD 1 0, s.getD 2 0, add64 [s.getD 3 0, t1], e, s.getD 5 0, s.getD 6 0]
  List.zipWith (fun x y => (x + y) % 2 ^ 64) h ((List.range 80).foldl step h)

/-- The 48-byte SHA-384 digest of a byte list, as a big-endian number. -/
def sha384 (m : List Byte) : Nat :=
  let n := m.length
  let pad := (240 - (n + 1) % 128) % 128
  let full := m ++ [0x80#8] ++ List.replicate pad 0 ++ (leBytes 16 (8 * n)).reverse
  let h := (List.range (full.length / 128)).foldl (fun h i => shaBlock h ((full.drop (128 * i)).take 128)) shaH0
  (h.take 6).foldl (fun a b => 2 ^ 64 * a + b) 0

/-- Eight CRC bit steps. -/
def crcBits : Nat → Nat → Nat
  | 0, c => c
  | n + 1, c => crcBits n (if c % 2 = 1 then (c / 2) ^^^ 0xEDB88320 else c / 2)

/-- The CRC-32 of IEEE 802.3 of a byte list (R353). -/
def crc32 (l : List Byte) : Nat := (l.foldl (fun c b => crcBits 8 (c ^^^ b.toNat)) 0xFFFFFFFF) ^^^ 0xFFFFFFFF

end Sys2Proof.Machine
end

