-- ==== Sys2Proof/Machine/Num.lean ====
section
/-! DEFINITION. Numbers and sums: the element formats (R38 to R42), rounding (R50 to R53), FP32 arithmetic (R65) and the numeric flags (R77). Every value is computed exactly and narrowed once. -/

namespace Sys2Proof.Machine

/-- A decoded number: NaN, infinity, or (-1)^neg · m · 2^e (R40). -/
inductive FVal where
  | nan
  | inf (neg : Bool)
  | fin (neg : Bool) (m : Nat) (e : Int)
  deriving DecidableEq, Repr

/-- Layout of a floating-point element (R40): mantissa and exponent widths, bias, and which codes are special
(0: none; 1: only E and M all ones is NaN, as E4M3; 2: infinities and NaNs at E all ones). -/
structure FFmt where
  mb : Nat
  eb : Nat
  bias : Nat
  special : Nat
  deriving DecidableEq, Repr

/-- FP32 (R40). -/
def fmtFP32 : FFmt := ⟨23, 8, 127, 2⟩
/-- BF16 (R40). -/
def fmtBF16 : FFmt := ⟨7, 8, 127, 2⟩
/-- FP16 (R40). -/
def fmtFP16 : FFmt := ⟨10, 5, 15, 2⟩
/-- E5M2 (R40). -/
def fmtE5M2 : FFmt := ⟨2, 5, 15, 2⟩
/-- E4M3 (R40). -/
def fmtE4M3 : FFmt := ⟨3, 4, 7, 1⟩
/-- E3M2 (R40). -/
def fmtE3M2 : FFmt := ⟨2, 3, 3, 0⟩
/-- E2M3 (R40). -/
def fmtE2M3 : FFmt := ⟨3, 2, 1, 0⟩
/-- E2M1 (R40). -/
def fmtE2M1 : FFmt := ⟨1, 2, 1, 0⟩

/-- Decodes the bits of an element (R40). -/
def decodeF (f : FFmt) (x : Nat) : FVal :=
  let neg := bitOf x (f.mb + f.eb)
  let m := x % 2 ^ f.mb
  let e := (x >>> f.mb) % 2 ^ f.eb
  let top := 2 ^ f.eb - 1
  if f.special = 2 ∧ e = top then (if m = 0 then .inf neg else .nan)
  else if f.special = 1 ∧ e = top ∧ m = 2 ^ f.mb - 1 then .nan
  else if e = 0 then .fin neg m (1 - (f.bias : Int) - f.mb)
  else .fin neg (2 ^ f.mb + m) ((e : Int) - f.bias - f.mb)

/-- Largest finite magnitude of an element as (mantissa, exponent) (R40). -/
def maxFin (f : FFmt) : Nat × Int :=
  let top := 2 ^ f.eb - 1
  let e := if f.special = 2 then top - 1 else top
  let m := if f.special = 1 then 2 ^ f.mb - 2 else 2 ^ f.mb - 1
  (2 ^ f.mb + m, (e : Int) - f.bias - f.mb)

/-- The canonical NaN of a format that has one (R42). -/
def qnanOf (f : FFmt) : Nat :=
  if f.special = 1 then 2 ^ (f.mb + f.eb) - 1
  else if f = fmtE5M2 then 0x7F
  else (2 ^ f.eb - 1) * 2 ^ f.mb + 2 ^ (f.mb - 1)

/-- The infinity of a format that has one (R40). -/
def infOf (f : FFmt) (neg : Bool) : Nat := bnat neg * 2 ^ (f.mb + f.eb) + (2 ^ f.eb - 1) * 2 ^ f.mb

/-- m·2^e as an integer when shifted so that the exponent is `b` (b ≤ e). -/
def alignTo (m : Nat) (e b : Int) : Nat := m * 2 ^ (e - b).toNat

/-- ⌊log₂ (num/den)⌋ for positive num and den. -/
def floorLog2 (num den : Nat) : Int :=
  let l : Int := (Nat.log2 num : Int) - (Nat.log2 den : Int)
  let ge := if 0 ≤ l then den * 2 ^ l.toNat ≤ num else den ≤ num * 2 ^ (-l).toNat
  if ge then l else l - 1

/-- Comparison m₁·2^e₁ ≤ m₂·2^e₂ of magnitudes. -/
def magLe (m1 : Nat) (e1 : Int) (m2 : Nat) (e2 : Int) : Bool :=
  let b := min e1 e2
  decide (alignTo m1 e1 b ≤ alignTo m2 e2 b)

/-- Rounds num/den · 2^e (num positive) to a whole number of units 2^u: `mode` 0 RNE, 1 RTZ, 2 SR with the 16 drawn
bits `r` (R50, R53). -/
def roundUnits (mode r num den : Nat) (e u : Int) : Nat :=
  let s := e - u
  let n := if 0 ≤ s then num * 2 ^ s.toNat else num
  let d := if 0 ≤ s then den else den * 2 ^ (-s).toNat
  let q := n / d
  let rem := n % d
  if mode = 1 then q
  else if mode = 2 then (if (rem * 65536) / d + r ≥ 65536 then q + 1 else q)
  else if 2 * rem > d ∨ (2 * rem = d ∧ q % 2 = 1) then q + 1 else q

/-- The rounded magnitude in a format of `mb` mantissa bits and bias `bias` with an unbounded exponent range upward
(R51 to R53), as (whole units, unit exponent). -/
def roundMag (f : FFmt) (mode r num den : Nat) (e : Int) : Nat × Int :=
  if num = 0 then (0, 1 - (f.bias : Int) - f.mb)
  else
    let lg := floorLog2 num den + e
    let u := max (lg - f.mb) (1 - (f.bias : Int) - f.mb)
    (roundUnits mode r num den e u, u)

/-- Encodes whole units as the bits of an in-range element (R40). -/
def encodeUnits (f : FFmt) (neg : Bool) (n : Nat) (u : Int) : Nat :=
  let p := if n = 2 ^ (f.mb + 1) then (n / 2, u + 1) else (n, u)
  let e := if p.1 < 2 ^ f.mb then 0 else (p.2 + f.mb + f.bias).toNat
  let m := if p.1 < 2 ^ f.mb then p.1 else p.1 - 2 ^ f.mb
  bnat neg * 2 ^ (f.mb + f.eb) + e * 2 ^ f.mb + m

/-- NFLAGS bit positions (R77). -/
def nfINVALID : Nat := 1
/-- OVERFLOW (R77). -/
def nfOVERFLOW : Nat := 2
/-- SATURATED (R77). -/
def nfSATURATED : Nat := 4
/-- NAN_SQUASHED (R77). -/
def nfNANSQ : Nat := 8
/-- NONFINITE_BLOCK (R77). -/
def nfNONFINITE : Nat := 16
/-- INT_SATURATED (R77). -/
def nfINTSAT : Nat := 32
/-- TALLY_SATURATED (R77). -/
def nfTALLYSAT : Nat := 64

/-- Union of two flag sets. -/
def flOr (a b : Nat) : Nat := a ||| b

/-- Rounds num/den·2^e to FP32; beyond the range RNE and SR give infinity and RTZ the largest finite value, with
OVERFLOW (R62, R66, R158). -/
def to32 (mode r : Nat) (neg : Bool) (num den : Nat) (e : Int) : W32 × Nat :=
  let p := roundMag fmtFP32 mode r num den e
  let mx := maxFin fmtFP32
  if magLe p.1 p.2 mx.1 mx.2 then (BitVec.ofNat 32 (encodeUnits fmtFP32 neg p.1 p.2), 0)
  else if mode = 1 then (BitVec.ofNat 32 (encodeUnits fmtFP32 neg mx.1 mx.2), nfOVERFLOW)
  else (BitVec.ofNat 32 (infOf fmtFP32 neg), nfOVERFLOW)

/-- The canonical FP32 NaN (R42). -/
def nan32 : W32 := 0x7FC00000#32

/-- FP32 infinity. -/
def inf32 (neg : Bool) : W32 := BitVec.ofNat 32 (infOf fmtFP32 neg)

/-- FP32 decoding of a lane. -/
def dec32 (x : W32) : FVal := decodeF fmtFP32 x.toNat

/-- Whether a lane is a NaN. -/
def isNan32 (x : W32) : Bool := dec32 x == .nan

/-- Whether a lane is finite. -/
def isFin32 (x : W32) : Bool := match dec32 x with | .fin _ _ _ => true | _ => false

/-- RNE encoding of a decoded value in FP32. -/
def enc32 (v : FVal) : W32 × Nat :=
  match v with
  | .nan => (nan32, 0)
  | .inf n => (inf32 n, 0)
  | .fin n m e => to32 0 0 n m 1 e

/-- Exact sum of two decoded values; +infinity + −infinity is an invalid operation (R62, R65). -/
def addV (a b : FVal) : FVal × Nat :=
  match a, b with
  | .nan, _ => (.nan, 0)
  | _, .nan => (.nan, 0)
  | .inf x, .inf y => if x = y then (.inf x, 0) else (.nan, nfINVALID)
  | .inf x, .fin .. => (.inf x, 0)
  | .fin .., .inf y => (.inf y, 0)
  | .fin x m e, .fin y n g =>
    let b := min e g
    let p := alignTo m e b
    let q := alignTo n g b
    if x = y then (.fin x (p + q) b, 0)
    else if q < p then (.fin x (p - q) b, 0)
    else if p < q then (.fin y (q - p) b, 0)
    else (.fin false 0 b, 0)

/-- The negated value. -/
def negV (a : FVal) : FVal :=
  match a with
  | .nan => .nan
  | .inf x => .inf (!x)
  | .fin x m e => .fin (!x) m e

/-- Exact product; infinity × 0 is an invalid operation (R62, R65). -/
def mulV (a b : FVal) : FVal × Nat :=
  match a, b with
  | .nan, _ => (.nan, 0)
  | _, .nan => (.nan, 0)
  | .inf x, .inf y => (.inf (x != y), 0)
  | .inf x, .fin y m _ => if m = 0 then (.nan, nfINVALID) else (.inf (x != y), 0)
  | .fin x m _, .inf y => if m = 0 then (.nan, nfINVALID) else (.inf (x != y), 0)
  | .fin x m e, .fin y n g => (.fin (x != y) (m * n) (e + g), 0)

/-- FP32 addition, one RNE rounding (R65). -/
def add32 (a b : W32) : W32 × Nat :=
  let s := addV (dec32 a) (dec32 b)
  let r := enc32 s.1
  (r.1, flOr s.2 r.2)

/-- FP32 subtraction (R65). -/
def sub32 (a b : W32) : W32 × Nat :=
  let s := addV (dec32 a) (negV (dec32 b))
  let r := enc32 s.1
  (r.1, flOr s.2 r.2)

/-- FP32 multiplication (R65). -/
def mul32 (a b : W32) : W32 × Nat :=
  let s := mulV (dec32 a) (dec32 b)
  let r := enc32 s.1
  (r.1, flOr s.2 r.2)

/-- FP32 fused multiply-add, one rounding (R65). Infinity times zero with a NaN addend sets no flag: INVALID is for an
operation with non-NaN inputs (R77), where IEEE 754 leaves it open. DEDUCED (log 48). -/
def fma32 (a b c : W32) : W32 × Nat :=
  let p := mulV (dec32 a) (dec32 b)
  let s := addV p.1 (dec32 c)
  let r := enc32 s.1
  (r.1, flOr (if isNan32 c then 0 else p.2) (flOr s.2 r.2))

/-- Whether `a` is below `b` (neither NaN); +0 and −0 compare equal (R42). -/
def ltV (a b : FVal) : Bool :=
  match a, b with
  | .nan, _ => false
  | _, .nan => false
  | .inf x, .inf y => x && !y
  | .inf x, .fin .. => x
  | .fin .., .inf y => !y
  | .fin x m e, .fin y n g =>
    let b := min e g
    let p : Int := if x then -(alignTo m e b : Int) else alignTo m e b
    let q : Int := if y then -(alignTo n g b : Int) else alignTo n g b
    decide (p < q)

/-- FP32 minimum: the non-NaN operand when one is NaN, −0 below +0 (R65). -/
def min32 (a b : W32) : W32 :=
  if isNan32 a then (if isNan32 b then nan32 else b)
  else if isNan32 b then a
  else if ltV (dec32 a) (dec32 b) then a
  else if ltV (dec32 b) (dec32 a) then b
  else a ||| b

/-- FP32 maximum: the non-NaN operand when one is NaN, +0 above −0 (R65). -/
def max32 (a b : W32) : W32 :=
  if isNan32 a then (if isNan32 b then nan32 else b)
  else if isNan32 b then a
  else if ltV (dec32 a) (dec32 b) then b
  else if ltV (dec32 b) (dec32 a) then a
  else a &&& b

/-- |x| of a lane: the sign bit cleared; a NaN gives the canonical NaN (R42, R150). -/
def abs32 (x : W32) : W32 := if isNan32 x then nan32 else x &&& 0x7FFFFFFF#32

/-- −x of a lane; a NaN gives the canonical NaN (R42, R150). -/
def neg32 (x : W32) : W32 := if isNan32 x then nan32 else x ^^^ 0x80000000#32

/-- The FCMP conditions (R151); `none` for the reserved code. -/
def fcmp32 (cond : Nat) (a b : W32) : Bool :=
  let x := dec32 a
  let y := dec32 b
  let un := x == .nan || y == .nan
  match cond with
  | 0 => !un && !ltV x y && !ltV y x
  | 1 => un || ltV x y || ltV y x
  | 2 => ltV x y
  | 3 => !un && !ltV y x
  | 4 => ltV y x
  | 5 => !un && !ltV x y
  | 6 => un
  | _ => false

/-- Widening of a narrow value to FP32; exact whenever the value lies in the FP32 range (R148, R154). -/
def widen (f : FFmt) (x : Nat) : W32 := (enc32 (decodeF f x)).1

/-- FP32 of a signed integer, RNE (R61, R150 ITOF). -/
def ofInt32 (i : Int) : W32 := (to32 0 0 (decide (i < 0)) i.natAbs 1 0).1

/-- FP32 to INT32 with rounding mode (R155): clamped with SATURATED, NaN gives 0 with NAN_SQUASHED. -/
def ftoi32 (mode r : Nat) (x : W32) : W32 × Nat :=
  match dec32 x with
  | .nan => (0, nfNANSQ)
  | .inf neg => (if neg then 0x80000000#32 else 0x7FFFFFFF#32, nfSATURATED)
  | .fin neg m e =>
    let q := roundUnits mode r m 1 e 0
    if neg then (if q ≤ 2 ^ 31 then (BitVec.ofInt 32 (-(q : Int)), 0) else (0x80000000#32, nfSATURATED))
    else (if q < 2 ^ 31 then (BitVec.ofNat 32 q, 0) else (0x7FFFFFFF#32, nfSATURATED))

end Sys2Proof.Machine
end

