-- ==== Sys2Proof/Machine/NumFun.lean ====
section
/-! DEFINITION. The transcendental operations (R66): each result is the FP32 value nearest the exact one, formed from fixed-point values of more than 300 fractional bits and rounded once. -/

namespace Sys2Proof.Machine

/-- Fractional bits of the fixed-point values. -/
def fxP : Nat := 320

/-- ⌊ln 2 · 2^320⌋. -/
def fxLn2 : Nat := 0xb17217f7d1cf79abc9e3b39803f2f6af40f343267298b62d8a0d175b8baafa2be7b876206debac98

/-- Taylor terms of e^y from term `k` on: `t` is y^k/k! in units of 2^-320. -/
def expTerms (y : Nat) : Nat → Nat → Nat → Nat
  | 0, _, _ => 0
  | n + 1, k, t => t + expTerms y n (k + 1) (t * y / 2 ^ fxP / (k + 1))

/-- e^y of 0 ≤ y < 1 in units of 2^-320. -/
def fxExp (y : Nat) : Nat := expTerms y 90 0 (2 ^ fxP)

/-- Terms of artanh z from the odd power 2k+1 on: `t` is z^(2k+1). -/
def atanhTerms (z2 : Nat) : Nat → Nat → Nat → Nat
  | 0, _, _ => 0
  | n + 1, k, t => t / (2 * k + 1) + atanhTerms z2 n (k + 1) (t * z2 / 2 ^ fxP)

/-- ln t of 1 ≤ t < 2 in units of 2^-320, for t = num/den. -/
def fxLn (num den : Nat) : Nat :=
  let z := (num - den) * 2 ^ fxP / (num + den)
  2 * atanhTerms (z * z / 2 ^ fxP) 110 0 z

/-- Integer square root by bits: the largest r whose square does not exceed n, building on `r`. -/
def isqrtBits (n : Nat) : Nat → Nat → Nat
  | 0, r => r
  | k + 1, r => let c := r + 2 ^ k; isqrtBits n k (if c * c ≤ n then c else r)

/-- exp2 (R66). -/
def exp2F (x : W32) : W32 × Nat :=
  match dec32 x with
  | .nan => (nan32, 0)
  | .inf n => (if n then 0 else inf32 false, 0)
  | .fin neg m e =>
    if m = 0 then (0x3F800000#32, 0)
    else if !neg && magLe (2 ^ 7) 0 m e then (inf32 false, nfOVERFLOW)
    else if neg && magLe 150 0 m e then (0, 0)
    else
      let a := alignTo m (e + fxP) 0
      let v : Int := if neg then -(a : Int) else a
      let k := v / (2 ^ fxP : Nat)
      let f := (v % (2 ^ fxP : Nat)).toNat
      to32 0 0 false (fxExp (f * fxLn2 / 2 ^ fxP)) 1 (k - fxP)

/-- log2 (R66). -/
def log2F (x : W32) : W32 × Nat :=
  match dec32 x with
  | .nan => (nan32, 0)
  | .inf n => if n then (nan32, nfINVALID) else (inf32 false, 0)
  | .fin neg m e =>
    if m = 0 then (inf32 true, 0)
    else if neg then (nan32, nfINVALID)
    else
      let b := Nat.log2 m
      let fr := fxLn m (2 ^ b) * 2 ^ fxP / fxLn2
      let v : Int := ((b : Int) + e) * (2 ^ fxP : Nat) + fr
      to32 0 0 (decide (v < 0)) v.natAbs 1 (-(fxP : Int))

/-- rcp (R66). -/
def rcpF (x : W32) : W32 × Nat :=
  match dec32 x with
  | .nan => (nan32, 0)
  | .inf n => (if n then 0x80000000#32 else 0, 0)
  | .fin neg m e => if m = 0 then (inf32 neg, 0) else to32 0 0 neg 1 m (-e)

/-- rsqrt (R66): the root of 2^600/M with a sticky unit below it. -/
def rsqrtF (x : W32) : W32 × Nat :=
  match dec32 x with
  | .nan => (nan32, 0)
  | .inf n => if n then (nan32, nfINVALID) else (0, 0)
  | .fin neg m e =>
    if m = 0 then (inf32 neg, 0)
    else if neg then (nan32, nfINVALID)
    else
      let odd := e % 2 ≠ 0
      let mm := if odd then 2 * m else m
      let h := (if odd then e - 1 else e) / 2
      let r := isqrtBits (2 ^ 600 / mm) 301 0
      let sticky := if r * r * mm = 2 ^ 600 then 0 else 1
      to32 0 0 false (2 * r + sticky) 1 (-301 - h)

/-- tanh (R66): below 2^-13 the nearest value is x, above 16 it is ±1; otherwise (E − 1)/(E + 1) with E = e^(2|x|). -/
def tanhF (x : W32) : W32 × Nat :=
  match dec32 x with
  | .nan => (nan32, 0)
  | .inf n => (if n then 0xBF800000#32 else 0x3F800000#32, 0)
  | .fin neg m e =>
    if magLe m e 1 (-13) then (x, 0)
    else if magLe 16 0 m e then (if neg then 0xBF800000#32 else 0x3F800000#32, 0)
    else
      let y := alignTo m (e + fxP) 0 / 32
      let q := (List.range 6).foldl (fun v _ => v * v / 2 ^ fxP) (fxExp y)
      to32 0 0 neg (q - 2 ^ fxP) (q + 2 ^ fxP) 0

end Sys2Proof.Machine
end

