-- ==== Sys2Proof/Machine/NumConv.lean ====
section
/-! DEFINITION. Conversions between FP32 and the operand formats (R39 to R54, R153, R154): format codes, block scales and nudges, scale choice, and rounding on write-back. -/

namespace Sys2Proof.Machine

/-- Element width in bits of a format code (R39). -/
def fmtWidth (c : Nat) : Nat :=
  match c with
  | 0 => 16 | 1 => 16 | 6 => 6 | 7 => 6 | 8 => 4 | 11 => 6 | 12 => 4 | 14 => 4 | 15 => 32 | _ => 8

/-- Whether a format code has block scales (R39). -/
def fmtScaled (c : Nat) : Bool := decide (4 ≤ c) && decide (c ≤ 12)

/-- Whether a format code carries nudges (R45). -/
def fmtNudged (c : Nat) : Bool := decide (10 ≤ c) && decide (c ≤ 12)

/-- Bytes of one scale-plane entry (R46); 0 without scales. -/
def fmtScaleBytes (c : Nat) : Nat := if fmtNudged c then 2 else if fmtScaled c then 1 else 0

/-- The floating-point element of a format code (R39); `none` for the integer elements. -/
def fmtElem (c : Nat) : Option FFmt :=
  match c with
  | 0 => some fmtBF16 | 1 => some fmtFP16 | 2 => some fmtE4M3 | 3 => some fmtE5M2 | 4 => some fmtE4M3
  | 5 => some fmtE5M2 | 6 => some fmtE3M2 | 7 => some fmtE2M3 | 8 => some fmtE2M1 | 10 => some fmtE4M3
  | 11 => some fmtE2M3 | 12 => some fmtE2M1 | 15 => some fmtFP32 | _ => none

/-- Exponent of the unit of an integer element: MXINT8 counts 2^-6 (R41). -/
def intUnit (c : Nat) : Int := if c = 9 then -6 else 0

/-- The value of an element's bits, without its block's scale (R40, R41). -/
def elemVal (c bits : Nat) : FVal :=
  match fmtElem c with
  | some f => decodeF f bits
  | none => let i := sextInt (fmtWidth c) bits; .fin (decide (i < 0)) i.natAbs (intUnit c)

/-- Scale byte of a scale-plane entry (R46). -/
def scaleByteOf (entry : Nat) : Nat := entry % 256

/-- Nudge of group `g` of a scale-plane entry (R45, R46). -/
def nudgeOf (c entry g : Nat) : Nat := if fmtNudged c then bitsOf entry (9 + 2 * g) (8 + 2 * g) else 0

/-- The decoded value of element `i` of a block with scale-plane entry `entry` (R43, R45). -/
def scaledVal (c entry i bits : Nat) : FVal :=
  if fmtScaled c then
    if scaleByteOf entry = 255 then .nan
    else match elemVal c bits with
      | .fin n m e => .fin n (m * (4 + nudgeOf c entry (i / 8))) (e + (scaleByteOf entry : Int) - 129)
      | v => v
  else elemVal c bits

/-- Largest finite magnitude of an element: the integer elements count 127 or 7 units (R47, R51). -/
def fmtMax (c : Nat) : Nat × Int :=
  match fmtElem c with
  | some f => maxFin f
  | none => if c = 14 then (7, 0) else (127, intUnit c)

/-- Bits of a two's-complement element of width `w` (R41). -/
def intBits (w : Nat) (neg : Bool) (q : Nat) : Nat := wrapInt w (if neg then -(q : Int) else (q : Int))

/-- An integer target's element: rounded to whole units, clamped with SATURATED (R51). MXINT8 clamps to ±127, the
maxfin of its block-scaled row; INT8 and INT4 reach −128 and −8. -/
def convInt (c mode r : Nat) (neg : Bool) (num den : Nat) (e : Int) : Nat × Nat :=
  let q := roundUnits mode r num den e (intUnit c)
  let hi := (fmtMax c).1
  let lim := if neg && !fmtScaled c then hi + 1 else hi
  if q ≤ lim then (intBits (fmtWidth c) neg q, 0) else (intBits (fmtWidth c) neg lim, nfSATURATED)

/-- A floating-point target's element from the exact quotient num/den·2^e (R51 to R53): `ieee` is the overflow
control. R51's table gives IEEE overflow for RNE and RTZ only; a value that SR chooses beyond the largest finite one is
infinity here, as RNE's is. DESIGN CHOICE (log 48). -/
def convFloat (c : Nat) (f : FFmt) (mode r : Nat) (ieee : Bool) (neg : Bool) (num den : Nat) (e : Int) : Nat × Nat :=
  let p := roundMag f mode r num den e
  let mx := maxFin f
  if magLe p.1 p.2 mx.1 mx.2 then (encodeUnits f neg p.1 p.2, 0)
  else if ieee && decide (f.special = 2) && !fmtScaled c then
    (if mode = 1 then (encodeUnits f neg mx.1 mx.2, 0) else (infOf f neg, 0))
  else (encodeUnits f neg mx.1 mx.2, nfSATURATED)

/-- Conversion of a value divided by num/den·2^sh into a format's element (R51); `sn/sd·2^se` is the reciprocal of
the block scale (1 without scales). -/
def convElem (c mode r : Nat) (ieee : Bool) (x : FVal) (sn sd : Nat) (se : Int) : Nat × Nat :=
  match fmtElem c, x with
  | none, .nan => (0, nfNANSQ)
  | none, .inf neg => (intBits (fmtWidth c) neg (if neg then (fmtMax c).1 + 1 else (fmtMax c).1), nfSATURATED)
  | none, .fin neg m e => convInt c mode r neg (m * sn) sd (e + se)
  | some f, .nan => (qnanOf f, 0)
  | some f, .inf neg =>
    if f.special = 2 then (infOf f neg, 0) else (encodeUnits f neg (maxFin f).1 (maxFin f).2, nfSATURATED)
  | some f, .fin neg m e => convFloat c f mode r ieee neg (m * sn) sd (e + se)

/-- The largest finite magnitude of a list of values as (mantissa, exponent) (R47). -/
def amaxOf : List FVal → Nat × Int
  | [] => (0, 0)
  | .fin _ m e :: r => let p := amaxOf r; if magLe p.1 p.2 m e then (m, e) else p
  | _ :: r => amaxOf r

/-- Clamps a scale exponent to −127 … 127 (R47). -/
def clampX (x : Int) : Int := if x < -127 then -127 else if 127 < x then 127 else x

/-- emax of an MX element (R47). -/
def fmtEmax (c : Nat) : Int := floorLog2 (fmtMax c).1 1 + (fmtMax c).2

/-- emax as R47's table gives it: MXINT8's is 0. -/
def emaxOf (c : Nat) : Int := if c = 9 then 0 else fmtEmax c

/-- The scale exponent X of a non-zero amax (R47 steps 1 and 2). -/
def scaleX (c : Nat) (am : Nat × Int) : Int :=
  let mx := fmtMax c
  if fmtNudged c then
    let num := 4 * am.1
    let den := 7 * mx.1
    let sh := am.2 - mx.2
    let l := floorLog2 num den
    let eq := if 0 ≤ l then decide (num = den * 2 ^ l.toNat) else decide (num * 2 ^ (-l).toNat = den)
    clampX ((if eq then l else l + 1) + sh)
  else clampX (floorLog2 am.1 1 + am.2 - emaxOf c)

/-- Smallest nudge with m_g ≤ maxfin·2^X·(4+n)/4, else 3 (R47 step 2, R49). -/
def chooseNudge (c : Nat) (x : Int) (mg : Nat × Int) : Nat :=
  let mx := fmtMax c
  let ok := fun n => magLe (4 * mg.1) mg.2 (mx.1 * (4 + n)) (mx.2 + x)
  if ok 0 then 0 else if ok 1 then 1 else if ok 2 then 2 else 3

/-- Whether a value is finite. -/
def FVal.isFin (v : FVal) : Bool := match v with | .fin _ _ _ => true | _ => false

/-- Flags of a list of (bits, flags) pairs. -/
def flagsOf (l : List (Nat × Nat)) : Nat := l.foldl (fun a p => flOr a p.2) 0

/-- Conversion of one block of 32 values (R47 to R49): its scale-plane entry, its 32 elements and its flags. `rec` is
the recorded amax of R49 when that source applies, and then the block uses that X even when its own values are all zero;
`rnd j` the 16 drawn bits of element j. -/
def convBlock (c mode : Nat) (ieee : Bool) (rec : Option (Nat × Int)) (rnd : Nat → Nat) (xs : List FVal) :
    Nat × List Nat × Nat :=
  if xs.any (fun v => !v.isFin) then (255, List.replicate 32 0, nfNONFINITE)
  else
    let am := amaxOf xs
    if am.1 = 0 ∧ rec.isNone then (0, List.replicate 32 0, 0)
    else
      let x := scaleX c (rec.getD am)
      let nud := fun g => if fmtNudged c then chooseNudge c x (amaxOf ((xs.drop (8 * g)).take 8)) else 0
      let entry := (x + 127).toNat + 256 * (nud 0 + 4 * nud 1 + 16 * nud 2 + 64 * nud 3)
      let es := (List.range 32).map (fun i =>
        convElem c mode (rnd i) ieee (xs.getD i (.fin false 0 0)) 4 (4 + nud (i / 8)) (-x))
      (entry, es.map (·.1), flagsOf es)

/-- Conversion of one row of 64 values (R47 to R54): the two scale-plane entries, the 64 elements and the flags. -/
def convRow (c mode : Nat) (ieee : Bool) (rec : Option (Nat × Int)) (rnd : Nat → Nat) (v : VReg) :
    List Nat × List Nat × Nat :=
  if c = 15 then ([], v.map (·.toNat), 0)
  else
    let xs := (List.range 64).map (fun i => dec32 (lane v i))
    if fmtScaled c then
      let a := convBlock c mode ieee rec rnd (xs.take 32)
      let b := convBlock c mode ieee rec (fun i => rnd (32 + i)) (xs.drop 32)
      ([a.1, b.1], a.2.1 ++ b.2.1, flOr a.2.2 b.2.2)
    else
      let es := (List.range 64).map (fun i => convElem c mode (rnd i) ieee (xs.getD i (.fin false 0 0)) 1 1 0)
      ([], es.map (·.1), flagsOf es)

/-- Packs elements of width `w` as little-endian bytes (R46, R147). -/
def packElems (w : Nat) (es : List Nat) : List Byte :=
  leBytes (es.length * w / 8) (es.foldr (fun e acc => e % 2 ^ w + acc * 2 ^ w) 0)

/-- Scale-plane entries as bytes (R46). -/
def packScales (c : Nat) (ss : List Nat) : List Byte := ss.flatMap (fun s => leBytes (fmtScaleBytes c) s)

/-- Element `i` of width `w` of block `b` of an element plane whose bytes `g` gives (R46). -/
def planeElem (g : Nat → Byte) (w b i : Nat) : Nat :=
  let p := w * i
  let a := 4 * w * b + p / 8
  (((g a).toNat + 256 * (g (a + 1)).toNat) >>> (p % 8)) % 2 ^ w

/-- Entry `b` of a scale plane whose bytes `g` gives (R46). -/
def planeScale (g : Nat → Byte) (c b : Nat) : Nat :=
  if fmtNudged c then (g (2 * b)).toNat + 256 * (g (2 * b + 1)).toNat else (g b).toNat

/-- CVT.IN of 64 elements of a segment (R154): FP32 lanes and flags. -/
def convIn (c : Nat) (g gs : Nat → Byte) : VReg × Nat :=
  let ls := (List.range 64).map (fun i =>
    enc32 (scaledVal c (planeScale gs c (i / 32)) (i % 32) (planeElem g (fmtWidth c) (i / 32) (i % 32))))
  (ls.map (·.1), ls.foldl (fun a p => flOr a p.2) 0)

end Sys2Proof.Machine
end

