-- ==== Sys2Proof/Machine/NumSum.lean ====
section
/-! DEFINITION. The array's sums (R57 to R62), the tally unit's recurrence and merge (R67) and tally words (R70 to R75). -/

namespace Sys2Proof.Machine

/-- The format pairings the array accepts (R58, R60, R61). -/
def pairOk (a b : Nat) : Bool :=
  (decide (2 ≤ a) && decide (a ≤ 12) && decide (2 ≤ b) && decide (b ≤ 12)) ||
  (a == 0 && b == 0) || (a == 1 && b == 1) ||
  ((a == 13 || a == 14) && (b == 13 || b == 14))

/-- Whether a pairing accumulates into INT32 (R61). -/
def pairInt (a : Nat) : Bool := a == 13 || a == 14

/-- A value as a signed count of units 2^-32; every product of two elements of codes 2 to 12 is a whole number of
them (R57). -/
def unit32 (v : FVal) : Int :=
  match v with
  | .fin n m e => let k := if 0 ≤ e + 32 then m * 2 ^ (e + 32).toNat else m / 2 ^ (-(e + 32)).toNat
                  if n then -(k : Int) else k
  | _ => 0

/-- Exact product sum with R62's special cases: running (finite units, +inf seen, −inf seen, NaN seen, flags). -/
structure BlockSum where
  sum : Int
  pinf : Bool
  ninf : Bool
  nan : Bool
  fl : Nat
  deriving DecidableEq, Repr

/-- Adds one element product weighted by `w` to a block sum (R57, R62). -/
def BlockSum.add (s : BlockSum) (w : Nat) (a b : FVal) : BlockSum :=
  let p := mulV a b
  match p.1 with
  | .nan => { s with nan := true, fl := flOr s.fl p.2 }
  | .inf n => if n then { s with ninf := true } else { s with pinf := true }
  | v => { s with sum := s.sum + (w : Int) * unit32 v }

/-- V_b of one block (R57, R62) as a value, with flags. The scales' entries are `sa`, `sb`; an operand without block
scale takes E = 127. R62 does not say whether a block with a NaN among its inputs or products sets INVALID for infinities
of both signs besides: it does not, because its sum is no operation with non-NaN inputs (R77). DEDUCED (log 48). -/
def blockV (ca cb sa sb : Nat) (ea eb : Nat → Nat) : FVal × Nat :=
  if (fmtScaled ca && scaleByteOf sa == 255) || (fmtScaled cb && scaleByteOf sb == 255) then (.nan, 0)
  else
    let s := (List.range 32).foldl (fun s i =>
      BlockSum.add s ((4 + nudgeOf ca sa (i / 8)) * (4 + nudgeOf cb sb (i / 8))) (elemVal ca (ea i)) (elemVal cb (eb i)))
      ⟨0, false, false, false, 0⟩
    let xa : Int := if fmtScaled ca then (scaleByteOf sa : Int) - 127 else 0
    let xb : Int := if fmtScaled cb then (scaleByteOf sb : Int) - 127 else 0
    if s.nan then (.nan, s.fl)
    else if s.pinf && s.ninf then (.nan, flOr s.fl nfINVALID)
    else if s.pinf then (.inf false, s.fl)
    else if s.ninf then (.inf true, s.fl)
    else (.fin (decide (s.sum < 0)) s.sum.natAbs (xa + xb - 36), s.fl)

/-- One accumulator lane plus one block (R57, R60, R61); `acc` is FP32 or, for integer pairs, INT32. -/
def accBlock (ca cb sa sb : Nat) (ea eb : Nat → Nat) (acc : W32) : W32 × Nat :=
  if pairInt ca then
    let t := (List.range 32).foldl (fun t i => t + sextInt (fmtWidth ca) (ea i) * sextInt (fmtWidth cb) (eb i))
      acc.toInt
    if t > 2147483647 then (0x7FFFFFFF#32, nfINTSAT)
    else if t < -2147483648 then (0x80000000#32, nfINTSAT)
    else (BitVec.ofInt 32 t, 0)
  else if ca ≤ 1 then
    (List.range 32).foldl (fun (p : W32 × Nat) i =>
      let q := mulV (elemVal ca (ea i)) (elemVal cb (eb i))
      let s := addV (dec32 p.1) q.1
      let r := enc32 s.1
      (r.1, flOr p.2 (flOr q.2 (flOr s.2 r.2)))) (acc, 0)
  else
    let v := blockV ca cb sa sb ea eb
    let s := addV (dec32 acc) v.1
    let r := enc32 s.1
    (r.1, flOr v.2 (flOr s.2 r.2))

/-- One output element over `n` K blocks in ascending order (R59): block k of each operand by its getters. -/
def accBlocks (ca cb : Nat) (sa sb : Nat → Nat) (ea eb : Nat → Nat → Nat) (acc : W32) (n : Nat) : W32 × Nat :=
  (List.range n).foldl (fun p k =>
    let r := accBlock ca cb (sa k) (sb k) (ea k) (eb k) p.1
    (r.1, flOr p.2 r.2)) (acc, 0)

/-- A running tally (R67). -/
structure Tally where
  n : Nat
  s : W32
  cs : W32
  q : W32
  cq : W32
  mu : W32
  m2 : W32
  deriving DecidableEq, Repr

/-- A zeroed tally (R67). -/
def Tally.zero : Tally := ⟨0, 0, 0, 0, 0, 0, 0⟩

/-- (a − b)/n formed exactly and rounded once (R67). -/
def divDiff (a b : W32) (n : Nat) : W32 × Nat :=
  let d := addV (dec32 a) (negV (dec32 b))
  match d.1 with
  | .nan => (nan32, d.2)
  | .inf x => (inf32 x, d.2)
  | .fin x m e => let r := to32 0 0 x m (max n 1) e; (r.1, flOr d.2 r.2)

/-- One input of the tally unit (R67), and its flags. -/
def Tally.feed (t : Tally) (x : W32) : Tally × Nat :=
  let n := satAdd 32 t.n 1
  let y := sub32 x t.cs
  let a := add32 t.s y.1
  let b := sub32 a.1 t.s
  let cs := sub32 b.1 y.1
  let x2 := mul32 x x
  let yq := sub32 x2.1 t.cq
  let aq := add32 t.q yq.1
  let bq := sub32 aq.1 t.q
  let cq := sub32 bq.1 yq.1
  let d := sub32 x t.mu
  let mu := divDiff a.1 cs.1 n
  let d2 := sub32 x mu.1
  let m2 := fma32 d.1 d2.1 t.m2
  (⟨n, a.1, cs.1, aq.1, cq.1, mu.1, m2.1⟩,
    [y.2, a.2, b.2, cs.2, x2.2, yq.2, aq.2, bq.2, cq.2, d.2, mu.2, d2.2, m2.2].foldl flOr 0)

/-- Kahan merge of a sum and its compensation (R67): t = a + b, e its exact error, c = (ca + cb) − e. -/
def mergeSum (a ca b cb : W32) : W32 × W32 × Nat :=
  let x := addV (dec32 a) (dec32 b)
  let t := enc32 x.1
  let ev := addV x.1 (negV (dec32 t.1))
  let e := enc32 ev.1
  let c1 := add32 ca cb
  let c := sub32 c1.1 e.1
  (t.1, c.1, [x.2, t.2, ev.2, e.2, c1.2, c.2].foldl flOr 0)

/-- The merge of two tallies (R67), and its flags. -/
def Tally.merge (a b : Tally) : Tally × Nat :=
  if b.n = 0 then (a, 0) else if a.n = 0 then (b, 0)
  else
    let n := satAdd 32 a.n b.n
    let s := mergeSum a.s a.cs b.s b.cs
    let q := mergeSum a.q a.cq b.q b.cq
    let dl := sub32 b.mu a.mu
    let mu := divDiff s.1 s.2.1 n
    let r := to32 0 0 false b.n n 0
    let na := to32 0 0 false a.n 1 0
    let w := mul32 na.1 r.1
    let dw := mul32 dl.1 w.1
    let mm := add32 a.m2 b.m2
    let m2 := fma32 dw.1 dl.1 mm.1
    (⟨n, s.1, s.2.1, q.1, q.2.1, mu.1, m2.1⟩,
      [s.2.2, q.2.2, dl.2, mu.2, w.2, dw.2, mm.2, m2.2].foldl flOr 0)

/-- Population variance round(M₂/n), +0 for n = 0 (R67). -/
def Tally.popVar (t : Tally) : W32 := if t.n = 0 then 0 else (divDiff t.m2 0 t.n).1

/-- Sample variance round(M₂/(n−1)), +0 for n ≤ 1 (R67). -/
def Tally.sampleVar (t : Tally) : W32 := if t.n ≤ 1 then 0 else (divDiff t.m2 0 (t.n - 1)).1

/-- One level of the fixed merge tree: neighbours 2i and 2i+1 (R100). -/
def mergePairs : List Tally → List Tally × Nat
  | a :: b :: r => let m := a.merge b; let t := mergePairs r; (m.1 :: t.1, flOr m.2 t.2)
  | l => (l, 0)

/-- The merge of 64 lane partials in the fixed tree (R100): six levels. -/
def mergeTree (l : List Tally) : Tally × Nat :=
  let p := (List.range 6).foldl (fun (p : List Tally × Nat) _ => let m := mergePairs p.1; (m.1, flOr p.2 m.2)) (l, 0)
  (p.1.headD Tally.zero, p.2)

/-- The merged record of a tally in a vector register (R170, L = 0). -/
def tallyRecord (t : Tally) : VReg :=
  [BitVec.ofNat 32 t.n, t.s, t.cs, t.q, t.cq, t.mu, t.m2, t.popVar, t.sampleVar] ++ List.replicate 55 0

/-- The tally a merged record names (R170, TLM). -/
def recordTally (v : VReg) : Tally :=
  ⟨(lane v 0).toNat, lane v 1, lane v 2, lane v 3, lane v 4, lane v 5, lane v 6⟩

/-- A saturated tally word (R73). -/
def twSat : Nat := 0xFFFF * 2 ^ 96 + 2 ^ 95

/-- Whether a tally word is saturated (R70). -/
def twIsSat (w : Nat) : Bool := bitsOf w 111 96 == 0xFFFF

/-- The anchor A of a tally conversion (R71, R157). -/
def twAnchor (x : Nat) : Int := sextInt 9 x

/-- FP32 into a tally word under anchor `a` (R72), and its flags. -/
def twIn (a : Int) (x : W32) : Nat × Nat :=
  match dec32 x with
  | .fin neg m e =>
    if magLe 1 a m e then (twSat, nfTALLYSAT)
    else
      let q := roundUnits 0 0 m 1 e (a - 80)
      (wrapInt 96 (if neg then -(q : Int) else q) + 2 ^ 96, 0)
  | _ => (twSat, nfTALLYSAT)

/-- Sum of two tally words (R73), and its flags. -/
def twAdd (x y : Nat) : Nat × Nat :=
  let c := bitsOf x 111 96 + bitsOf y 111 96
  if twIsSat x || twIsSat y || decide (0x8000 < c) then (twSat, nfTALLYSAT)
  else ((bitsOf x 95 0 + bitsOf y 95 0) % 2 ^ 96 + c * 2 ^ 96, 0)

/-- A tally word out to FP32 (R75, R158), and its flags. -/
def twOut (a : Int) (mode r w : Nat) : W32 × Nat :=
  if twIsSat w then (nan32, 0)
  else
    let i := sextInt 96 w
    to32 mode r (decide (i < 0)) i.natAbs 1 (a - 80)

/-- Tally word `j` of a vector register (R157). -/
def vword (v : VReg) (j : Nat) : Nat :=
  (lane v (4 * j)).toNat + 2 ^ 32 * (lane v (4 * j + 1)).toNat + 2 ^ 64 * (lane v (4 * j + 2)).toNat +
    2 ^ 96 * (lane v (4 * j + 3)).toNat

/-- The vector register of 16 tally words (R157). -/
def vofWords (ws : List Nat) : VReg :=
  vbuild (fun i => BitVec.ofNat 32 (bitsOf (ws.getD (i / 4) 0) (32 * (i % 4) + 31) (32 * (i % 4))))

end Sys2Proof.Machine
end

