-- ==== Sys2Proof/Machine/CoreState.lean ====
section
/-! DEFINITION. The state of one burin core (R78): its architectural registers, banks, stage, tallies, streams, tags and plate, and its issue, tensor-queue, store-buffer, L1 and translation-buffer state. -/

namespace Sys2Proof.Machine

/-- CORE_STAT.STATE (R121). -/
inductive CoreSt where
  | unused | fenced | idle | loading | running | stopping | stopped
  deriving DecidableEq, Repr

/-- One stipple stream (R102). -/
structure Stip where
  key : Nat
  ctr : Nat
  run : Nat
  last : Nat
  deriving DecidableEq, Repr

/-- One scale-recorder tag (R105). -/
structure SrTag where
  amax : W32
  upd : Bool
  nonfin : Bool
  hist : Tab W32
  head : Nat
  valid : Nat
  deriving DecidableEq, Repr

/-- Architectural state a kernel names (R78). -/
structure Arch where
  /-- s1–s31; s0 is not stored. -/
  sreg : Tab W64
  /-- v0–v31. -/
  vreg : Tab VReg
  /-- p1–p7 as bits 1 to 7; p0 is not stored. -/
  preg : Nat
  /-- Accumulator lanes: key 1024·bank + 64·row + column. -/
  acc : Tab W32
  /-- Kind of each bank: 0 none, 1 FP32, 2 INT32 (R98). -/
  kind : Tab Nat
  /-- Rows an MMA has written since they were zeroed: 16·bank + row (R98). -/
  dirty : NatSet
  /-- Weight buffers: key 0x8000·buf + offset, scales from offset 0x4000. -/
  wbuf : Tab Byte
  /-- Format code + 1 of each weight buffer's latest WLD; 0 none. -/
  wfmt : Tab Nat
  /-- K of each weight buffer's latest WLD. -/
  wk : Tab Nat
  /-- Fold stage: elements from 0, scales from 0x1000 (R95). -/
  stage : Tab Byte
  /-- Format code + 1 of the fold stage; 0 none (R165). -/
  sfmt : Nat
  /-- NFLAGS (R77). -/
  nflags : Nat
  /-- Tally lane partials: key 64·slot + lane (R100). -/
  tally : Tab Tally
  /-- Stipple streams (R102). -/
  stip : Tab Stip
  /-- Scale-recorder tags (R105). -/
  tags : Tab SrTag
  /-- Plate bytes 0x00_0000 to 0x17_FFFF (R85). -/
  plate : Tab Byte
  deriving DecidableEq, Repr

/-- A bundle's slots as raw slot values, opcode included; `none` is a NOP slot (R123). -/
structure Slots where
  sc : Option Nat
  vec : Option Nat
  ten : Option Nat
  deriving DecidableEq, Repr

/-- A tensor-queue entry (R83, R128): the raw slot value, its bundle, the captured scalar and vector operands, whether it
has started, the words a chain instruction has done, and the counter and key captured for a drain whose bundle also draws
from, or writes, its stream (R54). -/
structure TEntry where
  id : Nat
  w : Nat
  bundle : Nat
  ops : List Nat
  va : VReg
  vb : VReg
  started : Bool
  prog : Nat
  rsv : Option (Nat × Nat)
  deriving DecidableEq, Repr

/-- One line of an outstanding load: the line, its data once taken, with the poison flag, and whether it has been asked for
and so holds a miss credit until its data comes (R109). -/
structure LoadPart where
  line : Nat
  got : Option (List Byte × Bool)
  asked : Bool
  deriving DecidableEq, Repr

/-- Kinds of load (R137, R140) and the prefetch (R263). -/
inductive LoadKind where
  | plain | acq | nc | wait | pref
  deriving DecidableEq, Repr

/-- An outstanding load (R305): destination, addresses, selector, the store-buffer entries numbered below `sbn` that are
older, those that hold some but not all of its bytes (R304), whether the second half of a 16-byte floor load is still to be
read (R309), and the lines it waits for. -/
structure Load where
  tag : Nat
  kind : LoadKind
  rd : Nat
  width : Nat
  sx : Bool
  va : Nat
  pa : Nat
  sel : Nat
  epoch : Nat
  bundle : Nat
  sent : Bool
  sbn : Nat
  waits : List Nat
  split : Bool
  parts : List LoadPart
  deriving DecidableEq, Repr

/-- A store-buffer entry (R301): one line, a 64-bit byte mask, data, and its kind; the loads numbered below `ldn` are older
than its youngest store. -/
structure SbEntry where
  id : Nat
  line : Nat
  mask : Nat
  data : List Byte
  dev : Bool
  rel : Bool
  sel : Nat
  epoch : Nat
  bundle : Nat
  draining : Bool
  ldn : Nat
  /-- It has asked for its line and holds a miss credit (R303). -/
  req : Bool
  /-- Its parity check failed: performed as a poisoned write (R314). -/
  bad : Bool
  deriving DecidableEq, Repr

/-- One L1 way (R259): tag, four sector valid bits, 256 bytes of data. -/
structure L1Way where
  tag : Nat
  valid : Nat
  data : List Byte
  deriving DecidableEq, Repr

/-- A stride-prefetcher entry (R263); `age` orders training. -/
structure PfEntry where
  last : Nat
  stride : Int
  conf : Nat
  age : Nat
  deriving DecidableEq, Repr

/-- A cached leaf (R216): root, first 64 MiB page number, whether it is 4 GiB, and the entry's bits (R209). -/
structure Leaf where
  root : Nat
  page : Nat
  big : Bool
  ent : Nat
  deriving DecidableEq, Repr

/-- An access waiting in the four-entry hint buffer (R88), with the number of the landing it belongs to, or 0 (R391). -/
structure Hint where
  own : Nat
  addr : Nat
  data : List Byte
  deriving DecidableEq, Repr

/-- A burin core. -/
structure Core where
  a : Arch
  st : CoreSt
  /-- Index of the next bundle to issue, and the loaded kernel's length (R80). -/
  pc : Nat
  klen : Nat
  /-- Instruction buffer bytes (R78). -/
  ibuf : Tab Byte
  /-- Queue and sequence of the latest LAUNCH (R121). -/
  lq : Nat
  lseq : Nat
  /-- Translation root of the LAUNCH (R211). -/
  root : Nat
  /-- The bundle being given slot by slot, and the bundles holding in issue. -/
  latch : Slots
  fetched : List Slots
  /-- Tensor queue, oldest first, and the next entry number. -/
  tq : List TEntry
  tqn : Nat
  /-- Translation buffer, newest first (R108). -/
  tbuf : List Leaf
  /-- Outstanding loads, oldest first, and the next tag. -/
  loads : List Load
  ldn : Nat
  /-- Store buffer, oldest first, and the next entry number. -/
  sb : List SbEntry
  sbn : Nat
  /-- Floor lines written since the last BAR.SYS, and whether the list overflowed (R307). -/
  flines : NatSet
  fover : Bool
  /-- L1 ways: key 4·set + way; pseudo-LRU bits per set (R259). -/
  l1 : Tab L1Way
  l1lru : Tab Nat
  pf : List PfEntry
  pfn : Nat
  /-- X-port hint buffer (R88). -/
  hints : List Hint
  /-- Receive buffers of the chain slots (R182). -/
  recv : Tab (List Nat)
  /-- Words in flight toward each chain slot over a grove or fabric leg (R182). -/
  wire : Tab (List Nat)
  /-- RIDE words sent and received per slot, modulo 2^16 (R184), and the open cell of each slot (R183). -/
  rsent : Tab Nat
  rrecv : Tab Nat
  cell : Tab (List Nat)
  /-- Where each RIDE slot's rotation over its ports stands: the lowest port to take next (R183). -/
  rot : Tab Nat
  /-- Recorded exception (R117): cause, bundle, and whether the launch controller has it. -/
  exc : Nat
  excB : Nat
  rep : Bool
  /-- NFLAGS of the latest kernel (R112). -/
  lastNf : Nat
  /-- END has executed (R143). -/
  ended : Bool
  /-- The clock is gated (R114). -/
  gated : Bool
  /-- WAITP or WAITM holding has made its first read, and has read a value at or above its target (R139, R140). -/
  waitTry : Bool
  waitOk : Bool
  /-- The barrier that holds the next bundle (R306): 0 none, else its fn plus 1; 5 a BAR.SYS whose write-backs are out. -/
  bar : Nat
  /-- CORE_FENCE bits (R121); FENCE_REQ stands in the register. -/
  fenced : Bool
  spareUse : Bool
  logical : Nat
  deriving DecidableEq, Repr

/-- A zeroed stream. -/
def stip0 : Stip := ⟨0, 0, 0, 0⟩

/-- A zeroed tag. -/
def tag0 : SrTag := ⟨0, false, false, [], 0, 0⟩

/-- A zeroed way. -/
def l1way0 : L1Way := ⟨0, 0, []⟩

/-- An empty bundle. -/
def slots0 : Slots := ⟨none, none, none⟩

/-- Architectural state all zero. -/
def arch0 : Arch := ⟨[], [], 0, [], [], [], [], [], [], [], 0, 0, [], [], [], []⟩

/-- A core after reset: UNUSED, everything zero, no logical index (R121). -/
def core0 : Core :=
  { a := arch0, st := .unused, pc := 0, klen := 0, ibuf := [], lq := 0, lseq := 0, root := 0, latch := slots0,
    fetched := [], tq := [], tqn := 0, tbuf := [], loads := [], ldn := 0, sb := [], sbn := 0, flines := [],
    fover := false, l1 := [], l1lru := [], pf := [], pfn := 0, hints := [], recv := [], wire := [], rsent := [],
    rrecv := [], cell := [], rot := [], exc := 0, excB := 0, rep := false, lastNf := 0, ended := false, gated := false,
    waitTry := false, waitOk := false, bar := 0, fenced := false, spareUse := false, logical := 255 }

/-- Scalar register `i`; s0 reads as zero (R78). -/
def sget (a : Arch) (i : Nat) : W64 := if i = 0 then 0 else tabGet (fun _ => 0) a.sreg i

/-- Writes scalar register `i`; a write to s0 is discarded (R78). -/
def sput (a : Arch) (i : Nat) (v : W64) : Arch :=
  if i = 0 then a else { a with sreg := tabSet (fun _ => 0) a.sreg i v }

/-- Vector register `i` (R78). -/
def vget (a : Arch) (i : Nat) : VReg := tabGet (fun _ => vzero) a.vreg i

/-- Writes vector register `i`. -/
def vput (a : Arch) (i : Nat) (v : VReg) : Arch := { a with vreg := tabSet (fun _ => vzero) a.vreg i v }

/-- Predicate `i`; p0 reads as 1 (R78). -/
def pget (a : Arch) (i : Nat) : Bool := if i = 0 then true else a.preg.testBit i

/-- Writes predicate `i`; a write to p0 is discarded (R78). -/
def pput (a : Arch) (i : Nat) (v : Bool) : Arch := if i = 0 then a else { a with preg := putBits a.preg i i (bnat v) }

/-- Sets numeric flags (R77). -/
def nfSet (a : Arch) (f : Nat) : Arch := { a with nflags := flOr a.nflags f }

/-- Stipple stream `n`. -/
def stipGet (a : Arch) (n : Nat) : Stip := tabGet (fun _ => stip0) a.stip n

/-- Writes stipple stream `n`. -/
def stipPut (a : Arch) (n : Nat) (v : Stip) : Arch := { a with stip := tabSet (fun _ => stip0) a.stip n v }

/-- Advances stream `n` by `k` draws: CTR modulo 2^128, DRAWS_RUN up to 2^32 − 1 (R56, R103). -/
def stipAdv (a : Arch) (n k : Nat) : Arch :=
  let t := stipGet a n
  stipPut a n { t with ctr := (t.ctr + k) % 2 ^ 128, run := satAdd 32 t.run k }

/-- Bits element `j` of an instruction uses, with the instruction's first draw at counter `c` (R54). -/
def drawBits (key c j : Nat) : Nat := bitsOf (philox key ((c + j / 8) % 2 ^ 128)) (16 * (j % 8) + 15) (16 * (j % 8))

/-- Scale-recorder tag `n`. -/
def tagGet (a : Arch) (n : Nat) : SrTag := tabGet (fun _ => tag0) a.tags n

/-- Writes scale-recorder tag `n`. -/
def tagPut (a : Arch) (n : Nat) (v : SrTag) : Arch := { a with tags := tabSet (fun _ => tag0) a.tags n v }

/-- Update of a tag by FP32 values (R106). -/
def tagUpdate (t : SrTag) (xs : List W32) : SrTag :=
  xs.foldl (fun t x =>
    if isFin32 x then { t with amax := if ltV (dec32 t.amax) (dec32 (abs32 x)) then abs32 x else t.amax, upd := true }
    else { t with nonfin := true }) t

/-- Push of a tag (R107): a new newest entry, VALID up to 16, the running values cleared. -/
def tagPush (t : SrTag) : SrTag :=
  let h := (t.head + 1) % 16
  { t with hist := tabSet (fun _ => 0) t.hist h t.amax, head := h, valid := min 16 (t.valid + 1), amax := 0,
           upd := false, nonfin := false }

/-- History entry `i`, newest first (R173). -/
def tagHist (t : SrTag) (i : Nat) : W32 := tabGet (fun _ => 0) t.hist ((t.head + 16 - i) % 16)

/-- The recorded amax of R49: the largest valid history entry, unless there is none or it is +0. -/
def tagAmax (t : SrTag) : Option (Nat × Int) :=
  let m := amaxOf ((List.range t.valid).map (fun i => dec32 (tagHist t i)))
  if m.1 = 0 then none else some m

/-- Tally partial `lane` of `slot`. -/
def tallyGet (a : Arch) (slot ln : Nat) : Tally := tabGet (fun _ => Tally.zero) a.tally (64 * slot + ln)

/-- Writes a tally partial. -/
def tallyPut (a : Arch) (slot ln : Nat) (t : Tally) : Arch :=
  { a with tally := tabSet (fun _ => Tally.zero) a.tally (64 * slot + ln) t }

/-- Accumulator lane (R78). -/
def accGet (a : Arch) (bank row col : Nat) : W32 := tabGet (fun _ => 0) a.acc (1024 * bank + 64 * row + col)

/-- Writes an accumulator lane. -/
def accPut (a : Arch) (bank row col : Nat) (v : W32) : Arch :=
  { a with acc := tabSet (fun _ => 0) a.acc (1024 * bank + 64 * row + col) v }

/-- An accumulator row. -/
def accRow (a : Arch) (bank row : Nat) : VReg := vbuild (fun c => accGet a bank row c)

/-- Writes an accumulator row. -/
def accRowPut (a : Arch) (bank row : Nat) (v : VReg) : Arch :=
  (List.range 64).foldl (fun a c => accPut a bank row c (lane v c)) a

/-- Kind of a bank (R98). -/
def accKind (a : Arch) (bank : Nat) : Nat := tabGet (fun _ => 0) a.kind bank

/-- After rows have been zeroed: a bank all of whose rows are zeroed is without a kind (R98). -/
def accRekind (a : Arch) (bank : Nat) : Arch :=
  if a.dirty.any (fun k => k / 16 == bank) then a else { a with kind := tabSet (fun _ => 0) a.kind bank 0 }

/-- Zeroes one row (R98). -/
def accZeroRow (a : Arch) (bank row : Nat) : Arch :=
  let a := accRowPut a bank row vzero
  accRekind { a with dirty := setDel (16 * bank + row) a.dirty } bank

/-- Marks a row written by an MMA of kind `k` (R98). -/
def accMark (a : Arch) (bank row k : Nat) : Arch :=
  { a with dirty := setAdd (16 * bank + row) a.dirty, kind := tabSet (fun _ => 0) a.kind bank k }

/-- Bytes of the plate (R85). -/
def plateGet (a : Arch) (p n : Nat) : List Byte := tabBytes a.plate p n

/-- Writes bytes of the plate. -/
def platePut (a : Arch) (p : Nat) (l : List Byte) : Arch := { a with plate := tabPut a.plate p l }

/-- Size of the plate (R85). -/
def plateSize : Nat := 0x180000

/-- Whether `n` bytes at an unsigned 64-bit plate address stay within the plate (R136). -/
def plateOk (p n : Nat) : Bool := decide (p + n ≤ plateSize) && decide (p < plateSize)

end Sys2Proof.Machine
end

