-- ==== Sys2Proof/Machine/RegMap.lean ====
section
/-! DEFINITION. The register map of BAR0 (R512 to R514): for every register its offset, reset value and the bits of each field type, and the reads and writes a field type gives (R9, R10, R513, R516, R517). -/

namespace Sys2Proof.Machine

/-- A register or an array of `count` registers `stride` bytes apart: its reset value and, per field type of R9, the
bits of that type. Bits of no type are reserved. -/
structure RegDesc where
  base : Nat
  stride : Nat
  count : Nat
  reset : Nat
  rws : Nat
  rw : Nat
  w1c : Nat
  rc : Nat
  wo : Nat
  ro : Nat
  deriving DecidableEq, Repr

/-- Registers of CORE (R121). -/
def regsCore : List RegDesc := [
  ⟨0x200000, 16, 2400, 0x0, 0x0, 0x0, 0x0, 0x0, 0x0, 0xFFFF07FFFF0F7FFF⟩,
  ⟨0x200008, 16, 2400, 0xFF00, 0x1, 0x0, 0x0, 0x0, 0x0, 0xFF0E⟩]

/-- Registers of XLT (R232). -/
def regsXlt : List RegDesc := [
  ⟨0x40000, 0, 1, 0x800008, 0xFF001F, 0x0, 0x0, 0x0, 0x0, 0x0⟩,
  ⟨0x40008, 0, 1, 0x0, 0x0, 0x0, 0x0, 0x0, 0x0, 0xFFFF000F⟩,
  ⟨0x40010, 0, 1, 0x0, 0x7FFFFFFF000, 0x0, 0x0, 0x0, 0x0, 0x0⟩,
  ⟨0x40018, 0, 1, 0x0, 0x7FF011F, 0x0, 0x0, 0x0, 0x0, 0x0⟩,
  ⟨0x40020, 0, 1, 0x0, 0x7FFFFFFFFC0, 0x0, 0x0, 0x0, 0x0, 0x0⟩,
  ⟨0x40028, 0, 1, 0x0, 0x0, 0x0, 0x700000000, 0x0, 0x0, 0xFF00FF⟩,
  ⟨0x40030, 0, 1, 0x0, 0x0, 0x0, 0x0, 0xFFFFFFFF, 0x0, 0x0⟩,
  ⟨0x41000, 8, 256, 0x0, 0x80003FFFFFFFFFC0, 0x0, 0x0, 0x0, 0x0, 0x0⟩,
  ⟨0x41800, 8, 256, 0x0, 0xFFFFFFFFFFFFFFFF, 0x0, 0x0, 0x0, 0x0, 0x0⟩,
  ⟨0x42000, 8, 256, 0x0, 0x0, 0x0, 0x0, 0x0, 0x0, 0xFFFFFFFFFFFFFFFF⟩]

/-- Registers of MEM (R258). -/
def regsMem : List RegDesc := [
  ⟨0x50000, 0, 1, 0x181800, 0xFFFF01, 0x0, 0x0, 0x0, 0x0, 0x0⟩,
  ⟨0x50010, 0, 1, 0x0, 0xFC003FFFC0000000, 0x0, 0x0, 0x0, 0x0, 0x0⟩,
  ⟨0x50018, 0, 1, 0x0, 0x0, 0x0, 0x0, 0x0, 0x0, 0xFC003FFFC0000000⟩,
  ⟨0x50020, 0, 1, 0x0, 0x3FFFFFFFC000, 0x0, 0x0, 0x0, 0x0, 0x0⟩,
  ⟨0x50028, 0, 1, 0x0, 0x3FF, 0x0, 0x0, 0x0, 0x0, 0x0⟩,
  ⟨0x50030, 0, 1, 0xC0000000, 0x0, 0x0, 0x0, 0x0, 0x0, 0xFFFF001F⟩,
  ⟨0x50100, 8, 8, 0x0, 0x0, 0x0, 0x0, 0x0, 0xFFFFFFFFFFFFFFFF, 0x0⟩,
  ⟨0x50140, 0, 1, 0x0, 0x0, 0x0, 0x0, 0x0, 0xFF, 0x0⟩,
  ⟨0x50148, 0, 1, 0x0, 0x0, 0x0, 0x0, 0x0, 0x0, 0x7⟩,
  ⟨0x50150, 0, 1, 0x0, 0x0, 0x0, 0x0, 0x0, 0x0, 0xFFFFFFFFFFFFFFFE⟩]

/-- Registers of COH (R293). -/
def regsCoh : List RegDesc := [
  ⟨0x60000, 0, 1, 0x41000, 0xF1F01, 0x0, 0x0, 0x0, 0x0, 0x0⟩,
  ⟨0x60008, 0, 1, 0xC0003FF0000F3FFF, 0xFFFFFFFFFFFFFFFF, 0x0, 0x0, 0x0, 0x0, 0x0⟩,
  ⟨0x60010, 0, 1, 0xFFFFFFFFFFFF, 0x0, 0xFFFFFFFFFFFF, 0x0, 0x0, 0x0, 0x0⟩,
  ⟨0x60018, 0, 1, 0x0, 0x0, 0x0, 0x0, 0x0, 0xFFFFFFFFFFFF, 0x0⟩,
  ⟨0x60020, 0, 1, 0x0, 0x0, 0x0, 0x0, 0x0, 0x0, 0x1FFFFFFFFFFFF⟩,
  ⟨0x60028, 0, 1, 0x0, 0x3F01FFFF0001FFFF, 0x0, 0x0, 0x0, 0x0, 0x0⟩,
  ⟨0x60030, 0, 1, 0x0, 0x0, 0x3FFFFFFFFFC0, 0x0, 0x0, 0x0, 0x0⟩,
  ⟨0x60038, 0, 1, 0x0, 0x0, 0x0, 0x0, 0x0, 0x0, 0xE03FFFFFFFFFFFFF⟩,
  ⟨0x60040, 0, 1, 0x0, 0x0, 0x0, 0x0, 0xFFFFFFFFFFFFFFFF, 0x0, 0x0⟩,
  ⟨0x60048, 0, 1, 0x0, 0x0, 0x0, 0x0, 0xFFFFFFFF, 0x0, 0x0⟩,
  ⟨0x60050, 0, 1, 0x0, 0x0, 0x0, 0x0, 0xFFFFFFFFFFFFFFFF, 0x0, 0x0⟩]

/-- Registers of QSU (R358). -/
def regsQsu : List RegDesc := [
  ⟨0x30000, 0, 1, 0x400000032, 0xFF0000FFFF, 0x0, 0x0, 0x0, 0x0, 0x0⟩,
  ⟨0x30008, 0, 1, 0x0, 0x7FF07FFFFFFFFC0, 0x0, 0x0, 0x0, 0x0, 0x0⟩,
  ⟨0x30010, 0, 1, 0x0, 0x7FFFFFFFFC0, 0x0, 0x0, 0x0, 0x0, 0x0⟩,
  ⟨0x30018, 0, 1, 0x0, 0x7FF011F, 0x0, 0x0, 0x0, 0x0, 0x0⟩,
  ⟨0x30020, 0, 1, 0x0, 0x0, 0x0, 0x700000000, 0x0, 0x0, 0x0⟩,
  ⟨0x30028, 0, 1, 0x0, 0x0, 0x0, 0x0, 0xFFFFFFFF, 0x0, 0x0⟩,
  ⟨0x30100, 8, 48, 0x0, 0xFFFFFFFFFFFF, 0x0, 0x0, 0x0, 0x0, 0x0⟩,
  ⟨0x32000, 8, 1024, 0x0, 0x0, 0x0, 0x0, 0x0, 0x0, 0xFFFFFFFF007F0007⟩]

/-- Registers of HP (R380). -/
def regsHp : List RegDesc := [
  ⟨0xB0000, 0, 1, 0x84000, 0xF7FFF, 0x0, 0x0, 0x0, 0x0, 0x0⟩,
  ⟨0xB0010, 8, 4, 0x0, 0x0, 0x0, 0x0, 0x0, 0x0, 0xFFFF⟩,
  ⟨0xB0030, 0, 1, 0x0, 0x0, 0x0, 0x0, 0x0, 0x0, 0xE3⟩,
  ⟨0xB0038, 0, 1, 0x0, 0x0, 0x0, 0x0, 0x0, 0x0, 0x1F3⟩,
  ⟨0xB0040, 0, 1, 0x0, 0x0, 0x0, 0x0, 0xFFFFFFFFFFFFFFFF, 0x0, 0x0⟩]

/-- Registers of RIDE (R402). -/
def regsRide : List RegDesc := [
  ⟨0x80000, 2048, 24, 0x0, 0x103, 0x0, 0x0, 0x0, 0x0, 0x0⟩,
  ⟨0x80008, 2048, 24, 0xF800, 0x0, 0x0, 0x0, 0x0, 0x0, 0xFFF0⟩,
  ⟨0x80010, 2048, 24, 0x0, 0xFFFFFFFFFFFF, 0x0, 0x0, 0x0, 0x0, 0x0⟩,
  ⟨0x80018, 2048, 24, 0x0, 0x0, 0x0, 0x0, 0xFFFFFFFFFFFFFFFF, 0x0, 0x0⟩,
  ⟨0x80020, 2048, 24, 0x0, 0x0, 0x0, 0x0, 0x0, 0x0, 0xFFFFFFFFFFFFFFFF⟩,
  ⟨0x8C000, 0, 1, 0x0, 0x1FFF3FFFFFFFF000, 0x0, 0x0, 0x0, 0x0, 0x0⟩,
  ⟨0x8C008, 0, 1, 0x0, 0xFE003FFFC0000000, 0x0, 0x0, 0x0, 0x0, 0x0⟩,
  ⟨0x8C010, 0, 1, 0x0, 0x1FFF3FFFFFF00000, 0x0, 0x0, 0x0, 0x0, 0x0⟩,
  ⟨0x8C018, 0, 1, 0x0, 0x0, 0x0, 0x0, 0x0, 0x0, 0xFFFFFFFF⟩,
  ⟨0x8C020, 0, 1, 0x1000, 0x1FFFF, 0x0, 0x0, 0x0, 0x0, 0x0⟩]

/-- Registers of PWR (R436). -/
def regsPwr : List RegDesc := [
  ⟨0x70000, 0, 1, 0x300, 0xF03, 0x0, 0x0, 0x0, 0x0, 0x0⟩,
  ⟨0x70008, 0, 1, 0xFA0, 0x0, 0x1FFF, 0x0, 0x0, 0x0, 0x0⟩,
  ⟨0x70010, 0, 1, 0xFA0, 0x0, 0x0, 0x0, 0x0, 0x0, 0x3FFF⟩,
  ⟨0x70018, 0, 1, 0xAF0042400DC, 0x1FFF1FFF0000, 0x0, 0x0, 0x0, 0x0, 0x1FFF⟩,
  ⟨0x70020, 0, 1, 0xA000001111, 0x1FF0000FFFF, 0x0, 0x0, 0x0, 0x0, 0x0⟩,
  ⟨0x70028, 0, 1, 0x96000C8, 0x1FFFFFFF, 0x0, 0x0, 0x0, 0x0, 0x0⟩,
  ⟨0x70030, 0, 1, 0xFA000000000, 0x0, 0x0, 0x0, 0x0, 0x0, 0x1FFF0000003F⟩,
  ⟨0x70038, 0, 1, 0x0, 0x0, 0x0, 0xF, 0x0, 0x0, 0x0⟩,
  ⟨0x70040, 0, 1, 0x0, 0x0, 0x0, 0x0, 0x0, 0x0, 0xFFFF0000FFFF⟩,
  ⟨0x70048, 0, 1, 0x100000000000, 0x0, 0x0, 0x0, 0x0, 0x0, 0xFFFF0000FFFF⟩,
  ⟨0x70080, 8, 4, 0x70, 0x0, 0x0, 0x0, 0x0, 0x0, 0xFFFF1FFF1FFF007F⟩,
  ⟨0x700A0, 0, 1, 0x0, 0x0, 0x0, 0x0, 0x0, 0x0, 0x1FFF1FFF0003⟩,
  ⟨0x70100, 0, 1, 0x0, 0x0, 0x0, 0x0, 0x0, 0x0, 0xFFFFFFFFFFFFFFFF⟩,
  ⟨0x70108, 0, 1, 0x0, 0x0, 0x0, 0x0, 0x0, 0x0, 0xFFFFFFFFFFFFFFFF⟩,
  ⟨0x71000, 8, 48, 0x0, 0x0, 0x0, 0x0, 0x0, 0x0, 0xFFFFFFFFFFFFFFFF⟩,
  ⟨0x72000, 8, 1024, 0x0, 0x0, 0x0, 0x0, 0x0, 0x0, 0xFFFFFFFFFFFFFFFF⟩]

/-- Registers of FLT (R466); the record registers by their offset in the record. -/
def regsFr : List RegDesc := [
  ⟨0x1F0000, 8, 3, 0x0, 0x87FF0000, 0x0, 0x0, 0x0, 0x0, 0x0⟩,
  ⟨0x1F0018, 8, 2, 0x0, 0x07FF0000, 0x0, 0x0, 0x0, 0x0, 0x0⟩,
  ⟨0x1F0028, 0, 1, 0x0, 0x87FF0000, 0x0, 0x0, 0x0, 0x0, 0x0⟩,
  ⟨0x1F0030, 8, 8, 0x0, 0x07FF0000, 0x0, 0x0, 0x0, 0x0, 0x0⟩,
  ⟨0x1F0800, 0, 1, 0x0, 0x0, 0x0, 0x0, 0x0, 0x100000000, 0x80000FFF⟩,
  ⟨0x1F1000, 0, 1, 0x4080, 0x0, 0x1FFFF, 0x0, 0x0, 0x0, 0x0⟩,
  ⟨0x1F1008, 0, 1, 0x0, 0x0, 0x0, 0x0, 0x0, 0x0, 0x3FFFFFFFFFFFF⟩,
  ⟨0x1F1010, 0, 1, 0x0, 0x0, 0x0, 0x0, 0x0, 0x0, 0x7FF⟩]

/-- Registers of FLT (R466); the record registers by their offset in the record. -/
def regsRecord : List RegDesc := [
  ⟨0x0, 0, 1, 0x0, 0x0, 0x0, 0x30, 0x0, 0x0, 0xFF0107⟩,
  ⟨0x8, 0, 1, 0x0, 0x0, 0x0, 0x0, 0x0, 0x0, 0xFFFFFFFFFFFFFFFF⟩,
  ⟨0x10, 0, 1, 0x0, 0x0, 0x0, 0x0, 0x0, 0x0, 0xFFFFFFFFFFFFFFFF⟩,
  ⟨0x18, 0, 1, 0x0, 0x0, 0x0, 0x0, 0xFFFFFFFFFFFFFFFF, 0x0, 0x0⟩,
  ⟨0x20, 0, 1, 0x0, 0x7777777777777777, 0x0, 0x0, 0x0, 0x0, 0x0⟩,
  ⟨0x28, 0, 1, 0x0, 0x0, 0x0, 0x0, 0x0, 0xFFFF, 0x0⟩,
  ⟨0x30, 0, 1, 0x0, 0x0, 0x8000000F0000FFFF, 0x0, 0x0, 0x0, 0x0⟩,
  ⟨0x38, 0, 1, 0x3E8, 0x3FFF, 0x0, 0x0, 0x0, 0x0, 0x0⟩,
  ⟨0x40, 0, 1, 0x0, 0x0, 0x0, 0x0, 0x0, 0x0, 0xFFFF⟩,
  ⟨0x80, 0, 1, 0x0, 0x0, 0x0, 0x0, 0x0, 0x0, 0xFFFFFFFFFFFFFFFF⟩]

/-- Registers of PRF (R494). -/
def regsPrf : List RegDesc := [
  ⟨0x90000, 0, 1, 0x0, 0x10F10, 0x0, 0x0, 0x0, 0x0, 0xF⟩,
  ⟨0x90008, 0, 1, 0x0, 0xFFFFFFFFFFFFFFFF, 0x0, 0x0, 0x0, 0x0, 0x0⟩,
  ⟨0x90010, 0, 1, 0x0, 0x800FFF00FFFFFFFF, 0x0, 0x0, 0x0, 0x0, 0x0⟩,
  ⟨0x90018, 0, 1, 0x0, 0xFFFFFFFFFFFFFFFF, 0x0, 0x0, 0x0, 0x0, 0x0⟩,
  ⟨0x90020, 0, 1, 0x0, 0x3FF, 0x0, 0x0, 0x0, 0x0, 0x0⟩,
  ⟨0x90028, 0, 1, 0x0, 0x3FF03FF0007, 0x0, 0x0, 0x0, 0x0, 0x0⟩,
  ⟨0x90030, 0, 1, 0x0, 0xFFFFFFFFFFFFFFFF, 0x0, 0x0, 0x0, 0x0, 0x0⟩,
  ⟨0x90038, 0, 1, 0x0, 0xFFFFFFFFFFFFFFFF, 0x0, 0x0, 0x0, 0x0, 0x0⟩,
  ⟨0x90040, 0, 1, 0x0, 0xFFFFFFFFFFFFFFFF, 0x0, 0x0, 0x0, 0x0, 0x0⟩,
  ⟨0x90048, 0, 1, 0x0, 0x0, 0x0, 0x0, 0x0, 0x0, 0xFF0000000F⟩,
  ⟨0x90050, 0, 1, 0x0, 0x0, 0x0, 0x0, 0x0, 0x0, 0xFFFFFFFFFFFFFFFF⟩]

/-- Registers of DEV (R511). -/
def regsDev : List RegDesc := [
  ⟨0x20000, 0, 1, 0x0, 0x0, 0x1, 0x0, 0x0, 0xFF0700000000, 0x0⟩,
  ⟨0x20008, 0, 1, 0x0, 0x0, 0x0, 0x0, 0xFFFFFFFF00000000, 0x0, 0xF07000E⟩,
  ⟨0x20010, 0, 1, 0xFFFF0000, 0x0, 0x0, 0x0, 0x0, 0x0, 0xFFFF00FF⟩,
  ⟨0x20018, 0, 1, 0x0, 0x3FFF3FFFFFFFF000, 0x0, 0x0, 0x0, 0x0, 0x0⟩,
  ⟨0x20020, 0, 1, 0x0, 0x0, 0x0, 0x0, 0x0, 0x0, 0xFFFFFFFFFFFFFF0F⟩,
  ⟨0x20028, 0, 1, 0x0, 0x0, 0x3FFFFFFF0000, 0x0, 0x0, 0x8000000000000000, 0x6000000000000000⟩,
  ⟨0x20030, 0, 1, 0x0, 0x0, 0x0, 0x0, 0x0, 0x0, 0xFFF1FF⟩,
  ⟨0x20038, 0, 1, 0x0, 0x0, 0x0, 0x0, 0x0, 0x0, 0xFFFFFFFFFFF⟩,
  ⟨0x20040, 0, 1, 0x0, 0x0, 0x0, 0x0, 0x0, 0xFF03, 0x0⟩]

/-- Registers of MBX (R519). -/
def regsMbx : List RegDesc := [
  ⟨0xA0000, 0, 1, 0x0, 0x0, 0x0, 0x0, 0x0, 0xFFFFFFFF00FF, 0x0⟩,
  ⟨0xA0008, 0, 1, 0x0, 0x0, 0x0, 0x2, 0x0, 0x0, 0xFFFFFFFF0000FF01⟩,
  ⟨0xA0010, 0, 1, 0x0, 0x7FF0100, 0x0, 0x0, 0x0, 0x0, 0x0⟩,
  ⟨0xA1000, 8, 512, 0x0, 0x0, 0xFFFFFFFFFFFFFFFF, 0x0, 0x0, 0x0, 0x0⟩,
  ⟨0xA2000, 8, 512, 0x0, 0x0, 0x0, 0x0, 0x0, 0x0, 0xFFFFFFFFFFFFFFFF⟩]

/-- All registers of fixed offset. -/
def regTable : List RegDesc := regsCore ++ regsXlt ++ regsMem ++ regsCoh ++ regsQsu ++ regsHp ++ regsRide ++ regsPwr ++ regsFr ++ regsPrf ++ regsDev ++ regsMbx

/-- Class of a fault-record index (R437); `none` for an index the table does not list. -/
def frClass (i : Nat) : Option Nat :=
  if i < 0x960 then some 0 else if i < 0x990 then some 1 else if i < 0xA50 then some 2
  else if i < 0xA5C then some 3 else if i < 0xA60 then none else if i < 0xA70 then some 4
  else if i < 0xA88 then some 5 else if i < 0xA8C then some 6 else if i < 0xA90 then some 7
  else if i < 0xA96 then some (i - 0xA90 + 8) else none

/-- FR_REACT's reset value by class (R514). -/
def reactReset (k : Nat) : Nat :=
  match k with
  | 0 => 0x13331030 | 1 => 0x00301010 | 2 => 0x00003030 | 3 => 0x150111110 | 4 => 0x05501110
  | 5 => 0x00300010 | 6 => 0x00005510 | 7 => 0x00001150 | 8 => 0x00000005 | 9 => 0 | 10 => 0x55 | 11 => 0x51
  | 12 => 0x550 | 13 => 0x511 | _ => 0

/-- Whether an offset of BAR0 is this register, and which of its array. -/
def regHit (d : RegDesc) (off : Nat) : Bool :=
  if d.stride = 0 then off == d.base
  else decide (d.base ≤ off) && (off - d.base) % d.stride == 0 && decide ((off - d.base) / d.stride < d.count)

/-- The record index and in-record offset of a FLT offset (R437). -/
def frSplit (off : Nat) : Nat × Nat := ((off - 0x100000) / 0x100, off % 0x100)

/-- Bits of the reaction fields of the sources a class has (R441): FR_REACT's reserved sources read as zero. -/
def srcCount (k : Nat) : Nat :=
  match k with
  | 0 => 8 | 1 => 6 | 2 => 4 | 3 => 9 | 4 => 7 | 5 => 6 | 6 => 4 | 7 => 4 | 8 => 3 | 9 => 2 | 10 => 2 | 11 => 2 | 12 => 4
  | _ => 3

/-- The register at a BAR0 offset, with its own reset value (R514); `none` where nothing lies (R513). -/
def regAt (off : Nat) : Option RegDesc :=
  if 0x100000 ≤ off ∧ off < 0x1F0000 then
    let p := frSplit off
    match frClass p.1 with
    | none => none
    | some k =>
      if p.2 = 0x80 ∧ k ≠ 0 ∧ k ≠ 7 then none
      else match regsRecord.find? (fun d => d.base == p.2) with
        | none => none
        | some d => if p.2 = 0x20 then some { d with reset := reactReset k, rws := 0x7777777777777777 % 2 ^ (4 * srcCount k) }
                    else if p.2 = 0x28 then some { d with wo := 2 ^ srcCount k - 1 }
                    else some d
  else regTable.find? (fun d => regHit d off)

/-- Reset value of the register at a BAR0 offset; zero where nothing lies. -/
def regReset (off : Nat) : W64 :=
  match regAt off with
  | some d => BitVec.ofNat 64 d.reset
  | none => 0

/-- The stored value a host write leaves (R9, R516): `lock` is whether RWS fields are locked. WO and RO bits are
not stored by a write. -/
def regWritten (d : RegDesc) (lock : Bool) (old v : Nat) : Nat :=
  let m := if lock then d.rw else d.rws ||| d.rw
  let kept := old - (old &&& m)
  let w := kept ||| (v &&& m)
  w - (w &&& (v &&& d.w1c))

/-- The value a host read returns from the stored value (R9, R10). -/
def regShown (d : RegDesc) (x : Nat) : Nat := x &&& (d.rws ||| d.rw ||| d.w1c ||| d.rc ||| d.ro)

end Sys2Proof.Machine
end

