-- ==== Sys2Proof/Machine/MemState.lean ====
section
/-! DEFINITION. The state of the memory tiers (R234 to R257), the L2 slices, home agents and messages (R269 to R292), translation (R207 to R233), movers (R197 to R206), queues, launches, clearings and the two host rings (R318 to R357). -/

namespace Sys2Proof.Machine

/-- A key command in progress (R244): its operation, slot, and the pair it loads. -/
structure KeyCmd where
  load : Bool
  slot : Nat
  pair : Nat
  deriving DecidableEq, Repr

/-- A write held until its understory page has been overwritten (R256). -/
structure HeldWrite where
  line : Nat
  sel : Nat
  mask : Nat
  data : List Byte
  poison : Bool
  deriving DecidableEq, Repr

/-- The memory tiers and what guards them: bytes, keys, poison, wipe, bias table, window (R238 to R258). -/
structure Tiers where
  /-- Bytes as last written, by 46-bit physical address; canopy, understory, floor. -/
  bytes : Tab Byte
  /-- Key pair under which a line was written (0 plaintext), by line PA[45:6]. -/
  enc : Tab Nat
  /-- Poisoned lines (R240). -/
  poison : NatSet
  /-- Key slots 1–63: the loaded pair, 0 for empty (R242). -/
  slots : Tab Nat
  /-- The key command running (R244) and RESULT. -/
  keyCmd : Option KeyCmd
  keyResult : Nat
  /-- Host-bias pages cached from the table (R247). -/
  bias : NatSet
  /-- Window in force: BASE (PA[45:30]), selector, whether it serves (R251). -/
  winBase : Nat
  winSel : Nat
  /-- Understory overwrite (R255, R256): next page of the pass, pages brought forward, and held writes. -/
  owNext : Nat
  owEarly : NatSet
  owHeld : List HeldWrite
  /-- Pages that a write waits for (R256). -/
  owWant : NatSet
  /-- Wipe steps done (R255): plates, caches, erased, canopy. -/
  wPlates : Bool
  wCaches : Bool
  wErased : Bool
  wCanopy : Bool
  deriving DecidableEq, Repr

/-- One L2 way (R269): state 0 I, 1 S, 2 M. -/
structure L2Way where
  tag : Nat
  st : Nat
  written : Bool
  poison : Bool
  sel : Nat
  pinned : Bool
  pres : Nat
  data : List Byte
  deriving DecidableEq, Repr

/-- A directory entry (R276): 0 NONE, 1 SHARED, 2 OWNED. -/
structure DirE where
  st : Nat
  owner : Nat
  sharers : Nat
  deriving DecidableEq, Repr

/-- Message kinds (R279). -/
inductive MK where
  | rdS | rdM | upg | own | rdCur | wrInv | wrHint
  | snpS | snpI | snpCur
  | ackI | ackS | ackFwd | nack | gnt | cmp | evaAck
  | data
  | evaClean | evaDirty
  deriving DecidableEq, Repr

/-- A message in flight: kind, line, source, destination (slices 0–47, home 100, outside agent 200), data, poison, the
WRITTEN bit handed over, selector, byte mask, target slice. -/
structure Msg where
  k : MK
  line : Nat
  src : Nat
  dst : Nat
  data : List Byte
  poison : Bool
  wr : Bool
  sel : Nat
  mask : Nat
  tgt : Nat
  deriving DecidableEq, Repr

/-- A copy of a line in a slice: its data, poison, WRITTEN and selector. -/
structure Own where
  slice : Nat
  data : List Byte
  poison : Bool
  wr : Bool
  sel : Nat
  deriving DecidableEq, Repr

/-- A transaction at a home (R276): the request, the slices whose answers it awaits, whether it awaits the host, the
data an owner supplied, and whether it has answered its requester. -/
structure Busy where
  line : Nat
  req : Msg
  wait : List Nat
  host : Bool
  got : Option Own
  fwd : Bool
  done : Bool
  deriving DecidableEq, Repr

/-- An outstanding request for a line (R281, R287): its slice, or from 200 on an agent without a cache (200 one outside the
table's units, 300 + m mover m, 500 the window, 600 + i ride port i), of which only the NACKs in a row are kept; its kind,
class (0 CORE, 1 MOVER, 2 HINT, 3 WATCH), NACKs in a row, whether it waits to retry, and whether a store asked (R281's
WRITTEN = 1). -/
structure Mshr where
  slice : Nat
  line : Nat
  k : MK
  cls : Nat
  nacks : Nat
  retry : Bool
  sel : Nat
  store : Bool
  deriving DecidableEq, Repr

/-- A line in a slice's eviction buffer (R281). -/
structure EvLine where
  slice : Nat
  line : Nat
  data : List Byte
  poison : Bool
  sel : Nat
  /-- A snoop has taken the line; the entry only awaits EVA_ACK. -/
  dead : Bool
  deriving DecidableEq, Repr

/-- A watched line (R273): its slice and whether its refetch is pending. -/
structure Watch where
  line : Nat
  slice : Nat
  way : Nat
  refetch : Bool
  wake : Bool
  deriving DecidableEq, Repr

/-- L2, homes and messages. -/
structure Coh where
  /-- L2 ways: key (4096·slice + set)·16 + way. -/
  l2 : Tab L2Way
  /-- Pseudo-LRU bits: key 4096·slice + set (R271). -/
  lru : Tab Nat
  dir : Tab DirE
  busy : List Busy
  net : List Msg
  /-- Messages that wait at their sender for a credit of the destination's input (R280), in order. -/
  stall : List Msg
  mshr : List Mshr
  ev : List EvLine
  /-- Retry reservations in grant order: (line, slice) (R288). -/
  resv : List (Nat × Nat)
  watch : List Watch
  /-- Host-level state of floor lines: 0 I, 1 S, 2 M (R285). -/
  hostSt : Tab Nat
  /-- Floor lines written back whose completion the host port has not returned (R306). -/
  wb : List Nat
  /-- Groves whose L1s are enabled is COH_L1_EN; a COH_L1_INVAL in progress names these groves (R267). -/
  l1inv : NatSet
  l1busy : Bool
  stale : NatSet
  /-- Groves whose L1s have been invalidated since they were disabled (R268). -/
  l1clean : NatSet
  /-- COH_PROBE's report (R293). -/
  probeRun : Bool
  probe : Nat
  deriving DecidableEq, Repr

/-- An XLT_INVAL drain (R227): its queue command, the epochs it waits for. -/
structure Drain where
  q : Nat
  idx : Nat
  epoch : Nat
  deriving DecidableEq, Repr

/-- A stream fault record not yet written (R225): the record's fields as 64 bytes but for PHASE, the stream's mover,
and whether it awaits a response. -/
structure PendRec where
  mover : Nat
  sid : Nat
  bytes : List Byte
  awaits : Bool
  deriving DecidableEq, Repr

/-- Translation state. -/
structure Xlt where
  /-- Central cache, newest first (R216). -/
  cache : List Leaf
  /-- Level-1 table of each root as latched, plus 1; 0 not latched (R212, R214). -/
  l1 : Tab Nat
  epoch : Nat
  drains : List Drain
  /-- Fault queue: T, P, records awaiting a response as (count, mover, stream), and pending records (R222 to R225). -/
  fqT : Nat
  fqP : Nat
  fqWait : List (Nat × Nat × Nat)
  fqPend : List PendRec
  deriving DecidableEq, Repr

/-- Why a mover's stream is not issuing; `cut` is a stream a clearing has cut (R34). -/
inductive StreamSt where
  | running | faulted | awaiting | done | cut
  deriving DecidableEq, Repr

/-- A transaction of an issued tile (R203): its length, the physical source with its selector, the destination (physical,
plate or landing offset) with its selector, and the epoch of its translations. -/
structure MvTxn where
  tile : Nat
  len : Nat
  src : Nat
  ssel : Nat
  dst : Nat
  dsel : Nat
  epoch : Nat
  /-- It reads or writes the floor and holds a credit of the host pool (R24). -/
  host : Bool
  deriving DecidableEq, Repr

/-- A stream on a mover (R197 to R205). -/
structure Stream where
  sid : Nat
  desc : List Byte
  /-- MOVE: queue and descriptor index; MVI: the issuing core. -/
  q : Nat
  idx : Nat
  core : Option Nat
  root : Nat
  comp : Nat
  seq : Nat
  ctx : Nat
  ro : Bool
  tile : Nat
  tdone : Nat
  txns : List MvTxn
  st : StreamSt
  cause : Nat
  aborted : Bool
  /-- The stream has made an ordered host-bound write, and the link it keeps for them (R372). -/
  hw : Bool
  link : Nat
  /-- It writes no completion word: the word could not be translated (R204), or its descriptor was refused (R200). -/
  cwf : Bool
  /-- Leaves the prefetcher holds for this stream (R217). -/
  pfb : List Leaf
  deriving DecidableEq, Repr

/-- A mover: its streams (one descriptor at a time, R197) and those waiting to be accepted. -/
structure Mover where
  cur : Option Stream
  waiting : List Stream
  deriving DecidableEq, Repr

/-- States of a queue (R358). -/
inductive QSt where
  | disabled | idle | active | notReady | overrun | cplFull | hold
  deriving DecidableEq, Repr

/-- A running command (R332): its index, descriptor and progress. -/
structure RunCmd where
  idx : Nat
  desc : List Byte
  /-- Internal phase of a command that runs over several events. -/
  phase : Nat
  val : Nat
  /-- Its share of the estimator's energy so far, in fJ (R430). -/
  fj : Nat
  deriving DecidableEq, Repr

/-- A queue (R318, R321). -/
structure Queue where
  en : Bool
  priv : Bool
  root : Nat
  comp : Nat
  rlog : Nat
  clog : Nat
  vec : Nat
  ring : Nat
  cpl : Nat
  slot : Nat
  fetched : Nat
  started : Nat
  completed : Nat
  tail : Nat
  cplHead : Nat
  /-- Fetch buffer, oldest first (R328). -/
  buf : List (List Byte)
  /-- Running commands, oldest first (R332). -/
  run : List RunCmd
  /-- Attempts a descriptor under check has failed (R324), and whether a wake has come meanwhile (R323). -/
  tries : Nat
  kept : Bool
  st : QSt
  /-- The slot's bytes as last read, to notice a change (R323, R324). -/
  seen : List Byte
  deriving DecidableEq, Repr

/-- A running LAUNCH (R111, R118): its queue command, the cores it runs on, and its first exception. -/
structure Launch where
  q : Nat
  idx : Nat
  comp : Nat
  /-- The compartment's groves when it started, ascending, and the cores it runs on. -/
  groves : List Nat
  cores : List Nat
  loaded : Bool
  chains : List Byte
  first : Option (Nat × Nat × Nat)
  cut : Bool
  streamAbort : Bool
  /-- Links that carried ordered host-bound writes of its streams (R372). -/
  links : NatSet
  deriving DecidableEq, Repr

/-- A clearing (R32): queue command, compartments, and the step under way; at step 0 it waits for a proof's capture, or for a
RESTORE or RESLICE (R34). The clearing of a disable (R509) has no command. -/
structure Clearing where
  q : Nat
  idx : Nat
  whole : Bool
  comps : List Nat
  step : Nat
  auto : Bool
  deriving DecidableEq, Repr

/-- Queue engine state shared by all queues. -/
structure Qsu where
  queues : Tab Queue
  launches : List Launch
  clears : List Clearing
  /-- Period number of each compartment (R35). -/
  period : Tab Nat
  /-- Event ring: tail count, head in use (R346). -/
  evT : Nat
  evP : Nat
  /-- TOPO_GEN (R355). -/
  topoGen : Nat
  /-- The event ring of the latest accepted enable is in use (R346). -/
  evOn : Bool
  deriving DecidableEq, Repr

/-- An invalid way. -/
def l2way0 : L2Way := ⟨0, 0, false, false, 0, false, 0, []⟩
/-- No directory entry. -/
def dir0 : DirE := ⟨0, 0, 0⟩
/-- A disabled queue. -/
def queue0 : Queue :=
  { en := false, priv := false, root := 0, comp := 63, rlog := 0, clog := 0, vec := 0, ring := 0, cpl := 0, slot := 0,
    fetched := 0, started := 0, completed := 0, tail := 0, cplHead := 0, buf := [], run := [], tries := 0, kept := false,
    st := .disabled, seen := [] }
/-- An idle mover. -/
def mover0 : Mover := ⟨none, []⟩
/-- Tiers after reset: nothing stored, every slot empty, no wipe step done (R255). -/
def tiers0 : Tiers :=
  { bytes := [], enc := [], poison := [], slots := [], keyCmd := none, keyResult := 0, bias := [], winBase := 0, winSel := 0,
    owNext := 0, owEarly := [], owHeld := [], owWant := [], wPlates := false, wCaches := false, wErased := false, wCanopy := false }
/-- Caches and homes after reset: empty. -/
def coh0 : Coh :=
  { l2 := [], lru := [], dir := [], busy := [], net := [], stall := [], mshr := [], ev := [], resv := [], watch := [],
    hostSt := [], wb := [],
    l1inv := [], l1busy := false, stale := [], l1clean := [], probeRun := false, probe := 0 }
/-- Translation after reset. -/
def xlt0 : Xlt :=
  { cache := [], l1 := [], epoch := 0, drains := [], fqT := 0, fqP := 0, fqWait := [], fqPend := [] }
/-- Queue engines after reset. -/
def qsu0 : Qsu := { queues := [], launches := [], clears := [], period := [], evT := 0, evP := 0, topoGen := 0, evOn := false }

end Sys2Proof.Machine
end

