-- ==== Sys2Proof/Machine/HostState.lean ====
section
/-! DEFINITION. The state of the host port: links, MSI-X, decoders, read-ahead, loss and the waits for zero-length reads (R359 to R380). -/

namespace Sys2Proof.Machine

/-- A host-port link as HP_LINK_n shows it (R380). -/
structure Link where
  trained : Bool
  ide : Bool
  width : Nat
  l0p : Nat
  rate : Nat
  flit : Nat
  pm : Nat
  /-- The link's IDE key of 256 bits, and whether CXL IDE runs in skid mode, not containment mode (R362). -/
  key : Nat
  skid : Bool
  /-- The host has negotiated L0p (R373). -/
  neg : Bool
  deriving DecidableEq, Repr

/-- What the host writes into a function's configuration space (R365, R374, R378): the command register, the address bits of the
BAR, the PM state, and Link Control's enable of L1. -/
structure FnCfg where
  cmd : Nat
  bar : Nat
  pm : Nat
  l1 : Bool
  deriving DecidableEq, Repr

/-- An MSI-X table entry (R367). -/
structure Msix where
  addr : Nat
  data : Nat
  mask : Bool
  deriving DecidableEq, Repr

/-- A window line in the read-ahead buffer (R351, R370): the window offset, and the line and selector it stood for. -/
structure RaLine where
  off : Nat
  line : Nat
  sel : Nat
  data : List Byte
  poison : Bool
  deriving DecidableEq, Repr

/-- A completion that waits for zero-length reads on some links (R372): the queue command, its status and detail. -/
structure Defer where
  links : List Nat
  q : Nat
  idx : Nat
  status : Nat
  d0 : Nat
  d1 : Nat
  deriving DecidableEq, Repr

/-- The host port. -/
structure HostPort where
  links : Tab Link
  /-- HOLD, its cause and link (R375, R376). -/
  hold : Bool
  cause : Nat
  link : Nat
  /-- Committed ways + 1 of each function's decoder; 0 uncommitted (R368). -/
  hdm : Tab Nat
  /-- Position of each function in the interleave its decoder was committed for (R368). -/
  hpos : Tab Nat
  /-- Functions whose decoders the host has yet to commit again since the loss of the host link (R257, R378). -/
  again : NatSet
  /-- Configuration space of each function. -/
  fns : Tab FnCfg
  msixEn : Bool
  fmask : Bool
  msix : Tab Msix
  pba : NatSet
  ra : List RaLine
  /-- Window offset + 64 of the last line read, 0 for none (R370). -/
  lastRd : Nat
  defer : List Defer
  /-- The functions answer configuration requests (R498). -/
  cfgReady : Bool
  deriving DecidableEq, Repr

/-- An error a unit has detected and not yet handled within the step: record, source, syndrome, address, forced. -/
structure ErrNote where
  recd : Nat
  src : Nat
  synd : Nat
  addr : Nat
  forced : Bool
  deriving DecidableEq, Repr

/-- An entry of a ranger log (R521). -/
structure LogEntry where
  seq : Nat
  w0 : Nat
  w1 : Nat
  w2 : Nat
  deriving DecidableEq, Repr

/-- Fault handling beside the record registers: the actions each record's episode has taken (bit 0 event, 1 trap, 2 unit, 3
pin), the ranger's fault log, the lookout, and wear history (R443, R442, R459, R462). -/
structure Flt where
  episode : Tab Nat
  log : List LogEntry
  logSeq : Nat
  armed : Bool
  restored : Bool
  eol : Nat
  eolCore : Nat
  /-- Predicted end of life of each stand's cores (R457). -/
  standEol : Tab Nat
  /-- FLT_LOOKOUT: whether the estimate was at or above the threshold. -/
  above : Bool
  /-- Units fenced by faults since the last enable: record numbers (R450). -/
  fenced : NatSet
  /-- FLT_PIN.RECORD was kept through a DEVICE_RESET and CLEAR has not been written since (R518). -/
  pinHeld : Bool
  deriving DecidableEq, Repr

/-- Fault handling after reset: no episode, empty log, prediction 0xFFFF (R514). -/
def flt0 : Flt :=
  { episode := [], log := [], logSeq := 0, armed := false, restored := false, eol := 0xFFFF,
    eolCore := 0, standEol := [], above := false, fenced := [], pinHeld := false }

/-- A link that has not trained. -/
def link0 : Link := ⟨false, false, 0, 0, 0, 0, 0, 0, false, false⟩
/-- A function's configuration at its reset values. -/
def fnCfg0 : FnCfg := ⟨0, 0, 0, false⟩
/-- An MSI-X entry after reset: address and data 0, masked (R514). -/
def msix0 : Msix := ⟨0, 0, true⟩
/-- The host port after reset. -/
def hostPort0 : HostPort :=
  { links := [], hold := false, cause := 0, link := 0, hdm := [], hpos := [], again := [], fns := [], msixEn := false, fmask := false,
    msix := [], pba := [], ra := [], lastRd := 0, defer := [], cfgReady := false }

end Sys2Proof.Machine
end

