-- ==== Sys2Proof/Machine/UnitState.lean ====
section
/-! DEFINITION. The state of the ride ports (R381 to R402), power (R403 to R436), proofs and pairs (R467 to R494), and the life cycle (R495 to R511). -/

namespace Sys2Proof.Machine

/-- A ride cell kept by a port: type (R385), link sequence, payload, the port mask that first sent it (R183, R198),
its resends (R387), whether a chain cell that is held has passed its period check (R185), and whether a cell that waits for
a port has been sent before (R388). -/
structure RCell where
  ty : Nat
  lseq : Nat
  data : List Byte
  mask : Nat
  tries : Nat
  ok : Bool
  re : Bool
  deriving DecidableEq, Repr

/-- A ride port (R383, R386, R387). -/
structure Port where
  /-- RIDE_STATUS.STATE. -/
  st : Nat
  lanes : Nat
  /-- A lane lacks block lock and the 10 µs timer runs (R387). -/
  lockTimer : Bool
  nport : Nat
  nmode : Nat
  nserial : Nat
  /-- Last LSEQ sent, last accepted, and the one last reported; whether NAK is to be sent, and whether a bad cell has come
  since the last accepted one. -/
  tx : Nat
  rx : Nat
  ackd : Nat
  nak : Bool
  bad : Bool
  /-- Replay buffer, oldest first; cells waiting for a credit. -/
  replay : List RCell
  waitq : List RCell
  /-- Credits held toward the neighbour, and freed here and not yet returned: CHAIN, TILE, FENCE, WINDOW, RSP, PROOF. -/
  cred : List Nat
  owed : List Nat
  /-- CHAIN and TILE cells held for a later period, order or binding (R35, R185). -/
  held : List RCell
  deriving DecidableEq, Repr

/-- An outstanding request over a port: kind 0 a core's load, 1 a core's store, 2 a SIGNAL; its tag or MSGID; core and
load tag or store entry, or queue and index. -/
structure RWait where
  kind : Nat
  tag : Nat
  port : Nat
  a : Nat
  b : Nat
  deriving DecidableEq, Repr

/-- A plate landing whose data is not yet visible at every destination (R391): its number, which its accesses at the X ports
carry, its port, the cell's payload, and whether its TAG had landed before. It holds a transaction of the ride and ranger
pool (R386). -/
structure LandRun where
  id : Nat
  port : Nat
  data : List Byte
  seen : Bool
  deriving DecidableEq, Repr

/-- An unacknowledged tile of a mover: its TAG, the mover, the ports' mask (R391). -/
structure TWait where
  tag : Nat
  mover : Nat
  tile : Nat
  mask : Nat
  deriving DecidableEq, Repr

/-- Ride state of the whole complex. -/
structure Ride where
  ports : Tab Port
  /-- Landing table as copied at enable (R390): entry index to its four words; validity is checked as it was copied. -/
  land : List (Nat × List Nat)
  /-- TAGs that landed, per sending serial, newest first (R388); and fence results (R388). -/
  landed : List (Nat × Nat)
  fences : List (Nat × Nat × Nat × Nat)
  waits : List RWait
  tiles : List TWait
  /-- Plate landings in progress, and the next number (R391). -/
  lands : List LandRun
  nextLand : Nat
  nextTag : Nat
  nextMsg : Nat
  /-- Compartment + 1 of the latest binding of a chain identifier on a port since enable (R185): key 4096·port + identifier. -/
  bound : Tab Nat
  /-- Halvings of a queue pair's rate (R395). -/
  rate : Tab Nat
  /-- RDMA requests answered with a NAK (R396). -/
  naks : Nat
  /-- RIDE_RWIN was valid at enable (R246, R393). -/
  rwinOk : Bool
  deriving DecidableEq, Repr

/-- A power domain: stands 0 to 3 and memory 4 (R410 to R413, R419). -/
structure Dom where
  point : Nat
  /-- Duty less one (R419). -/
  duty : Nat
  /-- A voltage step under way: 0 none, 1 down, 2 up; and its target point. -/
  step : Nat
  target : Nat
  /-- Consecutive intervals in which the next point up, or the next duty, fitted. -/
  fit : Nat
  deriving DecidableEq, Repr

/-- A debounced input (R426, R427): asserted as the complex obeys it, its chatter episode. -/
structure Pin where
  on : Bool
  raw : Bool
  chat : Bool
  deriving DecidableEq, Repr

/-- Power state beside the PWR registers. -/
structure Pwr where
  doms : Tab Dom
  throttle : Pin
  alert : Pin
  /-- Intervals below 38.0 V in a row; a dropout, surge or sag in progress, and the extreme voltage seen. -/
  low : Nat
  drop : Bool
  surge : Bool
  ext : Nat
  dur : Nat
  /-- Latest ripple (R404): in progress, and its peak-to-peak. -/
  ripple : Bool
  ripplePp : Nat
  /-- Sums over the current millisecond for K (R416): measured, leakage and LINK, dynamic without K, in DU × 4,096. -/
  sumM : Nat
  sumL : Nat
  sumD : Nat
  /-- A disturbance or an implausible measurement fell in the current millisecond (R416). -/
  spoil : Bool
  /-- Windows since the latest ripple was logged, at most 1,000 (R404). -/
  ripGap : Nat
  /-- Intervals in a row: of disagreement, or with EST_DIVERGE set of agreement (R417); of plausible readings (R418); over the
  cap at the floors; and within it (R420). -/
  agree : Nat
  plaus : Nat
  aboveN : Nat
  under : Nat
  /-- The 29 temperatures, in °C (R534), and the thermal actions in force (R535). -/
  temps : List Nat
  hot : NatSet
  /-- Checks in a row with an action's sensor 5 °C below its threshold (R535). -/
  cool : Tab Nat
  /-- Energy since enable in fJ, and what commands have taken of it in µJ (R430). -/
  energy : Nat
  taken : Nat
  /-- Rises that grove starts have been admitted for in the current interval, in DU (R29, R414). -/
  rampUsed : Nat
  /-- The disturbance log (R404, R521). -/
  log : List LogEntry
  logSeq : Nat
  deriving DecidableEq, Repr

/-- A proof, restore or reslice running (R472, R486, R489). -/
structure PrfRun where
  /-- 6 PROOF, 7 RESTORE, 8 RESLICE (R329). -/
  cmd : Nat
  q : Nat
  idx : Nat
  auto : Bool
  /-- PROOF: the queue's command has completed (EARLY_RELEASE). -/
  gone : Bool
  comp : Nat
  root : Nat
  body : List Byte
  /-- 1 capture, 2 streaming, 3 commit; RESTORE: the step under way. -/
  phase : Nat
  gen : Nat
  slot : Nat
  bytes : Nat
  /-- Image bytes as read out (R468), by image offset; slot-header bytes from offset 2^40 − 4,096. -/
  img : Tab Byte
  /-- Pieces of the image that have arrived: offset and length (RESTORE). -/
  have_ : List (Nat × Nat)
  /-- Pages of memory ranges not yet read out: page number PA[45:26], selector, and image offset (R472). -/
  pages : List (Nat × Nat × Nat)
  /-- Targets still to commit, and committed ([1] storage, [0] partner). -/
  want : Nat
  ok : Nat
  /-- Storage requester step (R477), retries left. -/
  sto : Nat
  retry : Nat
  entry : Nat
  deriving DecidableEq, Repr

/-- The partner's proof being received in the open slot (R476): generation, slot, image bytes so far. -/
structure RecvRun where
  gen : Nat
  slot : Nat
  got : List (Nat × Nat)
  img : Tab Byte
  deriving DecidableEq, Repr

/-- Proofs and pairs beside the PRF registers. -/
structure Prf where
  run : Option PrfRun
  recv : Option RecvRun
  /-- Compartments at a clearing (R469). -/
  atClear : NatSet
  autoPend : Bool
  autoNext : Bool
  /-- Pair state (R484), partner's strap and risk, and whether a heartbeat has come since the check began. -/
  pair : Nat
  strap : Nat
  risk : Nat
  beat : Bool
  lost : Bool
  /-- The source's own generation count, and the partner's slot that holds its newest committed proof. -/
  gen : Nat
  pslot : Nat
  deriving DecidableEq, Repr

/-- Life-cycle state: fuses and straps, and the start-up sequence (R497, R498, R508, R528). -/
structure Life where
  /-- The feed is up (R425, R496). -/
  on : Bool
  lc : Nat
  minSvn : Nat
  /-- Cores chosen as spares (R15). -/
  spares : NatSet
  /-- Reset has been released; start-up steps 1, 2 and 3 are complete. -/
  released : Bool
  ramped : Bool
  fused : Bool
  tested : Bool
  /-- Records marked for fencing at the next enable (R500). -/
  marked : NatSet
  /-- The disable under way is an orderly shutdown (R509); a wear load waits for its end (R510). -/
  shut : Bool
  wearPend : Bool
  /-- Signing key of the running firmware image (R501, R503). -/
  fwKey : Nat
  /-- The mailbox operation under way and its tag (R520). -/
  mbx : Option (Nat × Nat × Nat)
  /-- Consecutive milliseconds above 90% and below 70% (R460). -/
  hi : Nat
  lo : Nat
  deriving DecidableEq, Repr

/-- An idle port: DISABLED, neighbour unknown, full credits (R386). -/
def port0 : Port :=
  { st := 0, lanes := 0, lockTimer := false, nport := 31, nmode := 0, nserial := 0, tx := 0, rx := 0, ackd := 0, nak := false, bad := false,
    replay := [], waitq := [], cred := [32, 32, 16, 16, 64, 64], owed := [0, 0, 0, 0, 0, 0], held := [] }
/-- A domain at P0 or M0 with full duty, as the registers' reset values read (R514). -/
def dom0 : Dom := ⟨0, 7, 0, 0, 0⟩
/-- A deasserted input. -/
def pin0 : Pin := ⟨false, false, false⟩
/-- Ride after reset. -/
def ride0 : Ride :=
  { ports := [], land := [], landed := [], fences := [], waits := [], tiles := [], lands := [], nextLand := 0, nextTag := 0, nextMsg := 0, bound := [], rate := [], naks := 0, rwinOk := false }
/-- Power after reset. -/
def pwr0 : Pwr :=
  { doms := [], throttle := pin0, alert := pin0, low := 0, drop := false, surge := false, ext := 0, dur := 0,
    ripple := false, ripplePp := 0, sumM := 0, sumL := 0, sumD := 0, spoil := false, ripGap := 1000, agree := 0, plaus := 0, aboveN := 0, under := 0, temps := [],
    hot := [], cool := [], energy := 0, taken := 0, rampUsed := 0, log := [], logSeq := 0 }
/-- Proofs after reset. -/
def prf0 : Prf :=
  { run := none, recv := none, atClear := [], autoPend := false, autoNext := false, pair := 0, strap := 0,
    risk := 0, beat := false, lost := false, gen := 0, pslot := 1 }
/-- Life cycle after a reset: start-up has not begun. The fuse values are the model's own choice. -/
def life0 : Life :=
  { on := true, lc := 1, minSvn := 0, spares := (List.range 48).flatMap (fun g => [50 * g + 48, 50 * g + 49]), released := false, ramped := false, fused := false, tested := false, marked := [],
    shut := false, wearPend := false, fwKey := 0, mbx := none, hi := 0, lo := 0 }

end Sys2Proof.Machine
end

