-- ==== Sys2Proof/Machine/State.lean ====
section
/-! DEFINITION. The state of the complex, the reasons a step can stop, and the state after reset. -/

namespace Sys2Proof.Machine

/-- Why the machine stops. -/
inductive Fault where
  /-- Raised by a command that names a unit the complex does not have: a core at or above 2,400, a queue at or above 1,024,
  a mover at or above 192, a slice at or above 48, a port at or above 24, a link at or above 4 (R16, R359), or a translation
  root at or above 256 (R211). Safe: no such
  command reaches the hardware. -/
  | noSuchUnit
  deriving DecidableEq, Repr

/-- Why a command has no meaning. -/
inductive Refusal where
  /-- Raised by the dispatcher alone, for a command whose meaning is not written. Safe: nothing is claimed of it. -/
  | notModelled (mnemonic : String)
  deriving DecidableEq, Repr

/-- What the complex has sent outward, newest last; the model's own record, which no command reads. -/
inductive Out where
  /-- An MSI-X message: vector, address, data (R367). -/
  | msix (vec addr data : Nat)
  /-- Data returned to the host: a register or window read (R369, R517). -/
  | read (data : List Byte) (poison : Bool)
  /-- Cmp of a CXL.mem request on a link, with MetaField No-Op (R369). -/
  | cmp (link : Nat)
  /-- A configuration or memory request on CXL.io that a function does not serve: 1 Unsupported Request (R366), 2 Request Retry
  Status (R498). -/
  | ioStatus (status : Nat)
  /-- A CXL.cache request of the host agent: kind, link and line (R371). 1 RdShared, 2 RdOwn, 3 RdCurr, 4 ItoMWr,
  5 CleanEvictNoData, 6 DirtyEvict, 7 WOWrInv, 8 RdOwnNoData. -/
  | d2h (kind link line : Nat)
  /-- An ordered posted memory write of a stream: link and line (R372). -/
  | posted (link line : Nat)
  /-- A response to a host snoop: kind, line and data (R286). -/
  | snpRsp (kind line : Nat) (data : List Byte)
  /-- A back-invalidate snoop to the host: kind and line (R284). -/
  | bisnp (kind line : Nat)
  /-- A zero-length read on a link (R372). -/
  | zlr (link : Nat)
  /-- A cell handed to a ride port: port, type, payload (R385). -/
  | cell (port ty : Nat) (data : List Byte)
  /-- A packet on an Ethernet-mode port: port, kind, payload (R395). -/
  | packet (port kind : Nat) (data : List Byte)
  /-- A PLDM event or sensor report to the board controller: kind and values (R428, R534). -/
  | pldm (kind : Nat) (vals : List Nat)
  deriving DecidableEq, Repr

/-- The complex. -/
structure State where
  /-- Commands waiting, first in, first out. -/
  pending : List Instr
  cores : Tab Core
  tiers : Tiers
  coh : Coh
  xlt : Xlt
  movers : Tab Mover
  qsu : Qsu
  host : HostPort
  flt : Flt
  ride : Ride
  pwr : Pwr
  prf : Prf
  life : Life
  /-- Errors detected within the current step; empty between steps. -/
  errs : List ErrNote
  /-- Stored values of BAR0 registers, by offset (R514). -/
  regs : Tab W64
  /-- Next stream number. -/
  sidn : Nat
  out : List Out
  /-- Free values drawn so far; the model's own. -/
  free : Nat
  deriving DecidableEq, Repr

/-- The complex right after a reset (R518). -/
def State.reset : State :=
  { pending := [], cores := [], tiers := tiers0, coh := coh0, xlt := xlt0, movers := [], qsu := qsu0, host := hostPort0,
    flt := flt0, ride := ride0, pwr := pwr0, prf := prf0, life := life0, errs := [], regs := [(0x20030, 1)], sidn := 0, out := [], free := 0 }

end Sys2Proof.Machine
end

