-- ==== Sys2Proof/Machine/Ops.lean ====
section
/-! DEFINITION. The named operations on the state: registers, units, free values, messages to the host, and physical lines (R239 to R245, R256). -/

namespace Sys2Proof.Machine

/-- Stored value of the register at a BAR0 offset (R514). -/
def regGet (s : State) (off : Nat) : Nat := (tabGet regReset s.regs off).toNat

/-- Stores a register value. -/
def regPut (s : State) (off v : Nat) : State := { s with regs := tabSet regReset s.regs off (BitVec.ofNat 64 v) }

/-- Bits [hi:lo] of a register. -/
def regField (s : State) (off hi lo : Nat) : Nat := bitsOf (regGet s off) hi lo

/-- Sets bits [hi:lo] of a register. -/
def regSet (s : State) (off hi lo v : Nat) : State := regPut s off (putBits (regGet s off) hi lo v)

/-- Adds to a counter field that stays at its largest value (R348, R440). -/
def regCount (s : State) (off hi lo n : Nat) : State := regSet s off hi lo (satAdd (hi + 1 - lo) (regField s off hi lo) n)

/-- Core `c`. -/
def coreGet (s : State) (c : Nat) : Core := tabGet (fun _ => core0) s.cores c

/-- Replaces core `c`. -/
def coreSet (s : State) (c : Nat) (k : Core) : State := { s with cores := tabSet (fun _ => core0) s.cores c k }

/-- Applies `f` to core `c`. -/
def coreMap (s : State) (c : Nat) (f : Core → Core) : State := coreSet s c (f (coreGet s c))

/-- Mover `m`. -/
def moverGet (s : State) (m : Nat) : Mover := tabGet (fun _ => mover0) s.movers m

/-- Replaces mover `m`. -/
def moverSet (s : State) (m : Nat) (v : Mover) : State := { s with movers := tabSet (fun _ => mover0) s.movers m v }

/-- Applies `f` to every core whose state is not the state after reset. -/
def coresMap (s : State) (f : Nat → Core → Core) : State := s.cores.foldl (fun s p => coreMap s p.1 (f p.1)) s

/-- Applies `f` to every mover in use. -/
def moversMap (s : State) (f : Nat → Mover → Mover) : State :=
  s.movers.foldl (fun s p => moverSet s p.1 (f p.1 (moverGet s p.1))) s

/-- Ride port `i`. -/
def portGet (s : State) (i : Nat) : Port := tabGet (fun _ => port0) s.ride.ports i

/-- Replaces ride port `i`. -/
def portSet (s : State) (i : Nat) (p : Port) : State :=
  { s with ride := { s.ride with ports := tabSet (fun _ => port0) s.ride.ports i p } }

/-- Queue `q`. -/
def queueGet (s : State) (q : Nat) : Queue := tabGet (fun _ => queue0) s.qsu.queues q

/-- Replaces queue `q`. -/
def queueSet (s : State) (q : Nat) (v : Queue) : State :=
  { s with qsu := { s.qsu with queues := tabSet (fun _ => queue0) s.qsu.queues q v } }

/-- A command on a unit numbered below `n`; a number beyond stops (R16). -/
def withUnit (n i : Nat) (r : Host.Outcome State Fault Refusal) : Host.Outcome State Fault Refusal :=
  if i < n then r else .fault .noSuchUnit

/-- A free value and the state with the counter advanced: nothing constrains the value. -/
def drawFree (s : State) : Nat × State := (Config.freeNat s.free, { s with free := s.free + 1 })

/-- `n` bytes that nothing constrains. -/
def freeBytes (s : State) (n : Nat) : List Byte × State :=
  ((List.range n).map (fun i => BitVec.ofNat 8 (Config.freeNat (s.free + i))), { s with free := s.free + n })

/-- Appends to the outward record. -/
def emit (s : State) (o : Out) : State := { s with out := s.out ++ [o] }

/-- A request of either side on a link in L1 brings the link back to L0 (R374, R379): L0p where it is narrowed. -/
def linkWake (s : State) (n : Nat) : State :=
  let l := tabGet (fun _ => link0) s.host.links n
  if l.pm = 2 then
    { s with host := { s.host with links := tabSet (fun _ => link0) s.host.links n { l with pm := bnat (decide (l.l0p < l.width)) } } }
  else s

/-- MSI-X entry of a vector number, taken modulo 2,048 (R367). -/
def msixGet (s : State) (v : Nat) : Msix := tabGet (fun _ => msix0) s.host.msix (v % 2048)

/-- A message on an MSI-X vector (R367), on link 0: sent when enabled and unmasked, else pending; in HOLD none is sent (R376). -/
def sendMsix (s : State) (v : Nat) : State :=
  let e := msixGet s v
  if s.host.hold then s
  else if s.host.msixEn && !s.host.fmask && !e.mask then emit (linkWake s 0) (.msix (v % 2048) e.addr e.data)
  else { s with host := { s.host with pba := setAdd (v % 2048) s.host.pba } }

/-- Notes an error for the step's fault handling (R443). -/
def noteErr (s : State) (rec src synd addr : Nat) : State := { s with errs := s.errs ++ [⟨rec, src, synd, addr, false⟩] }

/-- Tier of a line number PA[45:6] (R208). -/
def lineTier (line : Nat) : Nat := line / 2 ^ 38

/-- Offset within its tier of a line, in bytes. -/
def lineOff (line : Nat) : Nat := (line % 2 ^ 38) * 64

/-- Tier of a 46-bit physical address. -/
def paTier (pa : Nat) : Nat := pa / 2 ^ 44 % 4

/-- Bytes in one GiB. -/
def gib : Nat := 2 ^ 30

/-- Whether an offset is valid in its tier (R208, R238). -/
def paValid (pa : Nat) : Bool :=
  let o := pa % 2 ^ 44
  match paTier pa with
  | 0 => decide (o < 1152 * gib)
  | 1 => decide (o < 3072 * gib)
  | 2 => decide (o < 8192 * gib)
  | _ => decide (o < 0x1000000) || (decide (0x1000000 ≤ o) && decide (o < 0x1180000)) ||
         (decide (0x10000000000 ≤ o) && decide (o < 0x28000000000))

/-- 64 MiB page of an understory line, 0 to 49,151. -/
def underPage (line : Nat) : Nat := lineOff line / 2 ^ 26

/-- Whether an understory page has been overwritten since the reset (R256). -/
def owReached (t : Tiers) (p : Nat) : Bool := decide (p < t.owNext) || t.owEarly.contains p

/-- The 64 stored bytes of a line as last written. -/
def rawLine (s : State) (line : Nat) : List Byte := tabBytes s.tiers.bytes (64 * line) 64

/-- Key pair of a selector; 0 for plaintext or an empty slot (R242). -/
def pairOf (s : State) (sel : Nat) : Nat := if sel = 0 then 0 else tabGet (fun _ => 0) s.tiers.slots sel

/-- Whether a selector names an empty slot (R245). -/
def selEmpty (s : State) (sel : Nat) : Bool := sel != 0 && pairOf s sel == 0

/-- A line's plaintext under key pair `k`, stored under pair `tag` (R242, R243): the stored bytes are the encryption of
`bytes` under `tag`, and reading decrypts them under `k`. -/
def rekey (tag k line : Nat) (bytes : List Byte) : List Byte :=
  if tag = k then bytes
  else
    let c := if tag = 0 then bytes else xtsEnc tag line bytes
    if k = 0 then c else xtsDec k line c

/-- Reads a canopy, understory or floor line under a selector (R240, R242, R245, R256): data and poison. -/
def memRead (s : State) (sel line : Nat) : List Byte × Bool :=
  if lineTier line = 2 then (rawLine s line, s.tiers.poison.contains line)
  else if lineTier line = 1 ∧ owReached s.tiers (underPage line) = false then (List.replicate 64 0, false)
  else if selEmpty s sel then (List.replicate 64 0, true)
  else (rekey (tabGet (fun _ => 0) s.tiers.enc line) (pairOf s sel) line (rawLine s line), s.tiers.poison.contains line)

/-- Bytes of `new` where the mask's bit is set, else of `old`. -/
def mergeBytes (mask : Nat) (new old : List Byte) : List Byte :=
  (List.range 64).map (fun i => if mask.testBit i then byteAt new i else byteAt old i)

/-- All 64 bytes. -/
def fullMask : Nat := 2 ^ 64 - 1

/-- Fault-record index of the memory controller of a line (R235, R236, R437). -/
def ctlRecord (line : Nat) : Nat :=
  if lineTier line = 0 then 0xA50 + (lineOff line / 4096) % 12 else 0xA60 + (lineOff line / 4096) % 16

/-- A controller's write takes the check-bit inversion armed for its ECC storage (R452): ARM clears. -/
def injTaken (s : State) (line : Nat) : State :=
  let o := 0x100030 + 0x100 * ctlRecord line
  if lineTier line < 2 ∧ regField s o 63 63 = 1 ∧ regField s o 35 32 < 2 then regSet s o 63 63 0 else s

/-- Stores a line under a selector as it stands, with its poison mark: a full write clears poison, a partial write keeps
it (R240). -/
def memStore (s : State) (sel line mask : Nat) (data : List Byte) (poison : Bool) : State :=
  let s := injTaken s line
  let old := memRead s sel line
  let new := mergeBytes mask data old.1
  let p := poison || (old.2 && mask != fullMask)
  let t := s.tiers
  { s with tiers := { t with
      bytes := tabPut t.bytes (64 * line) new
      enc := tabSet (fun _ => 0) t.enc line (if lineTier line = 2 then 0 else pairOf s sel)
      poison := if p then setAdd line t.poison else setDel line t.poison } }

/-- Bytes of host memory (the floor) at a host physical address. -/
def hostBytes (s : State) (hpa n : Nat) : List Byte := tabBytes s.tiers.bytes (2 * 2 ^ 44 + hpa) n

/-- Writes host memory. -/
def hostPut (s : State) (hpa : Nat) (l : List Byte) : State :=
  { s with tiers := { s.tiers with bytes := tabPut s.tiers.bytes (2 * 2 ^ 44 + hpa) l } }

/-- Whether the host can be reached: no HOLD. -/
def hostUp (s : State) : Bool := !s.host.hold

/-- Trained links in ascending number (R372). -/
def trainedLinks (s : State) : List Nat := below 4 (fun l => (tabGet (fun _ => link0) s.host.links l).trained)

/-- Grove of a physical core (R16). -/
def groveOf (c : Nat) : Nat := c / 50

/-- Position of a physical core in its grove. -/
def posOf (c : Nat) : Nat := c % 50

end Sys2Proof.Machine
end

