-- ==== Sys2Proof/Machine/Coherence.lean ====
section
/-! DEFINITION. L2 slices, home agents and coherence transactions (R259 to R292): the operations the message commands and every agent of the complex share. -/

namespace Sys2Proof.Machine

/-- Key of a way in the L2 table: set index PA[17:6] (R269). -/
def l2key (slice line way : Nat) : Nat := (4096 * slice + line % 4096) * 16 + way

/-- A way. -/
def l2get (s : State) (slice line way : Nat) : L2Way := tabGet (fun _ => l2way0) s.coh.l2 (l2key slice line way)

/-- Writes a way. -/
def l2put (s : State) (slice line way : Nat) (v : L2Way) : State :=
  { s with coh := { s.coh with l2 := tabSet (fun _ => l2way0) s.coh.l2 (l2key slice line way) v } }

/-- Way of a slice that holds a line's tag, valid or pinned (R273). -/
def l2tagged (s : State) (slice line : Nat) : Option Nat :=
  firstBelow 16 (fun w => let v := l2get s slice line w; v.tag == line / 4096 && (v.st != 0 || v.pinned))

/-- Way of a slice that holds a line in S or M. -/
def l2find (s : State) (slice line : Nat) : Option Nat :=
  firstBelow 16 (fun w => let v := l2get s slice line w; v.tag == line / 4096 && v.st != 0)

/-- State of a line in a slice (R269): 0 I, 1 S, 2 M. -/
def l2st (s : State) (slice line : Nat) : Nat :=
  match l2find s slice line with
  | some w => (l2get s slice line w).st
  | none => 0

/-- L1 set, tag and sector of a line (R259). -/
def l1set (line : Nat) : Nat := line / 4 % 64
/-- L1 tag of a line. -/
def l1tag (line : Nat) : Nat := line / 256
/-- An L1 way of a core. -/
def l1get (k : Core) (line way : Nat) : L1Way := tabGet (fun _ => l1way0) k.l1 (4 * l1set line + way)
/-- Writes an L1 way. -/
def l1put (k : Core) (line way : Nat) (v : L1Way) : Core :=
  { k with l1 := tabSet (fun _ => l1way0) k.l1 (4 * l1set line + way) v }
/-- Way whose tag matches a line, with some sector valid. -/
def l1find (k : Core) (line : Nat) : Option Nat :=
  firstBelow 4 (fun w => let v := l1get k line w; v.valid != 0 && v.tag == l1tag line)

/-- Invalidates a line's sector in an L1 (R262). -/
def l1drop (k : Core) (line : Nat) : Core :=
  match l1find k line with
  | some w => let v := l1get k line w; l1put k line w { v with valid := putBits v.valid (line % 4) (line % 4) 0 }
  | none => k

/-- Cores of a grove, physical numbers. -/
def groveCores (g : Nat) : List Nat := (List.range 50).map (fun p => 50 * g + p)

/-- Whether a grove's L1s are enabled (R266). -/
def l1On (s : State) (g : Nat) : Bool := bitOf (regGet s 0x60010) g

/-- Back-invalidation of a line from the L1s its presence bits cover (R262). -/
def backInval (s : State) (slice line : Nat) : State :=
  match l2tagged s slice line with
  | none => s
  | some w =>
    let v := l2get s slice line w
    let s := (groveCores slice).foldl (fun s c =>
      if v.pres.testBit (posOf c / 5) then coreMap s c (fun k => l1drop k line) else s) s
    l2put s slice line w { v with pres := 0 }

/-- Class of a message (R279): 0 REQ, 1 SNP, 2 RSP, 3 DAT, 4 EVA. -/
def MK.cls : MK → Nat
  | .rdS => 0 | .rdM => 0 | .upg => 0 | .own => 0 | .rdCur => 0 | .wrInv => 0 | .wrHint => 0
  | .snpS => 1 | .snpI => 1 | .snpCur => 1
  | .ackI => 2 | .ackS => 2 | .ackFwd => 2 | .nack => 2 | .gnt => 2 | .cmp => 2 | .evaAck => 2
  | .data => 3
  | .evaClean => 4 | .evaDirty => 4

/-- Home agent of a line: its controller's record, or the host agent (R276). -/
def homeOf (line : Nat) : Nat := if lineTier line = 2 then 0xA88 else ctlRecord line

/-- The agent whose input a message enters: a slice, or the line's home. -/
def msgTo (m : Msg) : Nat := if m.dst = 100 then homeOf m.line else m.dst

/-- Messages of a class that an agent's input holds. -/
def inputLoad (s : State) (ag cls : Nat) : Nat := (s.coh.net.filter (fun m => msgTo m == ag && m.k.cls == cls)).length

/-- Whether an agent's input has a credit for a message of a class (R280): two of the class's own, or one of the pool of
32. Ring stops and fabric links pass messages on and hold none of their own here. DESIGN CHOICE (log 51). -/
def inputRoom (s : State) (ag cls : Nat) : Bool :=
  decide (inputLoad s ag cls < 2) ||
  decide (((List.range 5).map (fun c => inputLoad s ag c - 2)).sum < 32)

/-- Sends a message; without a credit at the destination's input it waits at its sender, behind what waits there already
for the same class (R280). -/
def send (s : State) (m : Msg) : State :=
  if inputRoom s (msgTo m) m.k.cls && !s.coh.stall.any (fun x => msgTo x == msgTo m && x.k.cls == m.k.cls) then
    { s with coh := { s.coh with net := s.coh.net ++ [m] } }
  else { s with coh := { s.coh with stall := s.coh.stall ++ [m] } }

/-- The messages that wait for credits go, in order, where there are credits now. -/
def unstall (s : State) : State :=
  if s.coh.stall.isEmpty then s
  else
    let l := s.coh.stall
    l.foldl send { s with coh := { s.coh with stall := [] } }

/-- A message without data. -/
def msg0 (k : MK) (line src dst : Nat) : Msg :=
  { k := k, line := line, src := src, dst := dst, data := [], poison := false, wr := false, sel := 0, mask := 0, tgt := 0 }

/-- Takes the oldest message satisfying `p`; its credit is free again. -/
def takeMsg (s : State) (p : Msg → Bool) : Option (Msg × State) :=
  match s.coh.net.find? p with
  | none => none
  | some m => some (m, unstall { s with coh := { s.coh with net := s.coh.net.erase m } })

/-- Directory entry of a line (R276). -/
def dirGet (s : State) (line : Nat) : DirE := tabGet (fun _ => dir0) s.coh.dir line

/-- Writes a directory entry. -/
def dirPut (s : State) (line : Nat) (d : DirE) : State :=
  { s with coh := { s.coh with dir := tabSet (fun _ => dir0) s.coh.dir line d } }

/-- Whether MX-1 compatibility is set (R278). -/
def mx1 (s : State) : Bool := bitOf (regGet s 0x60000) 0

/-- Host-level state of a floor line (R285). -/
def hostSt (s : State) (line : Nat) : Nat := tabGet (fun _ => 0) s.coh.hostSt line

/-- Writes the host-level state of a floor line. -/
def hostStPut (s : State) (line v : Nat) : State :=
  { s with coh := { s.coh with hostSt := tabSet (fun _ => 0) s.coh.hostSt line v } }

/-- The entry in a slice's eviction buffer that still answers as M (R281). -/
def evFind (s : State) (slice line : Nat) : Option EvLine :=
  s.coh.ev.find? (fun e => e.slice == slice && e.line == line && !e.dead)

/-- A pseudo-LRU walk (R271): from node `n`, with `fuel` levels left, among the ways `ok` allows. -/
def lruWalk (bits : Nat) (ok : Nat → Bool) : Nat → Nat → Nat
  | 0, n => n
  | f + 1, n =>
    let want := if bits.testBit n then 2 * n + 1 else 2 * n
    let other := if bits.testBit n then 2 * n else 2 * n + 1
    let has := fun (m : Nat) => (List.range (2 ^ f)).any (fun i => ok (m * 2 ^ f + i))
    lruWalk bits ok f (if has want then want else other)

/-- Sets the bits on a leaf's path to point away from it (R271). -/
def lruTouch (bits leaf : Nat) : Nat → Nat
  | 0 => bits
  | f + 1 =>
    let p := leaf / 2
    lruTouch (putBits bits p p (bnat (leaf % 2 == 0))) p f

/-- Marks a way used (R271). -/
def l2touch (s : State) (slice line way : Nat) : State :=
  let k := 4096 * slice + line % 4096
  { s with coh := { s.coh with lru := tabSet (fun _ => 0) s.coh.lru k (lruTouch (tabGet (fun _ => 0) s.coh.lru k) (16 + way) 4) } }

/-- Way mask of a requester class (R270): 0 CORE, 1 MOVER, 2 HINT, 3 WATCH. -/
def wayMask (s : State) (cls : Nat) : Nat := regField s 0x60008 (16 * cls + 15) (16 * cls)

/-- Outstanding request of a slice or agent for a line. -/
def mshrOf (s : State) (slice line : Nat) : Option Mshr :=
  s.coh.mshr.find? (fun m => m.slice == slice && m.line == line)

/-- The way a fill takes (R271): the lowest invalid way of the mask, else the pseudo-LRU way; none when every allowed
way is pinned or holds a line with a request of the slice outstanding (R281). -/
def victim (s : State) (slice line cls : Nat) : Option Nat :=
  let m := wayMask s cls
  let ok := fun w =>
    let v := l2get s slice line w
    m.testBit w && !v.pinned && (v.st == 0 || (mshrOf s slice (v.tag * 4096 + line % 4096)).isNone)
  match firstBelow 16 (fun w => ok w && (l2get s slice line w).st == 0) with
  | some w => some w
  | none =>
    if (List.range 16).any ok then
      some (lruWalk (tabGet (fun _ => 0) s.coh.lru (4096 * slice + line % 4096)) (fun leaf => ok (leaf - 16)) 4 1 - 16)
    else none

/-- The link of a floor line's CXL.cache traffic (R371): PA[9:8] counted over the trained links. -/
def cacheLink (s : State) (line : Nat) : Nat :=
  let l := trainedLinks s
  if l.isEmpty then 0 else l.getD (line / 4 % 4 % l.length) 0

/-- A CXL.cache request of the host agent for a line (R371). -/
def d2h (s : State) (kind line : Nat) : State := emit (linkWake s (cacheLink s line)) (.d2h kind (cacheLink s line) line)

/-- A written floor line goes back to the host (R285): DirtyEvict, whose completion the host port returns later. -/
def dirtyEvict (s : State) (line : Nat) : State :=
  let s := d2h (hostStPut s line 0) 6 line
  { s with coh := { s.coh with wb := s.coh.wb ++ [line] } }

/-- Evicts the line of a way (R262, R279, R281, R285): EVA_DIRTY, and its line as DATA. -/
def evict (s : State) (slice line way : Nat) : State :=
  let v := l2get s slice line way
  if v.st = 0 then s
  else
    let old := v.tag * 4096 + line % 4096
    let s := backInval s slice old
    let s := l2put s slice line way l2way0
    if v.st = 2 ∧ v.written then
      let s := { s with coh := { s.coh with ev := s.coh.ev ++ [⟨slice, old, v.data, v.poison, v.sel, false⟩] } }
      send (send s (msg0 .evaDirty old slice 100)) { msg0 .data old slice 100 with data := v.data, poison := v.poison, sel := v.sel, tgt := 1 }
    else
      let s := if mx1 s then send s (msg0 .evaClean old slice 100) else s
      if v.st = 2 ∧ lineTier old = 2 then d2h (hostStPut s old 0) 5 old else s

/-- Fills a line in a slice (R271): a way already tagged with it, else a victim. The line is not kept where no way is
allowed. -/
def l2fill (s : State) (slice line cls st : Nat) (written : Bool) (sel : Nat) (data : List Byte) (poison : Bool) : State :=
  let put := fun (s : State) (w : Nat) (pin : Bool) (pres : Nat) =>
    l2touch (l2put s slice line w ⟨line / 4096, st, written, poison, sel, pin, pres, data⟩) slice line w
  match l2tagged s slice line with
  | some w => let v := l2get s slice line w; put s w v.pinned v.pres
  | none =>
    match victim s slice line cls with
    | none => s
    | some w => put (evict s slice line w) w false 0

/-- Sets a line of a slice to I; a pinned way keeps its tag (R274). -/
def l2drop (s : State) (slice line : Nat) : State :=
  match l2find s slice line with
  | none => s
  | some w =>
    let v := l2get s slice line w
    l2put s slice line w (if v.pinned then { v with st := 0, written := false, poison := false, data := [], pres := 0 } else l2way0)

/-- A slice's answer to a snoop (R282): the response kind, and its copy of an M line. -/
def snoop (s : State) (k : MK) (slice line : Nat) : MK × Option Own × State :=
  match evFind s slice line with
  | some e =>
    let kill := { s with coh := { s.coh with ev := s.coh.ev.map (fun x => if x == e then { x with dead := true } else x) } }
    (.ackFwd, some ⟨slice, e.data, e.poison, true, e.sel⟩, if k = .snpCur then s else kill)
  | none =>
    match l2find s slice line with
    | none => (.ackI, none, s)
    | some w =>
      let v := l2get s slice line w
      if v.st = 1 then
        match k with
        | .snpI => (.ackI, none, l2drop (backInval s slice line) slice line)
        | _ => (.ackS, none, s)
      else
        let d := some ⟨slice, v.data, v.poison, v.written, v.sel⟩
        match k with
        | .snpI => (.ackFwd, d, l2drop (backInval s slice line) slice line)
        | .snpS =>
          let s := backInval s slice line
          (.ackFwd, d, l2put s slice line w { l2get s slice line w with st := 1, written := false })
        | _ => (.ackFwd, d, s)

/-- Whether a slice's grove serves; a fenced grove's ring stop answers ACK_I (R448). -/
def groveFenced (s : State) (g : Nat) : Bool := s.flt.fenced.contains (0x960 + g)

/-- A write reaching the memory of a line (R240, R245, R256): discarded and counted under an empty slot, held while its
understory page awaits its overwrite. -/
def memWrite (s : State) (sel line mask : Nat) (data : List Byte) (poison : Bool) : State :=
  if lineTier line ≠ 2 ∧ selEmpty s sel then noteErr s (ctlRecord line) 3 0 (64 * line)
  else if lineTier line = 1 ∧ owReached s.tiers (underPage line) = false then
    { s with tiers := { s.tiers with owHeld := s.tiers.owHeld ++ [⟨line, sel, mask, data, poison⟩] } }
  else memStore s sel line mask data poison

/-- Slices other than `r`. -/
def otherSlices (r : Nat) : List Nat := (List.range 48).filter (fun g => g != r)

/-- Slices a directory entry snoops (R277, R278, R283): every slice in native mode, the list in MX-1 mode; UPG leaves out
its requester. -/
def sharersOf (s : State) (line r : Nat) (k : MK) : List Nat :=
  let d := dirGet s line
  let l := if k = .upg then otherSlices r else List.range 48
  if d.st = 2 then [d.owner]
  else if d.st = 1 then (if mx1 s then l.filter (fun g => d.sharers.testBit g) else l)
  else []

/-- In MX-1 mode a sharer list names the slices that hold the line, no others (R278). -/
def dirExact (s : State) (line : Nat) : State :=
  let d := dirGet s line
  if mx1 s ∧ d.st = 1 then
    let l := (List.range 48).foldl (fun a g => if d.sharers.testBit g && l2st s g line != 0 then a + 2 ^ g else a) 0
    dirPut s line (if l = 0 then dir0 else { d with sharers := l })
  else s

/-- The M copy of a line anywhere in the complex. -/
def ownerData (s : State) (line : Nat) : Option Own :=
  let d := dirGet s line
  if d.st = 2 then (snoop s .snpCur d.owner line).2.1 else none

/-- Invalidates every copy of a line in the complex (R283). -/
def dropAll (s : State) (line : Nat) : State :=
  (List.range 48).foldl (fun s g => (snoop s .snpI g line).2.2) s

/-- Whether a page of a line is in host bias (R247, R284). -/
def hostBias (s : State) (line : Nat) : Bool :=
  match lineTier line with
  | 0 => s.tiers.bias.contains (lineOff line / 2 ^ 26)
  | 1 => s.tiers.bias.contains (18432 + lineOff line / 2 ^ 26)
  | _ => false

/-- The host's copies of a line on a host-bias page are resolved before an access of the complex (R284): the back-invalidate
snoop of the given kind is sent; the access, which is one step here, follows its answer (log 36). -/
def biasSnoop (s : State) (kind line : Nat) : State :=
  if hostBias s line && hostUp s then emit (linkWake s (cacheLink s line)) (.bisnp kind line) else s

/-- A write's data reaches memory over an owner's copy (R242, R243, R283): merged with it under one selector; under another,
the owner's line is first written under its own. -/
def writeOver (s : State) (o : Option Own) (sel line mask : Nat) (data : List Byte) (poison : Bool) : State :=
  match o with
  | some x =>
    if x.wr && x.sel == sel then memWrite s sel line fullMask (mergeBytes mask data x.data) (poison || (x.poison && mask != fullMask))
    else memWrite (if x.wr then memWrite s x.sel line fullMask x.data x.poison else s) sel line mask data poison
  | none => memWrite s sel line mask data poison

/-- A coherent write by a cacheless agent as one step (R283, WR_INV): holders invalidated, an owner's data merged. -/
def cohWriteCore (s : State) (sel line mask : Nat) (data : List Byte) (poison : Bool) : State :=
  let o := ownerData s line
  let s := dirPut (dropAll s line) line dir0
  let s := if lineTier line = 2 then hostStPut s line 0 else s
  writeOver s o sel line mask data poison

/-- What the complex sends the host for a cacheless write of its own (R284, R371): a floor line's write goes as ItoMWr, or as
WOWrInv with byte enables; the copies of a host-bias page are resolved. -/
def writeNote (s : State) (line mask : Nat) : State :=
  if lineTier line = 2 then d2h s (if mask = fullMask then 4 else 7) line else biasSnoop s 2 line

/-- A cacheless write by the complex (R284, R371). -/
def cohWrite (s : State) (sel line mask : Nat) (data : List Byte) (poison : Bool) : State :=
  cohWriteCore (writeNote s line mask) sel line mask data poison

/-- A coherent read of a current copy as one step (R283, RD_CUR). -/
def cohReadCur (s : State) (sel line : Nat) : List Byte × Bool :=
  match ownerData s line with
  | some x => (x.data, x.poison)
  | none => memRead s sel line

/-- What the complex sends the host for its own RD_CUR of a line (R284, R371): RdCurr for a floor line that it does not
hold, BISnpCur for a line of a host-bias page. -/
def readNote (s : State) (line : Nat) : State :=
  if lineTier line = 2 then (if hostSt s line = 0 && hostUp s then d2h s 3 line else s) else biasSnoop s 1 line

/-- The same for a byte range. -/
def readNotes (s : State) (pa n : Nat) : State :=
  (List.range ((pa + n - 1) / 64 - pa / 64 + 1)).foldl (fun s i => readNote s (pa / 64 + i)) s

/-- Writes bytes that lie in one line. -/
def cohPutLine (s : State) (sel pa : Nat) (l : List Byte) (poison : Bool) : State :=
  let o := pa % 64
  cohWrite s sel (pa / 64) ((2 ^ l.length - 1) * 2 ^ o) (List.replicate o 0 ++ l) poison

/-- Writes consecutive bytes through coherence, line by line. -/
def cohPut (s : State) (sel pa : Nat) : Nat → List Byte → State
  | 0, _ => s
  | f + 1, l =>
    if l.isEmpty then s
    else
      let n := min (64 - pa % 64) l.length
      cohPut (cohPutLine s sel pa (l.take n) false) sel (pa + n) f (l.drop n)

/-- Reads consecutive bytes through coherence (RD_CUR), with whether any line was poisoned. -/
def cohGet (s : State) (sel pa : Nat) : Nat → Nat → List Byte × Bool
  | 0, _ => ([], false)
  | f + 1, n =>
    if n = 0 then ([], false)
    else
      let k := min (64 - pa % 64) n
      let r := cohReadCur s sel (pa / 64)
      let t := cohGet s sel (pa + k) f (n - k)
      ((r.1.drop (pa % 64)).take k ++ t.1, r.2 || t.2)

/-- Reads `n` bytes at a physical address through coherence. -/
def paRead (s : State) (sel pa n : Nat) : List Byte × Bool := cohGet s sel pa (n / 64 + 2) n

/-- Writes bytes at a physical address through coherence. -/
def paWrite (s : State) (sel pa : Nat) (l : List Byte) : State := cohPut s sel pa (l.length / 64 + 2) l

/-- Physical address of a host physical address. -/
def floorPA (hpa : Nat) : Nat := 2 * 2 ^ 44 + hpa

/-- Reads host memory through coherence. -/
def floorRead (s : State) (hpa n : Nat) : List Byte × Bool := paRead s 0 (floorPA hpa) n

/-- Writes host memory through coherence. -/
def floorWrite (s : State) (hpa : Nat) (l : List Byte) : State := paWrite s 0 (floorPA hpa) l

/-- Directory capacity of a home (R276). -/
def dirCap (h : Nat) : Nat := if h = 0xA88 then 1048576 else if h < 0xA60 then 524288 else 131072

/-- Whether the home has a transaction on a line (R276). -/
def lineBusy (s : State) (line : Nat) : Bool := s.coh.busy.any (fun b => b.line == line)

/-- Whether a line is on its way out of a slice (R281). -/
def lineLeaving (s : State) (line : Nat) : Bool := s.coh.ev.any (fun e => e.line == line)

/-- Entries a home's directory holds (R276). -/
def dirLoad (s : State) (h : Nat) : Nat := (s.coh.dir.filter (fun p => homeOf p.1 == h)).length

/-- An invalidation of a line by its home, as a WR_INV without data (R276): an owner's written line is written back under its
own selector, a floor line by DirtyEvict. -/
def homeInval (s : State) (line : Nat) : State :=
  let o := ownerData s line
  let h := hostSt s line
  let s := dirPut (dropAll s line) line dir0
  match o with
  | some x =>
    if x.wr then
      let s := memWrite s x.sel line fullMask x.data x.poison
      if lineTier line = 2 then dirtyEvict s line else s
    else if lineTier line = 2 then d2h (hostStPut s line 0) 5 line else s
  | none => if lineTier line = 2 then (if h = 2 then d2h (hostStPut s line 0) 5 line else hostStPut s line 0) else s

/-- Frees a directory entry of a full home (R276): an invalidation of the lowest-numbered line that is not busy, counted in
COH_STATS_FILTER. -/
def dirRoom (s : State) (line : Nat) : State :=
  let h := homeOf line
  if dirLoad s h < dirCap h ∨ (dirGet s line).st ≠ 0 then s
  else
    match s.coh.dir.find? (fun p => homeOf p.1 == h && !lineBusy s p.1 && !lineLeaving s p.1) with
    | none => s
    | some p => let s := homeInval s p.1; if h = 0xA88 then regCount s 0x60050 63 32 1 else regCount s 0x60050 31 0 1

/-- Slices among the sharer list after `r` joins. -/
def sharedWith (s : State) (line r : Nat) : DirE :=
  let d := dirGet s line
  let old := if d.st = 1 then d.sharers else if d.st = 2 && l2st s d.owner line == 1 then 2 ^ d.owner else 0
  ⟨1, 0, old ||| 2 ^ r⟩

/-- A mover's coherent read as one step (R289): RD_S through its grove's slice under the MOVER mask, with what the home
sends the host (R284, R285). -/
def cohReadS (s : State) (slice sel line : Nat) : (List Byte × Bool) × State :=
  match l2find s slice line with
  | some w => let v := l2get s slice line w; ((v.data, v.poison), l2touch s slice line w)
  | none =>
    let s := dirRoom s line
    let s := if lineTier line = 2 then s else biasSnoop s 0 line
    match ownerData s line with
    | some x =>
      if lineTier line = 2 then
        let s := dirPut (snoop s .snpI x.slice line).2.2 line ⟨2, slice, 0⟩
        ((x.data, x.poison), l2fill s slice line 1 2 x.wr x.sel x.data x.poison)
      else
        let s := (snoop s .snpS x.slice line).2.2
        let s := memWrite s x.sel line fullMask x.data x.poison
        let s := l2fill (dirPut s line (sharedWith s line slice)) slice line 1 1 false x.sel x.data x.poison
        ((x.data, x.poison), dirExact s line)
    | none =>
      let r := memRead s sel line
      let s := if lineTier line = 2 ∧ hostSt s line = 0 then d2h (hostStPut s line 1) 1 line else s
      (r, dirExact (l2fill (dirPut s line (sharedWith s line slice)) slice line 1 1 false sel r.1 r.2) line)

/-- Whether a hinted write can be placed in a slice (R290). -/
def hintOk (s : State) (t line : Nat) : Bool :=
  decide (t < 48) && !groveFenced s t && ((l2tagged s t line).isSome || (victim s t line 2).isSome)

/-- A hinted line placed in its slice in M with WRITTEN set (R283): the write over the owner's copy, or over memory's, whose
line of another selector is read under the write's. -/
def hintPlace (s : State) (o : Option Own) (t sel line mask : Nat) (data : List Byte) (poison : Bool) : State :=
  let o' := o.filter (fun x => x.sel == sel)
  let s := match o with
    | some x => if x.wr && x.sel != sel then memWrite s x.sel line fullMask x.data x.poison else s
    | none => s
  let base := match o' with
    | some x => (x.data, x.poison)
    | none => memRead s sel line
  let s := dirPut s line ⟨2, t, 0⟩
  let s := if lineTier line = 2 then hostStPut s line 2 else s
  l2fill s t line 2 2 true sel (mergeBytes mask data base.1) (poison || (base.2 && mask != fullMask))

/-- A hinted write as one step (R283, WR_HINT): the merged line goes to slice `t` in M, or to memory when the hint is
dropped, which the slice's record counts (R290). -/
def cohHintCore (s : State) (t sel line mask : Nat) (data : List Byte) (poison : Bool) : State :=
  if hintOk s t line then
    let s := dirRoom s line
    hintPlace (dropAll s line) (ownerData s line) t sel line mask data poison
  else cohWriteCore (if t < 48 then noteErr s (0x960 + t) 4 0 0 else s) sel line mask data poison

/-- A hinted write by the complex (R284, R285): a floor line that the complex does not own is first owned (RdOwn), or
written to the host where the hint is dropped; a host-bias page's copies are resolved first. -/
def cohHint (s : State) (t sel line mask : Nat) (data : List Byte) (poison : Bool) : State :=
  let s := if lineTier line ≠ 2 then biasSnoop s 2 line
    else if hintOk s t line then (if hostSt s line = 2 then s else d2h s 2 line)
    else writeNote s line mask
  cohHintCore s t sel line mask data poison

/-- Issues a request of a slice unless one is outstanding, or its own eviction of the line still awaits EVA_ACK (R281). -/
def request (s : State) (slice line : Nat) (k : MK) (cls sel : Nat) (store : Bool) : State :=
  if (mshrOf s slice line).isSome || s.coh.ev.any (fun e => e.slice == slice && e.line == line) then s
  else
    let s := { s with coh := { s.coh with mshr := s.coh.mshr ++ [⟨slice, line, k, cls, 0, false, sel, store⟩] } }
    send s { msg0 k line slice 100 with sel := sel }

/-- Replaces an outstanding request. -/
def mshrPut (s : State) (slice line : Nat) (f : Mshr → Mshr) : State :=
  { s with coh := { s.coh with mshr := s.coh.mshr.map (fun m => if m.slice = slice ∧ m.line = line then f m else m) } }

/-- Removes an outstanding request. -/
def mshrDel (s : State) (slice line : Nat) : State :=
  { s with coh := { s.coh with mshr := s.coh.mshr.filter (fun m => !(m.slice == slice && m.line == line)) } }

/-- The CXL.cache request a floor transaction needs (R285, R371): 1 RdShared, 2 RdOwn, 3 RdCurr, 4 ItoMWr or 7 WOWrInv for a
cacheless write of a full or a partial line, 8 RdOwnNoData where the host supports it; 0 none. -/
def floorNeed (k : MK) (st mask : Nat) : Nat :=
  match k with
  | .rdS => if st = 0 then 1 else 0
  | .rdCur => if st = 0 then 3 else 0
  | .rdM => if st = 2 then 0 else 2
  | .upg => if st = 2 then 0 else if Config.rdOwnNoData then 8 else 2
  | .own => if st = 2 then 0 else if Config.rdOwnNoData then 8 else 2
  | .wrHint => if st = 2 then 0 else 2
  | _ => if mask = fullMask then 4 else 7

/-- Replaces the transaction of a line. -/
def busyPut (s : State) (line : Nat) (f : Busy → Busy) : State :=
  { s with coh := { s.coh with busy := s.coh.busy.map (fun b => if b.line = line then f b else b) } }

/-- Ends the transaction of a line. -/
def busyDel (s : State) (line : Nat) : State :=
  { s with coh := { s.coh with busy := s.coh.busy.filter (fun b => b.line != line) } }

/-- Transaction of a line. -/
def busyOf (s : State) (line : Nat) : Option Busy := s.coh.busy.find? (fun b => b.line == line)

/-- The home's last action once every snoop has been answered (R283): the requester's data or grant and the
directory. A GNT that answers OWN carries the line's old bytes, so that the slice holds them until the store is performed
(R296). -/
def homeReply (s : State) (b : Busy) : State :=
  let line := b.line
  let r := b.req.src
  let k := b.req.k
  let mem := memRead s b.req.sel line
  let d := dirGet s line
  let done := fun (s : State) (d : DirE) => busyPut (dirPut s line d) line (fun x => { x with done := true })
  let fill := fun (st : Nat) => { msg0 .data line 100 r with data := mem.1, poison := mem.2, sel := b.req.sel, tgt := st }
  let grant := fun (v : List Byte × Bool × Bool × Nat) =>
    { msg0 .gnt line 100 r with data := v.1, poison := v.2.1, wr := v.2.2.1, sel := v.2.2.2 }
  match k with
  | .rdS =>
    if b.fwd then done s (if lineTier line = 2 then ⟨2, r, 0⟩ else sharedWith s line r)
    else
      let st := if lineTier line = 2 ∧ hostSt s line = 2 then 2 else 1
      done (send s (fill st)) (if st = 2 then ⟨2, r, 0⟩ else sharedWith s line r)
  | .rdM => done (if b.fwd then s else send s (fill 2)) ⟨2, r, 0⟩
  | .upg => done (if b.fwd then s else if d.st = 1 then send s (msg0 .gnt line 100 r) else send s (fill 2)) ⟨2, r, 0⟩
  | .own =>
    done (send s (grant (match b.got with | some g => (g.data, g.poison, g.wr, g.sel) | none => (mem.1, mem.2, false, b.req.sel)))) ⟨2, r, 0⟩
  | .rdCur =>
    let v := match b.got with | some g => (g.data, g.poison) | none => mem
    busyDel (emit s (.read v.1 v.2)) line
  | .wrHint =>
    if hintOk s b.req.tgt line then busyDel (hintPlace s b.got b.req.tgt b.req.sel line b.req.mask b.req.data b.req.poison) line
    else
      let s := dirPut (noteErr s (0x960 + b.req.tgt) 4 0 0) line dir0
      let s := writeOver s b.got b.req.sel line b.req.mask b.req.data b.req.poison
      busyDel (if lineTier line = 2 then hostStPut s line 0 else s) line
  | _ =>
    let s := writeOver (dirPut s line dir0) b.got b.req.sel line b.req.mask b.req.data b.req.poison
    busyDel (if lineTier line = 2 then hostStPut s line 0 else s) line

/-- The snoop a request sends (R283, R285). -/
def snoopKind (k : MK) (line : Nat) : MK :=
  match k with
  | .rdS => if lineTier line = 2 then .snpI else .snpS
  | .rdCur => .snpCur
  | _ => .snpI

/-- The home's snoops, or its answer when there is nothing to snoop (R283). -/
def homeSnoop (s : State) (b : Busy) : State :=
  let d := dirGet s b.line
  let r := b.req.src
  let need := if (b.req.k = .rdS ∨ b.req.k = .rdCur) ∧ d.st ≠ 2 then [] else sharersOf s b.line r b.req.k
  if need.isEmpty then homeReply s b
  else
    let s := busyPut s b.line (fun x => { x with wait := need })
    need.foldl (fun s g => send s (msg0 (snoopKind b.req.k b.line) b.line 100 g)) s

/-- The home begins a transaction (R276, R284, R285): host-bias pages and floor lines first go to the host. A host that is
lost is taken to hold no copy (R292). -/
def homeBegin (s : State) (m : Msg) : State :=
  let b : Busy := { line := m.line, req := m, wait := [], host := false, got := none, fwd := false, done := false }
  let s := { s with coh := { s.coh with busy := s.coh.busy ++ [b] } }
  if lineTier m.line = 2 then
    let n := floorNeed m.k (hostSt s m.line) m.mask
    if n = 0 then homeSnoop s b
    else d2h (busyPut s m.line (fun x => { x with host := true })) n m.line
  else if hostBias s m.line && hostUp s then
    biasSnoop (busyPut s m.line (fun x => { x with host := true })) (if m.k = .rdS then 0 else if m.k = .rdCur then 1 else 2) m.line
  else homeSnoop s b

/-- First reservation holder of a line (R288). -/
def resvHead (s : State) (line : Nat) : Option Nat := (s.coh.resv.find? (fun p => p.1 == line)).map (·.2)

/-- Whether a home refuses a requester's transaction on a line (R287, R288): the line is busy, no tracker is free, or another
holds the line's reservation. -/
def homeRefuses (s : State) (src line : Nat) : Bool :=
  lineBusy s line || decide (256 ≤ (s.coh.busy.filter (fun b => homeOf b.line == homeOf line)).length) ||
  (match resvHead s line with
   | some g => g != src
   | none => false)

/-- A refusal is counted (R287, R288): the NACK, the requester's NACKs in a row, and a reservation at and beyond the 16th. An
agent without a cache keeps its count under its own number. -/
def nackCount (s : State) (src line : Nat) (k : MK) : State :=
  let s := regCount s 0x60040 31 0 1
  let s := if 48 ≤ src then
      (match mshrOf s src line with
       | some _ => mshrPut s src line (fun x => { x with nacks := x.nacks + 1 })
       | none => { s with coh := { s.coh with mshr := s.coh.mshr ++ [⟨src, line, k, 1, 1, true, 0, false⟩] } })
    else s
  let n : Nat := match mshrOf s src line with | some x => x.nacks + (if 48 ≤ src then 0 else 1) | none => 0
  let free := (s.coh.resv.filter (fun p => homeOf p.1 == homeOf line)).length
  if decide (16 ≤ n) && decide (free < 64) && !s.coh.resv.contains (line, src) then
    regCount { s with coh := { s.coh with resv := s.coh.resv ++ [(line, src)] } } 0x60040 63 32 1
  else s

/-- A requester's transaction is accepted (R287, R288): its count and its reservation go. -/
def homeAccept (s : State) (src line : Nat) : State :=
  let s := { s with coh := { s.coh with resv := s.coh.resv.erase (line, src) } }
  if 48 ≤ src then mshrDel s src line else mshrPut s src line (fun x => { x with nacks := 0 })

/-- A NACK to a requester (R287, R288). -/
def homeNack (s : State) (m : Msg) : State :=
  let s := nackCount s m.src m.line m.k
  if 48 ≤ m.src then s else send s (msg0 .nack m.line 100 m.src)

/-- A home meets a request (R276, R287, R288): accepted, or refused with a NACK. -/
def homeMeet (s : State) (m : Msg) : State :=
  if homeRefuses s m.src m.line then homeNack s m
  else homeBegin (dirRoom (homeAccept s m.src m.line) m.line) m

/-- A response of a slice reaches the home (R282, R283). -/
def homeAck (s : State) (k : MK) (slice line : Nat) : State :=
  match busyOf s line with
  | none => s
  | some b =>
    if b.wait.contains slice then
      let b' := { b with wait := b.wait.erase slice, fwd := b.fwd || (k == .ackFwd) }
      let s := busyPut s line (fun _ => b')
      if b'.wait.isEmpty && !b'.host then homeReply s b' else s
    else s

end Sys2Proof.Machine
end

