-- ==== Sys2Proof/Machine/Units.lean ====
section
/-! DEFINITION. Which cores, groves, movers and compartments serve (R15, R17, R31, R121, R356, R447 to R449). -/

namespace Sys2Proof.Machine

/-- Whether a core is enabled and unfenced (R121). -/
def coreServing (s : State) (c : Nat) : Bool :=
  match (coreGet s c).st with
  | .unused => false
  | .fenced => false
  | _ => true

/-- Enabled, unfenced cores of a grove in chain order, that is, ascending position (R17). -/
def groveServing (s : State) (g : Nat) : List Nat := (groveCores g).filter (coreServing s)

/-- Renumbers a grove's logical indices (R17, R447). -/
def renumber (s : State) (g : Nat) : State :=
  let l := groveServing s g
  (groveCores g).foldl (fun s c =>
    match l.findIdx? (fun x => x == c) with
    | some j => coreMap s c (fun k => { k with logical := j })
    | none => if (coreGet s c).logical = 255 then s else coreMap s c (fun k => { k with logical := 255 })) s

/-- The core of a grove with a logical index. -/
def coreOfLogical (s : State) (g j : Nat) : Option Nat := (groveServing s g)[j]?

/-- Spares of a grove not in use (R447): neither serving nor fenced. -/
def freeSpares (s : State) (g : Nat) : List Nat :=
  (groveCores g).filter (fun c => s.life.spares.contains c && decide ((coreGet s c).st = .unused))

/-- Credit depth of a mover (R23, R232). -/
def mvDepth (s : State) : Nat := let d := regField s 0x40000 23 16; if d = 0 ∨ 0x80 < d then 0x80 else d

/-- Whether a mover serves (R449). -/
def moverServing (s : State) (m : Nat) : Bool := !s.flt.fenced.contains (0x990 + m) && !groveFenced s (m / 4)

/-- Serving movers of a grove. -/
def groveMovers (s : State) (g : Nat) : List Nat := ((List.range 4).map (fun m => 4 * g + m)).filter (moverServing s)

/-- Groves of a compartment (R31, R356): a fenced grove has dropped out (R448). -/
def compGroves (s : State) (k : Nat) : List Nat :=
  if k < 48 then below 48 (fun g => bitOf (regGet s (0x30100 + 8 * k)) g && !groveFenced s g) else []

/-- Whether a queue's compartment holds a grove's unit. -/
def inComp (s : State) (k g : Nat) : Bool := (compGroves s k).contains g

/-- Enabled, unfenced cores of a compartment in core order (R468). -/
def compCores (s : State) (k : Nat) : List Nat := (compGroves s k).flatMap (groveServing s)

/-- The compartment of a grove. -/
def compOfGrove (s : State) (g : Nat) : Nat := (firstBelow 48 (fun k => inComp s k g)).getD 63

/-- Transaction slots of a mover in use (R23): what its stream has issued and not completed, up to its depth. -/
def moverBusy (s : State) (m : Nat) : Nat :=
  match (moverGet s m).cur with
  | some st => min st.txns.length (mvDepth s)
  | none => 0

/-- The mover of a list with the most free transaction slots, the lowest number on a tie (R172, R330). -/
def freestMover (s : State) (l : List Nat) : Option Nat :=
  l.foldl (fun b m =>
    match b with
    | none => some m
    | some x => if moverBusy s m < moverBusy s x then some m else some x) none

/-- Period number of a compartment (R35). -/
def period (s : State) (k : Nat) : Nat := tabGet (fun _ => 0) s.qsu.period k

end Sys2Proof.Machine
end

