-- ==== Sys2Proof/Machine/Report.lean ====
section
/-! DEFINITION. What the complex reports to the host: the event ring (R346 to R348), completion records and their order (R336, R339, R372), and the topology generation (R355). -/

namespace Sys2Proof.Machine

/-- DEV_STATUS.MODE (R495). -/
def mode (s : State) : Nat := regField s 0x20008 18 16

/-- Mode RUN. -/
def inRun (s : State) : Bool := mode s == 3

/-- Mode FROZEN (R423), or no power at all (R425). -/
def frozen (s : State) : Bool := mode s == 5 || !s.life.on

/-- The bytes of four 64-bit words. -/
def words (l : List Nat) : List Byte := l.flatMap (fun w => leBytes 8 (w % 2 ^ 64))

/-- PHASE of count `t` in a ring of 2^l entries (R222, R321). -/
def phaseOf (t l : Nat) : Nat := if (t / 2 ^ l) % 2 = 0 then 1 else 0

/-- Writes an event record (R346, R348). An event that the ring has no room for is counted; in HOLD, when FROZEN, or with
no ring in use, the event reaches nothing. -/
def writeEventQ (s : State) (code noq queue seq ctx a0 a1 a2 : Nat) : State :=
  if s.host.hold || !s.qsu.evOn || frozen s then s
  else
    let l := regField s 0x30018 4 0
    if 2 ^ l ≤ s.qsu.evT - s.qsu.evP then regCount s 0x30028 31 0 1
    else
      let t := s.qsu.evT
      let head := phaseOf t l * 2 ^ 63 + code * 2 ^ 55 + queue * 2 ^ 45 + seq * 2 ^ 30 + noq * 2 ^ 29 + ctx
      let s := floorWrite s (regField s 0x30010 42 6 * 64 + 32 * (t % 2 ^ l)) (words [head, a0, a1, a2])
      let s := { s with qsu := { s.qsu with evT := t + 1 } }
      let s := regSet s 0x30020 32 32 1
      let s := if t + 1 - s.qsu.evP = 2 ^ l then regSet s 0x30020 33 33 1 else s
      sendMsix s (regField s 0x30018 26 16)

/-- An event that concerns no queue. -/
def writeEvent (s : State) (code a0 a1 a2 : Nat) : State := writeEventQ s code 1 0 0 0 a0 a1 a2

/-- A change of the topology page (R355): TOPO_GEN goes odd, then even again, and TOPOLOGY_CHANGED is written. -/
def topoChange (s : State) : State :=
  let g := (s.qsu.topoGen + 2) % 2 ^ 64
  writeEvent { s with qsu := { s.qsu with topoGen := g } } 0x07 g 0 0

/-- The head word of a descriptor (R329). -/
def dHead (d : List Byte) : Nat := fieldAt d 0 8
/-- SEQ of a descriptor. -/
def dSeq (d : List Byte) : Nat := bitsOf (dHead d) 62 48
/-- CMD of a descriptor. -/
def dCmd (d : List Byte) : Nat := bitsOf (dHead d) 47 43
/-- CONTEXT of a descriptor. -/
def dCtx (d : List Byte) : Nat := bitsOf (dHead d) 19 0
/-- Word `i` of a descriptor's 16. -/
def dWord (d : List Byte) (i : Nat) : Nat := fieldAt d (8 * i) 8

/-- An event of queue `q` about descriptor `d`. -/
def writeEventD (s : State) (code q : Nat) (d : List Byte) (a0 a1 a2 : Nat) : State :=
  writeEventQ s code 0 q (dSeq d) (dCtx d) a0 a1 a2

/-- The running command of a queue with an index. -/
def runOf (s : State) (q idx : Nat) : Option RunCmd := (queueGet s q).run.find? (fun r => r.idx == idx)

/-- Replaces a running command. -/
def runPut (s : State) (q idx : Nat) (f : RunCmd → RunCmd) : State :=
  let k := queueGet s q
  queueSet s q { k with run := k.run.map (fun r => if r.idx = idx then f r else r) }

/-- Charges energy to a queue and to its compartment (R430). -/
def chargeQueue (s : State) (q e : Nat) : State :=
  let k := queueGet s q
  let s := regPut s (0x72000 + 8 * q) ((regGet s (0x72000 + 8 * q) + e) % 2 ^ 64)
  let s := if k.comp < 48 then regPut s (0x71000 + 8 * k.comp) ((regGet s (0x71000 + 8 * k.comp) + e) % 2 ^ 64) else s
  { s with pwr := { s.pwr with taken := s.pwr.taken + e } }

/-- Stores a queue's next completion record (R336), with its message; in HOLD the record is absent. -/
def recordStore (s : State) (q : Nat) (rec : List Byte) (irq : Bool) : State :=
  let k := queueGet s q
  if s.host.hold || frozen s then s
  else
    let s := floorWrite s (k.cpl + 64 * (k.completed % 2 ^ k.clog)) rec
    if irq then sendMsix s k.vec else s

/-- Writes a completion record and counts the completion (R336, R339): the time is free; the energy `e`, in µJ, is added to the
counters of the queue and its compartment (R430). -/
def writeRecord (s : State) (q status cmd seq ctx : Nat) (irq : Bool) (d0 d1 e : Nat) : State :=
  let el := drawFree s
  let k := queueGet s q
  let head := phaseOf k.completed k.clog * 2 ^ 63 + status * 2 ^ 55 + q * 2 ^ 45 + seq * 2 ^ 30 + cmd * 2 ^ 25 + ctx
  let s := recordStore (chargeQueue el.2 q e) q (words [head, el.1, e % 2 ^ 64, d0, d1, 0, 0, 0]) irq
  queueSet s q { queueGet s q with completed := k.completed + 1 }

/-- fJ in a microjoule. -/
def fjPerUj : Nat := 10 ^ 9

/-- Completes a running command: its record, with the energy it has taken in whole microjoules, then COMPLETED (R339, R430). -/
def finishNow (s : State) (q idx status d0 d1 : Nat) : State :=
  match runOf s q idx with
  | none => s
  | some r =>
    let s := queueSet s q { queueGet s q with run := (queueGet s q).run.filter (fun x => x.idx != idx) }
    writeRecord s q status (dCmd r.desc) (dSeq r.desc) (dCtx r.desc) (bitOf (dHead r.desc) 40) d0 d1 (r.fj / fjPerUj)

/-- The link that carries a mover's ordered writes (R372). -/
def moverLink (s : State) (m : Nat) : Nat :=
  let l := trainedLinks s
  if l.isEmpty then 0 else l.getD (m % l.length) 0

/-- Completes a command, after a zero-length read on each link that carried an ordered write of it (R372). In HOLD nothing
is issued. -/
def finish (s : State) (links : List Nat) (q idx status d0 d1 : Nat) : State :=
  if links.isEmpty || s.host.hold then finishNow s q idx status d0 d1
  else
    let s := links.foldl (fun s l => emit (linkWake s l) (.zlr l)) s
    { s with host := { s.host with defer := s.host.defer ++ [⟨links, q, idx, status, d0, d1⟩] } }

/-- A zero-length read on a link has completed (R372): the oldest completion that waits for one on that link. -/
def zlrDone (s : State) (link : Nat) : State :=
  match s.host.defer.find? (fun d => d.links.contains link) with
  | none => s
  | some d =>
    let l := d.links.erase link
    if l.isEmpty then finishNow { s with host := { s.host with defer := s.host.defer.erase d } } d.q d.idx d.status d.d0 d.d1
    else { s with host := { s.host with defer := s.host.defer.map (fun x => if x = d then { d with links := l } else x) } }

/-- Removes duplicates, keeping the first of each. -/
def dedup {α : Type} [DecidableEq α] (l : List α) : List α := l.foldl (fun a x => if a.contains x then a else a ++ [x]) []

end Sys2Proof.Machine
end

