-- ==== Sys2Proof/Machine/XltOps.lean ====
section
/-! DEFINITION. Translation (R207 to R218): entries, walks, the caches of leaves, and the epochs that drains wait for (R227, R228). -/

namespace Sys2Proof.Machine

/-- Why a translation ends: a leaf, or R221's causes 1, 4 and 5 with the level and entry that decided. -/
inductive XRes where
  | leaf (l : Leaf)
  | miss (level ent : Nat)
  | poisoned (level ent line : Nat)
  | malformed (level ent : Nat)
  | denied (level ent : Nat)
  | range
  deriving DecidableEq, Repr

/-- KEY_SEL of a leaf entry (R209). -/
def eSel (e : Nat) : Nat := bitsOf e 63 58
/-- PINNED. -/
def ePinned (e : Nat) : Bool := bitOf e 53
/-- W. -/
def eW (e : Nat) : Bool := bitOf e 52
/-- R. -/
def eR (e : Nat) : Bool := bitOf e 51
/-- PA of the page's first byte. -/
def ePage (e : Nat) : Nat := bitsOf e 45 26 * 2 ^ 26

/-- Whether a leaf entry is well formed at its level (R209, R210). -/
def leafOk (e level : Nat) : Bool :=
  bitsOf e 57 54 == 0 && bitsOf e 50 46 == 0 && bitsOf e 25 3 == 0 &&
  (if level = 2 then bitOf e 2 && bitsOf e 31 26 == 0 else level == 3 && !bitOf e 2) &&
  paValid (ePage e) && (decide (paTier (ePage e) ≤ 1) || eSel e == 0)

/-- Whether a pointer entry is well formed at its level (R209, R210). -/
def pointerOk (e level : Nat) : Bool :=
  bitsOf e 63 46 == 0 && bitsOf e 8 2 == 0 && decide (level ≤ 2) &&
  paTier (bitsOf e 45 9 * 512) == 0 && paValid (bitsOf e 45 9 * 512) && (level == 2 || bitsOf e 45 9 % 16 == 0)

/-- Whether plaintext pages may be used for canopy and understory (R243, MEM_CTRL.PLAIN_OK). -/
def plainOk (s : State) : Bool := bitOf (regGet s 0x50000) 0

/-- Whether a leaf's key selection is denied (R210). -/
def selDenied (s : State) (e : Nat) : Bool :=
  decide (paTier (ePage e) ≤ 1) && (if eSel e = 0 then !plainOk s else selEmpty s (eSel e))

/-- Reads a page-table entry as a walk does: RD_CUR in plaintext (R289). -/
def readEntry (s : State) (pa : Nat) : Nat × Bool :=
  let r := paRead s 0 pa 8
  (leNat r.1, r.2)

/-- A walk from the level-1 table of a root (R207, R210). -/
def walkFrom (s : State) (root va l1 : Nat) : XRes :=
  if 2 ^ 52 ≤ va then .range
  else
    let p1 := l1 + 8 * bitsOf va 51 42
    let e1 := readEntry s p1
    if e1.2 then .poisoned 1 e1.1 (p1 / 64)
      else if !bitOf e1.1 0 then .miss 1 e1.1
    else if bitOf e1.1 1 || !pointerOk e1.1 1 then .malformed 1 e1.1
    else
      let p2 := bitsOf e1.1 45 9 * 512 + 8 * bitsOf va 41 32
      let e2 := readEntry s p2
      if e2.2 then .poisoned 2 e2.1 (p2 / 64)
      else if !bitOf e2.1 0 then .miss 2 e2.1
      else if bitOf e2.1 1 then
        (if !leafOk e2.1 2 then .malformed 2 e2.1
         else if selDenied s e2.1 then .denied 2 e2.1
         else .leaf ⟨root, va / 2 ^ 32 * 64, true, e2.1⟩)
      else if !pointerOk e2.1 2 then .malformed 2 e2.1
      else
        let p3 := bitsOf e2.1 45 9 * 512 + 8 * bitsOf va 31 26
        let e3 := readEntry s p3
        if e3.2 then .poisoned 3 e3.1 (p3 / 64)
      else if !bitOf e3.1 0 then .miss 3 e3.1
        else if !bitOf e3.1 1 || !leafOk e3.1 3 then .malformed 3 e3.1
        else if selDenied s e3.1 then .denied 3 e3.1
        else .leaf ⟨root, va / 2 ^ 26, false, e3.1⟩

/-- A walk under a root (R211): a root not latched misses. -/
def walk (s : State) (root va : Nat) : XRes :=
  if 2 ^ 52 ≤ va then .range
  else
    let t := tabGet (fun _ => 0) s.xlt.l1 root
    if t = 0 then .miss 1 0 else walkFrom s root va (t - 1)

/-- The lines a walk reads, in order (R207, R210). -/
def walkLines (s : State) (root va : Nat) : List Nat :=
  let t := tabGet (fun _ => 0) s.xlt.l1 root
  if t = 0 ∨ 2 ^ 52 ≤ va then []
  else
    let p1 := t - 1 + 8 * bitsOf va 51 42
    let e1 := readEntry s p1
    if e1.2 || !bitOf e1.1 0 || bitOf e1.1 1 || !pointerOk e1.1 1 then [p1 / 64]
    else
      let p2 := bitsOf e1.1 45 9 * 512 + 8 * bitsOf va 41 32
      let e2 := readEntry s p2
      if e2.2 || !bitOf e2.1 0 || bitOf e2.1 1 || !pointerOk e2.1 2 then [p1 / 64, p2 / 64]
      else [p1 / 64, p2 / 64, (bitsOf e2.1 45 9 * 512 + 8 * bitsOf va 31 26) / 64]

/-- Whether a leaf translates an address under a root. -/
def leafHit (l : Leaf) (root va : Nat) : Bool :=
  l.root == root && (if l.big then va / 2 ^ 32 == l.page / 64 else va / 2 ^ 26 == l.page)

/-- Physical address of a device virtual address through a leaf. -/
def leafPA (l : Leaf) (va : Nat) : Nat := if l.big then ePage l.ent + va % 2 ^ 32 else ePage l.ent + va % 2 ^ 26

/-- Places a leaf in the central cache, newest first, of 8,192 (R216). -/
def cacheLeaf (s : State) (l : Leaf) : State :=
  if s.xlt.cache.contains l then s
  else { s with xlt := { s.xlt with cache := (l :: s.xlt.cache).take 8192 } }

/-- A translation by the central cache or a walk (R216): leaves found by a walk are cached (R215). A poisoned line's
entries act as VALID = 0, and the controller and the walker record the event (R240). A walk's reads are RD_CUR (R284, R289). -/
def translate (s : State) (root va : Nat) : XRes × State :=
  if 2 ^ 52 ≤ va then (.range, s)
  else
    match s.xlt.cache.find? (fun l => leafHit l root va) with
    | some l => (.leaf l, s)
    | none =>
      let t := (walkLines s root va).foldl readNote s
      match walk s root va with
      | .leaf l => (.leaf l, cacheLeaf t l)
      | .poisoned v e n => (.miss v e, noteErr (noteErr t (ctlRecord n) 5 0 (64 * n)) 0xA91 1 0 (64 * n))
      | r => (r, t)

/-- Places a leaf in a core's eight-entry translation buffer (R108). -/
def tbufPut (k : Core) (l : Leaf) : Core := { k with tbuf := (l :: k.tbuf.filter (fun x => x != l)).take 8 }

/-- A leaf of a command argument (R331): valid, R = 1, not in device space. -/
def argLeaf (s : State) (root va : Nat) : Option Leaf × State :=
  match translate s root va with
  | (.leaf l, s) => if eR l.ent && paTier (ePage l.ent) != 3 then (some l, s) else (none, s)
  | (_, s) => (none, s)

/-- Reads `n` bytes of an argument through a root (R331), page by page: none when it is unreadable or poisoned. -/
def argBytes (s : State) (root : Nat) : Nat → Nat → Nat → Option (List Byte) × State
  | 0, _, _ => (some [], s)
  | f + 1, va, n =>
    if n = 0 then (some [], s)
    else
      match argLeaf s root va with
      | (none, s) => (none, s)
      | (some l, s) =>
        let k := min (64 - va % 64) n
        let r := paRead s (eSel l.ent) (leafPA l va) k
        let s := readNotes s (leafPA l va) k
        if r.2 || (paTier (leafPA l va) == 2 && s.host.hold) then (none, s)
        else
          match argBytes s root f (va + k) (n - k) with
          | (some t, s) => (some (r.1 ++ t), s)
          | (none, s) => (none, s)

/-- Reads `n` bytes of an argument. -/
def readArg (s : State) (root va n : Nat) : Option (List Byte) × State := argBytes s root (n / 64 + 2) va n

/-- Epochs that outstanding core accesses and mover transactions hold (R228). -/
def epochBusy (s : State) (e : Nat) : Bool :=
  s.cores.any (fun p => p.2.loads.any (fun l => l.epoch ≤ e) || p.2.sb.any (fun b => b.epoch ≤ e)) ||
  s.movers.any (fun p => match p.2.cur with | some st => st.txns.any (fun t => t.epoch ≤ e) | none => false)

/-- Whether a leaf matches an invalidation of a root (R227): all pages, or `n` pages from `first`. -/
def invalHit (l : Leaf) (root : Nat) (all : Bool) (first n : Nat) : Bool :=
  l.root == root && (all || (decide (l.page < first + n) && decide (first < l.page + (if l.big then 64 else 1))))

/-- Removes the matching leaves everywhere (R227): central cache, translation buffers, prefetch buffers; a walk is one step here, so none is in progress. -/
def invalLeaves (s : State) (p : Leaf → Bool) : State :=
  let s := { s with xlt := { s.xlt with cache := s.xlt.cache.filter (fun l => !p l) } }
  let s := coresMap s (fun _ k => { k with tbuf := k.tbuf.filter (fun l => !p l) })
  moversMap s (fun _ m => { m with cur := m.cur.map (fun st => { st with pfb := st.pfb.filter (fun l => !p l) }) })

end Sys2Proof.Machine
end

