-- ==== Sys2Proof/Machine/RideLink.lean ====
section
/-! DEFINITION. The ride link layer (R384 to R388): cells, credits, replay, and the choice of a port among a mask. -/

namespace Sys2Proof.Machine

/-- RIDE_CFG_i.MODE (R381). -/
def portMode (s : State) (i : Nat) : Nat := regField s (0x80000 + 0x800 * i) 1 0

/-- Whether a port is UP in a mode. -/
def portUp (s : State) (i m : Nat) : Bool := portMode s i == m && (portGet s i).st == 2

/-- Credit class of a cell type (R385, R386): 0 CHAIN, 1 TILE, 2 FENCE, 3 WINDOW, 4 RSP, 5 PROOF, 6 none. -/
def cellClass (ty : Nat) : Nat :=
  match ty with
  | 1 => 0 | 2 => 1 | 3 => 2 | 4 => 4 | 5 => 3 | 6 => 3 | 7 => 4 | 8 => 4 | 10 => 5 | _ => 6

/-- The header of a cell a port sends (R384). -/
def cellHeader (p : Port) (ty len lseq : Nat) : Nat :=
  ty * 2 ^ 124 + len * 2 ^ 113 + lseq * 2 ^ 97 + p.rx * 2 ^ 81 + bnat p.nak * 2 ^ 80 +
  (List.range 6).foldl (fun a k => a + min 255 (p.owed.getD k 0) * 2 ^ (72 - 8 * k)) 0

/-- A cell's bytes on the lanes: header, payload, trailer with the CRC-32 of both (R384). -/
def cellBytes (h : Nat) (data : List Byte) : List Byte :=
  let b := leBytes 16 h ++ data
  b ++ leBytes 8 (crc32 b * 2 ^ 32)

/-- Puts a cell on the lanes: acknowledgement and freed credits ride along. -/
def emitCell (s : State) (i ty lseq : Nat) (data : List Byte) : State :=
  let p := portGet s i
  let s := portSet s i { p with nak := false, ackd := p.rx, owed := [0, 0, 0, 0, 0, 0] }
  emit s (.cell i ty (cellBytes (cellHeader p ty data.length lseq) data))

/-- Sends the waiting cells that have credits (R386): each class in its own order, no class behind another. -/
def portPump (s : State) (i : Nat) : State :=
  (portGet s i).waitq.foldl (fun s c =>
    let p := portGet s i
    let k := cellClass c.ty
    let first := p.waitq.find? (fun x => cellClass x.ty == k) == some c
    if p.st = 2 ∧ first ∧ p.cred.getD k 0 ≠ 0 ∧ p.replay.length < 256 then
      let q := (p.tx + 1) % 65536
      let s := portSet s i { p with tx := q, waitq := p.waitq.erase c, replay := p.replay ++ [{ c with lseq := q }],
                                    cred := p.cred.set k (p.cred.getD k 0 - 1) }
      emitCell s i c.ty q c.data
    else s) s

/-- An IDLE cell carries what a port has not reported: its acknowledgement, NAK and freed credits (R384, R387). It goes out
when a command leaves any of them behind. DESIGN CHOICE (log 56). -/
def idleOut (s : State) (i : Nat) : State :=
  let p := portGet s i
  if p.st = 2 ∧ (p.nak = true ∨ p.ackd ≠ p.rx ∨ p.owed.any (fun n => n != 0) = true) then emitCell s i 15 0 [] else s

/-- Puts a cell at the end of a port's queue. -/
def portQueue (s : State) (i : Nat) (c : RCell) : State :=
  let p := portGet s i
  portPump (portSet s i { p with waitq := p.waitq ++ [c] }) i

/-- Hands a cell to a port; it waits for a credit there. -/
def portSend (s : State) (i ty : Nat) (data : List Byte) (mask : Nat) : State := portQueue s i ⟨ty, 0, data, mask, 0, false, false⟩

/-- Ports of a mask that are UP in Ride mode. -/
def maskUp (s : State) (mask : Nat) : List Nat := below 24 (fun i => mask.testBit i && portUp s i 1)

/-- Ports of a mask. -/
def maskPorts (mask : Nat) : List Nat := below 24 (fun i => mask.testBit i)

/-- Sends cell number `n` over a mask: the ports that are UP take cells in turn; with none UP it waits at the lowest. -/
def maskSend (s : State) (mask n ty : Nat) (data : List Byte) : State :=
  let up := maskUp s mask
  let l := if up.isEmpty then maskPorts mask else up
  match l[n % l.length]? with
  | some i => portSend s i ty data mask
  | none => s

/-- Whether a port has a CHAIN credit that no cell waits for (R183, R386). -/
def chainCredit (s : State) (i : Nat) : Bool :=
  let p := portGet s i
  p.cred.getD 0 0 != 0 && decide (p.replay.length < 256) && !p.waitq.any (fun c => c.ty == 1)

/-- The port of a mask that takes an agent's next chain cell (R183): in rotation from port `n`, those that are not UP or hold
no credit skipped. -/
def chainPort (s : State) (mask n : Nat) : Option Nat :=
  let l := (maskUp s mask).filter (chainCredit s)
  match l.find? (fun i => decide (n ≤ i)) with
  | some i => some i
  | none => l.head?

/-- Returns a credit of a class to the neighbour (R386). -/
def freeCredit (s : State) (i ty : Nat) : State :=
  let p := portGet s i
  let k := cellClass ty
  portSet s i { p with owed := p.owed.set k (p.owed.getD k 0 + 1) }

/-- Fault record of a ride port (R437). -/
def rideRec (i : Nat) : Nat := 0xA70 + i

/-- Resends every cell of the replay buffer (R387, R402): each counts a resend, and the port's record a REPLAY. A cell that has
been resent 8 times is not sent again, and its port will fail. -/
def replayAll (s : State) (i : Nat) : State :=
  let p := portGet s i
  if p.replay.isEmpty then s
  else
    let l := p.replay.map (fun c => { c with tries := c.tries + 1 })
    let s := portSet s i { p with replay := l }
    if l.any (fun c => decide (8 < c.tries)) then s
    else
    let s := regCount s (0x80018 + 0x800 * i) 47 32 l.length
    noteErr (l.foldl (fun s c => emitCell s i c.ty c.lseq c.data) s) (rideRec i) 0 0 0

/-- The header's acknowledgement, NAK and credits take effect (R384, R387): acknowledged cells leave the replay buffer, a NAK
resends the rest. Any cell that has been received, whatever its type, carries them. -/
def takeHeader (s : State) (i h : Nat) : State :=
  let p := portGet s i
  let ack := bitsOf h 96 81
  let rest := match p.replay.findIdx? (fun c => c.lseq == ack) with
    | some n => p.replay.drop (n + 1)
    | none => p.replay
  let cred := (List.range 6).map (fun k => min (port0.cred.getD k 0) (p.cred.getD k 0 + bitsOf h (79 - 8 * k) (72 - 8 * k)))
  let s := portSet s i { p with replay := rest, cred := cred }
  let s := if bitOf h 80 then replayAll s i else s
  portPump s i

/-- Whether an arriving cell is the next in sequence on a port that is UP (R387). -/
def cellNext (s : State) (i h : Nat) : Bool :=
  (portGet s i).st == 2 && bitsOf h 112 97 == ((portGet s i).rx + 1) % 65536

/-- Accepts a cell (R387): LSEQ advances, and the header takes effect. -/
def cellAccept (s : State) (i h : Nat) : State :=
  let p := portGet s i
  takeHeader (portSet s i { p with rx := bitsOf h 112 97, bad := false }) i h

/-- A cell that is not accepted (R387): NAK is set on the first bad cell after an accepted one. -/
def cellReject (s : State) (i : Nat) : State :=
  let p := portGet s i
  if p.bad then s else idleOut (portSet s i { p with nak := true, bad := true }) i

end Sys2Proof.Machine
end

