-- ==== Sys2Proof/Machine/RegView.lean ====
section
/-! DEFINITION. What a read of the register space returns (R9 to R11, R353, R354, R512 to R517): stored register values, the fields that show live state, the discovery ROM, the topology page, and the MSI-X table. -/

namespace Sys2Proof.Machine

/-- CORE_STAT.STATE (R121). -/
def coreStCode (k : CoreSt) : Nat :=
  match k with
  | .unused => 0 | .fenced => 1 | .idle => 2 | .loading => 3 | .running => 4 | .stopping => 5 | .stopped => 6

/-- CORE_STAT (R121). -/
def coreStat (k : Core) : Nat :=
  k.lastNf * 2 ^ 48 + k.excB % 2048 * 2 ^ 32 + k.exc * 2 ^ 24 + coreStCode k.st * 2 ^ 16 + k.lseq

/-- CORE_FENCE's live fields (R121). -/
def coreFence (s : State) (c : Nat) : Nat :=
  let k := coreGet s c
  k.logical * 256 + bnat k.spareUse * 8 + bnat (s.life.spares.contains c) * 4 + bnat k.fenced * 2

/-- QSU_QSTATE.STATE (R358). -/
def qstCode (q : QSt) : Nat :=
  match q with
  | .disabled => 0 | .idle => 1 | .active => 2 | .notReady => 3 | .overrun => 4 | .cplFull => 5 | .hold => 6

/-- Understory pages not yet overwritten (R256). -/
def pagesLeft (s : State) : Nat :=
  49152 - s.tiers.owNext - (s.tiers.owEarly.filter (fun p => decide (s.tiers.owNext ≤ p))).length

/-- Whether every trained function's decoder is committed with matching ways (R368). -/
def hdmDone (s : State) : Bool :=
  let w := (trainedLinks s).map (fun l => tabGet (fun _ => 0) s.host.hdm l)
  !w.isEmpty && w.all (fun x => x != 0 && x == w.headD 0)

/-- The window in force (R251): PA[45:30] of its base, and its selector. Until an enable is accepted MEM_WIN describes it. -/
def winCur (s : State) : Nat × Nat :=
  if mode s < 3 then (regField s 0x50010 45 30, regField s 0x50010 63 58) else (s.tiers.winBase, s.tiers.winSel)

/-- Streams that await a response of the driver (R232). -/
def fqAwait (s : State) : Nat := (s.movers.filter (fun p => match p.2.cur with | some x => decide (x.st = .awaiting) | none => false)).length

/-- Streams that hold a record because the ring has no space (R225, R232): while it is full, those whose record is pending. A
stream that has been cut or has ended holds none. -/
def fqHeld (s : State) : Nat :=
  if s.xlt.fqT - s.xlt.fqP < 2 ^ regField s 0x40018 4 0 then 0
  else (s.movers.filter (fun p => match p.2.cur with
    | some x => decide (x.st ≠ .cut) && s.xlt.fqPend.any (fun r => r.mover == p.1 && r.sid == x.sid)
    | none => false)).length

/-- Live fields of a register that are not stored as such (R121, R232, R258, R293, R358, R380, R402, R436, R494, R511): a mask
and the value. -/
def liveField (s : State) (off : Nat) : Nat × Nat :=
  if 0x200000 ≤ off ∧ off < 0x200000 + 16 * 2400 then
    let c := (off - 0x200000) / 16
    if off % 16 = 0 then (2 ^ 64 - 1, coreStat (coreGet s c)) else if off % 16 = 8 then (0xFF0E, coreFence s c) else (0, 0)
  else if 0x32000 ≤ off ∧ off < 0x34000 then
    let k := queueGet s ((off - 0x32000) / 8)
    (2 ^ 64 - 1, k.completed % 65536 * 2 ^ 48 + k.fetched % 65536 * 2 ^ 32 + k.run.length * 2 ^ 16 + qstCode k.st)
  else if 0x80000 ≤ off ∧ off < 0x8C000 ∧ off % 0x800 = 8 then
    let p := portGet s ((off - 0x80000) / 0x800)
    (0xFFF0, p.nport * 2 ^ 11 + p.st * 2 ^ 8 + p.lanes * 16)
  else if 0x80000 ≤ off ∧ off < 0x8C000 ∧ off % 0x800 = 0x20 then
    (2 ^ 64 - 1, (portGet s ((off - 0x80000) / 0x800)).nserial)
  else if 0xB0010 ≤ off ∧ off < 0xB0030 then
    let l := tabGet (fun _ => link0) s.host.links ((off - 0xB0010) / 8)
    (0xFFFF, bnat l.trained * 2 ^ 15 + bnat l.ide * 2 ^ 14 + l.width * 2 ^ 11 + l.l0p * 2 ^ 8 + l.rate * 16 + l.flit * 4 + l.pm)
  else if 0x70080 ≤ off ∧ off < 0x700A0 then
    let d := tabGet (fun _ => dom0) s.pwr.doms ((off - 0x70080) / 8)
    (0x7F, d.duty * 16 + d.point)
  else if 0x1A8800 ≤ off ∧ off < 0x1A8C00 ∧ off % 0x100 = 0 then
    if (tabGet (fun _ => link0) s.host.links ((off - 0x1A8800) / 0x100)).trained then (0, 0) else (7, 4)
  else if 0x1A7000 ≤ off ∧ off < 0x1A8800 ∧ off % 0x100 = 0 then
    if portMode s ((off - 0x1A7000) / 0x100) = 0 then (7, 4) else (0, 0)
  else
    match off with
    | 0x20008 => (0xF000000, s.life.lc * 2 ^ 24)
    | 0x20020 => (0xFF00, s.life.minSvn % 256 * 256)
    | 0x40008 => (0xFFFF000F, s.xlt.cache.length % 65536 * 2 ^ 16 + s.xlt.drains.length % 4 * 4 + s.xlt.epoch % 4)
    | 0x40028 => (0xFF00FF, min 255 (fqHeld s) * 2 ^ 16 + min 255 (fqAwait s))
    | 0x50018 => (2 ^ 64 - 1, (winCur s).2 * 2 ^ 58 + (winCur s).1 * 2 ^ 30)
    | 0x50030 => (2 ^ 64 - 1, pagesLeft s * 2 ^ 16 + bnat (pagesLeft s == 0) * 16 + bnat s.tiers.wErased * 8 + bnat s.tiers.wCanopy * 4 +
        bnat s.tiers.wCaches * 2 + bnat s.tiers.wPlates)
    | 0x50148 => (7, bnat s.tiers.keyCmd.isSome * 4 + s.tiers.keyResult)
    | 0x50150 => (2 ^ 64 - 1, s.tiers.slots.foldl (fun a p => a ||| 2 ^ p.1) 0)
    | 0x60020 => (2 ^ 64 - 1, bnat s.coh.l1busy * 2 ^ 48 + s.coh.stale.foldl (fun a g => a ||| 2 ^ g) 0)
    | 0x60038 => (2 ^ 64 - 1, if s.coh.probeRun then 0 else s.coh.probe)
    | 0x70100 => (2 ^ 64 - 1, s.pwr.energy / 10 ^ 9 % 2 ^ 64)
    | 0x70108 => (2 ^ 64 - 1, wrapInt 64 ((s.pwr.energy / 10 ^ 9 : Nat) - (s.pwr.taken : Int)))
    | 0x700A0 => (3, (tabGet (fun _ => dom0) s.pwr.doms 4).point)
    | 0x90048 => (0xF, (match s.prf.run with
        | some r => (if r.cmd = 6 then r.phase % 4 * 4 else 0) + 1
        | none => 0) + bnat s.prf.autoPend * 2)
    | 0xB0030 => (0xE3, bnat s.host.hold * 128 + s.host.cause * 32 + s.host.link)
    | 0xB0038 => (0x1F3, bnat (hdmDone s) * 256 + ((trainedLinks s).filter (fun l => tabGet (fun _ => 0) s.host.hdm l != 0)).foldl (fun a l => a + 2 ^ (4 + l)) 0 +
        (match tabGet (fun _ => 0) s.host.hdm ((trainedLinks s).headD 0) with | 3 => 1 | 5 => 2 | _ => 0))
    | _ => (0, 0)

/-- The value a read of a register shows (R9, R10, R517). -/
def regView (s : State) (off : Nat) : Nat :=
  match regAt off with
  | none => 0
  | some d =>
    let x := regShown d (regGet s off)
    let v := liveField s off
    (x - (x &&& v.1)) ||| (v.2 &&& v.1)

/-- A record of the discovery ROM (R353): TYPE, LENGTH, the value, and zeros to the next 8-byte boundary. -/
def romRecord (ty : Nat) (v : List Byte) : List Byte :=
  leBytes 2 ty ++ leBytes 2 v.length ++ v ++ List.replicate ((8 - (4 + v.length) % 8) % 8) 0

/-- Spare positions of a grove, as fused (R15), as a mask. -/
def spareMask (s : State) (g : Nat) : Nat := (groveCores g).foldl (fun a c => a + bnat (s.life.spares.contains c) * 2 ^ posOf c) 0

/-- The numbers that the records of the discovery ROM state, by TYPE (R353, R363). How a value lays its numbers out, and the
numbers of the types not named here, nothing fixes: `Config.romValue`. -/
def romNumbers (s : State) (ty : Nat) : List Nat :=
  match ty with
  | 1 => [0x1F6B, 0x0A40, Config.stepping, Config.serial]
  | 2 => [4, 48, 2400, 50, 192, 48]
  | 6 => [1024, 48, 1024, 256, 64, 2048, 65536, 16384, 64]
  | 10 => (List.range 48).map (spareMask s)
  | 11 => [1]
  | _ => []

/-- The records of the discovery ROM but for the last (R353). -/
def romRecords (s : State) : List Byte := (List.range 11).flatMap (fun i => romRecord (i + 1) (Config.romValue (i + 1) (romNumbers s (i + 1))))

/-- The discovery ROM (R353): header, records, and the record of the CRC-32 over all before it. -/
def romBytes (s : State) : List Byte :=
  let r := romRecords s
  let b := leBytes 4 0x34584D5A ++ leBytes 2 1 ++ [0, 0] ++ leBytes 4 (16 + r.length + 8) ++ [0, 0, 0, 0] ++ r
  b ++ romRecord 0 (leBytes 4 (crc32 b))

/-- A discovery ROM byte (R353). -/
def romByte (s : State) (o : Nat) : Byte := byteAt (romBytes s) o

/-- Whether a BAR0 offset lies in the component registers of link 0 (R366). -/
def inComp0 (off : Nat) : Bool := decide (0xC1000 ≤ off) && decide (off < 0xD0000)

/-- Component registers of a function (R366), from offset 0x1000 of their block. -/
def compRead (s : State) (n o size : Nat) : Nat :=
  if o < 0x1000 then 0
  else leNat ((List.range size).map (fun i => Config.compByte n (o + i) (tabGet (fun _ => 0) s.host.hdm n)))

/-- A grove's first topology word (R354). -/
def topoGrove (s : State) (g : Nat) : Nat :=
  (List.range 4).foldl (fun a m => a + bnat (moverServing s (4 * g + m)) * 2 ^ (12 + m)) 0 + bnat (!groveFenced s g) * 2 ^ 11 +
  bnat (decide ((groveServing s g).length < 48)) * 2 ^ 10 + (freeSpares s g).length * 256 + (groveServing s g).length

/-- Fenced positions of a grove. -/
def topoFenced (s : State) (g : Nat) : Nat :=
  (groveCores g).foldl (fun a c => a + bnat (decide ((coreGet s c).st = .fenced)) * 2 ^ posOf c) 0

/-- Whether any unit is fenced. -/
def anyFenced (s : State) : Bool := !s.flt.fenced.isEmpty || s.cores.any (fun p => p.2.fenced)

/-- A word of the health state (R457). -/
def healthWord (s : State) (o : Nat) : Nat :=
  if o = 0 then s.flt.eolCore * 2 ^ 16 + s.flt.eol
  else if o = 8 then
    (s.cores.filter (fun p => p.2.spareUse)).length * 2 ^ 40 +
    (s.flt.fenced.filter (fun r => decide (0xA70 ≤ r) && decide (r < 0xA88))).length * 2 ^ 32 +
    ((List.range 192).filter (fun m => !moverServing s m)).length * 2 ^ 24 +
    (s.flt.fenced.filter (fun r => decide (0x960 ≤ r) && decide (r < 0x990))).length * 2 ^ 16 +
    (s.cores.filter (fun p => p.2.fenced)).length
  else if 0x10 ≤ o ∧ o < 0x30 then
    let st := (o - 0x10) / 8
    let a := regGet s (0x100000 + 0x100 * (0xA8C + st) + 0x80)
    bitsOf a 63 32 * 2 ^ 32 + tabGet (fun _ => 0xFFFF) s.flt.standEol st * 2 ^ 16 + bitsOf a 31 16
  else if o = 0x40 then bnat s.flt.restored
  else 0

/-- A word of the pair state (R484). -/
def pairWord (s : State) (o : Nat) : Nat :=
  match o with
  | 0 => s.prf.pair
  | 8 => regGet s 0x90008
  | 0x10 => regField s 0x90050 31 0
  | 0x18 => regField s 0x90050 63 32
  | 0x20 => s.prf.strap * 2 ^ 16 + s.prf.risk
  | 0x28 => (List.range 24).foldl (fun a i => a + bnat (portUp s i 3) * 2 ^ i) 0
  | _ => 0

/-- The second word of a port's entry in the topology page (R400). -/
def topoPort (s : State) (i : Nat) : Nat :=
  let p := portGet s i
  p.nport * 2 ^ 11 + p.st * 2 ^ 8 + portMode s i * 64 + bnat (bitOf (regGet s (0x80000 + 0x800 * i)) 8) * 32

/-- The eight bytes of the topology page at an offset that is a multiple of 8 (R354, R400). -/
def topoWord (s : State) (o : Nat) : Nat :=
  if o = 0 then s.qsu.topoGen
  else if o = 8 then
    bnat ((List.range 48).any (fun g => (groveServing s g).length < 48)) * 4 + bnat s.host.hold * 2 + bnat (anyFenced s)
  else if 0x40 ≤ o ∧ o < 0xC40 then
    let g := (o - 0x40) / 64
    let j := (o - 0x40) % 64
    if j = 0 then topoGrove s g
    else if j = 8 then topoFenced s g
    else leNat ((List.range 8).map (fun i => match coreOfLogical s g (j - 16 + i) with
      | some c => BitVec.ofNat 8 (posOf c)
      | none => 0xFF#8))
  else if 0xC40 ≤ o ∧ o < 0xDC0 then
    let i := (o - 0xC40) / 16
    if o % 16 = 0 then (portGet s i).nserial else topoPort s i
  else if 0xE00 ≤ o ∧ o < 0xF80 then
    let k := (o - 0xE00) / 8
    (compGroves s k).foldl (fun a g => a + 2 ^ (16 + g)) 0 + period s k
  else if 0x1000 ≤ o ∧ o < 0x2000 then pairWord s (o - 0x1000)
  else if 0x2000 ≤ o ∧ o < 0x3000 then healthWord s (o - 0x2000)
  else 0

/-- The eight bytes of the MSI-X table or Pending Bit Array at an offset (R367). -/
def msixWord (s : State) (o : Nat) : Nat :=
  if o < 0x8000 then
    let e := msixGet s (o / 16)
    if o % 16 = 0 then e.addr else bnat e.mask * 2 ^ 32 + e.data
  else if o < 0x8100 then (List.range 64).foldl (fun a i => a + bnat (s.host.pba.contains (8 * (o - 0x8000) + i)) * 2 ^ i) 0
  else 0

/-- A read of BAR0 (R11, R513): registers at their own 64-bit width; the pages, the component registers and the MSI-X structures
by naturally aligned accesses of four or eight bytes. -/
def barRead (s : State) (off size : Nat) : Nat :=
  if (size ≠ 4 ∧ size ≠ 8) ∨ off % size ≠ 0 then 0
  else if off < 0x10000 then leNat ((List.range size).map (fun i => romByte s (off + i)))
  else if off < 0x20000 then bitsOf (topoWord s ((off - 0x10000) / 8 * 8)) (8 * (off % 8) + 8 * size - 1) (8 * (off % 8))
  else if 0xF00000 ≤ off ∧ off < 0xF08100 then
    bitsOf (msixWord s ((off - 0xF00000) / 8 * 8)) (8 * (off % 8) + 8 * size - 1) (8 * (off % 8))
  else if inComp0 off then compRead s 0 (off - 0xC0000) size
  else if size = 8 then regView s off else 0

/-- A read of BAR0 with its effect: RC fields clear (R9, R517). -/
def barReadRc (s : State) (off size : Nat) : Nat × State :=
  let v := barRead s off size
  match regAt off with
  | some d => if size = 8 ∧ off % 8 = 0 ∧ d.rc ≠ 0 then (v, regPut s off (regGet s off - (regGet s off &&& d.rc))) else (v, s)
  | none => (v, s)

end Sys2Proof.Machine
end

