-- ==== Sys2Proof/Machine/Scalar.lean ====
section
/-! DEFINITION. The scalar slot (R124 to R145): fields, legality, and what each instruction does to the core's registers. `p` is the state before the bundle, `a` the state being written (R125). Memory, waits and barriers are in CoreMem. -/

namespace Sys2Proof.Machine

/-- Opcode of a scalar slot value (R130). -/
def scOp (w : Nat) : Nat := bitsOf w 31 26
/-- Guard field of a scalar slot value. -/
def scG (w : Nat) : Nat := bitsOf w 25 22
/-- rd of SR, SI, SU, SJ and SM. -/
def scRd (w : Nat) : Nat := bitsOf w 21 17
/-- rs1 of SR, SI and SM. -/
def scRs1 (w : Nat) : Nat := bitsOf w 16 12
/-- rs2 of SR. -/
def scRs2 (w : Nat) : Nat := bitsOf w 11 7
/-- fn of SR. -/
def scFn (w : Nat) : Nat := bitsOf w 6 0
/-- imm12 of SI. -/
def scImm12 (w : Nat) : Nat := bitsOf w 11 0
/-- imm17 of SU. -/
def scImm17 (w : Nat) : Nat := bitsOf w 16 0
/-- pd of SP, SPI and SL. -/
def scPd (w : Nat) : Nat := bitsOf w 21 19
/-- cond of SP and SPI. -/
def scCond (w : Nat) : Nat := bitsOf w 18 16
/-- rs1 of SP and SPI. -/
def scPrs1 (w : Nat) : Nat := bitsOf w 15 11
/-- rs2 of SP. -/
def scPrs2 (w : Nat) : Nat := bitsOf w 10 6
/-- width of SM. -/
def scWidth (w : Nat) : Nat := bitsOf w 11 9
/-- X of SM. -/
def scX (w : Nat) : Bool := bitOf w 8
/-- off8 of SM. -/
def scOff8 (w : Nat) : Nat := bitsOf w 7 0

/-- A 64-bit word sign-extended from the low `n` bits of `x`. -/
def sext64 (n x : Nat) : W64 := BitVec.ofInt 64 (sextInt n x)

/-- Whether guard `g` lets an instruction take effect (R124). -/
def guardOk (a : Arch) (g : Nat) : Bool := pget a (g % 8) != bitOf g 3

/-- Access size in bytes of an SM width (R135). -/
def smSize (k : Nat) : Nat :=
  match k with
  | 0 => 1 | 1 => 2 | 2 => 4 | 3 => 8 | 4 => 16 | _ => 256

/-- Address of an SM access: rs1 + sext(off8) × size (R135). -/
def smAddr (p : Arch) (w : Nat) : W64 :=
  sget p (scRs1 w) + BitVec.ofInt 64 (sextInt 8 (scOff8 w) * (smSize (scWidth w) : Nat))

/-- ALU functions (R132). -/
def aluFn (fn : Nat) (a b : W64) (preds : Nat) : W64 :=
  match fn with
  | 0 => a + b
  | 1 => a - b
  | 2 => a &&& b
  | 3 => a ||| b
  | 4 => a ^^^ b
  | 5 => a <<< (b.toNat % 64)
  | 6 => a >>> (b.toNat % 64)
  | 7 => a.sshiftRight (b.toNat % 64)
  | 8 => a * b
  | 9 => BitVec.ofNat 64 (a.toNat * b.toNat / 2 ^ 64)
  | 10 => BitVec.ofInt 64 (a.toInt * b.toInt / (2 ^ 64 : Nat))
  | 11 => if a.toInt ≤ b.toInt then a else b
  | 12 => if a.toInt ≤ b.toInt then b else a
  | 13 => if a.toNat ≤ b.toNat then a else b
  | 14 => if a.toNat ≤ b.toNat then b else a
  | _ => BitVec.ofNat 64 preds

/-- Conditions of PCMP, PCMPI and ICMP (R133) on two's-complement words. -/
def condFn {n : Nat} (c : Nat) (a b : BitVec n) : Bool :=
  match c with
  | 0 => a == b
  | 1 => a != b
  | 2 => decide (a.toInt < b.toInt)
  | 3 => decide (b.toInt ≤ a.toInt)
  | 4 => decide (a.toNat < b.toNat)
  | _ => decide (b.toNat ≤ a.toNat)

/-- Predicates p7 … p0 as a number (R132, PRD). -/
def predBits (a : Arch) : Nat := 2 * (a.preg / 2 % 128) + 1

/-- Legality of an SM field set (R135): `ld` loads, `ord` the acquire and release forms. -/
def smLegal (w : Nat) (ld ord : Bool) : Bool :=
  let k := scWidth w
  decide (k ≤ 5) && (!scX w || (ld && decide (k ≤ 2))) && (k != 4 || scRd w % 2 == 0) &&
  (!ord || (decide (2 ≤ k) && decide (k ≤ 4)))

/-- Legality of a scalar slot value (R126, R127, R131 to R138). -/
def scLegal (w : Nat) : Bool :=
  match scOp w with
  | 0 => bitsOf w 21 0 == 0
  | 1 => decide (scFn w ≤ 15) && (scFn w != 15 || bitsOf w 16 7 == 0)
  | 2 => true | 3 => true | 4 => true | 5 => true
  | 6 => bitsOf w 11 6 == 0 | 7 => bitsOf w 11 6 == 0 | 8 => bitsOf w 11 6 == 0
  | 9 => true | 10 => true
  | 11 => decide (scCond w ≤ 5) && bitsOf w 5 0 == 0
  | 12 => decide (scCond w ≤ 5)
  | 13 => bitsOf w 10 0 == 0
  | 14 => bitsOf w 10 0 == 0
  | 15 => bitsOf w 5 0 == 0
  | 16 => bitsOf w 5 0 == 0
  | 17 => scRd w == 0 && bitsOf w 11 0 == 0
  | 18 => smLegal w true false
  | 19 => smLegal w false false
  | 20 => smLegal w true false
  | 21 => smLegal w true true
  | 22 => smLegal w true false
  | 23 => smLegal w false false
  | 24 => smLegal w false true
  | 25 => bitsOf w 21 7 == 0 && decide (scFn w ≤ 3)
  | 26 => scRd w == 0 && scFn w == 0
  | 27 => scRd w == 0 && scFn w == 0
  | 28 => bitsOf w 16 0 == 0
  | 29 => bitsOf w 21 12 == 0 && bitsOf w 11 7 == 0
  | 30 => scRd w == 0 && bitsOf w 11 6 == 0
  | 31 => scRd w == 0 && bitsOf w 11 6 == 0 && scRs1 w % 2 == 0
  | 32 => scRs1 w == 0 && bitsOf w 11 8 == 0
  | 62 => bitsOf w 21 0 == 0
  | 63 => bitsOf w 21 0 == 0
  | _ => false

/-- NOP (R131). -/
def effNop (_p : Arch) (_w : Nat) (a : Arch) : Arch := a
/-- ALU (R132). -/
def effAlu (p : Arch) (w : Nat) (a : Arch) : Arch :=
  sput a (scRd w) (aluFn (scFn w) (sget p (scRs1 w)) (sget p (scRs2 w)) (predBits p))
/-- ADDI (R131). -/
def effAddi (p : Arch) (w : Nat) (a : Arch) : Arch := sput a (scRd w) (sget p (scRs1 w) + sext64 12 (scImm12 w))
/-- ANDI (R131). -/
def effAndi (p : Arch) (w : Nat) (a : Arch) : Arch := sput a (scRd w) (sget p (scRs1 w) &&& BitVec.ofNat 64 (scImm12 w))
/-- ORI (R131). -/
def effOri (p : Arch) (w : Nat) (a : Arch) : Arch := sput a (scRd w) (sget p (scRs1 w) ||| BitVec.ofNat 64 (scImm12 w))
/-- XORI (R131). -/
def effXori (p : Arch) (w : Nat) (a : Arch) : Arch := sput a (scRd w) (sget p (scRs1 w) ^^^ BitVec.ofNat 64 (scImm12 w))
/-- SHLI (R131). -/
def effShli (p : Arch) (w : Nat) (a : Arch) : Arch := sput a (scRd w) (sget p (scRs1 w) <<< (scImm12 w % 64))
/-- SHRI (R131). -/
def effShri (p : Arch) (w : Nat) (a : Arch) : Arch := sput a (scRd w) (sget p (scRs1 w) >>> (scImm12 w % 64))
/-- SARI (R131). -/
def effSari (p : Arch) (w : Nat) (a : Arch) : Arch := sput a (scRd w) ((sget p (scRs1 w)).sshiftRight (scImm12 w % 64))
/-- LI (R131). -/
def effLi (_p : Arch) (w : Nat) (a : Arch) : Arch := sput a (scRd w) (sext64 17 (scImm17 w))
/-- LIH (R131). -/
def effLih (p : Arch) (w : Nat) (a : Arch) : Arch :=
  sput a (scRd w) ((sget p (scRd w) <<< 17) ||| BitVec.ofNat 64 (scImm17 w))
/-- PCMP (R131, R133). -/
def effPcmp (p : Arch) (w : Nat) (a : Arch) : Arch :=
  pput a (scPd w) (condFn (scCond w) (sget p (scPrs1 w)) (sget p (scPrs2 w)))
/-- PCMPI (R131, R133). -/
def effPcmpi (p : Arch) (w : Nat) (a : Arch) : Arch :=
  pput a (scPd w) (condFn (scCond w) (sget p (scPrs1 w)) (sext64 11 (bitsOf w 10 0)))
/-- PLOG (R133). -/
def effPlog (p : Arch) (w : Nat) (a : Arch) : Arch :=
  let x := pget p (bitsOf w 18 16)
  let y := pget p (bitsOf w 15 13)
  pput a (scPd w) (match bitsOf w 12 11 with | 0 => x && y | 1 => x || y | 2 => x != y | _ => x && !y)
/-- BRDEC's decrement (R131). -/
def effBrdec (p : Arch) (w : Nat) (a : Arch) : Arch := sput a (bitsOf w 10 6) (sget p (bitsOf w 10 6) - 1)
/-- JAL's link (R131): the index of the next bundle. -/
def effJal (pc : Nat) (_p : Arch) (w : Nat) (a : Arch) : Arch := sput a (scRd w) (BitVec.ofNat 64 (pc + 1))
/-- NFLR (R131). -/
def effNflr (p : Arch) (w : Nat) (a : Arch) : Arch := sput a (scRd w) (BitVec.ofNat 64 p.nflags)
/-- NFLC (R131): NFLAGS and not imm12[6:0]. -/
def effNflc (_p : Arch) (w : Nat) (a : Arch) : Arch := { a with nflags := a.nflags - (a.nflags &&& bitsOf w 6 0) }
/-- SPK (R131, R145): KEY; the draw counts stay. -/
def effSpk (p : Arch) (w : Nat) (a : Arch) : Arch :=
  stipPut a (bitsOf w 5 0) { stipGet a (bitsOf w 5 0) with key := (sget p (scRs1 w)).toNat }
/-- SPC (R131, R145): CTR from the pair rs1+1 : rs1. -/
def effSpc (p : Arch) (w : Nat) (a : Arch) : Arch :=
  stipPut a (bitsOf w 5 0) { stipGet a (bitsOf w 5 0) with
    ctr := (sget p (scRs1 w)).toNat + 2 ^ 64 * (sget p (scRs1 w + 1)).toNat }
/-- SPR (R145). -/
def effSpr (p : Arch) (w : Nat) (a : Arch) : Arch :=
  let t := stipGet p (bitsOf w 5 0)
  sput a (scRd w) (BitVec.ofNat 64 (match bitsOf w 7 6 with
    | 0 => t.key | 1 => t.ctr % 2 ^ 64 | 2 => t.ctr / 2 ^ 64 | _ => t.run + 2 ^ 32 * t.last))

/-- A loaded value in a register of width `k` (R135): `l` holds the access's bytes. -/
def loadInto (a : Arch) (k rd : Nat) (sx : Bool) (l : List Byte) : Arch :=
  match k with
  | 4 => sput (sput a rd (BitVec.ofNat 64 (fieldAt l 0 8))) (rd + 1) (BitVec.ofNat 64 (fieldAt l 8 8))
  | 5 => vput a rd (vofBytes l)
  | _ => sput a rd (if sx then sext64 (8 * smSize k) (fieldAt l 0 (smSize k)) else BitVec.ofNat 64 (fieldAt l 0 (smSize k)))

/-- The bytes a store of width `k` writes (R135). -/
def storeBytes (p : Arch) (k rd : Nat) : List Byte :=
  match k with
  | 4 => leBytes 8 (sget p rd).toNat ++ leBytes 8 (sget p (rd + 1)).toNat
  | 5 => vbytes (vget p rd)
  | _ => leBytes (smSize k) (sget p rd).toNat

/-- A plate address with its low bits taken as zero below the access size (R136). -/
def plateAlign (x : W64) (n : Nat) : Nat := x.toNat / n * n

/-- LDP (R135, R136). -/
def effLdp (p : Arch) (w : Nat) (a : Arch) : Arch :=
  let n := smSize (scWidth w)
  loadInto a (scWidth w) (scRd w) (scX w) (plateGet p (plateAlign (smAddr p w) n) n)
/-- STP (R135, R136). -/
def effStp (p : Arch) (w : Nat) (a : Arch) : Arch :=
  platePut a (plateAlign (smAddr p w) (smSize (scWidth w))) (storeBytes p (scWidth w) (scRd w))

/-- The register effect of a scalar instruction other than SPK and SPC, which write after the vector slot's draws
(R129). Loads and stores to memory, barriers, waits, TRAP and END act on more than these registers. -/
def scEffect (pc : Nat) (p : Arch) (w : Nat) (a : Arch) : Arch :=
  match scOp w with
  | 1 => effAlu p w a | 2 => effAddi p w a | 3 => effAndi p w a | 4 => effOri p w a | 5 => effXori p w a
  | 6 => effShli p w a | 7 => effShri p w a | 8 => effSari p w a | 9 => effLi p w a | 10 => effLih p w a
  | 11 => effPcmp p w a | 12 => effPcmpi p w a | 13 => effPlog p w a | 15 => effBrdec p w a
  | 16 => effJal pc p w a | 18 => effLdp p w a | 19 => effStp p w a | 28 => effNflr p w a | 29 => effNflc p w a
  | 32 => effSpr p w a
  | _ => effNop p w a

/-- SPK and SPC, after the vector slot (R129). -/
def scLate (p : Arch) (w : Nat) (a : Arch) : Arch :=
  match scOp w with
  | 30 => effSpk p w a | 31 => effSpc p w a | _ => a

/-- Target of a taken branch (R131, R134). -/
def scTarget (p : Arch) (w : Nat) : Option Nat :=
  match scOp w with
  | 14 => some (bitsOf w 21 11)
  | 15 => if sget p (bitsOf w 10 6) - 1 = 0 then none else some (bitsOf w 21 11)
  | 16 => some (bitsOf w 16 6)
  | 17 => some (sget p (scRs1 w)).toNat
  | _ => none

/-- Whether a scalar opcode accesses memory beyond the plate by an SM form (R137). -/
def scIsMem (w : Nat) : Bool := decide (20 ≤ scOp w) && decide (scOp w ≤ 24)

/-- Whether a scalar opcode is a load beyond the plate. -/
def scIsLoad (w : Nat) : Bool := decide (20 ≤ scOp w) && decide (scOp w ≤ 22)

/-- Whether a scalar opcode is a store beyond the plate. -/
def scIsStore (w : Nat) : Bool := scOp w == 23 || scOp w == 24

/-- Scalar registers a scalar instruction writes (R129, R79). -/
def scWrites (w : Nat) : List Nat :=
  let op := scOp w
  if (1 ≤ op ∧ op ≤ 10) ∨ op = 16 ∨ op = 28 ∨ op = 32 then [scRd w]
  else if op = 15 then [bitsOf w 10 6]
  else if op = 18 ∨ (20 ≤ op ∧ op ≤ 22) then
    (if scWidth w = 5 then [] else if scWidth w = 4 then [scRd w, scRd w + 1] else [scRd w])
  else []

/-- Vector register a scalar-slot load writes (R129). -/
def scVWrites (w : Nat) : List Nat :=
  if (scOp w = 18 ∨ (20 ≤ scOp w ∧ scOp w ≤ 22)) ∧ scWidth w = 5 then [scRd w] else []

/-- Scalar registers a scalar instruction reads. -/
def scReads (w : Nat) : List Nat :=
  let op := scOp w
  if op = 1 ∨ op = 26 ∨ op = 27 then [scRs1 w, scRs2 w]
  else if (2 ≤ op ∧ op ≤ 8) ∨ op = 17 ∨ op = 30 then [scRs1 w]
  else if op = 31 then [scRs1 w, scRs1 w + 1]
  else if op = 10 then [scRd w]
  else if op = 11 then [scPrs1 w, scPrs2 w]
  else if op = 12 then [scPrs1 w]
  else if op = 15 then [bitsOf w 10 6]
  else if 18 ≤ op ∧ op ≤ 24 then
    scRs1 w :: (if op = 19 ∨ op = 23 ∨ op = 24 then
      (if scWidth w = 5 then [] else if scWidth w = 4 then [scRd w, scRd w + 1] else [scRd w]) else [])
  else []

/-- Vector register a scalar-slot store reads. -/
def scVReads (w : Nat) : List Nat :=
  if (scOp w = 19 ∨ scOp w = 23 ∨ scOp w = 24) ∧ scWidth w = 5 then [scRd w] else []

/-- Plate bytes a scalar instruction reads (R136, R139): (address, length), length zero for none. -/
def scPlateRead (p : Arch) (w : Nat) : Nat × Nat :=
  if scOp w = 18 then (plateAlign (smAddr p w) (smSize (scWidth w)), smSize (scWidth w))
  else if scOp w = 26 then (plateAlign (sget p (scRs1 w)) 8, 8)
  else (0, 0)

/-- Plate bytes a scalar instruction writes. -/
def scPlateWrite (p : Arch) (w : Nat) : Nat × Nat :=
  if scOp w = 19 then (plateAlign (smAddr p w) (smSize (scWidth w)), smSize (scWidth w)) else (0, 0)

end Sys2Proof.Machine
end

