-- ==== Sys2Proof/Machine/Vector.lean ====
section
/-! DEFINITION. The vector slot (R146 to R160): fields, legality and effects. Operands are read from `p`, the state before the bundle (R125). -/

namespace Sys2Proof.Machine

/-- Opcode of a 48-bit slot value (R146, R161). -/
def vOp (w : Nat) : Nat := bitsOf w 47 42
/-- Guard field of a 48-bit slot value. -/
def vG (w : Nat) : Nat := bitsOf w 41 38
/-- vd (R146). -/
def vVd (w : Nat) : Nat := bitsOf w 37 33
/-- va. -/
def vVa (w : Nat) : Nat := bitsOf w 32 28
/-- vb. -/
def vVb (w : Nat) : Nat := bitsOf w 27 23
/-- vc. -/
def vVc (w : Nat) : Nat := bitsOf w 22 18
/-- Format field of ARITH, COUT and CIN (R149). -/
def vFmt (w : Nat) : Nat := bitsOf w 17 14
/-- k of COUT and CIN. -/
def vK (w : Nat) : Nat := bitsOf w 13 11
/-- rm of COUT and ROUND. -/
def vRm (w : Nat) : Nat := bitsOf w 10 9
/-- stream of COUT and ROUND. -/
def vStream (w : Nat) : Nat := bitsOf w 7 2
/-- cond of ARITH and INT, fn of RED. -/
def vCond (w : Nat) : Nat := bitsOf w 12 10

/-- Number of legal segments of an element width (R147). -/
def segCount (wd : Nat) : Nat :=
  match wd with
  | 4 => 8 | 6 => 5 | 8 => 4 | 16 => 2 | _ => 1

/-- ARITH fields are legal (R149): `un` unary, `tern` uses vc, `cnd` uses cond. -/
def arithLegal (w : Nat) (un tern cnd : Bool) : Bool :=
  let f := vFmt w
  (f == 15 || f == 0 || f == 1) && (f != 15 || !bitOf w 13) && bitsOf w 9 0 == 0 &&
  (if cnd then decide (vCond w ≤ 6) else vCond w == 0) && (!un || vVb w == 0) && (tern || vVc w == 0)

/-- Rounding fields are legal (R149, R50). -/
def roundLegal (rm st : Nat) : Bool := rm != 3 && (rm == 2 || st == 0)

/-- Legality of a vector slot value (R126, R127, R149 to R159). -/
def vLegal (w : Nat) : Bool :=
  match vOp w with
  | 0 => bitsOf w 37 0 == 0
  | 1 => arithLegal w false false false | 2 => arithLegal w false false false | 3 => arithLegal w false false false
  | 4 => arithLegal w false true false
  | 5 => arithLegal w false false false | 6 => arithLegal w false false false
  | 7 => arithLegal w true false false | 8 => arithLegal w true false false
  | 9 => arithLegal w false false true
  | 10 => vFmt w == 15 && bitsOf w 13 0 == 0
  | 11 => arithLegal w true false false | 12 => arithLegal w true false false | 13 => arithLegal w true false false
  | 14 => arithLegal w true false false | 15 => arithLegal w true false false
  | 16 => vFmt w != 15 && decide (vK w < segCount (fmtWidth (vFmt w))) && roundLegal (vRm w) (vStream w) &&
          bitsOf w 1 0 == 0 && vVb w == 0 && (fmtScaled (vFmt w) || vVc w == 0)
  | 17 => vFmt w != 15 && decide (vK w < segCount (fmtWidth (vFmt w))) && bitsOf w 10 0 == 0 && vVc w == 0 &&
          (fmtScaled (vFmt w) || vVb w == 0)
  | 18 => bitsOf w 27 11 == 0 && !bitOf w 8 && bitsOf w 1 0 == 0 && roundLegal (vRm w) (vStream w)
  | 19 => bitsOf w 27 0 == 0
  | 20 => bitsOf w 22 0 == 0 | 21 => bitsOf w 22 0 == 0 | 22 => bitsOf w 22 0 == 0 | 23 => bitsOf w 22 0 == 0
  | 24 => bitsOf w 22 0 == 0 | 25 => bitsOf w 22 0 == 0 | 26 => bitsOf w 22 0 == 0 | 27 => bitsOf w 22 0 == 0
  | 28 => bitsOf w 22 0 == 0
  | 29 => bitsOf w 22 13 == 0 && bitsOf w 9 0 == 0 && decide (vCond w ≤ 5)
  | 30 => bitsOf w 22 0 == 0
  | 31 => bitsOf w 27 13 == 0 && bitsOf w 9 0 == 0 && decide (vCond w ≤ 5)
  | 32 => bitsOf w 27 0 == 0
  | 33 => bitsOf w 27 18 == 0 && bitsOf w 11 0 == 0
  | 34 => vVb w == 0 && bitsOf w 17 0 == 0
  | 35 => bitsOf w 16 0 == 0 && (bitOf w 17 || vVd w == 0)
  | 36 => bitsOf w 22 18 == 0 && bitsOf w 15 0 == 0
  | 37 => bitsOf w 22 18 == 0 && bitsOf w 7 0 == 0 && roundLegal (bitsOf w 15 14) (bitsOf w 13 8)
  | 38 => bitsOf w 22 0 == 0
  | 39 => bitsOf w 32 18 == 0 && bitsOf w 7 0 == 0
  | _ => false

/-- Lane `i` of an ARITH source, widened from 16-bit formats (R148). -/
def arithLane (v : VReg) (f : Nat) (h : Bool) (i : Nat) : W32 :=
  if f = 15 then lane v i
  else
    let j := i + (if h then 64 else 0)
    let x := bitsOf (lane v (j / 2)).toNat (16 * (j % 2) + 15) (16 * (j % 2))
    widen (if f = 0 then fmtBF16 else fmtFP16) x

/-- An ARITH source register as 64 FP32 lanes (R148). -/
def arithSrc (p : Arch) (w r : Nat) : Nat → W32 := arithLane (vget p r) (vFmt w) (bitOf w 13)

/-- Writes 64 (lane, flags) results to vd and sets the flags (R77). -/
def vFlagged (a : Arch) (vd : Nat) (g : Nat → W32 × Nat) : Arch :=
  let l := (List.range 64).map g
  nfSet (vput a vd (l.map (·.1))) (l.foldl (fun f p => flOr f p.2) 0)

/-- A two-operand FP lane instruction. -/
def vArith2 (f : W32 → W32 → W32 × Nat) (p : Arch) (w : Nat) (a : Arch) : Arch :=
  vFlagged a (vVd w) (fun i => f (arithSrc p w (vVa w) i) (arithSrc p w (vVb w) i))

/-- A one-operand FP lane instruction. -/
def vArith1 (f : W32 → W32 × Nat) (p : Arch) (w : Nat) (a : Arch) : Arch :=
  vFlagged a (vVd w) (fun i => f (arithSrc p w (vVa w) i))

/-- A two-operand integer lane instruction (R150). -/
def vInt2 (f : W32 → W32 → W32) (p : Arch) (w : Nat) (a : Arch) : Arch :=
  vput a (vVd w) (vbuild (fun i => f (lane (vget p (vVa w)) i) (lane (vget p (vVb w)) i)))

/-- All ones or zero. -/
def maskOf (b : Bool) : W32 := if b then 0xFFFFFFFF#32 else 0

/-- FADD (R150). -/
def effFadd (p : Arch) (w : Nat) (a : Arch) : Arch := vArith2 add32 p w a
/-- FSUB (R150). -/
def effFsub (p : Arch) (w : Nat) (a : Arch) : Arch := vArith2 sub32 p w a
/-- FMUL (R150). -/
def effFmul (p : Arch) (w : Nat) (a : Arch) : Arch := vArith2 mul32 p w a
/-- FFMA (R150): one rounding. -/
def effFfma (p : Arch) (w : Nat) (a : Arch) : Arch :=
  vFlagged a (vVd w) (fun i => fma32 (arithSrc p w (vVa w) i) (arithSrc p w (vVb w) i) (arithSrc p w (vVc w) i))
/-- FMIN (R65). -/
def effFmin (p : Arch) (w : Nat) (a : Arch) : Arch := vArith2 (fun x y => (min32 x y, 0)) p w a
/-- FMAX (R65). -/
def effFmax (p : Arch) (w : Nat) (a : Arch) : Arch := vArith2 (fun x y => (max32 x y, 0)) p w a
/-- FABS (R150). -/
def effFabs (p : Arch) (w : Nat) (a : Arch) : Arch := vArith1 (fun x => (abs32 x, 0)) p w a
/-- FNEG (R150). -/
def effFneg (p : Arch) (w : Nat) (a : Arch) : Arch := vArith1 (fun x => (neg32 x, 0)) p w a
/-- FCMP (R151): sets no flag. -/
def effFcmp (p : Arch) (w : Nat) (a : Arch) : Arch :=
  vArith2 (fun x y => (maskOf (fcmp32 (vCond w) x y), 0)) p w a
/-- SEL (R150). -/
def effSel (p : Arch) (w : Nat) (a : Arch) : Arch :=
  vput a (vVd w) (vbuild (fun i =>
    if bitOf (lane (vget p (vVc w)) i).toNat 31 then lane (vget p (vVa w)) i else lane (vget p (vVb w)) i))
/-- EXP2 (R66). -/
def effExp2 (p : Arch) (w : Nat) (a : Arch) : Arch := vArith1 exp2F p w a
/-- LOG2 (R66). -/
def effLog2 (p : Arch) (w : Nat) (a : Arch) : Arch := vArith1 log2F p w a
/-- RCP (R66). -/
def effRcp (p : Arch) (w : Nat) (a : Arch) : Arch := vArith1 rcpF p w a
/-- RSQRT (R66). -/
def effRsqrt (p : Arch) (w : Nat) (a : Arch) : Arch := vArith1 rsqrtF p w a
/-- TANH (R66). -/
def effTanh (p : Arch) (w : Nat) (a : Arch) : Arch := vArith1 tanhF p w a

/-- A register with the bytes from `o` on replaced (R147). -/
def vregBytesPut (v : VReg) (o : Nat) (l : List Byte) : VReg := vofBytes (listPut (vbytes v) o l)

/-- Segment `k` of a conversion placed in its element and scale registers (R147, R153). -/
def segPut (a : Arch) (c k vd vs : Nat) (es ss : List Nat) : Arch :=
  let wd := fmtWidth c
  let a := vput a vd (vregBytesPut (vget a vd) (8 * wd * k) (packElems wd es))
  if fmtScaled c then vput a vs (vregBytesPut (vget a vs) (2 * fmtScaleBytes c * k) (packScales c ss)) else a

/-- CVT.OUT (R153): BLOCK scales, the 64 lanes of va into segment k of vd and vc; under SR eight draws. `c0` is the
counter of the instruction's first draw. -/
def effCvtOut (c0 : Nat) (p : Arch) (w : Nat) (a : Arch) : Arch :=
  let st := vStream w
  let key := (stipGet p st).key
  let r := convRow (vFmt w) (vRm w) (bitOf w 8) none (fun j => if vRm w = 2 then drawBits key c0 j else 0) (vget p (vVa w))
  let a := nfSet (segPut a (vFmt w) (vK w) (vVd w) (vVc w) r.2.1 r.1) r.2.2
  if vRm w = 2 then stipAdv a st 8 else a
/-- CVT.IN (R154). -/
def effCvtIn (p : Arch) (w : Nat) (a : Arch) : Arch :=
  let c := vFmt w
  let eb := (vbytes (vget p (vVa w))).drop (8 * fmtWidth c * vK w)
  let sb := (vbytes (vget p (vVb w))).drop (2 * fmtScaleBytes c * vK w)
  let r := convIn c (byteAt eb) (byteAt sb)
  nfSet (vput a (vVd w) r.1) r.2
/-- FTOI (R155). -/
def effFtoi (c0 : Nat) (p : Arch) (w : Nat) (a : Arch) : Arch :=
  let st := vStream w
  let key := (stipGet p st).key
  let a := vFlagged a (vVd w) (fun i =>
    ftoi32 (vRm w) (if vRm w = 2 then drawBits key c0 i else 0) (lane (vget p (vVa w)) i))
  if vRm w = 2 then stipAdv a st 8 else a
/-- ITOF (R150). -/
def effItof (p : Arch) (w : Nat) (a : Arch) : Arch :=
  vput a (vVd w) (vbuild (fun i => ofInt32 (lane (vget p (vVa w)) i).toInt))
/-- IADD (R150). -/
def effIadd (p : Arch) (w : Nat) (a : Arch) : Arch := vInt2 (fun x y => x + y) p w a
/-- ISUB (R150). -/
def effIsub (p : Arch) (w : Nat) (a : Arch) : Arch := vInt2 (fun x y => x - y) p w a
/-- IMUL (R150). -/
def effImul (p : Arch) (w : Nat) (a : Arch) : Arch := vInt2 (fun x y => x * y) p w a
/-- IAND (R150). -/
def effIand (p : Arch) (w : Nat) (a : Arch) : Arch := vInt2 (fun x y => x &&& y) p w a
/-- IOR (R150). -/
def effIor (p : Arch) (w : Nat) (a : Arch) : Arch := vInt2 (fun x y => x ||| y) p w a
/-- IXOR (R150). -/
def effIxor (p : Arch) (w : Nat) (a : Arch) : Arch := vInt2 (fun x y => x ^^^ y) p w a
/-- ISHL (R150): by vb[4:0]. -/
def effIshl (p : Arch) (w : Nat) (a : Arch) : Arch := vInt2 (fun x y => x <<< (y.toNat % 32)) p w a
/-- ISHR (R150). -/
def effIshr (p : Arch) (w : Nat) (a : Arch) : Arch := vInt2 (fun x y => x >>> (y.toNat % 32)) p w a
/-- ISAR (R150). -/
def effIsar (p : Arch) (w : Nat) (a : Arch) : Arch := vInt2 (fun x y => x.sshiftRight (y.toNat % 32)) p w a
/-- ICMP (R150). -/
def effIcmp (p : Arch) (w : Nat) (a : Arch) : Arch := vInt2 (fun x y => maskOf (condFn (vCond w) x y)) p w a
/-- PERM (R150). -/
def effPerm (p : Arch) (w : Nat) (a : Arch) : Arch :=
  vput a (vVd w) (vbuild (fun i => lane (vget p (vVa w)) ((lane (vget p (vVb w)) i).toNat % 64)))

/-- One level of the fixed tree (R152). -/
def redPairs (f : W32 → W32 → W32 × Nat) : List W32 → List W32 × Nat
  | a :: b :: r => let m := f a b; let t := redPairs f r; (m.1 :: t.1, flOr m.2 t.2)
  | l => (l, 0)

/-- A reduction of 64 lanes in the fixed tree (R100, R152). -/
def redTree (f : W32 → W32 → W32 × Nat) (v : VReg) : W32 × Nat :=
  let q := (List.range 6).foldl (fun (q : List W32 × Nat) _ => let m := redPairs f q.1; (m.1, flOr q.2 m.2)) (v, 0)
  (q.1.headD 0, q.2)

/-- The reductions of VRED (R152). -/
def redFn (fn : Nat) : W32 → W32 → W32 × Nat :=
  match fn with
  | 0 => add32
  | 1 => fun x y => (max32 x y, 0)
  | 2 => fun x y => (min32 x y, 0)
  | 3 => fun x y => (x + y, 0)
  | 4 => fun x y => (if x.toInt ≤ y.toInt then y else x, 0)
  | _ => fun x y => (if x.toInt ≤ y.toInt then x else y, 0)

/-- VRED (R152). -/
def effVred (p : Arch) (w : Nat) (a : Arch) : Arch :=
  let r := redTree (redFn (vCond w)) (vbuild (fun i => lane (vget p (vVa w)) i))
  nfSet (vput a (vVd w) (List.replicate 64 r.1)) r.2
/-- BCST (R150). -/
def effBcst (p : Arch) (w : Nat) (a : Arch) : Arch :=
  vput a (vVd w) (List.replicate 64 (BitVec.ofNat 32 (sget p (vVa w)).toNat))
/-- VEXT (R150). -/
def effVext (p : Arch) (w : Nat) (a : Arch) : Arch :=
  sput a (vVd w) (BitVec.ofNat 64 (lane (vget p (vVa w)) (bitsOf w 17 12)).toNat)

/-- Address of a gather or scatter lane (R156): base + 4 × index as a 64-bit sum, low two bits zero. -/
def gathAddr (base : W64) (ix : W32) : Nat := ((base.toNat + 4 * ix.toNat) % 2 ^ 64) / 4 * 4

/-- Lanes of SCAT that write (R156). -/
def scatOn (p : Arch) (w i : Nat) : Bool := !bitOf w 17 || bitOf (lane (vget p (vVd w)) i).toNat 31

/-- GATH (R156): registers as before the bundle (R125), the plate after the scalar access, which is served first (R129). -/
def effGath (p : Arch) (w : Nat) (a : Arch) : Arch :=
  vput a (vVd w) (vbuild (fun i =>
    BitVec.ofNat 32 (leNat (plateGet a (gathAddr (sget p (vVc w)) (lane (vget p (vVa w)) i)) 4))))
/-- SCAT (R156): ascending lanes, so the highest-numbered lane's data stands. -/
def effScat (p : Arch) (w : Nat) (a : Arch) : Arch :=
  (List.range 64).foldl (fun a i =>
    if scatOn p w i then
      platePut a (gathAddr (sget p (vVc w)) (lane (vget p (vVb w)) i)) (leBytes 4 (lane (vget p (vVa w)) i).toNat)
    else a) a

/-- TWIN (R158). -/
def effTwin (p : Arch) (w : Nat) (a : Arch) : Arch :=
  let an := twAnchor (sget p (vVb w)).toNat
  let l := (List.range 16).map (fun j => twIn an (lane (vget p (vVa w)) (16 * bitsOf w 17 16 + j)))
  nfSet (vput a (vVd w) (vofWords (l.map (·.1)))) (flagsOf l)
/-- TWOUT (R158). -/
def effTwout (c0 : Nat) (p : Arch) (w : Nat) (a : Arch) : Arch :=
  let an := twAnchor (sget p (vVb w)).toNat
  let rm := bitsOf w 15 14
  let st := bitsOf w 13 8
  let key := (stipGet p st).key
  let q := 16 * bitsOf w 17 16
  let l := (List.range 16).map (fun j =>
    twOut an rm (if rm = 2 then drawBits key c0 j else 0) (vword (vget p (vVa w)) j))
  let old := vget a (vVd w)
  let a := nfSet (vput a (vVd w) (vbuild (fun i =>
    if q ≤ i ∧ i < q + 16 then (l.getD (i - q) (0, 0)).1 else lane old i))) (l.foldl (fun f x => flOr f x.2) 0)
  if rm = 2 then stipAdv a st 2 else a
/-- TWADD (R158). -/
def effTwadd (p : Arch) (w : Nat) (a : Arch) : Arch :=
  let l := (List.range 16).map (fun j => twAdd (vword (vget p (vVa w)) j) (vword (vget p (vVb w)) j))
  nfSet (vput a (vVd w) (vofWords (l.map (·.1)))) (flagsOf l)
/-- SPD (R159). -/
def effSpd (c0 : Nat) (p : Arch) (w : Nat) (a : Arch) : Arch :=
  let st := bitsOf w 13 8
  let n := if bitsOf w 17 14 = 0 then 16 else bitsOf w 17 14
  let key := (stipGet p st).key
  stipAdv (vput a (vVd w) (vofWords ((List.range n).map (fun d => philox key ((c0 + d) % 2 ^ 128))))) st n

/-- Draws a vector instruction takes (R54, R159) and the stream they come from. -/
def vDraws (w : Nat) : Option (Nat × Nat) :=
  match vOp w with
  | 16 => if vRm w = 2 then some (vStream w, 8) else none
  | 18 => if vRm w = 2 then some (vStream w, 8) else none
  | 37 => if bitsOf w 15 14 = 2 then some (bitsOf w 13 8, 2) else none
  | 39 => some (bitsOf w 13 8, if bitsOf w 17 14 = 0 then 16 else bitsOf w 17 14)
  | _ => none

/-- The effect of a vector instruction; `c0` is the counter of its first draw. -/
def vEffect (c0 : Nat) (p : Arch) (w : Nat) (a : Arch) : Arch :=
  match vOp w with
  | 1 => effFadd p w a | 2 => effFsub p w a | 3 => effFmul p w a | 4 => effFfma p w a | 5 => effFmin p w a
  | 6 => effFmax p w a | 7 => effFabs p w a | 8 => effFneg p w a | 9 => effFcmp p w a | 10 => effSel p w a
  | 11 => effExp2 p w a | 12 => effLog2 p w a | 13 => effRcp p w a | 14 => effRsqrt p w a | 15 => effTanh p w a
  | 16 => effCvtOut c0 p w a | 17 => effCvtIn p w a | 18 => effFtoi c0 p w a | 19 => effItof p w a
  | 20 => effIadd p w a | 21 => effIsub p w a | 22 => effImul p w a | 23 => effIand p w a | 24 => effIor p w a
  | 25 => effIxor p w a | 26 => effIshl p w a | 27 => effIshr p w a | 28 => effIsar p w a | 29 => effIcmp p w a
  | 30 => effPerm p w a | 31 => effVred p w a | 32 => effBcst p w a | 33 => effVext p w a | 34 => effGath p w a
  | 35 => effScat p w a | 36 => effTwin p w a | 37 => effTwout c0 p w a | 38 => effTwadd p w a | 39 => effSpd c0 p w a
  | _ => a

/-- Whether every plate address of a vector instruction is in range (R156). -/
def vPlateOk (p : Arch) (w : Nat) : Bool :=
  match vOp w with
  | 34 => (List.range 64).all (fun i => plateOk (gathAddr (sget p (vVc w)) (lane (vget p (vVa w)) i)) 4)
  | 35 => (List.range 64).all (fun i =>
      !scatOn p w i || plateOk (gathAddr (sget p (vVc w)) (lane (vget p (vVb w)) i)) 4)
  | _ => true

/-- Vector registers a vector instruction writes. -/
def vWrites (w : Nat) : List Nat :=
  let op := vOp w
  if op = 0 ∨ op = 33 ∨ op = 35 then []
  else if op = 16 ∧ fmtScaled (vFmt w) then [vVd w, vVc w] else [vVd w]

/-- Scalar registers a vector instruction writes: VEXT's (R129). -/
def vSWrites (w : Nat) : List Nat := if vOp w = 33 then [vVd w] else []

/-- Vector registers a vector instruction reads (R149 to R159): a field its form does not use names none. -/
def vReads (w : Nat) : List Nat :=
  match vOp w with
  | 1 => [vVa w, vVb w] | 2 => [vVa w, vVb w] | 3 => [vVa w, vVb w] | 5 => [vVa w, vVb w] | 6 => [vVa w, vVb w]
  | 9 => [vVa w, vVb w] | 4 => [vVa w, vVb w, vVc w] | 10 => [vVa w, vVb w, vVc w]
  | 16 => [vVa w, vVd w] ++ (if fmtScaled (vFmt w) then [vVc w] else [])
  | 17 => [vVa w] ++ (if fmtScaled (vFmt w) then [vVb w] else [])
  | 20 => [vVa w, vVb w] | 21 => [vVa w, vVb w] | 22 => [vVa w, vVb w] | 23 => [vVa w, vVb w] | 24 => [vVa w, vVb w]
  | 25 => [vVa w, vVb w] | 26 => [vVa w, vVb w] | 27 => [vVa w, vVb w] | 28 => [vVa w, vVb w] | 29 => [vVa w, vVb w]
  | 30 => [vVa w, vVb w] | 38 => [vVa w, vVb w]
  | 35 => [vVa w, vVb w] ++ (if bitOf w 17 then [vVd w] else [])
  | 37 => [vVa w, vVd w]
  | 0 => [] | 32 => [] | 39 => []
  | _ => [vVa w]

/-- Scalar registers a vector instruction reads. -/
def vSReads (w : Nat) : List Nat :=
  match vOp w with
  | 32 => [vVa w] | 34 => [vVc w] | 35 => [vVc w] | 36 => [vVb w] | 37 => [vVb w] | _ => []

end Sys2Proof.Machine
end

