-- ==== Sys2Proof/Machine/Tensor.lean ====
section
/-! DEFINITION. The tensor slot (R161 to R173): fields, legality, operand checks at start (R162), the state each instruction reads and writes, and the effect it has when it completes. Chain and mover instructions act on more than the core and stand in Chains and Streams. -/

namespace Sys2Proof.Machine

/-- Units of the tensor queue (R83): 0 array, 1 weight load, 2 drain, 3 tally, 4 chain, 5 mover, 6 scale recorder. -/
def tUnit (w : Nat) : Nat :=
  match vOp w with
  | 1 => 1 | 2 => 1 | 3 => 1 | 4 => 0 | 5 => 0 | 6 => 0 | 7 => 2 | 8 => 3 | 9 => 3 | 10 => 3 | 11 => 3
  | 12 => 4 | 13 => 4 | 14 => 4 | 15 => 5 | _ => 6

/-- Format field of WLD, WLD.F and MMA. -/
def tFmt (w : Nat) : Nat := bitsOf w 34 31
/-- Format of a tensor instruction, by opcode (R161). -/
def tFmtOf (w : Nat) : Nat :=
  match vOp w with
  | 3 => bitsOf w 21 18 | 5 => bitsOf w 31 28 | 7 => bitsOf w 26 23 | _ => tFmt w

/-- A count field whose zero code means `full` (R161). -/
def countOf (x full : Nat) : Nat := if x = 0 then full else x

/-- Elements of the fold stage (R95). -/
def stageDepth (c : Nat) : Nat :=
  match fmtWidth c with
  | 4 => 8192 | 6 => 5440 | 8 => 4096 | _ => 2048

/-- Rows a DRN or ACZ names: first row and count. -/
def tRows (w : Nat) : Nat × Nat := (bitsOf w 35 32, countOf (bitsOf w 31 28) 16)

/-- Field combinations that the field values alone decide: stage blocks of WLD.FV (R164), rows of ACZ and DRN (R167, R168)
and the segments of a DRN to a register. They are combinations the chapter forbids, so they fail at decode (R127).
DEDUCED. -/
def tFieldsOk (w : Nat) : Bool :=
  match vOp w with
  | 3 => decide ((256 / (4 * fmtWidth (tFmtOf w))) * (bitsOf w 35 32 + 1) ≤ stageDepth (tFmtOf w) / 32)
  | 6 => decide ((tRows w).1 + (tRows w).2 ≤ 16)
  | 7 => decide ((tRows w).1 + (tRows w).2 ≤ 16) && (!bitOf w 27 || decide ((tRows w).2 ≤ segCount (fmtWidth (tFmtOf w))))
  | _ => true

/-- Legality of a tensor slot value (R126, R127, R161). -/
def tLegal (w : Nat) : Bool :=
  tFieldsOk w &&
  match vOp w with
  | 0 => bitsOf w 37 0 == 0
  | 1 => bitsOf w 37 36 == 0 && bitsOf w 15 0 == 0 && tFmt w != 15 && (fmtScaled (tFmt w) || bitsOf w 25 21 == 0)
  | 2 => bitsOf w 37 35 == 0 && bitsOf w 15 0 == 0 && tFmt w != 15 && (fmtScaled (tFmt w) || bitsOf w 25 21 == 0)
  | 3 => bitsOf w 37 36 == 0 && bitsOf w 17 0 == 0 && bitsOf w 21 18 != 15 &&
         (fmtScaled (bitsOf w 21 18) || bitsOf w 26 22 == 0)
  | 4 => bitsOf w 15 0 == 0 && tFmt w != 15 && (fmtScaled (tFmt w) || bitsOf w 25 21 == 0)
  | 5 => bitsOf w 12 0 == 0 && bitsOf w 31 28 != 15 && (fmtScaled (bitsOf w 31 28) || bitsOf w 22 18 == 0)
  | 6 => bitsOf w 27 0 == 0
  | 7 => bitsOf w 5 0 == 0 && bitsOf w 22 21 != 3 && (fmtScaled (bitsOf w 26 23) || bitsOf w 15 11 == 0)
  | 8 => bitsOf w 33 0 == 0
  | 9 => bitsOf w 28 0 == 0
  | 10 => bitsOf w 24 0 == 0 && (if bitOf w 28 then decide (bitsOf w 27 25 ≤ 5) else bitsOf w 27 25 == 0)
  | 11 => bitsOf w 28 0 == 0
  | 12 => bitsOf w 20 0 == 0
  | 13 => bitsOf w 25 21 == 0 && bitsOf w 15 0 == 0
  | 14 => bitsOf w 14 0 == 0 && (bitOf w 15 || bitsOf w 20 16 == 0)
  | 15 => bitsOf w 29 0 == 0 && (!bitOf w 35 || bitsOf w 37 36 == 0)
  | 16 => bitsOf w 29 0 == 0
  | 17 => bitsOf w 24 0 == 0
  | 18 => bitsOf w 29 0 == 0
  | _ => false

/-- Scalar registers a tensor instruction reads at issue (R128), in operand order. -/
def tSReads (w : Nat) : List Nat :=
  match vOp w with
  | 1 => [bitsOf w 30 26, bitsOf w 25 21, bitsOf w 20 16]
  | 2 => [bitsOf w 30 26, bitsOf w 25 21, bitsOf w 20 16]
  | 4 => [bitsOf w 30 26, bitsOf w 25 21, bitsOf w 20 16]
  | 5 => [bitsOf w 27 23, bitsOf w 22 18, bitsOf w 17 13]
  | 7 => if bitOf w 27 then [0, 0, bitsOf w 10 6] else [bitsOf w 20 16, bitsOf w 15 11, bitsOf w 10 6]
  | 12 => [bitsOf w 25 21]
  | 13 => [0, bitsOf w 20 16]
  | 14 => [bitsOf w 25 21, bitsOf w 20 16]
  | 15 => [bitsOf w 34 30]
  | _ => []

/-- Vector registers a tensor instruction reads at issue (R128). -/
def tVReads (w : Nat) : List Nat :=
  match vOp w with
  | 3 => [bitsOf w 31 27, bitsOf w 26 22] | 9 => [bitsOf w 33 29] | 11 => [bitsOf w 33 29] | _ => []

/-- Vector registers a tensor instruction writes when it completes (R128). -/
def tVWrites (w : Nat) : List Nat :=
  match vOp w with
  | 7 => if bitOf w 27 then (if fmtScaled (tFmtOf w) then [bitsOf w 20 16, bitsOf w 15 11] else [bitsOf w 20 16]) else []
  | 10 => [bitsOf w 33 29]
  | 17 => [bitsOf w 29 25]
  | _ => []

/-- A new queue entry carrying its operands (R128). -/
def tEntry (p : Arch) (id w bundle : Nat) (rsv : Option (Nat × Nat)) : TEntry :=
  { id := id, w := w, bundle := bundle, ops := (tSReads w).map (fun r => (sget p r).toNat),
    va := vget p ((tVReads w).getD 0 0), vb := vget p ((tVReads w).getD 1 0), started := false, prog := 0, rsv := rsv }

/-- Captured operand `i`. -/
def tOp (e : TEntry) (i : Nat) : Nat := e.ops.getD i 0

/-- Elements of depth of a weight buffer (R93). -/
def wbufDepth (c : Nat) : Nat :=
  match fmtWidth c with
  | 4 => 512 | 6 => 320 | 8 => 256 | _ => 128

/-- Bytes of `n` blocks (R46). -/
def blkBytes (c n : Nat) : Nat := 4 * fmtWidth c * n

/-- Bank field. -/
def tBank (w : Nat) : Nat := bitsOf w 37 36

/-- Bytes of one drained row (R168). -/
def rowBytes (c : Nat) : Nat := 8 * fmtWidth c

/-- Plate ranges a tensor instruction reads: (address, length). With sK zero an array instruction names its addresses and
reads no byte there: they are checked all the same (R136, R162). DEDUCED (log 49). -/
def tPlateReads (e : TEntry) : List (Nat × Nat) :=
  let w := e.w
  let c := tFmtOf w
  let kb := tOp e 2 / 32
  let pl := fun n => [(tOp e 0, blkBytes c n)] ++ (if fmtScaled c then [(tOp e 1, fmtScaleBytes c * n)] else [])
  match vOp w with
  | 1 => pl (64 * kb)
  | 2 => pl kb
  | 4 => pl (16 * kb)
  | 5 => pl (64 * kb)
  | 12 => [(tOp e 0, 16 * countOf (bitsOf w 33 26) 256)]
  | 14 => [(tOp e 0, 16 * countOf (bitsOf w 33 26) 256)]
  | 15 => [(tOp e 0 / 128 * 128, 128)]
  | _ => []

/-- Plate ranges a tensor instruction writes. -/
def tPlateWrites (e : TEntry) : List (Nat × Nat) :=
  let w := e.w
  match vOp w with
  | 7 => if bitOf w 27 then [] else
      let n := (tRows w).2
      [(tOp e 0, rowBytes (tFmtOf w) * n)] ++
        (if fmtScaled (tFmtOf w) then [(tOp e 1, 2 * fmtScaleBytes (tFmtOf w) * n)] else [])
  | 13 => [(tOp e 1, 16 * countOf (bitsOf w 33 26) 256)]
  | 14 => if bitOf w 15 then [(tOp e 1, 16 * countOf (bitsOf w 33 26) 256)] else []
  | _ => []

/-- Rows an instruction's resource numbers name. -/
def rowRes (bank row n : Nat) : List Nat := (List.range n).map (fun i => 16 * bank + row + i)

/-- Resources a tensor instruction reads: accumulator rows 0–63, weight buffers 100, 101, the stage 110, tally slots
120–135, tags 200–455, streams 500–563. -/
def tResReads (e : TEntry) : List Nat :=
  let w := e.w
  match vOp w with
  | 4 => [100 + bnat (bitOf w 35)] ++ rowRes (tBank w) 0 16
  | 5 => [110] ++ rowRes (tBank w) (bitsOf w 35 32) 1
  | 7 => rowRes (tBank w) (tRows w).1 (tRows w).2 ++
         (if bitOf (tOp e 2) 7 || bitOf (tOp e 2) 16 then [200 + bitsOf (tOp e 2) 15 8] else [])
  | 10 => [120 + bitsOf w 37 34]
  | 16 => [200 + bitsOf w 37 30]
  | 17 => [200 + bitsOf w 37 30]
  | _ => []

/-- Resources a tensor instruction writes. -/
def tResWrites (e : TEntry) : List Nat :=
  let w := e.w
  match vOp w with
  | 1 => [100 + bnat (bitOf w 35)]
  | 2 => [110]
  | 3 => [110]
  | 4 => rowRes (tBank w) 0 16
  | 5 => rowRes (tBank w) (bitsOf w 35 32) 1
  | 6 => rowRes (tBank w) (tRows w).1 (tRows w).2
  | 7 => (if bitOf (tOp e 2) 22 then rowRes (tBank w) (tRows w).1 (tRows w).2 else []) ++
         (if bitOf (tOp e 2) 21 then [120 + bitsOf (tOp e 2) 20 17] else []) ++
         (if bitOf (tOp e 2) 16 then [200 + bitsOf (tOp e 2) 15 8] else []) ++
         (if bitsOf w 22 21 = 2 then [500 + bitsOf (tOp e 2) 5 0] else [])
  | 8 => [120 + bitsOf w 37 34] | 9 => [120 + bitsOf w 37 34] | 11 => [120 + bitsOf w 37 34]
  | 16 => [200 + bitsOf w 37 30]
  | _ => []

/-- Whether two lists share an element. -/
def meets (a b : List Nat) : Bool := a.any (fun x => b.contains x)

/-- Whether two byte ranges share a 64-byte plate word (R84). -/
def rangeMeets (x y : Nat × Nat) : Bool :=
  x.2 != 0 && y.2 != 0 && decide (x.1 / 64 ≤ (y.1 + y.2 - 1) / 64) && decide (y.1 / 64 ≤ (x.1 + x.2 - 1) / 64)

/-- Whether two lists of ranges meet. -/
def rangesMeet (a b : List (Nat × Nat)) : Bool := a.any (fun x => b.any (rangeMeets x))

/-- Whether a later entry must wait for an earlier one that has not completed (R83, R84, R99, R165). -/
def tConflict (old new : TEntry) : Bool :=
  tUnit old.w == tUnit new.w ||
  meets (tResWrites old) (tResReads new) || meets (tResReads old) (tResWrites new) ||
  meets (tResWrites old) (tResWrites new) || meets (tVWrites old.w) (tVWrites new.w) ||
  rangesMeet (tPlateWrites old) (tPlateReads new) || rangesMeet (tPlateReads old) (tPlateWrites new) ||
  rangesMeet (tPlateWrites old) (tPlateWrites new)

/-- Exception code ILLEGAL_ENCODING (R115). -/
def xcILLEGAL : Nat := 1
/-- IBUF_RANGE. -/
def xcIBUF : Nat := 2
/-- PLATE_RANGE. -/
def xcPLATE : Nat := 3
/-- MISALIGNED. -/
def xcMISALIGNED : Nat := 4
/-- XLT_UNPINNED. -/
def xcUNPINNED : Nat := 5
/-- WRITE_DENIED. -/
def xcWRDENIED : Nat := 6
/-- TIER_DENIED. -/
def xcTIER : Nat := 7
/-- DEVICE_ACCESS_SIZE. -/
def xcDEVSIZE : Nat := 8
/-- ACC_MISMATCH. -/
def xcACC : Nat := 9
/-- POISONED_DATA. -/
def xcPOISON : Nat := 10
/-- LINK_LOST. -/
def xcLINK : Nat := 11
/-- KERNEL_TRAP. -/
def xcTRAP : Nat := 12
/-- ABORTED. -/
def xcABORT : Nat := 13
/-- FAULTED. -/
def xcFAULT : Nat := 14

/-- Alignment of an array operand and its scale plane, and K in whole blocks (R92). -/
def arrayAligned (e : TEntry) : Bool :=
  tOp e 0 % 1024 == 0 && (!fmtScaled (tFmtOf e.w) || tOp e 1 % 64 == 0) && tOp e 2 % 32 == 0

/-- Limits of an instruction's values (R93, R95, R164 to R169), and its format pairing (R58). -/
def tLimits (a : Arch) (e : TEntry) : Bool :=
  let w := e.w
  let k := tOp e 2
  let c := tFmtOf w
  match vOp w with
  | 1 => decide (k ≤ wbufDepth c)
  | 2 => decide (k ≤ stageDepth c)
  | 4 => let f := tabGet (fun _ => 0) a.wfmt (bnat (bitOf w 35))
         k == 0 || (decide (k ≤ tabGet (fun _ => 0) a.wk (bnat (bitOf w 35))) && f != 0 && pairOk c (f - 1))
  | 5 => k == 0 || (a.sfmt != 0 && pairOk (a.sfmt - 1) c && decide (k ≤ stageDepth (a.sfmt - 1)))
  | 7 => k / 2 ^ 24 == 0 && (!bitOf k 23 || (accKind a (tBank w) != 1 && c == 15)) &&
         (bitsOf w 22 21 == 2 || bitsOf k 5 0 == 0)
  | _ => true

/-- Bank kind an MMA writes: 2 INT32, 1 FP32 (R60, R61). -/
def mmaKind (w : Nat) : Nat := if pairInt (tFmtOf w) then 2 else 1

/-- The operand checks at start (R162): the exception code, 0 when all pass. Range, then alignment, then limits and
pairing, then the bank's kind. Range and alignment hold for an sK of zero too: R92, R136 and R162 except no count.
DEDUCED (log 49). -/
def tCheck (a : Arch) (e : TEntry) : Nat :=
  let op := vOp e.w
  if !(tPlateReads e ++ tPlateWrites e).all (fun r => plateOk r.1 r.2) then xcPLATE
  else if (op = 1 ∨ op = 2 ∨ op = 4 ∨ op = 5) ∧ arrayAligned e = false then xcMISALIGNED
  else if !tLimits a e then xcILLEGAL
  else if (op = 4 ∨ op = 5) ∧ tOp e 2 ≠ 0 ∧ accKind a (tBank e.w) ≠ 0 ∧ accKind a (tBank e.w) ≠ mmaKind e.w then xcACC
  else 0

/-- WLD (R163). -/
def effWld (e : TEntry) (a : Arch) : Arch :=
  let c := tFmtOf e.w
  let b := bnat (bitOf e.w 35)
  let n := 64 * (tOp e 2 / 32)
  let t := tabPut a.wbuf (0x8000 * b) (plateGet a (tOp e 0) (blkBytes c n))
  let t := if fmtScaled c then tabPut t (0x8000 * b + 0x4000) (plateGet a (tOp e 1) (fmtScaleBytes c * n)) else t
  { a with wbuf := t, wfmt := tabSet (fun _ => 0) a.wfmt b (c + 1), wk := tabSet (fun _ => 0) a.wk b (tOp e 2) }

/-- WLD.F (R163, R165). -/
def effWldF (e : TEntry) (a : Arch) : Arch :=
  let c := tFmtOf e.w
  let n := tOp e 2 / 32
  let t := tabPut a.stage 0 (plateGet a (tOp e 0) (blkBytes c n))
  let t := if fmtScaled c then tabPut t 0x1000 (plateGet a (tOp e 1) (fmtScaleBytes c * n)) else t
  { a with stage := t, sfmt := c + 1 }

/-- WLD.FV (R164). -/
def effWldFv (e : TEntry) (a : Arch) : Arch :=
  let c := tFmtOf e.w
  let b := 4 * fmtWidth c
  let nb := 256 / b
  let j := bitsOf e.w 35 32
  let t := tabPut a.stage (nb * j * b) ((vbytes e.va).take (nb * b))
  let t := if fmtScaled c then
      tabPut t (0x1000 + nb * j * fmtScaleBytes c) ((vbytes e.vb).take (nb * fmtScaleBytes c)) else t
  { a with stage := t, sfmt := c + 1 }

/-- Scale entry of a block whose scale plane starts at `o` of a byte getter; 127 is never used without scales. -/
def scaleAt (g : Nat → Byte) (o c b : Nat) : Nat := if fmtScaled c then planeScale (fun i => g (o + i)) c b else 127

/-- MMA over the first `n` K blocks (R59, R94, R166). -/
def effMma (n : Nat) (e : TEntry) (a : Arch) : Arch :=
  if n = 0 then a
  else
    let ca := tFmtOf e.w
    let b := bnat (bitOf e.w 35)
    let cb := tabGet (fun _ => 0) a.wfmt b - 1
    let bank := tBank e.w
    let pg := tabGet (fun _ => 0) a.plate
    let wg := tabGet (fun _ => 0) a.wbuf
    let row := fun r =>
      (List.range 64).map (fun c =>
        accBlocks ca cb (fun k => scaleAt pg (tOp e 1) ca (16 * k + r)) (fun k => scaleAt wg (0x8000 * b + 0x4000) cb (64 * k + c))
          (fun k i => planeElem (fun x => pg (tOp e 0 + x)) (fmtWidth ca) (16 * k + r) i)
          (fun k i => planeElem (fun x => wg (0x8000 * b + x)) (fmtWidth cb) (64 * k + c) i)
          (accGet a bank r c) n)
    (List.range 16).foldl (fun s r =>
      let l := row r
      accMark (nfSet (accRowPut s bank r (l.map (·.1))) (l.foldl (fun f p => flOr f p.2) 0)) bank r (mmaKind e.w)) a

/-- MMA.F over the first `n` K blocks (R96, R166): other rows stay. -/
def effMmaF (n : Nat) (e : TEntry) (a : Arch) : Arch :=
  if n = 0 then a
  else
    let cb := tFmtOf e.w
    let ca := a.sfmt - 1
    let bank := tBank e.w
    let r := bitsOf e.w 35 32
    let pg := tabGet (fun _ => 0) a.plate
    let sg := tabGet (fun _ => 0) a.stage
    let l := (List.range 64).map (fun c =>
      accBlocks ca cb (fun k => scaleAt sg 0x1000 ca k) (fun k => scaleAt pg (tOp e 1) cb (64 * k + c))
        (fun k i => planeElem sg (fmtWidth ca) k i)
        (fun k i => planeElem (fun x => pg (tOp e 0 + x)) (fmtWidth cb) (64 * k + c) i)
        (accGet a bank r c) n)
    accMark (nfSet (accRowPut a bank r (l.map (·.1))) (l.foldl (fun f p => flOr f p.2) 0)) bank r (mmaKind e.w)

/-- ACZ (R167). -/
def effAcz (e : TEntry) (a : Arch) : Arch :=
  (List.range (tRows e.w).2).foldl (fun s i => accZeroRow s (tBank e.w) ((tRows e.w).1 + i)) a

/-- Feeds 64 values to a tally slot, lane j to partial j (R100). -/
def tallyFeed (a : Arch) (slot : Nat) (v : VReg) : Arch :=
  (List.range 64).foldl (fun s j =>
    let r := (tallyGet s slot j).feed (lane v j)
    nfSet (tallyPut s slot j r.1) r.2) a

/-- Draws a DRN takes for `n` rows: eight a row when it rounds stochastically to a format other than FP32 (R54). -/
def drnDraws (w n : Nat) : Nat := if bitsOf w 22 21 = 2 ∧ tFmtOf w ≠ 15 then 8 * n else 0

/-- The destination write of one drained row (R168). -/
def drnRow (e : TEntry) (i : Nat) (a : Arch) (es ss : List Nat) : Arch :=
  let c := tFmtOf e.w
  if bitOf e.w 27 then segPut a c i (bitsOf e.w 20 16) (bitsOf e.w 15 11) es ss
  else
    let a := platePut a (tOp e 0 + rowBytes c * i) (packElems (fmtWidth c) es)
    if fmtScaled c then platePut a (tOp e 1 + 2 * fmtScaleBytes c * i) (packScales c ss) else a

/-- DRN of its first `n` rows (R99, R168, R169): conversion, destination, tally, tag and zeroing row by row. Its draws
start at the counter and key captured at issue where it has them (R54), and the stream advances by the rows converted
(R104). -/
def effDrn (n : Nat) (e : TEntry) (a : Arch) : Arch :=
  let c := tFmtOf e.w
  let ctl := tOp e 2
  let bank := tBank e.w
  let rm := bitsOf e.w 22 21
  let st := bitsOf ctl 5 0
  let c0 := (e.rsv.map (·.1)).getD (stipGet a st).ctr
  let key := (e.rsv.map (·.2)).getD (stipGet a st).key
  let int := accKind a bank == 2
  let rec' := if bitOf ctl 7 then tagAmax (tagGet a (bitsOf ctl 15 8)) else none
  let step := fun (s : Arch) (i : Nat) =>
    let raw := accRow a bank ((tRows e.w).1 + i)
    let v := if int then raw.map (fun x => ofInt32 x.toInt) else raw
    let s := if bitOf ctl 23 then drnRow e i s (raw.map (·.toNat)) []
      else
        let r := convRow c rm (bitOf ctl 6) rec' (fun j => if rm = 2 then drawBits key c0 (64 * i + j) else 0) v
        nfSet (drnRow e i s r.2.1 r.1) r.2.2
    let s := if bitOf ctl 21 then tallyFeed s (bitsOf ctl 20 17) v else s
    let s := if bitOf ctl 16 then tagPut s (bitsOf ctl 15 8) (tagUpdate (tagGet s (bitsOf ctl 15 8)) v) else s
    if bitOf ctl 22 then accZeroRow s bank ((tRows e.w).1 + i) else s
  stipAdv ((List.range n).foldl step a) st (drnDraws e.w n)

/-- TLZ (R170). -/
def effTlz (e : TEntry) (a : Arch) : Arch :=
  (List.range 64).foldl (fun s j => tallyPut s (bitsOf e.w 37 34) j Tally.zero) a
/-- TLV (R170). -/
def effTlv (e : TEntry) (a : Arch) : Arch := tallyFeed a (bitsOf e.w 37 34) e.va
/-- Quantity `q` of a lane partial (R170). -/
def tallyQty (t : Tally) (q : Nat) : W32 :=
  match q with
  | 0 => BitVec.ofNat 32 t.n | 1 => t.s | 2 => t.q | 3 => t.mu | 4 => t.popVar | _ => t.m2
/-- TLR (R170). -/
def effTlr (e : TEntry) (a : Arch) : Arch :=
  let slot := bitsOf e.w 37 34
  let l := (List.range 64).map (fun j => tallyGet a slot j)
  if bitOf e.w 28 then vput a (bitsOf e.w 33 29) (l.map (fun t => tallyQty t (bitsOf e.w 27 25)))
  else let r := mergeTree l; nfSet (vput a (bitsOf e.w 33 29) (tallyRecord r.1)) r.2
/-- TLM (R170). -/
def effTlm (e : TEntry) (a : Arch) : Arch :=
  let slot := bitsOf e.w 37 34
  let r := (tallyGet a slot 0).merge (recordTally e.va)
  nfSet (tallyPut a slot 0 r.1) r.2
/-- SRP (R173). -/
def effSrp (e : TEntry) (a : Arch) : Arch := let n := bitsOf e.w 37 30; tagPut a n (tagPush (tagGet a n))
/-- SRR's register image (R173). -/
def tagRecord (t : SrTag) : VReg :=
  vbuild (fun i =>
    if i < 16 then (if i < t.valid then tagHist t i else 0)
    else if i = 16 then t.amax
    else if i = 17 then BitVec.ofNat 32 (2 ^ 31 * bnat t.upd + 2 ^ 30 * bnat t.nonfin + 16 * t.valid + t.head)
    else 0)
/-- SRR (R173). -/
def effSrr (e : TEntry) (a : Arch) : Arch := vput a (bitsOf e.w 29 25) (tagRecord (tagGet a (bitsOf e.w 37 30)))
/-- SRT (R173): the 64 lanes of the stored register update the tag. -/
def effSrt (w : Nat) (v : VReg) (a : Arch) : Arch := let n := bitsOf w 37 30; tagPut a n (tagUpdate (tagGet a n) v)

/-- The effect of a started instruction that runs to its end, other than a chain or mover instruction. -/
def tEffect (e : TEntry) (a : Arch) : Arch :=
  match vOp e.w with
  | 1 => effWld e a | 2 => effWldF e a | 3 => effWldFv e a
  | 4 => effMma (tOp e 2 / 32) e a | 5 => effMmaF (tOp e 2 / 32) e a
  | 6 => effAcz e a | 7 => effDrn (tRows e.w).2 e a
  | 8 => effTlz e a | 9 => effTlv e a | 10 => effTlr e a | 11 => effTlm e a
  | 16 => effSrp e a | 17 => effSrr e a
  | _ => a

/-- The effect of an instruction a clearing cuts after `n` blocks or rows (R113); others run to their end. -/
def tCutEffect (n : Nat) (e : TEntry) (a : Arch) : Arch :=
  match vOp e.w with
  | 4 => effMma (min n (tOp e 2 / 32)) e a
  | 5 => effMmaF (min n (tOp e 2 / 32)) e a
  | 7 => effDrn (min n (tRows e.w).2) e a
  | _ => tEffect e a

end Sys2Proof.Machine
end

