-- ==== Sys2Proof/Machine/CoreMem.lean ====
section
/-! DEFINITION. A core's accesses beyond its plate (R108 to R110, R259 to R268, R294 to R315): translation and checks, the L1 and its prefetcher, outstanding loads, and the store buffer. -/

namespace Sys2Proof.Machine

/-- Whether a BIAS_SET under way covers a line (R249): its requests hold. -/
def biasHeld (s : State) (line : Nat) : Bool :=
  let page := if lineTier line = 0 then lineOff line / 2 ^ 26 else 18432 + lineOff line / 2 ^ 26
  decide (lineTier line < 2) && s.qsu.queues.any (fun p => p.2.run.any (fun r =>
    dCmd r.desc == 11 && r.phase == 1 && decide (dWord r.desc 1 ≤ page) && decide (page < dWord r.desc 1 + dWord r.desc 2)))

/-- Whether a key command holds accesses that name its slot (R244). Those to the floor name slot 0 (R209). -/
def keyHeld (s : State) (sel line : Nat) : Bool :=
  match s.tiers.keyCmd with
  | some k => k.slot == sel && decide (lineTier line < 3)
  | none => false

/-- Whether an understory page is not yet overwritten, so that a write to it waits (R256). -/
def owWaits (s : State) (line : Nat) : Bool := lineTier line == 1 && !owReached s.tiers (underPage line)

/-- A write that waits for its understory page asks for its overwrite (R256). -/
def owWantLine (s : State) (line : Nat) : State :=
  if owWaits s line then { s with tiers := { s.tiers with owWant := setAdd (underPage line) s.tiers.owWant } } else s

/-- Whether a proof has yet to read out the page of a line (R472): writes wait. -/
def pageHeld (s : State) (line : Nat) : Bool :=
  match s.prf.run with
  | some r => r.pages.any (fun p => p.1 == line / 2 ^ 20)
  | none => false

/-- Whether the controller of a line re-initialises and holds its traffic (R444). -/
def ctlHeld (s : State) (line : Nat) : Bool :=
  decide (lineTier line < 2) && regField s (0x100000 + 0x100 * ctlRecord line) 2 0 == 2

/-- Whether an access to a line holds. An access to a line whose own write-back waits for the overwrite of its page follows
that write (R256). -/
def lineHeld (s : State) (sel line : Nat) (wr : Bool) : Bool :=
  biasHeld s line || keyHeld s sel line || (wr && (pageHeld s line || owWaits s line)) || ctlHeld s line ||
  s.tiers.owHeld.any (fun w => w.line == line)

/-- A core's translation of an address (R218): translation buffer, central cache, walk. -/
def coreXlate (s : State) (c va : Nat) : XRes × State :=
  let k := coreGet s c
  if 2 ^ 52 ≤ va then (.range, s)
  else
    match k.tbuf.find? (fun l => leafHit l k.root va) with
    | some l => (.leaf l, coreSet s c (tbufPut k l))
    | none =>
      match translate s k.root va with
      | (.leaf l, s) => (.leaf l, coreMap s c (fun k => tbufPut k l))
      | r => r

/-- The checks of a core access (R108, R110, R137, R218): the exception code, 0 for none, and the leaf. -/
def memCheck (s : State) (c va size : Nat) (store : Bool) : Nat × Option Leaf × State :=
  if va % size ≠ 0 then (xcMISALIGNED, none, s)
  else
    match coreXlate s c va with
    | (.leaf l, s) =>
      if !ePinned l.ent || (!store && !eR l.ent) then (xcUNPINNED, none, s)
      else if paTier (ePage l.ent) = 1 then (xcTIER, none, s)
      else if store && !eW l.ent then (xcWRDENIED, none, s)
      else if paTier (ePage l.ent) = 3 ∧ 8 < size then (xcDEVSIZE, none, s)
      else (0, some l, s)
    | (_, s) => (xcUNPINNED, none, s)

/-- The bytes of a line's sector in an L1, if valid (R260). -/
def l1data (k : Core) (line : Nat) : Option (List Byte) :=
  match l1find k line with
  | some w => let v := l1get k line w
              if v.valid.testBit (line % 4) then some ((v.data.drop (64 * (line % 4))).take 64) else none
  | none => none

/-- Marks an L1 way used (R259). -/
def l1touch (k : Core) (line way : Nat) : Core :=
  let b := lruTouch (tabGet (fun _ => 0) k.l1lru (l1set line)) (4 + way) 2
  { k with l1lru := tabSet (fun _ => 0) k.l1lru (l1set line) b }

/-- Fills a sector of an L1 (R260): the way with the tag, else the pseudo-LRU way with its sectors invalidated. -/
def l1fillCore (k : Core) (line : Nat) (data : List Byte) : Core :=
  let old := match l1find k line with
    | some w => (w, l1get k line w)
    | none => (lruWalk (tabGet (fun _ => 0) k.l1lru (l1set line)) (fun _ => true) 2 1 - 4, ⟨l1tag line, 0, List.replicate 256 0⟩)
  let v := old.2
  l1touch (l1put k line old.1 ⟨l1tag line, putBits v.valid (line % 4) (line % 4) 1, listPut v.data (64 * (line % 4)) data⟩) line old.1

/-- Fills a sector of a core's L1 and sets the slice's presence bit (R262), when the grove's L1s are enabled. -/
def l1fill (s : State) (c line : Nat) (data : List Byte) : State :=
  let g := groveOf c
  if !l1On s g then s
  else
    match l2find s g line with
    | none => s
    | some w =>
      let v := l2get s g line w
      let s := l2put s g line w { v with pres := v.pres ||| 2 ^ (posOf c / 5) }
      coreMap s c (fun k => l1fillCore k line data)

/-- Training of the stride prefetcher by a demand miss at `a` (R263): the core, and the stride to prefetch by. -/
def pfTrain (k : Core) (a : Nat) : Core × Int :=
  let age := k.pfn + 1
  let hit := k.pf.find? (fun e => (a : Int) == (e.last : Int) + e.stride && a / 2 ^ 26 == e.last / 2 ^ 26)
  match hit with
  | some e =>
    let e' : PfEntry := { e with last := a, conf := min 2 (e.conf + 1), age := age }
    ({ k with pf := k.pf.map (fun x => if x = e then e' else x), pfn := age },
      if e'.conf = 2 ∧ 64 ≤ e'.stride.natAbs ∧ e'.stride.natAbs ≤ 32768 then e'.stride else 0)
  | none =>
    match k.pf.find? (fun e => decide (((a : Int) - (e.last : Int)).natAbs ≤ 65536)) with
    | some e =>
      let e' : PfEntry := ⟨a, (a : Int) - (e.last : Int), 0, age⟩
      ({ k with pf := k.pf.map (fun x => if x = e then e' else x), pfn := age }, 0)
    | none =>
      let n : PfEntry := ⟨a, 0, 0, age⟩
      if k.pf.length < 8 then ({ k with pf := k.pf ++ [n], pfn := age }, 0)
      else
        let old := k.pf.foldl (fun m e => if e.age < m.age then e else m) (k.pf.headD n)
        ({ k with pf := k.pf.map (fun x => if x = old then n else x), pfn := age }, 0)

/-- L1 miss credits of a core (R25, R109). -/
def missDepth (s : State) : Nat := let d := regField s 0x60000 12 8; if d = 0 ∨ 16 < d then 16 else d

/-- Miss credits of a core in use (R109, R303): one for each 64-byte line that a load has asked for and one for each
store-buffer entry that has, until its data or its performance. R23 gives no count for a load of several lines: each of its
lines takes one, and a load issues while one credit is free, its further lines asking as credits come free. DESIGN CHOICE
(log 52). -/
def missUsed (k : Core) : Nat :=
  (k.loads.map (fun l => (l.parts.filter (fun p => p.asked && p.got.isNone)).length)).sum + (k.sb.filter (fun e => e.req)).length

/-- Requests of the complex bound for the host that are outstanding (R23, R24): lines that loads and store-buffer entries have
asked for, movers' transactions, and the re-reads of watched lines. -/
def hostUsed (s : State) : Nat :=
  (s.cores.map (fun p =>
    (p.2.loads.map (fun l => if paTier l.pa = 2 then (l.parts.filter (fun x => x.asked && x.got.isNone)).length else 0)).sum +
    (p.2.sb.filter (fun e => e.req && lineTier e.line == 2)).length)).sum +
  (s.movers.map (fun p => match p.2.cur with | some st => (st.txns.filter (fun x => x.host)).length | none => 0)).sum +
  (s.coh.mshr.filter (fun m => m.cls == 3 && lineTier m.line == 2)).length

/-- Whether the host pool has a credit for a further request to a line (R24). Only the floor needs one. -/
def hostRoom (s : State) (line : Nat) : Bool := lineTier line != 2 || decide (hostUsed s < regField s 0xB0000 14 0)

/-- Lines of an access. -/
def accessLines (pa n : Nat) : List Nat := (List.range (max 1 (n / 64))).map (fun i => pa / 64 + i)

/-- Byte of the youngest store-buffer entry that holds it (R304). -/
def sbByte (k : Core) (a : Nat) : Option Byte :=
  match (k.sb.filter (fun e => !e.dev && e.line == a / 64 && e.mask.testBit (a % 64))).getLast? with
  | some e => some (byteAt e.data (a % 64))
  | none => none

/-- The bytes a load needs that the store buffer holds when it issues, so in older stores: none of them, some, or all
(R304). -/
def sbCover (k : Core) (pa n : Nat) : Nat × List Byte :=
  let l := (List.range n).map (fun i => sbByte k (pa + i))
  if l.all (fun b => b.isNone) then (0, [])
  else if l.all (fun b => b.isSome) then (2, l.map (fun b => b.getD 0))
  else (1, [])

/-- Whether an entry holds a byte of a range. -/
def sbHits (e : SbEntry) (pa n : Nat) : Bool := (List.range n).any (fun i => e.line == (pa + i) / 64 && e.mask.testBit ((pa + i) % 64))

/-- The entries that hold bytes of a load when it issues. -/
def sbHolders (k : Core) (pa n : Nat) : List Nat := (k.sb.filter (fun e => !e.dev && sbHits e pa n)).map (·.id)

/-- Bytes placed at an address's offset in its line. -/
def lineAt (pa : Nat) (l : List Byte) : List Byte := List.replicate (pa % 64) 0 ++ l ++ List.replicate (64 - pa % 64 - l.length) 0

/-- Whether a 16-byte acquire needs its line in M (R309). -/
def needsM (l : Load) : Bool := decide (l.kind = .acq) && decide (l.width = 4) && paTier l.pa == 2

/-- Data of a line as a slice serves it. -/
def l2serve (s : State) (g line : Nat) (m : Bool) : Option (List Byte × Bool) :=
  match l2find s g line with
  | some w => let v := l2get s g line w; if m && v.st != 2 then none else some (v.data, v.poison)
  | none => none

/-- A slice's request for a line it needs, for a load or for a store (R281). -/
def sliceRequest (s : State) (g line sel : Nat) (wantM full store : Bool) : State :=
  match l2st s g line with
  | 0 => request s g line (if !wantM then .rdS else if full then .own else .rdM) 0 sel store
  | 1 => if wantM then request s g line .upg 0 sel store else s
  | _ => s

/-- Replaces a load of a core. -/
def loadPut (s : State) (c tag : Nat) (f : Load → Load) : State :=
  coreMap s c (fun k => { k with loads := k.loads.map (fun l => if l.tag = tag then f l else l) })

/-- Changes the part of a load that a line is. -/
def partPut (s : State) (c tag line : Nat) (f : LoadPart → LoadPart) : State :=
  loadPut s c tag (fun l => { l with parts := l.parts.map (fun p => if p.line = line then f p else p) })

/-- Whether a load looks up and fills its core's L1 (R137, R140, R260). -/
def usesL1 (s : State) (c : Nat) (l : Load) : Bool :=
  decide (l.kind = .plain ∨ l.kind = .acq ∨ l.kind = .pref) && l1On s (groveOf c)

/-- A line of a load takes its data. A plain 16-byte load of a floor line that the slice does not hold in M may read its
second half later (R309, R316): which, nothing fixes. -/
def takeLine (s : State) (c : Nat) (l : Load) (line : Nat) (d : List Byte × Bool) : State :=
  let s := partPut s c l.tag line (fun p => { p with got := some d })
  if l.width = 4 ∧ l.kind ≠ .acq ∧ l.kind ≠ .pref ∧ paTier l.pa = 2 ∧ l2st s (groveOf c) line ≠ 2 then
    let f := drawFree s
    loadPut f.2 c l.tag (fun l => { l with split := f.1 % 2 == 1 })
  else s

/-- Sends a cacheable line of a load (R260, R281): L1; else, with a miss credit and for the floor a credit of the host pool,
L2 or a request of the slice. -/
def sendLine (s : State) (c : Nat) (l : Load) (p : LoadPart) : State :=
  let g := groveOf c
  let line := p.line
  let useL1 := usesL1 s c l
  match (if useL1 && !needsM l then l1data (coreGet s c) line else none) with
  | some d =>
    takeLine (coreMap s c (fun k => match l1find k line with | some w => l1touch k line w | none => k)) c l line (d, false)
  | none =>
    if !p.asked && decide (missDepth s ≤ missUsed (coreGet s c)) then s
    else
      match l2serve s g line (needsM l) with
      | some d =>
        let s := match l2find s g line with | some w => l2touch s g line w | none => s
        let s := if useL1 && !d.2 then l1fill s c line d.1 else s
        takeLine s c l line d
      | none =>
        if !p.asked && !hostRoom s line then s
        else sliceRequest (partPut s c l.tag line (fun p => { p with asked := true })) g line l.sel (needsM l) false false

/-- The part of a device-space access (R238): 0 register space, 1 control window, 2 remote window; port and offset. -/
def devTarget (pa : Nat) : Nat × Nat × Nat :=
  let o := pa % 2 ^ 44
  if o < 0x1000000 then (0, 0, o)
  else if o < 0x1180000 then (1, (o - 0x1000000) / 0x10000, o % 0x10000)
  else (2, (o - 0x10000000000) / 0x1000000000, o % 0x1000000000)

/-- Payload of a WIN_RD or WIN_WR (R385); bit 127 of a WIN_RD marks the control window (the model's own choice). -/
def winPayload (kind off size tag data : Nat) : List Byte :=
  leBytes 16 (off + Nat.log2 size * 2 ^ 36 + tag * 2 ^ 40 + data * 2 ^ 64 + (if kind = 1 then 2 ^ 127 else 0))

/-- Sends a device-region load (R311, R313, R393). -/
def sendDevLoad (s : State) (c : Nat) (l : Load) : State :=
  let t := devTarget l.pa
  let n := smSize l.width
  let put := fun (s : State) (v : Nat) =>
    loadPut s c l.tag (fun l => { l with parts := [⟨l.pa / 64, some (lineAt l.pa (leBytes n v), false), false⟩] })
  if t.1 = 0 then let r := barReadRc s t.2.2 n; put r.2 r.1
  else if !portUp s t.2.1 1 then put (noteErr s (rideRec t.2.1) 4 0 l.pa) (2 ^ 64 - 1)
  else
    let tag := s.ride.nextTag
    let s := { s with ride := { s.ride with nextTag := (tag + 1) % 2 ^ 24, waits := s.ride.waits ++ [⟨0, tag, t.2.1, c, l.tag⟩] } }
    portSend s t.2.1 5 (winPayload t.1 t.2.2 n tag 0) 0

/-- Whether a load still waits for data. -/
def loadOpen (l : Load) : Bool := decide (l.kind ≠ .pref) && (l.split || l.parts.any (fun p => p.got.isNone))

/-- Whether a load may leave (R304, R305, R311): no older outstanding load overlaps it, the entries that hold some of its bytes
have been performed, and a device access follows every older one. -/
def loadReady (k : Core) (l : Load) : Bool :=
  let older := k.loads.filter (fun x => decide (x.tag < l.tag) && loadOpen x)
  let n := smSize l.width
  !older.any (fun x => decide (x.pa < l.pa + n) && decide (l.pa < x.pa + smSize x.width)) &&
  !k.sb.any (fun e => l.waits.contains e.id) &&
  (paTier l.pa != 3 || (!older.any (fun x => paTier x.pa == 3) && !k.sb.any (fun e => e.dev && decide (e.id < l.sbn))))

/-- Issues the prefetches a demand miss trains (R263, R264). -/
def prefetch (s : State) (c va : Nat) : State :=
  let d := min 8 (regField s 0x60000 19 16)
  let r := pfTrain (coreGet s c) va
  let s := coreSet s c r.1
  if r.2 = 0 ∨ d = 0 then s
  else
    (List.range d).foldl (fun s i =>
      let a : Int := (va : Int) + r.2 * ((i + 1 : Nat) : Int)
      let k := coreGet s c
      if a < 0 ∨ a.toNat / 2 ^ 26 ≠ va / 2 ^ 26 ∨ missDepth s < missUsed k + 4 then s
      else
        match k.tbuf.find? (fun l => leafHit l k.root a.toNat) with
        | none => s
        | some lf =>
          let pa := leafPA lf a.toNat
          if !ePinned lf.ent || !eR lf.ent || paTier pa == 1 || paTier pa == 3 || (l1data k (pa / 64)).isSome || !hostRoom s (pa / 64) then s
          else
            let p : LoadPart := ⟨pa / 64, none, true⟩
            let l : Load := { tag := k.ldn, kind := .pref, rd := 0, width := 0, sx := false, va := a.toNat, pa := pa, sel := eSel lf.ent,
                              epoch := s.xlt.epoch, bundle := 0, sent := true, sbn := k.sbn, waits := [], split := false, parts := [p] }
            sendLine (coreSet s c { k with loads := k.loads ++ [l], ldn := k.ldn + 1 }) c l p) s

/-- Drops the prefetches of a core that have their data. -/
def dropPrefetch (k : Core) : Core :=
  { k with loads := k.loads.filter (fun l => !(decide (l.kind = .pref) && l.parts.all (fun p => p.got.isSome))) }

/-- Sends a line of a demand load; one that has missed its core's L1 trains the prefetcher (R263). -/
def sendPart (s : State) (c : Nat) (l : Load) (p : LoadPart) : State :=
  if p.asked || p.got.isSome then s
  else
    let miss := usesL1 s c l && (l1data (coreGet s c) p.line).isNone
    let s := sendLine s c l p
    let went := (coreGet s c).loads.any (fun x => x.tag == l.tag && x.parts.any (fun y => y.line == p.line && (y.asked || y.got.isSome)))
    if miss && went then prefetch s c (l.va + 64 * (p.line - l.pa / 64)) else s

/-- Sends a load that may leave, or those of its lines that still want a credit. -/
def sendLoad (s : State) (c : Nat) (l : Load) : State :=
  if paTier l.pa = 3 then (if l.sent then s else sendDevLoad (loadPut s c l.tag (fun l => { l with sent := true })) c l)
  else l.parts.foldl (fun s p => sendPart s c l p) (loadPut s c l.tag (fun l => { l with sent := true }))

/-- Sends every load of a core that may leave, in program order. -/
def sendLoads (s : State) (c : Nat) : State :=
  (coreGet s c).loads.foldl (fun s l =>
    if decide (l.kind ≠ .pref) && l.parts.any (fun p => p.got.isNone && !p.asked) && (l.sent || loadReady (coreGet s c) l) &&
        !l.parts.any (fun p => lineHeld s l.sel p.line false) then
      sendLoad s c l
    else s) s

/-- Gives a line that has reached a slice to the loads of its grove that wait for it (R305), and to their L1s. One that the
slice could not keep is handed on as `d`. -/
def feedLine (s : State) (g line : Nat) (d : Option (List Byte × Bool)) : State :=
  (groveCores g).foldl (fun s c =>
    let s := (coreGet s c).loads.foldl (fun s l =>
      match l.parts.find? (fun p => p.line == line && p.asked && p.got.isNone) with
      | some p =>
        if paTier l.pa = 3 then s
        else if (l2serve s g line (needsM l)).isSome then sendLine s c l p
        else match d with
          | some x => takeLine s c l line x
          | none => sendLine s c l p
      | none => s) s
    if (coreGet s c).loads.isEmpty then s else coreMap s c dropPrefetch) s

/-- A load of a memory bundle (R137, R140, R304): its checks have passed. What the store buffer holds whole it takes at
once. -/
def startLoad (s : State) (c : Nat) (kind : LoadKind) (rd width : Nat) (sx : Bool) (va bundle : Nat) (lf : Leaf) : State :=
  let pa := leafPA lf va
  let n := smSize width
  let k := coreGet s c
  let cov := if paTier pa = 3 then (0, []) else sbCover k pa n
  let part := fun (line : Nat) =>
    (⟨line, if cov.1 = 2 then some (if n < 64 then lineAt pa cov.2 else (cov.2.drop (64 * (line - pa / 64))).take 64, false) else none, false⟩ : LoadPart)
  let l : Load := { tag := k.ldn, kind := kind, rd := rd, width := width, sx := sx, va := va, pa := pa, sel := eSel lf.ent,
                    epoch := s.xlt.epoch, bundle := bundle, sent := cov.1 == 2, sbn := k.sbn,
                    waits := if cov.1 = 1 then sbHolders k pa n else [], split := false, parts := (accessLines pa n).map part }
  sendLoads (coreSet s c { k with loads := k.loads ++ [l], ldn := k.ldn + 1 }) c

/-- Whether a load that issues now needs a miss credit (R109): it is not held whole in the store buffer, and some line of it
misses the L1. -/
def loadMisses (s : State) (c : Nat) (kind : LoadKind) (pa n : Nat) : Bool :=
  let k := coreGet s c
  paTier pa != 3 && (sbCover k pa n).1 != 2 &&
  (decide (kind = .nc ∨ kind = .wait) || !l1On s (groveOf c) || (decide (kind = .acq) && n == 16 && paTier pa == 2) ||
   (accessLines pa n).any (fun x => (l1data k x).isNone))

/-- Whether a load finds a miss credit where it needs one (R109); a seventeenth miss holds issue. -/
def creditOk (s : State) (c : Nat) (kind : LoadKind) (pa n : Nat) : Bool :=
  !loadMisses s c kind pa n || decide (missUsed (coreGet s c) < missDepth s)

/-- New store-buffer entries of a store: one for each line (R301). -/
def storeParts (pa : Nat) (l : List Byte) : List (Nat × Nat × List Byte) :=
  if l.length ≤ 64 then [(pa / 64, (2 ^ l.length - 1) * 2 ^ (pa % 64), lineAt pa l)]
  else (List.range (l.length / 64)).map (fun i => (pa / 64 + i, fullMask, (l.drop (64 * i)).take 64))

/-- The entry a store merges into (R302): the youngest of its line, whatever selector its page names. An entry that a younger
load waits for takes no store that is younger still, which that load would else see (R297). DEDUCED (log 53). -/
def sbMergeable (k : Core) (line : Nat) (dev rel : Bool) : Option SbEntry :=
  if dev || rel then none
  else
    match (k.sb.filter (fun e => e.line == line && !e.dev)).getLast? with
    | some e => if e.draining || e.rel || k.loads.any (fun l => l.waits.contains e.id) then none else some e
    | none => none

/-- Free entries a store needs. -/
def sbNeed (k : Core) (pa : Nat) (l : List Byte) (rel : Bool) : Nat :=
  ((storeParts pa l).filter (fun p => (sbMergeable k p.1 (paTier pa == 3) rel).isNone)).length

/-- Marks the oldest entry that is not draining. -/
def sbMarkOldest : List SbEntry → List SbEntry
  | [] => []
  | e :: r => if e.draining then e :: sbMarkOldest r else { e with draining := true } :: r

/-- Places a store in the buffer (R301 to R303): entries that fill up, or the oldest at twelve or more, begin to drain. -/
def sbPut (k : Core) (pa sel epoch bundle : Nat) (l : List Byte) (rel : Bool) : Core :=
  let dev := paTier pa == 3
  let k := if rel then { k with sb := k.sb.map (fun e => { e with draining := true }) } else k
  let k := (storeParts pa l).foldl (fun k p =>
    match sbMergeable k p.1 dev rel with
    | some e =>
      let m := e.mask ||| p.2.1
      let e' := { e with mask := m, data := mergeBytes p.2.1 p.2.2 e.data, sel := sel, ldn := k.ldn, draining := m == fullMask }
      { k with sb := k.sb.map (fun x => if x = e then e' else x) }
    | none =>
      { k with sb := k.sb ++ [⟨k.sbn, p.1, p.2.1, p.2.2, dev, rel, sel, epoch, bundle, dev || p.2.1 == fullMask, k.ldn, false, false⟩],
               sbn := k.sbn + 1 }) k
  if 12 ≤ k.sb.length then { k with sb := sbMarkOldest k.sb } else k

/-- Every entry begins to drain (R303): a barrier, END, a clock-gate request, an exception, an abort, a clearing. -/
def sbDrainAll (k : Core) : Core := { k with sb := k.sb.map (fun e => { e with draining := true }) }

/-- Whether every outstanding load of a core has been performed. -/
def loadsDone (k : Core) : Bool := !k.loads.any loadOpen

/-- Whether a draining entry may be performed now (R297, R300, R303, R311): after older entries of its line and older loads of
its bytes; a release after everything older; a device entry after older device accesses. -/
def sbReady (k : Core) (e : SbEntry) : Bool :=
  let older := k.sb.filter (fun x => decide (x.id < e.id))
  let loads := k.loads.filter (fun l => decide (l.tag < e.ldn) && loadOpen l)
  e.draining && !older.any (fun x => x.line == e.line) && !loads.any (fun l => !e.dev && sbHits e l.pa (smSize l.width)) &&
  (!e.rel || (older.isEmpty && loads.isEmpty)) &&
  (!e.dev || (!older.any (fun x => x.dev) && !loads.any (fun l => paTier l.pa == 3)))

/-- An entry asks for its line once it holds a miss credit, and for the floor a credit of the host pool (R24, R303). -/
def sbRequest (s : State) (c : Nat) (e : SbEntry) : State :=
  let ask := fun (s : State) => sliceRequest s (groveOf c) e.line e.sel true (e.mask == fullMask) true
  if e.req then ask s
  else if decide (missUsed (coreGet s c) < missDepth s) && hostRoom s e.line then
    ask (coreMap s c (fun k => { k with sb := k.sb.map (fun x => if x.id = e.id then { x with req := true } else x) }))
  else s

/-- Sends what the draining entries need: ownership of a line, or a window write (R303, R311). -/
def drainSb (s : State) (c : Nat) : State :=
  (coreGet s c).sb.foldl (fun s e =>
    if !sbReady (coreGet s c) e || lineHeld s e.sel e.line true then s
    else if e.dev then
      let n := (List.range 64).filter (fun i => e.mask.testBit i)
      let pa := 64 * e.line + n.headD 0
      let t := devTarget pa
      if t.1 = 0 || s.ride.waits.any (fun w => w.kind == 1 && w.a == c && w.b == e.id) then s
      else if t.1 = 1 || !portUp s t.2.1 1 then s
      else
        let tag := s.ride.nextTag
        let s := { s with ride := { s.ride with nextTag := (tag + 1) % 2 ^ 24, waits := s.ride.waits ++ [⟨1, tag, t.2.1, c, e.id⟩] } }
        portSend s t.2.1 6 (winPayload 2 t.2.2 n.length tag (leNat ((e.data.drop (pa % 64)).take n.length))) 0
    else sbRequest s c e) s

/-- Removes an entry. -/
def sbDel (s : State) (c id : Nat) : State := coreMap s c (fun k => { k with sb := k.sb.filter (fun e => e.id != id) })

/-- The stored bytes of a performed store in an L1 sector of its line (R261); the sector of a store whose parity check failed
goes, because its line is poisoned (R314). -/
def l1store (k : Core) (e : SbEntry) : Core :=
  if e.bad then l1drop k e.line
  else
    match l1data k e.line, l1find k e.line with
    | some old, some y =>
      let a := l1get k e.line y
      l1put k e.line y { a with data := listPut a.data (64 * (e.line % 4)) (mergeBytes e.mask e.data old) }
    | _, _ => k

/-- Performs a store at the slice that holds its line in M (R261, R281, R295): the line, the storing core's L1, the other
L1s of the grove, and the core's list of floor lines (R307). -/
def performStore (s : State) (c : Nat) (e : SbEntry) (w : Nat) : State :=
  let g := groveOf c
  let v := l2get s g e.line w
  let data := mergeBytes e.mask e.data v.data
  let s := l2put s g e.line w { v with data := data, written := true, poison := e.bad || (v.poison && e.mask != fullMask), sel := e.sel }
  let s := l2touch s g e.line w
  let s := if l1On s g then
      (groveCores g).foldl (fun s x =>
        if x = c then coreMap s c (fun k => l1store k e)
        else if v.pres.testBit (posOf x / 5) then coreMap s x (fun k => l1drop k e.line) else s) s
    else s
  let s := sbDel s c e.id
  if lineTier e.line = 2 then
    coreMap s c (fun k =>
      if k.flines.contains e.line then k
      else if k.flines.length < 32 then { k with flines := setAdd e.line k.flines } else { k with fover := true })
  else s

/-- A store's target carries it out (R295, R302, R313). A store to normal memory has asked for its line before (R303). -/
def storeDone (s : State) (c id : Nat) : State :=
  match (coreGet s c).sb.find? (fun e => e.id == id) with
  | none => s
  | some e =>
    if !sbReady (coreGet s c) e || lineHeld s e.sel e.line true then s
    else if e.dev then
      let pa := 64 * e.line + ((List.range 64).filter (fun i => e.mask.testBit i)).headD 0
      let t := devTarget pa
      if t.1 = 0 then sbDel s c id
      else if t.1 = 1 then noteErr (sbDel s c id) (rideRec t.2.1) (if portUp s t.2.1 1 then 3 else 4) 0 pa
      else if portUp s t.2.1 1 then s
      else noteErr (sbDel s c id) (rideRec t.2.1) 4 0 pa
    else if !e.req then sbRequest s c e
    else
      match l2find s (groveOf c) e.line with
      | some w => if (l2get s (groveOf c) e.line w).st = 2 then performStore s c e w else sbRequest s c e
      | none => sbRequest s c e

/-- Writes a slice's M copy of a floor line back to the host (R285, R307): DirtyEvict, and the line goes to I. -/
def floorWriteBack (s : State) (line : Nat) : State :=
  (List.range 48).foldl (fun s g =>
    match l2find s g line with
    | none => s
    | some w =>
      let v := l2get s g line w
      if v.st = 2 && !lineBusy s line then
        let s := l2drop (backInval s g line) g line
        dirtyEvict (dirPut (memWrite s 0 line fullMask v.data v.poison) line dir0) line
      else s) s

/-- Floor lines that the complex holds in M with WRITTEN set. -/
def writtenFloor (s : State) : List Nat :=
  dedup ((s.coh.l2.filter (fun p => p.2.st == 2 && p.2.written)).filterMap (fun p =>
    let line := p.2.tag * 4096 + p.1 / 16 % 4096
    if lineTier line = 2 then some line else none))

/-- Whether a floor line that BAR.SYS names is still on its way to the host (R306): under a transaction, in an eviction
buffer, or written back without its completion. -/
def floorMoving (s : State) (line : Nat) : Bool := lineBusy s line || lineLeaving s line || s.coh.wb.contains line

/-- BAR.SYS's write-backs (R307): the listed lines, or every written floor line once the list has overflowed. A line under a
transaction is written back when that has ended. -/
def sysWriteBack (s : State) (c : Nat) : State :=
  let k := coreGet s c
  let l := if k.fover then writtenFloor s else k.flines
  let s := if s.host.hold then s else l.foldl floorWriteBack s
  coreMap s c (fun k => { k with flines := l.filter (floorMoving s), fover := false, bar := 5 })

end Sys2Proof.Machine
end

