-- ==== Sys2Proof/Machine/ChainOps.lean ====
section
/-! DEFINITION. Chains (R175 to R196): bindings, neighbours, words in flight, and the progress of CHS, CHR and CHA. -/

namespace Sys2Proof.Machine

/-- The LAUNCH a core runs in. -/
def launchOf (s : State) (c : Nat) : Option Launch := s.qsu.launches.find? (fun l => l.cores.contains c)

/-- Entry of a chain slot (R178); a LAUNCH without a table binds none. -/
def chEntry (l : Launch) (slot : Nat) : Nat := fieldAt l.chains (16 * slot) 16
/-- KIND. -/
def chKind (e : Nat) : Nat := bitsOf e 1 0
/-- CHAIN_ID. -/
def chId (e : Nat) : Nat := bitsOf e 79 68
/-- DOWN_PORTS. -/
def chDown (e : Nat) : Nat := bitsOf e 127 104
/-- UP_PORTS. -/
def chUp (e : Nat) : Nat := bitsOf e 103 80

/-- The cores of a launch in a grove, in chain order. -/
def launchCores (l : Launch) (g : Nat) : List Nat := l.cores.filter (fun c => groveOf c == g)
/-- The groves of a launch, ascending. -/
def launchGroves (l : Launch) : List Nat := l.groves

/-- A FABRIC or RIDE member core of a grove (R178). -/
def chAgent (l : Launch) (e g : Nat) : Option Nat :=
  let cs := launchCores l g
  if bitsOf e 67 62 = 0x3F then cs.getLast? else cs[bitsOf e 67 62]?

/-- A neighbour: a core of this complex, or the ports of a mask. -/
inductive ChN where
  | core (c : Nat)
  | ride (mask id : Nat)
  deriving DecidableEq, Repr

/-- The element of a list before or after an element. -/
def listNext (l : List Nat) (x : Nat) (up : Bool) : Option Nat :=
  match l.findIdx? (fun y => y == x) with
  | none => none
  | some i => if up then (if i = 0 then none else l[i - 1]?) else l[i + 1]?

/-- A core's neighbour on a slot (R179): upstream, or downstream. None also where the slot is unbound. -/
def chNbr (l : Launch) (c slot : Nat) (up : Bool) : Option ChN :=
  let e := chEntry l slot
  let g := groveOf c
  let low := up != bitOf e 2
  match chKind e with
  | 1 =>
    let cs := launchCores l g
    let seg := if bitsOf e 61 56 = 0 then 48 else bitsOf e 61 56
    match cs.findIdx? (fun y => y == c), listNext cs c low with
    | some j, some d => if (if low then j - 1 else j + 1) / seg = j / seg then some (.core d) else none
    | _, _ => none
  | 2 =>
    if chAgent l e g = some c then (listNext ((launchGroves l).filterMap (chAgent l e)) c low).map ChN.core else none
  | 3 =>
    if chAgent l e g = some c then
      let m := if up then chUp e else chDown e
      let q := ((launchGroves l).findIdx? (fun y => y == g)).getD 0
      if m = 0 then none else some (.ride m (chId e + q))
    else none
  | _ => none

/-- Chain slot of a chain instruction (R171). -/
def chSlot (w : Nat) : Nat := bitsOf w 37 34
/-- Word count of a chain instruction. -/
def chCount (w : Nat) : Nat := countOf (bitsOf w 33 26) 256

/-- Whether a chain instruction's slot has the directions it uses (R171). -/
def chBound (s : State) (c : Nat) (e : TEntry) : Bool :=
  match launchOf s c with
  | none => false
  | some l =>
    (vOp e.w == 12 || (chNbr l c (chSlot e.w) true).isSome) && (vOp e.w == 13 || (chNbr l c (chSlot e.w) false).isSome)

/-- Words in a receive buffer, and on their way to it. -/
def recvGet (k : Core) (slot : Nat) : List Nat := tabGet (fun _ => []) k.recv slot
/-- Words on their way. -/
def wireGet (k : Core) (slot : Nat) : List Nat := tabGet (fun _ => []) k.wire slot
/-- The open cell of a RIDE slot. -/
def cellGet (k : Core) (slot : Nat) : List Nat := tabGet (fun _ => []) k.cell slot

/-- Payload of a chain cell (R183). -/
def chainPayload (id per first : Nat) (ws : List Nat) : List Byte :=
  leBytes 16 (id * 2 ^ 116 + per * 2 ^ 100 + first * 2 ^ 84 + ws.length * 2 ^ 77) ++ ws.flatMap (leBytes 16)

/-- Closes the open cell of a core's RIDE slot and sends it over the slot's mask, the ports in rotation (R183, R184). With no
credit at any port that is UP it waits at one of them, and with none UP at the lowest. -/
def closeCell (s : State) (c slot : Nat) : State :=
  let k := coreGet s c
  let ws := cellGet k slot
  match launchOf s c with
  | none => s
  | some l =>
    match ws, chNbr l c slot false with
    | [], _ => s
    | _, some (.ride m id) =>
      let sent := tabGet (fun _ => 0) k.rsent slot
      let first := (sent + 65536 - ws.length) % 65536
      let rot := tabGet (fun _ => 0) k.rot slot
      let d := chainPayload id (period s l.comp) first ws
      let k := { k with cell := tabSet (fun _ => []) k.cell slot [] }
      match chainPort s m rot with
      | some i => portSend (coreSet s c { k with rot := tabSet (fun _ => 0) k.rot slot (i + 1) }) i 1 d m
      | none => maskSend (coreSet s c k) m rot 1 d
    | _, _ => s

/-- Whether a word can be sent on a slot (R182, R386): a place in the receiver's buffer. Over a RIDE leg the credit for the
receiver's buffer is that of the cell, which the receiving port keeps until the buffer has room for its words; a sender with
no CHAIN credit at a port that is UP holds. DEDUCED (log 57). -/
def canSend (s : State) (c slot : Nat) : Bool :=
  match launchOf s c with
  | none => false
  | some l =>
    match chNbr l c slot false with
    | some (.core d) => decide ((recvGet (coreGet s d) slot).length + (wireGet (coreGet s d) slot).length < 64)
    | some (.ride m _) => decide ((cellGet (coreGet s c) slot).length < 64) && (chainPort s m 0).isSome
    | none => false

/-- Sends one word downstream; `last` is the instruction's last word (R183). -/
def sendWord (s : State) (c slot w : Nat) (last : Bool) : State :=
  match launchOf s c with
  | none => s
  | some l =>
    match chNbr l c slot false with
    | some (.core d) => coreMap s d (fun k => { k with wire := tabSet (fun _ => []) k.wire slot (wireGet k slot ++ [w]) })
    | some (.ride _ _) =>
      let s := coreMap s c (fun k => { k with
        cell := tabSet (fun _ => []) k.cell slot (cellGet k slot ++ [w])
        rsent := tabSet (fun _ => 0) k.rsent slot ((tabGet (fun _ => 0) k.rsent slot + 1) % 65536) })
      if last || decide ((cellGet (coreGet s c) slot).length = 64) then closeCell s c slot else s
    | none => s

/-- NFLAGS.TALLY_SATURATED for a saturated word (R192). -/
def satFlag (w : Nat) : Nat := if twIsSat w then nfTALLYSAT else 0

/-- One word of a running chain instruction (R171): nothing when it must wait. -/
def chainWord (s : State) (c : Nat) (e : TEntry) : State :=
  let k := coreGet s c
  let slot := chSlot e.w
  let n := chCount e.w
  let adv := fun (s : State) => coreMap s c (fun k =>
    { k with tq := k.tq.map (fun x => if x.id = e.id then { x with prog := x.prog + 1 } else x) })
  if n ≤ e.prog then s
  else
    let last := e.prog + 1 == n
    let local_ := leNat (plateGet k.a (tOp e 0 + 16 * e.prog) 16)
    match vOp e.w with
    | 12 =>
      if canSend s c slot then
        adv (sendWord (coreMap s c (fun k => { k with a := nfSet k.a (satFlag local_) })) c slot local_ last)
      else s
    | 13 =>
      match recvGet k slot with
      | [] => s
      | w :: r =>
        adv (coreSet s c { k with recv := tabSet (fun _ => []) k.recv slot r,
                                  a := nfSet (platePut k.a (tOp e 1 + 16 * e.prog) (leBytes 16 w)) (satFlag w) })
    | _ =>
      match recvGet k slot with
      | [] => s
      | w :: r =>
        if canSend s c slot then
          let x := twAdd w local_
          let a := nfSet k.a (flOr x.2 (satFlag x.1))
          let a := if bitOf e.w 15 then platePut a (tOp e 1 + 16 * e.prog) (leBytes 16 x.1) else a
          adv (sendWord (coreSet s c { k with recv := tabSet (fun _ => []) k.recv slot r, a := a }) c slot x.1 last)
        else s

/-- The chain instruction a core is running. -/
def chainRunning (k : Core) : Option TEntry := k.tq.find? (fun e => tUnit e.w == 4 && e.started)

/-- Words a core's running chain instruction has done. -/
def chainProg (k : Core) : Nat := match chainRunning k with | some e => e.prog + 1 | none => 0

/-- Runs a core's chain instruction as far as it can go, at most `n` words. -/
def chainLoop : Nat → State → Nat → State
  | 0, s, _ => s
  | n + 1, s, c =>
    match chainRunning (coreGet s c) with
    | none => s
    | some e =>
      let t := chainWord s c e
      if chainProg (coreGet t c) = chainProg (coreGet s c) then t else chainLoop n t c

/-- Runs a core's chain instruction; words it has received leave room for the core upstream of it, and so on (R182). -/
def chainTurn : Nat → State → Nat → State
  | 0, s, _ => s
  | n + 1, s, c =>
    match chainRunning (coreGet s c) with
    | none => s
    | some e =>
      let t := chainLoop 257 s c
      if vOp e.w = 12 ∨ chainProg (coreGet t c) = chainProg (coreGet s c) then t
      else
        match (launchOf t c).bind (fun l => chNbr l c (chSlot e.w) true) with
        | some (.core d) => chainTurn n t d
        | _ => t

/-- A word arrives in a receive buffer (R182). -/
def wordArrive (s : State) (c slot : Nat) : State :=
  let k := coreGet s c
  match wireGet k slot with
  | [] => s
  | w :: r =>
    if 64 ≤ (recvGet k slot).length then s
    else coreSet s c { k with wire := tabSet (fun _ => []) k.wire slot r, recv := tabSet (fun _ => []) k.recv slot (recvGet k slot ++ [w]) }

/-- The running LAUNCH, agent core and slot that bind a chain identifier for receiving on a port (R185). -/
def chainBinding (s : State) (port id : Nat) : Option (Launch × Nat × Nat) :=
  s.qsu.launches.findSome? (fun l =>
    (List.range 16).findSome? (fun slot =>
      let e := chEntry l slot
      if chKind e = 3 ∧ (chUp e).testBit port ∧ chId e ≤ id ∧ id - chId e < (launchGroves l).length then
        match (launchGroves l)[id - chId e]? with
        | some g => (chAgent l e g).map (fun c => (l, c, slot))
        | none => none
      else none))

/-- Counts a stale cell on a port (R35, R184, R185). -/
def countStale (s : State) (i : Nat) : State := regCount s (0x80018 + 0x800 * i) 63 48 1

/-- Where a chain cell's judgement stands (R185): stale, malformed, held, or delivered to a core's slot. -/
inductive Judge where
  | stale
  | malformed
  | hold
  | deliver (core slot : Nat)
  deriving DecidableEq, Repr

/-- The compartment of the latest binding of an identifier on a port since enable (R185), plus 1; 0 for none. -/
def lastBound (s : State) (port id : Nat) : Nat := tabGet (fun _ => 0) s.ride.bound (4096 * port + id)

/-- Compartment + 1 whose period number a chain cell compares (R185): that of the LAUNCH that binds its identifier, else of
the latest binding; 0 for none. -/
def chainComp (s : State) (i : Nat) (d : List Byte) : Nat :=
  let id := bitsOf (fieldAt d 0 16) 127 116
  match chainBinding s i id with
  | some (l, _, _) => l.comp + 1
  | none => lastBound s i id

/-- How far a chain cell's period lies ahead of its compartment's (R35); 0 for a cell with no compartment, or one that has
passed its check (R185). -/
def chainAhead (s : State) (i : Nat) (c : RCell) : Nat :=
  let comp := chainComp s i c.data
  if c.ok || comp == 0 then 0 else (bitsOf (fieldAt c.data 0 16) 115 100 + 65536 - period s (comp - 1)) % 65536

/-- Whether a slot's receive buffer of 64 words has room for `n` more (R182). -/
def recvRoom (k : Core) (slot n : Nat) : Bool := decide ((recvGet k slot).length + (wireGet k slot).length + n ≤ 64)

/-- Judges a chain cell on a port (R35, R182, R184, R185). -/
def judgeChain (s : State) (i : Nat) (x : RCell) : Judge :=
  let h := fieldAt x.data 0 16
  let id := bitsOf h 127 116
  let n := bitsOf h 83 77
  if n = 0 ∨ 64 < n then .malformed
  else
    let dd := chainAhead s i x
    if 32768 ≤ dd then .stale
    else if dd ≠ 0 then .hold
    else
      match chainBinding s i id with
      | none => .hold
      | some (_, c, slot) =>
        let g := (bitsOf h 99 84 + 65536 - tabGet (fun _ => 0) (coreGet s c).rrecv slot) % 65536
        if g = 0 then (if recvRoom (coreGet s c) slot n then .deliver c slot else .hold) else if g < 32768 then .hold else .stale

/-- Words of a chain cell. -/
def chainWords (d : List Byte) : List Nat :=
  (List.range (bitsOf (fieldAt d 0 16) 83 77)).map (fun j => fieldAt d (16 + 16 * j) 16)

/-- Puts a judged chain cell into effect: it keeps its credit while it is held (R386), and once it has passed its period check
takes it no more (R185). -/
def takeChain (s : State) (i : Nat) (c : RCell) : State :=
  match judgeChain s i c with
  | .malformed => freeCredit (noteErr s (rideRec i) 2 0 0) i 1
  | .stale => freeCredit (countStale s i) i 1
  | .hold =>
    let p := portGet s i
    portSet s i { p with held := p.held ++ [{ c with ok := c.ok || (chainComp s i c.data != 0 && chainAhead s i c == 0) }] }
  | .deliver x slot =>
    let ws := chainWords c.data
    freeCredit (coreMap s x (fun k => { k with
      wire := tabSet (fun _ => []) k.wire slot (wireGet k slot ++ ws)
      rrecv := tabSet (fun _ => 0) k.rrecv slot ((tabGet (fun _ => 0) k.rrecv slot + ws.length) % 65536) })) i 1

end Sys2Proof.Machine
end

