-- ==== Sys2Proof/Machine/Streams.lean ====
section
/-! DEFINITION. Streams (R197 to R206, R219 to R225): the descriptor, the tiled walk, the whole-tile check, transactions, completion words, fault records, and how a stream ends. -/

namespace Sys2Proof.Machine

/-- First word of a stream descriptor (R197). -/
def dsW0 (d : List Byte) : Nat := fieldAt d 0 8
/-- OP: 0 COPY, 1 FILL. -/
def dsOp (d : List Byte) : Nat := bitsOf (dsW0 d) 59 58
/-- DST. -/
def dsDst (d : List Byte) : Nat := bitsOf (dsW0 d) 57 55
/-- Grove or slice of TARGET. -/
def dsGrove (d : List Byte) : Nat := bitsOf (dsW0 d) 54 49
/-- Logical index of TARGET. -/
def dsLog (d : List Byte) : Nat := bitsOf (dsW0 d) 48 43
/-- NDIM. -/
def dsNdim (d : List Byte) : Nat := bitsOf (dsW0 d) 42 40
/-- PF. -/
def dsPf (d : List Byte) : Nat := bitsOf (dsW0 d) 39 35
/-- RO. -/
def dsRo (d : List Byte) : Bool := bitOf (dsW0 d) 34
/-- CW. -/
def dsCw (d : List Byte) : Nat := bitsOf (dsW0 d) 33 32
/-- SRC. -/
def dsSrc (d : List Byte) : Nat := fieldAt d 8 8
/-- DST_ADDR. -/
def dsAddr (d : List Byte) : Nat := fieldAt d 16 8
/-- CW_ADDR. -/
def dsCwAddr (d : List Byte) : Nat := fieldAt d 24 8
/-- CW_VALUE. -/
def dsCwVal (d : List Byte) : Nat := fieldAt d 32 8
/-- EXT_k. -/
def dsExt (d : List Byte) (k : Nat) : Nat := fieldAt d (40 + 8 * k) 4
/-- TILE_k. -/
def dsTile (d : List Byte) (k : Nat) : Nat := fieldAt d (44 + 8 * k) 4
/-- SSTRIDE_k; dimension 0 is contiguous. -/
def dsSS (d : List Byte) (k : Nat) : Int := if k = 0 then 1 else sextInt 48 (fieldAt d (80 + 12 * (k - 1)) 6)
/-- DSTRIDE_k. -/
def dsDS (d : List Byte) (k : Nat) : Int := if k = 0 then 1 else sextInt 48 (fieldAt d (86 + 12 * (k - 1)) 6)
/-- Port mask of a RIDE destination. -/
def dsMask (d : List Byte) : Nat := bitsOf (dsAddr d) 63 40
/-- Landing identifier of a RIDE destination. -/
def dsLand (d : List Byte) : Nat := bitsOf (dsAddr d) 39 24

/-- Whether the destination is in plates. -/
def dsPlate (d : List Byte) : Bool := decide (2 ≤ dsDst d) && decide (dsDst d ≤ 4)

/-- Tile extent in use (R199). -/
def dsTl (d : List Byte) (k : Nat) : Nat := min (dsTile d k) (dsExt d k)
/-- Tiles along a dimension. -/
def dsNt (d : List Byte) (k : Nat) : Nat := if dsTl d k = 0 then 0 else cdiv (dsExt d k) (dsTl d k)
/-- Product over the used dimensions. -/
def dsProd (d : List Byte) (f : Nat → Nat) : Nat := (List.range (dsNdim d)).foldl (fun a k => a * f k) 1
/-- Number of tiles. -/
def dsTiles (d : List Byte) : Nat := dsProd d (dsNt d)

/-- First index of tile `t` along dimension `k` (R199): dimension 0 varies fastest. -/
def tileLo (d : List Byte) (t k : Nat) : Nat :=
  (t / (List.range k).foldl (fun a j => a * dsNt d j) 1) % dsNt d k * dsTl d k
/-- Extent of tile `t` along dimension `k`, truncated at the upper edge. -/
def tileLen (d : List Byte) (t k : Nat) : Nat := min (dsTl d k) (dsExt d k - tileLo d t k)
/-- Rows of a tile: its elements of dimension 0 come in contiguous rows. -/
def tileRows (d : List Byte) (t : Nat) : Nat := (List.range (dsNdim d - 1)).foldl (fun a j => a * tileLen d t (j + 1)) 1
/-- Index of row `r` of tile `t` along dimension `k ≥ 1`. -/
def rowIdx (d : List Byte) (t r k : Nat) : Nat :=
  tileLo d t k + (r / (List.range (k - 1)).foldl (fun a j => a * tileLen d t (j + 1)) 1) % tileLen d t k
/-- Byte offset of a row under strides `f`. -/
def rowOff (d : List Byte) (f : Nat → Int) (t r : Nat) : Int :=
  (List.range (dsNdim d - 1)).foldl (fun a j => a + (rowIdx d t r (j + 1) : Int) * f (j + 1)) (tileLo d t 0 : Int)
/-- First source byte of a row. -/
def rowSrc (d : List Byte) (t r : Nat) : Nat := wrapInt 64 ((dsSrc d : Int) + rowOff d (dsSS d) t r)
/-- First destination byte of a row; a landing offset for RIDE. -/
def rowDst (d : List Byte) (t r : Nat) : Nat :=
  if dsDst d = 5 then wrapInt 24 (((bitsOf (dsAddr d) 23 0 : Nat) : Int) + rowOff d (dsDS d) t r)
  else wrapInt 64 ((dsAddr d : Int) + rowOff d (dsDS d) t r)

/-- Lowest and highest element of the walk at the destination, relative to DST_ADDR. -/
def walkSpan (d : List Byte) : Int × Int :=
  (List.range (dsNdim d)).foldl (fun a k =>
    let x := ((dsExt d k : Int) - 1) * dsDS d k
    (a.1 + min 0 x, a.2 + max 0 x)) (0, 0)

/-- A descriptor's own faults (R200): reserved fields, dimensions, tiles, and plate reach. -/
def dsMalformed (d : List Byte) : Bool :=
  let w := dsW0 d
  let nd := dsNdim d
  bitsOf w 63 60 != 0 || bitsOf w 31 0 != 0 || decide (1 < dsOp d) || decide (5 < dsDst d) || dsCw d == 3 ||
  nd == 0 || decide (5 < nd) || dsCwAddr d % 8 != 0 ||
  (List.range 5).any (fun k => decide (nd ≤ k) &&
    (dsExt d k != 0 || dsTile d k != 0 || (k != 0 && (dsSS d k != 0 || dsDS d k != 0)))) ||
  (List.range nd).any (fun k => dsTile d k == 0) ||
  decide (262144 < dsProd d (dsTl d)) || decide (2 ^ 32 < dsTiles d) ||
  (dsPlate d && dsTiles d != 0 &&
    (decide ((dsAddr d : Int) + (walkSpan d).1 < 0) || decide ((plateSize : Int) ≤ (dsAddr d : Int) + (walkSpan d).2))) ||
  (dsCw d == 2 && decide (plateSize < dsCwAddr d + 8))

/-- The cores a plate destination names (R198). -/
def dstCores (s : State) (d : List Byte) (comp : Nat) : List Nat :=
  match dsDst d with
  | 2 => (coreOfLogical s (dsGrove d) (dsLog d)).toList
  | 3 => groveServing s (dsGrove d)
  | 4 => compCores s comp
  | _ => []

/-- TARGET and the port mask (R200). -/
def dsTargetOk (s : State) (d : List Byte) (comp : Nat) : Bool :=
  match dsDst d with
  | 1 => dsLog d == 0 && inComp s comp (dsGrove d)
  | 2 => inComp s comp (dsGrove d) && (coreOfLogical s (dsGrove d) (dsLog d)).isSome
  | 3 => dsLog d == 0 && inComp s comp (dsGrove d)
  | 5 => dsGrove d == 0 && dsLog d == 0 && dsMask d != 0 && (maskPorts (dsMask d)).all (fun i => portMode s i == 1)
  | _ => dsGrove d == 0 && dsLog d == 0

/-- Whether a mover refuses a stream's descriptor (R200). -/
def streamInvalid (s : State) (st : Stream) : Bool :=
  dsMalformed st.desc || !dsTargetOk s st.desc st.comp || (dsCw st.desc == 2 && st.core.isNone && !dsPlate st.desc)

/-- Replaces the stream a mover runs. -/
def streamPut (s : State) (m : Nat) (f : Stream → Stream) : State :=
  let v := moverGet s m
  moverSet s m { v with cur := v.cur.map f }

/-- A fault record's 64 bytes with PHASE clear (R223). -/
def faultRecord (s : State) (m : Nat) (st : Stream) (cause va level side tile ent : Nat) (info : Bool) : List Byte :=
  words [cause * 2 ^ 52 + m * 2 ^ 44 + st.ctx * 2 ^ 24 + st.q * 2 ^ 14,
    st.seq * 2 ^ 49 + bnat st.core.isSome * 2 ^ 48 + bnat info * 2 ^ 47 + st.root * 2 ^ 36 + st.core.getD 0xFFF * 2 ^ 24,
    va, level * 2 ^ 33 + side * 2 ^ 32 + tile % 2 ^ 32, ent, regGet s (0x42000 + 8 * st.root), 0, 0]

/-- Whether a cause awaits a response (R221). -/
def awaits (cause : Nat) : Bool := decide (1 ≤ cause) && decide (cause ≤ 5)

/-- A stream faults (R219 to R225): its record is pending, and it stalls, or ends aborted once the record is written. -/
def streamFault (s : State) (m : Nat) (st : Stream) (cause va level side tile ent : Nat) : State :=
  let r : PendRec := ⟨m, st.sid, faultRecord s m st cause va level side tile ent (!awaits cause), awaits cause⟩
  let s := { s with xlt := { s.xlt with fqPend := s.xlt.fqPend ++ [r] } }
  streamPut s m (fun st => { st with st := .faulted, cause := cause, aborted := !awaits cause })

/-- How a page fails a check (R219, R221): cause, level and entry; zero when it passes. -/
def pageFault (r : XRes) (side : Nat) : Nat × Nat × Nat :=
  match r with
  | .range => (6, 0, 0)
  | .miss l e => (1, l, e)
  | .poisoned l e _ => (1, l, e)
  | .malformed l e => (4, l, e)
  | .denied l e => (5, l, e)
  | .leaf l =>
    let lv := if l.big then 2 else 3
    if paTier (ePage l.ent) = 3 then (6, lv, l.ent)
    else if side = 0 ∧ eR l.ent = false then (2, lv, l.ent)
    else if side = 1 ∧ eW l.ent = false then (3, lv, l.ent)
    else (0, lv, l.ent)

/-- The whole-tile check of one side: distinct pages, the first failing byte with its cause, level and entry, the leaves that
passed, and every leaf found. -/
structure SideChk where
  pages : List (Nat × Bool)
  fail : Option (Nat × Nat × Nat × Nat)
  leaves : List Leaf
  found : List Leaf
  deriving DecidableEq, Repr

/-- An empty check. -/
def sideChk0 : SideChk := ⟨[], none, [], []⟩

/-- A stream's translation (R216, R217): its prefetch buffer, the central cache, a walk. -/
def streamXlate (s : State) (st : Stream) (va : Nat) : XRes × State :=
  match st.pfb.find? (fun l => leafHit l st.root va) with
  | some l => if 2 ^ 52 ≤ va then (.range, s) else (.leaf l, s)
  | none => translate s st.root va

/-- Checks the page of one address (R219). -/
def checkPage (s : State) (st : Stream) (side va : Nat) (k : SideChk) : SideChk × State :=
  if k.leaves.any (fun l => leafHit l st.root va) then (k, s)
  else
    let r := streamXlate s st va
    let f := pageFault r.1 side
    let key := match r.1 with
      | .leaf l => (if l.big then l.page / 64 else l.page, l.big)
      | _ => (va / 2 ^ 26, false)
    let l := match r.1 with
      | .leaf l => [l]
      | _ => []
    (⟨if k.pages.contains key then k.pages else key :: k.pages,
      if f.1 ≠ 0 ∧ k.fail.isNone then some (f.1, va, f.2.1, f.2.2) else k.fail,
      if f.1 = 0 then l ++ k.leaves else k.leaves, l ++ k.found⟩, r.2)

/-- Checks one side of a tile (R219), rows in walk order. -/
def checkSide (s : State) (st : Stream) (side : Nat) : SideChk × State :=
  let d := st.desc
  let n := tileLen d st.tile 0
  (List.range (tileRows d st.tile)).foldl (fun (a : SideChk × State) r =>
    let b := if side = 0 then rowSrc d st.tile r else rowDst d st.tile r
    (List.range ((b + n - 1) / 2 ^ 26 - b / 2 ^ 26 + 1)).foldl (fun (a : SideChk × State) i =>
      checkPage a.2 st side (if i = 0 then b else (b / 2 ^ 26 + i) * 2 ^ 26) a.1) a) (sideChk0, s)

/-- Physical address and selector of an address a check has passed. -/
def checkedPA (k : SideChk) (root va : Nat) : Nat × Nat :=
  match k.leaves.find? (fun l => leafHit l root va) with
  | some l => (leafPA l va, eSel l.ent)
  | none => (0, 0)

/-- Bytes to the next boundary of `n`. -/
def toBound (a n : Nat) : Nat := n - a % n

/-- The transactions of one row (R203): each within one 256-byte-aligned range on both sides. For a RIDE stream each is one
cell's data, and so lies within one 1,024-byte range of the landing (R385). -/
def rowTxns (st : Stream) (a b : SideChk) (epoch : Nat) : Nat → Nat → Nat → Nat → List MvTxn
  | 0, _, _, _ => []
  | f + 1, src, dst, n =>
    if n = 0 then []
    else
      let d := st.desc
      let k := min n (toBound dst 256)
      let k := if dsOp d = 0 then min k (toBound src 256) else k
      let p := if dsOp d = 0 then checkedPA a st.root src else (dsSrc d, 0)
      let q := if dsDst d ≤ 1 then checkedPA b st.root dst else (dst, 0)
      let host := (dsOp d == 0 && paTier p.1 == 2) || (decide (dsDst d ≤ 1) && paTier q.1 == 2)
      ⟨st.tile, k, p.1, p.2, q.1, q.2, epoch, host⟩ :: rowTxns st a b epoch f (src + k) (dst + k) (n - k)

/-- The transactions of a checked tile. -/
def tileTxns (s : State) (st : Stream) (a b : SideChk) : List MvTxn :=
  let d := st.desc
  let n := tileLen d st.tile 0
  (List.range (tileRows d st.tile)).flatMap (fun r =>
    rowTxns st a b s.xlt.epoch (n + 1) (rowSrc d st.tile r) (rowDst d st.tile r) n)

/-- The pages of a later tile, prefetched (R217): leaves found enter the central cache and the stream's buffer. -/
def prefetchTile (s : State) (m : Nat) (st : Stream) (t : Nat) : State :=
  if dsTiles st.desc ≤ t then s
  else
    let st' := { st with tile := t }
    let a := if dsOp st.desc = 0 then checkSide s st' 0 else (sideChk0, s)
    let b := if dsDst st.desc ≤ 1 then checkSide a.2 st' 1 else (sideChk0, a.2)
    streamPut b.2 m (fun x => { x with pfb := dedup (x.pfb ++ a.1.found ++ b.1.found) })

/-- Prefetch depth of a stream (R217). -/
def pfDepth (s : State) (d : List Byte) : Nat := if dsPf d = 0 then regField s 0x40000 4 0 else dsPf d

/-- The check of a stream's next tile, and its issue (R203, R217, R219, R220). A tile with floor transactions issues when the host
pool has a credit (R24); its transactions issue as one. -/
def tileCheck (s : State) (m : Nat) (st : Stream) : State :=
  let d := st.desc
  let a := if dsOp d = 0 then checkSide s st 0 else (sideChk0, s)
  if 64 < a.1.pages.length then streamFault a.2 m st 7 0 0 0 st.tile 0
  else
    match a.1.fail with
    | some f => streamFault a.2 m st f.1 f.2.1 f.2.2.1 0 st.tile f.2.2.2
    | none =>
      let b := if dsDst d ≤ 1 then checkSide a.2 st 1 else (sideChk0, a.2)
      if 64 < b.1.pages.length then streamFault b.2 m st 7 0 0 1 st.tile 0
      else
        match b.1.fail with
        | some f => streamFault b.2 m st f.1 f.2.1 f.2.2.1 1 st.tile f.2.2.2
        | none =>
          let s := b.2
          let l := tileTxns s st a.1 b.1
          if l.any (fun x => x.host) && decide (regField s 0xB0000 14 0 ≤ hostUsed s) then s
          else
            let s := streamPut s m (fun x => { x with tile := x.tile + 1, txns := x.txns ++ l })
            (List.range (pfDepth s d)).foldl (fun s i =>
              match (moverGet s m).cur with
              | some x => prefetchTile s m x (st.tile + 1 + i)
              | none => s) s

/-- Lines of a byte range. -/
def rangeLines (a n : Nat) : List Nat := if n = 0 then [] else (List.range ((a + n - 1) / 64 - a / 64 + 1)).map (fun i => a / 64 + i)

/-- Whether an access of requester `src` to a line must wait: the line is held, leaving a slice, refused by its home (R287,
R288), or at the host while that is lost. -/
def agentWaits (s : State) (src sel line : Nat) (wr : Bool) : Bool :=
  lineHeld s sel line wr || lineLeaving s line || homeRefuses s src line || (lineTier line == 2 && s.host.hold)

/-- Whether a range must wait. -/
def rangeHeld (s : State) (src sel a n : Nat) (wr : Bool) : Bool := (rangeLines a n).any (fun l => agentWaits s src sel l wr)

/-- Lines of a range that wait: a home's refusal is counted as a NACK (R287), and a write to an understory page not yet
overwritten asks for its overwrite (R256). -/
def rangeAsk (s : State) (src a n : Nat) (wr : Bool) : State :=
  (rangeLines a n).foldl (fun s l =>
    let s := if wr then owWantLine s l else s
    if homeRefuses s src l then nackCount s src l (if wr then .wrInv else .rdS) else s) s

/-- Lines of a range that a home has accepted: NACK counts and reservations of the requester go (R287, R288). -/
def rangeTake (s : State) (src a n : Nat) : State :=
  (rangeLines a n).foldl (fun s l =>
    if (mshrOf s src l).isSome || s.coh.resv.contains (l, src) then homeAccept s src l else s) s

/-- A mover's read of a range (R289): RD_S through the grove's slice; the bytes, and a poison flag for each byte. -/
def moverRead (s : State) (g sel a n : Nat) : (List Byte × List Bool) × State :=
  (rangeLines a n).foldl (fun (x : (List Byte × List Bool) × State) l =>
    let r := cohReadS x.2 g sel l
    let lo := if l = a / 64 then a % 64 else 0
    let hi := min 64 (a + n - 64 * l)
    ((x.1.1 ++ ((r.1.1.take hi).drop lo), x.1.2 ++ List.replicate (hi - lo) r.1.2), r.2)) (([], []), s)

/-- How a write reaches its place (R289, R372): WR_HINT toward a slice, WR_INV, or for the floor an ordered posted write on a
link. -/
inductive WritePath where
  | hint (slice : Nat)
  | relaxed
  | ordered (link : Nat)
  deriving DecidableEq, Repr

/-- A mover's write of a range (R289, R372): a poisoned byte poisons its line. -/
def moverWrite (s : State) (t : WritePath) (sel a : Nat) (l : List Byte) (ps : List Bool) : State :=
  (rangeLines a l.length).foldl (fun s ln =>
    let lo := if ln = a / 64 then a % 64 else 0
    let o := 64 * ln + lo - a
    let n := min (64 - lo) (l.length - o)
    let data := List.replicate lo 0 ++ (l.drop o).take n
    let mask := (2 ^ n - 1) * 2 ^ lo
    let p := ((ps.drop o).take n).any (fun b => b)
    match t with
    | .hint t => cohHint s t sel ln mask data p
    | .relaxed => cohWrite s sel ln mask data p
    | .ordered k => if lineTier ln = 2 then cohWriteCore (emit (linkWake s k) (.posted k ln)) sel ln mask data p else cohWrite s sel ln mask data p) s

/-- A FILL's bytes (R201): byte (a mod 8) of the pattern at each address. -/
def fillBytes (pat a n : Nat) : List Byte := (List.range n).map (fun i => byteAt (leBytes 8 pat) ((a + i) % 8))

/-- Whether the X port refuses an access for now (R87, R88). The spec arbitrates banks cycle by cycle, and the model has no
cycles: an access is refused while a started tensor instruction reads or writes the same plate words, which R87 serves
first. DESIGN CHOICE (log 54). -/
def xRefused (k : Core) (a n : Nat) : Bool :=
  k.tq.any (fun e => e.started && rangesMeet (tPlateReads e ++ tPlateWrites e) [(a, n)])

/-- The X port's accesses of a write: one for each 64-byte plate word (R87). -/
def hintSplit (own : Nat) : Nat → Nat → List Byte → List Hint
  | 0, _, _ => []
  | f + 1, a, l => if l.isEmpty then [] else let n := 64 - a % 64; ⟨own, a, l.take n⟩ :: hintSplit own f (a + n) (l.drop n)

/-- Serves what the X port serves, in order (R88). -/
def hintPump (k : Core) : Core :=
  k.hints.foldl (fun k h =>
    if k.hints.head? = some h ∧ xRefused k h.addr h.data.length = false then
      { k with hints := k.hints.tail, a := platePut k.a h.addr h.data }
    else k) k

/-- A write that arrives from the fabric at the X port (R88), for landing `own` or none: its accesses are served behind those
that wait. -/
def hintArrive (k : Core) (own a : Nat) (l : List Byte) : Core := hintPump { k with hints := k.hints ++ hintSplit own (l.length + 1) a l }

/-- Whether the four-entry hint buffer holds what of a write the X port does not serve at once (R88). -/
def hintRoom (k : Core) (a n : Nat) : Bool := decide ((hintArrive k 0 a (List.replicate n 0)).hints.length ≤ 4)

/-- Whether the X port serves a write at once, so that its data is visible. -/
def hintServed (k : Core) (a n : Nat) : Bool := (hintArrive k 0 a (List.replicate n 0)).hints.isEmpty

/-- Whether a physical byte is a destination byte of a stream's copy into memory (R202): some row of some tile writes it. -/
def streamWrites (s : State) (st : Stream) (pa : Nat) : Bool :=
  let d := st.desc
  dsOp d == 0 && decide (dsDst d ≤ 1) && (List.range (dsTiles d)).any (fun t => (List.range (tileRows d t)).any (fun r =>
    let a := rowDst d t r
    let n := tileLen d t 0
    (List.range ((a + n - 1) / 2 ^ 26 - a / 2 ^ 26 + 1)).any (fun i =>
      let va := (a / 2 ^ 26 + i) * 2 ^ 26 + pa % 2 ^ 26
      decide (a ≤ va) && decide (va < a + n) && (match (streamXlate s st va).1 with | .leaf l => leafPA l va == pa | _ => false))))

/-- What a transaction reads (R202): a source byte that the stream also writes is a free value (log 67). -/
def overlapRead (s : State) (st : Stream) (x : MvTxn) (l : List Byte) : List Byte × State :=
  let hit := (List.range x.len).map (fun i => streamWrites s st (x.src + i))
  if hit.any (fun b => b) then
    let f := freeBytes s x.len
    ((List.range x.len).map (fun i => if hit.getD i false then byteAt f.1 i else byteAt l i), f.2)
  else (l, s)

/-- A stream's transaction is performed (R203, R206): data moves, and a poisoned line ends the stream. -/
def txnDo (s : State) (m : Nat) (st : Stream) (x : MvTxn) : State :=
  let d := st.desc
  let g := m / 4
  let r := if dsOp d = 0 then moverRead s g x.ssel x.src x.len
    else ((fillBytes x.src x.dst x.len, List.replicate x.len false), s)
  let o := overlapRead r.2 st x r.1.1
  let s := o.2
  let bytes := o.1
  let ps := r.1.2
  let bad := ps.any (fun b => b)
  let s := if bad then noteErr s (0x990 + m) 2 0 (x.src / 64 * 64) else s
  let s := match dsDst d with
    | 0 => moverWrite s (if st.ro then .relaxed else .ordered st.link) x.dsel x.dst bytes ps
    | 1 => moverWrite s (.hint (dsGrove d)) x.dsel x.dst bytes ps
    | 5 =>
      if bad then s
      else
        let tag := s.ride.nextTag
        let s := { s with ride := { s.ride with nextTag := (tag + 1) % 2 ^ 24, tiles := s.ride.tiles ++ [⟨tag % 65536, m, x.tile, dsMask d⟩] } }
        maskSend s (dsMask d) (x.dst / 1024) 2
          (leBytes 16 (dsLand d * 2 ^ 112 + period s st.comp * 2 ^ 96 + x.dst % 2 ^ 24 * 2 ^ 72 + tag % 65536 * 2 ^ 56) ++ bytes)
    | _ =>
      let z := (List.zip bytes ps).map (fun p => if p.2 then 0 else p.1)
      (dstCores s d st.comp).foldl (fun s c => coreMap s c (fun k => hintArrive k 0 x.dst z)) s
  let host := dsDst d == 0 && !st.ro && paTier x.dst == 2
  let s := streamPut s m (fun st =>
    let ts := st.txns.erase x
    { st with txns := ts, hw := st.hw || host,
              tdone := if ts.any (fun y => y.tile == x.tile) || dsDst d == 5 then st.tdone else st.tdone + 1 })
  if bad && !st.aborted then
    match (moverGet s m).cur with
    | some st' => streamFault s m st' 9 0 0 0 x.tile 0
    | none => s
  else s

/-- Requester number of a mover (R287). -/
def moverSrc (m : Nat) : Nat := 300 + m

/-- Whether a transaction can be performed now: its lines, a window of its RIDE class, and room at the plates. -/
def txnReady (s : State) (m : Nat) (st : Stream) (x : MvTxn) : Bool :=
  let d := st.desc
  !(dsOp d == 0 && rangeHeld s (moverSrc m) x.ssel x.src x.len false) &&
  !(decide (dsDst d ≤ 1) && rangeHeld s (moverSrc m) x.dsel x.dst x.len true) &&
  (!dsPlate d || (dstCores s d st.comp).all (fun c => hintRoom (coreGet s c) x.dst x.len))

/-- What a transaction that cannot be performed asks for. -/
def txnAsk (s : State) (m : Nat) (st : Stream) (x : MvTxn) : State :=
  let s := if dsOp st.desc = 0 then rangeAsk s (moverSrc m) x.src x.len false else s
  if dsDst st.desc ≤ 1 then rangeAsk s (moverSrc m) x.dst x.len true else s

/-- The homes have accepted a transaction's requests. -/
def txnTake (s : State) (m : Nat) (st : Stream) (x : MvTxn) : State :=
  let s := if dsOp st.desc = 0 then rangeTake s (moverSrc m) x.src x.len else s
  if dsDst st.desc ≤ 1 then rangeTake s (moverSrc m) x.dst x.len else s

/-- The cores in whose plates a completion word is written (R204). -/
def cwCores (s : State) (st : Stream) : List Nat := if dsPlate st.desc then dstCores s st.desc st.comp else st.core.toList

/-- Whether a completion word in plates finds room at the X ports (R88). -/
def cwRoom (s : State) (st : Stream) : Bool :=
  dsCw st.desc != 2 || (cwCores s st).all (fun c => hintRoom (coreGet s c) (dsCwAddr st.desc) 8)

/-- The completion word in plates (R204), through the X port behind what waits there. -/
def cwPlates (s : State) (st : Stream) (v : Nat) : State :=
  (cwCores s st).foldl (fun s c => coreMap s c (fun k => hintArrive k 0 (dsCwAddr st.desc) (leBytes 8 v))) s

/-- A mover's requests are gone with its stream (R287, R288). -/
def moverQuit (s : State) (m : Nat) : State :=
  { s with coh := { s.coh with
      mshr := s.coh.mshr.filter (fun x => x.slice != moverSrc m), resv := s.coh.resv.filter (fun p => p.2 != moverSrc m) } }

/-- Ends a mover's stream (R205, R330, R337): a MOVE completes; a LAUNCH remembers an aborted stream. -/
def streamEnd (s : State) (m : Nat) (st : Stream) : State :=
  let v := moverGet s m
  let s := moverQuit (moverSet s m { v with cur := none }) m
  let s := { s with ride := { s.ride with tiles := s.ride.tiles.filter (fun t => t.mover != m) } }
  match st.core with
  | some c =>
    { s with qsu := { s.qsu with launches := s.qsu.launches.map (fun l =>
      if l.cores.contains c then
        { l with streamAbort := l.streamAbort || st.aborted, links := if st.hw then setAdd st.link l.links else l.links }
      else l) } }
  | none => finish s (if st.hw then [st.link] else []) st.q st.idx (if st.aborted then 0x23 else 0)
      (m * 256 + (if st.aborted then st.cause else 0)) st.tdone

/-- The abort value of a completion word (R204). -/
def cwAbort : Nat := 2 ^ 64 - 1

/-- Writes an aborted stream's completion word (R204); a word that cannot be translated is not written, nor one at the floor in
HOLD (R376). -/
def cwOnAbort (s : State) (st : Stream) : State :=
  match dsCw st.desc with
  | 1 =>
    match translate s st.root (dsCwAddr st.desc) with
    | (.leaf l, s) =>
      if eW l.ent && decide (paTier (ePage l.ent) < 3) && dsCwAddr st.desc % 8 == 0 && (paTier (ePage l.ent) != 2 || hostUp s) then
        paWrite s (eSel l.ent) (leafPA l (dsCwAddr st.desc)) (leBytes 8 cwAbort)
      else s
    | (_, s) => s
  | 2 => if dsCwAddr st.desc + 8 ≤ plateSize then cwPlates s st cwAbort else s
  | _ => s

/-- Whether what a stream has issued is done and visible (R204): no transaction, no tile cell and no hint outstanding. -/
def streamDrained (s : State) (m : Nat) (st : Stream) : Bool :=
  st.txns.isEmpty && !s.ride.tiles.any (fun t => t.mover == m) &&
  (!dsPlate st.desc || (dstCores s st.desc st.comp).all (fun c => (coreGet s c).hints.isEmpty))

/-- A stream completes (R204): its completion word, then its end. A word that cannot be translated faults the stream; one at
the floor in HOLD ends it aborted (R376). -/
def streamFinish (s : State) (m : Nat) (st : Stream) : State :=
  let d := st.desc
  match dsCw d with
  | 1 =>
    match translate s st.root (dsCwAddr d) with
    | (r, s) =>
      let f := pageFault r 1
      if f.1 = 6 then streamPut (streamFault s m st 6 (dsCwAddr d) f.2.1 1 (dsTiles d) f.2.2) m (fun x => { x with cwf := true })
      else if f.1 ≠ 0 then streamPut (streamFault s m st f.1 (dsCwAddr d) f.2.1 1 (dsTiles d) f.2.2) m (fun x => { x with cwf := true })
      else
        match r with
        | .leaf l =>
          let pa := leafPA l (dsCwAddr d)
          if paTier pa = 2 ∧ hostUp s = false then streamPut s m (fun x => { x with st := .done, aborted := true })
          else if rangeHeld s (moverSrc m) (eSel l.ent) pa 8 true then rangeAsk s (moverSrc m) pa 8 true
          else
            streamEnd (moverWrite s (.ordered st.link) (eSel l.ent) pa (leBytes 8 (dsCwVal d)) (List.replicate 8 false)) m
              { st with hw := st.hw || paTier pa == 2 }
        | _ => s
  | 2 => if cwRoom s st then streamEnd (cwPlates s st (dsCwVal d)) m st else s
  | _ => streamEnd s m st

/-- A stream that has ended aborted, its record written (R204, R225). -/
def streamAbortEnd (s : State) (m : Nat) (st : Stream) : State :=
  if st.cwf then streamEnd s m st else if cwRoom s st then streamEnd (cwOnAbort s st) m st else s

/-- A mover's stream ends aborted by a block reset or a fencing (R444, R449): POISONED, its transactions dropped. -/
def streamReset (s : State) (m : Nat) : State :=
  match (moverGet s m).cur with
  | none => s
  | some st =>
    if st.aborted || decide (st.st = .cut) then streamPut s m (fun x => { x with txns := [] })
    else
      let s := streamPut s m (fun x => { x with txns := [] })
      streamFault s m st 9 0 0 0 st.tile 0

/-- A new stream from a descriptor. -/
def newStream (s : State) (desc : List Byte) (q idx : Nat) (core : Option Nat) (root comp seq ctx : Nat) (ro : Bool) : Stream × State :=
  ({ sid := s.sidn, desc := desc, q := q, idx := idx, core := core, root := root, comp := comp, seq := seq, ctx := ctx, ro := ro,
     tile := 0, tdone := 0, txns := [], st := .running, cause := 0, aborted := false, hw := false, link := 0, cwf := false, pfb := [] },
   { s with sidn := s.sidn + 1 })

/-- Hands a stream to a mover, where it waits to be accepted. -/
def streamGive (s : State) (m : Nat) (st : Stream) : State :=
  let v := moverGet s m
  moverSet s m { v with waiting := v.waiting ++ [st] }

/-- The mover a numbered selection reaches (R172, R449): itself, or a serving mover of its grove. -/
def moverPick (s : State) (m : Nat) : Option Nat := if moverServing s m then some m else freestMover s (groveMovers s (m / 4))

/-- MVI offers its descriptor, read from the plate, to a mover (R172); it starts when the mover accepts it, and so keeps later
entries from starting (R83). With every mover of the grove fenced it completes at once, its stream aborted with
DESC_INVALID. -/
def mviStart (s : State) (c : Nat) (e : TEntry) : State :=
  let k := coreGet s c
  let g := groveOf c
  let desc := plateGet k.a (tOp e 0 / 128 * 128) 128
  let cd := match launchOf s c with
    | some l => (l.comp, match runOf s l.q l.idx with | some r => r.desc | none => [])
    | none => (compOfGrove s g, [])
  let n := newStream s desc k.lq 0 (some c) k.root cd.1 k.lseq (dCtx cd.2) (bitOf (dHead cd.2) 39 && dsRo desc)
  let s := n.2
  let m := 4 * g + bitsOf e.w 37 36
  match (if bitOf e.w 35 then freestMover s (groveMovers s g) else moverPick s m) with
  | some x => streamGive (coreMap s c (fun k => { k with tq := k.tq.map (fun y => if y.id = e.id then { y with prog := 1 } else y) })) x n.1
  | none =>
    let s := coreMap s c (fun k => { k with tq := k.tq.filter (fun y => y.id != e.id) })
    let r : PendRec := ⟨m, n.1.sid, faultRecord s m n.1 8 0 0 0 0 0 true, false⟩
    let s := { s with xlt := { s.xlt with fqPend := s.xlt.fqPend ++ [r] } }
    let s := if cwRoom s n.1 then cwOnAbort s n.1 else s
    { s with qsu := { s.qsu with launches := s.qsu.launches.map (fun l => if l.cores.contains c then { l with streamAbort := true } else l) } }

/-- A mover accepts its next waiting stream (R200, R372): it keeps a link, and an invalid descriptor ends it at once, without
its completion word: R200's "writes nothing" covers it. DEDUCED (log 55). The issuing core's MVI completes (R172). -/
def moverTake (s : State) (m : Nat) : State :=
  let v := moverGet s m
  match v.cur, v.waiting with
  | none, st :: r =>
    let st := { st with link := moverLink s m }
    let s := moverSet s m { cur := some st, waiting := r }
    let s := match st.core with
      | some c => coreMap s c (fun k => match k.tq.find? (fun e => tUnit e.w == 5 && e.prog == 1) with
          | some e => { k with tq := k.tq.filter (fun y => y.id != e.id) }
          | none => k)
      | none => s
    if streamInvalid s st then streamPut (streamFault s m st 8 0 0 0 0 0) m (fun x => { x with cwf := true }) else s
  | _, _ => s

end Sys2Proof.Machine
end

