-- ==== Sys2Proof/Machine/Issue.lean ====
section
/-! DEFINITION. Issue (R79 to R84, R111 to R129, R139 to R145, R299 to R306): bundles are given slot by slot, hold in order, and issue as one whole; the tensor queue; exceptions; and how a core ends or stops. -/

namespace Sys2Proof.Machine

/-- Pairings within one bundle that are illegal (R129). -/
def pairLegal (b : Slots) : Bool :=
  let sw := b.sc.getD 0
  let vw := b.vec.getD 0
  let tw := b.ten.getD 0
  !meets (scWrites sw) (vSWrites vw) && !meets (scVWrites sw) (vWrites vw) &&
  (vOp tw != 18 || ((scOp sw == 19 || scOp sw == 23) && scWidth sw == 5))

/-- Bundle `i` of a core's instruction buffer (R123): 16 bytes at 16 × i, its scalar, vector and tensor slots in bits [31:0],
[79:32] and [127:80]. -/
def bundleAt (k : Core) (i : Nat) : Slots :=
  let b := leNat (tabBytes k.ibuf (16 * i) 16)
  ⟨some (bitsOf b 31 0), some (bitsOf b 79 32), some (bitsOf b 127 80)⟩

/-- Whether a bundle decodes (R126, R127, R129). -/
def bundleLegal (b : Slots) : Bool :=
  scLegal (b.sc.getD 0) && vLegal (b.vec.getD 0) && tLegal (b.ten.getD 0) && pairLegal b

/-- A slot value whose guard is true (R124), the all-zero slot otherwise. -/
def scAct (p : Arch) (b : Slots) : Nat := let w := b.sc.getD 0; if guardOk p (scG w) then w else 0
/-- The vector slot's. -/
def vAct (p : Arch) (b : Slots) : Nat := let w := b.vec.getD 0; if guardOk p (vG w) then w else 0
/-- The tensor slot's. -/
def tAct (p : Arch) (b : Slots) : Nat := let w := b.ten.getD 0; if guardOk p (vG w) then w else 0

/-- Whether a tensor slot value enters the tensor queue (R124, R539). -/
def tQueued (t : Nat) : Bool := vOp t != 0 && vOp t != 18

/-- Scalar registers that outstanding loads will write; s0 discards writes (R78), so it is not among them. -/
def pendS (k : Core) : List Nat :=
  k.loads.flatMap (fun l => match l.kind with
    | .pref => []
    | .wait => []
    | _ => (if l.width = 5 then [] else if l.width = 4 then [l.rd, l.rd + 1] else [l.rd]).filter (· != 0))

/-- Vector registers that outstanding loads and queued tensor instructions will write (R128). -/
def pendV (k : Core) : List Nat :=
  k.loads.flatMap (fun l => match l.kind with
    | .pref => []
    | .wait => []
    | _ => if l.width = 5 then [l.rd] else []) ++ k.tq.flatMap (fun e => tVWrites e.w)

/-- Whether a bundle's registers are ready (R79, R128). -/
def regsReady (k : Core) (sw vw tw : Nat) : Bool :=
  !meets (pendS k) (scReads sw ++ scWrites sw ++ vSReads vw ++ vSWrites vw ++ tSReads tw) &&
  !meets (pendV k) (scVReads sw ++ scVWrites sw ++ vReads vw ++ vWrites vw ++ tVReads tw ++ tVWrites tw)

/-- Plate ranges a vector instruction reads and writes. -/
def vPlateRead (p : Arch) (w : Nat) : List (Nat × Nat) :=
  if vOp w = 34 then (List.range 64).map (fun i => (gathAddr (sget p (vVc w)) (lane (vget p (vVa w)) i), 4)) else []
/-- Plate ranges a vector instruction writes. -/
def vPlateWrite (p : Arch) (w : Nat) : List (Nat × Nat) :=
  if vOp w = 35 then ((List.range 64).filter (fun i => scatOn p w i)).map (fun i =>
    (gathAddr (sget p (vVc w)) (lane (vget p (vVb w)) i), 4)) else []

/-- Whether queued tensor instructions leave the bundle's plate accesses free (R84). -/
def plateReady (k : Core) (sw vw : Nat) : Bool :=
  let rd := scPlateRead k.a sw :: vPlateRead k.a vw
  let wr := scPlateWrite k.a sw :: vPlateWrite k.a vw
  !k.tq.any (fun e => rangesMeet (tPlateWrites e) (rd ++ wr) || rangesMeet (tPlateReads e) wr)

/-- Whether an acquire load has not been performed (R299); one whose line came poisoned holds what is younger until it raises
POISONED_DATA (R317). -/
def acqBusy (k : Core) : Bool :=
  k.loads.any (fun l => decide (l.kind = .acq) && l.parts.any (fun p => match p.got with | none => true | some d => d.2))

/-- Whether a bundle accesses memory or the plate, or issues a chain or mover instruction (R299). -/
def touches (k : Core) (sw vw tw : Nat) : Bool :=
  (decide (18 ≤ scOp sw) && decide (scOp sw ≤ 27) && scOp sw != 25) || vOp vw == 34 || vOp vw == 35 ||
  tUnit tw == 4 || (tUnit tw == 5 && vOp tw == 15) ||
  (let e := tEntry k.a 0 tw 0 none; (tPlateReads e ++ tPlateWrites e).any (fun r => r.2 != 0))

/-- Stream a queued drain draws from. -/
def drnStream (e : TEntry) : Option Nat := if vOp e.w = 7 ∧ bitsOf e.w 22 21 = 2 then some (bitsOf (tOp e 2) 5 0) else none

/-- Streams a bundle's scalar and vector slots name (R145, R54). -/
def bundleStreams (sw vw : Nat) : List Nat :=
  (if 30 ≤ scOp sw ∧ scOp sw ≤ 32 then [bitsOf sw 5 0] else []) ++ (match vDraws vw with | some d => [d.1] | none => [])

/-- Whether queued instructions leave the bundle's streams and its tag free (R107, R145, R173). -/
def sideReady (k : Core) (sw vw tw : Nat) : Bool :=
  !k.tq.any (fun e => match drnStream e with | some n => (bundleStreams sw vw).contains n | none => false) &&
  (vOp tw != 18 || !k.tq.any (fun e => (tResReads e ++ tResWrites e).contains (200 + bitsOf tw 37 30)))

/-- Every condition of R79 that does not need a translation: registers, units, plate order, acquire, the flags' wait
(R144), and a free tensor-queue entry (R83). -/
def issueReady (k : Core) (sw vw tw : Nat) : Bool :=
  regsReady k sw vw tw && plateReady k sw vw && sideReady k sw vw tw && (!acqBusy k || !touches k sw vw tw) &&
  ((scOp sw != 28 && scOp sw != 29) || k.tq.isEmpty) && (!tQueued tw || decide (k.tq.length < 16))

/-- Discards the tensor-queue entries that `keep` does not keep, and their streams that wait at a mover. -/
def tDiscard (s : State) (c : Nat) (keep : TEntry → Bool) : State :=
  let k := coreGet s c
  let out := k.tq.filter (fun e => !keep e)
  if out.isEmpty then s
  else
    let s := coreSet s c { k with tq := k.tq.filter keep }
    if out.any (fun e => vOp e.w == 15) then
      moversMap s (fun _ m => { m with waiting := m.waiting.filter (fun st => st.core != some c) })
    else s

/-- A core stops issue at a bundle boundary (R113): nothing fetched is kept. -/
def haltIssue (k : Core) : Core :=
  { k with st := .stopping, fetched := [], latch := slots0, bar := 0, waitTry := false, waitOk := false, ended := false,
           loads := k.loads.filter (fun l => decide (l.kind ≠ .wait)) }

/-- A core stops issue for an exception or an abort (R116, R118), and its store buffer drains (R303). -/
def stopIssue (k : Core) : Core := sbDrainAll (haltIssue k)

/-- A core takes an exception (R115 to R117): only a running core records one; earlier bundles complete. -/
def raiseExc (s : State) (c cause bundle : Nat) : State :=
  let k := coreGet s c
  if k.st = .running then coreSet s c { stopIssue k with exc := cause, excB := bundle, rep := false } else s

/-- A core stops because of another core (R118): entries that have not started are discarded. One that the ramp has not started
records the cause with EXC_BUNDLE 0 and goes straight to STOPPED. One that has executed END and still drains has a bundle
boundary to stop at like any other: it records ABORTED, its unstarted entries are discarded, and it goes to STOPPED; one that
is IDLE already has stopped and stays so. R118 speaks of neither. DESIGN CHOICE (log 37). -/
def abortCore (s : State) (c cause bundle : Nat) : State :=
  let k := coreGet s c
  match k.st with
  | .running => tDiscard (coreSet s c { stopIssue k with exc := cause, excB := bundle, rep := true }) c (·.started)
  | .stopping => tDiscard s c (·.started)
  | .loading => coreSet s c { k with st := .stopped, exc := cause, excB := 0, rep := true }
  | _ => s

/-- The operand check of a tensor instruction at its start (R162, R171). -/
def tStartCheck (s : State) (c : Nat) (e : TEntry) : Nat :=
  let x := tCheck (coreGet s c).a e
  if x ≠ 0 then x else if tUnit e.w = 4 ∧ chBound s c e = false then xcILLEGAL else 0

/-- Starts the next tensor instruction if it may start (R83, R84, R162): a failed check discards it and every later one. -/
def tStart (s : State) (c : Nat) : State :=
  let k := coreGet s c
  match k.tq.find? (fun e => !e.started) with
  | none => s
  | some e =>
    let before := k.tq.takeWhile (fun x => x.id != e.id)
    if before.any (fun o => tConflict o e) then s
    else
      let x := tStartCheck s c e
      if x ≠ 0 then raiseExc (tDiscard s c (fun y => before.contains y)) c x e.bundle
      else if tUnit e.w = 5 then (if e.prog = 0 then mviStart s c e else s)
      else coreSet s c { k with tq := k.tq.map (fun y => if y.id = e.id then { y with started := true } else y) }

/-- Starts every tensor instruction that may start. -/
def tStartAll (s : State) (c : Nat) : State := if (coreGet s c).tq.isEmpty then s else (List.range 16).foldl (fun s _ => tStart s c) s

/-- A stopping core abandons a chain receive that waits for words (R116, R118). -/
def abandonRecv (s : State) (c : Nat) : State :=
  let k := coreGet s c
  match chainRunning k with
  | some e =>
    if k.st = .stopping ∧ vOp e.w ≠ 12 ∧ e.prog < chCount e.w ∧ recvGet k (chSlot e.w) = [] then
      coreSet s c { k with tq := k.tq.filter (fun y => y.id != e.id) }
    else s
  | none => s

/-- A barrier's condition (R306). -/
def barMet (k : Core) : Bool :=
  let ld := loadsDone k
  let st := k.sb.isEmpty && !k.tq.any (fun e => vOp e.w == 15)
  match k.bar with
  | 0 => true
  | 1 => ld
  | 2 => st
  | 5 => true
  | _ => ld && st

/-- Ends a barrier whose condition holds. BAR.SYS first writes floor lines back, and holds until the host port has returned
their completions (R306, R307). -/
def barEnd (s : State) (c : Nat) : State :=
  let k := coreGet s c
  if k.bar = 0 then s
  else
    let s := if 4 ≤ k.bar then sysWriteBack s c else s
    if 4 ≤ k.bar ∧ !(coreGet s c).flines.isEmpty then s else coreMap s c (fun k => { k with bar := 0 })

/-- Whether a scalar slot's plate access is in range (R136). -/
def scPlateOk (p : Arch) (w : Nat) : Bool :=
  let r := if scOp w = 19 then scPlateWrite p w else scPlateRead p w
  r.2 == 0 || plateOk r.1 r.2

/-- The counter and key a drain takes at issue when its bundle's vector slot draws from its stream, or its scalar slot
names it (R54, R125): the stream as it stood before the bundle. -/
def reserveFor (p : Arch) (sw vw tw : Nat) : Option (Nat × Nat) :=
  match drnStream (tEntry p 0 tw 0 none) with
  | some n => if (bundleStreams sw vw).contains n then some ((stipGet p n).ctr, (stipGet p n).key) else none
  | none => none

/-- Draws a bundle's drain takes before its vector slot's, which draws from the same stream (R54). -/
def drawsFirst (p : Arch) (vw tw : Nat) : Nat :=
  match drnStream (tEntry p 0 tw 0 none), vDraws vw with
  | some n, some d => if n = d.1 then drnDraws tw (tRows tw).2 else 0
  | _, _ => 0

/-- The register effect of a bundle's scalar and vector slots, and of SRT (R125, R129). The vector slot's draws follow the
drain's of its bundle (R54). The spec does not say how SPK or SPC stands to the draws of its own bundle: the drain and the
vector slot draw with the key and counter the stream held before the bundle, as R125's reads do, and each draw then adds
one to the counter the write left. DESIGN CHOICE (log 50). -/
def bundleEffect (pc : Nat) (p : Arch) (sw vw tw : Nat) : Arch :=
  let a := scEffect pc p sw p
  let c0 := match vDraws vw with | some d => (stipGet p d.1).ctr | none => 0
  let a := vEffect ((c0 + drawsFirst p vw tw) % 2 ^ 128) p vw a
  let a := scLate p sw a
  if vOp tw = 18 ∧ (scOp sw = 19 ∨ scOp sw = 23) then effSrt tw (vget p (scRd sw)) a else a

/-- The tensor-queue entry a bundle adds. -/
def bundleEntry (k : Core) (sw vw tw : Nat) : List TEntry :=
  if tQueued tw then [tEntry k.a k.tqn tw k.pc (reserveFor k.a sw vw tw)] else []

/-- The kind of load of a scalar opcode (R137). -/
def loadKind (op : Nat) : LoadKind := if op = 21 then .acq else if op = 22 then .nc else .plain

/-- A bundle issues: every slot takes effect, and the core goes on to the next bundle (R79, R80, R125, R134). -/
def issueBundle (s : State) (c sw vw tw : Nat) (lf : Option Leaf) : State :=
  let k := coreGet s c
  let p := k.a
  let npc := (scTarget p sw).getD (k.pc + 1)
  let fin := scOp sw == 63
  let k' := { k with a := bundleEffect k.pc p sw vw tw, pc := npc, fetched := k.fetched.tail, tq := k.tq ++ bundleEntry k sw vw tw,
                     tqn := k.tqn + (bundleEntry k sw vw tw).length, waitTry := false, waitOk := false, ended := fin,
                     bar := if scOp sw = 25 then scFn sw + 1 else 0 }
  let s := coreSet s c (if scOp sw = 25 ∨ fin then sbDrainAll k' else k')
  let va := (smAddr p sw).toNat
  let s := match lf with
    | none => s
    | some l =>
      if scIsLoad sw then
        startLoad s c (loadKind (scOp sw)) (scRd sw) (scWidth sw) (scX sw) va k.pc l
      else if scIsStore sw then
        coreMap s c (fun x => sbPut x (leafPA l va) (eSel l.ent) s.xlt.epoch k.pc (storeBytes p (scWidth sw) (scRd sw)) (scOp sw == 24))
      else s
  if fin || decide (npc < k.klen) then s else raiseExc s c xcIBUF k.pc

/-- The first bundle a core holds issues if it may; else it raises its exception or goes on holding (R79, R116, R139,
R140, R142). -/
def tryIssue (s : State) (c : Nat) : State :=
  let k := coreGet s c
  match k.fetched with
  | [] => s
  | b :: _ =>
    if k.st ≠ .running || k.ended || !barMet k then s
    else
      let s := barEnd s c
      let k := coreGet s c
      if k.bar ≠ 0 then s else
      let p := k.a
      let sw := scAct p b
      let vw := vAct p b
      let tw := tAct p b
      let op := scOp sw
      if !bundleLegal b then raiseExc s c xcILLEGAL k.pc
      else if !issueReady k sw vw tw then s
      else if op = 62 then raiseExc s c xcTRAP k.pc
      else if !scPlateOk p sw || !vPlateOk p vw then raiseExc s c xcPLATE k.pc
      else if op = 26 then
        (if k.waitOk || decide ((sget p (scRs2 sw)).toNat ≤ leNat (plateGet p (scPlateRead p sw).1 8)) && !k.waitTry then
           issueBundle s c sw vw tw none
         else coreMap s c (fun k => { k with waitTry := true }))
      else if op = 27 then
        (if k.waitOk then issueBundle s c sw vw tw none
         else if k.waitTry then s
         else
           let va := (sget p (scRs1 sw)).toNat
           match memCheck s c va 8 false with
           | (0, some l, s) =>
             if creditOk s c .wait (leafPA l va) 8 then startLoad (coreMap s c (fun k => { k with waitTry := true })) c .wait 0 3 false va k.pc l
             else s
           | (x, _, s) => raiseExc s c x k.pc)
      else if scIsMem sw then
        let va := (smAddr p sw).toNat
        match memCheck s c va (smSize (scWidth sw)) (scIsStore sw) with
        | (0, some l, s) =>
          let k := coreGet s c
          if scIsStore sw ∧ 16 < k.sb.length + sbNeed k (leafPA l va) (storeBytes p (scWidth sw) (scRd sw)) (op == 24) then s
          else if scIsLoad sw ∧ creditOk s c (loadKind op) (leafPA l va) (smSize (scWidth sw)) = false then s
          else issueBundle s c sw vw tw (some l)
        | (x, _, s) => raiseExc s c x k.pc
      else issueBundle s c sw vw tw none

/-- A core that has executed END, or is stopping, reaches IDLE or STOPPED once its queue and its buffers are empty (R112,
R113, R116, R143). -/
def coreFinish (s : State) (c : Nat) : State :=
  let k := coreGet s c
  if (k.st = .stopping ∨ (k.st = .running ∧ k.ended)) ∧ k.tq.isEmpty ∧ k.sb.isEmpty ∧ k.loads.all (fun l => decide (l.kind = .pref)) then
    coreSet s c { k with st := if k.st = .stopping ∧ k.exc ≠ 0 then .stopped else .idle, ended := false, loads := [], latch := slots0,
                         fetched := [], lastNf := k.a.nflags }
  else s

/-- One round of a core's work: tensor starts, chain words, hints, loads, stores, and the next bundle. -/
def pumpStep (s : State) (c : Nat) : State :=
  let s := tStartAll s c
  let s := abandonRecv (chainTurn 2400 s c) c
  let s := if (coreGet s c).hints.isEmpty then s else coreMap s c hintPump
  let s := sendLoads s c
  let s := drainSb s c
  tryIssue s c

/-- Rounds until no bundle issues. -/
def pumpLoop : Nat → State → Nat → State
  | 0, s, _ => s
  | n + 1, s, c =>
    let t := pumpStep s c
    if (coreGet t c).fetched = (coreGet s c).fetched then t else pumpLoop n t c

/-- A core goes on as far as it can. -/
def pumpCore (s : State) (c : Nat) : State :=
  let s := pumpLoop ((coreGet s c).fetched.length + 1) s c
  coreFinish (tStartAll s c) c

/-- The cores of a list go on. -/
def pumpCores (s : State) (l : List Nat) : State := l.foldl pumpCore s

/-- Every core that runs or stops goes on. -/
def pumpAll (s : State) : State :=
  pumpCores s ((s.cores.filter (fun p => decide (p.2.st = .running ∨ p.2.st = .stopping))).map (·.1))

/-- A slot kind. -/
inductive SlotKind where
  | sc | vec | ten
  deriving DecidableEq, Repr

/-- Adds a slot to a bundle. -/
def slotPut (b : Slots) (k : SlotKind) (w : Nat) : Slots :=
  match k with
  | .sc => { b with sc := some w }
  | .vec => { b with vec := some w }
  | .ten => { b with ten := some w }

/-- A slot value from its opcode and its bits below (R124, R130, R146, R161). -/
def slotWord (n op : Nat) (f : BitVec n) : Nat := op * 2 ^ n + f.toNat

/-- A core is given a slot of its next bundle; with the last, the bundle joins those that hold in issue (R79, R123). A core
that is not running, or has executed END, issues nothing. -/
def latchSlot (k : Core) (kind : SlotKind) (w : Nat) (last : Bool) : Core :=
  if k.st ≠ .running || k.ended then k
  else
    let b := slotPut k.latch kind w
    if last then { k with latch := slots0, fetched := k.fetched ++ [b] } else { k with latch := b }

/-- A core instruction: the slot is given, and a complete bundle issues when it can. -/
def giveSlot (s : State) (h : Hdr) (kind : SlotKind) (w : Nat) : State :=
  let s := coreSet s h.core (latchSlot (coreGet s h.core) kind w h.last)
  if h.last then pumpCore s h.core else s

/-- A started tensor instruction completes (R83): its effect is made and its unit is free. A chain instruction completes
when all its words are done; MVI when its mover accepts it. -/
def tensorDone (s : State) (c unit : Nat) : State :=
  let k := coreGet s c
  match k.tq.find? (fun e => tUnit e.w == unit && e.started) with
  | none => s
  | some e =>
    if unit = 5 ∨ (unit = 4 ∧ e.prog < chCount e.w) then s
    else pumpCore (coreSet s c { k with tq := k.tq.filter (fun y => y.id != e.id), a := tEffect e k.a }) c

/-- The first exception of a LAUNCH reaches the launch controller (R118, R119): it aborts the LAUNCH on its other cores. -/
def excReport (s : State) (c : Nat) : State :=
  let k := coreGet s c
  if k.exc = 0 || k.rep then s
  else
    let s := coreSet s c { k with rep := true }
    match launchOf s c with
    | none => s
    | some l =>
      if l.cut || l.first.isSome then s
      else
        let s := { s with qsu := { s.qsu with launches := s.qsu.launches.map (fun x =>
          if x.cores.contains c then { x with first := some (k.exc, c, k.excB) } else x) } }
        let s := l.cores.foldl (fun s d =>
          if d = c then s
          else let f := drawFree s; if (coreGet s d).st = .running then abortCore f.2 d xcABORT (f.1 % 2048) else abortCore s d xcABORT 0) s
        pumpCores s l.cores

end Sys2Proof.Machine
end

