-- ==== Sys2Proof/Machine/Reset.lean ====
section
/-! DEFINITION. Resets that reach the complex (R496, R497, R518): what each leaves and what survives it. -/

namespace Sys2Proof.Machine

/-- BAR0 offset of a fault record (R437). -/
def frOff (i : Nat) : Nat := 0x100000 + 0x100 * i

/-- The registers after a reset of a cause (R496, R497, R518): DEV_RESET_CAUSE, and for DEVICE_RESET the causing record's
fields and the asserted pin. -/
def resetRegs (s : State) (cause rec : Nat) : Tab W64 :=
  let after := cause != 1 && (mode s == 5 || (!s.life.released && regField s 0x20030 8 8 == 1))
  let t := tabSet regReset [] 0x20030 (BitVec.ofNat 64 (cause + bnat after * 256 + (if cause = 4 then rec * 4096 else 0)))
  if cause = 4 then
    let keep := [0, 8, 0x10, 0x18]
    let t := keep.foldl (fun t o => tabSet regReset t (frOff rec + o) (BitVec.ofNat 64 (regGet s (frOff rec + o)))) t
    tabSet regReset t 0x1F0800 (BitVec.ofNat 64 (2 ^ 31 + rec))
  else t

/-- A reset that reaches the complex (R255, R496, R497): registers and engines take their reset state, every key slot is
emptied, the life cycle's fuses survive, and so do the entries of the disturbance log until power is lost (R404). What the memories and plates hold stays until the wipe writes it; the floor is
the host's. -/
def complexReset (s : State) (cause rec : Nat) : State :=
  { State.reset with
    pending := s.pending
    cores := s.cores.foldl (fun t p => tabSet (fun _ => core0) t p.1 { core0 with a := { arch0 with plate := p.2.a.plate } }) []
    tiers := { tiers0 with bytes := s.tiers.bytes, enc := s.tiers.enc, poison := s.tiers.poison }
    pwr := { pwr0 with log := if cause = 1 then [] else s.pwr.log }
    life := { life0 with lc := s.life.lc, minSvn := s.life.minSvn, spares := s.life.spares }
    flt := { flt0 with pinHeld := cause == 4 }
    regs := resetRegs s cause rec
    sidn := s.sidn
    out := s.out
    free := s.free }

/-- The state of the complex once its feed has gone (R425): every tier but the floor and every plate is lost, and nothing
runs until a POWER_ON reset. -/
def powerGone (s : State) : State :=
  { State.reset with
    pending := s.pending
    tiers := { tiers0 with bytes := s.tiers.bytes.filter (fun p => p.1 / 2 ^ 44 == 2), poison := s.tiers.poison.filter (fun l => lineTier l == 2) }
    life := { life0 with on := false, lc := s.life.lc, minSvn := s.life.minSvn, spares := s.life.spares }
    sidn := s.sidn
    out := s.out
    free := s.free }

end Sys2Proof.Machine
end

