-- ==== Sys2Proof/Machine/RideOps.lean ====
section
/-! DEFINITION. The ride ports above the link layer (R341, R387 to R394, R251): windows, fences, landings, cells that wait, and ports that fail. -/

namespace Sys2Proof.Machine

/-- Fields of RIDE_STATS_i: STALE [63:48], REPLAYS [47:32], RESENT [31:16], REFUSED [15:0] (R402). -/
def rideCount (s : State) (i lo n : Nat) : State := regCount s (0x80018 + 0x800 * i) (lo + 15) lo n

/-- GiB of one proof slot (R253). -/
def slotGib (s : State) : Nat := min 768 (regField s 0x50028 9 0)

/-- Whether 64 GiB from a base (PA[45:30]) make a valid window under a selector (R251). -/
def winValid (s : State) (base sel : Nat) : Bool :=
  let t := base / 2 ^ 14
  let g := base % 2 ^ 14
  (t == 0 && decide (g + 64 ≤ 1152) || t == 1 && decide (g + 64 ≤ 3072 - 2 * slotGib s)) && (sel == 0 || !selEmpty s sel)

/-- Whether this device serves remote accesses that arrive on a port (R393). RIDE_RWIN's validity is judged at enable. -/
def remoteServed (s : State) (i : Nat) : Bool :=
  bitOf (regGet s 0x8C008) 57 && s.ride.rwinOk && bitOf (regGet s (0x80000 + 0x800 * i)) 8

/-- PA and selector of a remote window offset. -/
def remotePA (s : State) (w : Nat) : Nat × Nat := (regField s 0x8C008 45 30 * 2 ^ 30 + w, regField s 0x8C008 63 58)

/-- A floor line at the host agent for an update there (R285, R342): unless a slice holds it in M, the agent obtains it with
RdOwn, and the sharers lose it. -/
def floorOwn (s : State) (line : Nat) : State :=
  if hostSt s line = 2 then s else hostStPut (dirPut (dropAll (d2h s 2 line) line) line dir0) line 2

/-- The atomic maximum on a fence (R341, R342): result (0 OK, 1 REGRESS, 2 SATURATED), the value met, and the state. It is made at
the line's home; a floor line that the agent has obtained goes back to the host. -/
def fenceMax (s : State) (sel pa v : Nat) : Nat × Nat × State :=
  let line := pa / 64
  let cur := leNat (paRead s sel pa 8).1
  let floor := decide (lineTier line = 2)
  let s := if floor then floorOwn s line else biasSnoop s 2 line
  if cur < v then
    let s := cohWriteCore s sel line ((2 ^ 8 - 1) * 2 ^ (pa % 64)) (List.replicate (pa % 64) 0 ++ leBytes 8 v) false
    (if v = 2 ^ 64 - 1 then 2 else 0, cur, if floor then dirtyEvict s line else s)
  else
    (if v = cur then 0 else 1, cur,
      if floor && decide ((dirGet s line).st ≠ 2) then d2h (hostStPut s line 0) 5 line else s)

/-- Requester number of a ride port (R287). -/
def rideSrc (i : Nat) : Nat := 600 + i

/-- Requester number of the queue engines and the walkers (R287). -/
def qsuSrc : Nat := 200

/-- A read of a running WAIT (R343): it completes at or above its target, when its fence cannot be read, and at once on a
fence that is not of this device. A fence whose line is held is read again at the next poll. -/
def waitRead (s : State) (q : Nat) (r : RunCmd) : State :=
  let k := queueGet s q
  match translate s k.root (dWord r.desc 1) with
  | (.leaf l, s) =>
    let pa := leafPA l (dWord r.desc 1)
    if !eR l.ent then finishNow s q r.idx 0x03 0 0
    else if paTier pa = 3 then finishNow s q r.idx (if (devTarget pa).1 = 2 then 0x07 else 0x03) 0 0
    else if rangeHeld s qsuSrc (eSel l.ent) pa 8 false then rangeAsk s qsuSrc pa 8 false
    else
      let s := readNotes (rangeTake s qsuSrc pa 8) pa 8
      let v := leNat (paRead s (eSel l.ent) pa 8).1
      if dWord r.desc 2 ≤ v then finishNow s q r.idx 0 v 0 else s
  | (_, s) => finishNow s q r.idx 0x03 0 0

/-- The running WAITs of a queue. -/
def waitsOf (s : State) (q : Nat) : List RunCmd := (queueGet s q).run.filter (fun r => dCmd r.desc == 4)

/-- The fence's physical address under a running WAIT, if it has one. -/
def waitPA (s : State) (q : Nat) (r : RunCmd) : Option Nat :=
  match (translate s (queueGet s q).root (dWord r.desc 1)).1 with
  | .leaf l => some (leafPA l (dWord r.desc 1))
  | _ => none

/-- After an update of a fence, every WAIT on it reads it (R343). -/
def waitSweep (s : State) (pa : Nat) : State :=
  s.qsu.queues.foldl (fun s p => (waitsOf s p.1).foldl (fun s r => if waitPA s p.1 r = some pa then waitRead s p.1 r else s) s) s

/-- The landing-table entry of an identifier (R390). -/
def landEntry (s : State) (id : Nat) : Option (List Nat) := (s.ride.land.find? (fun p => p.1 == id)).map (·.2)

/-- Fields of a landing entry (R390). -/
def leKind (e : List Nat) : Nat := bitsOf (e.getD 0 0) 62 60
/-- COMPARTMENT. -/
def leComp (e : List Nat) : Nat := bitsOf (e.getD 0 0) 59 54
/-- TARGET's grove or slice. -/
def leGrove (e : List Nat) : Nat := bitsOf (e.getD 0 0) 53 48
/-- TARGET's logical index. -/
def leLog (e : List Nat) : Nat := bitsOf (e.getD 0 0) 47 42
/-- KEY_SEL. -/
def leSel (e : List Nat) : Nat := bitsOf (e.getD 0 0) 41 36

/-- Destination cores of a plate landing (R391). -/
def leCores (s : State) (e : List Nat) : List Nat :=
  match leKind e with
  | 2 => (coreOfLogical s (leGrove e) (leLog e)).toList
  | 3 => groveServing s (leGrove e)
  | 4 => compCores s (leComp e)
  | _ => []

/-- Header fields of a TILE cell (R385). -/
def tlHead (d : List Byte) : Nat := fieldAt d 0 16
/-- Data bytes of a TILE cell. -/
def tlData (d : List Byte) : List Byte := d.drop 16

/-- Depth of the ride and ranger pool (R23, R402). -/
def poolDepth (s : State) : Nat := max 256 (regField s 0x8C020 16 0)

/-- Whether ARRIVED of an entry lies in plates. -/
def leArrPlate (e : List Nat) : Bool := bitOf (e.getD 0 0) 35
/-- Whether ARRIVED of an entry is kept. -/
def leArr (e : List Nat) : Bool := bitOf (e.getD 0 0) 34

/-- Whether ARRIVED's canopy line must wait. -/
def arrHeld (s : State) (i : Nat) (e : List Nat) : Bool := leArr e && !leArrPlate e && rangeHeld s (rideSrc i) (leSel e) (e.getD 3 0) 8 true

/-- Where a TILE cell stands (R386, R391): 0 lands, 1 refused, 2 stale, 3 held. -/
def judgeTile (s : State) (i : Nat) (d : List Byte) : Nat :=
  let h := tlHead d
  match landEntry s (bitsOf h 127 112) with
  | none => 1
  | some e =>
    let dd := (bitsOf h 111 96 + 65536 - period s (leComp e)) % 65536
    if 32768 ≤ dd then 2
    else if dd ≠ 0 then 3
    else
      let n := (tlData d).length
      let o := bitsOf h 95 72
      let a := e.getD 1 0 + o
      if e.getD 2 0 % 2 ^ 25 < o + n then 1
      else if poolDepth s ≤ s.ride.lands.length then 3
      else if leKind e ≤ 1 then (if rangeHeld s (rideSrc i) (leSel e) a n true || arrHeld s i e then 3 else 0)
      else
        let cs := leCores s e
        if cs.isEmpty then 1 else if cs.all (fun c => hintRoom (coreGet s c) a n) then 0 else 3

/-- Returns an acknowledgement of a tile (R391). -/
def tileAck (s : State) (i tag status : Nat) : State := portSend s i 8 (leBytes 16 (tag + status * 2 ^ 16)) 0

/-- Adds to an arrival count in plates. -/
def plateAdd (s : State) (cs : List Nat) (a n : Nat) : State :=
  cs.foldl (fun s c => coreMap s c (fun k =>
    { k with a := platePut k.a a (leBytes 8 ((leNat (plateGet k.a a 8) + n) % 2 ^ 64)) })) s

/-- Whether a landing's ARRIVED can be counted (R391 step 4): its data is visible at every destination, and ARRIVED's place is
free. In plates the count passes the X port, behind what waits there. -/
def landVisible (s : State) (r : LandRun) (e : List Nat) : Bool :=
  !s.cores.any (fun p => p.2.hints.any (fun h => h.own == r.id)) && !arrHeld s r.port e &&
  (!(leArr e && leArrPlate e) ||
    (leCores s e).all (fun c => (coreGet s c).hints.isEmpty && !xRefused (coreGet s c) (e.getD 3 0) 8))

/-- Steps 4 and 5 of R391: ARRIVED, unless a tile sent again had landed, then LANDED. -/
def landFinish (s : State) (r : LandRun) (e : List Nat) : State :=
  let n := (tlData r.data).length
  let s :=
    if r.seen || !leArr e then s
    else if leArrPlate e then plateAdd s (leCores s e) (e.getD 3 0) n
    else
      let s := rangeTake s (rideSrc r.port) (e.getD 3 0) 8
      paWrite s (leSel e) (e.getD 3 0) (leBytes 8 ((leNat (paRead s (leSel e) (e.getD 3 0) 8).1 + n) % 2 ^ 64))
  tileAck s r.port (bitsOf (tlHead r.data) 71 56) 0

/-- The landings in progress whose data has become visible are finished (R391). -/
def landPump (s : State) : State :=
  s.ride.lands.foldl (fun s r =>
    match landEntry s (bitsOf (tlHead r.data) 127 112) with
    | some e =>
      if landVisible s r e then idleOut (landFinish { s with ride := { s.ride with lands := s.ride.lands.erase r } } r e) r.port else s
    | none => s) s

/-- A TILE cell lands (R289, R386, R388, R391): the data is written, and ARRIVED and LANDED follow once it is visible. A tile
sent again whose TAG has landed is written again and not counted. -/
def landTile (s : State) (i : Nat) (d : List Byte) (e : List Nat) : State :=
  let h := tlHead d
  let data := tlData d
  let a := e.getD 1 0 + bitsOf h 95 72
  let tag := bitsOf h 71 56
  let serial := (portGet s i).nserial
  let seen := bitOf h 55 && ((s.ride.landed.filter (fun p => p.1 == serial)).take 1024).any (fun p => p.2 == tag)
  let ps := List.replicate data.length false
  let r : LandRun := ⟨s.ride.nextLand + 1, i, d, seen⟩
  let s := { s with ride := { s.ride with nextLand := r.id } }
  let s := match leKind e with
    | 0 => moverWrite (rangeTake s (rideSrc i) a data.length) .relaxed (leSel e) a data ps
    | 1 => moverWrite (rangeTake s (rideSrc i) a data.length) (.hint (leGrove e)) (leSel e) a data ps
    | _ => (leCores s e).foldl (fun s c => coreMap s c (fun k => hintArrive k r.id a data)) s
  let s := { s with ride := { s.ride with landed := (serial, tag) :: s.ride.landed } }
  if landVisible s r e then landFinish s r e else { s with ride := { s.ride with lands := s.ride.lands ++ [r] } }

/-- Puts a TILE cell into effect (R391). -/
def takeTile (s : State) (i : Nat) (c : RCell) : State :=
  let h := tlHead c.data
  match judgeTile s i c.data with
  | 0 =>
    match landEntry s (bitsOf h 127 112) with
    | some e => freeCredit (landTile s i c.data e) i 2
    | none => s
  | 1 =>
    let s := rideCount s i 0 1
    let s := writeEvent s 0x72 i (bitsOf h 127 112 * 2 ^ 24 + bitsOf h 95 72) (portGet s i).nserial
    freeCredit (tileAck s i (bitsOf h 71 56) 1) i 2
  | 2 => freeCredit (tileAck (countStale s i) i (bitsOf h 71 56) 2) i 2
  | _ => let p := portGet s i; portSet s i { p with held := p.held ++ [c] }

/-- Payload of a FENCE_ACK (R385). -/
def fenceAckPayload (msg res v : Nat) : List Byte := leBytes 16 (msg * 2 ^ 100 + res * 2 ^ 64 + v)

/-- Whether a FENCE cell must wait (R392): tiles that arrived before it on the port and have not reached step 4, or a held
line. -/
def fenceWaits (s : State) (i : Nat) (d : List Byte) : Bool :=
  let p := remotePA s (bitsOf (fieldAt d 0 16) 99 64)
  (portGet s i).held.any (fun c => c.ty == 2 || c.ty == 3) || s.ride.lands.any (fun r => r.port == i) ||
    (remoteServed s i && rangeHeld s (rideSrc i) p.2 p.1 8 true)

/-- Records a fence message's result for its serial and MSGID, and answers it (R388). -/
def fenceAnswer (s : State) (i msg res v : Nat) : State :=
  portSend { s with ride := { s.ride with fences := ((portGet s i).nserial, msg, res, v) :: s.ride.fences } } i 4 (fenceAckPayload msg res v) 0

/-- A fence message is performed (R341, R342, R388, R393): once for each MSGID of a serial, the recorded result again. Its event
carries the sender's CONTEXT (R347), which no cell carries: it is the sender's own, `Config.senderContext` (log 40). -/
def takeFence (s : State) (i : Nat) (d : List Byte) : State :=
  let h := fieldAt d 0 16
  let msg := bitsOf h 127 100
  let v := bitsOf h 63 0
  let serial := (portGet s i).nserial
  match ((s.ride.fences.filter (fun f => f.1 == serial)).take 256).find? (fun f => f.2.1 == msg) with
  | some f => portSend s i 4 (fenceAckPayload msg f.2.2.1 f.2.2.2) 0
  | none =>
    if !remoteServed s i then fenceAnswer s i msg 3 0
    else
      let p := remotePA s (bitsOf h 99 64)
      let r := fenceMax (rangeTake s (rideSrc i) p.1 8) p.2 p.1 v
      let s := r.2.2
      let ctx := Config.senderContext serial msg % 2 ^ 20
      let s := if r.1 = 1 then writeEventQ s 0x05 1 0 0 ctx p.1 r.2.1 v
        else if r.1 = 2 then writeEventQ s 0x06 1 0 0 ctx p.1 0 0 else s
      fenceAnswer (waitSweep s p.1) i msg r.1 r.2.1

/-- The bytes of the topology page (R354). -/
def topoBytes (s : State) (o n : Nat) : List Byte :=
  if 0x10000 < o + n then List.replicate n 0 else (leBytes 8 (topoWord s (o / 8 * 8))).drop (o % 8) |>.take n

/-- Whether a window cell must wait for a line. -/
def winWaits (s : State) (i ty : Nat) (d : List Byte) : Bool :=
  let h := fieldAt d 0 16
  let p := remotePA s (bitsOf h 35 0)
  (portGet s i).held.any (fun c => c.ty == 5 || c.ty == 6) ||
    (!bitOf h 127 && remoteServed s i && rangeHeld s (rideSrc i) p.2 p.1 (2 ^ bitsOf h 37 36) (ty == 6))

/-- A window read or write of the neighbour is performed (R393, R394). -/
def takeWin (s : State) (i ty : Nat) (d : List Byte) : State :=
  let h := fieldAt d 0 16
  let n := 2 ^ bitsOf h 37 36
  let tag := bitsOf h 63 40
  let rsp := fun (s : State) (denied v : Nat) => portSend s i 7 (leBytes 16 (denied + tag * 2 ^ 40 + v * 2 ^ 64)) 0
  if bitOf h 127 ∧ ty = 5 then rsp s 0 (leNat (topoBytes s (bitsOf h 35 0) n))
  else if !remoteServed s i then rsp s 1 (2 ^ 64 - 1)
  else
    let p := remotePA s (bitsOf h 35 0)
    let s := rangeTake s (rideSrc i) p.1 n
    if ty = 5 then rsp (readNotes s p.1 n) 0 (leNat (paRead s p.2 p.1 n).1)
    else rsp (paWrite s p.2 p.1 (leBytes n (bitsOf h 127 64))) 0 0

/-- Whether a port's cell can take effect now. -/
def cellReady (s : State) (i : Nat) (c : RCell) : Bool :=
  match c.ty with
  | 1 => judgeChain s i c != .hold
  | 2 => judgeTile s i c.data != 3
  | 3 => !fenceWaits s i c.data
  | _ => !winWaits s i c.ty c.data

/-- Puts a cell into effect, or holds it with its credit (R386). -/
def takeCell (s : State) (i : Nat) (c : RCell) : State :=
  let hold := fun (s : State) => let p := portGet s i; portSet s i { p with held := p.held ++ [c] }
  match c.ty with
  | 1 => takeChain s i c
  | 2 => takeTile s i c
  | 3 => if fenceWaits s i c.data then hold s else freeCredit (takeFence s i c.data) i 3
  | _ => if winWaits s i c.ty c.data then hold s else freeCredit (takeWin s i c.ty c.data) i c.ty

/-- Tries a port's held cells again, oldest first; a cell that still waits keeps its place. -/
def heldRound (s : State) (i : Nat) : State :=
  let l := (portGet s i).held
  let s := portSet s i { portGet s i with held := [] }
  l.foldl (fun s c => if cellReady s i c then takeCell s i c else portSet s i { portGet s i with held := (portGet s i).held ++ [c] }) s

/-- Tries a port's held cells until none moves. -/
def heldPump (s : State) (i : Nat) : State := (List.range (portGet s i).held.length).foldl (fun s _ => heldRound s i) s

/-- What a cell that still waits asks for: a home's refusal of its requests is counted (R287), and a page not yet overwritten
is wanted (R256). -/
def cellAsk (s : State) (i : Nat) (c : RCell) : State :=
  let h := fieldAt c.data 0 16
  match c.ty with
  | 1 => s
  | 2 =>
    match landEntry s (bitsOf h 127 112) with
    | some e => if leKind e ≤ 1 then rangeAsk s (rideSrc i) (e.getD 1 0 + bitsOf h 95 72) (tlData c.data).length true else s
    | none => s
  | 3 => if remoteServed s i then rangeAsk s (rideSrc i) (remotePA s (bitsOf h 99 64)).1 8 true else s
  | ty => if remoteServed s i then rangeAsk s (rideSrc i) (remotePA s (bitsOf h 35 0)).1 (2 ^ bitsOf h 37 36) (ty == 6) else s

/-- The landings in progress, if there are any, go on. -/
def landGo (s : State) : State := if s.ride.lands.isEmpty then s else landPump s

/-- Tries every port's held cells, and finishes the landings whose data has become visible. -/
def heldPumpAll (s : State) : State :=
  let s := landGo s
  (List.range 24).foldl (fun s i =>
    if (portGet s i).held.isEmpty then s
    else
      let s := heldPump s i
      idleOut ((portGet s i).held.foldl (fun s c => cellAsk s i c) s) i) s

/-- Ends a proof, restore or reslice with a status (R478 to R480, R492, R493): its command completes, a failed proof writes
PROOF_FAILED, and PRF_STATUS shows the status. -/
def proofEnd (s : State) (status d0 d1 : Nat) : State :=
  match s.prf.run with
  | none => s
  | some r =>
    let s := regSet { s with prf := { s.prf with run := none } } 0x90048 39 32 status
    let s := if r.auto || r.gone then s else finish s [] r.q r.idx status d0 d1
    if r.cmd = 6 ∧ status ≠ 0 ∧ (r.auto ∨ r.gone) then writeEvent s 0x61 status r.gen (bnat r.auto) else s

/-- DETAIL of a proof (R492). -/
def proofD0 (r : PrfRun) : Nat := r.gen + bitsOf r.ok 1 1 * 2 ^ 33 + bitsOf r.ok 0 0 * 2 ^ 32

/-- A running proof fails. -/
def proofFail (s : State) (status : Nat) : State :=
  match s.prf.run with
  | none => s
  | some r => proofEnd s status (if r.cmd = 6 then proofD0 r else r.gen) (if r.cmd = 6 then r.bytes else 0)

/-- The PAIR ports as a mask. -/
def pairMask (s : State) : Nat := (List.range 24).foldl (fun a i => a + bnat (portMode s i == 3) * 2 ^ i) 0
/-- PAIR ports that are UP. -/
def pairUp (s : State) : List Nat := below 24 (fun i => portUp s i 3)

/-- Sends a PROOF cell over the PAIR ports in rotation. -/
def pairSend (s : State) (n : Nat) (data : List Byte) : State :=
  let l := pairUp s
  match l[n % l.length]? with
  | some i => portSend s i 10 data (pairMask s)
  | none => s

/-- Sends a cell of a failed port again over the other ports of its mask (R388, R479): a TILE cell that had been sent has
RESENT set. With no port of the mask UP it waits where it was. -/
def resend (s : State) (i : Nat) (sent : Bool) (c : RCell) : State :=
  let data := if c.ty = 2 ∧ sent = true then leBytes 16 (putBits (tlHead c.data) 55 55 1) ++ tlData c.data else c.data
  if c.ty = 10 then
    (if (pairUp s).isEmpty then s else rideCount (pairSend s c.lseq data) i 16 1)
  else if c.ty = 1 ∨ c.ty = 2 ∨ c.ty = 3 then
    let c' : RCell := { c with lseq := 0, data := data, tries := 0, re := sent || c.re }
    match (maskUp s c.mask)[c.lseq % (maskUp s c.mask).length]? with
    | some j => let s := portQueue s j c'; if c'.re then rideCount s i 16 1 else s
    | none => portQueue s i c'
  else s

/-- A core's window access over a port that has failed (R313, R388): a read returns all ones, a write is discarded; both
are counted. -/
def failWait (s : State) (w : RWait) : State :=
  match w.kind with
  | 0 =>
    let s := noteErr s (rideRec w.port) 4 0 0
    loadPut s w.a w.b (fun l => { l with parts := [⟨l.pa / 64, some (lineAt l.pa (leBytes (smSize l.width) (2 ^ 64 - 1)), false), false⟩] })
  | 1 => sbDel (noteErr s (rideRec w.port) 4 0 0) w.a w.b
  | _ => s

/-- A port goes to FAILED or FENCED (R387, R388, R401): its cells, its outstanding window accesses, and the event. R401 gives
the event no cause for a block reset (`cause` 0): that value is free. -/
def portDown (s : State) (i st cause : Nat) : State :=
  let p := portGet s i
  let s := portSet s i { p with st := st, lanes := 0, lockTimer := false, replay := [], waitq := [], tx := 0, rx := 0, ackd := 0, nak := false,
                                bad := false, cred := port0.cred, owed := port0.owed }
  let gone := s.ride.waits.filter (fun w => w.port == i && decide (w.kind < 2))
  let s := { s with ride := { s.ride with waits := s.ride.waits.filter (fun w => !(w.port == i && decide (w.kind < 2))) } }
  let s := gone.foldl failWait s
  let f := if cause = 0 then drawFree s else (cause, s)
  let s := writeEvent f.2 0x71 i f.1 0
  let s := p.waitq.foldl (fun s c => resend s i false c) (p.replay.foldl (fun s c => resend s i true c) s)
  let s := topoChange s
  if portMode s i = 3 ∧ (pairUp s).isEmpty then
    match s.prf.run with
    | some r => if (r.cmd = 6 ∧ bitOf r.want 0 ∧ !bitOf r.ok 0) ∨ (r.cmd = 7 ∧ r.slot < 2 ∧ r.sto = 0) then proofFail s 0x33 else s
    | none => s
  else s

/-- A port that is UP goes to FAILED by an error of its own (R387): the PORT_FAILED source fires. -/
def portFail (s : State) (i cause : Nat) : State := noteErr (portDown s i 4 cause) (rideRec i) 1 0 0

/-- A port one of whose cells has been resent 8 times, and would be again, fails (R387). -/
def replayCheck (s : State) (i : Nat) : State :=
  if (portGet s i).st = 2 ∧ (portGet s i).replay.any (fun c => decide (8 < c.tries)) then portFail s i 1 else s

/-- A port is UP again (R388): cells that wait at ports that are down move to it when their mask holds it. -/
def portRaise (s : State) (i : Nat) : State :=
  let s := (List.range 24).foldl (fun s j =>
    let p := portGet s j
    if j = i || p.st == 2 then s
    else
      let mv := p.waitq.filter (fun c => c.mask.testBit i)
      if mv.isEmpty then s
      else mv.foldl (fun s c => let s := portQueue s i c; if c.re then rideCount s j 16 1 else s)
          (portSet s j { p with waitq := p.waitq.filter (fun c => !c.mask.testBit i) })) s
  portPump s i

end Sys2Proof.Machine
end

