-- ==== Sys2Proof/Machine/Faults.lean ====
section
/-! DEFINITION. Fault records (R437 to R453, R463): the latch and the counts, the reactions and what each does to its unit, and the settling of the errors a step has detected. -/

namespace Sys2Proof.Machine

/-- Kind of a source (R441): 0 corrected, 1 an error that lost data or an event; the bits of the sources of kind C by class. -/
def srcIsC (k src : Nat) : Bool :=
  let m := match k with
    | 0 => 5 | 1 => 5 | 2 => 1 | 3 => 65 | 4 => 17 | 5 => 1 | 6 => 1 | 7 => 1 | 8 => 2 | 9 => 1 | 12 => 1 | _ => 0
  Nat.testBit m src

/-- Whether a class can fence (R446). -/
def canFence (k : Nat) : Bool := k == 0 || k == 1 || k == 2 || k == 5

/-- FLT_CLASS_CFG_k.FENCE_MODE (R446). -/
def fenceMode (s : State) (k : Nat) : Bool := canFence k && regField s (0x1F0000 + 8 * k) 31 31 == 1

/-- Actions of a reaction code for a class (R442, R444, R446): bit 0 event and MSI-X, 1 trap, 2 block reset or fencing,
3 pin, 4 reset of the complex. -/
def reactActs (fence : Bool) (k code : Nat) : Nat :=
  match code with
  | 0 => 0
  | 1 => 1
  | 2 => 3
  | 3 => if fence || decide (k ≤ 5) then 7 else 11
  | 4 => if fence then 15 else 27
  | _ => 11

/-- Actions an episode has taken. -/
def episodeOf (s : State) (rec : Nat) : Nat := tabGet (fun _ => 0) s.flt.episode rec

/-- Sets the actions an episode has taken. -/
def episodePut (s : State) (rec v : Nat) : State :=
  { s with flt := { s.flt with episode := tabSet (fun _ => 0) s.flt.episode rec v } }

/-- FR_STATUS.STATE. -/
def frState (s : State) (rec : Nat) : Nat := regField s (frOff rec) 2 0

/-- The first-error latch (R439). -/
def frLatch (s : State) (e : ErrNote) (code : Nat) : State :=
  let o := frOff e.recd
  if regField s o 4 4 = 1 then regSet s o 5 5 1
  else
    let s := regSet (regSet (regSet s o 23 19 e.src) o 18 16 code) o 4 4 1
    let s := if e.forced then regSet s o 8 8 1 else s
    regPut (regPut s (o + 8) e.synd) (o + 16) e.addr

/-- The counts (R440). -/
def frCount (s : State) (k : Nat) (e : ErrNote) : State :=
  if srcIsC k e.src then regCount s (frOff e.recd + 0x18) 31 0 1 else regCount s (frOff e.recd + 0x18) 63 32 1

/-- An entry in the ranger's fault log of 1,024 (R442, R521). -/
def faultLog (s : State) (e : ErrNote) (code : Nat) : State :=
  let l := s.flt.log ++ [⟨s.flt.logSeq, code * 2 ^ 24 + e.src * 2 ^ 16 + e.recd, regGet s (frOff e.recd + 8), regGet s (frOff e.recd + 16)⟩]
  { s with flt := { s.flt with log := l.drop (l.length - 1024), logSeq := s.flt.logSeq + 1 } }

/-- ERROR_OUT# (R463). -/
def raisePin (s : State) (rec : Nat) : State :=
  let was := regField s 0x1F0800 31 31
  let s := regSet (regSet { s with flt := { s.flt with pinHeld := false } } 0x1F0800 31 31 1) 0x1F0800 11 0 rec
  if was = 1 then s else writeEvent s 0x46 rec 0 0

/-- FLT_PIN.CLEAR (R463): the pin deasserts. RECORD goes on naming the latest record, but one kept through a DEVICE_RESET is
named until CLEAR only (R518). -/
def pinClear (s : State) : State :=
  let s := regSet s 0x1F0800 31 31 0
  if s.flt.pinHeld then regSet { s with flt := { s.flt with pinHeld := false } } 0x1F0800 11 0 0 else s

/-- A core's window accesses in flight leave the wait list. -/
def dropWaits (s : State) (c : Nat) (k : Nat) : State :=
  { s with ride := { s.ride with waits := s.ride.waits.filter (fun w => !(w.kind == k && w.a == c)) } }

/-- FAULTED on a core (R86, R115, R117): the first exception is recorded, and a core in a LAUNCH reports it. R116 gives
cause 0x0E no exception point: EXC_BUNDLE is the index of the bundle that would issue next. DESIGN CHOICE (log 37). -/
def faultExc (k : Core) : Core :=
  if k.st = .running then { k with exc := xcFAULT, excB := k.pc, rep := false } else k

/-- BLOCK_RESET of a core (R314, R444). -/
def coreReset (s : State) (c : Nat) : State :=
  let s := tDiscard s c (fun _ => false)
  let s := dropWaits (dropWaits s c 0) c 1
  coreMap s c (fun k =>
    let k := faultExc k
    { k with st := if k.st = .unused ∨ k.st = .fenced then k.st else .idle, tq := [], sb := [], loads := [], l1 := [], latch := slots0,
             fetched := [], hints := [], ended := false, bar := 0, waitTry := false, waitOk := false, lastNf := k.a.nflags })

/-- A core goes out of service (R447, R448): it stops with FAULTED, and its store buffer drains (R314). -/
def coreOut (s : State) (c : Nat) : State :=
  let s := tDiscard s c (fun _ => false)
  let s := coreMap s c (fun k =>
    let k := faultExc k
    let k := stopIssue k
    { k with st := .fenced, fenced := true, spareUse := false, tq := [], hints := [], loads := [], lastNf := k.a.nflags })
  drainSb (dropWaits s c 0) c

/-- The spare with the lowest position of a grove enters service (R447): it, or all ones. -/
def spareIn (s : State) (g : Nat) : Nat × State :=
  match freeSpares s g with
  | c :: _ => (c, coreMap s c (fun k => { k with st := .idle, spareUse := true }))
  | [] => (2 ^ 64 - 1, s)

/-- UNIT_FENCED after the topology page's change (R355, R451). -/
def fenceReport (s : State) (rec unit spare : Nat) : State := writeEvent (topoChange s) 0x41 rec unit spare

/-- A core is fenced by a fault (R447). -/
def coreFenceNow (s : State) (c : Nat) : State :=
  let g := groveOf c
  let s := coreOut s c
  let r := if groveFenced s g then (2 ^ 64 - 1, s) else spareIn s g
  fenceReport (renumber r.2 g) c 0 r.1

/-- An M line's owner is lost with an error: its data goes to its home poisoned, a floor line's to the host (R240, R275, R444). -/
def ownerLost (s : State) (v : L2Way) (line : Nat) : State :=
  let s := memWrite (dirPut s line dir0) v.sel line fullMask v.data true
  if lineTier line = 2 then dirtyEvict s line else s

/-- R444's slice reset: every line is invalidated after back-invalidation, and M lines go to their homes poisoned. Pinned
ways stay, and their lines are read again. -/
def sliceReset (s : State) (g : Nat) : State :=
  let keys := s.coh.l2.filter (fun p => p.1 / 65536 == g)
  let s := keys.foldl (fun s p =>
    let v := p.2
    let line := v.tag * 4096 + p.1 / 16 % 4096
    if v.st = 0 then s
    else
      let s := backInval s g line
      let s := l2drop s g line
      if v.st = 2 then ownerLost s v line else dirExact s line) s
  (s.coh.watch.filter (fun w => w.slice == g)).foldl (fun s w => request s g w.line .rdS 3 0 false) s

/-- A stream that waited at a mover that has gone out of service moves on (R172, R331, R449). -/
def rehand (s : State) (m : Nat) (st : Stream) : State :=
  match freestMover s (groveMovers s (m / 4)) with
  | some x => streamGive s x st
  | none =>
    match st.core with
    | none => finish s [] st.q st.idx 0x08 0 0
    | some c =>
      let s := coreMap s c (fun k => match k.tq.find? (fun e => tUnit e.w == 5 && e.prog == 1) with
        | some e => { k with tq := k.tq.filter (fun y => y.id != e.id) }
        | none => k)
      let s := { s with xlt := { s.xlt with fqPend := s.xlt.fqPend ++ [⟨m, st.sid, faultRecord s m st 8 0 0 0 0 0 true, false⟩] } }
      let s := cwOnAbort s st
      { s with qsu := { s.qsu with launches := s.qsu.launches.map (fun l => if l.cores.contains c then { l with streamAbort := true } else l) } }

/-- A mover is out of service (R449): its stream ends as a block reset ends it, and its waiting streams move on. -/
def moverOut (s : State) (m : Nat) : State :=
  let s := streamReset s m
  let v := moverGet s m
  let s := moverSet s m { v with waiting := [] }
  v.waiting.foldl (fun s st => rehand s m st) s

/-- Adds a record to the units that faults have fenced (R450). -/
def markFenced (s : State) (rec : Nat) : State := { s with flt := { s.flt with fenced := setAdd rec s.flt.fenced } }

/-- A mover is fenced by a fault (R449). -/
def moverFenceNow (s : State) (m : Nat) : State :=
  fenceReport (moverOut (markFenced s (0x990 + m)) m) (0x990 + m) 2 (2 ^ 64 - 1)

/-- A grove is fenced by a fault (R448): cores, movers and slice go out of service; lines it watched are watched no more. -/
def groveFenceNow (s : State) (g : Nat) : State :=
  let s := (groveCores g).foldl (fun s c => if (coreGet s c).st = .unused ∧ (coreGet s c).sb = [] then
      coreMap s c (fun k => { k with st := .fenced, fenced := true }) else coreOut s c) s
  let s := sliceReset s g
  let s := markFenced s (0x960 + g)
  let s := { s with coh := { s.coh with watch := s.coh.watch.filter (fun w => w.slice != g) } }
  let s := [4 * g, 4 * g + 1, 4 * g + 2, 4 * g + 3].foldl moverOut s
  fenceReport (renumber s g) (0x960 + g) 1 (2 ^ 64 - 1)

/-- A ride port is fenced by a fault (R383, R449). -/
def portFenceNow (s : State) (i : Nat) : State :=
  fenceReport (portDown (markFenced s (rideRec i)) i 5 4) (rideRec i) 3 (2 ^ 64 - 1)

/-- The unit action of a record (R444, R446): its fencing, or its block reset; an armed injection is cleared (R452). -/
def unitAction (s : State) (rec k : Nat) (fence : Bool) : State :=
  let s := regSet s (frOff rec + 0x30) 63 63 0
  if fence then
    let s := regSet s (frOff rec) 2 0 3
    match k with
    | 0 => coreFenceNow s rec
    | 1 => groveFenceNow s (rec - 0x960)
    | 2 => moverFenceNow s (rec - 0x990)
    | _ => portFenceNow s (rec - 0xA70)
  else
    let s := regSet s (frOff rec) 2 0 2
    match k with
    | 0 => coreReset s rec
    | 1 => sliceReset s (rec - 0x960)
    | 2 => streamReset s (rec - 0x990)
    | 5 => portDown s (rec - 0xA70) 4 0
    | _ => s

/-- Whether a bit of an action set is set. -/
def act (a i : Nat) : Bool := Nat.testBit a i

/-- Reacts to one error (R439 to R446, R463). A frozen complex detects nothing (R465). -/
def handleErr (s : State) (e : ErrNote) : State :=
  match frClass e.recd with
  | none => s
  | some k =>
    if frozen s then s
    else
      let o := frOff e.recd
      let code := regField s (o + 0x20) (4 * e.src + 2) (4 * e.src)
      let s := frCount (frLatch s e code) k e
      let old := if frState s e.recd = 0 then 0 else episodeOf s e.recd
      let fence := fenceMode s k
      let acts := reactActs fence k code
      let todo := acts - (acts &&& old)
      let s := episodePut s e.recd (old ||| acts)
      let s := if frState s e.recd = 0 then regSet s o 2 0 1 else s
      let s := if act todo 0 then
          sendMsix (writeEvent s 0x40 (code * 2 ^ 24 + e.src * 2 ^ 16 + e.recd) (regGet s (o + 8)) (regGet s (o + 16)))
            (regField s (0x1F0000 + 8 * k) 26 16)
        else s
      let s := if act todo 1 then faultLog s e code else s
      let s := if act todo 3 then raisePin s e.recd else s
      let s := if act todo 2 then unitAction s e.recd k fence else s
      if act todo 4 then complexReset s 4 e.recd else s

/-- The next error to handle (R439): the earliest record's, its lowest source number first. -/
def nextErr (l : List ErrNote) : Option ErrNote :=
  match l with
  | [] => none
  | e :: r => some (r.foldl (fun m x => if x.recd = m.recd ∧ x.src < m.src then x else m) e)

/-- Handles errors until none is left. -/
def settleLoop : Nat → State → State
  | 0, s => s
  | n + 1, s =>
    match nextErr s.errs with
    | none => s
    | some e => settleLoop n (handleErr { s with errs := s.errs.erase e } e)

/-- Settles a step: the errors it detected take their reactions (R443). A step that detected none is unchanged. -/
def settle (s : State) : State := if s.errs.isEmpty then s else settleLoop 4096 s

/-- What a command does to a complex that is not frozen: its effect, then its errors' reactions. A frozen complex reads
nothing, writes nothing and starts nothing (R423). No command touches the queue of waiting commands. -/
def runLive (s : State) (f : State → State) : Host.Outcome State Fault Refusal :=
  .next (if frozen s then s else { settle (f s) with pending := s.pending })

end Sys2Proof.Machine
end

