-- ==== Sys2Proof/Machine/QueueOps.lean ====
section
/-! DEFINITION. Queue engines (R318 to R335): doorbells, fetching, the conditions under which a command starts, the checks it makes of itself, and the fault queue's head count (R222 to R226). -/

namespace Sys2Proof.Machine

/-- Invalidates the L1s of a grove (R267): their contents, the presence bits that cover them, and STALE. -/
def l1InvalGrove (s : State) (g : Nat) : State :=
  let s := (groveCores g).foldl (fun s c => if (coreGet s c).l1.isEmpty then s else coreMap s c (fun k => { k with l1 := [] })) s
  let s := s.coh.l2.foldl (fun s p =>
    if p.1 / 65536 = g ∧ p.2.pres ≠ 0 then
      { s with coh := { s.coh with l2 := tabSet (fun _ => l2way0) s.coh.l2 p.1 { p.2 with pres := 0 } } }
    else s) s
  { s with coh := { s.coh with stale := setDel g s.coh.stale, l1clean := setAdd g s.coh.l1clean } }

/-- What waited for a line goes on: cores, and cells that wait. -/
def goOn (s : State) : State := heldPumpAll (pumpAll s)

/-- Whether queue engines work: RUN, or a disable that still waits for a proof (R509); never in HOLD (R376). -/
def qLive (s : State) : Bool := (inRun s || mode s == 4) && !s.host.hold

/-- Whether a clearing under way covers a queue (R32); the clearing of a disable covers every queue (R509). -/
def clearCovers (s : State) (q : Nat) : Bool :=
  s.qsu.clears.any (fun c => decide (1 ≤ c.step) && (c.auto || c.comps.contains (queueGet s q).comp))

/-- The line of a queue's doorbell slot (R322). -/
def slotLine (s : State) (k : Queue) : List Byte := (floorRead s (k.slot / 64 * 64) 64).1

/-- The queue's state once nothing parks it (R358). -/
def qSettle (k : Queue) : Queue := { k with st := if k.tail = k.fetched then .idle else .active }

/-- The PHASE and SEQ of index `i` as they stand in a check word (R321, R324). -/
def checkWord (i n : Nat) : Nat := phaseOf i n * 2 ^ 15 + i % 2 ^ 15

/-- check(d, i) of R324: both check words carry the expected PHASE and SEQ. -/
def descOk (d : List Byte) (i n : Nat) : Bool :=
  bitsOf (dWord d 0) 63 48 == checkWord i n && bitsOf (dWord d 15) 63 48 == checkWord i n

/-- Descriptor `i` as it stands in the ring, with whether a line of it is poisoned. -/
def descRead (s : State) (k : Queue) (i : Nat) : List Byte × Bool := floorRead s (k.ring + 128 * (i % 2 ^ k.rlog)) 128

/-- What the read of descriptor `i` asks of the host (R371). -/
def descNote (s : State) (k : Queue) (i : Nat) : State := readNotes s (floorPA (k.ring + 128 * (i % 2 ^ k.rlog))) 128

/-- What stands in the fetch buffer for a poisoned descriptor (R357): its expected SEQ alone. -/
def poisonedDesc (i : Nat) : List Byte := leBytes 8 (i % 2 ^ 15 * 2 ^ 48)

/-- Fetches while the buffer of eight has room (R323, R328). A descriptor that fails its check is read again later (R324). -/
def fetchLoop : Nat → State → Nat → State
  | 0, s, _ => s
  | n + 1, s, q =>
    let k := queueGet s q
    if k.tail ≤ k.fetched ∨ 8 ≤ k.buf.length then queueSet s q (qSettle k)
    else
      let d := descRead s k k.fetched
      let s := descNote s k k.fetched
      if d.2 then
        fetchLoop n (noteErr (queueSet s q { k with buf := k.buf ++ [poisonedDesc k.fetched], fetched := k.fetched + 1 }) 0xA90 2 0 0) q
      else if descOk d.1 k.fetched k.rlog then
        fetchLoop n (queueSet s q { k with buf := k.buf ++ [d.1], fetched := k.fetched + 1 }) q
      else queueSet s q { qSettle k with tries := 1 }

/-- Parks a queue on an overrun (R326, R327). -/
def parkOverrun (s : State) (q tail head : Nat) : State :=
  let k := queueGet s q
  writeEventQ (queueSet s q { k with st := .overrun }) 0x02 0 q 0 0 tail k.fetched head

/-- Whether the completion ring has room for one more command (R332). -/
def cplRoom (k : Queue) : Bool := 
  decide (k.started - k.completed + 1 + (k.completed + 2 ^ 64 - k.cplHead) % 2 ^ 64 ≤ 2 ^ k.clog)

/-- The wake procedure (R323 to R327). A parked queue goes on only once its slot's line has changed. A wake that arrives while
the procedure runs is kept. -/
def queueWake (s : State) (q : Nat) : State :=
  let k := queueGet s q
  if !k.en || !qLive s || clearCovers s q then s
  else if k.tries ≠ 0 then queueSet s q { k with kept := true }
  else
    let line := slotLine s k
    if (k.st = .notReady ∨ k.st = .overrun) ∧ line = k.seen then s
    else
      let tail := fieldAt line (k.slot % 64) 8
      let head := fieldAt line (k.slot % 64 + 8) 8
      let k := { k with seen := line }
      if 2 ^ k.rlog < (tail + 2 ^ 64 - k.fetched % 2 ^ 64) % 2 ^ 64 then parkOverrun (queueSet s q k) q tail 0
      else if 2 ^ k.clog < (k.completed + 2 ^ 64 - head) % 2 ^ 64 then parkOverrun (queueSet s q k) q tail head
      else
        let was := k.st
        let s := queueSet s q { k with tail := k.fetched + (tail + 2 ^ 64 - k.fetched % 2 ^ 64) % 2 ^ 64, cplHead := head }
        let s := fetchLoop 9 s q
        let k := queueGet s q
        if was = .cplFull ∧ cplRoom k = false ∧ !k.buf.isEmpty then queueSet s q { k with st := .cplFull } else s

/-- Runs the wake procedure again for a wake that was kept (R323). -/
def keptWake (s : State) (q : Nat) : State :=
  let k := queueGet s q
  if k.kept then queueWake (queueSet s q { k with kept := false }) q else s

/-- A re-read of the descriptor under check (R324): the ninth failed read parks the queue. -/
def descReread (s : State) (q : Nat) : State :=
  let k := queueGet s q
  if !k.en || !qLive s || clearCovers s q || k.tries == 0 then s
  else
    let d := descRead s k k.fetched
    if d.2 || descOk d.1 k.fetched k.rlog then queueWake (fetchLoop 9 (queueSet s q { k with tries := 0, kept := false }) q) q
    else if k.tries < 8 then queueSet (descNote s k k.fetched) q { k with tries := k.tries + 1 }
    else keptWake (writeEventQ (queueSet (descNote s k k.fetched) q { k with tries := 0, st := .notReady }) 0x01 0 q (k.fetched % 2 ^ 15) 0 k.fetched 0 0) q

/-- CUT of a CLEAR (R333). -/
def isCut (d : List Byte) : Bool := dCmd d == 5 && bitOf (dWord d 1) 1

/-- PRE as it acts (R329). -/
def effPre (d : List Byte) : Bool :=
  if isCut d then false else dCmd d == 3 || (decide (5 ≤ dCmd d) && decide (dCmd d ≤ 12)) || bitOf (dHead d) 42

/-- POST as it acts (R329). -/
def effPost (d : List Byte) : Bool := (decide (4 ≤ dCmd d) && decide (dCmd d ≤ 12)) || bitOf (dHead d) 41

/-- Whether the order of R332 lets the first descriptor of a queue's buffer start; room in the completion ring apart. -/
def orderOk (k : Queue) (d : List Byte) : Bool :=
  isCut d || (!k.run.any (fun r => effPost r.desc) && (!effPre d || k.run.isEmpty) && decide (k.run.length < 64))

/-- A started command's index, its descriptor, and the state in which it runs (R332). -/
structure Started where
  idx : Nat
  d : List Byte
  s : State
  deriving DecidableEq, Repr

/-- The first descriptor of a queue's fetch buffer. -/
def headDesc (s : State) (q : Nat) : Option (List Byte) := (queueGet s q).buf.head?

/-- Holds a queue for lack of room in its completion ring (R332); one that is parked stays parked (R324). -/
def holdFull (s : State) (q : Nat) : State :=
  let k := queueGet s q
  if k.st = .cplFull ∨ k.st = .notReady ∨ k.st = .overrun then s
  else writeEventQ (queueSet s q { k with st := .cplFull }) 0x03 0 q 0 0 k.completed k.cplHead 0

/-- Whether a proof, restore or reslice holds the MOVEs and LAUNCHes of a compartment (R473, R486). -/
def prfHolds (s : State) (comp : Nat) : Bool :=
  match s.prf.run with
  | some r => r.comp == comp && (r.cmd == 7 || (r.cmd == 6 && (r.phase == 1 || !bitOf (dWord r.body 3) 8)))
  | none => false

/-- Runs `f` on the first command of a queue when its code satisfies `p`, its turn has come and `own` lets it start; the
command has then left the buffer and runs. A command that cannot start leaves the state as it is. -/
def startCmd (s : State) (q : Nat) (p : Nat → Bool) (own : State → List Byte → Bool) (f : Started → State) : State :=
  let k := queueGet s q
  match k.buf with
  | [] => s
  | d :: rest =>
    if !k.en || !qLive s || clearCovers s q || !p (dCmd d) || !orderOk k d || !own s d then s
    else if !cplRoom k then holdFull s q
    else
      let k' := { k with buf := rest, started := k.started + 1, run := k.run ++ [⟨k.started, d, 0, 0, 0⟩] }
      let s := queueSet s q (if k.st = .cplFull then qSettle k' else k')
      queueWake (f ⟨k.started, d, s⟩) q

/-- Reserved bits and bytes of a command (R329, R330), its ranges and its alignments: R331's check 1. -/
def bodyOk (d : List Byte) : Bool :=
  let w := dWord d
  let zero := fun (a b : Nat) => (List.range (b + 1 - a)).all (fun i => w (a + i) == 0)
  bitsOf (w 0) 38 20 == 0 && bitsOf (w 15) 47 0 == 0 && decide (d.length = 128) &&
  match dCmd d with
  | 0 => zero 1 14
  | 1 => w 1 % 128 == 0 && (decide (w 2 < 192) || w 2 == 255) && zero 3 14
  | 2 => w 1 % 16 == 0 && w 3 % 256 == 0 && decide (0 < w 4) && decide (w 4 < 65536) && zero 5 14
  | 3 => w 1 % 64 == 0 && zero 3 14
  | 4 => w 1 % 64 == 0 && zero 3 14
  | 5 => decide (w 1 < 4) && zero 2 14
  | 6 => w 1 % 4096 == 0 && bitsOf (w 3) 63 9 == 0 && bitsOf (w 3) 7 2 == 0 && w 4 % 2 ^ 26 == 0 && decide (w 5 < 1024) &&
      w 6 % 65536 == 0 && w 7 % 64 == 0 && zero 9 14
  | 7 => bitsOf (w 1) 63 9 == 0 && bitsOf (w 1) 7 1 == 0 && decide (w 2 < 2 ^ 32) && w 3 % 2 ^ 26 == 0 && decide (w 4 < 1024) && zero 5 14
  | 8 => decide (w 1 < 2 ^ 32) && w 2 % 64 == 0 && decide (0 < w 3) && decide (w 3 < 65536) && zero 4 14
  | 9 => decide (w 1 < 256) && zero 3 14
  | 10 => decide (w 1 < 512) && decide (w 2 < 2 ^ 26) &&
      (if bitOf (w 1) 8 then w 2 == 0 && w 3 == 0 else decide (1 ≤ w 3) && decide (w 3 ≤ 2 ^ 26)) && zero 4 14
  | 11 => decide (1 ≤ w 2) && decide (w 2 ≤ 67584) && decide (w 3 < 2) && zero 4 14
  | 12 => decide (w 1 < 65536) && decide (w 2 < 64) && zero 3 14
  | _ => false

/-- Whether a command is privileged on a queue (R329). -/
def needsPriv (k : Queue) (d : List Byte) : Bool :=
  match dCmd d with
  | 5 => bitOf (dWord d 1) 0
  | 6 => true
  | 7 => true
  | 8 => true
  | 9 => dWord d 1 % 256 != k.root
  | 10 => dWord d 1 % 256 != k.root
  | 11 => true
  | 12 => true
  | _ => false

/-- R331's checks 1 to 3 for a command whose engines are `eng`: the first status that applies, 0 for none. -/
def firstChecks (s : State) (q : Nat) (d : List Byte) (eng : Bool) : Nat :=
  let k := queueGet s q
  if !bodyOk d then 0x01 else if needsPriv k d && !k.priv then 0x02 else if !eng then 0x08 else 0

/-- Whether a queue has a compartment (R318). -/
def hasComp (k : Queue) : Bool := decide (k.comp < 48)

/-- Replaces the body of the fault queue's state. -/
def xltPut (s : State) (f : Xlt → Xlt) : State := { s with xlt := f s.xlt }

/-- Address of the fault-queue record of count `t` (R222). -/
def fqAddr (s : State) (t : Nat) : Nat := regField s 0x40010 42 12 * 4096 + 64 * (t % 2 ^ regField s 0x40018 4 0)

/-- What follows a record's writing (R225): its stream awaits a response, or ends. A stream that was cut is gone. -/
def recordWritten (s : State) (t : Nat) (r : PendRec) : State :=
  match (moverGet s r.mover).cur with
  | none => s
  | some st =>
    if st.sid ≠ r.sid ∨ st.st = .cut then s
    else if r.awaits then
      xltPut (streamPut s r.mover (fun x => { x with st := .awaiting })) (fun x => { x with fqWait := x.fqWait ++ [(t, r.mover, r.sid)] })
    else streamPut s r.mover (fun x => { x with st := .done })

/-- Writes the oldest pending fault record if the ring has room (R222 to R226). -/
def faultWrite (s : State) : State :=
  match s.xlt.fqPend with
  | [] => s
  | r :: rest =>
    let l := regField s 0x40018 4 0
    let t := s.xlt.fqT
    if s.host.hold || !s.qsu.evOn || decide (2 ^ l ≤ t - s.xlt.fqP) then s
    else
      let s := floorWrite s (fqAddr s t) (listPut r.bytes 0 (leBytes 8 (fieldAt r.bytes 0 8 + phaseOf t l * 2 ^ 63)))
      let s := xltPut s (fun x => { x with fqT := t + 1, fqPend := rest })
      let s := regSet s 0x40028 32 32 1
      let s := if t + 1 - s.xlt.fqP = 2 ^ l then regSet s 0x40028 33 33 1 else s
      let s := regCount s 0x40030 31 0 1
      recordWritten (sendMsix s (regField s 0x40018 26 16)) t r

/-- The driver's response to a record takes effect (R224): RETRY checks the tile again, anything else ends the stream. A
response for a stream that is gone is ignored (R231). -/
def respond (s : State) (m sid resp : Nat) : State :=
  match (moverGet s m).cur with
  | none => s
  | some st =>
    if st.sid ≠ sid ∨ st.st ≠ .awaiting then s
    else if resp = 0 then streamPut s m (fun x => { x with st := .running, cause := 0, cwf := false })
    else streamPut s m (fun x => { x with st := .done, aborted := true })

/-- The head line's counts are judged (R224, R346): the fault queue's, whose freed records have their RESPONSE read once and
whose pending records are then written, and the event ring's. -/
def headUpdate (s : State) : State :=
  if s.host.hold || !s.qsu.evOn then s
  else
    let line := (floorRead s (regField s 0x40020 42 6 * 64) 64).1
    let e := (fieldAt line 8 8 + 2 ^ 64 - s.qsu.evP % 2 ^ 64) % 2 ^ 64
    let s := if e ≤ s.qsu.evT - s.qsu.evP then { s with qsu := { s.qsu with evP := s.qsu.evP + e } } else regSet s 0x30020 34 34 1
    let h := (fieldAt line 0 8 + 2 ^ 64 - s.xlt.fqP % 2 ^ 64) % 2 ^ 64
    if s.xlt.fqT - s.xlt.fqP < h then regSet s 0x40028 34 34 1
    else
      let p := s.xlt.fqP + h
      let freed := s.xlt.fqWait.filter (fun w => decide (w.1 < p))
      let s := xltPut s (fun x => { x with fqP := p, fqWait := x.fqWait.filter (fun w => decide (p ≤ w.1)) })
      let s := freed.foldl (fun s w =>
        respond (readNotes s (floorPA (fqAddr s w.1 + 48)) 8) w.2.1 w.2.2 (leNat (floorRead s (fqAddr s w.1 + 48) 8).1 % 4)) s
      (List.range s.xlt.fqPend.length).foldl (fun s _ => faultWrite s) s

end Sys2Proof.Machine
end

