-- ==== Sys2Proof/Machine/MemOps.lean ====
section
/-! DEFINITION. The understory's overwrite (R255, R256), the proof reserve (R253, R475), the wear area (R504), and free bytes. -/

namespace Sys2Proof.Machine

/-- Whether a line of the bytes' table lies in an understory page. -/
def inPage (p line : Nat) : Bool := lineTier line == 1 && underPage line == p

/-- An understory page overwritten with zeros (R255). -/
def pageZero (s : State) (p : Nat) : State :=
  let t := s.tiers
  { s with tiers := { t with
      bytes := t.bytes.filter (fun x => !inPage p (x.1 / 64))
      enc := t.enc.filter (fun x => !inPage p x.1)
      poison := t.poison.filter (fun l => !inPage p l) } }

/-- A page whose overwrite a write has brought forward (R256): zeros at once, and then the writes that waited for it. -/
def bringForward (s : State) (p : Nat) : State :=
  if owReached s.tiers p then s
  else
    let w := s.tiers.owHeld.filter (fun x => underPage x.line == p)
    let s := pageZero s p
    let s := { s with tiers := { s.tiers with owEarly := setAdd p s.tiers.owEarly, owWant := setDel p s.tiers.owWant, owHeld := s.tiers.owHeld.filter (fun x => underPage x.line != p) } }
    w.foldl (fun s x => memWrite s x.sel x.line x.mask x.data x.poison) s

/-- The internal key pair's tag; never that of plaintext. -/
def reservePair : Nat := Config.reserveKey + 1

/-- Address of a proof slot's first byte (R253). -/
def slotBase (s : State) (k : Nat) : Nat := 2 ^ 44 + (3072 - 2 * slotGib s + k * slotGib s) * gib

/-- Reads the reserve as the proof engine does (R253): the bytes, and whether a line is poisoned. -/
def resRead (s : State) (pa n : Nat) : List Byte × Bool :=
  (rangeLines pa n).foldl (fun a l =>
    let d : List Byte × Bool := match ownerData s l with
      | some x => (x.data, x.poison)
      | none =>
        if owReached s.tiers (underPage l) then
          (rekey (tabGet (fun _ => 0) s.tiers.enc l) reservePair l (rawLine s l), s.tiers.poison.contains l)
        else (List.replicate 64 0, false)
    let lo := if l = pa / 64 then pa % 64 else 0
    (a.1 ++ (d.1.take (min 64 (pa + n - 64 * l))).drop lo, a.2 || d.2)) ([], false)

/-- Writes the reserve as the proof engine does, line by line. -/
def resWrite (s : State) (pa : Nat) (b : List Byte) : State :=
  (rangeLines pa b.length).foldl (fun s l =>
    let old := resRead s (64 * l) 64
    let s := dirPut (dropAll (bringForward s (underPage l)) l) l dir0
    let lo := if l = pa / 64 then pa % 64 else 0
    let o := 64 * l + lo - pa
    let n := min (64 - lo) (b.length - o)
    let new := listPut old.1 lo ((b.drop o).take n)
    { s with tiers := { s.tiers with
        bytes := tabPut s.tiers.bytes (64 * l) new
        enc := tabSet (fun _ => 0) s.tiers.enc l reservePair
        poison := if old.2 && n != 64 then s.tiers.poison else setDel l s.tiers.poison } }) s

/-- Leaves `n` bytes at a physical address with contents that nothing constrains. -/
def scrap (s : State) (sel pa n : Nat) : State := let f := freeBytes s n; paWrite f.2 sel pa f.1

/-- Writes a program's bytes through a root, page by page where it translates with W = 1 outside device space. -/
def vaWrite (s : State) (root va : Nat) (b : List Byte) : State :=
  (rangeLines va b.length).foldl (fun s l =>
    let lo := if l = va / 64 then va % 64 else 0
    let o := 64 * l + lo - va
    match translate s root (va + o) with
    | (.leaf lf, s) =>
      if eW lf.ent && paTier (ePage lf.ent) != 3 then
        paWrite s (eSel lf.ent) (leafPA lf (va + o)) ((b.drop o).take (min (64 - lo) (b.length - o)))
      else s
    | (_, s) => s) s

/-- The wear area (R504) with a write count. -/
def wearBytes (s : State) (count : Nat) : List Byte :=
  let age := fun (i : Nat) => bitsOf (regGet s (frOff i + 0x80)) 63 32
  let rec' := fun (i : Nat) => bitsOf (regGet s (frOff i + 0x40)) 15 0
  let bitmap := fun (n : Nat) (f : Nat → Bool) => leBytes n ((List.range (8 * n)).foldl (fun a i => a + bnat (f i) * 2 ^ i) 0)
  let put := fun (t : Tab Byte) (p : Nat × List Byte) => tabPut t p.1 p.2
  let t := [(0, leBytes 8 0x000152414557), (8, leBytes 8 (Config.serial % 2 ^ 64)), (0x10, leBytes 8 (count % 2 ^ 64)),
    (0x18, leBytes 8 (s.flt.eol % 65536)),
    (0x100, (List.range 2400).flatMap (fun c => leBytes 4 (age c))),
    (0x2700, (List.range 4).flatMap (fun i => leBytes 4 (age (0xA8C + i)))),
    (0x2800, (List.range 0xA96).flatMap (fun i => leBytes 2 (rec' i))),
    (0x4000, bitmap 300 (fun c => decide (c < 2400) && frState s c == 3)),
    (0x4140, bitmap 8 (fun g => s.flt.fenced.contains (0x960 + g) && decide (g < 48))),
    (0x4148, bitmap 24 (fun m => s.flt.fenced.contains (0x990 + m) && decide (m < 192))),
    (0x4160, bitmap 8 (fun i => s.flt.fenced.contains (0xA70 + i) && decide (i < 24)))].foldl put []
  let b := tabBytes t 0 65536
  listPut b 0x20 (leBytes 4 (crc32 b))

/-- Whether the ranger's firmware runs (R502, R461). -/
def rangerUp (s : State) : Bool := regField s 0x20020 3 0 == 2 && regField s 0x1F1010 10 10 == 0

/-- The ranger writes the wear area at a device virtual address (R462, R504): its count is one above the area's. -/
def wearWriteVa (s : State) (root va : Nat) : State :=
  if va = 0 ∨ rangerUp s = false then s
  else
    let n := match readArg s root (va + 0x10) 8 with
      | (some b, _) => leNat b
      | (none, _) => 0
    vaWrite s root va (wearBytes s (n + 1))

end Sys2Proof.Machine
end

