-- ==== Sys2Proof/Machine/ProofOps.lean ====
section
/-! DEFINITION. Proofs (R467 to R493): the manifest, the image, taking and committing a proof, restoring one, and reslicing. -/

namespace Sys2Proof.Machine

/-- NPLATE, NPOS and NMEM of a manifest (R467). -/
def mfPlates (m : List Byte) : Nat := bitsOf (fieldAt m 0 8) 47 40
/-- NPOS. -/
def mfPos (m : List Byte) : Nat := bitsOf (fieldAt m 0 8) 39 32
/-- NMEM. -/
def mfMems (m : List Byte) : Nat := bitsOf (fieldAt m 0 8) 31 0
/-- Rule of stream `n`: CHECK, DPS, ORIGIN. -/
def mfRule (m : List Byte) (n : Nat) : Bool × Nat × Nat :=
  (bitOf (fieldAt m (0x40 + 32 * n) 4) 0, fieldAt m (0x44 + 32 * n) 4, fieldAt m (0x50 + 32 * n) 16)
/-- Data-position words. -/
def mfPosVa (m : List Byte) : List Nat := (List.range (mfPos m)).map (fun k => fieldAt m (0x840 + 8 * k) 8)
/-- Plate ranges: start and length. -/
def mfPlate (m : List Byte) : List (Nat × Nat) :=
  (List.range (mfPlates m)).map (fun r => (fieldAt m (0x940 + 16 * r) 8, fieldAt m (0x948 + 16 * r) 8))
/-- Memory ranges: device virtual address and length. -/
def mfMem (m : List Byte) : List (Nat × Nat) :=
  (List.range (mfMems m)).map (fun r => (fieldAt m (0x1000 + 16 * r) 8, fieldAt m (0x1008 + 16 * r) 8))
/-- Sum of a list of lengths. -/
def sumLen (l : List (Nat × Nat)) : Nat := l.foldl (fun a p => a + p.2) 0

/-- Whether bytes [a, b) of a list are zero. -/
def zeroSpan (m : List Byte) (a b : Nat) : Bool := ((m.take b).drop a).all (fun x => x == 0)

/-- The manifest's own layout (R467). -/
def mfForm (m : List Byte) : Bool :=
  bitsOf (fieldAt m 0 8) 63 48 == 0 && decide (mfPlates m ≤ 16) && decide (mfPos m ≤ 32) && decide (mfMems m ≤ 1024) &&
  zeroSpan m 8 0x40 &&
  (List.range 64).all (fun n => decide (fieldAt m (0x40 + 32 * n) 4 < 2) && zeroSpan m (0x48 + 32 * n) (0x50 + 32 * n)) &&
  zeroSpan m (0x840 + 8 * mfPos m) 0x940 && zeroSpan m (0x940 + 16 * mfPlates m) 0x1000 && zeroSpan m (0x1000 + 16 * mfMems m) 0x5000 &&
  (mfPosVa m).all (fun v => v % 8 == 0) &&
  (mfPlate m).all (fun p => p.1 % 64 == 0 && p.2 % 64 == 0 && decide (p.1 + p.2 ≤ plateSize)) &&
  (mfMem m).all (fun p => p.1 % 2 ^ 26 == 0 && p.2 % 2 ^ 26 == 0)

/-- Whether an understory PA lies in the proof reserve (R253). -/
def inReserve (s : State) (pa : Nat) : Bool := paTier pa == 1 && decide (slotBase s 0 ≤ pa)

/-- The pages of a manifest's memory ranges (R467, R472): page number and selector; none when one does not translate. -/
def mfPages (s : State) (root : Nat) (m : List Byte) : Option (List (Nat × Nat)) :=
  ((mfMem m).flatMap (fun p => (List.range (p.2 / 2 ^ 26)).map (fun i => p.1 + i * 2 ^ 26))).foldr (fun va acc =>
    match acc, (translate s root va).1 with
    | some l, .leaf lf =>
      if eR lf.ent && decide (paTier (ePage lf.ent) < 2) && !inReserve s (leafPA lf va) then some ((leafPA lf va / 2 ^ 26, eSel lf.ent) :: l)
      else none
    | _, _ => none) (some [])

/-- Whether the staging area overlaps a memory range (R471). -/
def stagingMeets (m : List Byte) (va gibs : Nat) : Bool :=
  (mfMem m).any (fun p => decide (p.1 < va + gibs * gib) && decide (va < p.1 + p.2))

/-- The manifest at a device virtual address, and the complex once it is read: none when R471's first check fails. -/
def mfRead (s : State) (root va comp staging gibs : Nat) : Option (List Byte × List (Nat × Nat)) × State :=
  match readArg s root va 0x5000 with
  | (none, s) => (none, s)
  | (some m, s) =>
    if mfForm m && !stagingMeets m staging gibs &&
        decide ((compCores s comp).length * (22528 + sumLen (mfPlate m)) + 4 * gib ≤ gibs * gib) &&
        (mfPosVa m).all (fun v => (argLeaf s root v).1.isSome) then
      match mfPages s root m with
      | some l => (some (m, l), s)
      | none => (none, s)
    else (none, s)

/-- IMAGE_BYTES (R468). -/
def imageBytes (s : State) (comp : Nat) (m : List Byte) : Nat :=
  let n := (compCores s comp).length
  24576 + n * 22528 + 4096 + n * sumLen (mfPlate m) + sumLen (mfMem m)

/-- A stream record (R468). -/
def stipBytes (t : Stip) : List Byte := leBytes 8 t.key ++ leBytes 16 t.ctr ++ leBytes 4 t.last ++ leBytes 4 t.run

/-- A tag record (R468). -/
def tagBytes (t : SrTag) : List Byte :=
  (List.range 16).flatMap (fun i => leBytes 4 (tabGet (fun _ => 0) t.hist i).toNat) ++
  leBytes 4 (bnat t.upd * 2 ^ 31 + bnat t.nonfin * 2 ^ 30 + t.valid * 16 + t.head) ++ leBytes 4 t.amax.toNat ++ leBytes 8 0

/-- A core's 22 KiB of core state (R468). -/
def coreRecord (k : Core) : List Byte :=
  (List.range 64).flatMap (fun n => stipBytes (stipGet k.a n)) ++ (List.range 256).flatMap (fun n => tagBytes (tagGet k.a n))

/-- The image header (R468). -/
def imageHeader (s : State) (comp gen step bytes : Nat) : List Byte :=
  let h := leBytes 8 gen ++ leBytes 8 step ++ leBytes 8 (Config.serial % 2 ^ 64) ++ leBytes 8 bytes ++ leBytes 8 (compGroves s comp).length ++
    (compGroves s comp).map (fun g => BitVec.ofNat 8 (groveServing s g).length)
  h ++ List.replicate (4096 - h.length) 0

/-- Bytes of a 64 MiB page as the proof engine reads them, and whether a line is poisoned. -/
def pageBytes (s : State) (page sel : Nat) : List Byte × Bool := paRead s sel (page * 2 ^ 26) (2 ^ 26)

/-- The data positions' 4 KiB (R468). -/
def posBytes (s : State) (root : Nat) (m : List Byte) : List Byte :=
  let l := (mfPosVa m).flatMap (fun v => match readArg s root v 8 with | (some b, _) => b | (none, _) => List.replicate 8 0)
  l ++ List.replicate (4096 - l.length) 0

/-- What those reads ask of the host (R284, R371). -/
def posNotes (s : State) (root : Nat) (m : List Byte) : State := (mfPosVa m).foldl (fun s v => (readArg s root v 8).2) s

/-- What the read of a page asks of the host (R284). -/
def pageNotes (s : State) (page : Nat) : State := readNotes s (page * 2 ^ 26) (2 ^ 26)

/-- The image up to its memory ranges (R468). -/
def imageFront (s : State) (r : PrfRun) (m : List Byte) : List Byte :=
  let cs := compCores s r.comp
  imageHeader s r.comp r.gen (dWord r.body 2) r.bytes ++ m ++ cs.flatMap (fun c => coreRecord (coreGet s c)) ++ posBytes s r.root m ++
    cs.flatMap (fun c => (mfPlate m).flatMap (fun p => plateGet (coreGet s c).a p.1 p.2))

/-- A cell of the pair (R479): its 16 bytes, then data. -/
def prfCell (kind gen slot off len res : Nat) (data : List Byte) : List Byte :=
  leBytes 16 (kind * 2 ^ 124 + gen % 2 ^ 32 * 2 ^ 92 + slot % 2 * 2 ^ 91 + off % 2 ^ 40 * 2 ^ 48 + len % 2 ^ 24 * 2 ^ 24 + res) ++ data

/-- Cells of at most 1,024 data bytes carrying `b` from an offset. -/
def prfPieces (kind gen slot off : Nat) (b : List Byte) : List (List Byte) :=
  (List.range (cdiv b.length 1024)).map (fun i => prfCell kind gen slot (off + 1024 * i) 0 0 ((b.drop (1024 * i)).take 1024))

/-- Sends cells over the PAIR ports in rotation. -/
def pairCells (s : State) (l : List (List Byte)) : State := (l.zip (List.range l.length)).foldl (fun s p => pairSend s p.2 p.1) s

/-- Replaces the running proof. -/
def runSet (s : State) (f : PrfRun → PrfRun) : State := { s with prf := { s.prf with run := s.prf.run.map f } }

/-- Whether the partner can take or serve a proof (R471, R485). -/
def partnerUp (s : State) : Bool := (s.prf.pair == 2 || s.prf.pair == 3) && !(pairUp s).isEmpty
/-- Whether a storage target is configured (R477). -/
def storeUp (s : State) : Bool := regField s 0x90010 63 63 == 1

/-- The queue pair of the storage target, and its context's address (R396, R397). -/
def storeQp (s : State) : Nat := regField s 0x90010 51 40
/-- Address of a queue-pair context. -/
def qpAddr (s : State) (q : Nat) : Nat := regField s 0x8C010 45 20 * 2 ^ 20 + 0x40000 + 128 * q
/-- A word of a queue-pair context. -/
def qpWord (s : State) (q i : Nat) : Nat := leNat (paRead s 0 (qpAddr s q + 8 * i) 8).1

/-- A queue pair fails for good (R397): STATE becomes ERROR, and the event's syndrome is open. -/
def qpFail (s : State) (q : Nat) : State :=
  let w := qpWord s q 0
  let f := drawFree (paWrite s 0 (qpAddr s q) (leBytes 8 (putBits w 62 61 3)))
  writeEvent f.2 0x74 q (bitsOf w 60 56) (f.1 % 2 ^ 64)

/-- Storage address of slot `k`. -/
def storeAddr (s : State) (k : Nat) : Nat := (regGet s 0x90018 + k * (regField s 0x90020 9 0 * gib)) % 2 ^ 64

/-- Slot bytes of a target (R471). -/
def storeSlot (s : State) : Nat := regField s 0x90020 9 0 * gib

/-- Digest of an image as a slot header carries it: the 48 bytes in the order SHA-384 gives them. -/
def digestBytes (l : List Byte) : List Byte := (leBytes 48 (sha384 l)).reverse

/-- A slot header of 4 KiB (R475). -/
def slotHeader (st gen serial bytes : Nat) (dig : List Byte) : List Byte :=
  let h := leBytes 8 st ++ leBytes 8 gen ++ leBytes 8 (serial % 2 ^ 64) ++ leBytes 8 bytes ++ dig
  h ++ List.replicate (4096 - h.length) 0

/-- The bytes of an image held by a run. -/
def runImage (r : PrfRun) : List Byte := tabBytes r.img 0 r.bytes

/-- The storage request of a step (R477): kind 1 an RDMA READ (address and length), 2 an RDMA WRITE (address and data). -/
def stoRequest (s : State) (r : PrfRun) : Nat × List Byte :=
  let a := fun (k : Nat) => leBytes 8 (storeAddr s k)
  match r.sto with
  | 1 => (1, a 0 ++ leBytes 8 4096)
  | 2 => (1, a 1 ++ leBytes 8 4096)
  | 3 => if r.cmd = 6 then (2, a r.slot ++ slotHeader 1 r.gen Config.serial r.bytes []) else (1, leBytes 8 (storeAddr s r.slot + 4096) ++ leBytes 8 r.bytes)
  | 4 => (2, leBytes 8 (storeAddr s r.slot + 4096) ++ runImage r)
  | 5 => (2, a r.slot ++ slotHeader 2 r.gen Config.serial r.bytes (digestBytes (runImage r)))
  | _ => (1, a r.slot ++ leBytes 8 4096)

/-- Issues the storage request of the run's step over its queue pair's port; a queue pair that is not ready to send fails the
target; a halted ranger issues nothing (R461). -/
def stoIssue (s : State) : State :=
  match s.prf.run with
  | none => s
  | some r =>
    let w := qpWord s (storeQp s) 0
    if r.cmd = 6 ∧ rangerUp s = false then s
    else if bitsOf w 63 61 = 6 ∧ portUp s (bitsOf w 60 56) 2 = true then
      let x := stoRequest s r
      emit s (.packet (bitsOf w 60 56) x.1 x.2)
    else proofFail s 0x33

/-- The run goes to a storage step and issues its request. -/
def stoStep (s : State) (n : Nat) : State := stoIssue (runSet s (fun r => { r with sto := n, retry := 0 }))

/-- A COMMIT_FENCE is signalled (R470, R341); one that is not a writable local fence is not. -/
def commitFence (s : State) (r : PrfRun) : State :=
  let va := dWord r.body 7
  if va = 0 then s
  else
    match translate s r.root va with
    | (.leaf l, s) =>
      let pa := leafPA l va
      if eR l.ent && eW l.ent && decide (paTier pa < 3) && !(paTier pa == 2 && s.host.hold) then
        let x := fenceMax s (eSel l.ent) pa (dWord r.body 8)
        let s := if x.1 = 1 then writeEvent x.2.2 0x05 pa x.2.1 (dWord r.body 8) else if x.1 = 2 then writeEvent x.2.2 0x06 pa 0 0 else x.2.2
        waitSweep s pa
      else s
    | (_, s) => s

/-- Every named target has committed (R473, R478, R493): the event, the fence, and the PROOF's completion. -/
def proofCommitted (s : State) : State :=
  match s.prf.run with
  | none => s
  | some r =>
    if r.cmd ≠ 6 ∨ (r.want &&& r.ok) ≠ r.want then s
    else
      let s := { s with prf := { s.prf with gen := max s.prf.gen r.gen } }
      let s := if r.gone || r.auto then writeEvent s 0x60 r.gen r.ok r.bytes else s
      let s := commitFence s r
      let s := if r.gone then s else wearWriteVa s r.root (dWord r.body 6)
      proofEnd s 0 (proofD0 r) r.bytes

/-- A target fails (R476, R478): with both targets named the status is PROOF_TARGET_LOST. -/
def targetFail (s : State) (status : Nat) : State :=
  match s.prf.run with
  | none => s
  | some r => proofFail s (if r.cmd = 6 ∧ r.want = 3 then 0x33 else status)

/-- The partner's open slot (R475), as the source knows it. -/
def openSlot (s : State) : Nat := 1 - s.prf.pslot

/-- BEGIN (R476 step 1). -/
def sendBegin (s : State) : State :=
  match s.prf.run with
  | some r => if bitOf r.want 0 then pairSend s 0 (prfCell 1 r.gen (openSlot s) 0 0 0 []) else s
  | none => s

/-- Sends COMMIT once no PROOF cell is unacknowledged (R476 step 3); a halted ranger sends none (R461, R478). -/
def commitTry (s : State) : State :=
  match s.prf.run with
  | none => s
  | some r =>
    let busy := (List.range 24).any (fun i => portMode s i == 3 &&
      ((portGet s i).waitq ++ (portGet s i).replay).any (fun c => c.ty == 10))
    if r.cmd = 6 ∧ r.phase = 2 ∧ bitOf r.want 0 = true ∧ busy = false ∧ rangerUp s = true then
      pairSend (runSet s (fun r => { r with phase := 3 })) 0
        (prfCell 2 r.gen (openSlot s) 0 0 0 (leBytes 8 r.bytes ++ digestBytes (runImage r)))
    else s

/-- Starts a proof (R469 to R472): its checks in order, then capture. `q` and `idx` name the command; an automatic proof has
none. -/
def proofStart (s : State) (q idx : Nat) (auto : Bool) (body : List Byte) : State :=
  let k := queueGet s q
  let w := dWord body
  let fail := fun (s : State) (st : Nat) =>
    let s := regSet s 0x90048 39 32 st
    if auto then writeEvent s 0x61 st 0 1 else finish s [] q idx st 0 0
  if !s.prf.atClear.contains k.comp then fail s 0x31
  else
    match mfRead s k.root (w 1) k.comp (w 4) (w 5) with
    | (none, s) => fail s 0x32
    | (some (m, pages), s) =>
      let want := w 3 % 4
      let n := imageBytes s k.comp m
      if want = 0 || (bitOf want 0 && !partnerUp s) || (bitOf want 1 && !storeUp s) then fail s 0x33
      else if (bitOf want 0 && decide (Config.partnerSlot * gib < 4096 + n)) || (bitOf want 1 && decide (storeSlot s < 4096 + n)) then fail s 0x30
      else
        let off := n - sumLen (mfMem m)
        let r : PrfRun := {
          cmd := 6, q := q, idx := idx, auto := auto, gone := false, comp := k.comp, root := k.root, body := body,
          phase := 1, gen := max s.prf.gen (regField s 0x90050 31 0) + 1, slot := 0, bytes := n, img := tabPut [] 4096 m,
          have_ := [], pages := (pages.zip (List.range pages.length)).map (fun p => (p.1.1, p.1.2, off + p.2 * 2 ^ 26)),
          want := want, ok := 0, sto := 0, retry := 0, entry := 0 }
        let s := { s with prf := { s.prf with run := some r } }
        if bitOf want 1 then stoStep s 1 else sendBegin s

/-- The manifest of a run, as read at its start. -/
def runManifest (r : PrfRun) : List Byte := tabBytes r.img 4096 0x5000

/-- A page still to be read out is copied aside, and its writes go on (R472). -/
def pageCopy (s : State) (page : Nat) : State :=
  match s.prf.run with
  | none => s
  | some r =>
    match r.pages.find? (fun p => p.1 == page) with
    | none => s
    | some p =>
      let b := pageBytes s p.1 p.2.1
      let s := pageNotes s p.1
      if b.2 then proofFail (noteErr s 0xA95 1 0 0) 0x36
      else goOn (runSet s (fun r => { r with img := tabPut r.img p.2.2 b.1, pages := r.pages.erase p }))

/-- Every page still to be read out is read. -/
def readPages (s : State) (r : PrfRun) : Tab Byte × Bool :=
  r.pages.foldl (fun a p => let b := pageBytes s p.1 p.2.1; (tabPut a.1 p.2.2 b.1, a.2 || b.2)) (r.img, false)

/-- The staging area holds whatever capture left there (R472). -/
def stagingScrap (s : State) (root va n : Nat) : State :=
  (List.range (n / 2 ^ 26)).foldl (fun s i =>
    match translate s root (va + i * 2 ^ 26) with
    | (.leaf l, s) => if eW l.ent && paTier (ePage l.ent) == 0 then scrap s (eSel l.ent) (leafPA l (va + i * 2 ^ 26)) (2 ^ 26) else s
    | (_, s) => s) s

/-- Capture ends and the image goes to every target (R472, R473, R476, R477). -/
def captureDone (s : State) : State :=
  match s.prf.run with
  | none => s
  | some r =>
    if r.cmd ≠ 6 ∨ r.phase ≠ 1 ∨ (bitOf r.want 1 = true ∧ r.sto < 3) ∨ rangerUp s = false then s
    else
      let p := readPages s r
      let s := r.pages.foldl (fun s x => pageNotes s x.1) s
      if p.2 then proofFail (noteErr s 0xA95 1 0 0) 0x36
      else
        let r' := { r with img := tabPut p.1 0 (imageFront s r (runManifest r)), pages := [], phase := 2 }
        let s := posNotes { s with prf := { s.prf with run := some r' } } r.root (runManifest r)
        let s := stagingScrap s r.root (dWord r.body 4) (dWord r.body 5 * gib)
        let s := if bitOf (dWord r.body 3) 8 then
            let s := wearWriteVa s r.root (dWord r.body 6)
            let s := if r.auto then s else finish s [] r.q r.idx 0 (proofD0 r') r'.bytes
            runSet s (fun x => { x with gone := true })
          else s
        let s := if bitOf r.want 0 then pairCells s (prfPieces 0 r.gen (openSlot s) 0 (runImage r')) else s
        let s := if bitOf r.want 1 && r.sto == 9 then stoStep s 4 else s
        goOn (commitTry s)

/-- Whether pieces cover [p, n) (R476 step 4). -/
def coverFrom : Nat → List (Nat × Nat) → Nat → Nat → Bool
  | 0, _, p, n => decide (n ≤ p)
  | f + 1, l, p, n =>
    if n ≤ p then true
    else
      match l.find? (fun x => decide (x.1 ≤ p) && decide (p < x.1 + x.2)) with
      | some x => coverFrom f l (x.1 + x.2) n
      | none => false

/-- Whether pieces cover [a, a + n). -/
def covers (l : List (Nat × Nat)) (a n : Nat) : Bool := coverFrom (l.length + 1) l a (a + n)

/-- Image offset at which a slot header is asked for and returned: 4 KiB before the image, modulo 2^40. -/
def hdrOff : Nat := 2 ^ 40 - 4096

/-- Asks the partner for bytes of a slot in pieces of 16 MiB (R479, R486). -/
def readReqs (s : State) (gen slot off n : Nat) : State :=
  pairCells s ((List.range (cdiv n (2 ^ 24))).map (fun i => prfCell 4 gen slot (off + i * 2 ^ 24) (min (2 ^ 24) (n - i * 2 ^ 24)) 0 []))

/-- RESTORE's start (R486, R487 step 1). -/
def restoreStart (s : State) (q idx : Nat) (body : List Byte) : State :=
  let k := queueGet s q
  let w := dWord body
  let src := w 1 % 2
  let fail := fun (st : Nat) => finish (regSet s 0x90048 39 32 st) [] q idx st 0 0
  if !s.prf.atClear.contains k.comp then fail 0x31
  else if (src == 0 && !partnerUp s) || (src == 1 && !storeUp s) then fail 0x33
  else
    let r : PrfRun := {
          cmd := 7, q := q, idx := idx, auto := false, gone := false, comp := k.comp, root := k.root, body := body,
          phase := 1, gen := w 2 % 2 ^ 32, slot := 0, bytes := 0, img := [], have_ := [], pages := [], want := 1 + src, ok := 0,
          sto := 0, retry := 0, entry := 0 }
    let s := { s with prf := { s.prf with run := some r } }
    if src = 1 then stoStep s 1 else readReqs s r.gen 0 hdrOff 4096

/-- The place of header `k` in a run's image table. -/
def hdrAt (k : Nat) : Nat := hdrOff + 4096 * k

/-- The header of slot `k` as a RESTORE or a storage proof has read it. -/
def runHeader (r : PrfRun) (k : Nat) : List Byte := tabBytes r.img (hdrAt k) 80

/-- Whether a header names a committed proof of a serial, and its generation. -/
def headerGen (h : List Byte) (serial : Nat) : Option Nat :=
  if fieldAt h 0 1 % 16 = 2 ∧ fieldAt h 16 8 = serial % 2 ^ 64 then some (fieldAt h 8 4) else none

/-- The slot to take: the asked generation's, or the newest. -/
def pickSlot (a b : Option Nat) (asked : Nat) : Option Nat :=
  let ok := fun (x : Option Nat) => match x with | some g => asked == 0 || g == asked | none => false
  match ok a, ok b with
  | true, true => if a.getD 0 < b.getD 0 then some 1 else some 0
  | true, false => some 0
  | false, true => some 1
  | _, _ => none

/-- Both headers are read (R487 step 1): the image is asked for. -/
def restorePick (s : State) : State :=
  match s.prf.run with
  | none => s
  | some r =>
    match pickSlot (headerGen (runHeader r 0) Config.serial) (headerGen (runHeader r 1) Config.serial) r.gen with
    | none => proofFail s 0x35
    | some k =>
      let h := runHeader r k
      let s := runSet s (fun r => { r with slot := k, gen := fieldAt h 8 4, bytes := fieldAt h 24 8, have_ := [], phase := 2 })
      if bitOf r.want 1 then stoStep s 3 else readReqs s (fieldAt h 8 4) k 0 (fieldAt h 24 8)

/-- Offset of core `n`'s state in an image. -/
def coreOff (n : Nat) : Nat := 24576 + 22528 * n

/-- δ of R488 for a core's record and a stream's rule, modulo 2^128. -/
def skewOf (img : Tab Byte) (m : List Byte) (step n i : Nat) : Nat :=
  let ctr := leNat (tabBytes img (coreOff n + 32 * i + 8) 16)
  let x := mfRule m i
  (ctr + 2 ^ 128 - (x.2.2 + step * x.2.1) % 2 ^ 128) % 2 ^ 128

/-- The first checked stream that is askew (R488), with core and δ; and the number of them. -/
def skews (img : Tab Byte) (m : List Byte) (step cores : Nat) : List (Nat × Nat × Nat) :=
  (List.range cores).flatMap (fun n => (List.range 64).filterMap (fun i =>
    let d := skewOf img m step n i
    if (mfRule m i).1 && d != 0 then some (n, i, d) else none))

/-- A stream record read back (R468, R488). -/
def stipOf (img : Tab Byte) (m : List Byte) (step n i : Nat) (rewind : Bool) : Stip :=
  let o := coreOff n + 32 * i
  let f := fun (a l : Nat) => leNat (tabBytes img (o + a) l)
  if rewind && (mfRule m i).1 && skewOf img m step n i != 0 then
    { key := f 0 8, ctr := ((mfRule m i).2.2 + step * (mfRule m i).2.1) % 2 ^ 128, last := f 24 4, run := 0 }
  else { key := f 0 8, ctr := f 8 16, last := f 24 4, run := f 28 4 }

/-- A tag record read back (R468). -/
def tagOf (img : Tab Byte) (n i : Nat) : SrTag :=
  let o := coreOff n + 2048 + 80 * i
  let f := fun (a : Nat) => leNat (tabBytes img (o + a) 4)
  let t : SrTag := { amax := BitVec.ofNat 32 (f 68), upd := bitOf (f 64) 31, nonfin := bitOf (f 64) 30, hist := [],
                     head := bitsOf (f 64) 3 0, valid := bitsOf (f 64) 8 4 }
  (List.range 16).foldl (fun t j => { t with hist := tabSet (fun _ => 0) t.hist j (BitVec.ofNat 32 (f (4 * j))) }) t

/-- R487's step 7 on one core. -/
def restoreCore (img : Tab Byte) (m : List Byte) (step total n : Nat) (rewind : Bool) (k : Core) : Core :=
  let a := (List.range 64).foldl (fun a i => stipPut a i (stipOf img m step n i rewind)) k.a
  let a := (List.range 256).foldl (fun a i => tagPut a i (tagOf img n i)) a
  let base := coreOff total + 4096 + n * sumLen (mfPlate m)
  let a := ((mfPlate m).foldl (fun (x : Arch × Nat) p => (platePut x.1 p.1 (tabBytes img x.2 p.2), x.2 + p.2)) (a, base)).1
  { k with a := a }

/-- Writes a manifest's memory ranges from an image (R487 step 5), or leaves them open when `scrapIt`. -/
def restoreMem (s : State) (img : Tab Byte) (pages : List (Nat × Nat)) (off : Nat) (scrapIt : Bool) : State :=
  (pages.zip (List.range pages.length)).foldl (fun s p =>
    if scrapIt then scrap s p.1.2 (p.1.1 * 2 ^ 26) (2 ^ 26)
    else paWrite s p.1.2 (p.1.1 * 2 ^ 26) (tabBytes img (off + p.2 * 2 ^ 26) (2 ^ 26))) s

/-- The whole image has arrived: R487's steps 2 to 7. -/
def restoreRun (s : State) : State :=
  match s.prf.run with
  | none => s
  | some r =>
    let w := dWord r.body
    let img := r.img
    let f := fun (a l : Nat) => leNat (tabBytes img a l)
    let step := f 8 8
    let gs := compGroves s r.comp
    let counts := (List.range gs.length).all (fun i => f (40 + i) 1 == (groveServing s (gs.getD i 0)).length)
    let rewind := bitOf (w 1) 8
    if f 32 8 % 64 ≠ gs.length ∨ counts = false then proofEnd s 0x37 r.gen step
    else
      let m := tabBytes img 4096 0x5000
      let cs := compCores s r.comp
      let big := decide (cs.length * (22528 + sumLen (mfPlate m)) + 4 * gib ≤ w 4 * gib)
      match mfPages s r.root m with
      | none => proofEnd s 0x32 r.gen step
      | some pages =>
        if !mfForm m || stagingMeets m (w 3) (w 4) || !big || !(mfPosVa m).all (fun v => (argLeaf s r.root v).1.isSome) then
          proofEnd s 0x32 r.gen step
        else
          let sk := skews img m step cs.length
          match rewind, sk with
          | false, (n, i, d) :: _ =>
            let c := cs.getD n 0
            proofEnd s 0x34 r.gen (((gs.findIdx? (fun g => g == groveOf c)).getD 0) * 2 ^ 58 + (coreGet s c).logical % 64 * 2 ^ 52 +
              i * 2 ^ 46 + d % 2 ^ 40)
          | _, _ =>
            let off := r.bytes - sumLen (mfMem m)
            let s := stagingScrap s r.root (w 3) (w 4 * gib)
            if digestBytes (runImage r) ≠ tabBytes img (hdrAt r.slot + 32) 48 then
              proofEnd (noteErr (restoreMem s img pages off true) 0xA95 1 0 0) 0x36 r.gen step
            else
              let s := restoreMem s img pages off false
              let s := (cs.zip (List.range cs.length)).foldl (fun s p =>
                coreMap s p.1 (restoreCore img m step cs.length p.2 rewind)) s
              let po := coreOff cs.length
              let s := ((mfPosVa m).zip (List.range (mfPos m))).foldl (fun s p => vaWrite s r.root p.1 (tabBytes img (po + 8 * p.2) 8)) s
              proofEnd s 0 r.gen (if rewind then sk.length % 2 ^ 24 * 2 ^ 40 + step % 2 ^ 40 else step)

/-- READ_DATA reaches a RESTORE (R486, R487). -/
def restoreData (s : State) (slot off : Nat) (data : List Byte) : State :=
  match s.prf.run with
  | none => s
  | some r =>
    if r.cmd ≠ 7 ∨ bitOf r.want 1 = true then s
    else
      let at_ := if r.phase = 1 then off + 4096 * slot else off
      let img := tabPut r.img at_ data
      let l := (at_, data.length) :: r.have_
      let s := runSet s (fun r => { r with img := img, have_ := l })
      if r.phase = 1 then
        (if r.slot = 0 ∧ covers l (hdrAt 0) 4096 = true then
           readReqs (runSet s (fun r => { r with slot := 1 })) r.gen 1 hdrOff 4096
         else if r.slot = 1 ∧ covers l (hdrAt 1) 4096 = true then restorePick s else s)
      else if covers l 0 r.bytes then restoreRun s else s

/-- A storage response (R477, R486). -/
def stoResponse (s : State) (ok : Bool) (data : List Byte) : State :=
  match s.prf.run with
  | none => s
  | some r =>
    if r.sto = 0 ∨ r.sto = 9 then s
    else if !ok then targetFail (qpFail s (storeQp s)) 0x33
    else
      match r.sto with
      | 1 => stoStep (runSet s (fun r => { r with img := tabPut r.img (hdrAt 0) (data.take 4096) })) 2
      | 2 =>
        let s := runSet s (fun r => { r with img := tabPut r.img (hdrAt 1) (data.take 4096) })
        if r.cmd = 7 then restorePick s
        else
          match s.prf.run with
          | none => s
          | some r =>
            let a := headerGen (runHeader r 0) Config.serial
            let b := headerGen (runHeader r 1) Config.serial
            let open_ := match pickSlot a b 0 with | some k => 1 - k | none => 0
            let g := max r.gen (max (a.getD 0) (b.getD 0) + 1)
            sendBegin (stoStep (runSet s (fun r => { r with gen := g, slot := open_ })) 3)
      | 3 =>
        if r.cmd = 7 then restoreRun (runSet s (fun r => { r with img := tabPut r.img 0 (data.take r.bytes) }))
        else if r.phase = 1 then runSet s (fun r => { r with sto := 9 }) else stoStep s 4
      | 4 => stoStep s 5
      | 5 => stoStep s 6
      | _ =>
        if data.take 4096 = slotHeader 2 r.gen Config.serial r.bytes (digestBytes (runImage r)) then
          proofCommitted (runSet s (fun r => { r with ok := r.ok ||| 2, sto := 0 }))
        else targetFail s 0x36

/-- An RDMA request has timed out (R397): it is sent again until its retry count is used up. -/
def stoTimeout (s : State) : State :=
  match s.prf.run with
  | none => s
  | some r =>
    if r.sto = 0 ∨ r.sto = 9 then s
    else if r.retry < qpWord s (storeQp s) 5 % 256 then stoIssue (runSet s (fun r => { r with retry := r.retry + 1 }))
    else targetFail (qpFail s (storeQp s)) 0x33

/-- An entry of a reslice map (R489). -/
def mapEntry (b : List Byte) (i : Nat) : Nat × Nat × Nat × Nat :=
  (fieldAt b (32 * i) 8, fieldAt b (32 * i + 8) 8, fieldAt b (32 * i + 16) 8, fieldAt b (32 * i + 24) 8)

/-- Whether a map entry keeps R489's layout: its piece lies in the image, and its destination can take it. -/
def mapOk (s : State) (root bytes : Nat) (e : Nat × Nat × Nat × Nat) : Bool :=
  e.1 % 64 == 0 && e.2.1 % 64 == 0 && decide (e.2.1 ≤ 2 ^ 24) && decide (e.1 + e.2.1 ≤ bytes) && decide (e.2.2.2 < 2) &&
  (if e.2.2.2 = 1 then
     (List.range (cdiv e.2.1 64)).all (fun i => match (translate s root (e.2.2.1 + 64 * i)).1 with
       | .leaf l => eW l.ent && decide (paTier (ePage l.ent) < 3)
       | _ => false)
   else bitsOf e.2.2.1 63 40 != 0 && (maskPorts (bitsOf e.2.2.1 63 40)).all (fun p => portMode s p == 1))

/-- Marks the tiles of a RESLICE among the tiles that await acknowledgement; no mover has this number. -/
def resliceMover : Nat := 1000

/-- Sends a piece as TILE cells to its landing (R385, R489). -/
def sendPiece (s : State) (comp ent dest : Nat) (b : List Byte) : State :=
  let mask := bitsOf dest 63 40
  let o := bitsOf dest 23 0
  (List.range (cdiv (o % 1024 + b.length) 1024)).foldl (fun s i =>
    let lo := if i = 0 then 0 else 1024 * i - o % 1024
    let n := min (if i = 0 then 1024 - o % 1024 else 1024) (b.length - lo)
    let tag := s.ride.nextTag
    let s := { s with ride := { s.ride with nextTag := (tag + 1) % 2 ^ 24, tiles := s.ride.tiles ++ [⟨tag % 65536, resliceMover, ent, mask⟩] } }
    maskSend s mask i 2 (leBytes 16 (bitsOf dest 39 24 * 2 ^ 112 + period s comp * 2 ^ 96 + (o + lo) % 2 ^ 24 * 2 ^ 72 + tag % 65536 * 2 ^ 56) ++
      (b.drop lo).take n)) s

/-- A RESLICE completes once every piece has landed (R489). -/
def resliceTry (s : State) : State :=
  match s.prf.run with
  | some r => if r.cmd = 8 ∧ s.ride.tiles.any (fun t => t.mover == resliceMover) = false then proofEnd s 0 r.gen r.bytes else s
  | none => s

/-- A RESLICE fails: its outstanding tiles are no longer awaited. -/
def resliceFail (s : State) (status ent : Nat) : State :=
  match s.prf.run with
  | some r =>
    let s := { s with ride := { s.ride with tiles := s.ride.tiles.filter (fun t => t.mover != resliceMover) } }
    proofEnd s status (r.gen + ent * 2 ^ 32) r.bytes
  | none => s

/-- One map entry of a RESLICE: its piece is sent or written. A poisoned slot line ends the run. -/
def reslicePiece (s : State) (slot i : Nat) (e : Nat × Nat × Nat × Nat) : State :=
  match s.prf.run with
  | none => s
  | some r =>
    let d := resRead s (slotBase s slot + 4096 + e.1) e.2.1
    if d.2 then resliceFail (noteErr s 0xA95 1 0 0) 0x36 i
    else
      let s := runSet s (fun r => { r with bytes := r.bytes + e.2.1 })
      if e.2.2.2 = 1 then vaWrite s r.root e.2.2.1 d.1 else sendPiece s r.comp i e.2.2.1 d.1

/-- RESLICE (R489). -/
def resliceStart (s : State) (q idx : Nat) (body : List Byte) : State :=
  let k := queueGet s q
  let w := dWord body
  let partner := regGet s 0x90008
  let head := fun (j : Nat) => (resRead s (slotBase s j) 80).1
  let asked := if w 1 % 2 ^ 32 = 0 then regField s 0x90050 63 32 else w 1 % 2 ^ 32
  let fail := fun (s : State) (st g : Nat) => finish (regSet s 0x90048 39 32 st) [] q idx st g 0
  let slots := if slotGib s = 0 ∨ asked = 0 then none else pickSlot (headerGen (head 0) partner) (headerGen (head 1) partner) asked
  match slots with
  | none => fail s 0x35 asked
  | some j =>
    match readArg s k.root (w 2) (32 * w 3) with
    | (none, s) => fail s 0x32 asked
    | (some b, s) =>
      let es := (List.range (w 3)).map (mapEntry b)
      if !es.all (mapOk s k.root (fieldAt (head j) 24 8)) then fail s 0x32 asked
      else
        let r : PrfRun := {
          cmd := 8, q := q, idx := idx, auto := false, gone := false, comp := k.comp, root := k.root, body := body,
          phase := 0, gen := asked, slot := j, bytes := 0, img := [], have_ := [], pages := [], want := 0, ok := 0, sto := 0,
          retry := 0, entry := 0 }
        let s := { s with prf := { s.prf with run := some r } }
        resliceTry ((es.zip (List.range es.length)).foldl (fun s p => reslicePiece s j p.2 p.1) s)

/-- The automatic proof's descriptor (R481): its fields from PRF_AUTO, and STEP from the step word, open when it cannot be read. -/
def autoBody (s : State) : List Byte × State :=
  let q := regField s 0x90028 41 32
  let step := match readArg s (queueGet s q).root (regGet s 0x90040) 8 with
    | (some b, s) => (leNat b, s)
    | (none, s) => let f := drawFree s; (f.1 % 2 ^ 64, f.2)
  let t := regField s 0x90028 1 0 ||| (if s.prf.pair = 3 then 2 else 0)
  (words [6 * 2 ^ 43, regGet s 0x90030, step.1, t + regField s 0x90028 2 2 * 256, regGet s 0x90038, regField s 0x90028 25 16,
    0, 0, 0, 0, 0, 0, 0, 0, 0, 0], step.2)

/-- At the end of a clearing (R481): a pending automatic proof of a covered compartment runs. -/
def autoProof (s : State) (comps : List Nat) : State :=
  let s := if s.prf.autoNext && regField s 0x1F1000 16 16 == 1 then
      { s with prf := { s.prf with autoNext := false, autoPend := true } } else s
  let q := regField s 0x90028 41 32
  if s.prf.autoPend && comps.contains (queueGet s q).comp && s.prf.run.isNone && rangerUp s then
    let b := autoBody { s with prf := { s.prf with autoPend := false } }
    proofStart b.2 q 0 true b.1
  else s

end Sys2Proof.Machine
end

