-- ==== Sys2Proof/Machine/PowerOps.lean ====
section
/-! DEFINITION. Draw and power (R403 to R420): points, estimates, the effective cap, its division, and the stepping of a domain. -/

namespace Sys2Proof.Machine

/-- Domain `d`: stands 0 to 3, memory 4. -/
def domGet (s : State) (d : Nat) : Dom := tabGet (fun _ => dom0) s.pwr.doms d

/-- Replaces a domain. -/
def domSet (s : State) (d : Nat) (v : Dom) : State :=
  { s with pwr := { s.pwr with doms := tabSet (fun _ => dom0) s.pwr.doms d v } }

/-- Frequency in MHz and voltage in mV of a compute point (R410). -/
def standPoint (p : Nat) : Nat × Nat :=
  match p with
  | 0 => (1750, 900) | 1 => (1650, 880) | 2 => (1550, 860) | 3 => (1450, 840)
  | 4 => (1350, 820) | 5 => (1250, 800) | 6 => (1150, 780) | 7 => (1050, 760)
  | 8 => (950, 740) | 9 => (900, 730) | 10 => (850, 720) | 11 => (800, 710)
  | 12 => (700, 690) | 13 => (650, 680) | 14 => (550, 660) | _ => (500, 650)

/-- Frequency and voltage of a memory point (R411). -/
def memPoint (p : Nat) : Nat × Nat :=
  match p with
  | 0 => (1600, 850) | 1 => (1200, 800) | 2 => (800, 750) | _ => (400, 700)

/-- Point `p` of a domain. -/
def domPoint (d p : Nat) : Nat × Nat := if d < 4 then standPoint p else memPoint p

/-- The lowest point of a domain: P15 or M3. -/
def domFloor (d : Nat) : Nat := if d < 4 then 15 else 3

/-- A power field set in PWR_STATUS or read from it (R436): bit `i`. -/
def pwrFlag (s : State) (i : Nat) : Bool := regField s 0x70030 i i == 1

/-- Sets a flag of PWR_STATUS. -/
def pwrFlagSet (s : State) (i : Nat) (b : Bool) : State := regSet s 0x70030 i i (bnat b)

/-- The correction factor in 1/4,096 (R416). -/
def kFactor (s : State) : Nat := regField s 0x70048 47 32

/-- The hottest sensor of a stand, or of the canopy, in °C (R415, R534). -/
def domTemp (s : State) (d : Nat) : Nat :=
  ((if d < 4 then (s.pwr.temps.drop (4 * d)).take 4 else (s.pwr.temps.drop 16).take 12)).foldl max 0

/-- Counters of a domain in a list of the 37 counts (R415): eight for each stand, then five for memory. -/
def domCounts (cnt : List Nat) (d : Nat) : List Nat := if d < 4 then (cnt.drop (8 * d)).take 8 else (cnt.drop 32).take 5

/-- Σ wᵢcᵢ of a domain over an interval, in fJ. -/
def weighted (d : Nat) (cnt : List Nat) : Nat :=
  ((domCounts cnt d).zipIdx).foldl (fun a p => a + Config.calWeight d p.2 * p.1) 0

/-- The dynamic term without K, in fJ: (V / Vref)² × Σ wᵢcᵢ (R415). -/
def dynRaw (s : State) (d : Nat) (cnt : List Nat) : Nat :=
  let v := (domPoint d (domGet s d).point).2
  let r := if d < 4 then 900 else 850
  weighted d cnt * v * v / (r * r)

/-- Leakage over an interval at a point, in fJ (R415): mW × 2 µs. -/
def leakAt (s : State) (d p : Nat) : Nat := Config.calLeak d p (domTemp s d) * 2000000

/-- fJ in an interval of one DU at the measured voltage: 10 mA × 10 mV × 2 µs. -/
def duEnergy (volt : Nat) : Nat := 200000 * volt

/-- What an interval's estimates say: per domain the dynamic and the leakage energies, LINK's, and the sum, in fJ. -/
structure Est where
  dyn : List Nat
  leak : List Nat
  total : Nat
  /-- T, in fJ (R417, R418). -/
  t : Nat
  deriving DecidableEq, Repr

/-- LINK's allotment in DU (R405). -/
def linkAllot (s : State) : Nat := regField s 0x70018 12 0

/-- The estimates of an interval (R415 to R418). -/
def estimate (s : State) (volt curr : Nat) (cnt : List Nat) : Est :=
  let dyn := (List.range 5).map (fun d => kFactor s * dynRaw s d cnt / 4096)
  let leak := (List.range 5).map (fun d => leakAt s d (domGet s d).point)
  let e := linkAllot s * duEnergy volt + dyn.foldl (· + ·) 0 + leak.foldl (· + ·) 0
  let m := curr * duEnergy volt
  { dyn := dyn, leak := leak, total := e,
    t := if pwrFlag s 5 then e * 11 / 10 else if pwrFlag s 4 then max m e else e }

/-- Energy `x` scaled by T / E (R417). -/
def scaled (e : Est) (x : Nat) : Nat := if e.total = 0 then x else x * e.t / e.total

/-- Scaled estimate of a domain, in fJ. -/
def scaledEst (e : Est) (d : Nat) : Nat := scaled e (e.dyn.getD d 0 + e.leak.getD d 0)

/-- Scaled predicted draw of a domain at a point, in fJ (R413): leakage there, and the dynamic part × f′V′² / fV². -/
def predicted (s : State) (e : Est) (d p : Nat) : Nat :=
  let a := domPoint d (domGet s d).point
  let b := domPoint d p
  scaled e (leakAt s d p + e.dyn.getD d 0 * (b.1 * b.2 * b.2) / (a.1 * a.2 * a.2))

/-- Scaled predicted draw of a stand at the next duty (R419). -/
def predictedDuty (e : Est) (d duty : Nat) : Nat :=
  scaled e (e.leak.getD d 0 + e.dyn.getD d 0 * (duty + 2) / (duty + 1))

/-- The effective cap C (R406). -/
def effCap (s : State) : Nat :=
  let c := min (min (regField s 0x70008 12 0) (regField s 0x70010 12 0)) 4800
  if s.pwr.throttle.on then min c (regField s 0x70028 28 16) else c

/-- Budgets of MEMORY and COMPUTE (R406). A reserved PRIO, which no enable accepts, divides as 0b00. -/
def classBudgets (s : State) : Nat × Nat :=
  let r := effCap s - linkAllot s
  if regField s 0x70000 1 0 = 1 then
    let c := min (regField s 0x70018 44 32) r
    (r - c, c)
  else
    let m := min (regField s 0x70018 28 16) r
    (m, r - m)

/-- Stands with an enabled, unfenced core (R407). -/
def liveStands (s : State) : List Nat :=
  below 4 (fun t => (List.range 12).any (fun g => !(groveServing s (12 * t + g)).isEmpty))

/-- A stand's share of COMPUTE (R407). -/
def standShare (s : State) (t : Nat) : Nat := bitsOf (regGet s 0x70020) (4 * t + 3) (4 * t)

/-- A stand's budget out of a COMPUTE budget `b` (R407). -/
def standBudget (s : State) (b t : Nat) : Nat :=
  let l := liveStands s
  let n := l.length
  let m := regField s 0x70020 40 32
  if l.contains t = false then 0
  else if n * m ≤ b then
    let sum := l.foldl (fun a x => a + standShare s x) 0
    if sum = 0 then m + (b - n * m) / n else m + (b - n * m) * standShare s t / sum
  else b / n

/-- Budget of a domain, in DU. -/
def domBudget (s : State) (d : Nat) : Nat :=
  if d < 4 then standBudget s (classBudgets s).2 d else (classBudgets s).1

/-- Whether a thermal action is in force (R535): stand sensors 0 to 3, canopy stacks 4 to 15, edge 16; level 0 to 2. -/
def isHot (s : State) (sensor level : Nat) : Bool := s.pwr.hot.contains (4 * sensor + level)

/-- The highest point that the ceilings leave a domain (R421, R426, R435, R535), and the highest duty less one. -/
def ceiling (s : State) (d : Nat) : Nat × Nat :=
  if d < 4 then
    if isHot s d 2 then (15, 0)
    else if pwrFlag s 2 || s.pwr.alert.on || isHot s d 1 then (8, 7) else (0, 7)
  else
    let st := List.range 12
    if st.any (fun j => isHot s (4 + j) 2) then (3, 7)
    else if st.any (fun j => isHot s (4 + j) 1) then (2, 7) else (0, 7)

/-- Applies a domain's ceiling (R421, R426, R535): the clock goes down at once, and a step up in progress is abandoned
(R412, R435). -/
def applyCeiling (s : State) (d : Nat) : State :=
  let c := ceiling s d
  let v := domGet s d
  let v := if v.point < c.1 then { v with point := c.1, step := 1, target := c.1, fit := 0 }
    else if v.step = 2 ∧ v.target < c.1 then { v with step := 1, target := v.point, fit := 0 } else v
  domSet s d (if c.2 < v.duty then { v with duty := c.2, fit := 0 } else v)

/-- Applies every ceiling. -/
def applyCeilings (s : State) : State := (List.range 5).foldl applyCeiling s

/-- What a domain over its budget does (R413, R419): down to the highest point whose predicted draw fits, else to the
lowest; a stand at P15 lowers its duty. -/
def stepDown (s : State) (e : Est) (d budget : Nat) : State :=
  let v := domGet s d
  let fl := domFloor d
  if v.point < fl then
    let p := ((List.range (fl + 1)).find? (fun p => decide (v.point < p) && decide (predicted s e d p ≤ budget))).getD fl
    domSet s d { v with point := p, step := 1, target := p, fit := 0 }
  else if d < 4 then domSet s d { v with duty := v.duty - 1, fit := 0, step := if v.step = 2 then 1 else v.step }
  else s

/-- A domain within its budget (R413, R414, R419, R498): once an enable has been accepted, after ten intervals in which the next rise has fitted, it rises if its
ceiling and the rest `left` of the ramp limit allow. -/
def stepUp (s : State) (e : Est) (d budget left : Nat) : State × Nat :=
  let v := domGet s d
  if v.step ≠ 0 then
    -- a lower C abandons a step up in progress (R435)
    if v.step = 2 ∧ budget < predicted s e d v.target then (domSet s d { v with step := 1, target := v.point, fit := 0 }, left)
    else (s, left)
  else if v.point = 0 ∧ v.duty = 7 then (s, left)
  else
    let duty := decide (v.duty < 7)
    let need := if duty then predictedDuty e d v.duty else predicted s e d (v.point - 1)
    if budget < need then (domSet s d { v with fit := 0 }, left)
    else
      let fit := min 10 (v.fit + 1)
      let rise := need - scaledEst e d
      let c := ceiling s d
      let allowed := if duty then decide (v.duty < c.2) else decide (c.1 < v.point)
      if s.qsu.evOn ∧ fit = 10 ∧ allowed ∧ rise ≤ left ∧ !(s.pwr.alert.on && decide (d < 4)) ∧ pwrFlag s 3 = false then
        (domSet s d (if duty then { v with duty := v.duty + 1, fit := 0 } else { v with step := 2, target := v.point - 1, fit := 0 }),
          left - rise)
      else (domSet s d { v with fit := fit }, left)

/-- One domain's turn of an interval (R413): `left` is what the ramp limit still admits, in fJ. -/
def domTurn (e : Est) (volt : Nat) (a : State × Nat) (d : Nat) : State × Nat :=
  let s := a.1
  let b := domBudget s d
  let est := scaledEst e d
  let off := 0x70080 + 8 * d
  let s := regSet (regSet s off 44 32 (min 8191 b)) off 28 16 (min 8191 (if volt = 0 then 0 else est / duEnergy volt))
  if d < 4 ∧ (liveStands s).contains d = false then (s, a.2)
  else if b * duEnergy volt < est then (stepDown s e d (b * duEnergy volt), a.2)
  else stepUp s e d (b * duEnergy volt) a.2

/-- Whether every domain stands at its floor (R420): P15 at 1/8, M3. -/
def atFloors (s : State) : Bool :=
  (List.range 5).all (fun d =>
    (d != 4 && !(liveStands s).contains d) ||
    ((domGet s d).point == domFloor d && (d == 4 || (domGet s d).duty == 0)))

/-- An entry of the disturbance log of 256 (R404, R521), its PLDM report (R428), and its event. A halted ranger logs and
reports nothing (R461). -/
def disturb (s : State) (kind code a0 a1 : Nat) : State :=
  let l := s.pwr.log ++ [⟨s.pwr.logSeq, kind, a0, a1⟩]
  let s := if regField s 0x1F1010 10 10 = 1 then s
    else { s with pwr := { s.pwr with log := l.drop (l.length - 256), logSeq := s.pwr.logSeq + 1 } }
  let s := if rangerUp s then emit s (.pldm kind [a0, a1]) else s
  if code = 0 then s else writeEvent s code a0 a1 0

/-- Whether a sample is plausible in itself (R418). -/
def inBounds (volt curr : Nat) : Bool :=
  decide (2000 ≤ volt) && decide (volt ≤ 7000) && (decide (curr ≤ 6000) || (decide (65536 - 200 ≤ curr) && decide (curr < 65536)))

/-- The current as a signed reading: a negative one draws nothing. -/
def currDraw (curr : Nat) : Nat := if curr < 32768 then curr else 0

/-- Classification of a voltage sample (R404, R418, R421): sag, dropout, surge. -/
def classify (s : State) (volt : Nat) : State :=
  if pwrFlag s 5 then { s with pwr := { s.pwr with low := if volt < 3800 then s.pwr.low + 1 else 0 } }
  else
    let s := if volt < 4200 then pwrFlagSet s 2 true else s
    let s := if s.pwr.drop && decide (3800 ≤ volt) then
        disturb { s with pwr := { s.pwr with drop := false } } 2 0x24 s.pwr.ext s.pwr.dur else s
    let s := if s.pwr.surge && decide (volt ≤ 5950) then
        disturb { s with pwr := { s.pwr with surge := false } } 3 0x25 s.pwr.ext s.pwr.dur else s
    let p := s.pwr
    let p := if volt < 3800 then
        { p with drop := true, low := p.low + 1, ext := if p.drop then min p.ext volt else volt, dur := if p.drop then p.dur + 2 else 2 }
      else { p with low := 0 }
    let p := if 5950 < volt then
        { p with surge := true, ext := if p.surge then max p.ext volt else volt, dur := if p.surge then p.dur + 2 else 2 }
      else p
    { s with pwr := p }

/-- Whether a disturbance is active (R416). -/
def disturbed (s : State) : Bool := pwrFlag s 2 || s.pwr.drop || s.pwr.surge || s.pwr.ripple

/-- The interval's bookkeeping (R416 to R418, R420, R430): K's sums, agreement, plausibility, the cap's counts, energy. -/
def tally (s : State) (volt curr : Nat) (cnt : List Nat) (e : Est) : State :=
  let m := currDraw curr * duEnergy volt
  let p := s.pwr
  let diff := if m < e.total then e.total - m else m - e.total
  let agree := if pwrFlag s 5 then p.agree
    else if pwrFlag s 4 then (if diff * 100 ≤ 8 * m then p.agree + 1 else 0)
    else if 12 * m < diff * 100 then p.agree + 1 else 0
  let above := decide (effCap s * duEnergy volt < e.t)
  let bad := pwrFlag s 5 || disturbed s
  let dyn := (List.range 5).foldl (fun a d => a + dynRaw s d cnt) 0
  let s := { s with pwr := { p with
      agree := agree
      plaus := if inBounds volt curr then p.plaus + 1 else 0
      aboveN := if above && atFloors s then p.aboveN + 1 else 0
      under := if above then 0 else p.under + 1
      sumM := p.sumM + m
      sumL := p.sumL + linkAllot s * duEnergy volt + e.leak.foldl (· + ·) 0
      sumD := p.sumD + dyn
      spoil := p.spoil || bad
      energy := p.energy + e.t } }
  let s := if pwrFlag s 4 && decide (5000 ≤ agree) then
      let s := pwrFlagSet s 4 false
      { s with pwr := { s.pwr with agree := 0 } }
    else s
  if pwrFlag s 5 && decide (5000 ≤ s.pwr.plaus) then pwrFlagSet s 5 false else s

/-- Writes the free WAIT and STRETCH fields of the stands (R431, R436): what they measure is the timing of the cores. -/
def waitFractions (s : State) : State :=
  let f := drawFree s
  (List.range 4).foldl (fun s t =>
    regSet (regSet s (0x70080 + 8 * t) 63 56 (f.1 / 2 ^ (16 * t) % 256)) (0x70080 + 8 * t) 55 48 (f.1 / 2 ^ (16 * t + 8) % 256)) f.2

end Sys2Proof.Machine
end

