-- ==== Sys2Proof/Machine/QueueCmds.lean ====
section
/-! DEFINITION. Queue commands (R111, R197, R214, R227, R249, R252, R323 to R343) and the events of queue engines: each command row starts the first fetched descriptor of a queue, when its turn has come. -/

namespace Sys2Proof.Machine

/-- Completes a started command with a status and no other effect. -/
def finishAt (q : Nat) (t : Started) (st d0 d1 : Nat) : State := finish t.s [] q t.idx st d0 d1

/-- NOP, a reserved command, or a poisoned descriptor (R331, R357). -/
def nopRun (q : Nat) (t : Started) : State :=
  finishAt q t (if t.d.length < 128 then 0x03 else firstChecks t.s q t.d true) 0 0

/-- The mover a MOVE names (R330, R331, R449): one of its compartment that serves. -/
def moveSel (s : State) (k : Queue) (d : List Byte) : Option Nat :=
  if !hasComp k then none
  else if dWord d 2 = 255 then freestMover s ((compGroves s k.comp).flatMap (groveMovers s))
  else if inComp s k.comp (dWord d 2 / 4) then moverPick s (dWord d 2)
  else none

/-- Whether a mover can accept a stream (R197, R332). -/
def moverFree (s : State) (m : Nat) : Bool := (moverGet s m).cur.isNone && (moverGet s m).waiting.isEmpty

/-- What holds a MOVE (R332, R473): its mover, or a proof of its compartment. -/
def moveOwn (q : Nat) (s : State) (d : List Byte) : Bool :=
  let k := queueGet s q
  !prfHolds s k.comp &&
  match moveSel s k d with
  | some m => moverFree s m
  | none => true

/-- A MOVE or LAUNCH has started: its compartment is no longer at a clearing (R469). -/
def leaveClear (s : State) (comp : Nat) : State := { s with prf := { s.prf with atClear := setDel comp s.prf.atClear } }

/-- MOVE (R197, R330, R331). -/
def moveRun (q : Nat) (t : Started) : State :=
  let k := queueGet t.s q
  let t := { t with s := leaveClear t.s k.comp }
  let m := moveSel t.s k t.d
  let x := firstChecks t.s q t.d m.isSome
  if x ≠ 0 then finishAt q t x 0 0
  else
    match readArg t.s k.root (dWord t.d 1) 128, m with
    | (some desc, s), some m =>
      let n := newStream s desc q t.idx none k.root k.comp (dSeq t.d) (dCtx t.d) (bitOf (dHead t.d) 39 && dsRo desc)
      streamGive n.2 m n.1
    | (_, s), _ => finishAt q { t with s := s } 0x03 0 0

/-- Whether two RIDE entries' identifier ranges of `n` and `m` overlap over a shared UP port (R180). -/
def rideClash (e n f m : Nat) : Bool :=
  decide (chId e < chId f + m) && decide (chId f < chId e + n) && (chUp e &&& chUp f) != 0

/-- Whether an entry of a chain table is valid on its own (R180). -/
def chainEntryOk (s : State) (groves : List Nat) (e : Nat) : Bool :=
  let seg := bitsOf e 61 56
  let lead := bitsOf e 67 62 == 0x3F || groves.all (fun g => decide (bitsOf e 67 62 < (groveServing s g).length))
  bitsOf e 55 3 == 0 && decide (seg ≤ 48) &&
  match chKind e with
  | 0 => e == 0
  | 1 => bitsOf e 127 62 == 0
  | 2 => bitsOf e 127 68 == 0 && seg == 0 && lead
  | _ => seg == 0 && lead && !bitOf e 2 && !(chDown e == 0 && chUp e == 0) && (chDown e &&& chUp e) == 0 &&
      decide (chId e + groves.length ≤ 0x1000) && (maskPorts (chDown e ||| chUp e)).all (fun i => portMode s i == 1)

/-- The entries of a chain table. -/
def chainEntries (b : List Byte) : List Nat := (List.range 16).map (fun k => fieldAt b (16 * k) 16)

/-- The RIDE entries of a list. -/
def rideEntries (l : List Nat) : List Nat := l.filter (fun e => chKind e == 3)

/-- Whether no two entries of a list clash. -/
def noClash (n : Nat) : List Nat → Bool
  | [] => true
  | e :: r => !r.any (fun f => rideClash e n f n) && noClash n r

/-- The chain table's check (R180). -/
def chainOk (s : State) (groves : List Nat) (b : List Byte) : Bool :=
  let es := chainEntries b
  es.all (chainEntryOk s groves) && noClash groves.length (rideEntries es) &&
  !s.qsu.launches.any (fun l => (rideEntries (chainEntries l.chains)).any (fun f =>
    (rideEntries es).any (fun e => rideClash e groves.length f l.groves.length)))

/-- Whether a queue's next command is a LAUNCH of a compartment that could start but for the compartment's own order. -/
def launchNext (s : State) (q comp : Nat) : Bool :=
  let k := queueGet s q
  match k.buf with
  | [] => false
  | d :: _ => k.en && k.comp == comp && dCmd d == 2 && !clearCovers s q && orderOk k d && cplRoom k

/-- What holds a LAUNCH (R332, R473): a LAUNCH of its compartment that runs, or that is ready on a lower-numbered queue; or a
proof. LAUNCHes of one compartment that wait become ready together, when the one before them ends. DEDUCED (log 61). -/
def launchOwn (q : Nat) (s : State) (_ : List Byte) : Bool :=
  let k := queueGet s q
  !prfHolds s k.comp && !s.qsu.launches.any (fun l => l.comp == k.comp) &&
  !s.qsu.queues.any (fun p => decide (p.1 < q) && launchNext s p.1 k.comp)

/-- The identifiers a LAUNCH binds for receiving, as keys of the bindings since enable (R185). -/
def boundKeys (groves : List Nat) (b : List Byte) : List Nat :=
  (rideEntries (chainEntries b)).flatMap (fun e =>
    (maskPorts (chUp e)).flatMap (fun i => (List.range groves.length).map (fun j => 4096 * i + chId e + j)))

/-- The LAUNCH starts: the kernel is broadcast into the instruction buffers (R111 step 1), EXC_CAUSE is NONE (R121), and chain
cells that wait for a binding go on (R185). EXC_BUNDLE and LAST_NFLAGS become zero with EXC_CAUSE: R121 and R112 do not say
when they do. DESIGN CHOICE (log 60). -/
def launchStart (s : State) (q idx comp : Nat) (image chains : List Byte) : State :=
  let groves := compGroves s comp
  let cores := compCores s comp
  let s := cores.foldl (fun s c => coreMap s c (fun k =>
    { k with st := .loading, ibuf := tabPut [] 0 image, klen := image.length / 16, gated := false,
             exc := 0, excB := 0, rep := false, lastNf := 0 })) s
  let l : Launch := { q := q, idx := idx, comp := comp, groves := groves, cores := cores, loaded := false, chains := chains,
                      first := none, cut := false, streamAbort := false, links := [] }
  let s := { s with qsu := { s.qsu with launches := s.qsu.launches ++ [l] } }
  let s := { s with ride := { s.ride with bound := (boundKeys groves chains).foldl (fun t k => tabSet (fun _ => 0) t k (comp + 1)) s.ride.bound } }
  heldPumpAll s

/-- LAUNCH (R111, R180, R330, R331). -/
def launchRun (q : Nat) (t : Started) : State :=
  let k := queueGet t.s q
  let t := { t with s := leaveClear t.s k.comp }
  let x := firstChecks t.s q t.d (hasComp k && !(compCores t.s k.comp).isEmpty)
  let w := dWord t.d
  if x ≠ 0 then finishAt q t x 0 0
  else
    match readArg t.s k.root (w 1) (16 * w 4) with
    | (none, s) => finishAt q { t with s := s } 0x03 0 0
    | (some image, s) =>
      match argLeaf s k.root (w 2) with
      | (none, s) => finishAt q { t with s := s } 0x03 0 0
      | (some _, s) =>
        match (if w 3 = 0 then (some (List.replicate 256 0), s) else readArg s k.root (w 3) 256) with
        | (none, s) => finishAt q { t with s := s } 0x03 0 0
        | (some chains, s) =>
          if 2048 < w 4 then finishAt q { t with s := s } 0x04 0 0
          else if !chainOk s (compGroves s k.comp) chains then finishAt q { t with s := s } 0x22 0 0
          else launchStart s q t.idx k.comp image chains

/-- A core's state at the start of a kernel (R111): what the table lists, and nothing else. It waits to be started. -/
def coreSetUp (s : State) (l : Launch) (args lseq root c : Nat) (k : Core) : Core :=
  let g := groveOf c
  let sr : List (Nat × Nat) := [(1, k.logical), (2, g), (3, (groveServing s g).length), (4, l.groves.length),
    (5, (l.groves.findIdx? (fun x => x == g)).getD 0), (6, args)]
  let a := sr.foldl (fun a p => sput a p.1 (BitVec.ofNat 64 p.2)) { k.a with sreg := [] }
  { k with
    a := { a with vreg := [], preg := 0, nflags := 0, wbuf := [], wfmt := [], wk := [], stage := [], sfmt := 0 }
    pc := 0, lq := l.q, lseq := lseq, root := root, latch := slots0, fetched := [], tq := [], ended := false,
    bar := 0, waitTry := false, waitOk := false, gated := false }

/-- The launch a queue runs. -/
def launchOn (s : State) (q : Nat) : Option Launch := s.qsu.launches.find? (fun l => l.q == q)

/-- Per-stand draw in DU of a part that runs every enabled core of a stand at a point (R410). -/
def standDraw (p : Nat) : Nat :=
  [690, 628, 570, 515, 463, 415, 370, 328, 289, 271, 253, 237, 204, 189, 161, 148].getD p 148

/-- A grove's own estimated draw with issue stopped, in fJ over an interval (R29, R415): its cores' part of the stand's leakage,
and their clocks. DEDUCED (log 17). -/
def groveIdle (s : State) (g : Nat) : Nat :=
  let t := g / 12
  let n := (groveServing s g).length
  let all := ((List.range 12).map (fun i => (groveServing s (12 * t + i)).length)).sum
  let p := standPoint (domGet s t).point
  let ck := kFactor s * (Config.calWeight t 7 * (n * p.1 * 2) * p.2 * p.2 / (900 * 900)) / 4096
  (if all = 0 then 0 else leakAt s t (domGet s t).point * n / all) + ck

/-- The rise that a grove's start counts, in DU (R29): its cores' part of its stand's typical draw, times K, less its own draw
with issue stopped. -/
def groveRise (s : State) (g : Nat) : Nat :=
  let t := g / 12
  let n := (groveServing s g).length
  let all := ((List.range 12).map (fun i => (groveServing s (12 * t + i)).length)).sum
  let volt := regField s 0x70040 47 32
  let typ := if all = 0 then 0 else standDraw (domGet s t).point * n * kFactor s / (all * 4096)
  typ - (if volt = 0 then 0 else groveIdle s g / duEnergy volt)

/-- The ramp limit over an interval, in DU (R414): (RAMP + 1) × 0.5 A/µs × 2 µs. -/
def rampLimit (s : State) : Nat := (regField s 0x70000 11 8 + 1) * 100

/-- Whether a grove waits to be started: a LAUNCH that has set its cores up and is not cut. -/
def groveWaits (s : State) (g : Nat) : Bool :=
  s.qsu.launches.any (fun l => l.loaded && !l.cut && l.cores.any (fun c => groveOf c == g && decide ((coreGet s c).st = .loading)))

/-- Starts a grove's cores at bundle 0 (R111 step 3). -/
def groveStart (s : State) (g : Nat) : State :=
  (groveCores g).foldl (fun s c => if (coreGet s c).st = .loading then coreMap s c (fun k => { k with st := .running }) else s) s

/-- Admits grove starts, in ascending number, until the rises admitted in the interval would pass the limit (R29, R414). A rise
that alone passes it is admitted in an interval of its own. DESIGN CHOICE (log 17). -/
def rampStart (s : State) : State :=
  ((List.range 48).foldl (fun (a : State × Bool) g =>
    if !a.2 || !groveWaits a.1 g then a
    else
      let r := groveRise a.1 g
      let u := a.1.pwr.rampUsed
      if u = 0 ∨ u + r ≤ rampLimit a.1 then (groveStart { a.1 with pwr := { a.1.pwr with rampUsed := u + r } } g, true)
      else (a.1, false)) (s, true)).1

/-- LAUNCH_IMAGE_LOADED (R111): the loading cores are set up, and start as the ramp admits them. -/
def imageLoaded (s : State) (q : Nat) : State :=
  match launchOn s q with
  | none => s
  | some l =>
    match runOf s q l.idx with
    | none => s
    | some r =>
      if l.loaded || l.cut then s
      else
        let root := (queueGet s q).root
        let s0 := s
        let s := l.cores.foldl (fun s c =>
          if (coreGet s c).st = .loading then coreMap s c (coreSetUp s0 l (dWord r.desc 2) (dSeq r.desc) root c) else s) s
        rampStart { s with qsu := { s.qsu with launches := s.qsu.launches.map (fun x => if x.q = q then { x with loaded := true } else x) } }

/-- Whether any mover still has a stream of a core (R112). -/
def coreStreams (s : State) (c : Nat) : Bool :=
  s.movers.any (fun p => (match p.2.cur with | some st => st.core == some c | none => false) ||
    p.2.waiting.any (fun st => st.core == some c))

/-- Whether a core's part of a LAUNCH has ended (R112): ended or stopped, its stores drained, its streams done. -/
def coreDone (s : State) (c : Nat) : Bool :=
  let k := coreGet s c
  decide (k.st ≠ .running) && decide (k.st ≠ .stopping) && decide (k.st ≠ .loading) && k.sb.isEmpty &&
    (k.exc == 0 || k.rep) && !coreStreams s c

/-- The NFLAGS of a LAUNCH (R112): a core that was cut or aborted before it started counts none. DESIGN CHOICE (log 60). -/
def launchFlags (s : State) (l : Launch) : Nat := l.cores.foldl (fun f c => flOr f (coreGet s c).lastNf) 0

/-- Ends a LAUNCH with its status (R34, R112, R118, R119, R192, R205, R337). -/
def launchEnd (s : State) (l : Launch) : State :=
  let nf := launchFlags s l
  let st := if l.first.isSome then 0x20 else if l.cut then 0x0E else if bitOf nf 6 then 0x21 else if l.streamAbort then 0x23 else 0
  let e := match l.first with
    | some f => f.1 * 2 ^ 40 + f.2.1 * 2 ^ 28 + f.2.2 % 2048 * 2 ^ 17
    | none => 0
  let s := { s with qsu := { s.qsu with launches := s.qsu.launches.filter (fun x => x.q != l.q) } }
  finish s l.links l.q l.idx st (nf * 2 ^ 48 + e) 0

/-- LAUNCH_COMPLETE (R112). -/
def launchComplete (s : State) (q : Nat) : State :=
  match launchOn s q with
  | none => s
  | some l => if l.loaded && !l.cut && l.cores.all (coreDone s) then launchEnd s l else s

/-- A fence as a command finds it (R340, R342, R343): 0 unreadable, 1 local, 2 remote; its leaf and PA. -/
def fenceFind (s : State) (root va : Nat) (wr : Bool) : Nat × Nat × Nat :=
  match (translate s root va).1 with
  | .leaf l =>
    let pa := leafPA l va
    if !eR l.ent || (wr && !eW l.ent) then (0, 0, 0)
    else if paTier pa = 3 then (if (devTarget pa).1 = 2 then (2, pa, 0) else (0, 0, 0))
    else (1, pa, eSel l.ent)
  | _ => (0, 0, 0)

/-- A local fence's line must be free (R341). -/
def fenceOwn (q : Nat) (wr : Bool) (s : State) (d : List Byte) : Bool :=
  let f := fenceFind s (queueGet s q).root (dWord d 1) wr
  f.1 != 1 || !rangeHeld s qsuSrc f.2.2 f.2.1 8 wr

/-- Sends a remote SIGNAL as a fence message (R342, R345, R385, R392) over its one port, where it waits while that is down. -/
def remoteSignal (s : State) (q idx pa v : Nat) : State :=
  let t := devTarget pa
  let msg := s.ride.nextMsg
  let s := { s with ride := { s.ride with nextMsg := (msg + 1) % 2 ^ 28, waits := s.ride.waits ++ [⟨2, msg, t.2.1, q, idx⟩] } }
  portSend s t.2.1 3 (leBytes 16 (msg * 2 ^ 100 + t.2.2 * 2 ^ 64 + v)) (2 ^ t.2.1)

/-- SIGNAL (R340 to R342). -/
def signalRun (q : Nat) (t : Started) : State :=
  let k := queueGet t.s q
  let x := firstChecks t.s q t.d true
  if x ≠ 0 then finishAt q t x 0 0
  else
    let v := dWord t.d 2
    let f := fenceFind t.s k.root (dWord t.d 1) true
    let s := (translate t.s k.root (dWord t.d 1)).2
    let t := { t with s := s }
    match f.1 with
    | 0 => finishAt q t 0x03 0 0
    | 2 => if portUp s (devTarget f.2.1).2.1 1 then remoteSignal s q t.idx f.2.1 v else finishAt q t 0x07 0 0
    | _ =>
      let r := fenceMax s f.2.2 f.2.1 v
      let s := r.2.2
      let s := if r.1 = 1 then writeEventD s 0x05 q t.d f.2.1 r.2.1 v
        else if r.1 = 2 then writeEventD s 0x06 q t.d f.2.1 0 0 else s
      waitSweep (finishAt q { t with s := s } (match r.1 with | 0 => 0 | 1 => 0x05 | _ => 0x06) r.2.1 0) f.2.1

/-- WAIT (R343): its first read. -/
def waitRun (q : Nat) (t : Started) : State :=
  let x := firstChecks t.s q t.d true
  if x ≠ 0 then finishAt q t x 0 0 else waitRead t.s q ⟨t.idx, t.d, 0, 0, 0⟩

/-- A valid level-1 table address (R212). -/
def l1Ok (a : Nat) : Bool := paTier a == 0 && decide (a < 2 ^ 46) && paValid a && a % 8192 == 0

/-- Header address of an enabled root (R211). -/
def rootHdr (s : State) (n : Nat) : Nat := regField s (0x41000 + 8 * n) 45 6 * 64

/-- XLT_SYNC (R214). -/
def syncRun (q : Nat) (t : Started) : State :=
  let x := firstChecks t.s q t.d true
  if x ≠ 0 then finishAt q t x 0 0
  else
    let s := t.s
    let n := dWord t.d 1
    let act := regGet s (0x42000 + 8 * n)
    if regField s (0x41000 + 8 * n) 63 63 = 0 then finishAt q t 0x27 act 0
    else
      let r := paRead s 0 (rootHdr s n) 64
      let s := readNotes s (rootHdr s n) 64
      let gen := fieldAt r.1 0 8
      let l1 := fieldAt r.1 8 8
      if r.2 || !l1Ok l1 then finishAt q { t with s := s } 0x27 act 0
      else if gen ≠ dWord t.d 2 ∨ gen ≤ act then finishAt q { t with s := s } 0x24 act 0
      else
        let s := xltPut s (fun x => { x with l1 := tabSet (fun _ => 0) x.l1 n (l1 + 1) })
        finishAt q { t with s := regPut s (0x42000 + 8 * n) gen } 0 gen 0

/-- XLT_INVAL waits while three drains are outstanding (R228). -/
def invalOwn (s : State) (_ : List Byte) : Bool := decide (s.xlt.drains.length < 3)

/-- XLT_INVAL (R227): its removals, the next epoch, and its drain. -/
def invalRun (q : Nat) (t : Started) : State :=
  let x := firstChecks t.s q t.d true
  if x ≠ 0 then finishAt q t x 0 0
  else
    let w := dWord t.d
    let s := invalLeaves t.s (fun l => invalHit l (w 1 % 256) (bitOf (w 1) 8) (w 2) (w 3))
    xltPut s (fun x => { x with epoch := x.epoch + 1, drains := x.drains ++ [⟨q, t.idx, x.epoch⟩] })

/-- XLT_INVAL_DRAIN_DONE (R227, R228): the oldest drain completes once nothing of an earlier epoch is outstanding. -/
def invalDone (s : State) : State :=
  match s.xlt.drains with
  | [] => s
  | d :: r =>
    if epochBusy s d.epoch then s
    else finish (xltPut s (fun x => { x with drains := r })) [] d.q d.idx 0 0 0

/-- Byte `i` of the bias table with the bits of `n` pages from `p` as `v`, and its other bits as they were (R247, R249). -/
def biasByte (p n v i : Nat) (old : Byte) : Byte :=
  BitVec.ofNat 8 ((List.range 8).foldl (fun x j =>
    x + (if p ≤ 8 * i + j ∧ 8 * i + j < p + n then v else bnat (old.getLsbD j)) * 2 ^ j) 0)

/-- Lines of a slice's ways whose pages a range covers (R249). -/
def biasLine (p n line : Nat) : Bool :=
  let page := if lineTier line = 0 then lineOff line / 2 ^ 26 else 18432 + lineOff line / 2 ^ 26
  decide (lineTier line < 2) && decide (p ≤ page) && decide (page < p + n)

/-- Writes back and invalidates a slice's line, with its L1 copies (R244, R249, R278, R285). -/
def flushLine (s : State) (g line : Nat) (v : L2Way) : State :=
  let s := l2drop (backInval s g line) g line
  if v.st ≠ 2 then dirExact s line
  else
    let s := dirPut s line dir0
    if v.written then
      let s := memWrite s v.sel line fullMask v.data v.poison
      if lineTier line = 2 then dirtyEvict s line else s
    else if lineTier line = 2 then d2h (hostStPut s line 0) 5 line else s

/-- Writes back and invalidates every L2 line that `p` selects (R244, R249). -/
def flushLines (s : State) (p : Nat → L2Way → Bool) : State :=
  s.coh.l2.foldl (fun s x =>
    let line := x.2.tag * 4096 + x.1 / 16 % 4096
    if x.2.st ≠ 0 ∧ p line x.2 = true then flushLine s (x.1 / 65536) line x.2 else s) s

/-- The valid bits an L1 way keeps once the sectors whose lines `p` selects are invalidated. -/
def l1Keep (p : Nat → Bool) (x : Nat × L1Way) : Nat :=
  (List.range 4).foldl (fun a i =>
    let gone := p (x.2.tag * 256 + x.1 / 4 * 4 + i)
    a + (if x.2.valid.testBit i && !gone then 2 ^ i else 0)) 0

/-- Invalidates the sectors of an L1 whose lines `p` selects, whether presence bits cover them or not (R249, R267, R268). -/
def l1Clear (p : Nat → Bool) (k : Core) : Core :=
  let put := fun (t : Tab L1Way) (x : Nat × L1Way) => tabSet (fun _ => l1way0) t x.1 { x.2 with valid := l1Keep p x }
  { k with l1 := k.l1.foldl put k.l1 }

/-- BIAS_SET's own check (R249). -/
def biasRangeOk (d : List Byte) : Bool := decide (dWord d 1 + dWord d 2 ≤ 67584)

/-- BIAS_SET (R249): steps 1 and 2; its accesses hold until BIAS_WRITEBACK_DONE. -/
def biasRun (q : Nat) (t : Started) : State :=
  let x := firstChecks t.s q t.d true
  if x ≠ 0 then finishAt q t x 0 0
  else if !biasRangeOk t.d then finishAt q t 0x26 0 0
  else runPut t.s q t.idx (fun r => { r with phase := 1 })

/-- The running BIAS_SET of a queue. -/
def biasOf (s : State) (q : Nat) : Option RunCmd := (queueGet s q).run.find? (fun r => dCmd r.desc == 11 && r.phase == 1)

/-- The bits of a range set as one, in the table and in its cache (R249 step 3); the table's other bits stay as they are. -/
def biasFlip (s : State) (p n v : Nat) : State :=
  let pages := (List.range n).map (fun i => p + i)
  let b := pages.foldl (fun b x => if v = 1 then setAdd x b else setDel x b) s.tiers.bias
  let s := { s with tiers := { s.tiers with bias := b } }
  let lo := p / 8
  let hi := (p + n - 1) / 8
  let a := regField s 0x50020 45 14 * 16384
  let old := (paRead s 0 (a + lo) (hi + 1 - lo)).1
  paWrite s 0 (a + lo) ((List.range (hi + 1 - lo)).map (fun i => biasByte p n v (lo + i) (byteAt old i)))

/-- BIAS_WRITEBACK_DONE (R249): steps 2 to 4. -/
def biasDone (s : State) (q : Nat) : State :=
  match biasOf s q with
  | none => s
  | some r =>
    let w := dWord r.desc
    let p := biasLine (w 1) (w 2)
    if s.coh.busy.any (fun b => p b.line) || s.coh.ev.any (fun e => p e.line) then s else
    let s := if w 3 = 1 then coresMap (flushLines s (fun line _ => p line)) (fun _ k => l1Clear p k) else s
    let s := biasFlip s (w 1) (w 2) (w 3)
    goOn (finish s [] q r.idx 0 0 0)

/-- WINDOW_MOVE (R252). -/
def windowRun (q : Nat) (t : Started) : State :=
  let x := firstChecks t.s q t.d true
  let w := dWord t.d
  if x ≠ 0 then finishAt q t x 0 0
  else if !winValid t.s (w 1) (w 2) then finishAt q t 0x25 0 0
  else finishAt q { t with s := { t.s with tiers := { t.s.tiers with winBase := w 1, winSel := w 2 } } } 0 0 0

/-- Every doorbell line whose contents have changed wakes its queue, and the head line is judged (R224, R323). -/
def fallbackPoll (s : State) : State :=
  if regField s 0x30000 15 0 = 0 || s.host.hold then s
  else
    let s := (s.qsu.queues.map (·.1)).foldl (fun s q =>
      let k := queueGet s q
      if k.en && decide (slotLine s k ≠ k.seen) then queueWake s q else s) s
    headUpdate s

/-- NOP_CMD (R329). -/
def execNopCmd (q : Nat) (s : State) : Host.Outcome State Fault Refusal :=
  withUnit 1024 q (runLive s (fun s => startCmd s q (fun c => c == 0 || decide (13 ≤ c)) (fun _ _ => true) (nopRun q)))

/-- MOVE (R330). -/
def execMove (q : Nat) (s : State) : Host.Outcome State Fault Refusal :=
  withUnit 1024 q (runLive s (fun s => startCmd s q (· == 1) (moveOwn q) (moveRun q)))

/-- LAUNCH (R111). -/
def execLaunch (q : Nat) (s : State) : Host.Outcome State Fault Refusal :=
  withUnit 1024 q (runLive s (fun s => startCmd s q (· == 2) (launchOwn q) (launchRun q)))

/-- LAUNCH_IMAGE_LOADED (R111). -/
def execLaunchImageLoaded (q : Nat) (s : State) : Host.Outcome State Fault Refusal :=
  withUnit 1024 q (runLive s (fun s => imageLoaded s q))

/-- LAUNCH_COMPLETE (R112). -/
def execLaunchComplete (q : Nat) (s : State) : Host.Outcome State Fault Refusal :=
  withUnit 1024 q (runLive s (fun s => launchComplete s q))

/-- SIGNAL (R341). -/
def execSignal (q : Nat) (s : State) : Host.Outcome State Fault Refusal :=
  withUnit 1024 q (runLive s (fun s => startCmd s q (· == 3) (fenceOwn q true) (signalRun q)))

/-- WAIT (R343). -/
def execWait (q : Nat) (s : State) : Host.Outcome State Fault Refusal :=
  withUnit 1024 q (runLive s (fun s => startCmd s q (· == 4) (fun _ _ => true) (waitRun q)))

/-- FENCE_POLL (R343): a queue's WAIT reads its fence again, one in device memory in HOLD too (R376). -/
def execFencePoll (q : Nat) (s : State) : Host.Outcome State Fault Refusal :=
  withUnit 1024 q (runLive s (fun s => (waitsOf s q).foldl (fun s r => waitRead s q r) s))

/-- XLT_SYNC (R214). -/
def execXltSync (q : Nat) (s : State) : Host.Outcome State Fault Refusal :=
  withUnit 1024 q (runLive s (fun s => startCmd s q (· == 9) (fun _ _ => true) (syncRun q)))

/-- XLT_INVAL (R227). -/
def execXltInval (q : Nat) (s : State) : Host.Outcome State Fault Refusal :=
  withUnit 1024 q (runLive s (fun s => startCmd s q (· == 10) invalOwn (invalRun q)))

/-- XLT_INVAL_DRAIN_DONE (R228). -/
def execXltInvalDrainDone (s : State) : Host.Outcome State Fault Refusal := runLive s invalDone

/-- BIAS_SET (R249). -/
def execBiasSet (q : Nat) (s : State) : Host.Outcome State Fault Refusal :=
  withUnit 1024 q (runLive s (fun s => startCmd s q (· == 11) (fun _ _ => true) (biasRun q)))

/-- BIAS_WRITEBACK_DONE (R249). -/
def execBiasWritebackDone (q : Nat) (s : State) : Host.Outcome State Fault Refusal :=
  withUnit 1024 q (runLive s (fun s => biasDone s q))

/-- WINDOW_MOVE (R252). -/
def execWindowMove (q : Nat) (s : State) : Host.Outcome State Fault Refusal :=
  withUnit 1024 q (runLive s (fun s => startCmd s q (· == 12) (fun _ _ => true) (windowRun q)))

/-- QUEUE_WAKE (R323). -/
def execQueueWake (q : Nat) (s : State) : Host.Outcome State Fault Refusal :=
  withUnit 1024 q (runLive s (fun s => queueWake s q))

/-- DESC_REREAD (R324). -/
def execDescReread (q : Nat) (s : State) : Host.Outcome State Fault Refusal :=
  withUnit 1024 q (runLive s (fun s => descReread s q))

/-- FALLBACK_POLL (R323). -/
def execFallbackPoll (s : State) : Host.Outcome State Fault Refusal := runLive s fallbackPoll

end Sys2Proof.Machine
end

