-- ==== Sys2Proof/Machine/ClearCmds.lean ====
section
/-! DEFINITION. Clearings (R31 to R37, R113, R119, R184, R185, R333): CLEAR and the steps of R32. -/

namespace Sys2Proof.Machine

/-- The cores a clearing covers. -/
def clearCores (s : State) (c : Clearing) : List Nat := c.comps.flatMap (compCores s)

/-- Whether a proof, restore or reslice, or another clearing, keeps a clearing from its step 1 (R34, R37, R509). -/
def clearBlocked (s : State) (c : Clearing) : Bool :=
  (match s.prf.run with
   | some r => c.auto || (c.comps.contains r.comp && (r.cmd != 6 || r.phase == 1))
   | none => false) ||
  (c.auto && s.qsu.clears.any (fun x => !x.auto))

/-- Commands a clearing cuts (R34): MOVE, LAUNCH, SIGNAL, WAIT, BIAS_SET and WINDOW_MOVE. -/
def cuttable (cmd : Nat) : Bool := [1, 2, 3, 4, 11, 12].contains cmd

/-- Whether a clearing covers a queue's commands (R32, R333, R509). -/
def clearHits (c : Clearing) (q : Nat) (k : Queue) : Bool := c.auto || c.comps.contains k.comp || c.q == q

/-- Commands a clearing cuts at once: those without a mover or cores at work. A stream's MOVE completes in step 2, a LAUNCH in
step 4. -/
def cutNow (s : State) (q : Nat) (r : RunCmd) : Bool :=
  cuttable (dCmd r.desc) &&
  !(s.movers.any (fun p => match p.2.cur with | some st => st.core.isNone && st.q == q && st.idx == r.idx | none => false)) &&
  !(s.qsu.launches.any (fun l => l.q == q && l.idx == r.idx)) &&
  !(s.host.defer.any (fun d => d.q == q && d.idx == r.idx))

/-- Streams that wait at a mover and whose MOVE or core is cut are gone. -/
def dropWaiting (s : State) (c : Clearing) : State :=
  moversMap s (fun _ m => { m with waiting := m.waiting.filter (fun st => !c.comps.contains st.comp) })

/-- The accepted streams of the clearing's compartments are cut: their reads' data is discarded, their writes go on (R32). -/
def cutStreams (s : State) (c : Clearing) : State :=
  moversMap s (fun _ m => { m with cur := m.cur.map (fun st =>
    if c.comps.contains st.comp then { st with st := .cut, txns := if dsOp st.desc = 0 then [] else st.txns } else st) })

/-- Completions that await a zero-length read become those of cut commands (R34, R372). -/
def cutDefers (s : State) (c : Clearing) : State :=
  { s with host := { s.host with defer := s.host.defer.map (fun d =>
      let hit := match runOf s d.q d.idx with | some r => cuttable (dCmd r.desc) | none => false
      if clearHits c d.q (queueGet s d.q) && hit && d.status != 0x20 then { d with status := 0x0E } else d) } }

/-- A running MMA stops at a block boundary and a running drain at a row boundary, taking draws for the rows it converted
(R104, R113): which boundary is open. -/
def cutTensor (s : State) (c : Nat) : State :=
  (coreGet s c).tq.foldl (fun s e =>
    if e.started ∧ (vOp e.w = 4 ∨ vOp e.w = 5 ∨ vOp e.w = 7) then
      let f := drawFree s
      coreMap f.2 c (fun k => { k with a := tCutEffect f.1 e k.a, tq := k.tq.filter (fun y => y.id != e.id) })
    else s) s

/-- Step 1 on one core (R113): it stops at a bundle boundary, and what has not started is discarded. -/
def cutCore (s : State) (c : Nat) : State :=
  let s := tDiscard s c (·.started)
  let k := coreGet s c
  match k.st with
  | .running => cutTensor (coreSet s c (haltIssue k)) c
  | .stopping => cutTensor s c
  | .loading => coreSet s c { k with st := .idle }
  | _ => s

/-- The fetch buffers of the covered queues are discarded (R328); what stood in them is published and not fetched again. -/
def cutBuffers (s : State) (c : Clearing) : State :=
  s.qsu.queues.foldl (fun s p =>
    let k := queueGet s p.1
    if clearHits c p.1 k then queueSet s p.1 
      (let k := { k with buf := [], fetched := k.started, tries := 0, kept := false }
       if k.st = .idle ∨ k.st = .active ∨ k.st = .cplFull then qSettle k else k) else s) s

/-- DETAIL of a command that is cut (R337): a MOVE's mover, also while its stream waits there. -/
def cutDetail (s : State) (q idx : Nat) : Nat :=
  match s.movers.find? (fun p => p.2.waiting.any (fun st => st.core.isNone && st.q == q && st.idx == idx)) with
  | some p => p.1 * 256
  | none => 0

/-- Step 1 of a clearing (R32, R34, R113, R333): issue and fetch stop, and the running commands are cut. -/
def clearBegin (s : State) (c : Clearing) : State :=
  let s0 := s
  let s := cutStreams (dropWaiting s c) c
  let s := (clearCores s c).foldl cutCore s
  let s := { s with qsu := { s.qsu with launches := s.qsu.launches.map (fun l => if c.comps.contains l.comp then { l with cut := true } else l) } }
  let s := cutDefers s c
  let s := s.qsu.queues.foldl (fun s p =>
    if clearHits c p.1 p.2 then
      (p.2.run.filter (cutNow s p.1)).foldl (fun s r => finishNow s p.1 r.idx 0x0E (cutDetail s0 p.1 r.idx) 0) s
    else s) s
  let s := cutBuffers s c
  goOn { s with qsu := { s.qsu with clears := s.qsu.clears.map (fun x => if x = c then { c with step := 1 } else x) } }

/-- CLEAR waits for a clearing that overlaps it (R37). -/
def clearOwn (q : Nat) (s : State) (d : List Byte) : Bool :=
  !s.qsu.clears.any (fun c => c.auto || c.whole || bitOf (dWord d 1) 0 || c.comps.contains (queueGet s q).comp)

/-- CLEAR (R32, R331, R333). -/
def clearRun (q : Nat) (t : Started) : State :=
  let k := queueGet t.s q
  let whole := bitOf (dWord t.d 1) 0
  let x := firstChecks t.s q t.d (whole || hasComp k)
  if x ≠ 0 then finishAt q t x 0 0
  else
    let c : Clearing := { q := q, idx := t.idx, whole := whole, comps := if whole then List.range 48 else [k.comp], step := 0, auto := false }
    let s := { t.s with qsu := { t.s.qsu with clears := t.s.qsu.clears ++ [c] } }
    if clearBlocked s c then s else clearBegin s c

/-- Performs the writes of a cut stream that can be performed. -/
def cutWrites (s : State) (m : Nat) : State :=
  match (moverGet s m).cur with
  | none => s
  | some st => st.txns.foldl (fun s x => if txnReady s m st x then txnDo (txnTake s m st x) m st x else s) s

/-- A cut stream leaves its mover (R32, R34, R37, R388): its MOVE completes, and its tiles at ports that are down are
discarded. -/
def cutEnd (s : State) (m : Nat) : State :=
  match (moverGet s m).cur with
  | none => s
  | some st =>
    let v := moverGet s m
    let s := moverQuit (moverSet s m { v with cur := none }) m
    let tags := (s.ride.tiles.filter (fun t => t.mover == m)).map (·.tag)
    let s := { s with ride := { s.ride with tiles := s.ride.tiles.filter (fun t => t.mover != m) } }
    let s := (List.range 24).foldl (fun s i =>
      let p := portGet s i
      if p.st = 2 then s
      else portSet s i { p with waitq := p.waitq.filter (fun c => !(c.ty == 2 && tags.contains (bitsOf (tlHead c.data) 71 56))) }) s
    match st.core with
    | some _ => s
    | none => finish s (if st.hw then [st.link] else []) st.q st.idx 0x0E (m * 256) st.tdone

/-- The movers whose streams a clearing has cut. -/
def cutMovers (s : State) (c : Clearing) : List Nat :=
  (s.movers.filter (fun p => match p.2.cur with | some st => decide (st.st = .cut) && c.comps.contains st.comp | none => false)).map (·.1)

/-- The end of step 2 (R32). -/
def clearStep2 (s : State) (c : Clearing) : Option State :=
  let ms := cutMovers s c
  let s := ms.foldl cutWrites s
  if ms.all (fun m => match (moverGet s m).cur with | some st => st.txns.isEmpty | none => true) then
    let s := ms.foldl cutEnd s
    some ((clearCores s c).foldl (fun s x => coreMap s x sbDrainAll) s)
  else none

/-- Whether a core has nothing left before step 4 (R32, R113): its stores and loads, and what its array still ran. -/
def coreQuiet (k : Core) : Bool :=
  k.sb.isEmpty && k.loads.all (fun l => decide (l.kind = .pref)) && k.tq.all (fun e => tUnit e.w == 4)

/-- Whether a clearing covers a core's grove, be it fenced or not. -/
def clearGrove (s : State) (c : Clearing) (g : Nat) : Bool := c.comps.any (fun k => decide (k < 48) && bitOf (regGet s (0x30100 + 8 * k)) g)

/-- The chain sends of the cores that are cut are delivered, and what they still received is not consumed (R113); the counts of
every core of the compartments, fenced ones too, become zero (R184). -/
def sendOut (s : State) (cl : Clearing) (cs : List Nat) : State :=
  let empty := fun (s : State) => cs.foldl (fun s c =>
    let k := coreGet s c
    if k.recv.isEmpty && k.wire.isEmpty then s else coreSet s c { k with recv := [], wire := [] }) s
  let s := cs.foldl (fun s c =>
    let k := coreGet s c
    if k.tq.isEmpty then s else coreSet s c { k with tq := k.tq.filter (fun e => e.started && vOp e.w == 12) }) s
  let s := (List.range 6).foldl (fun s _ => cs.foldl (fun s c => if (coreGet s c).tq.isEmpty then s else chainLoop 257 (empty s) c) s) s
  let s := cs.foldl (fun s c => ((coreGet s c).cell.map (·.1)).foldl (fun s slot => closeCell s c slot) s) s
  let s := cs.foldl (fun s c => coreMap s c (fun k => { k with tq := [] })) s
  coresMap s (fun c k => if clearGrove s cl (groveOf c) then { k with recv := [], wire := [], cell := [], rsent := [], rrecv := [] } else k)

/-- Compartment of a chain cell that this complex sends. -/
def sentComp (s : State) (i : Nat) (d : List Byte) : Option Nat :=
  let id := bitsOf (fieldAt d 0 16) 127 116
  (s.qsu.launches.find? (fun l => (rideEntries (chainEntries l.chains)).any (fun e =>
    (chDown e).testBit i && decide (chId e ≤ id) && decide (id < chId e + l.groves.length)))).map (·.comp)

/-- What a clearing does with a cell held at a port (R35, R185, R391): 0 keeps it, 1 discards it, 2 discards and counts it. -/
def heldFate (s : State) (c : Clearing) (i : Nat) (x : RCell) : Nat :=
  match x.ty with
  | 1 =>
    if chainAhead s i x ≠ 0 then 0
    else if (chainBinding s i (bitsOf (fieldAt x.data 0 16) 127 116)).isNone then (if c.whole || c.auto then 2 else 0)
    else if c.comps.contains (chainComp s i x.data - 1) then 1 else 0
  | 2 =>
    match landEntry s (bitsOf (tlHead x.data) 127 112) with
    | some e => if c.comps.contains (leComp e) && bitsOf (tlHead x.data) 111 96 == period s (leComp e) then 1 else 0
    | none => 0
  | _ => 0

/-- The held cells, and the chain cells that wait at ports that are down, under a clearing (R35, R185, R388). A cell that still
waits for a credit or an acknowledgement at a port that is UP stays there with its period number, and the step ends without
it: R388 speaks of ports that are down alone. DESIGN CHOICE (log 59). -/
def clearPort (s : State) (c : Clearing) (i : Nat) : State :=
  let p := portGet s i
  let wait := if p.st = 2 then p.waitq
    else p.waitq.filter (fun x => !(x.ty == 1 && (c.whole || c.auto || (match sentComp s i x.data with | some k => c.comps.contains k | none => false))))
  let out := p.held.filter (fun x => heldFate s c i x != 0)
  if out.isEmpty ∧ wait = p.waitq then s
  else
    let bad := (out.filter (fun x => heldFate s c i x == 2)).length
    let s := portSet s i { p with waitq := wait, held := p.held.filter (fun x => heldFate s c i x == 0) }
    let s := out.foldl (fun s x => freeCredit s i x.ty) s
    idleOut (if bad = 0 then s else regCount s (0x80018 + 0x800 * i) 63 48 bad) i

/-- The end of step 4 (R32, R35, R113, R119, R184): sends are handed to their ports, which need not have had them acknowledged
(log 59). -/
def clearStep4 (s : State) (c : Clearing) : State :=
  let cs := clearCores s c
  let s := sendOut s c cs
  let s := (List.range 24).foldl (fun s i => clearPort s c i) s
  let s := pumpCores s (cs.filter (fun x => decide ((coreGet s x).st = .stopping)))
  let s := (s.qsu.launches.filter (fun l => l.cut && c.comps.contains l.comp)).foldl launchEnd s
  let per := c.comps.foldl (fun t k => tabSet (fun _ => 0) t k ((period s k + 1) % 65536)) s.qsu.period
  heldPumpAll { s with qsu := { s.qsu with period := per } }

/-- Step 8 on one core (R98, R101, R103, R107, R121). -/
def clearCore (k : Core) : Core :=
  let a := { k.a with tally := [], acc := [], kind := [], dirty := [] }
  let a := (List.range 64).foldl (fun a n => let t := stipGet a n; if t.run = 0 ∧ t.last = 0 then a else stipPut a n { t with last := t.run, run := 0 }) a
  let a := (List.range 256).foldl (fun a n => let t := tagGet a n; if t.upd then tagPut a n (tagPush t) else a) a
  { k with a := a, st := if k.st = .stopped then .idle else k.st }

/-- Whether a cut command has still to complete (R34). -/
def cutsLeft (s : State) (c : Clearing) : Bool :=
  s.qsu.queues.any (fun p => clearHits c p.1 p.2 && p.2.run.any (fun r => cuttable (dCmd r.desc)))

/-- The end of step 8 (R32, R469, R481): the CLEAR completes, and fetching resumes. -/
def clearStep8 (s : State) (c : Clearing) : State :=
  let s := (clearCores s c).foldl (fun s x => coreMap s x clearCore) s
  let drop := fun (s : State) => { s with qsu := { s.qsu with
      clears := if c.auto then s.qsu.clears.map (fun x => if x = c then { c with step := 9 } else x) else s.qsu.clears.filter (fun x => x != c) } }
  if c.auto then drop s
  else
    let s := drop (finish s [] c.q c.idx 0 0 0)
    let s := { s with prf := { s.prf with atClear := c.comps.foldl (fun t k => setAdd k t) s.prf.atClear } }
    let s := autoProof s c.comps
    (s.qsu.queues.map (·.1)).foldl (fun s q => if clearHits c q (queueGet s q) then queueWake s q else s) s

/-- A clearing goes to its next step. -/
def clearTo (s : State) (c : Clearing) (n : Nat) : State :=
  { s with qsu := { s.qsu with clears := s.qsu.clears.map (fun x => if x = c then { c with step := n } else x) } }

/-- The step under way of a clearing is done (R32); one whose condition does not hold yet goes on. -/
def clearNext (s : State) (c : Clearing) : State :=
  match c.step with
  | 0 => if clearBlocked s c then s else clearBegin s c
  | 1 => clearTo s c 2
  | 2 =>
    match clearStep2 s c with
    | some t => goOn (clearTo t c 3)
    | none => goOn (cutMovers s c |>.foldl cutWrites s)
  | 3 =>
    let s := (clearCores s c).foldl (fun s x => drainSb (coreMap s x sbDrainAll) x) s
    if (clearCores s c).all (fun x => coreQuiet (coreGet s x)) then clearTo s c 4 else s
  | 4 => clearTo (clearStep4 s c) c 5
  | 5 => clearTo s c 6
  | 6 => clearTo s c 7
  | 7 => clearTo ((c.comps.flatMap (compGroves s)).foldl l1InvalGrove s) c 8
  | 8 => if cutsLeft s c then s else clearStep8 s c
  | _ => s

/-- The clearing a queue's event is about: that of its CLEAR, or that of a disable. -/
def clearOf (s : State) (q : Nat) : Option Clearing := s.qsu.clears.find? (fun c => c.auto || c.q == q)

/-- CLEAR (R32). -/
def execClear (q : Nat) (s : State) : Host.Outcome State Fault Refusal :=
  withUnit 1024 q (runLive s (fun s => startCmd s q (· == 5) (clearOwn q) (clearRun q)))

/-- CLEARING_STEP_DONE (R32). -/
def execClearingStepDone (q : Nat) (s : State) : Host.Outcome State Fault Refusal :=
  withUnit 1024 q (runLive s (fun s => match clearOf s q with | some c => clearNext s c | none => s))

end Sys2Proof.Machine
end

