-- ==== Sys2Proof/Machine/CohCmds.lean ====
section
/-! DEFINITION. Coherence messages and events (R266 to R293): each message command takes one message in flight to its destination; a request that is not in flight is first issued by its slice. -/

namespace Sys2Proof.Machine

/-- The slice's cores go on after a change of a line: loads take it, stores and barriers proceed. A line that the slice
could not keep is handed to its loads as `d`. -/
def lineCame (s : State) (g line : Nat) (d : Option (List Byte × Bool)) : State :=
  pumpCores (feedLine s g line d) ((groveCores g).filter (fun c =>
    decide ((coreGet s c).st = .running) || decide ((coreGet s c).st = .stopping)))

/-- A request of a slice reaches the home (R281, R283): one in flight, or one the slice issues now from the line's stable
state. Requests that a bias change, a key command or the loss of the host holds stay. -/
def reqArrive (s : State) (k : MK) (slice line : Nat) : State :=
  let p := fun (m : Msg) => decide (m.k = k) && m.src == slice && m.line == line && m.dst == 100
  let st := l2st s slice line
  let fits := match k with
    | .upg => st == 1
    | _ => st == 0
  let s := if (s.coh.net.find? p).isNone && (mshrOf s slice line).isNone && fits && !groveFenced s slice && decide (lineTier line < 3) then
      request s slice line k 0 0 (k != .rdS) else s
  match takeMsg s p with
  | none => s
  | some (m, t) => if lineHeld s m.sel line (k != .rdS) || (lineTier line == 2 && s.host.hold) then s else homeMeet t m

/-- A request of an agent without a cache reaches the home (R283, R289). A write to an understory page not yet overwritten
waits for it (R256). -/
def agentArrive (s : State) (m : Msg) : State :=
  let s := if m.k != .rdCur then owWantLine s m.line else s
  if lineHeld s m.sel m.line (m.k != .rdCur) || (lineTier m.line == 2 && s.host.hold) || decide (3 ≤ lineTier m.line) then s
  else homeMeet s m

/-- The agent's message: from outside the slices, to the home. -/
def agentMsg (k : MK) (line sel mask tgt : Nat) (data : List Byte) : Msg :=
  { k := k, line := line, src := 200, dst := 100, data := data, poison := false, wr := false, sel := sel, mask := mask, tgt := tgt }

/-- A snoop reaches a slice (R282): its answer, and the data of an M line straight to the requester. -/
def snoopArrive (s : State) (k : MK) (slice line : Nat) : State :=
  match takeMsg s (fun m => decide (m.k = k) && m.dst == slice && m.line == line) with
  | none => s
  | some (_, s) =>
    let r := if groveFenced s slice then (MK.ackI, none, s) else snoop s k slice line
    let s := r.2.2
    let s := match r.2.1, busyOf s line with
      | some x, some b =>
        if 48 ≤ b.req.src ∨ b.req.k = .own then busyPut s line (fun y => { y with got := some x })
        else
          let m : Msg := { msg0 .data line slice b.req.src with data := x.data, poison := x.poison, sel := x.sel }
          match b.req.k with
          | .rdS =>
            if lineTier line = 2 then send s { m with tgt := 2, wr := x.wr }
            else send (send s { m with tgt := 1 }) { m with dst := 100 }
          | _ => send s { m with tgt := 2, wr := x.wr }
      | _, _ => s
    send s (msg0 r.1 line slice 100)

/-- A snoop's answer reaches the home. -/
def ackArrive (s : State) (k : MK) (slice line : Nat) : State :=
  match takeMsg s (fun m => decide (m.k = k) && m.src == slice && m.line == line && m.dst == 100) with
  | none => s
  | some (_, s) => heldPumpAll (homeAck s k slice line)

/-- Whether DATA on its way to the home can be taken: a copy of a line that stops being Modified, or the line of an eviction
whose EVA_DIRTY the home has accepted. -/
def homeTakes (s : State) (line : Nat) (m : Msg) : Bool :=
  decide (m.k = .data) && m.dst == 100 && m.line == line &&
  (m.tgt != 1 || (match busyOf s line with | some b => decide (b.req.k = .evaDirty) && b.req.src == m.src | none => false))

/-- Data on its way to the home of a line is written (R282: memory is written when a line stops being Modified). That of an
eviction ends it: a floor line goes to the host, and EVA_ACK answers (R281, R285). -/
def homeData (s : State) (line : Nat) : State :=
  match takeMsg s (homeTakes s line) with
  | none => s
  | some (m, s) =>
    let s := memWrite s m.sel line fullMask m.data m.poison
    if m.tgt = 1 then
      let s := busyDel (dirPut s line dir0) line
      send (if lineTier line = 2 then dirtyEvict s line else s) (msg0 .evaAck line 100 m.src)
    else s

/-- A slice's own message to the home: CMP, once its line has come. -/
def sendCmp (s : State) (slice line : Nat) : State := send (mshrDel s slice line) (msg0 .cmp line slice 100)

/-- A watched line has been read again (R274). -/
def watchDone (s : State) (slice line : Nat) : State :=
  { s with coh := { s.coh with watch := s.coh.watch.map (fun w =>
      if w.line = line ∧ w.slice = slice then { w with refetch := false } else w) } }

/-- A line granted to a slice is filled; a written one for which no way is free goes back to memory. -/
def fillOrReturn (s : State) (slice line cls st : Nat) (wr : Bool) (m : Msg) : State :=
  let t := l2fill s slice line cls st wr m.sel m.data m.poison
  if (l2find t slice line).isNone && m.wr then memWrite t m.sel line fullMask m.data m.poison else t

/-- DATA at a slice (R269 to R271, R281): the line is filled, WRITTEN where a store asked or its owner had written it, the
home is told, and what waited goes on. -/
def dataArrive (s : State) (slice line : Nat) : State :=
  match takeMsg s (fun m => decide (m.k = .data) && m.dst == slice && m.line == line) with
  | none => s
  | some (m, s) =>
    match mshrOf s slice line with
    | none => s
    | some r =>
      let s := fillOrReturn s slice line r.cls m.tgt (m.wr || (r.store && m.tgt == 2)) m
      lineCame (watchDone (sendCmp s slice line) slice line) slice line (some (m.data, m.poison))

/-- GNT at a slice (R281): M without data, WRITTEN where a store asked. OWN's line keeps its old bytes until the store is
performed (R296). A line that was invalidated while UPG waited is read again. -/
def grantArrive (s : State) (slice line : Nat) : State :=
  match takeMsg s (fun m => decide (m.k = .gnt) && m.dst == slice && m.line == line) with
  | none => s
  | some (m, s) =>
    match mshrOf s slice line with
    | none => s
    | some r =>
      let s := sendCmp s slice line
      match r.k, l2find s slice line with
      | .own, _ => lineCame (fillOrReturn s slice line r.cls 2 true m) slice line none
      | _, some w => lineCame (l2put s slice line w { l2get s slice line w with st := 2, written := r.store }) slice line none
      | _, none => request s slice line .rdM r.cls r.sel r.store

/-- NACK at a slice (R287): the requester will retry. -/
def nackArrive (s : State) (slice line : Nat) : State :=
  match takeMsg s (fun m => decide (m.k = .nack) && m.dst == slice && m.line == line) with
  | none => s
  | some (_, s) => mshrPut s slice line (fun m => { m with nacks := m.nacks + 1, retry := true })

/-- A slice's retry (R281, R287): from the line's stable state. -/
def nackRetry (s : State) (slice line : Nat) : State :=
  match mshrOf s slice line with
  | none => s
  | some m =>
    if m.retry then
      let k := if m.k = .upg ∧ l2st s slice line = 0 then MK.rdM else m.k
      send (mshrPut s slice line (fun x => { x with k := k, retry := false })) { msg0 k line slice 100 with sel := m.sel }
    else s

/-- CMP at the home (R276): the line is free, its memory written. -/
def cmpArrive (s : State) (slice line : Nat) : State :=
  match takeMsg s (fun m => decide (m.k = .cmp) && m.src == slice && m.line == line) with
  | none => s
  | some (_, s) => heldPumpAll (dirExact (busyDel (homeData s line) line) line)

/-- EVA_CLEAN at the home (R278): the slice leaves the sharer list, or the owner's entry goes. -/
def evaClean (s : State) (slice line : Nat) : State :=
  match takeMsg s (fun m => decide (m.k = .evaClean) && m.src == slice && m.line == line) with
  | none => s
  | some (_, s) =>
    let d := dirGet s line
    if d.st = 2 ∧ d.owner = slice then dirPut s line dir0
    else if d.st = 1 then
      let l := d.sharers - (d.sharers &&& 2 ^ slice)
      dirPut s line (if l = 0 then dir0 else { d with sharers := l })
    else s

/-- EVA_DIRTY at the home (R281): a transaction that its line's DATA ends; while another runs on the line it waits. One from
a slice that no longer owns the line is acknowledged and discarded, its line with it. -/
def evaDirty (s : State) (slice line : Nat) : State :=
  if lineBusy s line then s
  else
    match takeMsg s (fun m => decide (m.k = .evaDirty) && m.src == slice && m.line == line) with
    | none => s
    | some (m, s) =>
      let d := dirGet s line
      if d.st = 2 ∧ d.owner = slice ∧ (evFind s slice line).isSome then
        { s with coh := { s.coh with busy := s.coh.busy ++
          [{ line := line, req := m, wait := [], host := false, got := none, fwd := false, done := false }] } }
      else
        let keep := fun (x : Msg) => !(decide (x.k = .data) && x.src == slice && x.line == line && x.dst == 100 && x.tgt == 1)
        send { s with coh := { s.coh with net := s.coh.net.filter keep, stall := s.coh.stall.filter keep } } (msg0 .evaAck line 100 slice)

/-- EVA_ACK at the slice: the eviction buffer's entry is free, and what waited for the line asks again. -/
def evaAck (s : State) (slice line : Nat) : State :=
  match takeMsg s (fun m => decide (m.k = .evaAck) && m.dst == slice && m.line == line) with
  | none => s
  | some (_, s) =>
    match s.coh.ev.find? (fun e => e.slice == slice && e.line == line) with
    | some e => lineCame { s with coh := { s.coh with ev := s.coh.ev.erase e } } slice line none
    | none => s

/-- A reservation holder loses its turn (R288). -/
def resvLapse (s : State) (slice line : Nat) : State :=
  if resvHead s line = some slice then
    regCount { s with coh := { s.coh with resv := s.coh.resv.erase (line, slice) } } 0x60048 31 0 1
  else s

/-- What the complex holds of a floor line at host level (R285): 0 I, 1 S, 2 M in a slice. -/
def floorHeld (s : State) (line : Nat) : Nat :=
  if (ownerData s line).isSome then 2 else if hostSt s line = 1 then 1 else 0

/-- Whether the host agent can meet a host snoop: a floor line without a transaction, while the link is up. -/
def snoopable (s : State) (line : Nat) : Bool := lineTier line == 2 && !lineBusy s line && !s.host.hold

/-- A watched line has been invalidated by the host (R274, R292): a wake is owed, one for all invalidations until it is
given, and the line is read again at once unless a read of it is already under way. -/
def watchHit (s : State) (line : Nat) : State :=
  match s.coh.watch.find? (fun w => w.line == line) with
  | none => s
  | some w =>
    let s := { s with coh := { s.coh with watch := s.coh.watch.map (fun x => if x = w then { x with refetch := true, wake := true } else x) } }
    if w.refetch then s else request s w.slice line .rdS 3 0 false

/-- SnpData (R286). -/
def hostSnpData (s : State) (line : Nat) : State :=
  if !snoopable s line then s
  else
    match ownerData s line with
    | some x =>
      let s := (snoop s .snpS x.slice line).2.2
      let s := memWrite (hostStPut (dirPut s line ⟨1, 0, 2 ^ x.slice⟩) line 1) 0 line fullMask x.data x.poison
      emit (dirExact s line) (.snpRsp 3 line x.data)
    | none => emit s (.snpRsp (if hostSt s line = 1 then 1 else 0) line [])

/-- SnpInv (R286): every copy goes, and an M line that was written goes to the host; the host then stores `data`. -/
def hostSnpInv (s : State) (line : Nat) (data : List Byte) : State :=
  if !snoopable s line then s
  else
    let o := ownerData s line
    let h := hostSt s line
    let s := hostStPut (dirPut (dropAll s line) line dir0) line 0
    let s := match o with
      | some x => emit (if x.wr then memWrite s 0 line fullMask x.data x.poison else s) (.snpRsp 4 line (if x.wr then x.data else []))
      | none => emit s (.snpRsp (if h = 1 then 2 else 0) line [])
    let s := if data.length = 64 then memStore s 0 line fullMask data false else s
    watchHit s line

/-- SnpCur (R286). -/
def hostSnpCur (s : State) (line : Nat) : State :=
  if !snoopable s line then s
  else
    match ownerData s line with
    | some x => emit s (.snpRsp 5 line x.data)
    | none => emit s (.snpRsp (if hostSt s line = 1 then 1 else 0) line [])

/-- The host answers a D2H request (R285): the completion of a write-back (R306), else 2 grants M or E, 1 grants S; the home
goes on. -/
def hostAnswer (s : State) (line st : Nat) : State :=
  if s.host.hold then s
  else if s.coh.wb.contains line then goOn { s with coh := { s.coh with wb := s.coh.wb.erase line } }
  else
    match busyOf s line with
    | none => s
    | some b =>
      if b.host && lineTier line == 2 then
        let h := match floorNeed b.req.k (hostSt s line) b.req.mask with
          | 1 => if st = 2 then 2 else 1
          | 2 => 2
          | 8 => 2
          | 3 => hostSt s line
          | _ => 0
        let s := hostStPut (busyPut s line (fun x => { x with host := false })) line h
        heldPumpAll (homeSnoop s { b with host := false })
      else s

/-- The host answers a back-invalidate snoop (R284). -/
def biAnswer (s : State) (line : Nat) : State :=
  match busyOf s line with
  | none => s
  | some b =>
    if b.host && lineTier line != 2 then
      heldPumpAll (homeSnoop (busyPut s line (fun x => { x with host := false })) { b with host := false })
    else s

/-- Queues whose doorbell slot lies in a floor line (R322). -/
def lineQueues (s : State) (line : Nat) : List Nat :=
  (s.qsu.queues.filter (fun p => p.2.en && floorPA p.2.slot / 64 == line)).map (·.1)

/-- WATCH_WAKE (R224, R274, R323): the host's invalidation of a watched line wakes the engines that own it. -/
def watchWake (s : State) (line : Nat) : State :=
  match s.coh.watch.find? (fun w => w.line == line) with
  | none => s
  | some w0 =>
    let s := if !w0.wake && !w0.refetch && snoopable s line then hostSnpInv s line [] else s
    match s.coh.watch.find? (fun w => w.line == line) with
    | none => s
    | some w =>
      if w.wake then
        let s := { s with coh := { s.coh with watch := s.coh.watch.map (fun x => if x = w then { x with wake := false } else x) } }
        let s := (lineQueues s line).foldl queueWake s
        if floorPA (regField s 0x40020 42 6 * 64) / 64 = line then headUpdate s else s
      else s

/-- A write of COH_L1_INVAL (R267): ignored while one runs. -/
def l1InvalWrite (s : State) (v : Nat) : State :=
  if s.coh.l1busy then s else { s with coh := { s.coh with l1busy := true, l1inv := below 48 (fun g => bitOf v g) } }

/-- COH_L1_INVAL_WRITE (R267, R293). -/
def execCohL1InvalWrite (v : Nat) (s : State) : Host.Outcome State Fault Refusal := runLive s (fun s => l1InvalWrite s v)

/-- L1_INVAL_DONE (R267). -/
def execL1InvalDone (s : State) : Host.Outcome State Fault Refusal :=
  runLive s (fun s =>
    if s.coh.l1busy then
      let s := s.coh.l1inv.foldl l1InvalGrove s
      { s with coh := { s.coh with l1busy := false, l1inv := [] } }
    else s)

/-- A write of COH_L1_EN (R266, R268): groves that go off lose their presence bits; groves that go on without an
invalidation since are STALE. -/
def l1EnWrite (s : State) (v : Nat) : State :=
  let old := regGet s 0x60010
  let s := regPut s 0x60010 (v % 2 ^ 48)
  (List.range 48).foldl (fun s g =>
    if bitOf old g && !bitOf v g then
      { s with coh := { s.coh with
          l1clean := setDel g s.coh.l1clean
          l2 := s.coh.l2.foldl (fun t p => if p.1 / 65536 = g ∧ p.2.pres ≠ 0 then tabSet (fun _ => l2way0) t p.1 { p.2 with pres := 0 } else t) s.coh.l2 } }
    else if !bitOf old g && bitOf v g && !s.coh.l1clean.contains g then
      { s with coh := { s.coh with stale := setAdd g s.coh.stale } }
    else s) s

/-- COH_L1_EN_WRITE (R266, R268). -/
def execCohL1EnWrite (v : Nat) (s : State) : Host.Outcome State Fault Refusal := runLive s (fun s => l1EnWrite s v)

/-- A write of COH_PROBE_ADDR (R293): a lookup starts. -/
def probeWrite (s : State) (v : Nat) : State :=
  let s := regPut s 0x60030 (v &&& 0x3FFFFFFFFFC0)
  { s with coh := { s.coh with probeRun := true } }

/-- COH_PROBE_ADDR_WRITE (R293). -/
def execCohProbeAddrWrite (v : Nat) (s : State) : Host.Outcome State Fault Refusal := runLive s (fun s => probeWrite s v)

/-- PROBE_LOOKUP_DONE (R278, R293). -/
def execProbeLookupDone (s : State) : Host.Outcome State Fault Refusal :=
  runLive s (fun s =>
    if s.coh.probeRun then
      let line := regField s 0x60030 45 6
      let d := dirGet s line
      let x := if lineBusy s line then 3 * 2 ^ 61
        else if d.st = 2 then 2 * 2 ^ 61 + d.owner * 2 ^ 48
        else if d.st = 1 then 2 ^ 61 + (if mx1 s then d.sharers else 2 ^ 48 - 1)
        else 0
      { s with coh := { s.coh with probeRun := false, probe := 2 ^ 63 + x } }
    else s)

/-- RD_S (R283). -/
def execRdS (slice line : Nat) (s : State) : Host.Outcome State Fault Refusal :=
  withUnit 48 slice (runLive s (fun s => reqArrive s .rdS slice line))

/-- RD_M (R283). -/
def execRdM (slice line : Nat) (s : State) : Host.Outcome State Fault Refusal :=
  withUnit 48 slice (runLive s (fun s => reqArrive s .rdM slice line))

/-- UPG (R283). -/
def execUpg (slice line : Nat) (s : State) : Host.Outcome State Fault Refusal :=
  withUnit 48 slice (runLive s (fun s => reqArrive s .upg slice line))

/-- OWN (R283). -/
def execOwn (slice line : Nat) (s : State) : Host.Outcome State Fault Refusal :=
  withUnit 48 slice (runLive s (fun s => reqArrive s .own slice line))

/-- RD_CUR (R283): the copy returned is in the outward record. -/
def execRdCur (line sel : Nat) (s : State) : Host.Outcome State Fault Refusal :=
  runLive s (fun s => agentArrive s (agentMsg .rdCur line (sel % 64) 0 0 []))

/-- WR_INV (R283). -/
def execWrInv (line sel mask : Nat) (data : List Byte) (s : State) : Host.Outcome State Fault Refusal :=
  runLive s (fun s => agentArrive s (agentMsg .wrInv line (sel % 64) (mask % 2 ^ 64) 0 data))

/-- WR_HINT (R283, R290). -/
def execWrHint (line sel mask slice : Nat) (data : List Byte) (s : State) : Host.Outcome State Fault Refusal :=
  withUnit 48 slice (runLive s (fun s => agentArrive s (agentMsg .wrHint line (sel % 64) (mask % 2 ^ 64) slice data)))

/-- SNP_S (R282). -/
def execSnpS (slice line : Nat) (s : State) : Host.Outcome State Fault Refusal :=
  withUnit 48 slice (runLive s (fun s => snoopArrive s .snpS slice line))

/-- SNP_I (R282). -/
def execSnpI (slice line : Nat) (s : State) : Host.Outcome State Fault Refusal :=
  withUnit 48 slice (runLive s (fun s => snoopArrive s .snpI slice line))

/-- SNP_CUR (R282). -/
def execSnpCur (slice line : Nat) (s : State) : Host.Outcome State Fault Refusal :=
  withUnit 48 slice (runLive s (fun s => snoopArrive s .snpCur slice line))

/-- ACK_I (R282). -/
def execAckI (slice line : Nat) (s : State) : Host.Outcome State Fault Refusal :=
  withUnit 48 slice (runLive s (fun s => ackArrive s .ackI slice line))

/-- ACK_S (R282). -/
def execAckS (slice line : Nat) (s : State) : Host.Outcome State Fault Refusal :=
  withUnit 48 slice (runLive s (fun s => ackArrive s .ackS slice line))

/-- ACK_FWD (R282). -/
def execAckFwd (slice line : Nat) (s : State) : Host.Outcome State Fault Refusal :=
  withUnit 48 slice (runLive s (fun s => ackArrive s .ackFwd slice line))

/-- NACK (R287). -/
def execNack (slice line : Nat) (s : State) : Host.Outcome State Fault Refusal :=
  withUnit 48 slice (runLive s (fun s => nackArrive s slice line))

/-- NACK_RETRY (R287). -/
def execNackRetry (slice line : Nat) (s : State) : Host.Outcome State Fault Refusal :=
  withUnit 48 slice (runLive s (fun s => nackRetry s slice line))

/-- RESERVATION_LAPSE (R288): of a slice, or of an agent without a cache by its number. -/
def execReservationLapse (slice line : Nat) (s : State) : Host.Outcome State Fault Refusal :=
  withUnit 700 slice (runLive s (fun s => resvLapse s slice line))

/-- GNT (R281). -/
def execGnt (slice line : Nat) (s : State) : Host.Outcome State Fault Refusal :=
  withUnit 48 slice (runLive s (fun s => grantArrive s slice line))

/-- CMP (R276). -/
def execCmp (slice line : Nat) (s : State) : Host.Outcome State Fault Refusal :=
  withUnit 48 slice (runLive s (fun s => cmpArrive s slice line))

/-- EVA_ACK (R281). -/
def execEvaAck (slice line : Nat) (s : State) : Host.Outcome State Fault Refusal :=
  withUnit 48 slice (runLive s (fun s => evaAck s slice line))

/-- DATA (R279): to a slice, or to the line's home (destination 100). -/
def execData (dst line : Nat) (s : State) : Host.Outcome State Fault Refusal :=
  runLive s (fun s => if dst = 100 then heldPumpAll (homeData s line) else dataArrive s dst line)

/-- EVA_CLEAN (R278). -/
def execEvaClean (slice line : Nat) (s : State) : Host.Outcome State Fault Refusal :=
  withUnit 48 slice (runLive s (fun s => evaClean s slice line))

/-- EVA_DIRTY (R281). -/
def execEvaDirty (slice line : Nat) (s : State) : Host.Outcome State Fault Refusal :=
  withUnit 48 slice (runLive s (fun s => evaDirty s slice line))

/-- WATCH_WAKE (R274). -/
def execWatchWake (line : Nat) (s : State) : Host.Outcome State Fault Refusal :=
  runLive s (fun s => watchWake s line)

/-- HOST_SNP_DATA (R286). -/
def execHostSnpData (line : Nat) (s : State) : Host.Outcome State Fault Refusal :=
  runLive s (fun s => hostSnpData s line)

/-- HOST_SNP_INV (R286). -/
def execHostSnpInv (line : Nat) (data : List Byte) (s : State) : Host.Outcome State Fault Refusal :=
  runLive s (fun s => hostSnpInv s line data)

/-- HOST_SNP_CUR (R286). -/
def execHostSnpCur (line : Nat) (s : State) : Host.Outcome State Fault Refusal :=
  runLive s (fun s => hostSnpCur s line)

/-- HOST_CACHE_RESPONSE (R285). -/
def execHostCacheResponse (line st : Nat) (s : State) : Host.Outcome State Fault Refusal :=
  runLive s (fun s => hostAnswer s line st)

/-- BIRSP (R284). -/
def execBirsp (line : Nat) (s : State) : Host.Outcome State Fault Refusal :=
  runLive s (fun s => biAnswer s line)

end Sys2Proof.Machine
end

