-- ==== Sys2Proof/Machine/CoreEvents.lean ====
section
/-! DEFINITION. Events within a core (R83, R88, R114, R118, R139, R140, R182, R183, R295, R303, R305): what completes, returns or times out. -/

namespace Sys2Proof.Machine

/-- The scalar slot value that holds in issue at a core, its guard applied. -/
def holdingScalar (k : Core) : Nat :=
  match k.fetched with
  | [] => 0
  | b :: _ => scAct k.a b

/-- The data bytes of a load whose lines have all come: those of its address, or its whole lines. -/
def loadBytes (l : Load) : List Byte :=
  let all := l.parts.flatMap (fun p => match p.got with | some d => d.1 | none => [])
  if smSize l.width < 64 then (all.drop (l.pa % 64)).take (smSize l.width) else all

/-- Whether any line of a load came poisoned. -/
def loadBad (l : Load) : Bool := l.parts.any (fun p => match p.got with | some d => d.2 | none => false)

/-- A load whose second half is still to be read (R309) reads it: from its grove's slice where the line stands there, else as it
was when the first half was read. -/
def secondHalf (s : State) (c : Nat) (l : Load) : Load :=
  match l.split, l2find s (groveOf c) (l.pa / 64) with
  | true, some w =>
    let v := l2get s (groveOf c) (l.pa / 64) w
    let o := l.pa % 64 + 8
    { l with split := false, parts := l.parts.map (fun p => { p with got := p.got.map (fun d => (listPut d.1 o ((v.data.drop o).take 8), d.2 || v.poison)) }) }
  | _, _ => l

/-- A load's data returns (R110, R140, R305): the destination register is written, or POISONED_DATA is raised; WAITM's
read satisfies it when the word is at least rs2. -/
def loadReturn (s : State) (c tag : Nat) : State :=
  let k := coreGet s c
  match k.loads.find? (fun l => l.tag == tag) with
  | none => s
  | some l =>
    if l.parts.any (fun p => p.got.isNone) then s
    else
      let l := secondHalf s c l
      let s := coreSet s c { k with loads := k.loads.filter (fun x => x.tag != tag) }
      let s := match l.kind with
        | .pref => s
        | .wait =>
          if loadBad l then raiseExc s c xcPOISON l.bundle
          else
            coreMap s c (fun k => { k with waitOk := decide ((sget k.a (scRs2 (holdingScalar k))).toNat ≤ leNat (loadBytes l)) })
        | _ =>
          if loadBad l then raiseExc s c xcPOISON l.bundle
          else coreMap s c (fun k => { k with a := loadInto k.a l.width l.rd l.sx (loadBytes l) })
      pumpCore s c

/-- TENSOR_COMPLETE (R83): a started instruction of a unit finishes, and its unit is free. Landings whose data waited at the X
port behind it go on (R88, R391). -/
def execTensorComplete (core unit : Nat) (s : State) : Host.Outcome State Fault Refusal :=
  withUnit 2400 core (runLive s (fun s => landGo (tensorDone s core unit)))

/-- EXCEPTION_REPORT (R117 to R119): a core's first exception reaches the launch controller. -/
def execExceptionReport (core : Nat) (s : State) : Host.Outcome State Fault Refusal :=
  withUnit 2400 core (runLive s (fun s => excReport s core))

/-- LOAD_DATA_RETURN (R305). -/
def execLoadDataReturn (core tag : Nat) (s : State) : Host.Outcome State Fault Refusal :=
  withUnit 2400 core (runLive s (fun s => loadReturn s core tag))

/-- SB_ENTRY_TIMEOUT (R303): 32 cycles after its allocation an entry begins to drain. -/
def execSbEntryTimeout (core ent : Nat) (s : State) : Host.Outcome State Fault Refusal :=
  withUnit 2400 core (runLive s (fun s =>
    pumpCore (coreMap s core (fun k => { k with sb := k.sb.map (fun e => if e.id = ent then { e with draining := true } else e) })) core))

/-- STORE_PERFORMED (R295): a draining store is performed at the slice that holds its line in M, and its entry is free. -/
def execStorePerformed (core ent : Nat) (s : State) : Host.Outcome State Fault Refusal :=
  withUnit 2400 core (runLive s (fun s => pumpCore (storeDone s core ent) core))

/-- WAITP_REREAD (R139): the word is read again; once it is at least rs2 the bundle issues. -/
def execWaitpReread (core : Nat) (s : State) : Host.Outcome State Fault Refusal :=
  withUnit 2400 core (runLive s (fun s =>
    let k := coreGet s core
    let w := holdingScalar k
    if k.st = .running ∧ scOp w = 26 ∧ k.waitTry = true ∧
        (sget k.a (scRs2 w)).toNat ≤ leNat (plateGet k.a (scPlateRead k.a w).1 8) then
      pumpCore (coreSet s core { k with waitOk := true }) core
    else s))

/-- WAITM_REREAD (R140): the word is read again through the grove's L2. -/
def execWaitmReread (core : Nat) (s : State) : Host.Outcome State Fault Refusal :=
  withUnit 2400 core (runLive s (fun s =>
    let k := coreGet s core
    let w := holdingScalar k
    if k.st = .running ∧ scOp w = 27 ∧ k.waitTry = true ∧ k.waitOk = false ∧ !k.loads.any (fun l => decide (l.kind = .wait)) then
      let va := (sget k.a (scRs1 w)).toNat
      match memCheck s core va 8 false with
      | (0, some l, s) => if creditOk s core .wait (leafPA l va) 8 then startLoad s core .wait 0 3 false va k.pc l else s
      | (_, _, s) => s
    else s))

/-- CORE_CLOCK_GATE (R114, R303, R314): a core without a kernel drains its store buffer, and then gates its clock. -/
def execCoreClockGate (core : Nat) (s : State) : Host.Outcome State Fault Refusal :=
  withUnit 2400 core (runLive s (fun s =>
    let k := coreGet s core
    match k.st with
    | .running => s
    | .loading => s
    | .stopping => s
    | _ =>
      if k.sb.isEmpty then coreSet s core { k with gated := true }
      else drainSb (coreSet s core (sbDrainAll k)) core))

/-- HINT_WRITE (R87, R88): data arrives for the X port, within the plate; a full buffer leaves it with its mover. -/
def execHintWrite (core addr : Nat) (data : List Byte) (s : State) : Host.Outcome State Fault Refusal :=
  withUnit 2400 core (runLive s (fun s =>
    let k := coreGet s core
    if plateOk addr data.length && hintRoom k addr data.length then pumpCore (coreSet s core (hintArrive k 0 addr data)) core else s))

/-- CHAIN_WORD_ARRIVAL (R182): the oldest word on its way to a slot enters the receive buffer. -/
def execChainWordArrival (core slot : Nat) (s : State) : Host.Outcome State Fault Refusal :=
  withUnit 2400 core (runLive s (fun s => pumpCore (wordArrive s core slot) core))

/-- CHAIN_CELL_CLOSE_TIMEOUT (R183): the agent closes a partial cell. -/
def execChainCellCloseTimeout (core slot : Nat) (s : State) : Host.Outcome State Fault Refusal :=
  withUnit 2400 core (runLive s (fun s => pumpCore (closeCell s core slot) core))

end Sys2Proof.Machine
end

