-- ==== Sys2Proof/Machine/PowerCmds.lean ====
section
/-! DEFINITION. Meanings of the power commands (R403 to R429, R525, R535). -/

namespace Sys2Proof.Machine

/-- Divides energy among running commands (R430). The counters that R430 divides by are kept for each grove, mover, core and port
and reach no command row: the proportions are free, and what no command takes is left over (log 9). -/
def shareOut (s : State) (e : Nat) (l : List (Nat × Nat)) : State :=
  let w := fun (i : Nat) => Config.freeNat (s.free + i)
  let sum := ((List.range (l.length + 1)).map w).sum
  let s := { s with free := s.free + l.length + 1 }
  l.zipIdx.foldl (fun s p => runPut s p.1.1 p.1.2 (fun r => { r with fj := r.fj + e * w p.2 / sum })) s

/-- Commands that run on a queue and satisfy `p`, as (queue, index). -/
def runningCmds (s : State) (p : RunCmd → Bool) : List (Nat × Nat) :=
  s.qsu.queues.flatMap (fun x => (x.2.run.filter p).map (fun r => (x.1, r.idx)))

/-- An interval's energy goes to the commands that R430's table names: each stand's to the LAUNCHes on its groves, MEMORY's to
MOVEs and LAUNCHes, LINK's to every running command. -/
def shareEnergy (s : State) (e : Est) : State :=
  let on := fun (t : Nat) => (s.qsu.launches.filter (fun l => l.groves.any (fun g => g / 12 == t))).map (fun l => (l.q, l.idx))
  let s := (List.range 4).foldl (fun s t => shareOut s (scaledEst e t) (on t)) s
  let s := shareOut s (scaledEst e 4) (runningCmds s (fun r => dCmd r.desc == 1 || dCmd r.desc == 2))
  shareOut s (e.t - ((List.range 5).map (scaledEst e)).sum) (runningCmds s (fun _ => true))

/-- An interval of 2 µs (R403 to R420): the sample, its classification, the estimates, the budgets, the domains' steps, and the
grove starts that wait for the ramp (R29). -/
def cappingDo (s : State) (volt curr : Nat) (cnt : List Nat) : State :=
  let volt := volt % 65536
  let curr := curr % 65536
  let s := regSet (regSet s 0x70040 47 32 volt) 0x70040 15 0 curr
  let s := classify s volt
  let s := applyCeilings s
  let e := estimate s volt (currDraw curr) cnt
  let s := regSet s 0x70048 15 0 (if volt = 0 then 0 else min 65535 (e.t / duEnergy volt))
  let s := regSet s 0x70030 44 32 (effCap s)
  let ramp := (regField s 0x70000 11 8 + 1) * 100 * duEnergy volt
  let r := (List.range 5).foldl (domTurn e volt) (s, ramp)
  let s := shareEnergy r.1 e
  let s := { s with pwr := { s.pwr with rampUsed := if volt = 0 then 0 else (ramp - r.2) / duEnergy volt } }
  rampStart (waitFractions (tally s volt curr cnt e))

/-- CAPPING_INTERVAL: average voltage in 10 mV, current in DU (two's complement of 16 bits), and the 37 counts. -/
def execCappingInterval (volt curr : Nat) (cnt : List Nat) (s : State) : Host.Outcome State Fault Refusal :=
  runLive s (fun s => cappingDo s volt curr cnt)

/-- A domain's voltage has settled (R412): after a step up its clock glides to the target. -/
def settled (s : State) (d : Nat) : State :=
  let v := domGet s d
  match v.step with
  | 0 => s
  | 2 => domSet s d { v with point := v.target, step := 0, fit := 0 }
  | _ => domSet s d { v with step := 0, fit := 0 }

/-- VF_STEP_SETTLED: stands 0 to 3, memory 4. -/
def execVfStepSettled (dom : Nat) (s : State) : Host.Outcome State Fault Refusal :=
  runLive s (fun s => if dom < 5 then settled s dom else s)

/-- K after a millisecond (R416): one sixteenth of the way to the value that would have made the estimate equal the
measurement, within 0.75 to 1.25. -/
def nextK (k m l d : Nat) : Nat :=
  if d = 0 then k
  else
    let aim := (m - l) * 4096 / d
    let x := ((k : Int) + ((aim : Int) - k) / 16)
    (max 3072 (min 5120 x)).toNat

/-- K_UPDATE: a millisecond's end. -/
def kDo (s : State) : State :=
  let p := s.pwr
  let s := if p.spoil || pwrFlag s 5 || disturbed s then s else regSet s 0x70048 47 32 (nextK (kFactor s) p.sumM p.sumL p.sumD)
  { s with pwr := { s.pwr with sumM := 0, sumL := 0, sumD := 0, spoil := false } }

/-- K_UPDATE (R416). -/
def execKUpdate (s : State) : Host.Outcome State Fault Refusal := runLive s kDo

/-- Estimate of the latest interval in DU, from what the registers show (R436): LINK and each domain. -/
def shownTotal (s : State) : Nat := (List.range 5).foldl (fun a d => a + regField s (0x70080 + 8 * d) 28 16) (linkAllot s)

/-- EST_DIVERGE (R417): more than 0.12 M apart in every interval for 1 ms. -/
def divergeDo (s : State) : State :=
  if pwrFlag s 4 || pwrFlag s 5 || decide (s.pwr.agree < 500) then s
  else
    let s := pwrFlagSet s 4 true
    writeEvent { s with pwr := { s.pwr with agree := 0 } } 0x21 (shownTotal s) (currDraw (regField s 0x70040 15 0)) 0

/-- EST_DIVERGE. -/
def execEstDiverge (s : State) : Host.Outcome State Fault Refusal := runLive s divergeDo

/-- MEAS_IMPLAUSIBLE (R418), with its cause; a failed self-check is also an error of the FEED record (R441). -/
def implausibleDo (s : State) (cause : Nat) : State :=
  let v := regField s 0x70040 47 32
  let c := regField s 0x70040 15 0
  let holds := match cause with
    | 1 => decide (v < 2000) || decide (7000 < v)
    | 2 => !inBounds 5000 c
    | 3 => true
    | 4 => true
    | _ => false
  if pwrFlag s 5 || !holds then s
  else
    let s := pwrFlagSet s 5 true
    let s := writeEvent { s with pwr := { s.pwr with plaus := 0, spoil := true } } 0x22 cause 0 0
    if cause = 4 then noteErr s 0xA93 0 0 0 else s

/-- MEAS_IMPLAUSIBLE. -/
def execMeasImplausible (cause : Nat) (s : State) : Host.Outcome State Fault Refusal := runLive s (fun s => implausibleDo s cause)

/-- Every domain at its floor (R420): P15 at 1/8, M3. -/
def toFloors (s : State) : State :=
  (List.range 5).foldl (fun s d =>
    let v := domGet s d
    domSet s d { v with point := domFloor d, target := domFloor d, fit := 0, duty := if d < 4 then 0 else v.duty,
                        step := if v.point = domFloor d ∧ v.step ≠ 2 then v.step else 1 }) s

/-- CAP_UNREACHABLE (R420): T above C for ten intervals at the floors. -/
def unreachableDo (s : State) : State :=
  if pwrFlag s 3 || decide (s.pwr.aboveN < 10) then s
  else
    let s := toFloors (pwrFlagSet s 3 true)
    let c := effCap s
    let t := regField s 0x70048 15 0
    writeEvent (if rangerUp s then emit s (.pldm 6 [c, t]) else s) 0x20 c t 0

/-- CAP_UNREACHABLE. -/
def execCapUnreachable (s : State) : Host.Outcome State Fault Refusal := runLive s unreachableDo

/-- CAP_REACHED (R420): T within C for 1 ms. -/
def reachedDo (s : State) : State :=
  if !pwrFlag s 3 || decide (s.pwr.under < 500) then s
  else writeEvent (pwrFlagSet s 3 false) 0x2A (effCap s) (regField s 0x70048 15 0) 0

/-- CAP_REACHED. -/
def execCapReached (s : State) : Host.Outcome State Fault Refusal := runLive s reachedDo

/-- SAG_END (R404): the average has stayed at or above 44.0 V for 1 ms; the sag's lowest voltage and its duration. -/
def sagEndDo (s : State) (low dur : Nat) : State :=
  if !pwrFlag s 2 || decide (regField s 0x70040 47 32 < 4400) || pwrFlag s 5 then s
  else disturb (pwrFlagSet s 2 false) 1 0x23 low dur

/-- SAG_END. -/
def execSagEnd (low dur : Nat) (s : State) : Host.Outcome State Fault Refusal := runLive s (fun s => sagEndDo s low dur)

/-- A 1 ms ripple window with its peak-to-peak voltage (R404): the ripple ends at the first window within the limit, and is
logged at most once in 1,000 windows. -/
def rippleDo (s : State) (pp : Nat) : State :=
  let p := { s.pwr with ripGap := min 1000 (s.pwr.ripGap + 1) }
  if regField s 0x70028 15 0 < pp then
    { s with pwr := { p with ripple := true, ripplePp := if p.ripple then max p.ripplePp pp else pp } }
  else if p.ripple then
    let s1 := { s with pwr := { p with ripple := false, ripGap := if p.ripGap = 1000 then 0 else p.ripGap } }
    if p.ripGap = 1000 then disturb s1 4 0x26 p.ripplePp 0 else s1
  else { s with pwr := p }

/-- RIPPLE_WINDOW: peak-to-peak in 10 mV. -/
def execRippleWindow (pp : Nat) (s : State) : Host.Outcome State Fault Refusal := runLive s (fun s => rippleDo s pp)

/-- FEED_LOSS is declared (R422, R425): issue stops on every core, nothing starts, no host-bound write enters the queues;
the ranger reports it. From here the complex detects and starts nothing (R423, R465). -/
def declareLoss (s : State) : State :=
  let s := disturb s 5 0 (regField s 0x70040 47 32) 0
  regSet s 0x20008 18 16 5

/-- FEED_LOSS (R422): 20 µs below 38.0 V without a break; while the measurement is implausible the analogue comparator
declares it (R418). -/
def execFeedLoss (s : State) : Host.Outcome State Fault Refusal :=
  runLive s (fun s => if decide (10 ≤ s.pwr.low) || pwrFlag s 5 then declareLoss s else s)

/-- The writes queued at FEED_LOSS have been sent (R422, R423): clocks stop and links idle; the host and the neighbours see
them go down. -/
def freezeLinks (s : State) : State :=
  { s with host := { s.host with links := [] }, ride := { s.ride with ports := s.ride.ports.map (fun p => (p.1, { p.2 with lanes := 0 })) } }

/-- FEED_LOSS_WRITES_SENT. -/
def execFeedLossWritesSent (s : State) : Host.Outcome State Fault Refusal := .next (if frozen s then freezeLinks s else s)

/-- PWR_GOOD_LOW (R525): FEED_LOSS, whatever the feed reads. -/
def execPwrGoodLow (s : State) : Host.Outcome State Fault Refusal := runLive s declareLoss

/-- Pin 0 is THROTTLE_IN#, pin 1 FEED_ALERT# (R434). -/
def pinGet (s : State) (i : Nat) : Pin := if i = 0 then s.pwr.throttle else s.pwr.alert

/-- Replaces a pin and shows its state in PWR_STATUS (R436). -/
def pinPut (s : State) (i : Nat) (p : Pin) : State :=
  let s := pwrFlagSet s i p.on
  if i = 0 then { s with pwr := { s.pwr with throttle := p } } else { s with pwr := { s.pwr with alert := p } }

/-- A debounced assertion (R426, R427), `gap` µs after the previous one began: less than 100 µs begins a chatter episode. -/
def pinAssert (s : State) (i gap : Nat) : State :=
  let p := pinGet s i
  let chat := decide (gap < 100)
  let s := pinPut s i { on := true, raw := true, chat := p.chat || chat }
  let s := if chat && !p.chat then writeEvent (regSet s 0x70038 (2 * i + 1) (2 * i + 1) 1) 0x29 i 0 0 else s
  if i = 1 then applyCeilings s else s

/-- A debounced deassertion (R426): a chattering input still counts as asserted (R427). -/
def pinDeassert (s : State) (i : Nat) : State :=
  let p := pinGet s i
  pinPut s i { p with raw := false, on := p.chat }

/-- THROTTLE_IN_ASSERT: THROTTLE_CAP enters C from the next interval. -/
def execThrottleInAssert (gap : Nat) (s : State) : Host.Outcome State Fault Refusal := runLive s (fun s => pinAssert s 0 gap)

/-- THROTTLE_IN_DEASSERT. -/
def execThrottleInDeassert (s : State) : Host.Outcome State Fault Refusal := runLive s (fun s => pinDeassert s 0)

/-- FEED_ALERT_ASSERT: every stand runs at P8 or lower. -/
def execFeedAlertAssert (gap : Nat) (s : State) : Host.Outcome State Fault Refusal := runLive s (fun s => pinAssert s 1 gap)

/-- FEED_ALERT_DEASSERT. -/
def execFeedAlertDeassert (s : State) : Host.Outcome State Fault Refusal := runLive s (fun s => pinDeassert s 1)

/-- PIN_STUCK (R427): an input asserted for more than 100 ms; it is still obeyed. -/
def execPinStuck (pin : Nat) (s : State) : Host.Outcome State Fault Refusal :=
  runLive s (fun s => if pin < 2 ∧ (pinGet s pin).on = true then writeEvent (regSet s 0x70038 (2 * pin) (2 * pin) 1) 0x28 pin 0 0 else s)

/-- PIN_CHATTER_END (R427): the raw samples have stayed high for 10 ms. -/
def execPinChatterEnd (pin : Nat) (s : State) : Host.Outcome State Fault Refusal :=
  runLive s (fun s =>
    if pin < 2 ∧ (pinGet s pin).chat = true ∧ (pinGet s pin).raw = false then pinPut s pin pin0 else s)

/-- A grant from the rack manager in 0.01 A (R429). -/
def grantDo (s : State) (grant : Nat) : State :=
  if !rangerUp s then s
  else
    let old := regField s 0x70010 12 0
    let new := min grant 4800
    writeEvent (regSet (regSet s 0x70010 12 0 new) 0x70010 13 13 1) 0x27 old new 0

/-- PLDM_GRANT. -/
def execPldmGrant (grant : Nat) (s : State) : Host.Outcome State Fault Refusal := runLive s (fun s => grantDo s grant)

/-- State sensor 0x0030 (R428): RUN, SAG, CAP_UNREACHABLE, FEED_LOSS. -/
def stateSensor (s : State) : Nat := if frozen s then 3 else if pwrFlag s 3 then 2 else if pwrFlag s 2 then 1 else 0

/-- The PLDM sensors in R428's order and R534's: the averages over 1 ms are free values beside the latest reading. -/
def sensorDo (s : State) : State :=
  if !rangerUp s then s
  else
    let a := drawFree s
    let b := drawFree a.2
    emit b.2 (.pldm 16 ([a.1, b.1, s.pwr.energy / 10 ^ 15, effCap s, regField s 0x70048 15 0] ++
      (List.range 4).map (fun t => regField s (0x70080 + 8 * t) 63 56) ++ [regField s 0x70010 12 0, stateSensor s] ++ s.pwr.temps))

/-- SENSOR_REFRESH. -/
def execSensorRefresh (s : State) : Host.Outcome State Fault Refusal := runLive s sensorDo

/-- PWR_CAP_WRITE (R433, R436): CAP takes the low 13 bits; it acts at the next interval. -/
def execPwrCapWrite (v : Nat) (s : State) : Host.Outcome State Fault Refusal := runLive s (fun s => regSet s 0x70008 12 0 v)

/-- A sensor's reading by number: stands 0 to 3 their hottest, canopy stacks 4 to 15, edge 16 (R534). -/
def sensorTemp (temps : List Nat) (i : Nat) : Nat :=
  if i < 4 then ((temps.drop (4 * i)).take 4).foldl max 0 else temps.getD (12 + i) 0

/-- Threshold of a sensor's level (R535). -/
def threshold (i level : Nat) : Nat :=
  if i < 4 then [100, 105, 115].getD level 0 else if i < 16 then [95, 100, 105].getD level 0 else 100

/-- One thermal action (R535): it begins at its threshold, fires its source, and ends after 10 ms 5 °C below. -/
def thermalOne (s : State) (i level : Nat) : State :=
  let t := sensorTemp s.pwr.temps i
  let k := 4 * i + level
  if threshold i level ≤ t then
    let was := isHot s i level
    let s := { s with pwr := { s.pwr with hot := setAdd k s.pwr.hot, cool := tabSet (fun _ => 0) s.pwr.cool k 0 } }
    if level ≠ 0 ∨ was = true then s
    else if i < 4 then noteErr s (0xA8C + i) 3 0 0
    else if i < 16 then noteErr s (0xA50 + (i - 4)) 8 0 0
    else noteErr s 0xA8C 3 0 0
  else if isHot s i level then
    let n := if t + 5 ≤ threshold i level then tabGet (fun _ => 0) s.pwr.cool k + 1 else 0
    if n < 100 then { s with pwr := { s.pwr with cool := tabSet (fun _ => 0) s.pwr.cool k n } }
    else { s with pwr := { s.pwr with hot := setDel k s.pwr.hot, cool := tabSet (fun _ => 0) s.pwr.cool k 0 } }
  else s

/-- THERMAL_CHECK: the 29 sensors in R534's order. -/
def thermalDo (s : State) (temps : List Nat) : State :=
  let s := { s with pwr := { s.pwr with temps := temps.take 29 } }
  let s := (List.range 16).foldl (fun s i => (List.range 3).foldl (fun s l => thermalOne s i l) s) s
  applyCeilings (thermalOne s 16 0)

/-- THERMAL_CHECK. -/
def execThermalCheck (temps : List Nat) (s : State) : Host.Outcome State Fault Refusal := runLive s (fun s => thermalDo s temps)

end Sys2Proof.Machine
end

