-- ==== Sys2Proof/Machine/FaultCmds.lean ====
section
/-! DEFINITION. Meanings of the fault commands (R437 to R463): detection, block resets, quiet periods, force and injection, growth rings, the lookout and the ranger's load. -/

namespace Sys2Proof.Machine

/-- Poisons a line (R240). -/
def poisonLine (s : State) (line : Nat) : State :=
  { s with tiers := { s.tiers with poison := setAdd line s.tiers.poison } }

/-- The first draining store-buffer entry has failed its parity check (R314). -/
def markBad : List SbEntry → List SbEntry
  | [] => []
  | e :: r => if e.draining then { e with bad := true } :: r else e :: markBad r

/-- What an L2 error does to its line (R275): source 0 a clean line, 1 an M line, 3 a tag that cannot be corrected. The host is told
of a floor line that the complex has so lost, as of one that was not written. DEDUCED (log 62). -/
def sliceErr (s : State) (g src addr : Nat) : State :=
  let line := addr / 64
  match src with
  | 0 => if l2st s g line = 1 then dirExact (l2drop (backInval s g line) g line) line else s
  | 1 =>
    match l2find s g line with
    | none => s
    | some w =>
      let v := l2get s g line w
      if v.st ≠ 2 then s else ownerLost (l2drop (backInval s g line) g line) v line
  | 3 =>
    let key := (4096 * g + addr % 4096) * 16 + addr / 65536 % 16
    let v := tabGet (fun _ => l2way0) s.coh.l2 key
    let line := v.tag * 4096 + addr % 4096
    if v.st = 0 then s
    else
      let s := l2drop (backInval s g line) g line
      if v.st ≠ 2 then dirExact s line
      else if lineTier line = 2 then d2h (hostStPut (dirPut s line dir0) line 0) 5 line
      else dirPut s line dir0
  | _ => s

/-- What an error does to the unit that detects it, before its reaction (R86, R240, R241, R265, R275, R314, R441). -/
def errEffect (s : State) (rec k src addr : Nat) : State :=
  match k with
  | 0 =>
    match src with
    | 1 => raiseExc s rec xcFAULT (coreGet s rec).pc
    | 2 => coreMap s rec (fun c => match l1find c (addr / 64) with
        | some w => l1put c (addr / 64) w l1way0
        | none => c)
    | 3 => coreMap s rec (fun c => { c with sb := markBad c.sb })
    | _ => s
  | 1 => sliceErr s (rec - 0x960) src addr
  | 3 | 4 =>
    if (src = 1 ∨ src = 2) ∧ lineTier (addr / 64) < 2 ∧ ctlRecord (addr / 64) = rec ∧ paValid addr = true then poisonLine s (addr / 64) else s
  | 9 =>
    if src = 0 then { s with xlt := { s.xlt with cache := s.xlt.cache.filter (fun l => !leafHit l l.root addr) } } else s
  | _ => s

/-- An armed inversion is spent once the error it implies is found (R452). -/
def injSpent (s : State) (rec src : Nat) : State :=
  let o := frOff rec + 0x30
  if regField s o 63 63 = 1 ∧ regField s o 35 32 = src then regSet s o 63 63 0 else s

/-- A unit detects an error (R439 to R443). A source the class does not have is none (R441). -/
def detect (s : State) (rec src synd addr : Nat) : State :=
  match frClass rec with
  | none => s
  | some k =>
    if src < srcCount k then noteErr (errEffect (injSpent s rec src) rec k src addr) rec src synd addr else s

/-- ERROR_DETECTED: record index, source, syndrome and address. -/
def execErrorDetected (record src synd addr : Nat) (s : State) : Host.Outcome State Fault Refusal :=
  runLive s (fun s => detect s record src synd addr)

/-- A block reset ends (R444): the record is FAULTED, and held traffic goes on. -/
def resetEnd (s : State) (rec : Nat) : State :=
  match frClass rec with
  | none => s
  | some _ => if frState s rec = 2 then goOn (regSet s (frOff rec) 2 0 1) else s

/-- BLOCK_RESET_END (R444). -/
def execBlockResetEnd (record : Nat) (s : State) : Host.Outcome State Fault Refusal := runLive s (fun s => resetEnd s record)

/-- A quiet period passes (R443): the record recovers. -/
def quietEnd (s : State) (rec : Nat) : State :=
  match frClass rec with
  | none => s
  | some _ =>
    if frState s rec ≠ 1 then s
    else
      let ep := episodeOf s rec
      let s := regCount (regSet s (frOff rec) 2 0 0) (frOff rec + 0x40) 15 0 1
      let s := episodePut s rec 0
      if act ep 0 then writeEvent s 0x42 rec (regField s (frOff rec + 0x40) 15 0) 0 else s

/-- QUIET_PERIOD_EXPIRY (R443). -/
def execQuietPeriodExpiry (record : Nat) (s : State) : Host.Outcome State Fault Refusal := runLive s (fun s => quietEnd s record)

/-- Notes a forced error (R453). -/
def noteForced (s : State) (rec src : Nat) : State := { s with errs := s.errs ++ [⟨rec, src, 0, 0, true⟩] }

/-- A write of FR_FORCE (R453): it acts in BRINGUP, RECOVERY and TEST. -/
def force (s : State) (rec v : Nat) : State :=
  match frClass rec with
  | none => s
  | some k => if mode s < 3 then (below (srcCount k) (fun n => bitOf v n)).foldl (fun s n => noteForced s rec n) s else s

/-- FR_FORCE. -/
def execFrForce (record v : Nat) (s : State) : Host.Outcome State Fault Refusal := runLive s (fun s => force s record v)

/-- Sources of a class whose storage carries check bits or parity (R441, R452). -/
def hasCheck (k src : Nat) : Bool :=
  let m := match k with
    | 0 => 0x7F | 1 => 0x2F | 2 => 0xB | 3 => 0xC3 | 4 => 0x33 | 5 => 0x20 | 7 => 3 | 8 => 3 | 9 => 1 | 10 => 1 | 12 => 3 | 13 => 4 | _ => 0
  Nat.testBit m src

/-- A write of FR_INJECT (R452): of a source without check bits it is ignored, and ARM reads 0. -/
def inject (s : State) (rec v : Nat) : State :=
  match frClass rec with
  | none => s
  | some k =>
    if hasCheck k (bitsOf v 35 32) then
      regSet (regSet (regSet s (frOff rec + 0x30) 63 63 (bitsOf v 63 63)) (frOff rec + 0x30) 35 32 (bitsOf v 35 32)) (frOff rec + 0x30) 15 0 v
    else regSet s (frOff rec + 0x30) 63 63 0

/-- FR_INJECT_ARM. -/
def execFrInjectArm (record v : Nat) (s : State) : Host.Outcome State Fault Refusal := runLive s (fun s => inject s record v)

/-- Writing 1 to FIRST_VALID (R439): the latch clears. -/
def latchClear (s : State) (rec : Nat) : State :=
  match frClass rec with
  | none => s
  | some _ =>
    let o := frOff rec
    regPut (regPut (regPut s o (regField s o 2 0)) (o + 8) 0) (o + 16) 0

/-- FR_STATUS_CLEAR. -/
def execFrStatusClear (record : Nat) (s : State) : Host.Outcome State Fault Refusal := runLive s (fun s => latchClear s record)

/-- FLT_PIN_CLEAR (R463). -/
def execFltPinClear (s : State) : Host.Outcome State Fault Refusal := runLive s pinClear

/-- A delay monitor's or a stand's ring oscillators' report (R454, R455): the margin or the drift, and the rings grown since
the last one. -/
def delayReport (s : State) (rec v rings : Nat) : State :=
  match frClass rec with
  | some 0 =>
    let o := frOff rec + 0x80
    let old := regField s o 15 0
    let s := regSet (regSet s o 15 0 v) o 63 32 (regField s o 63 32 + rings)
    if v % 65536 < 40 ∧ (old = 0 ∨ 40 ≤ old) then noteErr s rec 7 0 0 else s
  | some 7 =>
    let o := frOff rec + 0x80
    let old := regField s o 31 16
    let s := regSet (regSet s o 31 16 v) o 63 32 (regField s o 63 32 + rings)
    if 300 < v % 65536 ∧ old ≤ 300 then noteErr s rec 2 0 0 else s
  | _ => s

/-- DELAY_MONITOR. -/
def execDelayMonitor (record v rings : Nat) (s : State) : Host.Outcome State Fault Refusal :=
  runLive s (fun s => delayReport s record v rings)

/-- FLT_RANGER_STATUS.SHED (R460). -/
def shedLevel (s : State) : Nat := regField s 0x1F1010 9 8

/-- The hourly fit (R456): the complex's prediction in days with its limiting core, and each stand's. While wear estimation is
shed, or before the history is restored, the last values stand. -/
def wearFit (s : State) (days core d0 d1 d2 d3 : Nat) : State :=
  if rangerUp s = false ∨ shedLevel s ≠ 0 ∨ s.flt.restored = false then s
  else
    let old := s.flt.eol
    let st := [(0, d0), (1, d1), (2, d2), (3, d3)].foldl (fun t p => tabSet (fun _ => 0xFFFF) t p.1 (p.2 % 65536)) s.flt.standEol
    let f := { s.flt with eol := days % 65536, eolCore := core % 4096, standEol := st }
    let s := if f = s.flt then s else topoChange { s with flt := f }
    if days % 65536 < 180 ∧ 180 ≤ old then writeEvent s 0x45 (days % 65536) (core % 4096) 0 else s

/-- WEAR_FIT. -/
def execWearFit (days core d0 d1 d2 d3 : Nat) (s : State) : Host.Outcome State Fault Refusal :=
  runLive s (fun s => wearFit s days core d0 d1 d2 d3)

/-- The terms of the risk estimate (R458): CE, AGE, FEED, TEMP, PARTNER. -/
def riskTerms (s : State) (ces sags : Nat) : List Nat :=
  let d := s.flt.eol
  let t := ((s.pwr.temps.take 16) ++ (s.pwr.temps.drop 28)).foldl max 0
  [min 96 (ces / 4), if 365 ≤ d then 0 else 64 * (365 - d) / 365, if s.pwr.alert.on then 48 else min 48 (16 * sags),
   min 48 (8 * (t - 95)), if s.prf.pair = 2 ∨ s.prf.pair = 3 then s.prf.risk / 4 else 0]

/-- The risk estimate from its terms and the floor of a co-fed pair (R458). -/
def riskOf (s : State) (terms : List Nat) : Nat :=
  let r := min 255 (terms.foldl (· + ·) 0)
  if s.prf.pair = 3 then max r (regField s 0x1F1000 15 8) else r

/-- The lookout's estimate every 100 ms, and what it does (R458, R459). -/
def lookout (s : State) (ces sags : Nat) : State :=
  if rangerUp s = false then s
  else
    let l := riskTerms s ces sags
    let r := riskOf s l
    let th := max 1 (regField s 0x1F1000 7 0)
    let above := decide (th ≤ r)
    let word := bnat (decide (s.prf.pair = 3)) * 2 ^ 49 + bnat above * 2 ^ 48 + l.getD 4 0 * 2 ^ 40 + l.getD 3 0 * 2 ^ 32 +
      l.getD 2 0 * 2 ^ 24 + l.getD 1 0 * 2 ^ 16 + l.getD 0 0 * 2 ^ 8 + r
    let s := regPut s 0x1F1008 word
    let rise := above && !s.flt.above && s.flt.armed
    let rearm := if th < 16 then decide (r = 0) else decide (r < th - 16)
    let s := { s with flt := { s.flt with above := above, armed := (s.flt.armed && !rise) || rearm } }
    if rise then
      let s := if regField s 0x1F1000 16 16 = 1 then { s with prf := { s.prf with autoPend := true } } else s
      writeEvent s 0x43 r (regField s 0x1F1000 7 0) word
    else s

/-- LOOKOUT_UPDATE: C-kind errors of the last 60 s, and sags and dropouts of the last 600 s. -/
def execLookoutUpdate (ces sags : Nat) (s : State) : Host.Outcome State Fault Refusal := runLive s (fun s => lookout s ces sags)

/-- A change of the shed level (R460): the event and the OVERLOAD error. -/
def shedPut (s : State) (lvl load : Nat) : State :=
  noteErr (writeEvent (regSet s 0x1F1010 9 8 lvl) 0x44 load lvl 0) 0xA94 3 0 0

/-- The ranger's busy fraction over a millisecond, in 1/256 (R460). -/
def loadCheck (s : State) (load : Nat) : State :=
  if rangerUp s = false then s
  else
    let load := load % 256
    let s := regSet s 0x1F1010 7 0 load
    let hi := if 256 * 9 < load * 10 then s.life.hi + 1 else 0
    let lo := if load * 10 < 256 * 7 then s.life.lo + 1 else 0
    let lvl := shedLevel s
    let s1 := { s with life := { s.life with hi := if hi = 10 then 0 else hi, lo := if lo = 100 then 0 else lo } }
    if hi = 10 ∧ lvl < 3 then shedPut s1 (lvl + 1) load
    else if lo = 100 ∧ 0 < lvl then shedPut s1 (lvl - 1) load
    else s1

/-- RANGER_LOAD_CHECK. -/
def execRangerLoadCheck (load : Nat) (s : State) : Host.Outcome State Fault Refusal := runLive s (fun s => loadCheck s load)

/-- WATCHDOG (R461): the ranger's firmware is halted. -/
def watchdogDo (s : State) : State :=
  if rangerUp s = false then s else noteErr (regSet (regSet s 0x20020 3 0 6) 0x1F1010 10 10 1) 0xA94 2 0 0

/-- WATCHDOG. -/
def execWatchdog (s : State) : Host.Outcome State Fault Refusal := runLive s watchdogDo

end Sys2Proof.Machine
end

