-- ==== Sys2Proof/Machine/HostOps.lean ====
section
/-! DEFINITION. The host port (R251, R351, R359 to R380): the window and its read-ahead buffer, links, MSI-X, and the loss of the host link. -/

namespace Sys2Proof.Machine

/-- Link `n`. -/
def linkGet (s : State) (n : Nat) : Link := tabGet (fun _ => link0) s.host.links n

/-- Replaces link `n`. -/
def linkPut (s : State) (n : Nat) (f : Link → Link) : State :=
  { s with host := { s.host with links := tabSet (fun _ => link0) s.host.links n (f (linkGet s n)) } }

/-- What the host has written into a function's configuration space. -/
def fnGet (s : State) (n : Nat) : FnCfg := tabGet (fun _ => fnCfg0) s.host.fns n

/-- Writes it. -/
def fnPut (s : State) (n : Nat) (c : FnCfg) : State :=
  { s with host := { s.host with fns := tabSet (fun _ => fnCfg0) s.host.fns n c } }

/-- Whether the host sees a link's function (R360): its link has trained, and so has link 0, without which none is seen. -/
def hostSees (s : State) (n : Nat) : Bool := (linkGet s n).trained && (linkGet s 0).trained

/-- Whether the window is stopped (R257, R378): the host link has been lost, and a function that is up has not had its decoder
committed since. -/
def windowStopped (s : State) : Bool := s.host.hold && (trainedLinks s).any (fun l => s.host.again.contains l)

/-- Changes a trained link that satisfies `p`. -/
def linkWhen (s : State) (n : Nat) (p : Link → Bool) (f : Link → Link) : State :=
  if (linkGet s n).trained && p (linkGet s n) then linkPut s n f else s

/-- Host offset of a device physical address on a link (R368), by the ways and the position its decoder was committed for. -/
def hostOffset (s : State) (link dpa : Nat) : Nat :=
  let n := tabGet (fun _ => 0) s.host.hdm link - 1
  if n ≤ 1 then dpa
  else dpa / 256 * (256 * n) + tabGet (fun _ => 0) s.host.hpos link % n * 256 + dpa % 256

/-- Bytes of the window. -/
def winSize : Nat := 64 * gib

/-- Whether the window serves (R251): after enable always; before it once the canopy is wiped, while MEM_WIN is valid. -/
def winServes (s : State) : Bool :=
  if mode s < 3 then s.tiers.wCanopy && winValid s (winCur s).1 (winCur s).2 else true

/-- Line of a window offset. -/
def winLine (s : State) (w : Nat) : Nat := ((winCur s).1 * gib + w) / 64

/-- Requester number of the window (R287). -/
def winSrc : Nat := 500

/-- Whether a window access must wait (R244, R249, R256, R287, R288): its line is held, leaving a slice, or refused by its home. -/
def winHeld (s : State) (w : Nat) (wr : Bool) : Bool := agentWaits s winSrc (winCur s).2 (winLine s w) wr

/-- An L2 line of another selector is written back and invalidated before the window's access (R243). -/
def selFlush (s : State) (line sel : Nat) : State := flushLines s (fun l v => decide (l = line) && decide (v.sel ≠ sel))

/-- A window line as RD_CUR (R243, R369). -/
def winFetch (s : State) (w : Nat) : (List Byte × Bool) × State :=
  let s := selFlush s (winLine s w) (winCur s).2
  (cohReadCur s (winCur s).2 (winLine s w), s)

/-- Whether a read-ahead line is what a window offset maps to now (R252). -/
def raHit (s : State) (w : Nat) (x : RaLine) : Bool := x.off == w && x.line == winLine s w && x.sel == (winCur s).2

/-- Takes a line into the read-ahead buffer of 64 lines (R370). -/
def raAdd (s : State) (w : Nat) : State :=
  if winSize ≤ w ∨ s.host.ra.any (raHit s w) ∨ winHeld s w false then s
  else
    let r := winFetch s w
    let l := r.2.host.ra ++ [⟨w, winLine s w, (winCur s).2, r.1.1, r.1.2⟩]
    { r.2 with host := { r.2.host with ra := l.drop (l.length - 64) } }

/-- A window read of a line (R351, R369, R370): from the buffer, or as RD_CUR; two consecutive lines start read-ahead. -/
def winRead (s : State) (w : Nat) : State :=
  let r : (List Byte × Bool) × State := match s.host.ra.find? (raHit s w) with
    | some x => ((x.data, x.poison), { s with host := { s.host with ra := s.host.ra.filter (fun y => !raHit s w y) } })
    | none => winFetch (rangeTake s winSrc (64 * winLine s w) 64) w
  let s := emit r.2 (.read r.1.1 r.1.2)
  let seq := decide (w = s.host.lastRd) && decide (0 < w)
  let s := { s with host := { s.host with lastRd := w + 64 } }
  if seq then (List.range (min 8 (regField s 0xB0000 19 16))).foldl (fun s i => raAdd s (w + 64 * (i + 1))) s else s

/-- A read of queue `q`'s flush word (R351): the read-ahead lines go, then COMPLETED returns, with `n` bytes after it that
nothing fixes. -/
def flushRead (s : State) (q n : Nat) : State :=
  let s := { s with host := { s.host with ra := [] } }
  let f := freeBytes s n
  emit f.2 (.read (leBytes 8 ((queueGet s q).completed % 2 ^ 64) ++ f.1) false)

/-- Counts a CXL.mem request served before commit (R368). -/
def uncommitted (s : State) : State := regCount s 0xB0040 63 48 1

/-- MemRd (R250, R251, R351, R368 to R370): the request brings its link out of L1. -/
def memRd (s : State) (link dpa : Nat) : State :=
  if !hostSees s link || windowStopped s then s
  else
  let s := linkWake s link
  if !hdmDone s then uncommitted (emit s (.read (List.replicate 64 0) false))
  else
    let w := hostOffset s link dpa / 64 * 64
    if w < winSize then
      (if !winServes s then emit s (.read (List.replicate 64 0) false)
       else if winHeld s w false then rangeAsk s winSrc (64 * winLine s w) 64 false else winRead s w)
    else if w < winSize + 65536 then flushRead s ((w - winSize) / 64) 56
    else emit s (.read (List.replicate 64 0) false)

/-- Whether a window offset lies in the stash region (R291). -/
def inStash (s : State) (w : Nat) : Bool :=
  let b := regField s 0x60028 16 0
  decide (b * 2 ^ 20 ≤ w) && decide (w < (b + regField s 0x60028 48 32) * 2 ^ 20)

/-- MemWr (R250, R251, R284, R291, R351, R368, R369): Cmp completes it, and no back-invalidate snoop precedes it. -/
def memWr (s : State) (link dpa mask poison : Nat) (data : List Byte) : State :=
  if !hostSees s link || windowStopped s then s
  else
  let s := linkWake s link
  if !hdmDone s then uncommitted (emit s (.cmp link))
  else
    let w := hostOffset s link dpa / 64 * 64
    if winSize ≤ w || !winServes s then emit s (.cmp link)
    else
      let sel := (winCur s).2
      let line := winLine s w
      if winHeld s w true then rangeAsk s winSrc (64 * line) 64 true
      else
        let s := selFlush (rangeTake s winSrc (64 * line) 64) line sel
        let s := { s with host := { s.host with ra := s.host.ra.filter (fun x => x.line != line) } }
        let s := if inStash s w then cohHintCore s (regField s 0x60028 61 56) sel line (mask % 2 ^ 64) data (poison != 0)
          else cohWriteCore s sel line (mask % 2 ^ 64) data (poison != 0)
        goOn (emit s (.cmp link))

/-- Sends the messages whose vectors are pending and no longer masked (R367). -/
def msixDrain (s : State) : State :=
  if s.host.hold || !s.host.msixEn || s.host.fmask then s
  else
    s.host.pba.foldl (fun s v =>
      if (msixGet s v).mask then s
      else sendMsix { s with host := { s.host with pba := setDel v s.host.pba } } v) s

/-- MSI-X enable, function mask and a vector's mask are written (R367). -/
def msixSet (s : State) (vec mask en fmask : Nat) : State :=
  let e := msixGet s vec
  msixDrain { s with host := { s.host with
    msixEn := en != 0, fmask := fmask != 0, msix := tabSet (fun _ => msix0) s.host.msix (vec % 2048) { e with mask := mask != 0 } } }

/-- A link has trained in a CXL mode (R360, R361), and the host has negotiated L0p or not (R373): a mode that R361 does not pair
with its rate, or none, leaves it untrained. -/
def linkTrain (s : State) (n width rate flit l0p : Nat) : State :=
  if s.life.released && decide (width ≤ 4) && decide (1 ≤ rate) && decide (rate ≤ 6) && decide (1 ≤ flit) && decide (flit ≤ 3) &&
      (decide (rate = 6) == decide (2 ≤ flit)) then
    linkPut s n (fun l => { (if l.trained then l else link0) with
      trained := true, width := width, l0p := width, rate := rate, flit := flit, pm := 0, neg := l0p != 0 })
  else s

/-- What a link's loss resets in its function (R378). -/
def linkConfigReset (s : State) (n : Nat) : State :=
  let h := { s.host with hdm := tabSet (fun _ => 0) s.host.hdm n 0, hpos := tabSet (fun _ => 0) s.host.hpos n 0,
                         fns := tabSet (fun _ => fnCfg0) s.host.fns n fnCfg0 }
  { s with host := if n = 0 then { h with msixEn := false, fmask := false } else h }

/-- Floor lines held in any slice are invalidated and their data is discarded (R292, R376). -/
def floorDrop (s : State) : State :=
  let s := s.coh.l2.foldl (fun s x =>
    let g := x.1 / 65536
    let line := x.2.tag * 4096 + x.1 / 16 % 4096
    if x.2.st ≠ 0 ∧ lineTier line = 2 then l2drop (backInval s g line) g line else s) s
  { s with coh := { s.coh with
      ev := s.coh.ev.filter (fun e => lineTier e.line != 2)
      dir := s.coh.dir.filter (fun p => lineTier p.1 != 2)
      hostSt := [] } }

/-- The loss of the host link is declared (R375, R376, R510): the link's source fires; in RUN or during a disable the complex
enters HOLD. -/
def linkLose (s : State) (n cause : Nat) : State :=
  let s := linkPut s n (fun _ => link0)
  let s := linkConfigReset s n
  let s := noteErr s (0xA88 + n) 3 0 0
  if (mode s != 3 && mode s != 4) || s.host.hold then s
  else
    let s := { s with host := { s.host with hold := true, cause := cause, link := n, ra := [], lastRd := 0, again := List.range 4 } }
    let s := { s with qsu := { s.qsu with queues := s.qsu.queues.map (fun p => (p.1, if p.2.en then { p.2 with st := .hold } else p.2)) } }
    floorDrop (topoChange s)

/-- A core's loads and stores of floor lines end LINK_LOST, and so does a BAR.SYS that waits for a write-back (R174, R315, R376). -/
def coreLost (s : State) (c : Nat) : State :=
  let k := coreGet s c
  let ld := k.loads.filter (fun l => paTier l.pa == 2 && l.sent && l.parts.any (fun p => p.got.isNone))
  let sb := k.sb.filter (fun e => lineTier e.line == 2 && !e.dev)
  let sys := k.bar == 5 && !k.flines.isEmpty
  if ld.isEmpty && sb.isEmpty && !sys then s
  else
    let s := coreSet s c { k with loads := k.loads.filter (fun l => !ld.contains l), sb := k.sb.filter (fun e => !sb.contains e) }
    let b := (sb.map (·.bundle)) ++ ((ld.filter (fun l => decide (l.kind ≠ .pref))).map (·.bundle)) ++ (if sys then [k.pc - 1] else [])
    match b with
    | [] => s
    | x :: _ => raiseExc s c xcLINK x

/-- A mover's stream whose transactions, record or response need the host ends aborted (R231, R376). -/
def streamLost (s : State) (m : Nat) : State :=
  match (moverGet s m).cur with
  | none => s
  | some st =>
    let floor := fun (x : MvTxn) => (dsOp st.desc == 0 && paTier x.src == 2) || (decide (dsDst st.desc ≤ 1) && paTier x.dst == 2)
    let drop := fun (x : Stream) => { x with txns := x.txns.filter (fun t => !floor t) }
    if st.st = .cut then streamPut s m drop
    else if st.txns.any floor ∨ st.st = .faulted ∨ st.st = .awaiting then
      streamPut s m (fun x => { drop x with st := .done, aborted := true })
    else s

/-- A running WAIT on a floor fence ends (R376). -/
def waitLost (s : State) (q : Nat) : State :=
  (waitsOf s q).foldl (fun s r =>
    match waitPA s q r with
    | some pa => if paTier pa = 2 then finishNow s q r.idx 0x07 0 0 else s
    | none => s) s

/-- A LAUNCH whose image is still being read from the floor ends (R376). -/
def launchLost (s : State) (l : Launch) : State :=
  match runOf s l.q l.idx with
  | none => s
  | some r =>
    match (translate s (queueGet s l.q).root (dWord r.desc 1)).1 with
    | .leaf lf =>
      if l.loaded || l.cut || paTier (ePage lf.ent) != 2 then s
      else
        let s := l.cores.foldl (fun s c => if (coreGet s c).st = .loading then coreMap s c (fun k => { k with st := .idle }) else s) s
        let s := { s with qsu := { s.qsu with launches := s.qsu.launches.filter (fun x => x.q != l.q) } }
        finishNow s l.q l.idx 0x03 0 0
    | _ => s

/-- The host-bound requests outstanding in HOLD complete LINK_LOST (R37, R292, R315, R376). -/
def lostComplete (s : State) : State :=
  if !s.host.hold then s
  else
    let s := floorDrop s
    let s := (s.cores.map (·.1)).foldl coreLost s
    let s := coresMap s (fun _ k => { k with flines := [], fover := false })
    let s := { s with coh := { s.coh with
        mshr := s.coh.mshr.filter (fun m => lineTier m.line != 2)
        net := s.coh.net.filter (fun m => lineTier m.line != 2)
        stall := s.coh.stall.filter (fun m => lineTier m.line != 2)
        wb := []
        busy := s.coh.busy.filter (fun b => lineTier b.line != 2)
        resv := s.coh.resv.filter (fun p => lineTier p.1 != 2) } }
    let s := (s.coh.busy.filter (fun b => b.host)).foldl (fun s b =>
      homeSnoop (busyPut s b.line (fun x => { x with host := false })) { b with host := false }) s
    let s := (s.movers.map (·.1)).foldl streamLost s
    let s := s.qsu.launches.foldl launchLost s
    let s := (s.qsu.queues.map (·.1)).foldl waitLost s
    let d := s.host.defer
    let s := { s with host := { s.host with defer := [] } }
    let s := d.foldl (fun s x => finishNow s x.q x.idx x.status x.d0 x.d1) s
    goOn s

end Sys2Proof.Machine
end

