-- ==== Sys2Proof/Machine/HostCmds.lean ====
section
/-! DEFINITION. Commands of the host port (R251, R351, R359 to R380): CXL.mem requests, decoders, interrupts, links and their loss. -/

namespace Sys2Proof.Machine

/-- MEM_RD (R369). -/
def execMemRd (link dpa : Nat) (s : State) : Host.Outcome State Fault Refusal :=
  withUnit 4 link (runLive s (fun s => memRd s link dpa))

/-- MEM_WR (R369). -/
def execMemWr (link dpa mask poison : Nat) (data : List Byte) (s : State) : Host.Outcome State Fault Refusal :=
  withUnit 4 link (runLive s (fun s => memWr s link dpa mask poison data))

/-- MEM_INV (R369): no memory effect. CXL 3.x permits Cmp or no response: Cmp. DESIGN CHOICE (log 63). -/
def execMemInv (link _dpa : Nat) (s : State) : Host.Outcome State Fault Refusal :=
  withUnit 4 link (runLive s (fun s =>
    if !hostSees s link || windowStopped s then s
    else
      let s := emit (linkWake s link) (.cmp link)
      if hdmDone s then s else uncommitted s))

/-- FLUSH_WORD_READ (R351). -/
def execFlushWordRead (q : Nat) (s : State) : Host.Outcome State Fault Refusal :=
  withUnit 1024 q (runLive s (fun s =>
    if windowStopped s then s else if hdmDone s then flushRead s q 0 else uncommitted (emit s (.read (List.replicate 8 0) false))))

/-- READ_AHEAD_EXPIRY (R351): 20 µs have passed. -/
def execReadAheadExpiry (off : Nat) (s : State) : Host.Outcome State Fault Refusal :=
  runLive s (fun s => { s with host := { s.host with ra := s.host.ra.filter (fun x => x.off != off) } })

/-- HDM_COMMIT (R368): a function's decoder, with the ways and the function's position among them. -/
def execHdmCommit (fn : Nat) (set : Interleave) (s : State) : Host.Outcome State Fault Refusal :=
  withUnit 4 fn (runLive s (fun s =>
    if hostSees s fn && (set.ways == 1 || set.ways == 2 || set.ways == 4) then
      { s with host := { s.host with
          hdm := tabSet (fun _ => 0) s.host.hdm fn (set.ways + 1), hpos := tabSet (fun _ => 0) s.host.hpos fn (set.pos % set.ways)
          again := setDel fn s.host.again } }
    else s))

/-- MSIX_UNMASK (R367). -/
def execMsixUnmask (vec mask en fmask : Nat) (s : State) : Host.Outcome State Fault Refusal :=
  runLive s (fun s => msixSet s vec mask en fmask)

/-- IDE_KEY_PROGRAM (R362, R379): a key of 256 bits, and containment or skid mode; IDE is active on both protocols of the link. -/
def execIdeKeyProgram (p : IdeKey) (s : State) : Host.Outcome State Fault Refusal :=
  withUnit 4 p.link (runLive s (fun s =>
    linkWhen s p.link (fun _ => true) (fun l => { l with ide := true, key := p.key % 2 ^ 256, skid := p.skid != 0 })))

/-- LINK_TRAINED (R360, R361). -/
def execLinkTrained (link width rate : Nat) (m : LinkMode) (s : State) : Host.Outcome State Fault Refusal :=
  withUnit 4 link (runLive s (fun s => if s.host.hold then s else linkTrain s link width rate m.flit m.l0p))

/-- DL_DOWN (R375). -/
def execDlDown (link : Nat) (s : State) : Host.Outcome State Fault Refusal :=
  withUnit 4 link (runLive s (fun s => if (linkGet s link).trained then linkLose s link 1 else s))

/-- RECOVERY_TIMEOUT (R375). -/
def execRecoveryTimeout (link : Nat) (s : State) : Host.Outcome State Fault Refusal :=
  withUnit 4 link (runLive s (fun s => if (linkGet s link).trained && (linkGet s link).pm == 3 then linkLose s link 2 else s))

/-- VIRAL (R375). -/
def execViral (link : Nat) (s : State) : Host.Outcome State Fault Refusal :=
  withUnit 4 link (runLive s (fun s => if (linkGet s link).trained then linkLose s link 3 else s))

/-- RECOVERY_ENTRY (R375, R379). -/
def execRecoveryEntry (link : Nat) (s : State) : Host.Outcome State Fault Refusal :=
  withUnit 4 link (runLive s (fun s => linkWhen s link (fun _ => true) (fun l => { l with pm := 3 })))

/-- PM of a link in L0 at its width in use (R373). -/
def pmUp (l : Link) : Nat := bnat (decide (l.l0p < l.width))

/-- LINK_RECOVERY_RETURN (R379). -/
def execLinkRecoveryReturn (link replays : Nat) (s : State) : Host.Outcome State Fault Refusal :=
  withUnit 4 link (runLive s (fun s =>
    if (linkGet s link).trained && (linkGet s link).pm == 3 then
      regCount (regCount (linkPut s link (fun l => { l with pm := pmUp l })) 0xB0040 47 32 1) 0xB0040 31 0 replays
    else s))

/-- LINK_LOST_TIMEOUT (R376). -/
def execLinkLostTimeout (s : State) : Host.Outcome State Fault Refusal := runLive s lostComplete

/-- LINK_UP_AFTER_LOSS (R378): the link is up, its function's configuration at its reset values. -/
def execLinkUpAfterLoss (link width rate : Nat) (m : LinkMode) (s : State) : Host.Outcome State Fault Refusal :=
  withUnit 4 link (runLive s (fun s =>
    if (linkGet s link).trained then s else linkTrain (linkConfigReset s link) link width rate m.flit m.l0p))

/-- L0P_NARROW (R373): x16 to x8 to x4, where the host has negotiated L0p. -/
def execL0pNarrow (link : Nat) (s : State) : Host.Outcome State Fault Refusal :=
  withUnit 4 link (runLive s (fun s =>
    linkWhen s link (fun l => l.neg && decide (2 < l.l0p) && decide (l.pm ≤ 1)) (fun l => { l with l0p := l.l0p - 1, pm := 1 })))

/-- L0P_WIDEN (R373). -/
def execL0pWiden (link : Nat) (s : State) : Host.Outcome State Fault Refusal :=
  withUnit 4 link (runLive s (fun s => linkWhen s link (fun l => l.pm == 1) (fun l => { l with l0p := l.width, pm := 0 })))

/-- ASPM_L1_ENTRY (R374): where the host has enabled L1 in the function's Link Control register. -/
def execAspmL1Entry (link : Nat) (s : State) : Host.Outcome State Fault Refusal :=
  withUnit 4 link (runLive s (fun s => linkWhen s link (fun l => decide (l.pm ≤ 1) && (fnGet s link).l1) (fun l => { l with pm := 2 })))

/-- ASPM_L1_EXIT (R374). -/
def execAspmL1Exit (link : Nat) (s : State) : Host.Outcome State Fault Refusal :=
  withUnit 4 link (runLive s (fun s => linkWhen s link (fun l => l.pm == 2) (fun l => { l with pm := pmUp l })))

/-- ZERO_LENGTH_READ_COMPLETION (R372). -/
def execZeroLengthReadCompletion (link : Nat) (s : State) : Host.Outcome State Fault Refusal :=
  withUnit 4 link (runLive s (fun s => if s.host.hold then s else zlrDone s link))

end Sys2Proof.Machine
end

