-- ==== Sys2Proof/Machine/MemCmds.lean ====
section
/-! DEFINITION. Commands of the memory tiers (R239 to R245, R255, R256): the patrol scrubber, key commands, and the wipe. -/

namespace Sys2Proof.Machine

/-- Whether the patrol scrubber reads a line's tier (R241). -/
def scrubOn (s : State) (line : Nat) : Bool :=
  match lineTier line with
  | 0 => regField s 0x50000 15 8 != 0
  | 1 => regField s 0x50000 23 16 != 0
  | _ => false

/-- A scrub read (R239 to R241): nothing found, a corrected error, or a line to poison. It yields to a pending write. -/
def scrub (s : State) (line found : Nat) : State :=
  if !scrubOn s line || !paValid (64 * line) || lineBusy s line || s.tiers.owHeld.any (fun w => w.line == line) || ctlHeld s line then s
  else
    let f := drawFree s
    match found with
    | 1 => noteErr f.2 (ctlRecord line) 0 f.1 (64 * line)
    | 2 => noteErr { f.2 with tiers := { f.2.tiers with poison := setAdd line f.2.tiers.poison } } (ctlRecord line) 2 f.1 (64 * line)
    | _ => s

/-- Whether the key registers take effect (R244). -/
def keysOpen (s : State) : Bool := (mode s == 0 || mode s == 1 || mode s == 3 || mode s == 4) && s.life.lc != 3

/-- The pair in MEM_KEY_DATA_0–7 (R244): the data key in bits [255:0]. -/
def keyPair (s : State) : Nat := (List.range 8).foldl (fun a i => a + regGet s (0x50100 + 8 * i) * 2 ^ (64 * i)) 0

/-- The number that stands for a rejected LOAD's slot. -/
def keyReject : Nat := 64

/-- Lines on their way out of a slice under a slot are written (R244 step 2). -/
def evFlush (s : State) (sel : Nat) : State :=
  (s.coh.ev.filter (fun e => e.sel == sel && !e.dead)).foldl (fun s e =>
    let s := memWrite (dirPut s e.line dir0) e.sel e.line fullMask e.data e.poison
    let s := if lineTier e.line = 2 then dirtyEvict s e.line else s
    { s with coh := { s.coh with ev := s.coh.ev.map (fun x => if x = e then { x with dead := true } else x) } }) s

/-- A key command is written (R244): its steps 1 and 2. -/
def keyStart (s : State) (load : Bool) (slot : Nat) : State :=
  if !keysOpen s then s
  else if s.tiers.keyCmd.isSome then { s with tiers := { s.tiers with keyResult := 2 } }
  else
    let p := keyPair s
    if load && (slot == 0 || p % 2 ^ 256 == p / 2 ^ 256) then { s with tiers := { s.tiers with keyCmd := some ⟨load, keyReject, 0⟩ } }
    else
      let s := evFlush (flushLines s (fun _ v => v.sel == slot)) slot
      { s with tiers := { s.tiers with keyCmd := some ⟨load, slot, p⟩ } }

/-- Whether a line under a slot is still on its way (R244): data or a grant of it in flight, a transaction that names the slot, a
line in an eviction buffer, or a write that waits for its page. -/
def keyFlying (s : State) (slot : Nat) : Bool :=
  (s.coh.net ++ s.coh.stall).any (fun m => (decide (m.k = .data) || decide (m.k = .gnt)) && m.sel == slot) ||
  s.coh.busy.any (fun b => b.req.sel == slot) || s.coh.ev.any (fun e => e.sel == slot) || s.tiers.owHeld.any (fun w => w.sel == slot)

/-- A key command ends (R244): what was under way when it was written has been flushed too; steps 4 and 5. -/
def keyDone (s : State) : State :=
  match s.tiers.keyCmd with
  | none => s
  | some k =>
    if k.slot != keyReject && keyFlying s k.slot then s
    else
    let s := if k.slot = keyReject then s else flushLines s (fun _ v => v.sel == k.slot)
    let s := (List.range 8).foldl (fun s i => regPut s (0x50100 + 8 * i) 0) s
    let t := { s.tiers with keyCmd := none, keyResult := if k.slot = keyReject then 1 else 0 }
    let slots := if k.slot = keyReject ∨ k.slot = 0 then t.slots
      else tabSet (fun _ => 0) t.slots k.slot (if k.load then k.pair else 0)
    goOn { s with tiers := { t with slots := slots } }

/-- Replaces the state of the tiers. -/
def tiersPut (s : State) (f : Tiers → Tiers) : State := { s with tiers := f s.tiers }

/-- The next understory page of the background pass (R256): pages brought forward are skipped. -/
def owSkip : Nat → NatSet → Nat → Nat
  | 0, _, p => p
  | f + 1, l, p => if l.contains p then owSkip f l (p + 1) else p

/-- The background pass overwrites its next page (R255 step 4, R256). -/
def owPage (s : State) : State :=
  let p := owSkip (s.tiers.owEarly.length + 1) s.tiers.owEarly s.tiers.owNext
  if !s.tiers.wErased || decide (49152 ≤ p) then tiersPut s (fun t => { t with owNext := if t.wErased then min p 49152 else t.owNext })
  else
    let w := s.tiers.owHeld.filter (fun x => underPage x.line == p)
    let s := tiersPut (pageZero s p) (fun t => { t with owNext := p + 1, owHeld := t.owHeld.filter (fun x => underPage x.line != p) })
    goOn (w.foldl (fun s x => memWrite s x.sel x.line x.mask x.data x.poison) s)

/-- SCRUB_PATROL (R241). -/
def execScrubPatrol (line found : Nat) (s : State) : Host.Outcome State Fault Refusal :=
  runLive s (fun s => scrub s line found)

/-- KEY_LOAD (R244). -/
def execKeyLoad (slot : Nat) (s : State) : Host.Outcome State Fault Refusal :=
  runLive s (fun s => keyStart s true (slot % 64))

/-- KEY_ERASE (R244). -/
def execKeyErase (slot : Nat) (s : State) : Host.Outcome State Fault Refusal :=
  runLive s (fun s => keyStart s false (slot % 64))

/-- KEY_CMD_DONE (R244). -/
def execKeyCmdDone (s : State) : Host.Outcome State Fault Refusal := runLive s keyDone

/-- WIPE_PLATES_CACHES (R255 step 1): plates, L1, L2 and instruction buffers read zero. -/
def execWipePlatesCaches (s : State) : Host.Outcome State Fault Refusal :=
  runLive s (fun s =>
    if s.life.ramped && !s.tiers.wPlates then
      let s := coresMap s (fun _ k => { k with a := { k.a with plate := [] }, l1 := [], ibuf := [] })
      tiersPut { s with coh := { s.coh with l2 := [] } } (fun t => { t with wPlates := true, wCaches := true })
    else s)

/-- UNDER_CRYPTO_ERASE (R255 step 2): every stored line is without meaning; reads give zero until its page is overwritten. -/
def execUnderCryptoErase (s : State) : Host.Outcome State Fault Refusal :=
  runLive s (fun s => if s.tiers.wPlates then tiersPut s (fun t => { t with wErased := true }) else s)

/-- CANOPY_WIPE_DONE (R255 step 3). -/
def execCanopyWipeDone (s : State) : Host.Outcome State Fault Refusal :=
  runLive s (fun s =>
    if s.tiers.wErased && !s.tiers.wCanopy then
      tiersPut s (fun t => { t with
        bytes := t.bytes.filter (fun p => paTier p.1 != 0)
        enc := t.enc.filter (fun p => lineTier p.1 != 0)
        poison := t.poison.filter (fun l => lineTier l != 0)
        wCanopy := true })
    else s)

/-- UNDER_OVERWRITE_PAGE (R255 step 4). -/
def execUnderOverwritePage (s : State) : Host.Outcome State Fault Refusal := runLive s owPage

/-- OVERWRITE_BROUGHT_FORWARD (R256): a page that a write waits for is overwritten, and the write is performed. -/
def execOverwriteBroughtForward (page : Nat) (s : State) : Host.Outcome State Fault Refusal :=
  runLive s (fun s => if s.tiers.wErased && (s.tiers.owWant.contains page || s.tiers.owHeld.any (fun w => underPage w.line == page)) then goOn (bringForward s page) else s)

end Sys2Proof.Machine
end

