-- ==== Sys2Proof/Machine/ProofCmds.lean ====
section
/-! DEFINITION. PROOF, RESTORE, RESLICE and the pair (R469 to R493): the queue commands, capture, the cells of the proof partner, and its heartbeat. -/

namespace Sys2Proof.Machine

/-- One proof, restore or reslice runs at a time (R474). -/
def prfOwn (s : State) (_ : List Byte) : Bool := s.prf.run.isNone && rangerUp s

/-- Runs a started PROOF, RESTORE or RESLICE after R331's checks. -/
def prfRun (q : Nat) (f : State → Nat → Nat → List Byte → State) (t : Started) : State :=
  let x := firstChecks t.s q t.d true
  if x ≠ 0 then finish t.s [] q t.idx x 0 0 else f t.s q t.idx t.d

/-- A cell's arrival over the link layer (R384, R387): its TYPE and the port's mode must agree, and its LSEQ be the next; then
`f` takes its payload, and what no other cell has reported goes out in an IDLE cell. -/
def cellArrive (s : State) (i hdr ty m : Nat) (f : State → State) : State :=
  if (portGet s i).st ≠ 2 ∨ portMode s i ≠ m ∨ bitsOf hdr 127 124 ≠ ty then s
  else if cellNext s i hdr then idleOut (commitTry (f (replayCheck (cellAccept s i hdr) i))) i else cellReject s i

/-- KIND of a PROOF cell's payload (R479). -/
def pcKind (d : List Byte) : Nat := bitsOf (fieldAt d 0 16) 127 124
/-- GENERATION. -/
def pcGen (d : List Byte) : Nat := bitsOf (fieldAt d 0 16) 123 92
/-- SLOT. -/
def pcSlot (d : List Byte) : Nat := bitsOf (fieldAt d 0 16) 91 91
/-- OFFSET. -/
def pcOff (d : List Byte) : Nat := bitsOf (fieldAt d 0 16) 87 48
/-- LENGTH. -/
def pcLen (d : List Byte) : Nat := let n := bitsOf (fieldAt d 0 16) 47 24; if n = 0 then 2 ^ 24 else n
/-- RESULT. -/
def pcRes (d : List Byte) : Nat := bitsOf (fieldAt d 0 16) 0 0
/-- Data. -/
def pcData (d : List Byte) : List Byte := d.drop 16

/-- Whether a port faces the partner (R476, R482). -/
def fromPartner (s : State) (i : Nat) : Bool := (portGet s i).nserial == regGet s 0x90008

/-- A PROOF cell of one kind, from the partner, over a PAIR port; its credit goes back (R386). -/
def pairArrive (s : State) (i hdr kind : Nat) (d : List Byte) (f : State → State) : State :=
  cellArrive s i hdr 10 3 (fun s =>
    let s := freeCredit s i 10
    if pcKind d = kind ∧ fromPartner s i = true then f s else s)

/-- The open slot of this reserve for the partner's proofs (R475): the one without its newest committed proof. -/
def ownOpen (s : State) : Nat :=
  let h := fun (j : Nat) => headerGen (resRead s (slotBase s j) 80).1 (regGet s 0x90008)
  match pickSlot (h 0) (h 1) 0 with
  | some j => 1 - j
  | none => 0

/-- BEGIN at the partner (R476 step 1). -/
def takeBegin (s : State) (d : List Byte) : State :=
  if slotGib s = 0 then s
  else
    let j := ownOpen s
    let s := resWrite s (slotBase s j) (slotHeader 1 (pcGen d) (regGet s 0x90008) 0 [])
    { s with prf := { s.prf with recv := some ⟨pcGen d, j, [], []⟩ } }

/-- DATA at the partner (R476 step 2); a piece that would leave the slot is not written. -/
def takeData (s : State) (d : List Byte) : State :=
  match s.prf.recv with
  | none => s
  | some r =>
    let b := pcData d
    if pcGen d ≠ r.gen ∨ b.length = 0 ∨ slotGib s * gib < 4096 + pcOff d + b.length then s
    else
      let s := resWrite s (slotBase s r.slot + 4096 + pcOff d) b
      { s with prf := { s.prf with recv := some { r with got := (pcOff d, b.length) :: r.got, img := tabPut r.img (pcOff d) b } } }

/-- COMMIT at the partner (R476 steps 3 and 4). -/
def takeCommit (s : State) (d : List Byte) : State :=
  let ack := fun (s : State) (slot res : Nat) => pairSend s 0 (prfCell 3 (pcGen d) slot 0 0 res [])
  match s.prf.recv with
  | none => ack s 0 1
  | some r =>
    let b := pcData d
    let n := fieldAt b 0 8
    let dig := (b.drop 8).take 48
    let s0 := { s with prf := { s.prf with recv := none } }
    if pcGen d = r.gen ∧ covers r.got 0 n = true ∧ digestBytes (tabBytes r.img 0 n) = dig then
      let s := resWrite s0 (slotBase s r.slot) (slotHeader 2 r.gen (regGet s 0x90008) n dig)
      let s := regSet s 0x90050 63 32 r.gen
      ack (writeEvent s 0x65 r.gen n 0) r.slot 0
    else ack s0 r.slot 1

/-- ACK at the source (R473, R476 step 5). -/
def takeAck (s : State) (d : List Byte) : State :=
  match s.prf.run with
  | none => s
  | some r =>
    if r.cmd ≠ 6 ∨ r.phase ≠ 3 ∨ pcGen d ≠ r.gen % 2 ^ 32 ∨ bitOf r.ok 0 = true then s
    else if pcRes d = 1 then targetFail (noteErr s 0xA95 1 0 0) 0x36
    else
      let s := regSet { s with prf := { s.prf with pslot := pcSlot d } } 0x90050 31 0 r.gen
      proofCommitted (runSet s (fun r => { r with ok := r.ok ||| 1 }))

/-- READ_REQ at the partner (R479, R486): the bytes go back in READ_DATA cells; a poisoned line gives ABORT. -/
def takeReadReq (s : State) (d : List Byte) : State :=
  let n := pcLen d
  let o := if hdrOff ≤ pcOff d then pcOff d - hdrOff else 4096 + pcOff d
  if slotGib s * gib < o + n then pairSend s 0 (prfCell 7 (pcGen d) (pcSlot d) 0 0 0 [])
  else
    let b := resRead s (slotBase s (pcSlot d) + o) n
    if b.2 then pairSend s 0 (prfCell 7 (pcGen d) (pcSlot d) 0 0 0 [])
    else pairCells s (prfPieces 5 (pcGen d) (pcSlot d) (pcOff d) b.1)

/-- ABORT (R479): the proof being received is dropped, its slot staying WRITING; a proof or restore of this complex fails. -/
def takeAbort (s : State) (d : List Byte) : State :=
  let s := match s.prf.recv with
    | some r => if pcGen d = r.gen then { s with prf := { s.prf with recv := none } } else s
    | none => s
  match s.prf.run with
  | some r =>
    if r.cmd = 6 ∧ bitOf r.want 0 = true ∧ pcGen d = r.gen % 2 ^ 32 then targetFail s 0x33
    else if r.cmd = 7 ∧ bitOf r.want 1 = false then proofFail (noteErr s 0xA95 1 0 0) 0x36
    else s
  | none => s

/-- The state a pair has while its partner reports (R483). -/
def pairFormed (s : State) : Nat := if regField s 0x90000 11 8 = regField s 0x90000 3 0 then 3 else 2

/-- HEARTBEAT (R482 to R485). -/
def takeBeat (s : State) (d : List Byte) : State :=
  let b := pcData d
  let serial := regGet s 0x90008
  if fieldAt b 0 8 ≠ serial then s
  else
    let w := fieldAt b 8 8
    let old := regField s 0x90050 31 0
    let new := fieldAt b 16 4
    let s := { s with prf := { s.prf with strap := bitsOf w 19 16, risk := bitsOf w 7 0, beat := true } }
    let back := s.prf.pair == 4
    let s := if back then
        let st := pairFormed s
        writeEvent { s with prf := { s.prf with pair := st, lost := false } } 0x62 serial st 0
      else if s.prf.pair = 0 ∧ regField s 0x90000 16 16 = 1 then { s with prf := { s.prf with pair := 1 } } else s
    let s := if back && decide (new < old) then writeEvent { s with prf := { s.prf with autoNext := true } } 0x64 old new 0 else s
    if s.prf.pair = 2 ∨ s.prf.pair = 3 then regSet s 0x90050 31 0 new else s

/-- A heartbeat's data (R482). -/
def beatBytes (s : State) : List Byte :=
  words [Config.serial % 2 ^ 64, regField s 0x90000 3 0 * 2 ^ 16 + s.prf.pair * 256 + regField s 0x1F1008 7 0, regField s 0x90050 63 32,
    s.prf.gen]

/-- Every PAIR port that is UP sends a heartbeat (R482). -/
def beatSend (s : State) : State :=
  (pairUp s).foldl (fun s i => portSend s i 10 (prfCell 6 0 0 0 0 0 (beatBytes s)) (2 ^ i)) s

/-- The pair is lost (R485, R527): the state, the PROOF record's source, the event; proofs to the partner fail. -/
def pairLose (s : State) : State :=
  if s.prf.pair = 2 ∨ s.prf.pair = 3 then
    let s := { s with prf := { s.prf with pair := 4, lost := true, risk := 0 } }
    let s := writeEvent (noteErr s 0xA95 0 0 0) 0x63 (regGet s 0x90008) 0 0
    match s.prf.run with
    | some r =>
      if (r.cmd = 6 ∧ bitOf r.want 0 = true ∧ bitOf r.ok 0 = false) ∨ (r.cmd = 7 ∧ bitOf r.want 1 = false) then proofFail s 0x33 else s
    | none => s
  else s

/-- PROOF (R469 to R472). -/
def execProof (q : Nat) (s : State) : Host.Outcome State Fault Refusal :=
  withUnit 1024 q (runLive s (fun s => startCmd s q (· == 6) prfOwn (prfRun q (fun s q i b => proofStart s q i false b))))

/-- PROOF_CAPTURE_DONE (R472, R473). -/
def execProofCaptureDone (s : State) : Host.Outcome State Fault Refusal := runLive s captureDone

/-- PROOF_PAGE_COPY (R472). -/
def execProofPageCopy (page : Nat) (s : State) : Host.Outcome State Fault Refusal := runLive s (fun s => pageCopy s page)

/-- RESTORE (R486). -/
def execRestore (q : Nat) (s : State) : Host.Outcome State Fault Refusal :=
  withUnit 1024 q (runLive s (fun s => startCmd s q (· == 7) prfOwn (prfRun q restoreStart)))

/-- RESLICE (R489). -/
def execReslice (q : Nat) (s : State) : Host.Outcome State Fault Refusal :=
  withUnit 1024 q (runLive s (fun s => startCmd s q (· == 8) prfOwn (prfRun q resliceStart)))

/-- PROOF_BEGIN (R476). -/
def execProofBegin (port hdr : Nat) (data : List Byte) (s : State) : Host.Outcome State Fault Refusal :=
  withUnit 24 port (runLive s (fun s => pairArrive s port hdr 1 data (fun s => takeBegin s data)))

/-- PROOF_DATA (R476). -/
def execProofData (port hdr : Nat) (data : List Byte) (s : State) : Host.Outcome State Fault Refusal :=
  withUnit 24 port (runLive s (fun s => pairArrive s port hdr 0 data (fun s => takeData s data)))

/-- PROOF_COMMIT (R476). -/
def execProofCommit (port hdr : Nat) (data : List Byte) (s : State) : Host.Outcome State Fault Refusal :=
  withUnit 24 port (runLive s (fun s => pairArrive s port hdr 2 data (fun s => takeCommit s data)))

/-- PROOF_ACK (R476). -/
def execProofAck (port hdr : Nat) (data : List Byte) (s : State) : Host.Outcome State Fault Refusal :=
  withUnit 24 port (runLive s (fun s => pairArrive s port hdr 3 data (fun s => takeAck s data)))

/-- READ_REQ (R486). -/
def execReadReq (port hdr : Nat) (data : List Byte) (s : State) : Host.Outcome State Fault Refusal :=
  withUnit 24 port (runLive s (fun s => pairArrive s port hdr 4 data (fun s => takeReadReq s data)))

/-- READ_DATA (R486). -/
def execReadData (port hdr : Nat) (data : List Byte) (s : State) : Host.Outcome State Fault Refusal :=
  withUnit 24 port (runLive s (fun s => pairArrive s port hdr 5 data (fun s => restoreData s (pcSlot data) (pcOff data) (pcData data))))

/-- PROOF_ABORT (R479). -/
def execProofAbort (port hdr : Nat) (data : List Byte) (s : State) : Host.Outcome State Fault Refusal :=
  withUnit 24 port (runLive s (fun s => pairArrive s port hdr 7 data (fun s => takeAbort s data)))

/-- HEARTBEAT (R482). A heartbeat of another serial than the partner's is ignored (R485). -/
def execHeartbeat (port hdr : Nat) (data : List Byte) (s : State) : Host.Outcome State Fault Refusal :=
  withUnit 24 port (runLive s (fun s => pairArrive s port hdr 6 data (fun s => takeBeat s data)))

/-- HEARTBEAT_SEND (R482). -/
def execHeartbeatSend (s : State) : Host.Outcome State Fault Refusal := runLive s beatSend

/-- PAIR_LOST (R485). -/
def execPairLost (s : State) : Host.Outcome State Fault Refusal := runLive s pairLose

/-- PAIR_SENSE_LOW (R527): the pair is lost at once. -/
def execPairSenseLow (s : State) : Host.Outcome State Fault Refusal := runLive s pairLose

/-- RDMA_RESPONSE (R477). -/
def execRdmaResponse (ok : Nat) (data : List Byte) (s : State) : Host.Outcome State Fault Refusal :=
  runLive s (fun s => stoResponse s (ok != 0) data)

/-- RDMA_RETRY_TIMEOUT (R397). -/
def execRdmaRetryTimeout (s : State) : Host.Outcome State Fault Refusal := runLive s stoTimeout

end Sys2Proof.Machine
end

