-- ==== Sys2Proof/Machine/RegOps.lean ====
section
/-! DEFINITION. Writes of BAR0 registers (R9, R510, R513, R515, R516): field types, and the lock of set-up fields. -/

namespace Sys2Proof.Machine

/-- Whether RWS fields are locked (R379, R515): while a check runs, in RUN, during a disable, and in HOLD. -/
def rwsLocked (s : State) : Bool := mode s == 3 || mode s == 4 || regField s 0x20008 2 2 == 1 || s.host.hold

/-- Counts a locked write (R9, R516). -/
def lockedWrite (s : State) : State := regCount s 0x20008 63 32 1

/-- A write of a register by its field types (R9, R513, R516). -/
def regStore (s : State) (off v : Nat) : State :=
  match regAt off with
  | none => s
  | some d =>
    let lock := rwsLocked s
    let s := if lock && d.rws != 0 then lockedWrite s else s
    regPut s off (regWritten d lock (regGet s off) (v % 2 ^ 64))

end Sys2Proof.Machine
end

