-- ==== Sys2Proof/Machine/RideCmds.lean ====
section
/-! DEFINITION. Commands of the ride ports (R381 to R402): modes, training, cells, replay, and Ethernet requests. -/

namespace Sys2Proof.Machine

/-- A write of RIDE_CFG_i (R381, R383): a different MODE powers the lanes down or trains them afresh,
in BRINGUP and RECOVERY; a FENCED port stays so. The topology page shows MODE and REMOTE_EN (R355). -/
def modeWrite (s : State) (i v : Nat) : State :=
  let old := portMode s i
  let shown := topoPort s i
  let s := regStore s (0x80000 + 0x800 * i) v
  let m := portMode s i
  if m = old ∨ (portGet s i).st = 5 ∨ 2 ≤ mode s then (if topoPort s i = shown then s else topoChange s)
  else topoChange (portSet s i { port0 with st := if m = 0 then 0 else 1 })

/-- A port is UP (R383, R401). -/
def portUpNow (s : State) (i : Nat) : State :=
  let p := portGet s i
  let s := topoChange (portSet s i { p with st := 2, lockTimer := false })
  portRaise (writeEvent s 0x70 i p.nserial p.nport) i

/-- Payload of the IDENT cell a port sends (R383): the part serial in bits [63:0], the port number in [68:64] and the mode in
[70:69]. The spec names the three and not their places. DESIGN CHOICE (log 58). -/
def identPayload (s : State) (i : Nat) : List Byte := leBytes 16 (Config.serial % 2 ^ 64 + i * 2 ^ 64 + portMode s i * 2 ^ 69)

/-- Training ends (R383): an ETHERNET port is UP; the others send their IDENT and await the neighbour's. -/
def portTrain (s : State) (i : Nat) : State :=
  let s := portSet s i { portGet s i with lanes := 15 }
  if portMode s i = 2 then portUpNow s i else emitCell s i 9 0 (identPayload s i)

/-- IDENT (R383, R387). -/
def takeIdent (s : State) (i serial nport m : Nat) : State :=
  let p := portGet s i
  if portMode s i ≠ 1 ∧ portMode s i ≠ 3 then s
  else if p.st = 2 then (if serial % 2 ^ 64 = p.nserial then s else portFail s i 3)
  else if p.lanes ≠ 15 ∨ (p.st ≠ 1 ∧ p.st ≠ 3 ∧ p.st ≠ 4) then s
  else
    let s := portSet s i { p with nserial := serial % 2 ^ 64, nport := nport % 32, nmode := m % 4 }
    if m % 4 = portMode s i then portUpNow s i
    else if p.st = 3 then (if p.nserial = serial % 2 ^ 64 ∧ p.nport = nport % 32 then s else topoChange s)
    else writeEvent (topoChange (portSet s i { portGet s i with st := 3 })) 0x73 i (m % 4) 0

/-- Agents that wait for a CHAIN credit go on once a header has returned one (R386). -/
def creditGo (s : State) (hdr : Nat) : State := if bitsOf hdr 79 72 = 0 then s else goOn s

/-- A Ride cell that a port receives in Ride mode. -/
def rideCell (s : State) (i hdr ty : Nat) (d : List Byte) : State :=
  creditGo (cellArrive s i hdr ty 1 (fun s => heldPump (takeCell s i ⟨ty, bitsOf hdr 112 97, d, 0, 0, false, false⟩) i)) hdr

/-- Whether a TILE cell's data keeps R385's bounds. -/
def tileFits (d : List Byte) : Bool :=
  let n := (tlData d).length
  decide (1 ≤ n) && decide (bitsOf (tlHead d) 95 72 % 1024 + n ≤ 1024)

/-- TILE_ACK's effect on the stream or RESLICE that sent the tile (R391, R489). -/
def tileAcked (s : State) (tag status : Nat) : State :=
  match s.ride.tiles.find? (fun t => t.tag == tag) with
  | none => s
  | some t =>
    let s := { s with ride := { s.ride with tiles := s.ride.tiles.erase t } }
    if t.mover = resliceMover then (if status = 0 then resliceTry s else resliceFail s 0x38 t.tile)
    else
      match (moverGet s t.mover).cur with
      | none => s
      | some st =>
        if status = 0 then
          (if s.ride.tiles.any (fun x => x.mover == t.mover && x.tile == t.tile) || st.txns.any (fun x => x.tile == t.tile) then s
           else streamPut s t.mover (fun x => { x with tdone := x.tdone + 1 }))
        else if st.st = .cut || st.aborted then s
        else
          let s := { s with ride := { s.ride with tiles := s.ride.tiles.filter (fun x => x.mover != t.mover) } }
          streamFault (streamPut s t.mover (fun x => { x with txns := [] })) t.mover st 8 0 0 0 t.tile 0

/-- FENCE_ACK completes the SIGNAL that sent the message (R342). -/
def fenceAcked (s : State) (d : List Byte) : State :=
  let h := fieldAt d 0 16
  match s.ride.waits.find? (fun w => w.kind == 2 && w.tag == bitsOf h 127 100) with
  | none => s
  | some w =>
    let s := { s with ride := { s.ride with waits := s.ride.waits.erase w } }
    match bitsOf h 65 64 with
    | 0 => finishNow s w.a w.b 0 (bitsOf h 63 0) 0
    | 1 => finishNow s w.a w.b 0x05 (bitsOf h 63 0) 0
    | 2 => finishNow s w.a w.b 0x06 (bitsOf h 63 0) 0
    | _ => finishNow s w.a w.b 0x07 0 0

/-- WIN_RSP (R385, R393): a load's data, or a store's end. -/
def winAnswered (s : State) (d : List Byte) : State :=
  let h := fieldAt d 0 16
  match s.ride.waits.find? (fun w => decide (w.kind < 2) && w.tag == bitsOf h 63 40) with
  | none => s
  | some w =>
    let s := { s with ride := { s.ride with waits := s.ride.waits.erase w } }
    let v := if bitOf h 0 then 2 ^ 64 - 1 else bitsOf h 127 64
    let s := if w.kind = 0 then
        loadPut s w.a w.b (fun l => { l with parts := [⟨l.pa / 64, some (lineAt l.pa (leBytes (smSize l.width) v), false), false⟩] })
      else sbDel s w.a w.b
    pumpCore s w.a

/-- A response cell in Ride mode: it takes effect at once and its credit goes back. -/
def rspCell (s : State) (i hdr ty : Nat) (f : State → State) : State :=
  creditGo (cellArrive s i hdr ty 1 (fun s => f (freeCredit s i ty))) hdr

/-- 2 µs without acknowledgement (R387). -/
def replayTimeout (s : State) (i : Nat) : State :=
  if (portGet s i).st = 2 then replayCheck (replayAll s i) i else s

/-- A memory region's words (R396). -/
def ethRegion (s : State) (j i : Nat) : Nat := leNat (paRead s 0 (regField s 0x8C010 45 20 * 2 ^ 20 + 0x10000 + 32 * j + 8 * i) 8).1

/-- The pages of an RDMA request, or none where a condition of R396 fails: pieces as (PA, selector, length). -/
def rdmaPieces (s : State) (rkey va n : Nat) (wr : Bool) : Option (List (Nat × Nat × Nat)) :=
  let j := rkey % 4096
  let w := ethRegion s j 0
  let base := ethRegion s j 1
  let len := ethRegion s j 2
  let root := bitsOf w 60 53
  if bitOf w 63 && bitsOf w 51 32 == rkey / 4096 % 2 ^ 20 && (if wr then bitOf w 62 else bitOf w 61) &&
      decide (base ≤ va) && decide (va + n ≤ base + len) then
    (rangeLines va n).foldr (fun l acc =>
      let a := max va (64 * l)
      let k := min (va + n) (64 * l + 64) - a
      match acc, (translate s root a).1 with
      | some r, .leaf lf =>
        if (if wr then eW lf.ent else eR lf.ent) && decide (paTier (ePage lf.ent) < 3) then some ((leafPA lf a, eSel lf.ent, k) :: r) else none
      | _, _ => none) (some [])
  else none

/-- A request that fails a condition gets a NAK and is counted (R396). -/
def rdmaNak (s : State) (i : Nat) : State := emit { s with ride := { s.ride with naks := s.ride.naks + 1 } } (.packet i 5 [])

/-- RDMA WRITE served (R396): as WR_INV, once nothing holds its lines. -/
def rdmaWrite (s : State) (i rkey va : Nat) (data : List Byte) : State :=
  if !portUp s i 2 then s
  else
    match rdmaPieces s rkey va data.length true with
    | none => rdmaNak s i
    | some l =>
      if l.any (fun p => rangeHeld s (rideSrc i) p.2.1 p.1 p.2.2 true) then l.foldl (fun s p => rangeAsk s (rideSrc i) p.1 p.2.2 true) s
      else
        let s := l.foldl (fun s p => rangeTake s (rideSrc i) p.1 p.2.2) s
        let s := (l.foldl (fun (x : State × List Byte) p => (paWrite x.1 p.2.1 p.1 (x.2.take p.2.2), x.2.drop p.2.2)) (s, data)).1
        goOn (emit s (.packet i 3 []))

/-- RDMA READ served (R396): as RD_CUR. -/
def rdmaRead (s : State) (i rkey va n : Nat) : State :=
  if !portUp s i 2 then s
  else
    match rdmaPieces s rkey va n false with
    | none => rdmaNak s i
    | some l =>
      if l.any (fun p => rangeHeld s (rideSrc i) p.2.1 p.1 p.2.2 false) then l.foldl (fun s p => rangeAsk s (rideSrc i) p.1 p.2.2 false) s
      else
        let s := l.foldl (fun s p => readNotes (rangeTake s (rideSrc i) p.1 p.2.2) p.1 p.2.2) s
        emit s (.packet i 4 (l.flatMap (fun p => (paRead s p.2.1 p.1 p.2.2).1)))

/-- RIDE_MODE_WRITE (R383). -/
def execRideModeWrite (port v : Nat) (s : State) : Host.Outcome State Fault Refusal :=
  withUnit 24 port (runLive s (fun s => modeWrite s port v))

/-- PORT_TRAINED (R383): a port in TRAINING. -/
def execPortTrained (port : Nat) (s : State) : Host.Outcome State Fault Refusal :=
  withUnit 24 port (runLive s (fun s => if (portGet s port).st = 1 then portTrain s port else s))

/-- IDENT (R383). -/
def execIdent (port serial nport mode : Nat) (s : State) : Host.Outcome State Fault Refusal :=
  withUnit 24 port (runLive s (fun s => takeIdent s port serial nport mode))

/-- IDLE_CELL (R384): its acknowledgement and credits. -/
def execIdleCell (port hdr : Nat) (s : State) : Host.Outcome State Fault Refusal :=
  withUnit 24 port (runLive s (fun s =>
    if (portGet s port).st = 2 ∧ portMode s port ≠ 2 ∧ bitsOf hdr 127 124 = 15 then
      creditGo (commitTry (replayCheck (takeHeader s port hdr) port)) hdr
    else s))

/-- CHAIN_CELL (R183 to R185). -/
def execChainCell (port hdr : Nat) (data : List Byte) (s : State) : Host.Outcome State Fault Refusal :=
  withUnit 24 port (runLive s (fun s => rideCell s port hdr 1 data))

/-- TILE_CELL (R391). -/
def execTileCell (port hdr : Nat) (data : List Byte) (s : State) : Host.Outcome State Fault Refusal :=
  withUnit 24 port (runLive s (fun s =>
    if tileFits data then goOn (rideCell s port hdr 2 data)
    else cellArrive s port hdr 2 1 (fun s => freeCredit (noteErr s (rideRec port) 2 0 0) port 2)))

/-- TILE_ACK (R391). -/
def execTileAck (port hdr : Nat) (data : List Byte) (s : State) : Host.Outcome State Fault Refusal :=
  withUnit 24 port (runLive s (fun s =>
    rspCell s port hdr 8 (fun s => tileAcked s (bitsOf (fieldAt data 0 16) 15 0) (bitsOf (fieldAt data 0 16) 17 16))))

/-- FENCE_CELL (R341, R392, R393). -/
def execFenceCell (port hdr : Nat) (data : List Byte) (s : State) : Host.Outcome State Fault Refusal :=
  withUnit 24 port (runLive s (fun s => rideCell s port hdr 3 data))

/-- FENCE_ACK (R342). -/
def execFenceAck (port hdr : Nat) (data : List Byte) (s : State) : Host.Outcome State Fault Refusal :=
  withUnit 24 port (runLive s (fun s => rspCell s port hdr 4 (fun s => fenceAcked s data)))

/-- WIN_RD (R393, R394). -/
def execWinRd (port hdr : Nat) (data : List Byte) (s : State) : Host.Outcome State Fault Refusal :=
  withUnit 24 port (runLive s (fun s => rideCell s port hdr 5 data))

/-- WIN_WR (R393). -/
def execWinWr (port hdr : Nat) (data : List Byte) (s : State) : Host.Outcome State Fault Refusal :=
  withUnit 24 port (runLive s (fun s => goOn (rideCell s port hdr 6 data)))

/-- WIN_RSP (R393). -/
def execWinRsp (port hdr : Nat) (data : List Byte) (s : State) : Host.Outcome State Fault Refusal :=
  withUnit 24 port (runLive s (fun s => rspCell s port hdr 7 (fun s => winAnswered s data)))

/-- CELL_REPLAY_TIMEOUT (R387). -/
def execCellReplayTimeout (port : Nat) (s : State) : Host.Outcome State Fault Refusal :=
  withUnit 24 port (runLive s (fun s => replayTimeout s port))

/-- BLOCK_LOCK_LOSS (R387): the lanes that hold block lock change; the 10 µs timer runs while one lacks it. -/
def execBlockLockLoss (port lanes : Nat) (s : State) : Host.Outcome State Fault Refusal :=
  withUnit 24 port (runLive s (fun s =>
    let p := portGet s port
    if p.st = 2 then portSet s port { p with lanes := lanes % 16, lockTimer := lanes % 16 != 15 } else s))

/-- LANE_LOCK_LOST (R387). -/
def execLaneLockLost (port : Nat) (s : State) : Host.Outcome State Fault Refusal :=
  withUnit 24 port (runLive s (fun s =>
    if (portGet s port).st = 2 ∧ (portGet s port).lockTimer = true then portFail s port 2 else s))

/-- PORT_RETRAIN (R383): a FAILED port's lanes train again. -/
def execPortRetrain (port : Nat) (s : State) : Host.Outcome State Fault Refusal :=
  withUnit 24 port (runLive s (fun s => if (portGet s port).st = 4 then portTrain s port else s))

/-- BAD_CELL (R385, R387): a failed check (kind 0), or a reserved type. -/
def execBadCell (port kind : Nat) (s : State) : Host.Outcome State Fault Refusal :=
  withUnit 24 port (runLive s (fun s =>
    if (portGet s port).st ≠ 2 ∨ portMode s port = 2 then s
    else if kind = 0 then cellReject s port
    else
      let p := portGet s port
      idleOut (noteErr (portSet s port { p with rx := (p.rx + 1) % 65536, bad := false }) (rideRec port) 2 0 0) port))

/-- RDMA_WRITE (R396). -/
def execRdmaWrite (port rkey va : Nat) (data : List Byte) (s : State) : Host.Outcome State Fault Refusal :=
  withUnit 24 port (runLive s (fun s => rdmaWrite s port rkey va data))

/-- RDMA_READ (R396). -/
def execRdmaRead (port rkey va len : Nat) (s : State) : Host.Outcome State Fault Refusal :=
  withUnit 24 port (runLive s (fun s => rdmaRead s port rkey va len))

/-- ECN_MARKED_PACKET (R395): a CNP, at most one for a queue pair in 50 µs; `gap` is the time since its last in µs. -/
def execEcnMarkedPacket (port qp gap : Nat) (s : State) : Host.Outcome State Fault Refusal :=
  withUnit 24 port (runLive s (fun s => if portUp s port 2 && decide (50 ≤ gap) then emit s (.packet port 6 (leBytes 4 qp)) else s))

/-- CNP (R395): the requester's rate is halved. -/
def execCnp (port qp : Nat) (s : State) : Host.Outcome State Fault Refusal :=
  withUnit 24 port (runLive s (fun s =>
    if portUp s port 2 then
      { s with ride := { s.ride with rate := tabSet (fun _ => 0) s.ride.rate (qp % 4096) (tabGet (fun _ => 0) s.ride.rate (qp % 4096) + 1) } }
    else s))

end Sys2Proof.Machine
end

