-- ==== Sys2Proof/Machine/LifeOps.lean ====
section
/-! DEFINITION. The consistency check and what an accepted enable does (R506, R507), with the rules it names. -/

namespace Sys2Proof.Machine

/-- Whether a core is to be fenced at the next enable (R122, R500): FENCE_REQ, or a mark of the self-test. -/
def fenceAsked (s : State) (c : Nat) : Bool :=
  regField s (0x200008 + 16 * c) 0 0 == 1 || s.life.marked.contains c || s.life.marked.contains (0x960 + groveOf c)

/-- The cores of a grove that an accepted enable puts in service (R15, R122): the unfenced cores that are no spares, and for
each fenced one of them the spare with the lowest position. -/
def nextServing (s : State) (g : Nat) : List Nat :=
  let cs := groveCores g
  let main := cs.filter (fun c => !s.life.spares.contains c)
  let lost := (main.filter (fenceAsked s)).length
  let free := cs.filter (fun c => s.life.spares.contains c && !fenceAsked s c)
  let sp := if s.life.marked.contains (0x960 + g) then [] else free.take lost
  cs.filter (fun c => (main.contains c && !fenceAsked s c) || sp.contains c)

/-- The outcome of the check: a reason code and DETAIL (R506); `none` accepts. -/
abbrev Verdict := Option (Nat × Nat)

/-- DETAIL where no unit is concerned. -/
def noUnit : Nat := 0xFFFF

/-- Refuses with a reason where `b` holds. -/
def refuse (b : Bool) (code detail : Nat) : Verdict := if b then some (code, detail) else none

/-- The first verdict of a list. -/
def firstVerdict : List Verdict → Verdict
  | [] => none
  | some v :: _ => some v
  | none :: r => firstVerdict r

/-- Draw of a port by its mode, in DU (R381). -/
def portDraw (m : Nat) : Nat := match m with | 1 => 30 | 2 => 36 | 3 => 30 | _ => 0

/-- The LINK allotment (R405). -/
def linkDraw (s : State) : Nat := 4 * 45 + 40 + (List.range 24).foldl (fun a i => a + portDraw (portMode s i)) 0

/-- R28, R409: LINK, the middle class's allotment and the last class's floor against the lower of the cap and the grant. -/
def allotFits (s : State) : Bool :=
  let n := (below 4 (fun t => (List.range 12).any (fun g => !(nextServing s (12 * t + g)).isEmpty))).length
  let rest := if regField s 0x70000 1 0 = 1 then regField s 0x70018 44 32 + Config.memFloor
    else regField s 0x70018 28 16 + n * regField s 0x70020 40 32
  decide (linkDraw s + rest ≤ min (min (regField s 0x70008 12 0) 4800) (regField s 0x70010 12 0))

/-- R25: the sum of the credit depths, and the host pool. -/
def creditsFit (s : State) : Bool :=
  let cores := (List.range 48).foldl (fun a g => a + (nextServing s g).length) 0
  let mv := let d := regField s 0x40000 23 16; if d = 0 ∨ 0x80 < d then 0x80 else d
  decide (missDepth s * cores + 192 * mv + max 256 (regField s 0x8C020 16 0) ≤ 65536) && decide (regField s 0xB0000 14 0 ≤ 16384)

/-- The queue table's entries that are read (R318): number and 64 bytes. -/
def tableEntries (s : State) : List (Nat × List Byte) :=
  let a := regField s 0x30008 42 6 * 64
  (List.range (min 1024 (regField s 0x30008 58 48))).map (fun q => (q, (floorRead s (a + 64 * q) 64).1))

/-- A table entry as a queue (R318). -/
def entryQueue (b : List Byte) : Queue :=
  let h := fieldAt b 0 8
  { queue0 with en := bitOf h 63, priv := bitOf h 62, root := bitsOf h 61 54, comp := bitsOf h 53 48, rlog := bitsOf h 47 44, clog := bitsOf h 43 39,
                vec := bitsOf h 38 28, ring := fieldAt b 8 8, cpl := fieldAt b 16 8, slot := fieldAt b 24 8, st := .idle }

/-- The enabled entries (R318). -/
def enabledEntries (s : State) : List (Nat × List Byte) := (tableEntries s).filter (fun p => bitOf (fieldAt p.2 0 8) 63)

/-- Rings of which no doorbell slot may lie inside (R319): base and size. -/
def ringSpans (s : State) (l : List (Nat × List Byte)) : List (Nat × Nat) :=
  l.flatMap (fun p => let k := entryQueue p.2; [(k.ring, 128 * 2 ^ k.rlog), (k.cpl, 64 * 2 ^ k.clog)]) ++
  (if regField s 0x30018 8 8 = 1 then [(regField s 0x30010 42 6 * 64, 32 * 2 ^ regField s 0x30018 4 0)] else []) ++
  (if regField s 0x40018 8 8 = 1 then [(regField s 0x40010 42 12 * 4096, 64 * 2 ^ regField s 0x40018 4 0)] else [])

/-- Whether an enabled entry breaks R319's alignment rules; `before` are the enabled entries of lower number. -/
def entryBad (spans : List (Nat × Nat)) (before : List (Nat × List Byte)) (b : List Byte) : Bool :=
  let k := entryQueue b
  fieldAt b 0 8 % 2 ^ 28 != 0 || !((b.drop 32).all (fun x => x == 0)) || k.ring % 4096 != 0 || k.cpl % 4096 != 0 ||
  decide (8192 * gib ≤ k.ring) || decide (8192 * gib ≤ k.cpl) || k.slot % 16 != 0 ||
  before.any (fun p => (entryQueue p.2).slot == k.slot) || spans.any (fun r => decide (r.1 < k.slot + 16) && decide (k.slot < r.1 + r.2))

/-- The first enabled queue that breaks R319. -/
def badQueue (spans : List (Nat × Nat)) : List (Nat × List Byte) → List (Nat × List Byte) → Option Nat
  | _, [] => none
  | before, p :: r => if entryBad spans before p.2 then some p.1 else badQueue spans (before ++ [p]) r

/-- R319: QUEUE_TABLE_MISALIGNED, then QUEUE_RING_SIZE_INVALID. -/
def queueVerdict (s : State) : Verdict :=
  if regField s 0x30008 42 6 * 64 % 4096 ≠ 0 then some (0x04, noUnit)
  else
    let l := enabledEntries s
    match badQueue (ringSpans s l) [] l with
    | some q => some (0x04, q)
    | none =>
      match l.find? (fun p => let k := entryQueue p.2
          decide (k.rlog < 5) || decide (15 < k.rlog) || decide (k.clog < 6) || decide (16 < k.clog)) with
      | some p => some (0x05, p.1)
      | none => none

/-- R233. -/
def faultQueueBad (s : State) : Bool :=
  let l := regField s 0x40018 4 0
  let h := regField s 0x40020 42 6 * 64
  let b := regField s 0x40010 42 12 * 4096
  regField s 0x40018 8 8 == 0 || decide (l < 8) || decide (16 < l) || (decide (b ≤ h) && decide (h < b + 64 * 2 ^ l))

/-- R346. -/
def eventRingBad (s : State) : Bool :=
  let l := regField s 0x30018 4 0
  regField s 0x30018 8 8 == 0 || decide (l < 8) || decide (16 < l) || regField s 0x30010 42 6 * 64 % 4096 != 0

/-- Whether root `n` is enabled (R232). -/
def rootOn (s : State) (n : Nat) : Bool := regField s (0x41000 + 8 * n) 63 63 == 1

/-- A root's header: GEN and the level-1 address (R211). -/
def rootHead (s : State) (n : Nat) : Nat × Nat := let b := (paRead s 0 (rootHdr s n) 16).1; (fieldAt b 0 8, fieldAt b 8 8)

/-- R212: TRANSLATION_ROOT_INVALID, then MIRROR_GENERATION_MISMATCH. -/
def rootVerdict (s : State) : Verdict :=
  let roots := (enabledEntries s).map (fun p => (entryQueue p.2).root)
  let bad := fun n => if rootOn s n then !(paTier (rootHdr s n) == 0 && paValid (rootHdr s n) && l1Ok (rootHead s n).2) else roots.contains n
  match firstBelow 256 bad with
  | some n => some (0x08, n)
  | none =>
    match firstBelow 256 (fun n => rootOn s n && (rootHead s n).1 != regGet s (0x41800 + 8 * n)) with
    | some n => some (0x09, n)
    | none => none

/-- R248. -/
def biasBad (s : State) : Bool :=
  let a := regField s 0x50020 45 14 * 16384
  paTier a != 0 || decide (1152 * gib < a + 8448)

/-- Lines of the watch set (R273), each once: doorbell lines and the fault-queue head line. -/
def watchLines (s : State) : List Nat :=
  dedup ((enabledEntries s).map (fun p => floorPA (entryQueue p.2).slot / 64) ++ [floorPA (regField s 0x40020 42 6 * 64) / 64])

/-- Bits set in a way mask. -/
def maskSize (m : Nat) : Nat := (below 16 (fun w => m.testBit w)).length

/-- R272, R273. -/
def wayVerdict (s : State) : Verdict :=
  if (List.range 4).any (fun c => maskSize (wayMask s c) < 2) then some (0x0C, noUnit)
  else
    let l := watchLines s
    if 1024 < l.length then some (0x0C, noUnit)
    else
      match l.find? (fun x => decide (maskSize (wayMask s 3) < (l.filter (fun y => y % 48 == x % 48 && y % 4096 == x % 4096)).length)) with
      | some x => some (0x0C, x % 48)
      | none => none

/-- R31: the first grove named in two compartments. -/
def compVerdict (s : State) : Verdict :=
  match firstBelow 48 (fun g => decide (2 ≤ (below 48 (fun k => bitOf (regGet s (0x30100 + 8 * k)) g)).length)) with
  | some g => some (0x0D, g)
  | none => none

/-- R382. -/
def rideVerdict (s : State) : Verdict :=
  let quad := fun i => (List.range 4).map (fun j => portMode s (4 * (i / 4) + j))
  match firstBelow 24 (fun i => portMode s i == 2 && ((quad i).contains 1 || (quad i).contains 3)) with
  | some i => some (0x0E, i)
  | none =>
    match (below 24 (fun i => portMode s i == 3))[4]? with
    | some i => some (0x0E, i)
    | none =>
      match firstBelow 24 (fun i => portMode s i == 2) with
      | some i =>
        let a := regField s 0x8C010 45 20 * 2 ^ 20
        if paTier a ≠ 0 ∨ 1152 * gib < a + 2 ^ 20 then some (0x0E, i) else none
      | none => none

/-- Entries of the landing table that are read (R390, R402). -/
def landCount (s : State) : Nat := min 4096 (regField s 0x8C000 60 48)

/-- R390: the table must lie in the canopy. -/
def landBad (s : State) : Bool :=
  let a := regField s 0x8C000 45 12 * 4096
  landCount s != 0 && (paTier a != 0 || decide (1152 * gib < a + 32 * landCount s))

/-- PRF_PAIR_CFG.PAIR_EN. -/
def pairEn (s : State) : Bool := regField s 0x90000 16 16 == 1

/-- Whether PARTNER_FEED equals OWN_FEED (R483). -/
def coFed (s : State) : Bool := regField s 0x90000 11 8 == regField s 0x90000 3 0

/-- R483: PROOF_TARGET_ABSENT. -/
def targetAbsent (s : State) : Bool :=
  let modes := (List.range 24).map (portMode s)
  let store := regField s 0x90010 63 63 == 1
  let tg := regField s 0x90028 1 0
  (modes.contains 3 && !pairEn s) || (pairEn s && slotGib s == 0) ||
  (store && (!modes.contains 2 || decide (regField s 0x8C010 60 48 ≤ regField s 0x90010 51 40))) ||
  (bitOf tg 0 && !pairEn s) || (bitOf tg 1 && !store) ||
  (tg != 0 && !(enabledEntries s).any (fun p => p.1 == regField s 0x90028 41 32)) ||
  (pairEn s && coFed s && !store)

/-- The consistency check, in R506's order. -/
def checkVerdict (s : State) : Verdict :=
  firstVerdict [
    refuse (s.life.lc == 0 || s.life.lc == 3 || mode s == 2) 0x13 noUnit,
    refuse (!(s.tiers.wPlates && s.tiers.wCaches && s.tiers.wErased && s.tiers.wCanopy)) 0x14 noUnit,
    refuse (regField s 0x20020 3 0 != 2) 0x01 noUnit,
    refuse (decide (1 < regField s 0x70000 1 0)) 0x03 noUnit,
    refuse (!allotFits s) 0x02 noUnit,
    refuse (!creditsFit s) 0x12 noUnit,
    queueVerdict s,
    refuse (faultQueueBad s) 0x06 noUnit,
    refuse (eventRingBad s) 0x07 noUnit,
    rootVerdict s,
    refuse (!winValid s (regField s 0x50010 45 30) (regField s 0x50010 63 58)) 0x0A noUnit,
    refuse (biasBad s) 0x0B noUnit,
    wayVerdict s,
    compVerdict s,
    rideVerdict s,
    refuse (landBad s) 0x15 noUnit,
    refuse (targetAbsent s) 0x11 noUnit,
    refuse (pairEn s && !s.prf.beat) 0x0F noUnit,
    refuse (pairEn s && (regField s 0x90000 4 4 == 0 || s.prf.strap != regField s 0x90000 11 8)) 0x10 noUnit]

/-- Fences of the enable (R15, R121, R122, R450, R500, R507): fault fencings end, FENCE_REQ and the marks fence, spares serve. -/
def acceptFences (s : State) : State :=
  let s := { s with flt := { s.flt with fenced := s.life.marked.filter (fun r => decide (0x960 ≤ r)) } }
  let s := ((List.range 0xA96).filter (fun r => frState s r == 3)).foldl (fun s r => episodePut (regSet s (frOff r) 2 0 0) r 0) s
  (List.range 48).foldl (fun s g =>
    let on := nextServing s g
    let s := (groveCores g).foldl (fun s c =>
      let f := fenceAsked s c
      coreMap s c (fun k => { k with
        st := if f then .fenced else if on.contains c then .idle else .unused
        fenced := f, spareUse := on.contains c && s.life.spares.contains c
        tbuf := [], a := { k.a with stip := [], tags := [] } })) s
    renumber s g) s

/-- The watch set is released and placed afresh (R273, R274): each line in its slice's set, in a way of the WATCH mask, pinned
and read in S. A fenced grove's slice watches nothing (R448). -/
def placeWatch (s : State) : State :=
  let s := s.coh.watch.foldl (fun s w =>
    match l2tagged s w.slice w.line with
    | some x => let v := l2get s w.slice w.line x; l2put s w.slice w.line x (if v.st = 0 then l2way0 else { v with pinned := false })
    | none => s) { s with coh := { s.coh with l2 := s.coh.l2 } }
  let s := { s with coh := { s.coh with watch := [] } }
  (watchLines s).foldl (fun s line =>
    let g := line % 48
    if groveFenced s g then s
    else
      let s := flushLines s (fun l _ => l == line)
      match firstBelow 16 (fun w => (wayMask s 3).testBit w && !(l2get s g line w).pinned) with
      | none => s
      | some w =>
        let s := l2put (evict s g line w) g line w { l2way0 with tag := line / 4096, pinned := true }
        let s := { s with coh := { s.coh with watch := s.coh.watch ++ [⟨line, g, w, false, false⟩] } }
        request s g line .rdS 3 0 false) s

/-- Whether a landing entry with VALID = 1 passes every check (R246, R390). -/
def landOk (s : State) (w : List Nat) : Bool :=
  let k := leKind w
  let mem := decide (k ≤ 1)
  let base := w.getD 1 0
  let size := w.getD 2 0
  let o := base % 2 ^ 44
  let top := if paTier base = 0 then 1152 * gib else (3072 - 2 * slotGib s) * gib
  let arr := w.getD 3 0
  let h := w.getD 0 0
  decide (k ≤ 4) && h % 2 ^ 34 == 0 && decide (leComp w < 48) && decide (size ≤ 2 ^ 24) &&
  (if mem then
    decide (base < 2 ^ 45) && base % 1024 == 0 && decide (o + size ≤ top) && !bitOf h 35 && !selDenied s (leSel w * 2 ^ 58 + base)
   else decide (base + size ≤ 0x180000)) &&
  (!bitOf h 34 ||
    (arr % 8 == 0 && (if bitOf h 35 then decide (arr + 8 ≤ 0x180000) else decide (arr < 1152 * gib))))

/-- The landing table is copied (R390): valid entries serve, and RIDE_GSTAT counts. -/
def copyLandings (s : State) : State :=
  let a := regField s 0x8C000 45 12 * 4096
  let s := if landCount s = 0 then s else readNotes s a (32 * landCount s)
  let es := (List.range (landCount s)).map (fun i => let b := (paRead s 0 (a + 32 * i) 32).1; (i, [fieldAt b 0 8, fieldAt b 8 8, fieldAt b 16 8, fieldAt b 24 8]))
  let v := es.filter (fun e => bitOf (e.2.getD 0 0) 63)
  let good := v.filter (fun e => landOk s e.2)
  let s := regSet (regSet s 0x8C018 31 16 (v.length - good.length)) 0x8C018 15 0 good.length
  { s with ride := { s.ride with land := good, bound := [], rwinOk := winValid s (regField s 0x8C008 45 30) (regField s 0x8C008 63 58) } }

/-- Roots are latched and every translation cache is emptied (R212, R215). Records still pending stay (R225). -/
def latchRoots (s : State) : State :=
  let s := (List.range 256).foldl (fun s n =>
    if rootOn s n then
      let h := rootHead s n
      let s := readNotes s (rootHdr s n) 64
      regPut (xltPut s (fun x => { x with l1 := tabSet (fun _ => 0) x.l1 n (h.2 + 1) })) (0x42000 + 8 * n) h.1
    else s) (xltPut s (fun x => { x with l1 := [] }))
  xltPut s (fun x => { x with cache := [], epoch := 0, drains := [], fqT := 0, fqP := 0, fqWait := [] })

/-- The bias table is read (R247); pages of a poisoned line are in host bias until the next enable (R257). -/
def readBias (s : State) : State :=
  let a := regField s 0x50020 45 14 * 16384
  (List.range 132).foldl (fun s i =>
    let d := paRead s 0 (a + 64 * i) 64
    let w := leNat d.1
    let s := readNotes s (a + 64 * i) 64
    let s := if d.2 then noteErr s (ctlRecord (a / 64 + i)) 4 0 (a + 64 * i) else s
    { s with tiers := { s.tiers with bias := s.tiers.bias ++ (below 512 (fun j => d.2 || w.testBit j)).map (fun j => 512 * i + j) } })
    { s with tiers := { s.tiers with bias := [] } }

/-- The queue table is copied (R318, R321). -/
def copyQueues (s : State) : State :=
  let s := (enabledEntries s).foldl (fun s p => readNote s (floorPA (regField s 0x30008 42 6 * 64) / 64 + p.1)) s
  { s with qsu := { s.qsu with
      queues := (enabledEntries s).foldl (fun t p => tabSet (fun _ => queue0) t p.1 (entryQueue p.2)) []
      launches := [], clears := [], period := [], evT := 0, evP := 0, evOn := true } }

/-- FENCED ports train afresh (R383); ports marked by the self-test are fenced (R500). -/
def acceptPorts (s : State) : State :=
  (List.range 24).foldl (fun s i =>
    if s.life.marked.contains (0xA70 + i) then portSet s i { port0 with st := 5 }
    else if (portGet s i).st = 5 then portSet s i { port0 with st := if portMode s i = 0 then 0 else 1 }
    else s) s

/-- The pair forms (R483). -/
def acceptPair (s : State) : State :=
  if pairEn s then
    let st := pairFormed s
    writeEvent { s with prf := { s.prf with pair := st, lost := false } } 0x62 (regGet s 0x90008) st 0
  else { s with prf := { s.prf with pair := 0 } }

/-- MIN_SVN rises (R503). -/
def raiseSvn (s : State) : State :=
  if s.life.lc = 2 ∧ s.life.fwKey = 1 ∧ s.life.minSvn < regField s 0x20020 31 16 then
    { s with life := { s.life with minSvn := regField s 0x20020 31 16 } }
  else s

/-- What power takes at an accepted enable (R381, R405, R416, R436): the LINK allotment, K = 1, and energy counts from zero. -/
def acceptPower (s : State) : State :=
  let s := regSet (regSet s 0x70018 12 0 (linkDraw s)) 0x70048 47 32 4096
  let s := (List.range 48).foldl (fun s k => regPut s (0x71000 + 8 * k) 0) s
  let s := (s.regs.filter (fun p => decide (0x72000 ≤ p.1) && decide (p.1 < 0x74000))).foldl (fun s p => regPut s p.1 0) s
  { s with pwr := { s.pwr with energy := 0, taken := 0, sumM := 0, sumL := 0, sumD := 0, spoil := true } }

/-- Acceptance (R507): one step. -/
def accept (s : State) : State :=
  let s := regPut s 0x20010 (noUnit * 2 ^ 16)
  let s := regSet (regSet (regSet s 0x20008 2 2 0) 0x20000 0 0 1) 0x20008 18 16 3
  let s := acceptPorts (acceptFences s)
  let s := copyQueues s
  let s := copyLandings s
  let s := latchRoots s
  let s := readBias s
  let s := { s with tiers := { s.tiers with winBase := regField s 0x50010 45 30, winSel := regField s 0x50010 63 58 } }
  let s := placeWatch s
  let s := acceptPower (raiseSvn s)
  let s := { s with flt := { s.flt with armed := true }, prf := { s.prf with atClear := List.range 48 } }
  let s := acceptPair (topoChange s)
  (s.qsu.queues.map (·.1)).foldl queueWake s

/-- Refusal (R506): nothing is latched or changed; ENABLE reads 0. -/
def refused (s : State) (v : Nat × Nat) : State :=
  regPut (regSet (regSet s 0x20008 2 2 0) 0x20000 0 0 0) 0x20010 (v.2 * 2 ^ 16 + v.1)

end Sys2Proof.Machine
end

