-- ==== Sys2Proof/Machine/LifeCmds.lean ====
section
/-! DEFINITION. Meanings of the bring-up and life-cycle commands (R495 to R510, R524 to R526): resets, start-up, firmware, wear history, enable, disable, life-cycle transitions, and the loss of power. -/

namespace Sys2Proof.Machine

/-- Whether ERROR_OUT# is driven low (R463, R523, R529), given the feed in 10 mV: released below 40.0 V, and during step 1 of
R498 unless a DEVICE_RESET came before. -/
def errorOutLow (s : State) (feed : Nat) : Bool :=
  regField s 0x1F0800 31 31 == 1 && decide (4000 ≤ feed) && (s.life.ramped || regField s 0x20030 7 0 == 4)

/-- POWER_ON (R425, R496): the feed has come up. A frozen complex does not resume when its feed returns (R423). -/
def powerUp (s : State) : State := if s.life.on && mode s == 5 then s else complexReset (powerGone s) 1 0

/-- POWER_ON. The strap is sampled at RESET_RELEASE (R528). -/
def execPowerOn (s : State) : Host.Outcome State Fault Refusal := .next (powerUp s)

/-- RESET_PIN (R496, R526): over another reset it makes the cause RESET_PIN. -/
def execResetPin (s : State) : Host.Outcome State Fault Refusal := .next (if s.life.on then complexReset s 2 0 else s)

/-- SOFTWARE_RESET (R496): DEV_CTRL.RESET with its KEY; also during a disable (R510). -/
def execSoftwareReset (s : State) : Host.Outcome State Fault Refusal :=
  runLive s (fun s => if s.life.released then complexReset s 3 0 else s)

/-- RESET_RELEASE (R495, R524, R528): the straps are sampled, and the mode is the one the reset ends in. -/
def release (s : State) (strap : Nat) : State :=
  if s.life.released then s
  else
    let m := if s.life.lc = 0 then 2 else if regField s 0x20030 7 0 = 4 then 1 else 0
    let s := regSet (regSet s 0x90000 3 0 strap) 0x20008 18 16 m
    { s with life := { s.life with released := true } }

/-- RESET_RELEASE: FEED_ID[3:0]. -/
def execResetRelease (strap : Nat) (s : State) : Host.Outcome State Fault Refusal := runLive s (fun s => release s strap)

/-- RAMP_COMPLETE (R498 step 1): every domain stands at its lowest point until enable. -/
def rampDone (s : State) : State :=
  if s.life.released && !s.life.ramped then
    let s := (List.range 5).foldl (fun s d => domSet s d ⟨domFloor d, if d < 4 then 0 else 7, 0, domFloor d, 0⟩) s
    { s with life := { s.life with ramped := true } }
  else s

/-- RAMP_COMPLETE. -/
def execRampComplete (s : State) : Host.Outcome State Fault Refusal := runLive s rampDone

/-- FUSE_CHECK_DONE (R498 step 2). -/
def execFuseCheckDone (s : State) : Host.Outcome State Fault Refusal :=
  runLive s (fun s => if s.life.ramped then { s with life := { s.life with fused := true } } else s)

/-- The sources that failed the self-test (R500), each record + 4,096 × source; in RECOVERY the causing record is skipped. -/
def selfTest (s : State) (failed : List Nat) : State :=
  if !s.life.fused || s.life.tested then s
  else
    let s := { s with life := { s.life with tested := true } }
    if mode s ≠ 0 ∧ mode s ≠ 1 then s
    else
      let l := failed.filter (fun x => (match frClass (x % 4096) with | some k => decide (x / 4096 < srcCount k) | none => false) &&
        !(mode s == 1 && regField s 0x20030 23 12 == x % 4096))
      let s := regPut s 0x20038 ((l.headD 0) % 4096 * 2 ^ 32 + l.length)
      l.foldl (fun s x =>
        let r := x % 4096
        match frClass r with
        | none => s
        | some k =>
          if canFence k then { s with life := { s.life with marked := setAdd r s.life.marked } }
          else raisePin (regSet s 0x20008 1 1 1) r) s

/-- SELF_TEST_DONE. -/
def execSelfTestDone (failed : List Nat) (s : State) : Host.Outcome State Fault Refusal := runLive s (fun s => selfTest s failed)

/-- CONFIG_READY (R498 step 5). -/
def execConfigReady (s : State) : Host.Outcome State Fault Refusal :=
  runLive s (fun s => if s.life.released then { s with host := { s.host with cfgReady := true } } else s)

/-- DEV_FW_STATUS.STATE (R502). -/
def fwState (s : State) : Nat := regField s 0x20020 3 0

/-- FW_LOAD (R500 to R502): ignored while VERIFYING, RUNNING or HALTED, before start-up steps 3 and 4 are complete, and after a
self-test that the ROM holds against it. -/
def fwLoad (s : State) : State :=
  let busy := fwState s == 1 || fwState s == 2 || fwState s == 6
  let wiped := s.tiers.wPlates && s.tiers.wCaches && s.tiers.wErased && s.tiers.wCanopy
  if busy || !s.life.tested || !wiped || regField s 0x20008 1 1 == 1 then s else regSet s 0x20020 3 0 1

/-- FW_LOAD. -/
def execFwLoad (s : State) : Host.Outcome State Fault Refusal := runLive s fwLoad

/-- Whether a signing key is accepted in a life-cycle state (R508): 1 production, 2 integration. -/
def keyAccepted (lc key : Nat) : Bool :=
  match lc with
  | 0 => key == 2
  | 1 => key == 1 || key == 2
  | 2 => key == 1
  | _ => false

/-- The outcome of verifying the image (R501, R502): STATE, and the header. -/
def fwVerdict (s : State) : Nat × List Byte :=
  let pa := regField s 0x20018 45 12 * 4096
  let limit := min (regField s 0x20018 61 48 * 1024) (8 * 2 ^ 20)
  let inCanopy := fun n => paTier pa == 0 && decide (pa + n ≤ 1152 * gib)
  let h := (paRead s 0 pa 4096).1
  let body := fieldAt h 12 4
  if !inCanopy 4096 || fieldAt h 0 4 != 0x57524D5A || !((h.drop 112).all (fun x => x == 0)) || decide (limit < 4096 + body) ||
      !inCanopy (4096 + body) then (3, h)
  else
    let b := (paRead s 0 (pa + 4096) body).1
    let key := fieldAt h 10 2
    if !keyAccepted s.life.lc key || !Config.sigOk key (sha384 (h.take 16 ++ b)) (leNat ((h.drop 16).take 96)) then (4, h)
    else if fieldAt h 8 2 < s.life.minSvn then (5, h)
    else (2, h)

/-- FIRMWARE_VERIFIED (R502). -/
def fwVerified (s : State) : State :=
  if fwState s ≠ 1 then s
  else
    let v := fwVerdict s
    let s := regSet s 0x20020 3 0 v.1
    if v.1 = 2 then
      let s := regSet (regSet s 0x20020 63 32 (fieldAt v.2 4 4)) 0x20020 31 16 (fieldAt v.2 8 2)
      { s with life := { s.life with fwKey := fieldAt v.2 10 2 } }
    else s

/-- FIRMWARE_VERIFIED. -/
def execFirmwareVerified (s : State) : Host.Outcome State Fault Refusal := runLive s fwVerified

/-- Physical address of the wear area (R504, R511). -/
def wearPA (s : State) : Nat := regField s 0x20028 45 16 * 65536

/-- Whether the wear area lies in the canopy. -/
def wearInCanopy (s : State) : Bool := paTier (wearPA s) == 0 && decide (wearPA s + 65536 ≤ 1152 * gib)

/-- Whether firmware takes a wear area (R505). -/
def wearOk (s : State) (b : List Byte) : Bool :=
  rangerUp s && !s.flt.restored && wearInCanopy s && fieldAt b 0 8 == 0x000152414557 && fieldAt b 8 8 == Config.serial % 2 ^ 64 &&
  fieldAt b 0x20 4 == crc32 (listPut b 0x20 [0, 0, 0, 0])

/-- Adds a wear area's counts to those since start (R462, R505). -/
def wearAdd (s : State) (b : List Byte) : State :=
  let s := (List.range 2400).foldl (fun s c => regSet s (frOff c + 0x80) 63 32 (regField s (frOff c + 0x80) 63 32 + fieldAt b (0x100 + 4 * c) 4)) s
  let s := (List.range 4).foldl (fun s i =>
    regSet s (frOff (0xA8C + i) + 0x80) 63 32 (regField s (frOff (0xA8C + i) + 0x80) 63 32 + fieldAt b (0x2700 + 4 * i) 4)) s
  ((List.range 0xA96).filter (fun r => (frClass r).isSome)).foldl (fun s r => regCount s (frOff r + 0x40) 15 0 (fieldAt b (0x2800 + 2 * r) 2)) s

/-- WEAR_LOAD (R505): served after the end of a disable under way (R510). -/
def wearLoad (s : State) : State :=
  if mode s = 4 then { s with life := { s.life with wearPend := true } }
  else
    let b := (paRead s 0 (wearPA s) 65536).1
    let s := { s with life := { s.life with wearPend := false } }
    if wearOk s b then
      let s := wearAdd s b
      topoChange (regSet { s with flt := { s.flt with restored := true, eol := fieldAt b 0x18 2 } } 0x20028 62 61 1)
    else regSet s 0x20028 62 61 2

/-- WEAR_LOAD. -/
def execWearLoad (s : State) : Host.Outcome State Fault Refusal := runLive s wearLoad

/-- A write of 1 to DEV_CTRL.ENABLE (R506, R515): the check starts in BRINGUP, RECOVERY or, to be refused, TEST. -/
def enableStart (s : State) : State :=
  if 3 ≤ mode s ∨ regField s 0x20008 2 2 = 1 ∨ s.life.released = false then s
  else { regSet s 0x20008 2 2 1 with prf := { s.prf with beat := false } }

/-- ENABLE. -/
def execEnable (s : State) : Host.Outcome State Fault Refusal := runLive s enableStart

/-- The check ends (R506, R507). In HOLD it cannot read its tables and goes on. -/
def enableDone (s : State) : State :=
  if regField s 0x20008 2 2 = 0 ∨ s.host.hold = true then s
  else
    match checkVerdict s with
    | some v => refused s v
    | none => accept s

/-- ENABLE_CHECK_DONE. -/
def execEnableCheckDone (s : State) : Host.Outcome State Fault Refusal := runLive s enableDone

/-- The clearing of a disable (R509): complex-wide, without a command. -/
def disableClearing : Clearing := { q := 0, idx := 0, whole := true, comps := List.range 48, step := 0, auto := true }

/-- A disable starts (R509): the clearing begins at once unless a proof, restore, reslice or another clearing runs. -/
def disableStart (s : State) : State :=
  if mode s ≠ 3 then s
  else
    let s := regSet (regSet s 0x20008 18 16 4) 0x20000 0 0 0
    let s := { s with qsu := { s.qsu with clears := s.qsu.clears ++ [disableClearing] } }
    clearNext s disableClearing

/-- DISABLE. -/
def execDisable (s : State) : Host.Outcome State Fault Refusal := runLive s disableStart

/-- The ranger writes the wear area at DEV_WEAR.ADDR (R504, R509): its count is one above the area's. -/
def wearWrite (s : State) : State :=
  if rangerUp s && wearInCanopy s then paWrite s 0 (wearPA s) (wearBytes s (leNat (paRead s 0 (wearPA s + 0x10) 8).1 + 1)) else s

/-- SHUTDOWN (R509): the wear area, then a disable. -/
def shutdownDo (s : State) : State :=
  if mode s ≠ 3 then s
  else
    let s := wearWrite s
    disableStart { s with life := { s.life with shut := true } }

/-- SHUTDOWN. -/
def execShutdown (s : State) : Host.Outcome State Fault Refusal := runLive s shutdownDo

/-- A disable ends (R509): its clearing has; every queue is DISABLED, and MODE is BRINGUP. -/
def disableFinish (s : State) : State :=
  if mode s = 4 ∧ s.qsu.clears.any (fun c => c.auto && decide (9 ≤ c.step)) then
    let s := { s with qsu := { s.qsu with
        clears := s.qsu.clears.filter (fun c => !c.auto)
        queues := s.qsu.queues.map (fun p => (p.1, { p.2 with en := false, st := .disabled, buf := [], run := [] })) } }
    let s := regSet s 0x20008 18 16 0
    let s := if s.life.shut then regSet s 0x20008 3 3 1 else s
    let s := { s with life := { s.life with shut := false } }
    if s.life.wearPend then wearLoad s else s
  else s

/-- DISABLE_END. -/
def execDisableEnd (s : State) : Host.Outcome State Fault Refusal := runLive s disableFinish

/-- A life-cycle transition (R508): 1 DEPLOY, 2 DECOMMISSION; the fuses, then a reset of cause LIFE_CYCLE. -/
def lifeCycle (s : State) (op : Nat) : State :=
  if (mode s ≠ 0 ∧ mode s ≠ 1) ∨ s.life.released = false then s
  else if op = 1 ∧ s.life.lc = 1 then complexReset { s with life := { s.life with lc := 2 } } 5 0
  else if op = 2 ∧ (s.life.lc = 1 ∨ s.life.lc = 2) then complexReset { s with life := { s.life with lc := 3 } } 5 0
  else s

/-- DEPLOY. -/
def execDeploy (s : State) : Host.Outcome State Fault Refusal := runLive s (fun s => lifeCycle s 1)

/-- DECOMMISSION. -/
def execDecommission (s : State) : Host.Outcome State Fault Refusal := runLive s (fun s => lifeCycle s 2)

/-- POWER_LOSS (R424, R425): at any instant. -/
def execPowerLoss (s : State) : Host.Outcome State Fault Refusal := .next (powerGone s)

end Sys2Proof.Machine
end

