-- ==== Sys2Proof/Machine/MoverCmds.lean ====
section
/-! DEFINITION. Events of movers, of translation and of the fault queue (R197 to R206, R216, R219 to R226). -/

namespace Sys2Proof.Machine

/-- A mover accepts the stream that waits for it (R172, R200); the issuing core's MVI has then completed. -/
def moverAccept (s : State) (m : Nat) : State :=
  match (moverGet s m).cur, (moverGet s m).waiting with
  | none, st :: _ =>
    let s := moverTake s m
    match st.core with
    | some c => pumpCore s c
    | none => s
  | _, _ => s

/-- The check of a running stream's next tile (R22, R23, R203, R219): when a credit of the mover is free. -/
def tileNext (s : State) (m : Nat) : State :=
  match (moverGet s m).cur with
  | none => s
  | some st =>
    if st.st = .running ∧ st.tile < dsTiles st.desc ∧ st.txns.length < mvDepth s then tileCheck s m st else s

/-- A transaction of a mover completes (R203), if nothing holds its lines. -/
def moverTxn (s : State) (m i : Nat) : State :=
  match (moverGet s m).cur with
  | none => s
  | some st =>
    match st.txns[i]? with
    | none => s
    | some x =>
      if mvDepth s ≤ i then s
      else if txnReady s m st x then txnDo (txnTake s m st x) m st x else txnAsk s m st x

/-- A stream whose work is done completes (R204), and one that has ended aborted leaves its mover (R225). -/
def streamDone (s : State) (m : Nat) : State :=
  match (moverGet s m).cur with
  | none => s
  | some st =>
    if !streamDrained s m st then s
    else
      match st.st with
      | .running => if dsTiles st.desc ≤ st.tile then streamFinish s m st else s
      | .done => streamAbortEnd s m st
      | _ => s

/-- MOVER_ACCEPT (R200). -/
def execMoverAccept (m : Nat) (s : State) : Host.Outcome State Fault Refusal :=
  withUnit 192 m (runLive s (fun s => moverAccept s m))

/-- TILE_CHECK (R219). -/
def execTileCheck (m : Nat) (s : State) : Host.Outcome State Fault Refusal :=
  withUnit 192 m (runLive s (fun s => tileNext s m))

/-- TABLE_WALK_DONE (R216): the leaf a walk finds is cached. -/
def execTableWalkDone (root va : Nat) (s : State) : Host.Outcome State Fault Refusal :=
  withUnit 256 root (runLive s (fun s => (translate s root va).2))

/-- MOVER_TRANSACTION_DONE (R203). -/
def execMoverTransactionDone (m txn : Nat) (s : State) : Host.Outcome State Fault Refusal :=
  withUnit 192 m (runLive s (fun s => moverTxn s m txn))

/-- STREAM_COMPLETE (R204). -/
def execStreamComplete (m : Nat) (s : State) : Host.Outcome State Fault Refusal :=
  withUnit 192 m (runLive s (fun s => streamDone s m))

/-- FAULT_RECORD_WRITE (R225). -/
def execFaultRecordWrite (s : State) : Host.Outcome State Fault Refusal := runLive s faultWrite

/-- FQ_HEAD_UPDATE (R224). -/
def execFqHeadUpdate (s : State) : Host.Outcome State Fault Refusal := runLive s headUpdate

end Sys2Proof.Machine
end

