-- ==== Sys2Proof/Machine/HostConfig.lean ====
section
/-! DEFINITION. The functions the host port presents (R363 to R367, R378, R498): configuration space, capabilities, the sizes of the BARs, the component registers of companions, and requests that no function serves. The table has no row for a configuration request: RC_READ and REGISTER_WRITE carry one at an address beyond the primary BAR (log 64). -/

namespace Sys2Proof.Machine

/-- Size of a function's BAR (R365): 16 MiB, a companion's 64 KiB. -/
def barSize (n : Nat) : Nat := if n = 0 then 2 ^ 24 else 2 ^ 16

/-- Address of configuration space `o` of function `n` in RC_READ and REGISTER_WRITE; the model's own numbering (log 64). -/
def cfgAt (n o : Nat) : Nat := 2 ^ 24 * (1 + n) + o

/-- Address of offset `o` of companion `n`'s BAR, 1 to 3, in the same numbering. -/
def compAt (n o : Nat) : Nat := 2 ^ 24 * (4 + n) + o

/-- The capabilities of R364, one block of 0x100 bytes each in its table's order, by the block's number: PCIe's or CXL's
identifier of the capability, or of the DVSEC its vendor and ID. -/
def capId (c : Nat) : Nat :=
  match c with
  | 1 => 0x10 | 2 => 0x01 | 3 => 0x11 | 4 => 0x0001 | 5 => 0x002E | 6 => 0x0030 | 7 => 0x1E980000 | 8 => 0x1E980007
  | 9 => 0x1E980008 | 10 => 0x1F6B0001 | 11 => 0x0003 | _ => 0

/-- Double word `i` of a capability (R362, R364, R366, R367, R374, R378): its identifier first, then what R364 states of it. Zero
where R364 lists no capability. -/
def capWord (s : State) (n c i : Nat) : Nat :=
  if (c = 3 ∧ n ≠ 0) ∨ capId c = 0 then 0
  else if i = 0 then capId c
  else
    match c, i with
    | 1, 4 => bnat (fnGet s n).l1 * 2
    | 2, 4 => (fnGet s n).pm
    | 3, 4 => bnat s.host.msixEn * 2 ^ 31 + bnat s.host.fmask * 2 ^ 30 + 2047 * 2 ^ 16
    | 3, 8 => 0xF00000
    | 3, 12 => 0xF08000
    | 6, 4 => bnat (linkGet s n).ide
    | 7, 4 => 0b1_0101
    | 7, 8 => 192
    | 7, 12 => 65
    | 8, 4 => 0b11111
    | 9, 4 => if n = 0 then 0xC0000 else 0
    | 10, 4 => n
    | 10, 8 => 0xB0000
    | 11, 4 => Config.serial % 2 ^ 32
    | 11, 8 => Config.serial / 2 ^ 32 % 2 ^ 32
    | _, _ => Config.cfgFree n (0x100 * c + i) % 2 ^ 32

/-- Double word of a function's configuration space at a multiple of 4 (R363 to R365): PCIe's header, then the capabilities. -/
def cfgWord (s : State) (n o : Nat) : Nat :=
  let f := fnGet s n
  if 0x100 ≤ o then capWord s n (o / 0x100) (o % 0x100)
  else
    match o with
    | 0x00 => (if n = 0 then 0x0A40 else 0x0A41) * 2 ^ 16 + 0x1F6B
    | 0x04 => f.cmd
    | 0x08 => 0x120000 * 2 ^ 8 + Config.stepping % 2 ^ 8
    | 0x10 => f.bar % 2 ^ 32 + 4
    | 0x14 => f.bar / 2 ^ 32
    | 0x18 => 0
    | 0x1C => 0
    | 0x20 => 0
    | 0x24 => 0
    | 0x2C => 0x0001 * 2 ^ 16 + 0x1F6B
    | 0x30 => 0
    | 0x3C => 0
    | _ => if o < 0x40 then Config.cfgFree n o % 2 ^ 32 else 0

/-- Bits of the command register that PCIe lets the host write in these functions: Memory Space, Bus Master, Parity Error
Response, SERR#, Interrupt Disable. -/
def cmdMask : Nat := 0x546

/-- A write of a double word of configuration space (R365, R367, R374, R378). A PM state other than D0 and D3hot is ignored. -/
def cfgWrite (s : State) (n o v : Nat) : State :=
  let f := fnGet s n
  match o with
  | 0x04 => fnPut s n { f with cmd := v &&& cmdMask }
  | 0x10 => fnPut s n { f with bar := f.bar / 2 ^ 32 * 2 ^ 32 + v % 2 ^ 32 / barSize n * barSize n }
  | 0x14 => fnPut s n { f with bar := v % 2 ^ 32 * 2 ^ 32 + f.bar % 2 ^ 32 }
  | 0x104 => fnPut s n { f with l1 := bitOf v 1 }
  | 0x204 => if v % 4 = 0 ∨ v % 4 = 3 then fnPut s n { f with pm := v % 4 } else s
  | 0x304 => if n = 0 then msixDrain { s with host := { s.host with msixEn := bitOf v 31, fmask := bitOf v 30 } } else s
  | _ => s

/-- Whether a register access of the host reaches the complex (R360, R518): reset released, and link 0 trained. -/
def barReach (s : State) : Bool := s.life.released && (linkGet s 0).trained

/-- A CXL.io read beyond the primary BAR (R366, R498): configuration space, a companion's BAR, or an Unsupported Request. -/
def ioRead (s : State) (a size : Nat) : State :=
  let k := a / 2 ^ 24
  let o := a % 2 ^ 24
  let ok := (size == 1 || size == 2 || size == 4) && o % size == 0
  if k ≤ 4 then
    if !(linkGet s (k - 1)).trained then s
    else if !s.host.cfgReady then emit s (.ioStatus 2)
    else if !ok || decide (0x1000 ≤ o) then emit s (.ioStatus 1)
    else emit s (.read (((leBytes 4 (cfgWord s (k - 1) (o / 4 * 4))).drop (o % 4)).take size) false)
  else if 8 ≤ k ∨ 2 ^ 16 ≤ o then emit s (.ioStatus 1)
  else if !(linkGet s (k - 4)).trained then s
  else if (size = 4 ∨ size = 8) ∧ o % size = 0 then emit s (.read (leBytes size (compRead s (k - 4) o size)) false)
  else emit s (.read (List.replicate size 0) false)

/-- A CXL.io write beyond the primary BAR (R366, R498). The decoder of a companion's component registers has its own row. -/
def ioWrite (s : State) (a size v : Nat) : State :=
  let k := a / 2 ^ 24
  let o := a % 2 ^ 24
  if k ≤ 4 then
    if !(linkGet s (k - 1)).trained then s
    else if !s.host.cfgReady then emit s (.ioStatus 2)
    else if size ≠ 4 ∨ o % 4 ≠ 0 ∨ 0x1000 ≤ o then emit s (.ioStatus 1)
    else cfgWrite s (k - 1) o v
  else if 8 ≤ k ∨ 2 ^ 16 ≤ o then emit s (.ioStatus 1)
  else s

end Sys2Proof.Machine
end

