-- ==== Sys2Proof/Machine/RegCmds.lean ====
section
/-! DEFINITION. Register accesses of the host (R9 to R11, R510 to R518) and the ranger mailbox (R519 to R521). -/

namespace Sys2Proof.Machine

/-- A request reaches the ranger mailbox (R520): ignored while one is served. -/
def mbxStart (s : State) (op tag len : Nat) : State :=
  if s.life.mbx.isSome then s
  else { regSet s 0xA0008 0 0 1 with life := { s.life with mbx := some (op % 256, tag % 65536, len % 65536) } }

/-- READ_FAULT_LOG: MBX_CMD written with OP 0x01. -/
def execReadFaultLog (tag len : Nat) (s : State) : Host.Outcome State Fault Refusal :=
  runLive s (fun s => if barReach s then mbxStart s 1 tag len else s)

/-- READ_DISTURBANCE_LOG: MBX_CMD written with OP 0x02. -/
def execReadDisturbanceLog (tag len : Nat) (s : State) : Host.Outcome State Fault Refusal :=
  runLive s (fun s => if barReach s then mbxStart s 2 tag len else s)

/-- A log's entries as a response (R520, R521): those from a sequence number on, oldest first, at most 128. -/
def logBytes (l : List LogEntry) (first : Nat) : List Byte :=
  ((l.filter (fun e => decide (first ≤ e.seq))).take 128).flatMap (fun e => words [e.w0, e.w1, e.w2, e.seq])

/-- Puts a response into MBX_RSP. -/
def rspPut (s : State) (b : List Byte) : State :=
  (List.range (b.length / 8)).foldl (fun s i => regPut s (0xA2000 + 8 * i) (fieldAt b (8 * i) 8)) s

/-- Writes the status of a request that has ended, and signals it (R520). -/
def mbxEnd (s : State) (tag len result : Nat) : State :=
  let s := { s with life := { s.life with mbx := none } }
  let s := regPut s 0xA0008 (tag % 65536 * 2 ^ 48 + len % 65536 * 2 ^ 32 + result * 256 + 2)
  if regField s 0xA0010 8 8 = 1 then sendMsix s (regField s 0xA0010 26 16) else s

/-- MBX_REQUEST_DONE (R460, R520): while mailbox work is shed, the request waits. -/
def mbxDone (s : State) : State :=
  match s.life.mbx with
  | none => s
  | some (op, tag, len) =>
    if !rangerUp s then mbxEnd s tag 0 2
    else if shedLevel s = 3 then s
    else if (op ≠ 1 ∧ op ≠ 2) ∨ len ≠ 8 then mbxEnd s tag 0 1
    else
      let b := logBytes (if op = 1 then s.flt.log else s.pwr.log) (regGet s 0xA1000)
      mbxEnd (rspPut s b) tag b.length 0

/-- MBX_REQUEST_DONE. -/
def execMbxRequestDone (s : State) : Host.Outcome State Fault Refusal := runLive s mbxDone

/-- A read of the host with its effect (R9, R11, R517): one value, taken at one moment; an access while a reset is applied is
lost (R518), and without link 0 none arrives (R360). -/
def rcReadDo (s : State) (off size : Nat) : State :=
  if !barReach s then s
  else if 2 ^ 24 ≤ off then ioRead s off size
  else
    let r := barReadRc s off size
    emit r.2 (.read (leBytes size r.1) false)

/-- RC_READ: BAR0 offset and bytes. -/
def execRcRead (a : Access) (s : State) : Host.Outcome State Fault Refusal := runLive s (fun s => rcReadDo s a.off a.size)

/-- A write of DEV_CTRL (R496, R501, R506, R509, R510, R511). -/
def devCtrl (s : State) (v : Nat) : State :=
  if bitOf v 32 && bitsOf v 47 40 == 0xA5 then complexReset s 3 0
  else if mode s = 4 then lockedWrite s
  else
    let s := if bitOf v 33 then fwLoad s else s
    if bitOf v 34 && mode s == 3 then shutdownDo s
    else if bitOf v 0 then enableStart s
    else disableStart s

/-- A write of DEV_WEAR (R505, R511). -/
def devWear (s : State) (v : Nat) : State :=
  let s := regStore s 0x20028 v
  if bitOf v 63 then wearLoad s else s

/-- A write of DEV_LC_CMD (R508, R511). -/
def devLc (s : State) (v : Nat) : State := if bitsOf v 15 8 = 0x5C then lifeCycle s (v % 4) else s

/-- A write of MEM_KEY_CMD (R244, R258). -/
def keyCmdWrite (s : State) (v : Nat) : State :=
  match bitsOf v 7 6 with
  | 1 => keyStart s true (v % 64)
  | 2 => keyStart s false (v % 64)
  | _ => s

/-- A write of FR_STATUS (R439, R466): 1 in FIRST_VALID clears the latch; 1 in OVERFLOW alone clears that bit. -/
def frStatusWrite (s : State) (rec v : Nat) : State :=
  if bitOf v 4 then latchClear s rec else if bitOf v 5 then regSet s (frOff rec) 5 5 0 else s

/-- A write of QSU_COMP_k (R355, R358): the topology page shows the compartments, and its generation moves with them. -/
def compWrite (s : State) (off v : Nat) : State :=
  let t := regStore s off v
  if regGet t off = regGet s off then t else topoChange t

/-- A 64-bit write of a BAR0 register that has an effect of its own, or of field types alone. -/
def regWrite (s : State) (off v : Nat) : State :=
  if 0x100000 ≤ off ∧ off < 0x1F0000 ∧ (frClass (frSplit off).1).isSome then
    let r := (frSplit off).1
    match (frSplit off).2 with
    | 0 => frStatusWrite s r v
    | 0x28 => force s r v
    | 0x30 => inject s r v
    | _ => regStore s off v
  else if 0x80000 ≤ off ∧ off < 0x8C000 ∧ off % 0x800 = 0 then modeWrite s ((off - 0x80000) / 0x800) v
  else if 0x30100 ≤ off ∧ off < 0x30280 then compWrite s off v
  else if 0x50100 ≤ off ∧ off < 0x50140 then (if keysOpen s then regPut s off v else s)
  else if 0xA1000 ≤ off ∧ off < 0xA2000 then (if s.life.mbx.isSome then s else regStore s off v)
  else
    match off with
    | 0x20000 => devCtrl s v
    | 0x20028 => devWear s v
    | 0x20040 => devLc s v
    | 0x50140 => keyCmdWrite s v
    | 0x60010 => l1EnWrite s v
    | 0x60018 => l1InvalWrite s v
    | 0x60030 => probeWrite s v
    | 0xA0000 => mbxStart s v (bitsOf v 47 32) (bitsOf v 31 16)
    | 0x1F0800 => if bitOf v 32 then pinClear s else s
    | _ => regStore s off v

/-- A write of `n` bytes into an MSI-X table entry (R367, R514). -/
def msixWrite (s : State) (o n v : Nat) : State :=
  let e := msixGet s (o / 16)
  let w := leBytes 8 (e.addr % 2 ^ 64) ++ leBytes 4 e.data ++ leBytes 4 (bnat e.mask)
  let w := listPut w (o % 16) (leBytes n v)
  msixDrain { s with host := { s.host with
    msix := tabSet (fun _ => msix0) s.host.msix (o / 16) ⟨fieldAt w 0 8, fieldAt w 8 4, bitOf (fieldAt w 12 4) 0⟩ } }

/-- A write of BAR0 (R9 to R11, R513): registers at 64 bits, naturally aligned; the MSI-X table by 4 or 8 bytes. Any other
access, and one while a reset is applied (R518) or without link 0 (R360), has no effect. -/
def barWrite (s : State) (off size v : Nat) : State :=
  if !barReach s then s
  else if 2 ^ 24 ≤ off then ioWrite s off size v
  else if 0xF00000 ≤ off ∧ off < 0xF08000 then
    (if (size = 4 ∨ size = 8) ∧ off % size = 0 then msixWrite s (off - 0xF00000) size v else s)
  else if size = 8 ∧ off % 8 = 0 then regWrite s off (v % 2 ^ 64)
  else s

/-- REGISTER_WRITE: BAR0 offset, bytes, value. -/
def execRegisterWrite (off size v : Nat) (s : State) : Host.Outcome State Fault Refusal := runLive s (fun s => barWrite s off size v)

end Sys2Proof.Machine
end

