-- ==== Sys2Proof/Machine/ScalarCmds.lean ====
section
/-! DEFINITION. Scalar-slot instructions (R130 to R145): each is given to its core as the slot of opcode R131 states; its effect when the bundle issues is scEffect and the memory operations. -/

namespace Sys2Proof.Machine

/-- NOP (R131): the scalar slot of its opcode. -/
def execNop (h : Hdr) (f : BitVec 26) (s : State) : Host.Outcome State Fault Refusal :=
  withUnit 2400 h.core (runLive s (fun s => giveSlot s h .sc (slotWord 26 0 f)))

/-- ALU (R132): the scalar slot of its opcode. -/
def execAlu (h : Hdr) (f : BitVec 26) (s : State) : Host.Outcome State Fault Refusal :=
  withUnit 2400 h.core (runLive s (fun s => giveSlot s h .sc (slotWord 26 1 f)))

/-- ADDI (R131): the scalar slot of its opcode. -/
def execAddi (h : Hdr) (f : BitVec 26) (s : State) : Host.Outcome State Fault Refusal :=
  withUnit 2400 h.core (runLive s (fun s => giveSlot s h .sc (slotWord 26 2 f)))

/-- ANDI (R131): the scalar slot of its opcode. -/
def execAndi (h : Hdr) (f : BitVec 26) (s : State) : Host.Outcome State Fault Refusal :=
  withUnit 2400 h.core (runLive s (fun s => giveSlot s h .sc (slotWord 26 3 f)))

/-- ORI (R131): the scalar slot of its opcode. -/
def execOri (h : Hdr) (f : BitVec 26) (s : State) : Host.Outcome State Fault Refusal :=
  withUnit 2400 h.core (runLive s (fun s => giveSlot s h .sc (slotWord 26 4 f)))

/-- XORI (R131): the scalar slot of its opcode. -/
def execXori (h : Hdr) (f : BitVec 26) (s : State) : Host.Outcome State Fault Refusal :=
  withUnit 2400 h.core (runLive s (fun s => giveSlot s h .sc (slotWord 26 5 f)))

/-- SHLI (R131): the scalar slot of its opcode. -/
def execShli (h : Hdr) (f : BitVec 26) (s : State) : Host.Outcome State Fault Refusal :=
  withUnit 2400 h.core (runLive s (fun s => giveSlot s h .sc (slotWord 26 6 f)))

/-- SHRI (R131): the scalar slot of its opcode. -/
def execShri (h : Hdr) (f : BitVec 26) (s : State) : Host.Outcome State Fault Refusal :=
  withUnit 2400 h.core (runLive s (fun s => giveSlot s h .sc (slotWord 26 7 f)))

/-- SARI (R131): the scalar slot of its opcode. -/
def execSari (h : Hdr) (f : BitVec 26) (s : State) : Host.Outcome State Fault Refusal :=
  withUnit 2400 h.core (runLive s (fun s => giveSlot s h .sc (slotWord 26 8 f)))

/-- LI (R131): the scalar slot of its opcode. -/
def execLi (h : Hdr) (f : BitVec 26) (s : State) : Host.Outcome State Fault Refusal :=
  withUnit 2400 h.core (runLive s (fun s => giveSlot s h .sc (slotWord 26 9 f)))

/-- LIH (R131): the scalar slot of its opcode. -/
def execLih (h : Hdr) (f : BitVec 26) (s : State) : Host.Outcome State Fault Refusal :=
  withUnit 2400 h.core (runLive s (fun s => giveSlot s h .sc (slotWord 26 10 f)))

/-- PCMP (R133): the scalar slot of its opcode. -/
def execPcmp (h : Hdr) (f : BitVec 26) (s : State) : Host.Outcome State Fault Refusal :=
  withUnit 2400 h.core (runLive s (fun s => giveSlot s h .sc (slotWord 26 11 f)))

/-- PCMPI (R133): the scalar slot of its opcode. -/
def execPcmpi (h : Hdr) (f : BitVec 26) (s : State) : Host.Outcome State Fault Refusal :=
  withUnit 2400 h.core (runLive s (fun s => giveSlot s h .sc (slotWord 26 12 f)))

/-- PLOG (R133): the scalar slot of its opcode. -/
def execPlog (h : Hdr) (f : BitVec 26) (s : State) : Host.Outcome State Fault Refusal :=
  withUnit 2400 h.core (runLive s (fun s => giveSlot s h .sc (slotWord 26 13 f)))

/-- BR (R134): the scalar slot of its opcode. -/
def execBr (h : Hdr) (f : BitVec 26) (s : State) : Host.Outcome State Fault Refusal :=
  withUnit 2400 h.core (runLive s (fun s => giveSlot s h .sc (slotWord 26 14 f)))

/-- BRDEC (R134): the scalar slot of its opcode. -/
def execBrdec (h : Hdr) (f : BitVec 26) (s : State) : Host.Outcome State Fault Refusal :=
  withUnit 2400 h.core (runLive s (fun s => giveSlot s h .sc (slotWord 26 15 f)))

/-- JAL (R134): the scalar slot of its opcode. -/
def execJal (h : Hdr) (f : BitVec 26) (s : State) : Host.Outcome State Fault Refusal :=
  withUnit 2400 h.core (runLive s (fun s => giveSlot s h .sc (slotWord 26 16 f)))

/-- JR (R134): the scalar slot of its opcode. -/
def execJr (h : Hdr) (f : BitVec 26) (s : State) : Host.Outcome State Fault Refusal :=
  withUnit 2400 h.core (runLive s (fun s => giveSlot s h .sc (slotWord 26 17 f)))

/-- LDP (R136): the scalar slot of its opcode. -/
def execLdp (h : Hdr) (f : BitVec 26) (s : State) : Host.Outcome State Fault Refusal :=
  withUnit 2400 h.core (runLive s (fun s => giveSlot s h .sc (slotWord 26 18 f)))

/-- STP (R136): the scalar slot of its opcode. -/
def execStp (h : Hdr) (f : BitVec 26) (s : State) : Host.Outcome State Fault Refusal :=
  withUnit 2400 h.core (runLive s (fun s => giveSlot s h .sc (slotWord 26 19 f)))

/-- LDM (R137): the scalar slot of its opcode. -/
def execLdm (h : Hdr) (f : BitVec 26) (s : State) : Host.Outcome State Fault Refusal :=
  withUnit 2400 h.core (runLive s (fun s => giveSlot s h .sc (slotWord 26 20 f)))

/-- LDM_ACQ (R299): the scalar slot of its opcode. -/
def execLdmAcq (h : Hdr) (f : BitVec 26) (s : State) : Host.Outcome State Fault Refusal :=
  withUnit 2400 h.core (runLive s (fun s => giveSlot s h .sc (slotWord 26 21 f)))

/-- LDM_NC (R137): the scalar slot of its opcode. -/
def execLdmNc (h : Hdr) (f : BitVec 26) (s : State) : Host.Outcome State Fault Refusal :=
  withUnit 2400 h.core (runLive s (fun s => giveSlot s h .sc (slotWord 26 22 f)))

/-- STM (R301): the scalar slot of its opcode. -/
def execStm (h : Hdr) (f : BitVec 26) (s : State) : Host.Outcome State Fault Refusal :=
  withUnit 2400 h.core (runLive s (fun s => giveSlot s h .sc (slotWord 26 23 f)))

/-- STM_REL (R300): the scalar slot of its opcode. -/
def execStmRel (h : Hdr) (f : BitVec 26) (s : State) : Host.Outcome State Fault Refusal :=
  withUnit 2400 h.core (runLive s (fun s => giveSlot s h .sc (slotWord 26 24 f)))

/-- BAR (R306): the scalar slot of its opcode. -/
def execBar (h : Hdr) (f : BitVec 26) (s : State) : Host.Outcome State Fault Refusal :=
  withUnit 2400 h.core (runLive s (fun s => giveSlot s h .sc (slotWord 26 25 f)))

/-- WAITP (R139): the scalar slot of its opcode. -/
def execWaitp (h : Hdr) (f : BitVec 26) (s : State) : Host.Outcome State Fault Refusal :=
  withUnit 2400 h.core (runLive s (fun s => giveSlot s h .sc (slotWord 26 26 f)))

/-- WAITM (R140): the scalar slot of its opcode. -/
def execWaitm (h : Hdr) (f : BitVec 26) (s : State) : Host.Outcome State Fault Refusal :=
  withUnit 2400 h.core (runLive s (fun s => giveSlot s h .sc (slotWord 26 27 f)))

/-- NFLR (R144): the scalar slot of its opcode. -/
def execNflr (h : Hdr) (f : BitVec 26) (s : State) : Host.Outcome State Fault Refusal :=
  withUnit 2400 h.core (runLive s (fun s => giveSlot s h .sc (slotWord 26 28 f)))

/-- NFLC (R144): the scalar slot of its opcode. -/
def execNflc (h : Hdr) (f : BitVec 26) (s : State) : Host.Outcome State Fault Refusal :=
  withUnit 2400 h.core (runLive s (fun s => giveSlot s h .sc (slotWord 26 29 f)))

/-- SPK (R145): the scalar slot of its opcode. -/
def execSpk (h : Hdr) (f : BitVec 26) (s : State) : Host.Outcome State Fault Refusal :=
  withUnit 2400 h.core (runLive s (fun s => giveSlot s h .sc (slotWord 26 30 f)))

/-- SPC (R145): the scalar slot of its opcode. -/
def execSpc (h : Hdr) (f : BitVec 26) (s : State) : Host.Outcome State Fault Refusal :=
  withUnit 2400 h.core (runLive s (fun s => giveSlot s h .sc (slotWord 26 31 f)))

/-- SPR (R145): the scalar slot of its opcode. -/
def execSpr (h : Hdr) (f : BitVec 26) (s : State) : Host.Outcome State Fault Refusal :=
  withUnit 2400 h.core (runLive s (fun s => giveSlot s h .sc (slotWord 26 32 f)))

/-- TRAP (R131): the scalar slot of its opcode. -/
def execTrap (h : Hdr) (f : BitVec 26) (s : State) : Host.Outcome State Fault Refusal :=
  withUnit 2400 h.core (runLive s (fun s => giveSlot s h .sc (slotWord 26 62 f)))

/-- END (R143): the scalar slot of its opcode. -/
def execEnd (h : Hdr) (f : BitVec 26) (s : State) : Host.Outcome State Fault Refusal :=
  withUnit 2400 h.core (runLive s (fun s => giveSlot s h .sc (slotWord 26 63 f)))

end Sys2Proof.Machine
end

