-- ==== Sys2Proof/Machine/TensorCmds.lean ====
section
/-! DEFINITION. Tensor-slot instructions (R160 to R174): each is given to its core as the slot of opcode R161 states; it enters the tensor queue, and its effect is tEffect at its completion. -/

namespace Sys2Proof.Machine

/-- TNOP (R161): the tensor slot of its opcode. -/
def execTnop (h : Hdr) (f : BitVec 42) (s : State) : Host.Outcome State Fault Refusal :=
  withUnit 2400 h.core (runLive s (fun s => giveSlot s h .ten (slotWord 42 0 f)))

/-- WLD (R163): the tensor slot of its opcode. -/
def execWld (h : Hdr) (f : BitVec 42) (s : State) : Host.Outcome State Fault Refusal :=
  withUnit 2400 h.core (runLive s (fun s => giveSlot s h .ten (slotWord 42 1 f)))

/-- WLD_F (R163): the tensor slot of its opcode. -/
def execWldF (h : Hdr) (f : BitVec 42) (s : State) : Host.Outcome State Fault Refusal :=
  withUnit 2400 h.core (runLive s (fun s => giveSlot s h .ten (slotWord 42 2 f)))

/-- WLD_FV (R164): the tensor slot of its opcode. -/
def execWldFv (h : Hdr) (f : BitVec 42) (s : State) : Host.Outcome State Fault Refusal :=
  withUnit 2400 h.core (runLive s (fun s => giveSlot s h .ten (slotWord 42 3 f)))

/-- MMA (R166): the tensor slot of its opcode. -/
def execMma (h : Hdr) (f : BitVec 42) (s : State) : Host.Outcome State Fault Refusal :=
  withUnit 2400 h.core (runLive s (fun s => giveSlot s h .ten (slotWord 42 4 f)))

/-- MMA_F (R166): the tensor slot of its opcode. -/
def execMmaF (h : Hdr) (f : BitVec 42) (s : State) : Host.Outcome State Fault Refusal :=
  withUnit 2400 h.core (runLive s (fun s => giveSlot s h .ten (slotWord 42 5 f)))

/-- ACZ (R167): the tensor slot of its opcode. -/
def execAcz (h : Hdr) (f : BitVec 42) (s : State) : Host.Outcome State Fault Refusal :=
  withUnit 2400 h.core (runLive s (fun s => giveSlot s h .ten (slotWord 42 6 f)))

/-- DRN (R168): the tensor slot of its opcode. -/
def execDrn (h : Hdr) (f : BitVec 42) (s : State) : Host.Outcome State Fault Refusal :=
  withUnit 2400 h.core (runLive s (fun s => giveSlot s h .ten (slotWord 42 7 f)))

/-- TLZ (R170): the tensor slot of its opcode. -/
def execTlz (h : Hdr) (f : BitVec 42) (s : State) : Host.Outcome State Fault Refusal :=
  withUnit 2400 h.core (runLive s (fun s => giveSlot s h .ten (slotWord 42 8 f)))

/-- TLV (R170): the tensor slot of its opcode. -/
def execTlv (h : Hdr) (f : BitVec 42) (s : State) : Host.Outcome State Fault Refusal :=
  withUnit 2400 h.core (runLive s (fun s => giveSlot s h .ten (slotWord 42 9 f)))

/-- TLR (R170): the tensor slot of its opcode. -/
def execTlr (h : Hdr) (f : BitVec 42) (s : State) : Host.Outcome State Fault Refusal :=
  withUnit 2400 h.core (runLive s (fun s => giveSlot s h .ten (slotWord 42 10 f)))

/-- TLM (R170): the tensor slot of its opcode. -/
def execTlm (h : Hdr) (f : BitVec 42) (s : State) : Host.Outcome State Fault Refusal :=
  withUnit 2400 h.core (runLive s (fun s => giveSlot s h .ten (slotWord 42 11 f)))

/-- CHS (R171): the tensor slot of its opcode. -/
def execChs (h : Hdr) (f : BitVec 42) (s : State) : Host.Outcome State Fault Refusal :=
  withUnit 2400 h.core (runLive s (fun s => giveSlot s h .ten (slotWord 42 12 f)))

/-- CHR (R171): the tensor slot of its opcode. -/
def execChr (h : Hdr) (f : BitVec 42) (s : State) : Host.Outcome State Fault Refusal :=
  withUnit 2400 h.core (runLive s (fun s => giveSlot s h .ten (slotWord 42 13 f)))

/-- CHA (R171): the tensor slot of its opcode. -/
def execCha (h : Hdr) (f : BitVec 42) (s : State) : Host.Outcome State Fault Refusal :=
  withUnit 2400 h.core (runLive s (fun s => giveSlot s h .ten (slotWord 42 14 f)))

/-- MVI (R172): the tensor slot of its opcode. -/
def execMvi (h : Hdr) (f : BitVec 42) (s : State) : Host.Outcome State Fault Refusal :=
  withUnit 2400 h.core (runLive s (fun s => giveSlot s h .ten (slotWord 42 15 f)))

/-- SRP (R107): the tensor slot of its opcode. -/
def execSrp (h : Hdr) (f : BitVec 42) (s : State) : Host.Outcome State Fault Refusal :=
  withUnit 2400 h.core (runLive s (fun s => giveSlot s h .ten (slotWord 42 16 f)))

/-- SRR (R173): the tensor slot of its opcode. -/
def execSrr (h : Hdr) (f : BitVec 42) (s : State) : Host.Outcome State Fault Refusal :=
  withUnit 2400 h.core (runLive s (fun s => giveSlot s h .ten (slotWord 42 17 f)))

/-- SRT (R173): the tensor slot of its opcode. -/
def execSrt (h : Hdr) (f : BitVec 42) (s : State) : Host.Outcome State Fault Refusal :=
  withUnit 2400 h.core (runLive s (fun s => giveSlot s h .ten (slotWord 42 18 f)))

end Sys2Proof.Machine
end

