-- ==== Sys2Proof/Machine/VectorCmds.lean ====
section
/-! DEFINITION. Vector-slot instructions (R146 to R159): each is given to its core as the slot of opcode R150 states; its effect when the bundle issues is vEffect. -/

namespace Sys2Proof.Machine

/-- VNOP (R150): the vector slot of its opcode. -/
def execVnop (h : Hdr) (f : BitVec 42) (s : State) : Host.Outcome State Fault Refusal :=
  withUnit 2400 h.core (runLive s (fun s => giveSlot s h .vec (slotWord 42 0 f)))

/-- FADD (R150): the vector slot of its opcode. -/
def execFadd (h : Hdr) (f : BitVec 42) (s : State) : Host.Outcome State Fault Refusal :=
  withUnit 2400 h.core (runLive s (fun s => giveSlot s h .vec (slotWord 42 1 f)))

/-- FSUB (R150): the vector slot of its opcode. -/
def execFsub (h : Hdr) (f : BitVec 42) (s : State) : Host.Outcome State Fault Refusal :=
  withUnit 2400 h.core (runLive s (fun s => giveSlot s h .vec (slotWord 42 2 f)))

/-- FMUL (R150): the vector slot of its opcode. -/
def execFmul (h : Hdr) (f : BitVec 42) (s : State) : Host.Outcome State Fault Refusal :=
  withUnit 2400 h.core (runLive s (fun s => giveSlot s h .vec (slotWord 42 3 f)))

/-- FFMA (R150): the vector slot of its opcode. -/
def execFfma (h : Hdr) (f : BitVec 42) (s : State) : Host.Outcome State Fault Refusal :=
  withUnit 2400 h.core (runLive s (fun s => giveSlot s h .vec (slotWord 42 4 f)))

/-- FMIN (R65): the vector slot of its opcode. -/
def execFmin (h : Hdr) (f : BitVec 42) (s : State) : Host.Outcome State Fault Refusal :=
  withUnit 2400 h.core (runLive s (fun s => giveSlot s h .vec (slotWord 42 5 f)))

/-- FMAX (R65): the vector slot of its opcode. -/
def execFmax (h : Hdr) (f : BitVec 42) (s : State) : Host.Outcome State Fault Refusal :=
  withUnit 2400 h.core (runLive s (fun s => giveSlot s h .vec (slotWord 42 6 f)))

/-- FABS (R150): the vector slot of its opcode. -/
def execFabs (h : Hdr) (f : BitVec 42) (s : State) : Host.Outcome State Fault Refusal :=
  withUnit 2400 h.core (runLive s (fun s => giveSlot s h .vec (slotWord 42 7 f)))

/-- FNEG (R150): the vector slot of its opcode. -/
def execFneg (h : Hdr) (f : BitVec 42) (s : State) : Host.Outcome State Fault Refusal :=
  withUnit 2400 h.core (runLive s (fun s => giveSlot s h .vec (slotWord 42 8 f)))

/-- FCMP (R151): the vector slot of its opcode. -/
def execFcmp (h : Hdr) (f : BitVec 42) (s : State) : Host.Outcome State Fault Refusal :=
  withUnit 2400 h.core (runLive s (fun s => giveSlot s h .vec (slotWord 42 9 f)))

/-- SEL (R150): the vector slot of its opcode. -/
def execSel (h : Hdr) (f : BitVec 42) (s : State) : Host.Outcome State Fault Refusal :=
  withUnit 2400 h.core (runLive s (fun s => giveSlot s h .vec (slotWord 42 10 f)))

/-- EXP2 (R66): the vector slot of its opcode. -/
def execExp2 (h : Hdr) (f : BitVec 42) (s : State) : Host.Outcome State Fault Refusal :=
  withUnit 2400 h.core (runLive s (fun s => giveSlot s h .vec (slotWord 42 11 f)))

/-- LOG2 (R66): the vector slot of its opcode. -/
def execLog2 (h : Hdr) (f : BitVec 42) (s : State) : Host.Outcome State Fault Refusal :=
  withUnit 2400 h.core (runLive s (fun s => giveSlot s h .vec (slotWord 42 12 f)))

/-- RCP (R66): the vector slot of its opcode. -/
def execRcp (h : Hdr) (f : BitVec 42) (s : State) : Host.Outcome State Fault Refusal :=
  withUnit 2400 h.core (runLive s (fun s => giveSlot s h .vec (slotWord 42 13 f)))

/-- RSQRT (R66): the vector slot of its opcode. -/
def execRsqrt (h : Hdr) (f : BitVec 42) (s : State) : Host.Outcome State Fault Refusal :=
  withUnit 2400 h.core (runLive s (fun s => giveSlot s h .vec (slotWord 42 14 f)))

/-- TANH (R66): the vector slot of its opcode. -/
def execTanh (h : Hdr) (f : BitVec 42) (s : State) : Host.Outcome State Fault Refusal :=
  withUnit 2400 h.core (runLive s (fun s => giveSlot s h .vec (slotWord 42 15 f)))

/-- CVT_OUT (R153): the vector slot of its opcode. -/
def execCvtOut (h : Hdr) (f : BitVec 42) (s : State) : Host.Outcome State Fault Refusal :=
  withUnit 2400 h.core (runLive s (fun s => giveSlot s h .vec (slotWord 42 16 f)))

/-- CVT_IN (R154): the vector slot of its opcode. -/
def execCvtIn (h : Hdr) (f : BitVec 42) (s : State) : Host.Outcome State Fault Refusal :=
  withUnit 2400 h.core (runLive s (fun s => giveSlot s h .vec (slotWord 42 17 f)))

/-- FTOI (R155): the vector slot of its opcode. -/
def execFtoi (h : Hdr) (f : BitVec 42) (s : State) : Host.Outcome State Fault Refusal :=
  withUnit 2400 h.core (runLive s (fun s => giveSlot s h .vec (slotWord 42 18 f)))

/-- ITOF (R150): the vector slot of its opcode. -/
def execItof (h : Hdr) (f : BitVec 42) (s : State) : Host.Outcome State Fault Refusal :=
  withUnit 2400 h.core (runLive s (fun s => giveSlot s h .vec (slotWord 42 19 f)))

/-- IADD (R150): the vector slot of its opcode. -/
def execIadd (h : Hdr) (f : BitVec 42) (s : State) : Host.Outcome State Fault Refusal :=
  withUnit 2400 h.core (runLive s (fun s => giveSlot s h .vec (slotWord 42 20 f)))

/-- ISUB (R150): the vector slot of its opcode. -/
def execIsub (h : Hdr) (f : BitVec 42) (s : State) : Host.Outcome State Fault Refusal :=
  withUnit 2400 h.core (runLive s (fun s => giveSlot s h .vec (slotWord 42 21 f)))

/-- IMUL (R150): the vector slot of its opcode. -/
def execImul (h : Hdr) (f : BitVec 42) (s : State) : Host.Outcome State Fault Refusal :=
  withUnit 2400 h.core (runLive s (fun s => giveSlot s h .vec (slotWord 42 22 f)))

/-- IAND (R150): the vector slot of its opcode. -/
def execIand (h : Hdr) (f : BitVec 42) (s : State) : Host.Outcome State Fault Refusal :=
  withUnit 2400 h.core (runLive s (fun s => giveSlot s h .vec (slotWord 42 23 f)))

/-- IOR (R150): the vector slot of its opcode. -/
def execIor (h : Hdr) (f : BitVec 42) (s : State) : Host.Outcome State Fault Refusal :=
  withUnit 2400 h.core (runLive s (fun s => giveSlot s h .vec (slotWord 42 24 f)))

/-- IXOR (R150): the vector slot of its opcode. -/
def execIxor (h : Hdr) (f : BitVec 42) (s : State) : Host.Outcome State Fault Refusal :=
  withUnit 2400 h.core (runLive s (fun s => giveSlot s h .vec (slotWord 42 25 f)))

/-- ISHL (R150): the vector slot of its opcode. -/
def execIshl (h : Hdr) (f : BitVec 42) (s : State) : Host.Outcome State Fault Refusal :=
  withUnit 2400 h.core (runLive s (fun s => giveSlot s h .vec (slotWord 42 26 f)))

/-- ISHR (R150): the vector slot of its opcode. -/
def execIshr (h : Hdr) (f : BitVec 42) (s : State) : Host.Outcome State Fault Refusal :=
  withUnit 2400 h.core (runLive s (fun s => giveSlot s h .vec (slotWord 42 27 f)))

/-- ISAR (R150): the vector slot of its opcode. -/
def execIsar (h : Hdr) (f : BitVec 42) (s : State) : Host.Outcome State Fault Refusal :=
  withUnit 2400 h.core (runLive s (fun s => giveSlot s h .vec (slotWord 42 28 f)))

/-- ICMP (R150): the vector slot of its opcode. -/
def execIcmp (h : Hdr) (f : BitVec 42) (s : State) : Host.Outcome State Fault Refusal :=
  withUnit 2400 h.core (runLive s (fun s => giveSlot s h .vec (slotWord 42 29 f)))

/-- PERM (R150): the vector slot of its opcode. -/
def execPerm (h : Hdr) (f : BitVec 42) (s : State) : Host.Outcome State Fault Refusal :=
  withUnit 2400 h.core (runLive s (fun s => giveSlot s h .vec (slotWord 42 30 f)))

/-- VRED (R152): the vector slot of its opcode. -/
def execVred (h : Hdr) (f : BitVec 42) (s : State) : Host.Outcome State Fault Refusal :=
  withUnit 2400 h.core (runLive s (fun s => giveSlot s h .vec (slotWord 42 31 f)))

/-- BCST (R150): the vector slot of its opcode. -/
def execBcst (h : Hdr) (f : BitVec 42) (s : State) : Host.Outcome State Fault Refusal :=
  withUnit 2400 h.core (runLive s (fun s => giveSlot s h .vec (slotWord 42 32 f)))

/-- VEXT (R150): the vector slot of its opcode. -/
def execVext (h : Hdr) (f : BitVec 42) (s : State) : Host.Outcome State Fault Refusal :=
  withUnit 2400 h.core (runLive s (fun s => giveSlot s h .vec (slotWord 42 33 f)))

/-- GATH (R156): the vector slot of its opcode. -/
def execGath (h : Hdr) (f : BitVec 42) (s : State) : Host.Outcome State Fault Refusal :=
  withUnit 2400 h.core (runLive s (fun s => giveSlot s h .vec (slotWord 42 34 f)))

/-- SCAT (R156): the vector slot of its opcode. -/
def execScat (h : Hdr) (f : BitVec 42) (s : State) : Host.Outcome State Fault Refusal :=
  withUnit 2400 h.core (runLive s (fun s => giveSlot s h .vec (slotWord 42 35 f)))

/-- TWIN (R158): the vector slot of its opcode. -/
def execTwin (h : Hdr) (f : BitVec 42) (s : State) : Host.Outcome State Fault Refusal :=
  withUnit 2400 h.core (runLive s (fun s => giveSlot s h .vec (slotWord 42 36 f)))

/-- TWOUT (R158): the vector slot of its opcode. -/
def execTwout (h : Hdr) (f : BitVec 42) (s : State) : Host.Outcome State Fault Refusal :=
  withUnit 2400 h.core (runLive s (fun s => giveSlot s h .vec (slotWord 42 37 f)))

/-- TWADD (R158): the vector slot of its opcode. -/
def execTwadd (h : Hdr) (f : BitVec 42) (s : State) : Host.Outcome State Fault Refusal :=
  withUnit 2400 h.core (runLive s (fun s => giveSlot s h .vec (slotWord 42 38 f)))

/-- SPD (R159): the vector slot of its opcode. -/
def execSpd (h : Hdr) (f : BitVec 42) (s : State) : Host.Outcome State Fault Refusal :=
  withUnit 2400 h.core (runLive s (fun s => giveSlot s h .vec (slotWord 42 39 f)))

end Sys2Proof.Machine
end

