-- ==== Sys2Proof/Machine/Dispatch.lean ====
section
/-! DEFINITION. One arm per command of the opcode table. -/

namespace Sys2Proof.Machine

/-- The effect of a command on everything but the queue. -/
def exec (i : Instr) (s : State) : Host.Outcome State Fault Refusal :=
  match i with
  | .nop h f => Sys2Proof.Machine.execNop h f s
  | .alu h f => Sys2Proof.Machine.execAlu h f s
  | .addi h f => Sys2Proof.Machine.execAddi h f s
  | .andi h f => Sys2Proof.Machine.execAndi h f s
  | .ori h f => Sys2Proof.Machine.execOri h f s
  | .xori h f => Sys2Proof.Machine.execXori h f s
  | .shli h f => Sys2Proof.Machine.execShli h f s
  | .shri h f => Sys2Proof.Machine.execShri h f s
  | .sari h f => Sys2Proof.Machine.execSari h f s
  | .li h f => Sys2Proof.Machine.execLi h f s
  | .lih h f => Sys2Proof.Machine.execLih h f s
  | .pcmp h f => Sys2Proof.Machine.execPcmp h f s
  | .pcmpi h f => Sys2Proof.Machine.execPcmpi h f s
  | .plog h f => Sys2Proof.Machine.execPlog h f s
  | .br h f => Sys2Proof.Machine.execBr h f s
  | .brdec h f => Sys2Proof.Machine.execBrdec h f s
  | .jal h f => Sys2Proof.Machine.execJal h f s
  | .jr h f => Sys2Proof.Machine.execJr h f s
  | .ldp h f => Sys2Proof.Machine.execLdp h f s
  | .stp h f => Sys2Proof.Machine.execStp h f s
  | .ldm h f => Sys2Proof.Machine.execLdm h f s
  | .ldmAcq h f => Sys2Proof.Machine.execLdmAcq h f s
  | .ldmNc h f => Sys2Proof.Machine.execLdmNc h f s
  | .stm h f => Sys2Proof.Machine.execStm h f s
  | .stmRel h f => Sys2Proof.Machine.execStmRel h f s
  | .bar h f => Sys2Proof.Machine.execBar h f s
  | .waitp h f => Sys2Proof.Machine.execWaitp h f s
  | .waitm h f => Sys2Proof.Machine.execWaitm h f s
  | .nflr h f => Sys2Proof.Machine.execNflr h f s
  | .nflc h f => Sys2Proof.Machine.execNflc h f s
  | .spk h f => Sys2Proof.Machine.execSpk h f s
  | .spc h f => Sys2Proof.Machine.execSpc h f s
  | .spr h f => Sys2Proof.Machine.execSpr h f s
  | .trap h f => Sys2Proof.Machine.execTrap h f s
  | .endK h f => Sys2Proof.Machine.execEnd h f s
  | .vnop h f => Sys2Proof.Machine.execVnop h f s
  | .fadd h f => Sys2Proof.Machine.execFadd h f s
  | .fsub h f => Sys2Proof.Machine.execFsub h f s
  | .fmul h f => Sys2Proof.Machine.execFmul h f s
  | .ffma h f => Sys2Proof.Machine.execFfma h f s
  | .fmin h f => Sys2Proof.Machine.execFmin h f s
  | .fmax h f => Sys2Proof.Machine.execFmax h f s
  | .fabs h f => Sys2Proof.Machine.execFabs h f s
  | .fneg h f => Sys2Proof.Machine.execFneg h f s
  | .fcmp h f => Sys2Proof.Machine.execFcmp h f s
  | .sel h f => Sys2Proof.Machine.execSel h f s
  | .exp2 h f => Sys2Proof.Machine.execExp2 h f s
  | .log2 h f => Sys2Proof.Machine.execLog2 h f s
  | .rcp h f => Sys2Proof.Machine.execRcp h f s
  | .rsqrt h f => Sys2Proof.Machine.execRsqrt h f s
  | .tanh h f => Sys2Proof.Machine.execTanh h f s
  | .cvtOut h f => Sys2Proof.Machine.execCvtOut h f s
  | .cvtIn h f => Sys2Proof.Machine.execCvtIn h f s
  | .ftoi h f => Sys2Proof.Machine.execFtoi h f s
  | .itof h f => Sys2Proof.Machine.execItof h f s
  | .iadd h f => Sys2Proof.Machine.execIadd h f s
  | .isub h f => Sys2Proof.Machine.execIsub h f s
  | .imul h f => Sys2Proof.Machine.execImul h f s
  | .iand h f => Sys2Proof.Machine.execIand h f s
  | .ior h f => Sys2Proof.Machine.execIor h f s
  | .ixor h f => Sys2Proof.Machine.execIxor h f s
  | .ishl h f => Sys2Proof.Machine.execIshl h f s
  | .ishr h f => Sys2Proof.Machine.execIshr h f s
  | .isar h f => Sys2Proof.Machine.execIsar h f s
  | .icmp h f => Sys2Proof.Machine.execIcmp h f s
  | .perm h f => Sys2Proof.Machine.execPerm h f s
  | .vred h f => Sys2Proof.Machine.execVred h f s
  | .bcst h f => Sys2Proof.Machine.execBcst h f s
  | .vext h f => Sys2Proof.Machine.execVext h f s
  | .gath h f => Sys2Proof.Machine.execGath h f s
  | .scat h f => Sys2Proof.Machine.execScat h f s
  | .twin h f => Sys2Proof.Machine.execTwin h f s
  | .twout h f => Sys2Proof.Machine.execTwout h f s
  | .twadd h f => Sys2Proof.Machine.execTwadd h f s
  | .spd h f => Sys2Proof.Machine.execSpd h f s
  | .tnop h f => Sys2Proof.Machine.execTnop h f s
  | .wld h f => Sys2Proof.Machine.execWld h f s
  | .wldF h f => Sys2Proof.Machine.execWldF h f s
  | .wldFv h f => Sys2Proof.Machine.execWldFv h f s
  | .mma h f => Sys2Proof.Machine.execMma h f s
  | .mmaF h f => Sys2Proof.Machine.execMmaF h f s
  | .acz h f => Sys2Proof.Machine.execAcz h f s
  | .drn h f => Sys2Proof.Machine.execDrn h f s
  | .tlz h f => Sys2Proof.Machine.execTlz h f s
  | .tlv h f => Sys2Proof.Machine.execTlv h f s
  | .tlr h f => Sys2Proof.Machine.execTlr h f s
  | .tlm h f => Sys2Proof.Machine.execTlm h f s
  | .chs h f => Sys2Proof.Machine.execChs h f s
  | .chr h f => Sys2Proof.Machine.execChr h f s
  | .cha h f => Sys2Proof.Machine.execCha h f s
  | .mvi h f => Sys2Proof.Machine.execMvi h f s
  | .srp h f => Sys2Proof.Machine.execSrp h f s
  | .srr h f => Sys2Proof.Machine.execSrr h f s
  | .srt h f => Sys2Proof.Machine.execSrt h f s
  | .tensorComplete core unit => Sys2Proof.Machine.execTensorComplete core unit s
  | .exceptionReport core => Sys2Proof.Machine.execExceptionReport core s
  | .loadDataReturn core tag => Sys2Proof.Machine.execLoadDataReturn core tag s
  | .sbEntryTimeout core ent => Sys2Proof.Machine.execSbEntryTimeout core ent s
  | .storePerformed core ent => Sys2Proof.Machine.execStorePerformed core ent s
  | .waitpReread core => Sys2Proof.Machine.execWaitpReread core s
  | .waitmReread core => Sys2Proof.Machine.execWaitmReread core s
  | .coreClockGate core => Sys2Proof.Machine.execCoreClockGate core s
  | .hintWrite core addr data => Sys2Proof.Machine.execHintWrite core addr data s
  | .chainWordArrival core slot => Sys2Proof.Machine.execChainWordArrival core slot s
  | .chainCellCloseTimeout core slot => Sys2Proof.Machine.execChainCellCloseTimeout core slot s
  | .nopCmd q => Sys2Proof.Machine.execNopCmd q s
  | .moveCmd q => Sys2Proof.Machine.execMove q s
  | .launchCmd q => Sys2Proof.Machine.execLaunch q s
  | .launchImageLoaded q => Sys2Proof.Machine.execLaunchImageLoaded q s
  | .launchComplete q => Sys2Proof.Machine.execLaunchComplete q s
  | .signalCmd q => Sys2Proof.Machine.execSignal q s
  | .waitCmd q => Sys2Proof.Machine.execWait q s
  | .fencePoll q => Sys2Proof.Machine.execFencePoll q s
  | .clearCmd q => Sys2Proof.Machine.execClear q s
  | .clearingStepDone q => Sys2Proof.Machine.execClearingStepDone q s
  | .proofCmd q => Sys2Proof.Machine.execProof q s
  | .proofCaptureDone => Sys2Proof.Machine.execProofCaptureDone s
  | .proofPageCopy page => Sys2Proof.Machine.execProofPageCopy page s
  | .restoreCmd q => Sys2Proof.Machine.execRestore q s
  | .resliceCmd q => Sys2Proof.Machine.execReslice q s
  | .xltSync q => Sys2Proof.Machine.execXltSync q s
  | .xltInval q => Sys2Proof.Machine.execXltInval q s
  | .xltInvalDrainDone => Sys2Proof.Machine.execXltInvalDrainDone s
  | .biasSet q => Sys2Proof.Machine.execBiasSet q s
  | .biasWritebackDone q => Sys2Proof.Machine.execBiasWritebackDone q s
  | .windowMove q => Sys2Proof.Machine.execWindowMove q s
  | .queueWake q => Sys2Proof.Machine.execQueueWake q s
  | .descReread q => Sys2Proof.Machine.execDescReread q s
  | .fallbackPoll => Sys2Proof.Machine.execFallbackPoll s
  | .moverAccept m => Sys2Proof.Machine.execMoverAccept m s
  | .tileCheck m => Sys2Proof.Machine.execTileCheck m s
  | .tableWalkDone root va => Sys2Proof.Machine.execTableWalkDone root va s
  | .moverTransactionDone m txn => Sys2Proof.Machine.execMoverTransactionDone m txn s
  | .streamComplete m => Sys2Proof.Machine.execStreamComplete m s
  | .faultRecordWrite => Sys2Proof.Machine.execFaultRecordWrite s
  | .fqHeadUpdate => Sys2Proof.Machine.execFqHeadUpdate s
  | .scrubPatrol line found => Sys2Proof.Machine.execScrubPatrol line found s
  | .keyLoad slot => Sys2Proof.Machine.execKeyLoad slot s
  | .keyErase slot => Sys2Proof.Machine.execKeyErase slot s
  | .keyCmdDone => Sys2Proof.Machine.execKeyCmdDone s
  | .wipePlatesCaches => Sys2Proof.Machine.execWipePlatesCaches s
  | .underCryptoErase => Sys2Proof.Machine.execUnderCryptoErase s
  | .canopyWipeDone => Sys2Proof.Machine.execCanopyWipeDone s
  | .underOverwritePage => Sys2Proof.Machine.execUnderOverwritePage s
  | .cohL1InvalWrite v => Sys2Proof.Machine.execCohL1InvalWrite v s
  | .l1InvalDone => Sys2Proof.Machine.execL1InvalDone s
  | .cohL1EnWrite v => Sys2Proof.Machine.execCohL1EnWrite v s
  | .cohProbeAddrWrite v => Sys2Proof.Machine.execCohProbeAddrWrite v s
  | .probeLookupDone => Sys2Proof.Machine.execProbeLookupDone s
  | .rdS slice line => Sys2Proof.Machine.execRdS slice line s
  | .rdM slice line => Sys2Proof.Machine.execRdM slice line s
  | .upg slice line => Sys2Proof.Machine.execUpg slice line s
  | .own slice line => Sys2Proof.Machine.execOwn slice line s
  | .rdCur line sel => Sys2Proof.Machine.execRdCur line sel s
  | .wrInv line sel mask data => Sys2Proof.Machine.execWrInv line sel mask data s
  | .wrHint line sel mask slice data => Sys2Proof.Machine.execWrHint line sel mask slice data s
  | .snpS slice line => Sys2Proof.Machine.execSnpS slice line s
  | .snpI slice line => Sys2Proof.Machine.execSnpI slice line s
  | .snpCur slice line => Sys2Proof.Machine.execSnpCur slice line s
  | .ackI slice line => Sys2Proof.Machine.execAckI slice line s
  | .ackS slice line => Sys2Proof.Machine.execAckS slice line s
  | .ackFwd slice line => Sys2Proof.Machine.execAckFwd slice line s
  | .nack slice line => Sys2Proof.Machine.execNack slice line s
  | .nackRetry slice line => Sys2Proof.Machine.execNackRetry slice line s
  | .reservationLapse slice line => Sys2Proof.Machine.execReservationLapse slice line s
  | .gnt slice line => Sys2Proof.Machine.execGnt slice line s
  | .cmp slice line => Sys2Proof.Machine.execCmp slice line s
  | .evaAck slice line => Sys2Proof.Machine.execEvaAck slice line s
  | .dataMsg dst line => Sys2Proof.Machine.execData dst line s
  | .evaClean slice line => Sys2Proof.Machine.execEvaClean slice line s
  | .evaDirty slice line => Sys2Proof.Machine.execEvaDirty slice line s
  | .watchWake line => Sys2Proof.Machine.execWatchWake line s
  | .hostSnpData line => Sys2Proof.Machine.execHostSnpData line s
  | .hostSnpInv line data => Sys2Proof.Machine.execHostSnpInv line data s
  | .hostSnpCur line => Sys2Proof.Machine.execHostSnpCur line s
  | .hostCacheResponse line st => Sys2Proof.Machine.execHostCacheResponse line st s
  | .birsp line => Sys2Proof.Machine.execBirsp line s
  | .memRd link dpa => Sys2Proof.Machine.execMemRd link dpa s
  | .memWr link dpa mask poison data => Sys2Proof.Machine.execMemWr link dpa mask poison data s
  | .memInv link dpa => Sys2Proof.Machine.execMemInv link dpa s
  | .flushWordRead q => Sys2Proof.Machine.execFlushWordRead q s
  | .readAheadExpiry off => Sys2Proof.Machine.execReadAheadExpiry off s
  | .hdmCommit fn set => Sys2Proof.Machine.execHdmCommit fn set s
  | .msixUnmask vec mask en fmask => Sys2Proof.Machine.execMsixUnmask vec mask en fmask s
  | .ideKeyProgram p => Sys2Proof.Machine.execIdeKeyProgram p s
  | .linkTrained link width rate m => Sys2Proof.Machine.execLinkTrained link width rate m s
  | .dlDown link => Sys2Proof.Machine.execDlDown link s
  | .recoveryTimeout link => Sys2Proof.Machine.execRecoveryTimeout link s
  | .viral link => Sys2Proof.Machine.execViral link s
  | .linkRecoveryReturn link replays => Sys2Proof.Machine.execLinkRecoveryReturn link replays s
  | .linkLostTimeout => Sys2Proof.Machine.execLinkLostTimeout s
  | .linkUpAfterLoss link width rate m => Sys2Proof.Machine.execLinkUpAfterLoss link width rate m s
  | .l0pNarrow link => Sys2Proof.Machine.execL0pNarrow link s
  | .l0pWiden link => Sys2Proof.Machine.execL0pWiden link s
  | .aspmL1Entry link => Sys2Proof.Machine.execAspmL1Entry link s
  | .aspmL1Exit link => Sys2Proof.Machine.execAspmL1Exit link s
  | .rideModeWrite port v => Sys2Proof.Machine.execRideModeWrite port v s
  | .portTrained port => Sys2Proof.Machine.execPortTrained port s
  | .ident port serial nport mode => Sys2Proof.Machine.execIdent port serial nport mode s
  | .idleCell port hdr => Sys2Proof.Machine.execIdleCell port hdr s
  | .chainCell port hdr data => Sys2Proof.Machine.execChainCell port hdr data s
  | .tileCell port hdr data => Sys2Proof.Machine.execTileCell port hdr data s
  | .tileAck port hdr data => Sys2Proof.Machine.execTileAck port hdr data s
  | .fenceCell port hdr data => Sys2Proof.Machine.execFenceCell port hdr data s
  | .fenceAck port hdr data => Sys2Proof.Machine.execFenceAck port hdr data s
  | .winRd port hdr data => Sys2Proof.Machine.execWinRd port hdr data s
  | .winWr port hdr data => Sys2Proof.Machine.execWinWr port hdr data s
  | .winRsp port hdr data => Sys2Proof.Machine.execWinRsp port hdr data s
  | .cellReplayTimeout port => Sys2Proof.Machine.execCellReplayTimeout port s
  | .laneLockLost port => Sys2Proof.Machine.execLaneLockLost port s
  | .portRetrain port => Sys2Proof.Machine.execPortRetrain port s
  | .rdmaWrite port rkey va data => Sys2Proof.Machine.execRdmaWrite port rkey va data s
  | .rdmaRead port rkey va len => Sys2Proof.Machine.execRdmaRead port rkey va len s
  | .rdmaResponse ok data => Sys2Proof.Machine.execRdmaResponse ok data s
  | .ecnMarkedPacket port qp gap => Sys2Proof.Machine.execEcnMarkedPacket port qp gap s
  | .cnp port qp => Sys2Proof.Machine.execCnp port qp s
  | .proofBegin port hdr data => Sys2Proof.Machine.execProofBegin port hdr data s
  | .proofData port hdr data => Sys2Proof.Machine.execProofData port hdr data s
  | .proofCommit port hdr data => Sys2Proof.Machine.execProofCommit port hdr data s
  | .proofAck port hdr data => Sys2Proof.Machine.execProofAck port hdr data s
  | .readReq port hdr data => Sys2Proof.Machine.execReadReq port hdr data s
  | .readData port hdr data => Sys2Proof.Machine.execReadData port hdr data s
  | .proofAbort port hdr data => Sys2Proof.Machine.execProofAbort port hdr data s
  | .heartbeat port hdr data => Sys2Proof.Machine.execHeartbeat port hdr data s
  | .heartbeatSend => Sys2Proof.Machine.execHeartbeatSend s
  | .pairLost => Sys2Proof.Machine.execPairLost s
  | .pairSenseLow => Sys2Proof.Machine.execPairSenseLow s
  | .cappingInterval volt curr cnt => Sys2Proof.Machine.execCappingInterval volt curr cnt s
  | .vfStepSettled dom => Sys2Proof.Machine.execVfStepSettled dom s
  | .kUpdate => Sys2Proof.Machine.execKUpdate s
  | .estDiverge => Sys2Proof.Machine.execEstDiverge s
  | .measImplausible cause => Sys2Proof.Machine.execMeasImplausible cause s
  | .capUnreachable => Sys2Proof.Machine.execCapUnreachable s
  | .capReached => Sys2Proof.Machine.execCapReached s
  | .sagEnd low dur => Sys2Proof.Machine.execSagEnd low dur s
  | .rippleWindow pp => Sys2Proof.Machine.execRippleWindow pp s
  | .feedLoss => Sys2Proof.Machine.execFeedLoss s
  | .feedLossWritesSent => Sys2Proof.Machine.execFeedLossWritesSent s
  | .pwrGoodLow => Sys2Proof.Machine.execPwrGoodLow s
  | .throttleInAssert gap => Sys2Proof.Machine.execThrottleInAssert gap s
  | .throttleInDeassert => Sys2Proof.Machine.execThrottleInDeassert s
  | .feedAlertAssert gap => Sys2Proof.Machine.execFeedAlertAssert gap s
  | .feedAlertDeassert => Sys2Proof.Machine.execFeedAlertDeassert s
  | .pinStuck pin => Sys2Proof.Machine.execPinStuck pin s
  | .pinChatterEnd pin => Sys2Proof.Machine.execPinChatterEnd pin s
  | .pldmGrant grant => Sys2Proof.Machine.execPldmGrant grant s
  | .sensorRefresh => Sys2Proof.Machine.execSensorRefresh s
  | .pwrCapWrite v => Sys2Proof.Machine.execPwrCapWrite v s
  | .thermalCheck temps => Sys2Proof.Machine.execThermalCheck temps s
  | .errorDetected record src synd addr => Sys2Proof.Machine.execErrorDetected record src synd addr s
  | .blockResetEnd record => Sys2Proof.Machine.execBlockResetEnd record s
  | .quietPeriodExpiry record => Sys2Proof.Machine.execQuietPeriodExpiry record s
  | .frForce record v => Sys2Proof.Machine.execFrForce record v s
  | .frInjectArm record v => Sys2Proof.Machine.execFrInjectArm record v s
  | .frStatusClear record => Sys2Proof.Machine.execFrStatusClear record s
  | .fltPinClear => Sys2Proof.Machine.execFltPinClear s
  | .delayMonitor record v rings => Sys2Proof.Machine.execDelayMonitor record v rings s
  | .wearFit days core d0 d1 d2 d3 => Sys2Proof.Machine.execWearFit days core d0 d1 d2 d3 s
  | .lookoutUpdate ces sags => Sys2Proof.Machine.execLookoutUpdate ces sags s
  | .rangerLoadCheck load => Sys2Proof.Machine.execRangerLoadCheck load s
  | .watchdog => Sys2Proof.Machine.execWatchdog s
  | .powerOn => Sys2Proof.Machine.execPowerOn s
  | .resetPin => Sys2Proof.Machine.execResetPin s
  | .softwareReset => Sys2Proof.Machine.execSoftwareReset s
  | .resetRelease strap => Sys2Proof.Machine.execResetRelease strap s
  | .rampComplete => Sys2Proof.Machine.execRampComplete s
  | .fuseCheckDone => Sys2Proof.Machine.execFuseCheckDone s
  | .selfTestDone failed => Sys2Proof.Machine.execSelfTestDone failed s
  | .configReady => Sys2Proof.Machine.execConfigReady s
  | .fwLoad => Sys2Proof.Machine.execFwLoad s
  | .firmwareVerified => Sys2Proof.Machine.execFirmwareVerified s
  | .wearLoad => Sys2Proof.Machine.execWearLoad s
  | .enableCmd => Sys2Proof.Machine.execEnable s
  | .enableCheckDone => Sys2Proof.Machine.execEnableCheckDone s
  | .disableCmd => Sys2Proof.Machine.execDisable s
  | .shutdown => Sys2Proof.Machine.execShutdown s
  | .disableEnd => Sys2Proof.Machine.execDisableEnd s
  | .deploy => Sys2Proof.Machine.execDeploy s
  | .decommission => Sys2Proof.Machine.execDecommission s
  | .readFaultLog tag len => Sys2Proof.Machine.execReadFaultLog tag len s
  | .readDisturbanceLog tag len => Sys2Proof.Machine.execReadDisturbanceLog tag len s
  | .mbxRequestDone => Sys2Proof.Machine.execMbxRequestDone s
  | .rcRead a => Sys2Proof.Machine.execRcRead a s
  | .registerWrite off size v => Sys2Proof.Machine.execRegisterWrite off size v s
  | .powerLoss => Sys2Proof.Machine.execPowerLoss s
  | .zeroLengthReadCompletion link => Sys2Proof.Machine.execZeroLengthReadCompletion link s
  | .recoveryEntry link => Sys2Proof.Machine.execRecoveryEntry link s
  | .blockLockLoss port lanes => Sys2Proof.Machine.execBlockLockLoss port lanes s
  | .badCell port kind => Sys2Proof.Machine.execBadCell port kind s
  | .rdmaRetryTimeout => Sys2Proof.Machine.execRdmaRetryTimeout s
  | .overwriteBroughtForward page => Sys2Proof.Machine.execOverwriteBroughtForward page s

end Sys2Proof.Machine
end

