-- ==== Sys2Proof/WellFormed.lean ====
section
/-! DEFINITION. Which commands can reach the complex: every operand within the range its rule gives it. -/

namespace Sys2Proof

/-- One of 2,400 cores (R16). -/
def coreOk (c : Nat) : Bool := decide (c < 2400)
/-- One of 1,024 queues (R318). -/
def queueOk (q : Nat) : Bool := decide (q < 1024)
/-- One of 192 movers (R16). -/
def moverOk (m : Nat) : Bool := decide (m < 192)
/-- One of 48 L2 slices (R269). -/
def sliceOk (s : Nat) : Bool := decide (s < 48)
/-- A requester of lines: a slice, or the number the model gives another agent (R287, R288, log 65). -/
def agentOk (s : Nat) : Bool := decide (s < 700)
/-- One of 24 ride ports (R16). -/
def portOk (p : Nat) : Bool := decide (p < 24)
/-- One of 4 links, or the function or decoder of one (R359). -/
def linkOk (l : Nat) : Bool := decide (l < 4)
/-- One of 256 translation roots (R211). -/
def rootOk (r : Nat) : Bool := decide (r < 256)
/-- One of 5 power domains: four stands, and memory and fabric (R20). -/
def domOk (d : Nat) : Bool := decide (d < 5)
/-- A fault-record index (R437). -/
def recordOk (r : Nat) : Bool := decide (r < 0xA96)
/-- A line number PA[45:6] (R208). -/
def lineOk (l : Nat) : Bool := decide (l < 2 ^ 40)
/-- A key selector (R242). -/
def selOk (k : Nat) : Bool := decide (k < 64)
/-- A byte mask of a line (R240). -/
def maskOk (m : Nat) : Bool := decide (m < 2 ^ 64)
/-- A register value (R511). -/
def wordOk (v : Nat) : Bool := decide (v < 2 ^ 64)
/-- The bytes of a line (R239). -/
def lineData (d : List Byte) : Bool := decide (d.length = 64)

/-- Whether a command's operands are within their ranges. -/
def wellFormed (i : Instr) : Bool :=
  match i with
  | .nop h _ => coreOk h.core
  | .alu h _ => coreOk h.core
  | .addi h _ => coreOk h.core
  | .andi h _ => coreOk h.core
  | .ori h _ => coreOk h.core
  | .xori h _ => coreOk h.core
  | .shli h _ => coreOk h.core
  | .shri h _ => coreOk h.core
  | .sari h _ => coreOk h.core
  | .li h _ => coreOk h.core
  | .lih h _ => coreOk h.core
  | .pcmp h _ => coreOk h.core
  | .pcmpi h _ => coreOk h.core
  | .plog h _ => coreOk h.core
  | .br h _ => coreOk h.core
  | .brdec h _ => coreOk h.core
  | .jal h _ => coreOk h.core
  | .jr h _ => coreOk h.core
  | .ldp h _ => coreOk h.core
  | .stp h _ => coreOk h.core
  | .ldm h _ => coreOk h.core
  | .ldmAcq h _ => coreOk h.core
  | .ldmNc h _ => coreOk h.core
  | .stm h _ => coreOk h.core
  | .stmRel h _ => coreOk h.core
  | .bar h _ => coreOk h.core
  | .waitp h _ => coreOk h.core
  | .waitm h _ => coreOk h.core
  | .nflr h _ => coreOk h.core
  | .nflc h _ => coreOk h.core
  | .spk h _ => coreOk h.core
  | .spc h _ => coreOk h.core
  | .spr h _ => coreOk h.core
  | .trap h _ => coreOk h.core
  | .endK h _ => coreOk h.core
  | .vnop h _ => coreOk h.core
  | .fadd h _ => coreOk h.core
  | .fsub h _ => coreOk h.core
  | .fmul h _ => coreOk h.core
  | .ffma h _ => coreOk h.core
  | .fmin h _ => coreOk h.core
  | .fmax h _ => coreOk h.core
  | .fabs h _ => coreOk h.core
  | .fneg h _ => coreOk h.core
  | .fcmp h _ => coreOk h.core
  | .sel h _ => coreOk h.core
  | .exp2 h _ => coreOk h.core
  | .log2 h _ => coreOk h.core
  | .rcp h _ => coreOk h.core
  | .rsqrt h _ => coreOk h.core
  | .tanh h _ => coreOk h.core
  | .cvtOut h _ => coreOk h.core
  | .cvtIn h _ => coreOk h.core
  | .ftoi h _ => coreOk h.core
  | .itof h _ => coreOk h.core
  | .iadd h _ => coreOk h.core
  | .isub h _ => coreOk h.core
  | .imul h _ => coreOk h.core
  | .iand h _ => coreOk h.core
  | .ior h _ => coreOk h.core
  | .ixor h _ => coreOk h.core
  | .ishl h _ => coreOk h.core
  | .ishr h _ => coreOk h.core
  | .isar h _ => coreOk h.core
  | .icmp h _ => coreOk h.core
  | .perm h _ => coreOk h.core
  | .vred h _ => coreOk h.core
  | .bcst h _ => coreOk h.core
  | .vext h _ => coreOk h.core
  | .gath h _ => coreOk h.core
  | .scat h _ => coreOk h.core
  | .twin h _ => coreOk h.core
  | .twout h _ => coreOk h.core
  | .twadd h _ => coreOk h.core
  | .spd h _ => coreOk h.core
  | .tnop h _ => coreOk h.core
  | .wld h _ => coreOk h.core
  | .wldF h _ => coreOk h.core
  | .wldFv h _ => coreOk h.core
  | .mma h _ => coreOk h.core
  | .mmaF h _ => coreOk h.core
  | .acz h _ => coreOk h.core
  | .drn h _ => coreOk h.core
  | .tlz h _ => coreOk h.core
  | .tlv h _ => coreOk h.core
  | .tlr h _ => coreOk h.core
  | .tlm h _ => coreOk h.core
  | .chs h _ => coreOk h.core
  | .chr h _ => coreOk h.core
  | .cha h _ => coreOk h.core
  | .mvi h _ => coreOk h.core
  | .srp h _ => coreOk h.core
  | .srr h _ => coreOk h.core
  | .srt h _ => coreOk h.core
  | .tensorComplete core _ => coreOk core
  | .exceptionReport core => coreOk core
  | .loadDataReturn core _ => coreOk core
  | .sbEntryTimeout core _ => coreOk core
  | .storePerformed core _ => coreOk core
  | .waitpReread core => coreOk core
  | .waitmReread core => coreOk core
  | .coreClockGate core => coreOk core
  | .hintWrite core _ _ => coreOk core
  | .chainWordArrival core _ => coreOk core
  | .chainCellCloseTimeout core _ => coreOk core
  | .nopCmd q => queueOk q
  | .moveCmd q => queueOk q
  | .launchCmd q => queueOk q
  | .launchImageLoaded q => queueOk q
  | .launchComplete q => queueOk q
  | .signalCmd q => queueOk q
  | .waitCmd q => queueOk q
  | .fencePoll q => queueOk q
  | .clearCmd q => queueOk q
  | .clearingStepDone q => queueOk q
  | .proofCmd q => queueOk q
  | .proofCaptureDone => true
  | .proofPageCopy _ => true
  | .restoreCmd q => queueOk q
  | .resliceCmd q => queueOk q
  | .xltSync q => queueOk q
  | .xltInval q => queueOk q
  | .xltInvalDrainDone => true
  | .biasSet q => queueOk q
  | .biasWritebackDone q => queueOk q
  | .windowMove q => queueOk q
  | .queueWake q => queueOk q
  | .descReread q => queueOk q
  | .fallbackPoll => true
  | .moverAccept m => moverOk m
  | .tileCheck m => moverOk m
  | .tableWalkDone root _ => rootOk root
  | .moverTransactionDone m _ => moverOk m
  | .streamComplete m => moverOk m
  | .faultRecordWrite => true
  | .fqHeadUpdate => true
  | .scrubPatrol line _ => lineOk line
  | .keyLoad _ => true
  | .keyErase _ => true
  | .keyCmdDone => true
  | .wipePlatesCaches => true
  | .underCryptoErase => true
  | .canopyWipeDone => true
  | .underOverwritePage => true
  | .cohL1InvalWrite v => wordOk v
  | .l1InvalDone => true
  | .cohL1EnWrite v => wordOk v
  | .cohProbeAddrWrite v => wordOk v
  | .probeLookupDone => true
  | .rdS slice line => sliceOk slice && lineOk line
  | .rdM slice line => sliceOk slice && lineOk line
  | .upg slice line => sliceOk slice && lineOk line
  | .own slice line => sliceOk slice && lineOk line
  | .rdCur line sel => lineOk line && selOk sel
  | .wrInv line sel mask data => lineOk line && selOk sel && maskOk mask && lineData data
  | .wrHint line sel mask slice data => lineOk line && selOk sel && maskOk mask && sliceOk slice && lineData data
  | .snpS slice line => sliceOk slice && lineOk line
  | .snpI slice line => sliceOk slice && lineOk line
  | .snpCur slice line => sliceOk slice && lineOk line
  | .ackI slice line => sliceOk slice && lineOk line
  | .ackS slice line => sliceOk slice && lineOk line
  | .ackFwd slice line => sliceOk slice && lineOk line
  | .nack slice line => sliceOk slice && lineOk line
  | .nackRetry slice line => sliceOk slice && lineOk line
  | .reservationLapse slice line => agentOk slice && lineOk line
  | .gnt slice line => sliceOk slice && lineOk line
  | .cmp slice line => sliceOk slice && lineOk line
  | .evaAck slice line => sliceOk slice && lineOk line
  | .dataMsg _ line => lineOk line
  | .evaClean slice line => sliceOk slice && lineOk line
  | .evaDirty slice line => sliceOk slice && lineOk line
  | .watchWake line => lineOk line
  | .hostSnpData line => lineOk line
  | .hostSnpInv line data => lineOk line && lineData data
  | .hostSnpCur line => lineOk line
  | .hostCacheResponse line _ => lineOk line
  | .birsp line => lineOk line
  | .memRd link _ => linkOk link
  | .memWr link _ mask _ data => linkOk link && maskOk mask && lineData data
  | .memInv link _ => linkOk link
  | .flushWordRead q => queueOk q
  | .readAheadExpiry _ => true
  | .hdmCommit fn _ => linkOk fn
  | .msixUnmask _ _ _ _ => true
  | .ideKeyProgram p => linkOk p.link
  | .linkTrained link _ _ _ => linkOk link
  | .dlDown link => linkOk link
  | .recoveryTimeout link => linkOk link
  | .viral link => linkOk link
  | .linkRecoveryReturn link _ => linkOk link
  | .linkLostTimeout => true
  | .linkUpAfterLoss link _ _ _ => linkOk link
  | .l0pNarrow link => linkOk link
  | .l0pWiden link => linkOk link
  | .aspmL1Entry link => linkOk link
  | .aspmL1Exit link => linkOk link
  | .rideModeWrite port v => portOk port && wordOk v
  | .portTrained port => portOk port
  | .ident port _ _ _ => portOk port
  | .idleCell port _ => portOk port
  | .chainCell port _ _ => portOk port
  | .tileCell port _ _ => portOk port
  | .tileAck port _ _ => portOk port
  | .fenceCell port _ _ => portOk port
  | .fenceAck port _ _ => portOk port
  | .winRd port _ _ => portOk port
  | .winWr port _ _ => portOk port
  | .winRsp port _ _ => portOk port
  | .cellReplayTimeout port => portOk port
  | .laneLockLost port => portOk port
  | .portRetrain port => portOk port
  | .rdmaWrite port _ _ _ => portOk port
  | .rdmaRead port _ _ _ => portOk port
  | .rdmaResponse _ _ => true
  | .ecnMarkedPacket port _ _ => portOk port
  | .cnp port _ => portOk port
  | .proofBegin port _ _ => portOk port
  | .proofData port _ _ => portOk port
  | .proofCommit port _ _ => portOk port
  | .proofAck port _ _ => portOk port
  | .readReq port _ _ => portOk port
  | .readData port _ _ => portOk port
  | .proofAbort port _ _ => portOk port
  | .heartbeat port _ _ => portOk port
  | .heartbeatSend => true
  | .pairLost => true
  | .pairSenseLow => true
  | .cappingInterval _ _ _ => true
  | .vfStepSettled dom => domOk dom
  | .kUpdate => true
  | .estDiverge => true
  | .measImplausible _ => true
  | .capUnreachable => true
  | .capReached => true
  | .sagEnd _ _ => true
  | .rippleWindow _ => true
  | .feedLoss => true
  | .feedLossWritesSent => true
  | .pwrGoodLow => true
  | .throttleInAssert _ => true
  | .throttleInDeassert => true
  | .feedAlertAssert _ => true
  | .feedAlertDeassert => true
  | .pinStuck _ => true
  | .pinChatterEnd _ => true
  | .pldmGrant _ => true
  | .sensorRefresh => true
  | .pwrCapWrite v => wordOk v
  | .thermalCheck _ => true
  | .errorDetected record _ _ _ => recordOk record
  | .blockResetEnd record => recordOk record
  | .quietPeriodExpiry record => recordOk record
  | .frForce record v => recordOk record && wordOk v
  | .frInjectArm record v => recordOk record && wordOk v
  | .frStatusClear record => recordOk record
  | .fltPinClear => true
  | .delayMonitor record v _ => recordOk record && wordOk v
  | .wearFit _ core _ _ _ _ => coreOk core
  | .lookoutUpdate _ _ => true
  | .rangerLoadCheck _ => true
  | .watchdog => true
  | .powerOn => true
  | .resetPin => true
  | .softwareReset => true
  | .resetRelease _ => true
  | .rampComplete => true
  | .fuseCheckDone => true
  | .selfTestDone _ => true
  | .configReady => true
  | .fwLoad => true
  | .firmwareVerified => true
  | .wearLoad => true
  | .enableCmd => true
  | .enableCheckDone => true
  | .disableCmd => true
  | .shutdown => true
  | .disableEnd => true
  | .deploy => true
  | .decommission => true
  | .readFaultLog _ _ => true
  | .readDisturbanceLog _ _ => true
  | .mbxRequestDone => true
  | .rcRead _ => true
  | .registerWrite _ _ v => wordOk v
  | .powerLoss => true
  | .zeroLengthReadCompletion link => linkOk link
  | .recoveryEntry link => linkOk link
  | .blockLockLoss port _ => portOk port
  | .badCell port _ => portOk port
  | .rdmaRetryTimeout => true
  | .overwriteBroughtForward _ => true

end Sys2Proof
end

