-- ==== Sys2Proof/Safety.lean ====
section
/-! DEFINITION. What a safe run is, in the terms that statements use: the conditions on a state under which a command has its own effect, and the invariants of the complex. -/

namespace Sys2Proof.Machine

/-- The complex serves: it is powered and not FROZEN (R423), and no error awaits its reaction. -/
def Live (s : State) : Prop := frozen s = false ∧ s.errs = []

/-- A run stops only at a command that names a unit the complex does not have. -/
def stopsOnlyAtAbsentUnits (i : Instr) (s : State) : Prop :=
  ∀ r, exec i s ≠ .refused r ∧ (exec i s = .fault .noSuchUnit → Sys2Proof.wellFormed i = false)

/-- A core in a LAUNCH with nothing outstanding and nothing in issue: no load, store, hint, tensor-queue entry, barrier or
wait. What has been given of its next bundle is in `latch`. -/
def coreFree (k : Core) : Bool :=
  decide (k.st = .running) && !k.ended && k.fetched.isEmpty && k.tq.isEmpty && k.loads.isEmpty && k.sb.isEmpty &&
  k.hints.isEmpty && k.bar == 0 && !k.waitTry && !k.waitOk

/-- A scalar slot value whose bundle issues by its registers alone: no memory access, barrier or wait, and neither TRAP nor
END. -/
def scPlain (w : Nat) : Bool := decide (scOp w < 20) || (decide (28 ≤ scOp w) && decide (scOp w < 62))

/-- A bundle that may issue on a free core and acts on its registers and plate only (R79, R127, R136): it decodes, its plate
accesses are in range, and the core's next bundle is within the kernel. -/
def bundleReady (k : Core) (b : Slots) : Bool :=
  bundleLegal b && scPlain (scAct k.a b) && !tQueued (tAct k.a b) && scPlateOk k.a (scAct k.a b) && vPlateOk k.a (vAct k.a b) &&
  decide ((scTarget k.a (scAct k.a b)).getD (k.pc + 1) < k.klen)

/-- A core's condition for a lone slot as its next bundle: it is free, no slot of the bundle has been given, and the bundle
may issue. -/
def loneReady (s : State) (c : Nat) (kind : SlotKind) (w : Nat) : Bool :=
  decide (c < 2400) && coreFree (coreGet s c) && decide ((coreGet s c).latch = slots0) &&
  bundleReady (coreGet s c) (slotPut slots0 kind w)

/-- The core after a bundle that acts on registers and plate only: architectural state, and the next bundle. -/
def retire (k : Core) (a : Arch) (pc : Nat) : Core := { k with a := a, pc := pc }

/-- Bits [hi:lo] of a slot command, the guard included (R124). -/
def fld {n : Nat} (f : BitVec n) (hi lo : Nat) : Nat := bitsOf f.toNat hi lo

/-- A slot value given as a bundle of its own to a free core of a complex that serves, its guard `g` true: it takes effect. -/
def soleSlot (s : State) (h : Hdr) (kind : SlotKind) (w g : Nat) : Prop :=
  Live s ∧ h.last = true ∧ loneReady s h.core kind w = true ∧ guardOk (coreGet s h.core).a g = true

/-- A scalar slot of opcode `op` that takes effect on its own. -/
def soleSc (s : State) (h : Hdr) (op : Nat) (f : BitVec 26) : Prop := soleSlot s h .sc (slotWord 26 op f) (fld f 25 22)

/-- A vector slot of opcode `op` that takes effect on its own. -/
def soleVec (s : State) (h : Hdr) (op : Nat) (f : BitVec 42) : Prop := soleSlot s h .vec (slotWord 42 op f) (fld f 41 38)

/-- The core has taken a bundle's effect on its architectural state and goes on at `pc`; nothing else has changed. -/
def retired (s : State) (h : Hdr) (a : Arch) (pc : Nat) : Host.Outcome State Fault Refusal :=
  .next (coreSet s h.core (retire (coreGet s h.core) a pc))

/-- The core, the slot kind and the raw slot value of a core instruction (R124, R130, R146, R161); none of another command. -/
def slotOf (i : Sys2Proof.Instr) : Option (Hdr × SlotKind × Nat) :=
  match i with
  | .nop h f => some (h, .sc, slotWord 26 0 f)
  | .alu h f => some (h, .sc, slotWord 26 1 f)
  | .addi h f => some (h, .sc, slotWord 26 2 f)
  | .andi h f => some (h, .sc, slotWord 26 3 f)
  | .ori h f => some (h, .sc, slotWord 26 4 f)
  | .xori h f => some (h, .sc, slotWord 26 5 f)
  | .shli h f => some (h, .sc, slotWord 26 6 f)
  | .shri h f => some (h, .sc, slotWord 26 7 f)
  | .sari h f => some (h, .sc, slotWord 26 8 f)
  | .li h f => some (h, .sc, slotWord 26 9 f)
  | .lih h f => some (h, .sc, slotWord 26 10 f)
  | .pcmp h f => some (h, .sc, slotWord 26 11 f)
  | .pcmpi h f => some (h, .sc, slotWord 26 12 f)
  | .plog h f => some (h, .sc, slotWord 26 13 f)
  | .br h f => some (h, .sc, slotWord 26 14 f)
  | .brdec h f => some (h, .sc, slotWord 26 15 f)
  | .jal h f => some (h, .sc, slotWord 26 16 f)
  | .jr h f => some (h, .sc, slotWord 26 17 f)
  | .ldp h f => some (h, .sc, slotWord 26 18 f)
  | .stp h f => some (h, .sc, slotWord 26 19 f)
  | .ldm h f => some (h, .sc, slotWord 26 20 f)
  | .ldmAcq h f => some (h, .sc, slotWord 26 21 f)
  | .ldmNc h f => some (h, .sc, slotWord 26 22 f)
  | .stm h f => some (h, .sc, slotWord 26 23 f)
  | .stmRel h f => some (h, .sc, slotWord 26 24 f)
  | .bar h f => some (h, .sc, slotWord 26 25 f)
  | .waitp h f => some (h, .sc, slotWord 26 26 f)
  | .waitm h f => some (h, .sc, slotWord 26 27 f)
  | .nflr h f => some (h, .sc, slotWord 26 28 f)
  | .nflc h f => some (h, .sc, slotWord 26 29 f)
  | .spk h f => some (h, .sc, slotWord 26 30 f)
  | .spc h f => some (h, .sc, slotWord 26 31 f)
  | .spr h f => some (h, .sc, slotWord 26 32 f)
  | .trap h f => some (h, .sc, slotWord 26 62 f)
  | .endK h f => some (h, .sc, slotWord 26 63 f)
  | .vnop h f => some (h, .vec, slotWord 42 0 f)
  | .fadd h f => some (h, .vec, slotWord 42 1 f)
  | .fsub h f => some (h, .vec, slotWord 42 2 f)
  | .fmul h f => some (h, .vec, slotWord 42 3 f)
  | .ffma h f => some (h, .vec, slotWord 42 4 f)
  | .fmin h f => some (h, .vec, slotWord 42 5 f)
  | .fmax h f => some (h, .vec, slotWord 42 6 f)
  | .fabs h f => some (h, .vec, slotWord 42 7 f)
  | .fneg h f => some (h, .vec, slotWord 42 8 f)
  | .fcmp h f => some (h, .vec, slotWord 42 9 f)
  | .sel h f => some (h, .vec, slotWord 42 10 f)
  | .exp2 h f => some (h, .vec, slotWord 42 11 f)
  | .log2 h f => some (h, .vec, slotWord 42 12 f)
  | .rcp h f => some (h, .vec, slotWord 42 13 f)
  | .rsqrt h f => some (h, .vec, slotWord 42 14 f)
  | .tanh h f => some (h, .vec, slotWord 42 15 f)
  | .cvtOut h f => some (h, .vec, slotWord 42 16 f)
  | .cvtIn h f => some (h, .vec, slotWord 42 17 f)
  | .ftoi h f => some (h, .vec, slotWord 42 18 f)
  | .itof h f => some (h, .vec, slotWord 42 19 f)
  | .iadd h f => some (h, .vec, slotWord 42 20 f)
  | .isub h f => some (h, .vec, slotWord 42 21 f)
  | .imul h f => some (h, .vec, slotWord 42 22 f)
  | .iand h f => some (h, .vec, slotWord 42 23 f)
  | .ior h f => some (h, .vec, slotWord 42 24 f)
  | .ixor h f => some (h, .vec, slotWord 42 25 f)
  | .ishl h f => some (h, .vec, slotWord 42 26 f)
  | .ishr h f => some (h, .vec, slotWord 42 27 f)
  | .isar h f => some (h, .vec, slotWord 42 28 f)
  | .icmp h f => some (h, .vec, slotWord 42 29 f)
  | .perm h f => some (h, .vec, slotWord 42 30 f)
  | .vred h f => some (h, .vec, slotWord 42 31 f)
  | .bcst h f => some (h, .vec, slotWord 42 32 f)
  | .vext h f => some (h, .vec, slotWord 42 33 f)
  | .gath h f => some (h, .vec, slotWord 42 34 f)
  | .scat h f => some (h, .vec, slotWord 42 35 f)
  | .twin h f => some (h, .vec, slotWord 42 36 f)
  | .twout h f => some (h, .vec, slotWord 42 37 f)
  | .twadd h f => some (h, .vec, slotWord 42 38 f)
  | .spd h f => some (h, .vec, slotWord 42 39 f)
  | .tnop h f => some (h, .ten, slotWord 42 0 f)
  | .wld h f => some (h, .ten, slotWord 42 1 f)
  | .wldF h f => some (h, .ten, slotWord 42 2 f)
  | .wldFv h f => some (h, .ten, slotWord 42 3 f)
  | .mma h f => some (h, .ten, slotWord 42 4 f)
  | .mmaF h f => some (h, .ten, slotWord 42 5 f)
  | .acz h f => some (h, .ten, slotWord 42 6 f)
  | .drn h f => some (h, .ten, slotWord 42 7 f)
  | .tlz h f => some (h, .ten, slotWord 42 8 f)
  | .tlv h f => some (h, .ten, slotWord 42 9 f)
  | .tlr h f => some (h, .ten, slotWord 42 10 f)
  | .tlm h f => some (h, .ten, slotWord 42 11 f)
  | .chs h f => some (h, .ten, slotWord 42 12 f)
  | .chr h f => some (h, .ten, slotWord 42 13 f)
  | .cha h f => some (h, .ten, slotWord 42 14 f)
  | .mvi h f => some (h, .ten, slotWord 42 15 f)
  | .srp h f => some (h, .ten, slotWord 42 16 f)
  | .srr h f => some (h, .ten, slotWord 42 17 f)
  | .srt h f => some (h, .ten, slotWord 42 18 f)
  | _ => none

/-- Guard field of a slot value (R124). -/
def slotGuard (kind : SlotKind) (w : Nat) : Nat := match kind with | .sc => scG w | _ => vG w

/-- Whether a slot value is the one that the core's instruction buffer holds for its next bundle (R111, R123): the slots a
sender gives a core are the image's own. -/
def slotHeld (k : Core) (kind : SlotKind) (w : Nat) : Bool :=
  let b := bundleAt k k.pc
  (match kind with | .sc => b.sc | .vec => b.vec | .ten => b.ten) == some w

/-- A free core whose next bundle has been given nothing. -/
def freshCore (s : State) (c : Nat) : Prop := c < 2400 ∧ coreFree (coreGet s c) = true ∧ (coreGet s c).latch = slots0

/-- The core has taken exception `x` at its next bundle and, with nothing outstanding, is STOPPED (R115 to R117); `a` and `pc`
are its architectural state and next bundle then. -/
def excepted (s : State) (c x : Nat) (a : Arch) (pc : Nat) : Host.Outcome State Fault Refusal :=
  .next (coreSet s c { coreGet s c with
    a := a, pc := pc, st := .stopped, exc := x, excB := (coreGet s c).pc, rep := false, lastNf := a.nflags })

/-- The checks of R137 pass for a core's access of `n` bytes at `va`, through a leaf of its translation buffer, to the canopy or
the floor. -/
def accessOk (k : Core) (va n : Nat) (write : Bool) (lf : Leaf) : Prop :=
  va % n = 0 ∧ va < 2 ^ 52 ∧ k.tbuf.find? (fun l => leafHit l k.root va) = some lf ∧ ePinned lf.ent = true ∧
  (if write then eW lf.ent else eR lf.ent) = true ∧ (paTier (ePage lf.ent) = 0 ∨ paTier (ePage lf.ent) = 2) ∧
  (lf.big = true → bitsOf lf.ent 31 26 = 0)

/-- A legal scalar slot of opcode `op`, its guard true, given as the last of a fresh core's bundle on a complex that serves. -/
def freshSc (s : State) (h : Hdr) (op : Nat) (f : BitVec 26) : Prop :=
  Live s ∧ h.last = true ∧ freshCore s h.core ∧ guardOk (coreGet s h.core).a (fld f 25 22) = true ∧ scLegal (slotWord 26 op f) = true

/-- Address of a slot's memory access (R135). -/
def slotVa (s : State) (h : Hdr) (f : BitVec 26) : Nat :=
  (sget (coreGet s h.core).a (fld f 16 12) + BitVec.ofInt 64 (sextInt 8 (fld f 7 0) * (smSize (fld f 11 9) : Int))).toNat

/-- A load as an instruction of the bundle at `pc` asks for it (R137): what it is and which lines it waits for. -/
def loadIs (l : Load) (kind : LoadKind) (tag rd width : Nat) (sx : Bool) (va pc : Nat) (lf : Leaf) : Prop :=
  l.kind = kind ∧ l.tag = tag ∧ l.rd = rd ∧ l.width = width ∧ l.sx = sx ∧ l.pa = leafPA lf va ∧ l.sel = eSel lf.ent ∧ l.bundle = pc ∧
  l.parts.map (fun p => p.line) = (List.range (max 1 (smSize width / 64))).map (fun j => leafPA lf va / 64 + j)

/-- A legal tensor slot of opcode `op`, its guard true, given as the last of a fresh core's bundle on a complex that serves. -/
def freshTen (s : State) (h : Hdr) (op : Nat) (f : BitVec 42) : Prop :=
  Live s ∧ h.last = true ∧ freshCore s h.core ∧ guardOk (coreGet s h.core).a (fld f 41 38) = true ∧ tLegal (slotWord 42 op f) = true ∧
  (coreGet s h.core).pc + 1 < (coreGet s h.core).klen

/-- The tensor-queue entry that a slot value makes at a core's next bundle (R83, R128). -/
def tenEntry (k : Core) (w : Nat) : TEntry := tEntry k.a k.tqn w k.pc none

/-- The core's bundle has issued, and its tensor instruction is queued, started, with `n` of its words done. -/
def tenQueued (k : Core) (w n : Nat) : Core :=
  { k with pc := k.pc + 1, tq := [{ tenEntry k w with started := true, prog := n }], tqn := k.tqn + 1 }

/-- A core whose tensor queue holds one started entry and that has nothing else outstanding, with no landing in progress. -/
def tenRunning (s : State) (c : Nat) (e : TEntry) : Prop :=
  Live s ∧ s.ride.lands = [] ∧ c < 2400 ∧ coreFree { coreGet s c with tq := [] } = true ∧ (coreGet s c).tq = [e] ∧ e.started = true

/-- A port that sends a cell of a type at once (R386, R387): UP, nothing waiting, a credit of the class, room for a replay. -/
def portReady (p : Port) (ty : Nat) : Prop := p.st = 2 ∧ p.waitq = [] ∧ p.cred.getD (cellClass ty) 0 ≠ 0 ∧ p.replay.length < 256

/-- The port after it has sent a cell (R384 to R387): the cell stands in the replay buffer under the next sequence number, a
credit of its class is used, and what it had to acknowledge and to return rode along. -/
def sentPort (p : Port) (ty : Nat) (data : List Byte) (mask : Nat) : Port :=
  { p with
    tx := (p.tx + 1) % 65536, waitq := [], replay := p.replay ++ [⟨ty, (p.tx + 1) % 65536, data, mask, 0, false, false⟩]
    cred := p.cred.set (cellClass ty) (p.cred.getD (cellClass ty) 0 - 1), nak := false, ackd := p.rx, owed := [0, 0, 0, 0, 0, 0] }

/-- The cell on the lanes, with its header and CRC (R384). -/
def sentCell (i : Nat) (p : Port) (ty : Nat) (data : List Byte) : Out :=
  .cell i ty (cellBytes (cellHeader p ty data.length ((p.tx + 1) % 65536)) data)

/-- The complex after port `i` has sent a cell. -/
def sendsCell (s : State) (i ty : Nat) (data : List Byte) (mask : Nat) : State :=
  emit (portSet s i (sentPort (portGet s i) ty data mask)) (sentCell i (portGet s i) ty data)

/-- The entry of a store buffer that is otherwise empty, on a core with nothing else outstanding. -/
def oneStore (s : State) (c : Nat) (e : SbEntry) : Prop :=
  Live s ∧ c < 2400 ∧ coreFree { coreGet s c with sb := [] } = true ∧ (coreGet s c).sb = [e] ∧ e.dev = false ∧
  lineHeld s e.sel e.line true = false

/-- No line of the complex is cached, under a transaction or poisoned: every access reaches its memory. -/
def uncached (s : State) : Prop := s.coh = coh0 ∧ s.tiers.poison = []

/-- Queue `q` of a complex in RUN holds one fetched command, which may start (R332): nothing of the queue runs, its completion
ring has room, no clearing is under way, and no proof. -/
def queueTurn (s : State) (q : Nat) (d : List Byte) : Prop :=
  Live s ∧ q < 1024 ∧ mode s = 3 ∧ s.host.hold = false ∧ s.qsu.clears = [] ∧ uncached s ∧ s.prf.run = none ∧
  (queueGet s q).en = true ∧ (queueGet s q).st ≠ .cplFull ∧ (queueGet s q).buf = [d] ∧ (queueGet s q).run = [] ∧
  cplRoom (queueGet s q) = true ∧ (queueGet s q).cpl % 64 = 0 ∧
  (queueGet s q).cpl + 64 * 2 ^ (queueGet s q).clog ≤ 2 ^ 44

/-- The queue after its one fetched command has started (R328, R332). -/
def begun (k : Queue) (d : List Byte) : Queue := { k with buf := [], started := k.started + 1, run := [⟨k.started, d, 0, 0, 0⟩] }

/-- The complex with that command started. -/
def begunState (s : State) (q : Nat) (d : List Byte) : State := queueSet s q (begun (queueGet s q) d)

/-- The central cache holds a root's leaf for a device virtual address (R215, R216). -/
def cachedAt (s : State) (root va : Nat) (lf : Leaf) : Prop := va < 2 ^ 52 ∧ s.xlt.cache.find? (fun l => leafHit l root va) = some lf

/-- A command of queue `q` completes in going to `t` (R336, R339): the record stands in the completion ring, with the time and
the energy left open, and COMPLETED is counted. -/
def recorded (s t : State) (q : Nat) (d : List Byte) (status d0 d1 : Nat) : Prop :=
  let k := queueGet s q
  (∃ el en, hostBytes t (k.cpl + 64 * (k.completed % 2 ^ k.clog)) 64 =
    words [phaseOf k.completed k.clog * 2 ^ 63 + status * 2 ^ 55 + q * 2 ^ 45 + dSeq d * 2 ^ 30 + dCmd d * 2 ^ 25 + dCtx d,
      el, en, d0, d1, 0, 0, 0]) ∧
  queueGet t q = { begun k d with run := [], completed := k.completed + 1 }

/-- It completes, and cores, movers and LAUNCHes are as they were. -/
def completes (s t : State) (q : Nat) (d : List Byte) (status d0 d1 : Nat) : Prop :=
  recorded s t q d status d0 d1 ∧ t.cores = s.cores ∧ t.movers = s.movers ∧ t.qsu.launches = s.qsu.launches

/-- A command of queue `q` has its effect, in a state with `P`, and its queue then looks for more work (R323, R332). -/
def queueRuns (i : Sys2Proof.Instr) (s : State) (q : Nat) (P : State → Prop) : Prop :=
  ∃ t, exec i s = .next (queueWake t q) ∧ P t

/-- No core runs or has tensor instructions queued, no arrived cell is held and no landing is in progress: what a change lets go
on is nothing. -/
def resting (s : State) : Prop :=
  (∀ p ∈ s.cores, p.2.st ≠ .running ∧ p.2.st ≠ .stopping ∧ p.2.st ≠ .loading ∧ p.2.tq = []) ∧ s.ride.lands = [] ∧ ∀ i, i < 24 → (portGet s i).held = []

/-- A queue that may fetch: enabled, in RUN, not parked, no descriptor under check, no clearing under way. -/
def queueFetches (s : State) (q : Nat) : Prop :=
  Live s ∧ q < 1024 ∧ mode s = 3 ∧ s.host.hold = false ∧ s.qsu.clears = [] ∧ uncached s ∧ (queueGet s q).en = true ∧
  (queueGet s q).tries = 0 ∧ (queueGet s q).st ≠ .notReady ∧ (queueGet s q).st ≠ .overrun ∧ (queueGet s q).buf = []

/-- An error of a record that holds none would be logged and nothing else: its source's reaction is LOG (R439 to R443). -/
def logsOnly (s : State) (rec src : Nat) : Prop :=
  frClass rec ≠ none ∧ src < 9 ∧ frState s rec = 0 ∧ regField s (frOff rec) 4 4 = 0 ∧ regField s (frOff rec + 0x20) (4 * src + 2) (4 * src) = 0

/-- `t` is `s` with an error logged in a record that held none (R439, R440, R443): it is latched as the first, its count has risen,
the record is FAULTED, and nothing but the record has changed. -/
def logged (s t : State) (rec src synd addr : Nat) : Prop :=
  regField t (frOff rec) 2 0 = 1 ∧ regField t (frOff rec) 4 4 = 1 ∧ regField t (frOff rec) 23 19 = src ∧
  regGet t (frOff rec + 8) = synd % 2 ^ 64 ∧ regGet t (frOff rec + 16) = addr % 2 ^ 64 ∧
  (∀ k, frClass rec = some k → if srcIsC k src then regField t (frOff rec + 0x18) 31 0 = satAdd 32 (regField s (frOff rec + 0x18) 31 0) 1
    else regField t (frOff rec + 0x18) 63 32 = satAdd 32 (regField s (frOff rec + 0x18) 63 32) 1) ∧
  (∀ a, a < frOff rec ∨ frOff rec + 0x20 ≤ a → regGet t a = regGet s a) ∧
  { t with regs := s.regs, flt := { t.flt with episode := s.flt.episode } } = s

/-- Writing an event record touches no cache: none holds a line, or no event ring is in use. -/
def quiet (s : State) : Prop := s.coh = coh0 ∨ s.qsu.evOn = false

/-- A port that is UP in a mode with nothing in flight and all its credits (R384 to R387). -/
def portIdle (s : State) (i m : Nat) : Prop :=
  let p := portGet s i
  p.st = 2 ∧ portMode s i = m ∧ p.replay = [] ∧ p.waitq = [] ∧ p.held = [] ∧ p.cred = port0.cred ∧ p.nak = false ∧ p.owed = port0.owed

/-- The header of the next cell in sequence on a port, of a type, with no NAK and no CHAIN credit that would let an agent go on
(R384, R386, R387). -/
def nextCell (s : State) (i hdr ty : Nat) : Prop :=
  bitsOf hdr 127 124 = ty ∧ bitsOf hdr 112 97 = ((portGet s i).rx + 1) % 65536 ∧ bitOf hdr 80 = false ∧ bitsOf hdr 79 72 = 0

/-- The complex once the link layer has accepted that cell. -/
def tookCell (s : State) (i : Nat) : State := portSet s i { portGet s i with rx := ((portGet s i).rx + 1) % 65536, bad := false }

/-- It answers the cell with a cell of class RSP, and owes the credit of the class of a cell of type `ty` (R386). -/
def answersCell (s : State) (i rty : Nat) (pay : List Byte) (ty : Nat) : State := freeCredit (sendsCell (tookCell s i) i rty pay 0) i ty

/-- What a reset leaves (R255, R496, R497, R518): registers at their reset values but for the cause, engines idle, key slots empty, every
core at its reset state but for what its plate holds, memories as they were, and the fuses. -/
def afterReset (s t : State) (cause : Nat) : Prop :=
  frozen t = false ∧ mode t = 0 ∧ regField t 0x20030 7 0 = cause ∧ (∀ a, a ≠ 0x20030 → tabGet regReset t.regs a = regReset a) ∧
  (∀ p ∈ t.cores, p.2 = { core0 with a := { arch0 with plate := p.2.a.plate } }) ∧
  t.tiers = { tiers0 with bytes := s.tiers.bytes, enc := s.tiers.enc, poison := s.tiers.poison } ∧
  t.coh = coh0 ∧ t.xlt = xlt0 ∧ t.movers = [] ∧ t.qsu = qsu0 ∧ t.host = hostPort0 ∧ t.ride = ride0 ∧ t.prf = prf0 ∧
  t.life = { life0 with lc := s.life.lc, minSvn := s.life.minSvn, spares := s.life.spares } ∧ t.pending = s.pending

/-- A queue's commands all name units that the complex has. -/
def queueOk (s : State) : Prop := ∀ c ∈ s.pending, Sys2Proof.wellFormed c = true

/-- The commands a complex that is FROZEN or without power still obeys (R423, R425). -/
def obeyedFrozen : List Sys2Proof.Instr := [.resetPin, .powerOn, .powerLoss, .feedLossWritesSent]

/-- The memory's canonical form: addresses rising, no entry that reads as an unlisted address does. -/
def memoryOk (s : State) : Bool := tabWf (fun _ => 0) s.tiers.bytes

end Sys2Proof.Machine
end

