-- ==== Sys2Proof/Certificates/Slice0/Obligations.lean ====
section
/-! DEFINITION. The statements about the model that the provers are asked for. Each docstring names the rules of the spec that it states or rests on. -/

open Sys2Proof Sys2Proof.Machine

/-- A step takes the command at the front of the queue and runs it on the state whose queue is the rest; a complex with no
command waiting idles (the model's choice, log 1). -/
def Obligations.StepTakesTheFrontCommand : Prop :=
  (∀ (c : Instr) (rest : List Instr) (s : State), step { s with pending := c :: rest } = exec c { s with pending := rest }) ∧
  (∀ s : State, s.pending = [] → step s = .next s)

/-- Scalar arithmetic (R131, R132): the destination takes the value the tables give, s0 discards it, and nothing else of
the complex changes but the index of the core's next bundle. -/
def Obligations.ScalarArithmetic : Prop :=
  ∀ (h : Hdr) (f : BitVec 26) (s : State),
    let k := coreGet s h.core
    let a := k.a
    let rd := fld f 21 17
    let x := sget a (fld f 16 12)
    let y := sget a (fld f 11 7)
    let imm := BitVec.ofNat 64 (fld f 11 0)
    let wr := fun v => retired s h (sput a rd v) (k.pc + 1)
    (soleSc s h 0 f → exec (.nop h f) s = retired s h a (k.pc + 1)) ∧
    (soleSc s h 1 f →
      (fld f 6 0 = 0 → exec (.alu h f) s = wr (x + y)) ∧
      (fld f 6 0 = 1 → exec (.alu h f) s = wr (x - y)) ∧
      (fld f 6 0 = 2 → exec (.alu h f) s = wr (x &&& y)) ∧
      (fld f 6 0 = 3 → exec (.alu h f) s = wr (x ||| y)) ∧
      (fld f 6 0 = 4 → exec (.alu h f) s = wr (x ^^^ y)) ∧
      (fld f 6 0 = 5 → exec (.alu h f) s = wr (x <<< (y.toNat % 64))) ∧
      (fld f 6 0 = 6 → exec (.alu h f) s = wr (x >>> (y.toNat % 64))) ∧
      (fld f 6 0 = 7 → exec (.alu h f) s = wr (x.sshiftRight (y.toNat % 64))) ∧
      (fld f 6 0 = 8 → exec (.alu h f) s = wr (BitVec.ofNat 64 (x.toNat * y.toNat))) ∧
      (fld f 6 0 = 9 → exec (.alu h f) s = wr (BitVec.ofNat 64 (x.toNat * y.toNat / 2 ^ 64))) ∧
      (fld f 6 0 = 10 → exec (.alu h f) s = wr (BitVec.ofInt 64 (x.toInt * y.toInt / 2 ^ 64))) ∧
      (fld f 6 0 = 11 → exec (.alu h f) s = wr (if x.toInt ≤ y.toInt then x else y)) ∧
      (fld f 6 0 = 12 → exec (.alu h f) s = wr (if x.toInt ≤ y.toInt then y else x)) ∧
      (fld f 6 0 = 13 → exec (.alu h f) s = wr (if x.toNat ≤ y.toNat then x else y)) ∧
      (fld f 6 0 = 14 → exec (.alu h f) s = wr (if x.toNat ≤ y.toNat then y else x)) ∧
      (fld f 6 0 = 15 → exec (.alu h f) s =
        wr (BitVec.ofNat 64 (((List.range 8).map (fun i => 2 ^ i * bnat (pget a i))).sum)))) ∧
    (soleSc s h 2 f → exec (.addi h f) s = wr (x + BitVec.ofInt 64 (sextInt 12 (fld f 11 0)))) ∧
    (soleSc s h 3 f → exec (.andi h f) s = wr (x &&& imm)) ∧
    (soleSc s h 4 f → exec (.ori h f) s = wr (x ||| imm)) ∧
    (soleSc s h 5 f → exec (.xori h f) s = wr (x ^^^ imm)) ∧
    (soleSc s h 6 f → exec (.shli h f) s = wr (x <<< fld f 5 0)) ∧
    (soleSc s h 7 f → exec (.shri h f) s = wr (x >>> fld f 5 0)) ∧
    (soleSc s h 8 f → exec (.sari h f) s = wr (x.sshiftRight (fld f 5 0))) ∧
    (soleSc s h 9 f → exec (.li h f) s = wr (BitVec.ofInt 64 (sextInt 17 (fld f 16 0)))) ∧
    (soleSc s h 10 f → exec (.lih h f) s = wr ((sget a rd <<< 17) ||| BitVec.ofNat 64 (fld f 16 0)))

/-- Predicates and branches (R131, R133, R134): a comparison writes its predicate, a taken branch goes to its target, a
branch not taken to the next bundle, and JAL keeps the index of the next bundle. -/
def Obligations.PredicatesAndBranches : Prop :=
  ∀ (h : Hdr) (f : BitVec 26) (s : State),
    let k := coreGet s h.core
    let a := k.a
    let next := k.pc + 1
    let cmp := fun (i : Instr) (x y : W64) =>
      (fld f 18 16 = 0 → exec i s = retired s h (pput a (fld f 21 19) (x == y)) next) ∧
      (fld f 18 16 = 1 → exec i s = retired s h (pput a (fld f 21 19) (x != y)) next) ∧
      (fld f 18 16 = 2 → exec i s = retired s h (pput a (fld f 21 19) (decide (x.toInt < y.toInt))) next) ∧
      (fld f 18 16 = 3 → exec i s = retired s h (pput a (fld f 21 19) (decide (y.toInt ≤ x.toInt))) next) ∧
      (fld f 18 16 = 4 → exec i s = retired s h (pput a (fld f 21 19) (decide (x.toNat < y.toNat))) next) ∧
      (fld f 18 16 = 5 → exec i s = retired s h (pput a (fld f 21 19) (decide (y.toNat ≤ x.toNat))) next)
    let p := pget a (fld f 18 16)
    let q := pget a (fld f 15 13)
    let rs := fld f 10 6
    let down := sget a rs - 1
    (soleSc s h 11 f → cmp (.pcmp h f) (sget a (fld f 15 11)) (sget a (fld f 10 6))) ∧
    (soleSc s h 12 f → cmp (.pcmpi h f) (sget a (fld f 15 11)) (BitVec.ofInt 64 (sextInt 11 (fld f 10 0)))) ∧
    (soleSc s h 13 f →
      (fld f 12 11 = 0 → exec (.plog h f) s = retired s h (pput a (fld f 21 19) (p && q)) next) ∧
      (fld f 12 11 = 1 → exec (.plog h f) s = retired s h (pput a (fld f 21 19) (p || q)) next) ∧
      (fld f 12 11 = 2 → exec (.plog h f) s = retired s h (pput a (fld f 21 19) (p != q)) next) ∧
      (fld f 12 11 = 3 → exec (.plog h f) s = retired s h (pput a (fld f 21 19) (p && !q)) next)) ∧
    (soleSc s h 14 f → exec (.br h f) s = retired s h a (fld f 21 11)) ∧
    (soleSc s h 15 f →
      (down ≠ 0 → exec (.brdec h f) s = retired s h (sput a rs down) (fld f 21 11)) ∧
      (down = 0 → exec (.brdec h f) s = retired s h (sput a rs down) next)) ∧
    (soleSc s h 16 f → exec (.jal h f) s = retired s h (sput a (fld f 21 17) (BitVec.ofNat 64 next)) (fld f 16 6)) ∧
    (soleSc s h 17 f → exec (.jr h f) s = retired s h a (sget a (fld f 16 12)).toNat)

/-- Plate accesses, NFLAGS and the stipple registers (R131, R135, R136, R144, R145). -/
def Obligations.PlateFlagsAndStipples : Prop :=
  ∀ (h : Hdr) (f : BitVec 26) (s : State),
    let k := coreGet s h.core
    let a := k.a
    let next := k.pc + 1
    let rd := fld f 21 17
    let n := smSize (fld f 11 9)
    let ad := (sget a (fld f 16 12) + BitVec.ofInt 64 (sextInt 8 (fld f 7 0) * (n : Int))).toNat / n * n
    let st := fld f 5 0
    let str := stipGet a st
    (soleSc s h 18 f →
      (fld f 11 9 ≤ 3 ∧ fld f 8 8 = 0 → exec (.ldp h f) s = retired s h (sput a rd (BitVec.ofNat 64 (leNat (plateGet a ad n)))) next) ∧
      (fld f 11 9 ≤ 2 ∧ fld f 8 8 = 1 →
        exec (.ldp h f) s = retired s h (sput a rd (BitVec.ofInt 64 (sextInt (8 * n) (leNat (plateGet a ad n))))) next) ∧
      (fld f 11 9 = 4 → exec (.ldp h f) s =
        retired s h (sput (sput a rd (BitVec.ofNat 64 (leNat (plateGet a ad 8)))) (rd + 1) (BitVec.ofNat 64 (leNat (plateGet a (ad + 8) 8)))) next) ∧
      (fld f 11 9 = 5 → exec (.ldp h f) s = retired s h (vput a rd (vofBytes (plateGet a ad 256))) next)) ∧
    (soleSc s h 19 f →
      (fld f 11 9 ≤ 3 → exec (.stp h f) s = retired s h (platePut a ad (leBytes n (sget a rd).toNat)) next) ∧
      (fld f 11 9 = 4 → exec (.stp h f) s =
        retired s h (platePut a ad (leBytes 8 (sget a rd).toNat ++ leBytes 8 (sget a (rd + 1)).toNat)) next) ∧
      (fld f 11 9 = 5 → exec (.stp h f) s = retired s h (platePut a ad (vbytes (vget a rd))) next)) ∧
    (soleSc s h 28 f → exec (.nflr h f) s = retired s h (sput a rd (BitVec.ofNat 64 a.nflags)) next) ∧
    (soleSc s h 29 f → exec (.nflc h f) s = retired s h { a with nflags := a.nflags - (a.nflags &&& fld f 6 0) } next) ∧
    (soleSc s h 30 f → exec (.spk h f) s = retired s h (stipPut a st { str with key := (sget a (fld f 16 12)).toNat }) next) ∧
    (soleSc s h 31 f → exec (.spc h f) s = retired s h (stipPut a st { str with
        ctr := (sget a (fld f 16 12)).toNat + 2 ^ 64 * (sget a (fld f 16 12 + 1)).toNat }) next) ∧
    (soleSc s h 32 f →
      (fld f 7 6 = 0 → exec (.spr h f) s = retired s h (sput a rd (BitVec.ofNat 64 str.key)) next) ∧
      (fld f 7 6 = 1 → exec (.spr h f) s = retired s h (sput a rd (BitVec.ofNat 64 (str.ctr % 2 ^ 64))) next) ∧
      (fld f 7 6 = 2 → exec (.spr h f) s = retired s h (sput a rd (BitVec.ofNat 64 (str.ctr / 2 ^ 64))) next) ∧
      (fld f 7 6 = 3 → exec (.spr h f) s = retired s h (sput a rd (BitVec.ofNat 64 (str.run + 2 ^ 32 * str.last))) next))

/-- A slot that is not the last of its bundle waits at its core for the rest of the bundle, and does nothing else (R79; that
bundles are given slot by slot is the model's choice, log 3). -/
def Obligations.SlotsWaitForTheirBundle : Prop :=
  ∀ (i : Instr) (s : State) (h : Hdr) (kind : SlotKind) (w : Nat), slotOf i = some (h, kind, w) → Live s → h.core < 2400 →
    h.last = false → (coreGet s h.core).st = .running → (coreGet s h.core).ended = false →
    exec i s = .next (coreSet s h.core { coreGet s h.core with latch := slotPut (coreGet s h.core).latch kind w })

/-- An instruction whose guard is false has no effect (R124): its bundle issues, and only the core's next bundle changes. -/
def Obligations.FalseGuardsDoNothing : Prop :=
  ∀ (i : Instr) (s : State) (h : Hdr) (kind : SlotKind) (w : Nat), slotOf i = some (h, kind, w) → Live s → h.last = true →
    loneReady s h.core kind w = true → guardOk (coreGet s h.core).a (slotGuard kind w) = false →
    exec i s = retired s h (coreGet s h.core).a ((coreGet s h.core).pc + 1)

/-- A bundle that does not decode raises ILLEGAL_ENCODING whatever its guards say (R124, R127): no slot takes effect. -/
def Obligations.IllegalBundlesRaise : Prop :=
  ∀ (i : Instr) (s : State) (h : Hdr) (kind : SlotKind) (w : Nat), slotOf i = some (h, kind, w) → Live s → h.last = true →
    freshCore s h.core → bundleLegal (slotPut slots0 kind w) = false →
    exec i s = excepted s h.core 1 (coreGet s h.core).a (coreGet s h.core).pc

/-- TRAP, END and BAR, and the exceptions of a branch beyond the kernel and of a plate access beyond the plate (R131, R134,
R136, R138, R143). -/
def Obligations.KernelEndsAndTraps : Prop :=
  ∀ (h : Hdr) (f : BitVec 26) (s : State),
    let k := coreGet s h.core
    let n := smSize (fld f 11 9)
    (freshSc s h 62 f → exec (.trap h f) s = excepted s h.core 12 k.a k.pc) ∧
    (freshSc s h 63 f → exec (.endK h f) s =
      .next (coreSet s h.core { k with pc := k.pc + 1, st := .idle, lastNf := k.a.nflags })) ∧
    (freshSc s h 25 f → k.pc + 1 < k.klen → exec (.bar h f) s =
      .next (coreSet s h.core { k with pc := k.pc + 1, bar := fld f 6 0 + 1 })) ∧
    (freshSc s h 14 f → k.klen ≤ fld f 21 11 → exec (.br h f) s = excepted s h.core 2 k.a (fld f 21 11)) ∧
    (freshSc s h 17 f → k.klen ≤ (sget k.a (fld f 16 12)).toNat →
      exec (.jr h f) s = excepted s h.core 2 k.a (sget k.a (fld f 16 12)).toNat) ∧
    (freshSc s h 18 f → 0x180000 < slotVa s h f / n * n + n → exec (.ldp h f) s = excepted s h.core 3 k.a k.pc) ∧
    (freshSc s h 19 f → 0x180000 < slotVa s h f / n * n + n → exec (.stp h f) s = excepted s h.core 3 k.a k.pc)

/-- A bundle holding on WAITP holds as a whole until its word is at least rs2, and goes on holding at each read that does not
satisfy it (R139, R142); a satisfied wait lets the bundle issue. -/
def Obligations.PlateWaits : Prop :=
  ∀ (h : Hdr) (f : BitVec 26) (s : State),
    let k := coreGet s h.core
    let word := leNat (plateGet k.a ((sget k.a (fld f 16 12)).toNat / 8 * 8) 8)
    let target := (sget k.a (fld f 11 7)).toNat
    (∀ b : Slots, Live s → h.core < 2400 → h.last = true → coreFree k = true → k.latch = b → bundleLegal (slotPut b .sc (slotWord 26 26 f)) = true →
      guardOk k.a (fld f 25 22) = true → vPlateOk k.a (vAct k.a b) = true →
      (sget k.a (fld f 16 12)).toNat / 8 * 8 + 8 ≤ 0x180000 → word < target →
      exec (.waitp h f) s =
        .next (coreSet s h.core { k with latch := slots0, fetched := [slotPut b .sc (slotWord 26 26 f)], waitTry := true })) ∧
    (freshSc s h 26 f → (sget k.a (fld f 16 12)).toNat / 8 * 8 + 8 ≤ 0x180000 → k.pc + 1 < k.klen → target ≤ word →
      exec (.waitp h f) s = retired s h k.a (k.pc + 1)) ∧
    (Live s → h.core < 2400 → k.fetched.head? = some (slotPut slots0 .sc (slotWord 26 26 f)) → guardOk k.a (fld f 25 22) = true →
      word < target → exec (.waitpReread h.core) s = .next s) ∧
    (Live s → h.core < 2400 → coreFree { k with fetched := [], waitTry := false } = true → k.latch = slots0 → k.waitTry = true →
      k.fetched = [slotPut slots0 .sc (slotWord 26 26 f)] → scLegal (slotWord 26 26 f) = true → guardOk k.a (fld f 25 22) = true →
      (sget k.a (fld f 16 12)).toNat / 8 * 8 + 8 ≤ 0x180000 → k.pc + 1 < k.klen → target ≤ word →
      exec (.waitpReread h.core) s = .next (coreSet s h.core { k with pc := k.pc + 1, fetched := [], waitTry := false }))

/-- Loads beyond the plate (R137, R140, R299): the bundle issues, the load is outstanding with its kind, destination, physical
address and lines, and registers and memory stay as they were. WAITM holds its bundle while its first read is outstanding. -/
def Obligations.LoadsStart : Prop :=
  ∀ (h : Hdr) (f : BitVec 26) (s : State) (lf : Leaf),
    let k := coreGet s h.core
    let n := smSize (fld f 11 9)
    let va := slotVa s h f
    let starts := fun (i : Instr) (kind : LoadKind) => ∃ t, exec i s = .next t ∧ (coreGet t h.core).a = k.a ∧
      (coreGet t h.core).pc = k.pc + 1 ∧ (coreGet t h.core).fetched = [] ∧ t.tiers = s.tiers ∧ t.regs = s.regs ∧
      ∃ l ∈ (coreGet t h.core).loads, loadIs l kind k.ldn (fld f 21 17) (fld f 11 9) (bitOf f.toNat 8) va k.pc lf
    (k.pc + 1 < k.klen → accessOk k va n false lf →
      (freshSc s h 20 f → starts (.ldm h f) .plain) ∧
      (freshSc s h 21 f → starts (.ldmAcq h f) .acq) ∧
      (freshSc s h 22 f → starts (.ldmNc h f) .nc)) ∧
    (accessOk k (sget k.a (fld f 16 12)).toNat 8 false lf → freshSc s h 27 f →
      ∃ t, exec (.waitm h f) s = .next t ∧ (coreGet t h.core).a = k.a ∧ (coreGet t h.core).pc = k.pc ∧
        (coreGet t h.core).fetched = [slotPut slots0 .sc (slotWord 26 27 f)] ∧ (coreGet t h.core).waitTry = true ∧
        t.tiers = s.tiers ∧ t.regs = s.regs ∧
        ∃ l ∈ (coreGet t h.core).loads, loadIs l .wait k.ldn 0 3 false (sget k.a (fld f 16 12)).toNat k.pc lf)

/-- Stores beyond the plate (R135, R137, R301, R303): the bundle issues and the bytes stand in the store buffer, one entry a
line; entries that are full begin to drain and may ask for their lines; registers and memory stay as they were until the store is performed. -/
def Obligations.StoresAreBuffered : Prop :=
  ∀ (h : Hdr) (f : BitVec 26) (s : State) (lf : Leaf),
    let k := coreGet s h.core
    let n := smSize (fld f 11 9)
    let rd := fld f 21 17
    let pa := leafPA lf (slotVa s h f)
    let buffered := fun (i : Instr) (rel : Bool) (es : List SbEntry) =>
      ∃ t, exec i s = .next t ∧ coreGet t h.core = { tbufPut k lf with pc := k.pc + 1, sb := es, sbn := k.sbn + es.length } ∧
        (∀ d, d ≠ h.core → coreGet t d = coreGet s d) ∧ t.tiers = s.tiers ∧ t.regs = s.regs ∧ es.all (fun e => e.rel == rel) = true
    let narrow := fun (bytes : List Byte) (rel : Bool) => [(⟨k.sbn, pa / 64, (2 ^ n - 1) * 2 ^ (pa % 64),
      lineAt pa bytes, false, rel, eSel lf.ent, s.xlt.epoch, k.pc, false, k.ldn, false, false⟩ : SbEntry)]
    let wide := fun (asked : Nat → Bool) (j : Nat) => (⟨k.sbn + j, pa / 64 + j, 2 ^ 64 - 1, ((vbytes (vget k.a rd)).drop (64 * j)).take 64,
      false, false, eSel lf.ent, s.xlt.epoch, k.pc, true, k.ldn, asked j, false⟩ : SbEntry)
    k.pc + 1 < k.klen → accessOk k (slotVa s h f) n true lf →
      (freshSc s h 23 f →
        (fld f 11 9 ≤ 3 → buffered (.stm h f) false (narrow (leBytes n (sget k.a rd).toNat) false)) ∧
        (fld f 11 9 = 4 → buffered (.stm h f) false
          (narrow (leBytes 8 (sget k.a rd).toNat ++ leBytes 8 (sget k.a (rd + 1)).toNat) false)) ∧
        (fld f 11 9 = 5 → ∃ asked, buffered (.stm h f) false ((List.range 4).map (wide asked)))) ∧
      (freshSc s h 24 f →
        (fld f 11 9 ≤ 3 → buffered (.stmRel h f) true (narrow (leBytes n (sget k.a rd).toNat) true)) ∧
        (fld f 11 9 = 4 → buffered (.stmRel h f) true
          (narrow (leBytes 8 (sget k.a rd).toNat ++ leBytes 8 (sget k.a (rd + 1)).toNat) true)))

/-- Vector arithmetic and selection (R148, R150, R151): lane by lane on the widened sources, with the flags of every lane. -/
def Obligations.VectorArithmetic : Prop :=
  ∀ (h : Hdr) (f : BitVec 42) (s : State),
    let a := (coreGet s h.core).a
    let next := (coreGet s h.core).pc + 1
    let x := fun i => arithLane (vget a (fld f 32 28)) (fld f 17 14) (bitOf f.toNat 13) i
    let y := fun i => arithLane (vget a (fld f 27 23)) (fld f 17 14) (bitOf f.toNat 13) i
    let z := fun i => arithLane (vget a (fld f 22 18)) (fld f 17 14) (bitOf f.toNat 13) i
    let lanes := fun (g : Nat → W32 × Nat) => retired s h (vFlagged a (fld f 37 33) g) next
    let word := fun (r i : Nat) => lane (vget a r) i
    (soleVec s h 0 f → exec (.vnop h f) s = retired s h a next) ∧
    (soleVec s h 1 f → exec (.fadd h f) s = lanes (fun i => add32 (x i) (y i))) ∧
    (soleVec s h 2 f → exec (.fsub h f) s = lanes (fun i => sub32 (x i) (y i))) ∧
    (soleVec s h 3 f → exec (.fmul h f) s = lanes (fun i => mul32 (x i) (y i))) ∧
    (soleVec s h 4 f → exec (.ffma h f) s = lanes (fun i => fma32 (x i) (y i) (z i))) ∧
    (soleVec s h 5 f → exec (.fmin h f) s = lanes (fun i => (min32 (x i) (y i), 0))) ∧
    (soleVec s h 6 f → exec (.fmax h f) s = lanes (fun i => (max32 (x i) (y i), 0))) ∧
    (soleVec s h 7 f → exec (.fabs h f) s = lanes (fun i => (abs32 (x i), 0))) ∧
    (soleVec s h 8 f → exec (.fneg h f) s = lanes (fun i => (neg32 (x i), 0))) ∧
    (soleVec s h 9 f → exec (.fcmp h f) s =
      lanes (fun i => (if fcmp32 (fld f 12 10) (x i) (y i) then 0xFFFFFFFF#32 else 0, 0))) ∧
    (soleVec s h 10 f → exec (.sel h f) s = retired s h (vput a (fld f 37 33)
      (vbuild (fun i => if bitOf (word (fld f 22 18) i).toNat 31 then word (fld f 32 28) i else word (fld f 27 23) i))) next) ∧
    (soleVec s h 11 f → exec (.exp2 h f) s = lanes (fun i => exp2F (x i))) ∧
    (soleVec s h 12 f → exec (.log2 h f) s = lanes (fun i => log2F (x i))) ∧
    (soleVec s h 13 f → exec (.rcp h f) s = lanes (fun i => rcpF (x i))) ∧
    (soleVec s h 14 f → exec (.rsqrt h f) s = lanes (fun i => rsqrtF (x i))) ∧
    (soleVec s h 15 f → exec (.tanh h f) s = lanes (fun i => tanhF (x i)))

/-- Vector integers (R150): lane by lane, wrapping, without flags; shifts use the low five bits of vb. -/
def Obligations.VectorIntegers : Prop :=
  ∀ (h : Hdr) (f : BitVec 42) (s : State),
    let a := (coreGet s h.core).a
    let x := fun i => lane (vget a (fld f 32 28)) i
    let y := fun i => lane (vget a (fld f 27 23)) i
    let lanes := fun (g : Nat → W32) => retired s h (vput a (fld f 37 33) (vbuild g)) ((coreGet s h.core).pc + 1)
    let mask := fun (b : Bool) => if b then 0xFFFFFFFF#32 else 0
    (soleVec s h 19 f → exec (.itof h f) s = lanes (fun i => ofInt32 (x i).toInt)) ∧
    (soleVec s h 20 f → exec (.iadd h f) s = lanes (fun i => x i + y i)) ∧
    (soleVec s h 21 f → exec (.isub h f) s = lanes (fun i => x i - y i)) ∧
    (soleVec s h 22 f → exec (.imul h f) s = lanes (fun i => x i * y i)) ∧
    (soleVec s h 23 f → exec (.iand h f) s = lanes (fun i => x i &&& y i)) ∧
    (soleVec s h 24 f → exec (.ior h f) s = lanes (fun i => x i ||| y i)) ∧
    (soleVec s h 25 f → exec (.ixor h f) s = lanes (fun i => x i ^^^ y i)) ∧
    (soleVec s h 26 f → exec (.ishl h f) s = lanes (fun i => x i <<< ((y i).toNat % 32))) ∧
    (soleVec s h 27 f → exec (.ishr h f) s = lanes (fun i => x i >>> ((y i).toNat % 32))) ∧
    (soleVec s h 28 f → exec (.isar h f) s = lanes (fun i => (x i).sshiftRight ((y i).toNat % 32))) ∧
    (soleVec s h 29 f →
      (fld f 12 10 = 0 → exec (.icmp h f) s = lanes (fun i => mask (x i == y i))) ∧
      (fld f 12 10 = 1 → exec (.icmp h f) s = lanes (fun i => mask (x i != y i))) ∧
      (fld f 12 10 = 2 → exec (.icmp h f) s = lanes (fun i => mask (decide ((x i).toInt < (y i).toInt)))) ∧
      (fld f 12 10 = 3 → exec (.icmp h f) s = lanes (fun i => mask (decide ((y i).toInt ≤ (x i).toInt)))) ∧
      (fld f 12 10 = 4 → exec (.icmp h f) s = lanes (fun i => mask (decide ((x i).toNat < (y i).toNat)))) ∧
      (fld f 12 10 = 5 → exec (.icmp h f) s = lanes (fun i => mask (decide ((y i).toNat ≤ (x i).toNat)))))

/-- Movement between lanes, registers and the plate, and the reductions (R150, R152, R156). -/
def Obligations.VectorMovement : Prop :=
  ∀ (h : Hdr) (f : BitVec 42) (s : State),
    let a := (coreGet s h.core).a
    let next := (coreGet s h.core).pc + 1
    let vd := fld f 37 33
    let x := fun i => lane (vget a (fld f 32 28)) i
    let y := fun i => lane (vget a (fld f 27 23)) i
    let lanes := fun (g : Nat → W32) => retired s h (vput a vd (vbuild g)) next
    let red := fun (g : W32 → W32 → W32 × Nat) =>
      retired s h (nfSet (vput a vd (List.replicate 64 (redTree g (vbuild x)).1)) (redTree g (vbuild x)).2) next
    let ad := fun (base : W64) (ix : W32) => ((base.toNat + 4 * ix.toNat) % 2 ^ 64) / 4 * 4
    (soleVec s h 30 f → exec (.perm h f) s = lanes (fun i => lane (vget a (fld f 32 28)) ((y i).toNat % 64))) ∧
    (soleVec s h 31 f →
      (fld f 12 10 = 0 → exec (.vred h f) s = red add32) ∧
      (fld f 12 10 = 1 → exec (.vred h f) s = red (fun p q => (max32 p q, 0))) ∧
      (fld f 12 10 = 2 → exec (.vred h f) s = red (fun p q => (min32 p q, 0))) ∧
      (fld f 12 10 = 3 → exec (.vred h f) s = red (fun p q => (p + q, 0))) ∧
      (fld f 12 10 = 4 → exec (.vred h f) s = red (fun p q => (if p.toInt ≤ q.toInt then q else p, 0))) ∧
      (fld f 12 10 = 5 → exec (.vred h f) s = red (fun p q => (if p.toInt ≤ q.toInt then p else q, 0)))) ∧
    (soleVec s h 32 f → exec (.bcst h f) s =
      retired s h (vput a vd (List.replicate 64 (BitVec.ofNat 32 (sget a (fld f 32 28)).toNat))) next) ∧
    (soleVec s h 33 f → exec (.vext h f) s = retired s h (sput a vd (BitVec.ofNat 64 (x (fld f 17 12)).toNat)) next) ∧
    (soleVec s h 34 f → exec (.gath h f) s =
      lanes (fun i => BitVec.ofNat 32 (leNat (plateGet a (ad (sget a (fld f 22 18)) (x i)) 4)))) ∧
    (soleVec s h 35 f → exec (.scat h f) s = retired s h ((List.range 64).foldl (fun t i =>
      if bitOf f.toNat 17 = false ∨ bitOf (lane (vget a vd) i).toNat 31 = true then
        platePut t (ad (sget a (fld f 22 18)) (y i)) (leBytes 4 (x i).toNat) else t) a) next)

/-- Conversions, tally-word arithmetic and stipple draws (R54, R153 to R155, R158, R159): the results, the flags and the
stream's advance. -/
def Obligations.VectorConversions : Prop :=
  ∀ (h : Hdr) (f : BitVec 42) (s : State),
    let a := (coreGet s h.core).a
    let next := (coreGet s h.core).pc + 1
    let vd := fld f 37 33
    let c := fld f 17 14
    let st := fld f 7 2
    let st2 := fld f 13 8
    let bits := fun (n j : Nat) => drawBits (stipGet a n).key (stipGet a n).ctr j
    let q := 16 * fld f 17 16
    let an := twAnchor (sget a (fld f 27 23)).toNat
    (soleVec s h 16 f →
      let r := convRow c (fld f 10 9) (bitOf f.toNat 8) none (fun j => if fld f 10 9 = 2 then bits st j else 0) (vget a (fld f 32 28))
      let b := nfSet (segPut a c (fld f 13 11) vd (fld f 22 18) r.2.1 r.1) r.2.2
      (fld f 10 9 = 2 → exec (.cvtOut h f) s = retired s h (stipAdv b st 8) next) ∧
      (fld f 10 9 ≠ 2 → exec (.cvtOut h f) s = retired s h b next)) ∧
    (soleVec s h 17 f →
      let r := convIn c (byteAt ((vbytes (vget a (fld f 32 28))).drop (8 * fmtWidth c * fld f 13 11)))
        (byteAt ((vbytes (vget a (fld f 27 23))).drop (2 * fmtScaleBytes c * fld f 13 11)))
      exec (.cvtIn h f) s = retired s h (nfSet (vput a vd r.1) r.2) next) ∧
    (soleVec s h 18 f →
      let b := vFlagged a vd (fun i => ftoi32 (fld f 10 9) (if fld f 10 9 = 2 then bits st i else 0) (lane (vget a (fld f 32 28)) i))
      (fld f 10 9 = 2 → exec (.ftoi h f) s = retired s h (stipAdv b st 8) next) ∧
      (fld f 10 9 ≠ 2 → exec (.ftoi h f) s = retired s h b next)) ∧
    (soleVec s h 36 f →
      let l := (List.range 16).map (fun j => twIn an (lane (vget a (fld f 32 28)) (q + j)))
      exec (.twin h f) s = retired s h (nfSet (vput a vd (vofWords (l.map (fun x => x.1)))) (flagsOf l)) next) ∧
    (soleVec s h 37 f →
      let l := (List.range 16).map (fun j =>
        twOut an (fld f 15 14) (if fld f 15 14 = 2 then bits st2 j else 0) (vword (vget a (fld f 32 28)) j))
      let b := nfSet (vput a vd (vbuild (fun i => if q ≤ i ∧ i < q + 16 then (l.getD (i - q) (0, 0)).1 else lane (vget a vd) i)))
        (l.foldl (fun g x => flOr g x.2) 0)
      (fld f 15 14 = 2 → exec (.twout h f) s = retired s h (stipAdv b st2 2) next) ∧
      (fld f 15 14 ≠ 2 → exec (.twout h f) s = retired s h b next)) ∧
    (soleVec s h 38 f →
      let l := (List.range 16).map (fun j => twAdd (vword (vget a (fld f 32 28)) j) (vword (vget a (fld f 27 23)) j))
      exec (.twadd h f) s = retired s h (nfSet (vput a vd (vofWords (l.map (fun x => x.1)))) (flagsOf l)) next) ∧
    (soleVec s h 39 f →
      let n := if fld f 17 14 = 0 then 16 else fld f 17 14
      exec (.spd h f) s = retired s h (stipAdv (vput a vd (vofWords ((List.range n).map (fun d =>
        philox (stipGet a st2).key (((stipGet a st2).ctr + d) % 2 ^ 128))))) st2 n) next)

/-- Tensor instructions of the array, weight, drain, tally and recorder units (R79, R83, R162, R163 to R173): the bundle issues,
and the instruction starts where its operands pass; TNOP does nothing. A failing operand stops the core with its exception. -/
def Obligations.TensorStarts : Prop :=
  ∀ (h : Hdr) (f : BitVec 42) (s : State),
    let k := coreGet s h.core
    let queued := fun op => Host.Outcome.next (coreSet s h.core (tenQueued k (slotWord 42 op f) 0))
    let checked := fun (i : Instr) (op : Nat) =>
      (tCheck k.a (tenEntry k (slotWord 42 op f)) = 0 → exec i s = queued op) ∧
      (tCheck k.a (tenEntry k (slotWord 42 op f)) ≠ 0 → exec i s = .next (coreSet s h.core { k with
        pc := k.pc + 1, tqn := k.tqn + 1, st := .stopped, exc := tCheck k.a (tenEntry k (slotWord 42 op f)), excB := k.pc,
        rep := false, lastNf := k.a.nflags }))
    (freshTen s h 0 f → exec (.tnop h f) s = retired s h k.a (k.pc + 1)) ∧
    (freshTen s h 1 f → checked (.wld h f) 1) ∧
    (freshTen s h 2 f → checked (.wldF h f) 2) ∧
    (freshTen s h 3 f → exec (.wldFv h f) s = queued 3) ∧
    (freshTen s h 4 f → checked (.mma h f) 4) ∧
    (freshTen s h 5 f → checked (.mmaF h f) 5) ∧
    (freshTen s h 6 f → exec (.acz h f) s = queued 6) ∧
    (freshTen s h 7 f → checked (.drn h f) 7) ∧
    (freshTen s h 8 f → exec (.tlz h f) s = queued 8) ∧
    (freshTen s h 9 f → exec (.tlv h f) s = queued 9) ∧
    (freshTen s h 10 f → exec (.tlr h f) s = queued 10) ∧
    (freshTen s h 11 f → exec (.tlm h f) s = queued 11) ∧
    (freshTen s h 16 f → exec (.srp h f) s = queued 16) ∧
    (freshTen s h 17 f → exec (.srr h f) s = queued 17)

/-- TENSOR_COMPLETE (R83, R98, R107, R163 to R173): the started instruction of a unit makes its effect on the core's
architectural state and leaves the tensor queue. -/
def Obligations.TensorCompletes : Prop :=
  ∀ (c : Nat) (e : TEntry) (s : State), tenRunning s c e →
    let k := coreGet s c
    let done := fun (u : Nat) (a : Arch) => exec (.tensorComplete c u) s = .next (coreSet s c { k with tq := [], a := a })
    let tag := bitsOf e.w 37 30
    let slot := bitsOf e.w 37 34
    (vOp e.w = 1 → done 1 (effWld e k.a)) ∧
    (vOp e.w = 2 → done 1 (effWldF e k.a)) ∧
    (vOp e.w = 3 → done 1 (effWldFv e k.a)) ∧
    (vOp e.w = 4 → done 0 (effMma (tOp e 2 / 32) e k.a)) ∧
    (vOp e.w = 5 → done 0 (effMmaF (tOp e 2 / 32) e k.a)) ∧
    (vOp e.w = 6 → done 0 ((List.range (countOf (bitsOf e.w 31 28) 16)).foldl
      (fun a i => accZeroRow a (bitsOf e.w 37 36) (bitsOf e.w 35 32 + i)) k.a)) ∧
    (vOp e.w = 7 → done 2 (effDrn (countOf (bitsOf e.w 31 28) 16) e k.a)) ∧
    (vOp e.w = 8 → done 3 ((List.range 64).foldl (fun a j => tallyPut a slot j Tally.zero) k.a)) ∧
    (vOp e.w = 9 → done 3 (tallyFeed k.a slot e.va)) ∧
    (vOp e.w = 10 ∧ bitOf e.w 28 = true → done 3 (vput k.a (bitsOf e.w 33 29)
      ((List.range 64).map (fun j => tallyQty (tallyGet k.a slot j) (bitsOf e.w 27 25))))) ∧
    (vOp e.w = 10 ∧ bitOf e.w 28 = false →
      let r := mergeTree ((List.range 64).map (fun j => tallyGet k.a slot j))
      done 3 (nfSet (vput k.a (bitsOf e.w 33 29) (tallyRecord r.1)) r.2)) ∧
    (vOp e.w = 11 →
      let r := (tallyGet k.a slot 0).merge (recordTally e.va)
      done 3 (nfSet (tallyPut k.a slot 0 r.1) r.2)) ∧
    (vOp e.w = 16 → done 6 (tagPut k.a tag (tagPush (tagGet k.a tag)))) ∧
    (vOp e.w = 17 → done 6 (vput k.a (bitsOf e.w 29 25) (tagRecord (tagGet k.a tag))))

/-- SRT with its 256-byte STP (R129, R173): the vector register is stored to the plate and updates the tag, as one bundle. -/
def Obligations.RecorderStores : Prop :=
  ∀ (h : Hdr) (f : BitVec 26) (g : BitVec 42) (s : State),
    let k := coreGet s h.core
    let v := vget k.a (fld f 21 17)
    let ad := (sget k.a (fld f 16 12) + BitVec.ofInt 64 (sextInt 8 (fld f 7 0) * 256)).toNat / 256 * 256
    let tag := fld g 37 30
    Live s → h.last = true → h.core < 2400 → coreFree k = true → k.latch = slotPut slots0 .sc (slotWord 26 19 f) →
      fld f 11 9 = 5 → bundleReady k (slotPut k.latch .ten (slotWord 42 18 g)) = true →
      guardOk k.a (fld f 25 22) = true → guardOk k.a (fld g 41 38) = true →
      exec (.srt h g) s = .next (coreSet s h.core { k with
        latch := slots0, pc := k.pc + 1
        a := tagPut (platePut k.a ad (vbytes v)) tag (tagUpdate (tagGet k.a tag) v) })

/-- Chain instructions of one word toward a core of the complex (R171, R182, R192): CHS sends a plate word on the downstream
wire, CHR takes the oldest received word into the plate, CHA sends the sum of the two, each with TALLY_SATURATED; nothing else
changes. -/
def Obligations.ChainWords : Prop :=
  ∀ (h : Hdr) (f : BitVec 42) (s : State) (l : Launch) (d u x : Nat) (r : List Nat),
    let k := coreGet s h.core
    let slot := fld f 37 34
    let src := (sget k.a (fld f 25 21)).toNat
    let dst := (sget k.a (fld f 20 16)).toNat
    let y := leNat (plateGet k.a src 16)
    let got := tabSet (fun _ => []) k.recv slot r
    let wired := fun (w : Nat) =>
      { coreGet s d with wire := tabSet (fun _ => []) (coreGet s d).wire slot (wireGet (coreGet s d) slot ++ [w]) }
    let sends := fun (i : Instr) (k' : Core) (w : Nat) => ∃ t, exec i s = .next t ∧ coreGet t h.core = k' ∧ coreGet t d = wired w ∧
      (∀ c, c ≠ h.core → c ≠ d → coreGet t c = coreGet s c) ∧ { t with cores := s.cores } = s
    let room := (recvGet (coreGet s d) slot).length + (wireGet (coreGet s d) slot).length < 64
    launchOf s h.core = some l → fld f 33 26 = 1 → d ≠ h.core → u ≠ h.core →
      (chNbr l h.core slot false = some (.core d) → room → freshTen s h 12 f → src + 16 ≤ 0x180000 →
        sends (.chs h f) { tenQueued k (slotWord 42 12 f) 1 with a := nfSet k.a (satFlag y) } y) ∧
      (chNbr l h.core slot true = some (.core u) → (coreGet s u).tq = [] → recvGet k slot = x :: r →
        freshTen s h 13 f → dst + 16 ≤ 0x180000 →
        exec (.chr h f) s = .next (coreSet s h.core { tenQueued k (slotWord 42 13 f) 1 with
          recv := got, a := nfSet (platePut k.a dst (leBytes 16 x)) (satFlag x) })) ∧
      (chNbr l h.core slot true = some (.core u) → chNbr l h.core slot false = some (.core d) → (coreGet s u).tq = [] →
        room → recvGet k slot = x :: r → freshTen s h 14 f → src + 16 ≤ 0x180000 → fld f 15 15 = 0 →
        sends (.cha h f) { tenQueued k (slotWord 42 14 f) 1 with
          recv := got, a := nfSet k.a (flOr (twAdd x y).2 (satFlag (twAdd x y).1)) } (twAdd x y).1)

/-- MVI (R172, R200): the 128-byte descriptor at its plate address becomes a stream that waits at the mover it names, and the
entry stays in the tensor queue until the mover accepts it. -/
def Obligations.MoverIssue : Prop :=
  ∀ (h : Hdr) (f : BitVec 42) (s : State),
    let k := coreGet s h.core
    let m := 4 * (h.core / 50) + fld f 37 36
    let p := (sget k.a (fld f 34 30)).toNat / 128 * 128
    freshTen s h 15 f → fld f 35 35 = 0 → p + 128 ≤ 0x180000 → moverServing s m = true →
      ∃ t st, exec (.mvi h f) s = .next t ∧
        coreGet t h.core = { k with pc := k.pc + 1, tq := [{ tenEntry k (slotWord 42 15 f) with prog := 1 }], tqn := k.tqn + 1 } ∧
        (∀ d, d ≠ h.core → coreGet t d = coreGet s d) ∧
        moverGet t m = { moverGet s m with waiting := (moverGet s m).waiting ++ [st] } ∧
        st.desc = plateGet k.a p 128 ∧ st.core = some h.core ∧ st.root = k.root ∧ st.tile = 0 ∧
        t.tiers = s.tiers ∧ t.regs = s.regs

/-- LOAD_DATA_RETURN (R110, R137, R305): a core's one outstanding load, its lines come, writes its destination in the form of its
width, or raises POISONED_DATA at its bundle; a load whose lines have not all come goes on waiting. A 16-byte load of the floor whose
second half is still to be read reads it now (R309). -/
def Obligations.LoadsReturn : Prop :=
  ∀ (c : Nat) (s : State) (l : Load),
    let k := coreGet s c
    let all := (secondHalf s c l).parts
    let d := all.flatMap (fun p => match p.got with | some x => x.1 | none => [])
    let n := smSize l.width
    let b := (d.drop (l.pa % 64)).take n
    let wrote := fun (a : Arch) => exec (.loadDataReturn c l.tag) s = .next (coreSet s c { k with loads := [], a := a })
    Live s → c < 2400 → coreFree { k with loads := [] } = true → k.loads = [l] → (l.kind = .plain ∨ l.kind = .acq ∨ l.kind = .nc) →
      (l.parts.any (fun p => p.got.isNone) = true → exec (.loadDataReturn c l.tag) s = .next s) ∧
      (all.all (fun p => (p.got.getD ([], true)).2 == false) = true →
        (l.width ≤ 3 ∧ l.sx = false → wrote (sput k.a l.rd (BitVec.ofNat 64 (leNat b)))) ∧
        (l.width ≤ 3 ∧ l.sx = true → wrote (sput k.a l.rd (BitVec.ofInt 64 (sextInt (8 * n) (leNat b))))) ∧
        (l.width = 4 → wrote (sput (sput k.a l.rd (BitVec.ofNat 64 (leNat (b.take 8)))) (l.rd + 1) (BitVec.ofNat 64 (leNat ((b.drop 8).take 8))))) ∧
        (l.width = 5 → wrote (vput k.a l.rd (vofBytes d)))) ∧
      (l.parts.all (fun p => p.got.isSome) = true → all.any (fun p => (p.got.getD ([], false)).2) = true → k.latch = slots0 →
        exec (.loadDataReturn c l.tag) s = .next (coreSet s c { k with
          loads := [], st := .stopped, exc := 10, excB := l.bundle, rep := false, lastNf := k.a.nflags }))

/-- The store buffer (R24, R295, R303): an entry whose time is over begins to drain and asks for its line in M once it has the
credits, for the floor one of the host pool, and a store whose
grove's slice holds the line in M is performed there: the slice's line takes the entry's bytes, the core's own L1 may take them, and a floor
line joins the core's list (R261, R307). -/
def Obligations.StoresPerform : Prop :=
  ∀ (c : Nat) (s : State) (e : SbEntry), oneStore s c e →
    let k := coreGet s c
    let g := c / 50
    (e.draining = false → l2st s g e.line = 2 →
      exec (.sbEntryTimeout c e.id) s = .next (coreSet s c { k with sb := [{ e with draining := true, req := e.req || hostRoom s e.line }] })) ∧
    (e.draining = false → e.req = false → hostRoom s e.line = false →
      exec (.sbEntryTimeout c e.id) s = .next (coreSet s c { k with sb := [{ e with draining := true }] })) ∧
    (e.draining = false → l2st s g e.line = 0 → mshrOf s g e.line = none → lineLeaving s e.line = false →
      e.req = true ∨ hostRoom s e.line = true →
      ∃ t, exec (.sbEntryTimeout c e.id) s = .next t ∧ coreGet t c = { k with sb := [{ e with draining := true, req := true }] } ∧
        t.coh.mshr = s.coh.mshr ++ [⟨g, e.line, if e.mask = fullMask then .own else .rdM, 0, 0, false, e.sel, true⟩] ∧
        t.tiers = s.tiers ∧ t.regs = s.regs) ∧
    (∀ w, e.draining = true → e.req = true → l2find s g e.line = some w → (l2get s g e.line w).st = 2 →
      ∃ t, exec (.storePerformed c e.id) s = .next t ∧
        coreGet t c = { k with sb := [], l1 := (coreGet t c).l1, flines := (coreGet t c).flines, fover := (coreGet t c).fover } ∧
        (l1On s g = false → lineTier e.line ≠ 2 → coreGet t c = { k with sb := [] }) ∧
        (lineTier e.line = 2 → k.flines.length < 32 → (coreGet t c).flines.contains e.line = true) ∧
        l2get t g e.line w = { l2get s g e.line w with
          data := mergeBytes e.mask e.data (l2get s g e.line w).data, written := true, sel := e.sel,
          poison := e.bad || ((l2get s g e.line w).poison && e.mask != fullMask) } ∧
        t.tiers = s.tiers ∧ t.regs = s.regs)

/-- What else reaches a core (R87, R88, R114, R117, R118, R140, R182, R183): the exception report, the clock gate, a plate write of
the fabric, chain words, and the read that WAITM repeats. -/
def Obligations.CoreEvents : Prop :=
  ∀ (c : Nat) (s : State), Live s → c < 2400 →
    let k := coreGet s c
    (k.exc ≠ 0 → k.rep = false → launchOf s c = none → exec (.exceptionReport c) s = .next (coreSet s c { k with rep := true })) ∧
    (∀ l, k.exc ≠ 0 → k.rep = false → k.st = .stopped → coreFree { k with st := .running } = true → launchOf s c = some l → l.cores = [c] →
      l.cut = false → l.first = none →
      exec (.exceptionReport c) s = .next { coreSet s c { k with rep := true } with
        qsu := { s.qsu with launches := s.qsu.launches.map (fun x => if x.cores.contains c then { x with first := some (k.exc, c, k.excB) } else x) } }) ∧
    (k.st = .idle → k.sb = [] → exec (.coreClockGate c) s = .next (coreSet s c { k with gated := true })) ∧
    (∀ addr data, coreFree k = true → addr + data.length ≤ 0x180000 → addr < 0x180000 →
      exec (.hintWrite c addr data) s = .next (coreSet s c { k with a := platePut k.a addr data })) ∧
    (∀ slot w r, coreFree k = true → wireGet k slot = w :: r → (recvGet k slot).length < 64 →
      exec (.chainWordArrival c slot) s = .next (coreSet s c { k with
        wire := tabSet (fun _ => []) k.wire slot r, recv := tabSet (fun _ => []) k.recv slot (recvGet k slot ++ [w]) })) ∧
    (∀ slot l m id i, coreFree k = true → cellGet k slot ≠ [] → launchOf s c = some l → chNbr l c slot false = some (.ride m id) →
      maskUp s m = [i] → portReady (portGet s i) 1 →
      exec (.chainCellCloseTimeout c slot) s = .next (sendsCell (coreSet s c { k with
          cell := tabSet (fun _ => []) k.cell slot [], rot := tabSet (fun _ => 0) k.rot slot (i + 1) }) i 1
        (chainPayload id (period s l.comp) ((tabGet (fun _ => 0) k.rsent slot + 65536 - (cellGet k slot).length) % 65536) (cellGet k slot)) m)) ∧
    (∀ (f : BitVec 26) lf, coreFree { k with fetched := [], waitTry := false } = true → k.waitTry = true →
      k.fetched = [slotPut slots0 .sc (slotWord 26 27 f)] → guardOk k.a (fld f 25 22) = true →
      accessOk k (sget k.a (fld f 16 12)).toNat 8 false lf →
      ∃ t, exec (.waitmReread c) s = .next t ∧ (coreGet t c).a = k.a ∧ (coreGet t c).pc = k.pc ∧ (coreGet t c).fetched = k.fetched ∧
        t.tiers = s.tiers ∧ t.regs = s.regs ∧
        ∃ l ∈ (coreGet t c).loads, loadIs l .wait k.ldn 0 3 false (sget k.a (fld f 16 12)).toNat k.pc lf)

/-- R331's first checks, for every command of the queues: a command with a reserved bit or a range wrong completes with
BAD_COMMAND, a privileged command of a queue without privilege with NOT_PRIVILEGED, and a descriptor that came poisoned with
BAD_ADDRESS; none has any other effect on cores, movers or launches. -/
def Obligations.QueueCommandsAreChecked : Prop :=
  ∀ (q : Nat) (d : List Byte) (s : State), queueTurn s q d →
    let k := queueGet s q
    let answers := fun (i : Instr) (st : Nat) => queueRuns i s q (fun t => completes s t q d st 0 0)
    let commands : List (Nat × Instr) := [(0, .nopCmd q), (1, .moveCmd q), (2, .launchCmd q), (3, .signalCmd q), (4, .waitCmd q), (5, .clearCmd q),
      (6, .proofCmd q), (7, .restoreCmd q), (8, .resliceCmd q), (9, .xltSync q), (10, .xltInval q), (11, .biasSet q), (12, .windowMove q)]
    ∀ p ∈ commands, dCmd d = p.1 → (p.1 = 1 → moveOwn q s d = true) → (p.1 = 2 → launchOwn q s d = true) →
      (p.1 = 3 → fenceOwn q true s d = true) → (6 ≤ p.1 ∧ p.1 ≤ 8 → rangerUp s = true) → (p.1 = 10 → s.xlt.drains.length < 3) →
      (d.length = 128 → bodyOk d = false → answers p.2 0x01) ∧
      (bodyOk d = true → needsPriv k d = true → k.priv = false → answers p.2 0x02) ∧
      (p.1 = 0 → d.length < 128 → answers p.2 0x03)

/-- Queue commands that complete as they run (R214, R249, R252, R329, R340, R341, R343): NOP, WINDOW_MOVE, XLT_SYNC, SIGNAL and
WAIT, with their effects and their records, and the statuses that name why they had none. -/
def Obligations.QueueCommandsComplete : Prop :=
  ∀ (q : Nat) (d : List Byte) (s : State), queueTurn s q d → bodyOk d = true →
    let k := queueGet s q
    let w := dWord d
    let does := fun (i : Instr) (st d0 d1 : Nat) (P : State → Prop) => queueRuns i s q (fun t => completes s t q d st d0 d1 ∧ P t)
    (dCmd d = 0 → does (.nopCmd q) 0 0 0 (fun t => t.xlt = s.xlt ∧ t.tiers.winBase = s.tiers.winBase ∧ t.tiers.bias = s.tiers.bias)) ∧
    (dCmd d = 12 → k.priv = true →
      (winValid s (w 1) (w 2) = true → does (.windowMove q) 0 0 0 (fun t => t.tiers.winBase = w 1 ∧ t.tiers.winSel = w 2)) ∧
      (winValid s (w 1) (w 2) = false →
        does (.windowMove q) 0x25 0 0 (fun t => t.tiers.winBase = s.tiers.winBase ∧ t.tiers.winSel = s.tiers.winSel))) ∧
    (dCmd d = 9 → (w 1 = k.root ∨ k.priv = true) →
      let act := regGet s (0x42000 + 8 * w 1)
      let hdr := (paRead s 0 (rootHdr s (w 1)) 64).1
      (regField s (0x41000 + 8 * w 1) 63 63 = 0 ∨ l1Ok (fieldAt hdr 8 8) = false →
        does (.xltSync q) 0x27 act 0 (fun t => t.xlt = s.xlt ∧ regGet t (0x42000 + 8 * w 1) = act)) ∧
      (regField s (0x41000 + 8 * w 1) 63 63 = 1 → l1Ok (fieldAt hdr 8 8) = true →
        (fieldAt hdr 0 8 ≠ w 2 ∨ fieldAt hdr 0 8 ≤ act →
          does (.xltSync q) 0x24 act 0 (fun t => t.xlt = s.xlt ∧ regGet t (0x42000 + 8 * w 1) = act)) ∧
        (fieldAt hdr 0 8 = w 2 → act < w 2 → does (.xltSync q) 0 (w 2) 0 (fun t =>
          tabGet (fun _ => 0) t.xlt.l1 (w 1) = fieldAt hdr 8 8 + 1 ∧ regGet t (0x42000 + 8 * w 1) = w 2 ∧ t.xlt.cache = s.xlt.cache)))) ∧
    (∀ lf, cachedAt s k.root (w 1) lf → eR lf.ent = true → eSel lf.ent = 0 → paTier (leafPA lf (w 1)) = 0 → leafPA lf (w 1) % 8 = 0 →
      leafPA lf (w 1) < 2 ^ 44 → rangeHeld s qsuSrc 0 (leafPA lf (w 1)) 8 false = false →
      let pa := leafPA lf (w 1)
      let cur := leNat (paRead s 0 pa 8).1
      (dCmd d = 3 → eW lf.ent = true → rangeHeld s qsuSrc 0 pa 8 true = false → (∀ p ∈ s.qsu.queues, p.1 = q ∨ p.2.run = []) →
        (cur < w 2 → w 2 < 2 ^ 64 - 1 → does (.signalCmd q) 0 cur 0 (fun t => paRead t 0 pa 8 = (leBytes 8 (w 2), false))) ∧
        (cur = w 2 → does (.signalCmd q) 0 cur 0 (fun t => paRead t 0 pa 8 = paRead s 0 pa 8))) ∧
      (dCmd d = 4 →
        (w 2 ≤ cur → does (.waitCmd q) 0 cur 0 (fun t => paRead t 0 pa 8 = paRead s 0 pa 8)) ∧
        (cur < w 2 → queueRuns (.waitCmd q) s q (fun t => t = readNotes (begunState s q d) pa 8)) ∧
        (w 2 ≤ cur → ∃ t, exec (.fencePoll q) (begunState s q d) = .next t ∧ completes s t q d 0 cur 0) ∧
        (cur < w 2 → exec (.fencePoll q) (begunState s q d) = .next (readNotes (begunState s q d) pa 8))))

/-- Queue commands that go on after they have run (R227, R228, R249): XLT_INVAL removes the translations it names from the central
cache and every core's buffer and leaves a drain for the epoch, which completes once nothing of that epoch is outstanding; BIAS_SET
holds its pages until its write-back is done, when their bits change. -/
def Obligations.QueueCommandsThatGoOn : Prop :=
  ∀ (q : Nat) (d : List Byte) (s : State), queueTurn s q d → bodyOk d = true →
    let k := queueGet s q
    let w := dWord d
    let keeps := fun (l : Leaf) => !invalHit l (w 1 % 256) (bitOf (w 1) 8) (w 2) (w 3)
    let drained := fun (e : Nat) => { begunState s q d with xlt := { s.xlt with drains := [⟨q, k.started, e⟩] } }
    let writing := queueSet s q { begun k d with run := [⟨k.started, d, 1, 0, 0⟩] }
    (dCmd d = 10 → (w 1 % 256 = k.root ∨ k.priv = true) → s.xlt.drains.length < 3 →
      queueRuns (.xltInval q) s q (fun t => queueGet t q = begun k d ∧
        t.xlt = { s.xlt with cache := s.xlt.cache.filter keeps, epoch := s.xlt.epoch + 1, drains := s.xlt.drains ++ [⟨q, k.started, s.xlt.epoch⟩] } ∧
        (∀ c, coreGet t c = { coreGet s c with tbuf := (coreGet s c).tbuf.filter keeps }) ∧ t.tiers = s.tiers ∧ t.regs = s.regs) ∧
      (∀ e, epochBusy s e = false → ∃ t, exec .xltInvalDrainDone (drained e) = .next t ∧ completes s t q d 0 0 0 ∧ t.xlt.drains = []) ∧
      (∀ e, epochBusy s e = true → exec .xltInvalDrainDone (drained e) = .next (drained e))) ∧
    (dCmd d = 11 → k.priv = true →
      (67584 < w 1 + w 2 → queueRuns (.biasSet q) s q (fun t => completes s t q d 0x26 0 0 ∧ t.tiers.bias = s.tiers.bias)) ∧
      (w 1 + w 2 ≤ 67584 → queueRuns (.biasSet q) s q (fun t => t = writing ∧
        ∀ line, lineTier line = 0 → w 1 ≤ line / 2 ^ 20 → line / 2 ^ 20 < w 1 + w 2 → lineHeld t 0 line false = true)) ∧
      (resting s → ∃ t, exec (.biasWritebackDone q) writing = .next t ∧ recorded s t q d 0 0 0 ∧
        (∀ c, coreGet t c = { coreGet s c with l1 := (coreGet t c).l1 }) ∧
        ∀ p, t.tiers.bias.contains p = if w 1 ≤ p ∧ p < w 1 + w 2 then w 3 == 1 else s.tiers.bias.contains p))

/-- A CLEAR on a compartment at rest, and its steps that only pass on (R32, R37, R328, R333): the clearing takes its first step, what
the queue had fetched is given back to the ring, and each end of a step leads to the next. -/
def Obligations.ClearingsStep : Prop :=
  (∀ (q : Nat) (d : List Byte) (s : State), queueTurn s q d → bodyOk d = true → dCmd d = 5 → resting s → s.movers = [] →
    s.qsu.launches = [] → s.host.defer = [] → (∀ p ∈ s.qsu.queues, p.1 = q ∨ p.2.run = []) →
    let k := queueGet s q
    let whole := bitOf (dWord d 1) 0
    (whole = true → k.priv = true) → (whole = false → k.comp < 48) →
      queueRuns (.clearCmd q) s q (fun t =>
        t.qsu.clears = [⟨q, k.started, whole, if whole then List.range 48 else [k.comp], 1, false⟩] ∧
        queueGet t q = { begun k d with
          fetched := k.started + 1, tries := 0, kept := false
          st := if k.st = .idle ∨ k.st = .active then (if k.tail = k.started + 1 then .idle else .active) else k.st } ∧
        t.cores = s.cores ∧ t.tiers = s.tiers ∧ t.regs = s.regs)) ∧
  (∀ (q : Nat) (s : State) (c : Clearing), Live s → q < 1024 → s.qsu.clears = [c] → c.q = q → (c.step = 1 ∨ c.step = 5 ∨ c.step = 6) →
    exec (.clearingStepDone q) s = .next { s with qsu := { s.qsu with clears := [{ c with step := c.step + 1 }] } })

/-- A queue engine's search for work (R322 to R327, R358): the slot's TAIL and HEAD are taken, a descriptor that carries its check
words is fetched, one that does not is read again, a wake that comes meanwhile is kept, and an overrun parks the queue. -/
def Obligations.QueuesFetch : Prop :=
  ∀ (q : Nat) (s : State), queueFetches s q →
    let k := queueGet s q
    let line := slotLine s k
    let tail := fieldAt line (k.slot % 64) 8
    let head := fieldAt line (k.slot % 64 + 8) 8
    let seen := { k with seen := line, cplHead := head }
    let headOk := (k.completed + 2 ^ 64 - head) % 2 ^ 64 ≤ 2 ^ k.clog
    let d := (descRead s k k.fetched).1
    let under := queueSet s q { k with tries := 1 }
    (tail = k.fetched % 2 ^ 64 → headOk → exec (.queueWake q) s = .next (queueSet s q { seen with tail := k.fetched, st := .idle })) ∧
    (tail = (k.fetched + 1) % 2 ^ 64 → headOk → k.st ≠ .cplFull → descOk d k.fetched k.rlog = true →
      exec (.queueWake q) s = .next (queueSet (descNote s k k.fetched) q
        { seen with tail := k.fetched + 1, fetched := k.fetched + 1, buf := [d], st := .idle })) ∧
    (tail = (k.fetched + 1) % 2 ^ 64 → headOk → k.st ≠ .cplFull → descOk d k.fetched k.rlog = false →
      exec (.queueWake q) s = .next (queueSet (descNote s k k.fetched) q { seen with tail := k.fetched + 1, tries := 1, st := .active })) ∧
    (2 ^ k.rlog < (tail + 2 ^ 64 - k.fetched % 2 ^ 64) % 2 ^ 64 →
      ∃ t, exec (.queueWake q) s = .next t ∧ queueGet t q = { k with seen := line, st := .overrun } ∧ t.cores = s.cores ∧ t.movers = s.movers) ∧
    (2 ^ k.clog < (k.completed + 2 ^ 64 - head) % 2 ^ 64 → tail = k.fetched % 2 ^ 64 →
      ∃ t, exec (.queueWake q) s = .next t ∧ queueGet t q = { k with seen := line, st := .overrun } ∧ t.cores = s.cores ∧ t.movers = s.movers) ∧
    (∀ n, 0 < n → n < 8 → descOk d k.fetched k.rlog = false →
      exec (.descReread q) (queueSet s q { k with tries := n }) = .next (queueSet (descNote s k k.fetched) q { k with tries := n + 1 })) ∧
    (∀ n, 0 < n → exec (.queueWake q) (queueSet s q { k with tries := n }) = .next (queueSet s q { k with tries := n, kept := true })) ∧
    (descOk d k.fetched k.rlog = false → k.kept = false → ∃ t, exec (.descReread q) (queueSet s q { k with tries := 8 }) = .next t ∧
      queueGet t q = { k with st := .notReady } ∧ t.cores = s.cores ∧ t.movers = s.movers) ∧
    (descOk d k.fetched k.rlog = true → k.tail = k.fetched + 1 →
      exec (.descReread q) under = .next (queueWake (queueSet (descNote s k k.fetched) q
        { k with fetched := k.fetched + 1, buf := [d], st := .idle, kept := false }) q)) ∧
    (regField s 0x30000 15 0 ≠ 0 → s.qsu.evOn = false → s.qsu.queues = [(q, k)] →
      (line ≠ k.seen → exec .fallbackPoll s = .next (queueWake s q)) ∧ (line = k.seen → exec .fallbackPoll s = .next s))

/-- MOVE and LAUNCH (R111, R112, R118, R180, R197, R330, R331): a MOVE hands its descriptor to the mover it names; a LAUNCH puts the
kernel into its compartment's cores, which are set up as R111 says once the image is in and start grove by grove as the ramp admits
them (R29), the lowest at once where nothing has been admitted in the interval; and it completes with the first
exception or the flags once every core is done. -/
def Obligations.MovesAndLaunches : Prop :=
  ∀ (q : Nat) (d : List Byte) (s : State), queueTurn s q d → bodyOk d = true →
    let k := queueGet s q
    let w := dWord d
    let b := leaveClear (begunState s q d) k.comp
    let cs := compCores s k.comp
    (dCmd d = 1 →
      (moveSel s k d = none → queueRuns (.moveCmd q) s q (fun t => completes s t q d 0x08 0 0)) ∧
      (∀ m desc v, moveSel s k d = some m → moverFree s m = true → readArg b k.root (w 1) 128 = (some desc, v) →
        queueRuns (.moveCmd q) s q (fun t => queueGet t q = begun k d ∧ t.cores = s.cores ∧ t.tiers = s.tiers ∧
          (∀ n, n ≠ m → moverGet t n = moverGet s n) ∧
          ∃ st, moverGet t m = { cur := none, waiting := [st] } ∧ st.desc = desc ∧ st.q = q ∧ st.idx = k.started ∧ st.core = none ∧
            st.root = k.root ∧ st.comp = k.comp ∧ st.tile = 0 ∧ st.tdone = 0))) ∧
    (dCmd d = 2 → launchOwn q s d = true →
      (k.comp < 48 → cs = [] → queueRuns (.launchCmd q) s q (fun t => completes s t q d 0x08 0 0)) ∧
      (∀ image lf chains v1 v2 v, resting s → k.comp < 48 → cs ≠ [] → readArg b k.root (w 1) (16 * w 4) = (some image, v1) →
        argLeaf v1 k.root (w 2) = (some lf, v2) →
        (w 3 = 0 ∧ chains = List.replicate 256 0 ∧ v = v2 ∨ w 3 ≠ 0 ∧ readArg v2 k.root (w 3) 256 = (some chains, v)) →
        (2048 < w 4 → queueRuns (.launchCmd q) s q (fun t => completes s t q d 0x04 0 0)) ∧
        (w 4 ≤ 2048 → chainOk v (compGroves s k.comp) chains = false → queueRuns (.launchCmd q) s q (fun t => completes s t q d 0x22 0 0)) ∧
        (w 4 ≤ 2048 → chainOk v (compGroves s k.comp) chains = true → queueRuns (.launchCmd q) s q (fun t =>
          queueGet t q = begun k d ∧ t.tiers = s.tiers ∧ t.movers = s.movers ∧
          (∀ c, coreGet t c = if c ∈ cs then { coreGet s c with
              st := .loading, ibuf := tabPut [] 0 image, klen := image.length / 16, gated := false, exc := 0, excB := 0, rep := false, lastNf := 0 }
            else coreGet s c) ∧
          t.qsu.launches = s.qsu.launches ++ [⟨q, k.started, k.comp, compGroves s k.comp, cs, false, chains, none, false, false, []⟩])))) ∧
    (∀ l, s.qsu.launches = [] → l.q = q → l.idx = k.started → l.cut = false →
      let at_ := { begunState s q d with qsu := { (begunState s q d).qsu with launches := [l] } }
      (l.loaded = false → ∃ t, exec (.launchImageLoaded q) at_ = .next t ∧ t.qsu.launches = [{ l with loaded := true }] ∧
        t.tiers = s.tiers ∧ t.regs = s.regs ∧
        ∀ c, if c ∈ l.cores ∧ (coreGet s c).st = .loading then
            let x := coreGet t c
            (x.st = .running ∨ x.st = .loading) ∧ x.pc = 0 ∧ x.root = k.root ∧ x.tq = [] ∧ x.ibuf = (coreGet s c).ibuf ∧ x.a.vreg = [] ∧ x.a.preg = 0 ∧
            x.a.nflags = 0 ∧ sget x.a 1 = BitVec.ofNat 64 (coreGet s c).logical ∧ sget x.a 2 = BitVec.ofNat 64 (groveOf c) ∧
            sget x.a 4 = BitVec.ofNat 64 l.groves.length ∧ sget x.a 6 = BitVec.ofNat 64 (w 2) ∧ sget x.a 7 = 0 ∧
            x.a.acc = (coreGet s c).a.acc ∧ x.a.plate = (coreGet s c).a.plate ∧
            (s.pwr.rampUsed = 0 → (∀ e ∈ l.cores, (coreGet s e).st = .loading → groveOf c ≤ groveOf e) → x.st = .running)
          else coreGet t c = coreGet s c) ∧
      (l.loaded = true → l.links = [] → l.cores.all (coreDone s) = true → l.streamAbort = false →
        let nf := launchFlags s l
        (l.first = none → ∃ t, exec (.launchComplete q) at_ = .next t ∧ completes s t q d (if bitOf nf 6 then 0x21 else 0) (nf * 2 ^ 48) 0) ∧
        (∀ x c bd, l.first = some (x, c, bd) →
          ∃ t, exec (.launchComplete q) at_ = .next t ∧ completes s t q d 0x20 (nf * 2 ^ 48 + (x * 2 ^ 40 + c * 2 ^ 28 + bd % 2048 * 2 ^ 17)) 0)))

/-- PROOF, RESTORE and RESLICE (R469 to R474, R477, R479, R486, R489): each starts only under its checks. A PROOF takes the next
generation and begins its capture, telling the partner or asking the storage target for its headers; a page that is written is copied
aside first; once captured, the image has its front and streams. A RESTORE asks its target for a slot's header. A RESLICE whose one
piece goes to memory writes it and completes. -/
def Obligations.ProofCommandsStart : Prop :=
  ∀ (q : Nat) (d : List Byte) (s : State), queueTurn s q d → bodyOk d = true → (queueGet s q).priv = true → rangerUp s = true →
    let k := queueGet s q
    let w := dWord d
    let b := begunState s q d
    let fails := fun (i : Instr) (st d0 : Nat) => queueRuns i s q (fun t => completes s t q d st d0 0 ∧ regField t 0x90048 39 32 = st)
    let runs := fun (r : PrfRun) => { s with prf := { s.prf with run := some r } }
    let holds := fun (v : State) (r : PrfRun) => { v with prf := { v.prf with run := some r } }
    let asksStore := fun (v : State) => storeUp v = true ∧ bitsOf (qpWord v (storeQp v) 0) 63 61 = 6 ∧
      portUp v (bitsOf (qpWord v (storeQp v) 0) 60 56) 2 = true
    let asked := fun (v : State) (r : PrfRun) =>
      emit (holds v r) (.packet (bitsOf (qpWord v (storeQp v) 0) 60 56) 1 (leBytes 8 (storeAddr v 0) ++ leBytes 8 4096))
    (s.prf.atClear.contains k.comp = false → (dCmd d = 6 → fails (.proofCmd q) 0x31 0) ∧ (dCmd d = 7 → fails (.restoreCmd q) 0x31 0)) ∧
    (s.prf.atClear.contains k.comp = true →
      (dCmd d = 6 → (mfRead b k.root (w 1) k.comp (w 4) (w 5)).1 = none → fails (.proofCmd q) 0x32 0) ∧
      (∀ m pages v, dCmd d = 6 → mfRead b k.root (w 1) k.comp (w 4) (w 5) = (some (m, pages), v) →
        let began := fun (r : PrfRun) => r.cmd = 6 ∧ r.q = q ∧ r.idx = k.started ∧ r.comp = k.comp ∧
          r.phase = 1 ∧ r.gen = max s.prf.gen (regField s 0x90050 31 0) + 1 ∧ r.bytes = imageBytes v k.comp m ∧ r.pages.length = pages.length ∧
          r.want = w 3 % 4 ∧ r.ok = 0
        (∀ i, w 3 % 4 = 1 → (s.prf.pair = 2 ∨ s.prf.pair = 3) → pairUp v = [i] → portReady (portGet v i) 10 →
          if Config.partnerSlot * gib < 4096 + imageBytes v k.comp m then fails (.proofCmd q) 0x30 0
          else queueRuns (.proofCmd q) s q (fun t => queueGet t q = begun k d ∧ ∃ r, began r ∧ r.sto = 0 ∧
            t = sendsCell (holds v r) i 10 (prfCell 1 r.gen (openSlot s) 0 0 0 []) (pairMask v))) ∧
        (w 3 % 4 = 2 → asksStore v → storeSlot v < 4096 + imageBytes v k.comp m → fails (.proofCmd q) 0x30 0) ∧
        (w 3 % 4 = 2 → asksStore v → 4096 + imageBytes v k.comp m ≤ storeSlot v →
          queueRuns (.proofCmd q) s q (fun t => queueGet t q = begun k d ∧ ∃ r, began r ∧ r.sto = 1 ∧ t = asked v r)))) ∧
    (s.prf.atClear.contains k.comp = true →
      (dCmd d = 7 → w 1 % 2 = 0 → partnerUp s = false → fails (.restoreCmd q) 0x33 0) ∧
      (∀ i, dCmd d = 7 → w 1 % 2 = 0 → (s.prf.pair = 2 ∨ s.prf.pair = 3) → pairUp s = [i] → portReady (portGet s i) 10 →
        queueRuns (.restoreCmd q) s q (fun t => queueGet t q = begun k d ∧ ∃ r, r.cmd = 7 ∧ r.q = q ∧ r.idx = k.started ∧ r.comp = k.comp ∧
          r.phase = 1 ∧ r.gen = w 2 % 2 ^ 32 ∧ r.slot = 0 ∧ r.want = 1 ∧
          t = sendsCell (holds b r) i 10 (prfCell 4 r.gen 0 hdrOff 4096 0 []) (pairMask s))) ∧
      (dCmd d = 7 → w 1 % 2 = 1 → asksStore s →
        queueRuns (.restoreCmd q) s q (fun t => queueGet t q = begun k d ∧ ∃ r, r.cmd = 7 ∧ r.q = q ∧ r.idx = k.started ∧ r.comp = k.comp ∧
          r.phase = 1 ∧ r.gen = w 2 % 2 ^ 32 ∧ r.slot = 0 ∧ r.want = 2 ∧ r.sto = 1 ∧ t = asked b r))) ∧
    (dCmd d = 8 → slotGib s = 0 → fails (.resliceCmd q) 0x35 (if w 1 % 2 ^ 32 = 0 then regField s 0x90050 63 32 else w 1 % 2 ^ 32)) ∧
    (∀ j map off va lf v, dCmd d = 8 → slotGib s ≠ 0 → w 1 % 2 ^ 32 ≠ 0 → s.ride.tiles = [] →
      let head := fun (j : Nat) => (resRead s (slotBase s j) 80).1
      let data := (resRead v (slotBase v j + 4096 + off) 64).1
      pickSlot (headerGen (head 0) (regGet s 0x90008)) (headerGen (head 1) (regGet s 0x90008)) (w 1 % 2 ^ 32) = some j →
      w 3 = 1 → readArg b k.root (w 2) 32 = (some map, v) → mapEntry map 0 = (off, 64, va, 1) → off % 64 = 0 →
      off + 64 ≤ fieldAt (head j) 24 8 → va % 64 = 0 → cachedAt v k.root va lf → eW lf.ent = true → eSel lf.ent = 0 →
      paTier (ePage lf.ent) = 0 → paTier (leafPA lf va) = 0 → leafPA lf va % 64 = 0 → leafPA lf va < 2 ^ 44 → data.length = 64 →
      queueRuns (.resliceCmd q) s q (fun t => completes s t q d 0 (w 1 % 2 ^ 32) 64 ∧ t.prf.run = none ∧
        paRead t 0 (leafPA lf va) 64 = (data, false))) ∧
    (∀ r, let captured := posNotes (runs { r with img := tabPut r.img 0 (imageFront (runs r) r (runManifest r)), phase := 2 }) r.root (runManifest r)
      r.cmd = 6 → r.pages = [] → r.phase = 1 → r.want = 2 → r.sto = 3 → bitOf (dWord r.body 3) 8 = false → resting s →
      stagingScrap captured r.root (dWord r.body 4) (dWord r.body 5 * gib) = captured → exec .proofCaptureDone (runs r) = .next captured) ∧
    (∀ r page at_, resting s → r.pages.find? (fun p => p.1 == page) = some (page, 0, at_) →
      exec (.proofPageCopy page) (runs r) = .next (holds (pageNotes (runs r) page) { r with
        img := tabPut r.img at_ (pageBytes s page 0).1, pages := r.pages.erase (page, 0, at_) }))

/-- Movers, page walks and the fault queue (R172, R200 to R206, R216, R219 to R226). A mover accepts a stream, or ends it with
DESC_INVALID; a tile is checked whole before it issues; a transaction moves its bytes; a finished stream writes its completion word
and completes its command; a fault record is one write; the head line frees records and their responses resume or end streams. -/
def Obligations.StreamsRun : Prop :=
  ∀ (s : State) (m : Nat), Live s → m < 192 →
    (∀ st r, moverGet s m = ⟨none, st :: r⟩ → st.core = none →
      let v := { st with link := moverLink s m }
      (streamInvalid s v = false → exec (.moverAccept m) s = .next (moverSet s m ⟨some v, r⟩)) ∧
      (streamInvalid s v = true → exec (.moverAccept m) s = .next
        { moverSet s m ⟨some { v with st := .faulted, cause := 8, aborted := true, cwf := true }, r⟩ with
          xlt := { s.xlt with fqPend := s.xlt.fqPend ++ [⟨m, st.sid, faultRecord s m v 8 0 0 0 0 0 true, false⟩] } })) ∧
    (∀ st w, uncached s → moverGet s m = ⟨some st, w⟩ → st.st = .running → st.tile < dsTiles st.desc → st.txns.length < mvDepth s →
      let d := st.desc
      let a := if dsOp d = 0 then checkSide s st 0 else (sideChk0, s)
      let b := if dsDst d ≤ 1 then checkSide a.2 st 1 else (sideChk0, a.2)
      let faults := fun (cause va level side ent : Nat) => ∃ t, exec (.tileCheck m) s = .next t ∧ t.tiers = s.tiers ∧ t.cores = s.cores ∧
        moverGet t m = ⟨some { st with st := .faulted, cause := cause, aborted := !awaits cause }, w⟩ ∧
        t.xlt.fqPend = s.xlt.fqPend ++ [⟨m, st.sid, faultRecord s m st cause va level side st.tile ent (!awaits cause), awaits cause⟩]
      (64 < a.1.pages.length → faults 7 0 0 0 0) ∧
      (∀ f, a.1.pages.length ≤ 64 → a.1.fail = some f → faults f.1 f.2.1 f.2.2.1 0 f.2.2.2) ∧
      (a.1.pages.length ≤ 64 → a.1.fail = none →
        (64 < b.1.pages.length → faults 7 0 0 1 0) ∧
        (∀ f, b.1.pages.length ≤ 64 → b.1.fail = some f → faults f.1 f.2.1 f.2.2.1 1 f.2.2.2) ∧
        (b.1.pages.length ≤ 64 → b.1.fail = none → ((tileTxns s st a.1 b.1).any (fun x => x.host) = true → hostUsed s < regField s 0xB0000 14 0) → ∃ t p, exec (.tileCheck m) s = .next t ∧ t.tiers = s.tiers ∧ t.cores = s.cores ∧
          t.xlt.fqPend = s.xlt.fqPend ∧
          moverGet t m = ⟨some { st with tile := st.tile + 1, txns := st.txns ++ tileTxns s st a.1 b.1, pfb := p }, w⟩))) ∧
    (∀ root va l, root < 256 → va < 2 ^ 52 → uncached s →
      (s.xlt.cache.find? (fun l => leafHit l root va) = some l → exec (.tableWalkDone root va) s = .next s) ∧
      (s.xlt.cache.find? (fun l => leafHit l root va) = none → walk s root va = .leaf l →
        exec (.tableWalkDone root va) s = .next { s with xlt := { s.xlt with cache := (l :: s.xlt.cache).take 8192 } }) ∧
      (s.xlt.cache.find? (fun l => leafHit l root va) = none → (∀ l, walk s root va ≠ .leaf l) →
        exec (.tableWalkDone root va) s = .next s)) ∧
    (∀ st w x i c, moverGet s m = ⟨some st, w⟩ → st.txns[i]? = some x → i < mvDepth s → dsDst st.desc = 2 →
      dstCores s st.desc st.comp = [c] → (coreGet s c).hints = [] → xRefused (coreGet s c) x.dst x.len = false →
      let k := coreGet s c
      let v : Mover := ⟨some { st with
        txns := st.txns.erase x, tdone := if (st.txns.erase x).any (fun y => y.tile == x.tile) then st.tdone else st.tdone + 1 }, w⟩
      (dsOp st.desc = 1 → exec (.moverTransactionDone m i) s =
        .next (moverSet (coreSet s c { k with a := platePut k.a x.dst (fillBytes x.src x.dst x.len) }) m v)) ∧
      (dsOp st.desc = 0 → uncached s → 0 < x.len → x.src % 64 + x.len ≤ 64 → rangeHeld s (moverSrc m) x.ssel x.src x.len false = false →
        (memRead s x.ssel (x.src / 64)).2 = false → (memRead s x.ssel (x.src / 64)).1.length = 64 →
        ∃ t, exec (.moverTransactionDone m i) s = .next t ∧ t.tiers = s.tiers ∧ moverGet t m = v ∧
          coreGet t c = { k with a := platePut k.a x.dst (((memRead s x.ssel (x.src / 64)).1.drop (x.src % 64)).take x.len) })) ∧
    (∀ q d st w, queueTurn s q d → moverGet s m = ⟨some st, w⟩ → st.core = none → st.q = q → st.idx = (queueGet s q).started →
      st.hw = false → streamDrained s m st = true → dsCw st.desc = 0 →
      (st.st = .running → st.aborted = false → dsTiles st.desc ≤ st.tile → ∃ t, exec (.streamComplete m) (begunState s q d) = .next t ∧
        completes (moverSet s m ⟨none, w⟩) t q d 0 (m * 256) st.tdone) ∧
      (st.st = .done → st.aborted = true → ∃ t, exec (.streamComplete m) (begunState s q d) = .next t ∧
        completes (moverSet s m ⟨none, w⟩) t q d 0x23 (m * 256 + st.cause) st.tdone)) ∧
    (∀ st w c, moverGet s m = ⟨some st, w⟩ → st.core = some c → st.st = .running → st.aborted = false → st.hw = false →
      streamDrained s m st = true → dsTiles st.desc ≤ st.tile → dsPlate st.desc = false → uncached s →
      (dsCw st.desc = 2 → (coreGet s c).hints = [] → xRefused (coreGet s c) (dsCwAddr st.desc) 8 = false → exec (.streamComplete m) s = .next (moverSet (coreSet s c
        { coreGet s c with a := platePut (coreGet s c).a (dsCwAddr st.desc) (leBytes 8 (dsCwVal st.desc)) }) m ⟨none, w⟩)) ∧
      (∀ lf, let pa := leafPA lf (dsCwAddr st.desc)
        dsCw st.desc = 1 → cachedAt s st.root (dsCwAddr st.desc) lf → eW lf.ent = true → eSel lf.ent = 0 →
        paTier (ePage lf.ent) = 0 → paTier pa = 0 → pa % 8 = 0 → pa < 2 ^ 44 → rangeHeld s (moverSrc m) 0 pa 8 true = false →
        ∃ t, exec (.streamComplete m) s = .next t ∧ paRead t 0 pa 8 = (leBytes 8 (dsCwVal st.desc), false) ∧ moverGet t m = ⟨none, w⟩ ∧
          t.cores = s.cores)) ∧
    (∀ r rest st w, uncached s → s.host.hold = false → s.qsu.evOn = true → s.xlt.fqPend = r :: rest → r.mover = m →
      moverGet s m = ⟨some st, w⟩ → st.sid = r.sid → st.st = .faulted → r.bytes.length = 64 →
      let l := regField s 0x40018 4 0
      let n := s.xlt.fqT
      (2 ^ l ≤ n - s.xlt.fqP → exec .faultRecordWrite s = .next s) ∧
      (n - s.xlt.fqP < 2 ^ l → fqAddr s n + 64 ≤ 2 ^ 44 → ∃ t, exec .faultRecordWrite s = .next t ∧
        hostBytes t (fqAddr s n) 64 = listPut r.bytes 0 (leBytes 8 (fieldAt r.bytes 0 8 + phaseOf n l * 2 ^ 63)) ∧
        t.xlt.fqT = n + 1 ∧ t.xlt.fqPend = rest ∧ t.cores = s.cores ∧
        regField t 0x40028 32 32 = 1 ∧ (n + 1 - s.xlt.fqP = 2 ^ l → regField t 0x40028 33 33 = 1) ∧
        moverGet t m = ⟨some { st with st := if r.awaits then .awaiting else .done }, w⟩ ∧
        t.xlt.fqWait = if r.awaits then s.xlt.fqWait ++ [(n, m, st.sid)] else s.xlt.fqWait)) ∧
    (uncached s → s.host.hold = false → s.qsu.evOn = true →
      let line := hostBytes s (regField s 0x40020 42 6 * 64) 64
      let h := (fieldAt line 0 8 + 2 ^ 64 - s.xlt.fqP % 2 ^ 64) % 2 ^ 64
      let e := (fieldAt line 8 8 + 2 ^ 64 - s.qsu.evP % 2 ^ 64) % 2 ^ 64
      (s.xlt.fqT - s.xlt.fqP < h → ∃ t, exec .fqHeadUpdate s = .next t ∧ t.xlt = s.xlt ∧ t.movers = s.movers ∧ t.tiers = s.tiers ∧
        regField t 0x40028 34 34 = 1) ∧
      (h ≤ s.xlt.fqT - s.xlt.fqP → e ≤ s.qsu.evT - s.qsu.evP → s.xlt.fqPend = [] →
        (s.xlt.fqWait = [] → exec .fqHeadUpdate s =
          .next { s with xlt := { s.xlt with fqP := s.xlt.fqP + h }, qsu := { s.qsu with evP := s.qsu.evP + e } }) ∧
        (∀ n st w, s.xlt.fqWait = [(n, m, st.sid)] → n < s.xlt.fqP + h → moverGet s m = ⟨some st, w⟩ → st.st = .awaiting →
          let resp := leNat (hostBytes s (fqAddr s n + 48) 8) % 4
          fqAddr s n + 64 ≤ 2 ^ 44 →
          exec .fqHeadUpdate s = .next (moverSet (readNotes { s with
            xlt := { s.xlt with fqP := s.xlt.fqP + h, fqWait := [] }, qsu := { s.qsu with evP := s.qsu.evP + e } } (floorPA (fqAddr s n + 48)) 8) m
            ⟨some (if resp = 0 then { st with st := .running, cause := 0, cwf := false } else { st with st := .done, aborted := true }), w⟩))))

/-- The patrol scrubber, key commands and the wipe (R241, R244, R255, R256). A scrub that finds nothing changes nothing, and a line it
cannot correct is poisoned and reported; a key command takes its pair when written and its slot changes when it ends; the wipe zeroes
plates, caches, the understory and the canopy, and a write ahead of the understory's overwrite brings its page forward. -/
def Obligations.MemoryIsGuarded : Prop :=
  ∀ (s : State), Live s → uncached s →
    (∀ line, s.tiers.owHeld = [] →
      exec (.scrubPatrol line 0) s = .next s ∧
      (∀ synd, synd = Config.freeNat s.free → scrubOn s line = true → paValid (64 * line) = true → ctlHeld s line = false →
        (logsOnly s (ctlRecord line) 0 → ∃ t, exec (.scrubPatrol line 1) s = .next t ∧
          logged { s with free := s.free + 1 } t (ctlRecord line) 0 synd (64 * line)) ∧
        (logsOnly s (ctlRecord line) 2 → ∃ t, exec (.scrubPatrol line 2) s = .next t ∧ (lineTier line = 0 → (memRead t 0 line).2 = true) ∧
          logged { s with free := s.free + 1, tiers := { s.tiers with poison := [line] } } t (ctlRecord line) 2 synd (64 * line)))) ∧
    (∀ slot load, slot < 64 →
      let c := if load then Instr.keyLoad slot else .keyErase slot
      let p := keyPair s
      (keysOpen s = false → exec c s = .next s) ∧
      (keysOpen s = true →
        (s.tiers.keyCmd ≠ none → exec c s = .next { s with tiers := { s.tiers with keyResult := 2 } }) ∧
        (s.tiers.keyCmd = none → load = true → slot = 0 ∨ p % 2 ^ 256 = p / 2 ^ 256 →
          exec c s = .next { s with tiers := { s.tiers with keyCmd := some ⟨true, keyReject, 0⟩ } }) ∧
        (s.tiers.keyCmd = none → (load = true → slot ≠ 0 ∧ p % 2 ^ 256 ≠ p / 2 ^ 256) →
          exec c s = .next { s with tiers := { s.tiers with keyCmd := some ⟨load, slot, p⟩ } }))) ∧
    (∀ k, resting s → s.tiers.keyCmd = some k → ∃ t, exec .keyCmdDone s = .next t ∧
      (∀ a, regGet t a = if 0x50100 ≤ a ∧ a < 0x50140 ∧ a % 8 = 0 then 0 else regGet s a) ∧
      t.tiers = { s.tiers with
        keyCmd := none, keyResult := if k.slot = keyReject then 1 else 0
        slots := if k.slot = keyReject ∨ k.slot = 0 then s.tiers.slots else tabSet (fun _ => 0) s.tiers.slots k.slot (if k.load then k.pair else 0) } ∧
      (k.slot ≠ keyReject → k.slot ≠ 0 → pairOf t k.slot = if k.load then k.pair else 0)) ∧
    (s.life.ramped = true → s.tiers.wPlates = false → ∃ t, exec .wipePlatesCaches s = .next t ∧
      (∀ c, coreGet t c = { coreGet s c with a := { (coreGet s c).a with plate := [] }, l1 := [], ibuf := [] }) ∧ t.coh.l2 = [] ∧
      t.tiers = { s.tiers with wPlates := true, wCaches := true } ∧ t.regs = s.regs) ∧
    (s.tiers.wPlates = true → exec .underCryptoErase s = .next { s with tiers := { s.tiers with wErased := true } }) ∧
    (s.tiers.wErased = true → s.tiers.wCanopy = false → ∃ t, exec .canopyWipeDone s = .next t ∧ t.tiers.wCanopy = true ∧
      (∀ line, lineTier line = 0 → memRead t 0 line = (List.replicate 64 0, false)) ∧
      (∀ sel line, lineTier line ≠ 0 → lineTier line < 4 → memRead t sel line = memRead s sel line) ∧ t.cores = s.cores ∧ t.regs = s.regs) ∧
    (∀ p, s.tiers.wErased = true → s.tiers.owNext = p → p < 49152 → s.tiers.owEarly.contains p = false → s.tiers.owHeld = [] → resting s →
      ∃ t, exec .underOverwritePage s = .next t ∧ t.tiers.owNext = p + 1 ∧
      (∀ line, lineTier line = 1 → underPage line = p → memRead t 0 line = (List.replicate 64 0, false)) ∧
      (∀ sel line, lineTier line ≠ 1 ∨ underPage line ≠ p → memRead t sel line = memRead s sel line) ∧ t.cores = s.cores ∧ t.regs = s.regs) ∧
    (∀ w, s.tiers.wErased = true → s.tiers.owHeld = [w] → owReached s.tiers (underPage w.line) = false → lineTier w.line = 1 → w.sel = 0 →
      w.mask = fullMask → w.data.length = 64 → w.poison = false → resting s →
      ∃ t, exec (.overwriteBroughtForward (underPage w.line)) s = .next t ∧ t.tiers.owHeld = [] ∧ owReached t.tiers (underPage w.line) = true ∧
        memRead t 0 w.line = (w.data, false))

/-- Requests at a home (R276, R279, R281, R283, R284, R287 to R290): what a request for a canopy line in device bias does when nothing else
is in flight. RD_S, RD_M and OWN of an uncached line are answered at once, with the line from memory or a grant; UPG of a shared line is
granted, or first snoops every other slice; a request for a busy line is refused and retried; agents without a cache read and write
memory, or place a line in a slice. -/
def Obligations.RequestsReachTheirHome : Prop :=
  ∀ (s : State) (g line : Nat), Live s → g < 48 → s.tiers.poison = [] → lineTier line = 0 → hostBias s line = false →
    lineHeld s 0 line true = false → groveFenced s g = false → s.host.hold = false →
    let at_ := fun (c : Coh) => { s with coh := c }
    let mem := (memRead s 0 line).1
    let fill := fun (st : Nat) => { msg0 .data line 100 g with data := mem, tgt := st }
    let goes := fun (k : MK) (answer : Msg) (d : DirE) => { coh0 with
      net := [answer], mshr := [⟨g, line, k, 0, 0, false, 0, k != .rdS⟩], busy := [⟨line, msg0 k line g 100, [], false, none, false, true⟩], dir := [(line, d)] }
    exec (.rdS g line) (at_ coh0) = .next (at_ (goes .rdS (fill 1) ⟨1, 0, 2 ^ g⟩)) ∧
    exec (.rdM g line) (at_ coh0) = .next (at_ (goes .rdM (fill 2) ⟨2, g, 0⟩)) ∧
    exec (.own g line) (at_ coh0) = .next (at_ (goes .own { msg0 .gnt line 100 g with data := mem } ⟨2, g, 0⟩)) ∧
    (∀ w, w.tag = line / 4096 → w.st = 1 →
      let l2 := [(l2key g line 0, w)]
      let c := { coh0 with l2 := l2, dir := [(line, ⟨1, 0, 2 ^ g⟩)] }
      (mx1 s = true → exec (.upg g line) (at_ c) = .next (at_ { goes .upg (msg0 .gnt line 100 g) ⟨2, g, 0⟩ with l2 := l2 })) ∧
      (mx1 s = false → exec (.upg g line) (at_ c) = .next (at_ { c with
        net := (otherSlices g).map (fun h => msg0 .snpI line 100 h), mshr := [⟨g, line, .upg, 0, 0, false, 0, true⟩]
        busy := [⟨line, msg0 .upg line g 100, otherSlices g, false, none, false, false⟩] }))) ∧
    (∀ b, b.line = line → ∃ t, exec (.rdS g line) (at_ { coh0 with busy := [b] }) = .next t ∧
      t.coh = { coh0 with busy := [b], mshr := [⟨g, line, .rdS, 0, 0, false, 0, false⟩], net := [msg0 .nack line 100 g] } ∧
      regField t 0x60040 31 0 = satAdd 32 (regField s 0x60040 31 0) 1 ∧ t.tiers = s.tiers ∧ t.cores = s.cores) ∧
    (∀ r, r.slice = g → r.line = line →
      exec (.nack g line) (at_ { coh0 with net := [msg0 .nack line 100 g], mshr := [r] }) =
        .next (at_ { coh0 with mshr := [{ r with nacks := r.nacks + 1, retry := true }] }) ∧
      (r.retry = true → r.k ≠ .upg → exec (.nackRetry g line) (at_ { coh0 with mshr := [r] }) =
        .next (at_ { coh0 with mshr := [{ r with retry := false }], net := [{ msg0 r.k line g 100 with sel := r.sel }] }))) ∧
    (∃ t, exec (.reservationLapse g line) (at_ { coh0 with resv := [(line, g)] }) = .next t ∧ t.coh = coh0 ∧
      regField t 0x60048 31 0 = satAdd 32 (regField s 0x60048 31 0) 1 ∧ t.tiers = s.tiers ∧ t.cores = s.cores) ∧
    exec (.rdCur line 0) (at_ coh0) = .next (emit (at_ coh0) (.read mem false)) ∧
    (∀ mask data, exec (.wrInv line 0 mask data) (at_ coh0) = .next (memWrite (at_ coh0) 0 line (mask % 2 ^ 64) data false)) ∧
    (∀ mask data, wayMask s 2 ≠ 0 → ∃ t w, exec (.wrHint line 0 mask g data) (at_ coh0) = .next t ∧ l2find t g line = some w ∧
      l2get t g line w = ⟨line / 4096, 2, true, false, 0, false, 0, mergeBytes (mask % 2 ^ 64) data mem⟩ ∧
      t.coh.dir = [(line, ⟨2, g, 0⟩)] ∧ t.coh.busy = [] ∧ t.coh.net = [] ∧ t.tiers = s.tiers ∧ t.regs = s.regs)

/-- Slices and the home (R270, R276, R278, R281 to R283): what a slice answers to a snoop from each of its states, what the home does with
the answer, and what grants, data, completions and evictions do, on a canopy line with no other message of it in flight. -/
def Obligations.SlicesAnswer : Prop :=
  ∀ (s : State) (g line : Nat), Live s → resting s → (∀ c, (coreGet s c).loads = []) → g < 48 → s.tiers.poison = [] → lineTier line = 0 →
    groveFenced s g = false →
    let at_ := fun (c : Coh) => { s with coh := c }
    let mem := (memRead s 0 line).1
    let key := l2key g line 0
    let snp := fun (k : MK) => msg0 k line 100 g
    let ack := fun (k : MK) => msg0 k line g 100
    (exec (.snpS g line) (at_ { coh0 with net := [snp .snpS] }) = .next (at_ { coh0 with net := [ack .ackI] }) ∧
      exec (.snpI g line) (at_ { coh0 with net := [snp .snpI] }) = .next (at_ { coh0 with net := [ack .ackI] }) ∧
      exec (.snpCur g line) (at_ { coh0 with net := [snp .snpCur] }) = .next (at_ { coh0 with net := [ack .ackI] })) ∧
    (∀ w, w.tag = line / 4096 → w.pinned = false → w.pres = 0 →
      let l2 := [(key, w)]
      (w.st = 1 →
        exec (.snpS g line) (at_ { coh0 with l2 := l2, net := [snp .snpS] }) = .next (at_ { coh0 with l2 := l2, net := [ack .ackS] }) ∧
        exec (.snpI g line) (at_ { coh0 with l2 := l2, net := [snp .snpI] }) = .next (at_ { coh0 with net := [ack .ackI] }) ∧
        exec (.snpCur g line) (at_ { coh0 with l2 := l2, net := [snp .snpCur] }) = .next (at_ { coh0 with l2 := l2, net := [ack .ackS] })) ∧
      (∀ b, w.st = 2 → b.line = line →
        (b.req.src < 48 → b.req.k = .rdS → exec (.snpS g line) (at_ { coh0 with l2 := l2, busy := [b], net := [snp .snpS] }) =
          .next (at_ { coh0 with
            l2 := [(key, { w with st := 1, written := false })], busy := [b]
            net := [{ msg0 .data line g b.req.src with data := w.data, poison := w.poison, sel := w.sel, tgt := 1 },
              { msg0 .data line g 100 with data := w.data, poison := w.poison, sel := w.sel, tgt := 0 }, ack .ackFwd] })) ∧
        (b.req.src < 48 → b.req.k = .rdM → exec (.snpI g line) (at_ { coh0 with l2 := l2, busy := [b], net := [snp .snpI] }) =
          .next (at_ { coh0 with
            busy := [b]
            net := [{ msg0 .data line g b.req.src with data := w.data, poison := w.poison, sel := w.sel, tgt := 2, wr := w.written }, ack .ackFwd] })) ∧
        (b.req.src < 48 → b.req.k = .own → exec (.snpI g line) (at_ { coh0 with l2 := l2, busy := [b], net := [snp .snpI] }) =
          .next (at_ { coh0 with busy := [{ b with got := some ⟨g, w.data, w.poison, w.written, w.sel⟩ }], net := [ack .ackFwd] })) ∧
        (48 ≤ b.req.src → exec (.snpCur g line) (at_ { coh0 with l2 := l2, busy := [b], net := [snp .snpCur] }) =
          .next (at_ { coh0 with l2 := l2, busy := [{ b with got := some ⟨g, w.data, w.poison, w.written, w.sel⟩ }], net := [ack .ackFwd] })))) ∧
    (∀ b : Busy, b = ⟨line, msg0 .rdCur line 200 100, [g], false, none, false, false⟩ →
      exec (.ackI g line) (at_ { coh0 with busy := [b], net := [ack .ackI] }) = .next (emit (at_ coh0) (.read mem false)) ∧
      exec (.ackS g line) (at_ { coh0 with busy := [b], net := [ack .ackS] }) = .next (emit (at_ coh0) (.read mem false)) ∧
      (∀ o, exec (.ackFwd g line) (at_ { coh0 with busy := [{ b with got := some o }], net := [ack .ackFwd] }) =
        .next (emit (at_ coh0) (.read o.data o.poison)))) ∧
    (∀ r w, r.slice = g → r.line = line → r.k = .upg → w.tag = line / 4096 → w.st = 1 →
      exec (.gnt g line) (at_ { coh0 with l2 := [(key, w)], mshr := [r], net := [msg0 .gnt line 100 g] }) =
        .next (at_ { coh0 with l2 := [(key, { w with st := 2, written := r.store })], net := [ack .cmp] })) ∧
    (∀ r m, r.slice = g → r.line = line → r.k = .own → m.k = .gnt → m.dst = g → m.line = line → wayMask s r.cls ≠ 0 →
      ∃ t w, exec (.gnt g line) (at_ { coh0 with mshr := [r], net := [m] }) = .next t ∧ l2find t g line = some w ∧
        l2get t g line w = ⟨line / 4096, 2, true, m.poison, m.sel, false, 0, m.data⟩ ∧ t.coh.net = [ack .cmp] ∧ t.coh.mshr = [] ∧
        t.tiers = s.tiers ∧ t.cores = s.cores) ∧
    (∀ r m, r.slice = g → r.line = line → m.k = .data → m.dst = g → m.line = line → m.tgt ≠ 0 → wayMask s r.cls ≠ 0 →
      ∃ t w, exec (.dataMsg g line) (at_ { coh0 with mshr := [r], net := [m] }) = .next t ∧ l2find t g line = some w ∧
        l2get t g line w = ⟨line / 4096, m.tgt, m.wr || (r.store && m.tgt == 2), m.poison, m.sel, false, 0, m.data⟩ ∧ t.coh.net = [ack .cmp] ∧ t.coh.mshr = [] ∧
        t.tiers = s.tiers ∧ t.cores = s.cores) ∧
    (∀ m, m.k = .data → m.dst = 100 → m.line = line → m.tgt ≠ 1 → m.sel = 0 → m.poison = false → m.data.length = 64 →
      ∃ t, exec (.dataMsg 100 line) (at_ { coh0 with net := [m] }) = .next t ∧ memRead t 0 line = (m.data, false) ∧ t.coh = coh0 ∧
        t.cores = s.cores) ∧
    (∀ b, b.line = line → exec (.cmp g line) (at_ { coh0 with busy := [b], net := [ack .cmp] }) = .next (at_ coh0)) ∧
    (exec (.evaClean g line) (at_ { coh0 with dir := [(line, ⟨2, g, 0⟩)], net := [ack .evaClean] }) = .next (at_ coh0) ∧
      exec (.evaClean g line) (at_ { coh0 with dir := [(line, ⟨1, 0, 2 ^ g⟩)], net := [ack .evaClean] }) = .next (at_ coh0)) ∧
    (∀ data, data.length = 64 →
      let m := { msg0 .data line g 100 with data := data, tgt := 1 }
      let b : Busy := ⟨line, ack .evaDirty, [], false, none, false, false⟩
      (∀ e, e.slice = g → e.line = line → e.dead = false →
        exec (.evaDirty g line) (at_ { coh0 with dir := [(line, ⟨2, g, 0⟩)], ev := [e], net := [ack .evaDirty, m] }) =
          .next (at_ { coh0 with dir := [(line, ⟨2, g, 0⟩)], ev := [e], busy := [b], net := [m] }) ∧
        (∃ t, exec (.dataMsg 100 line) (at_ { coh0 with dir := [(line, ⟨2, g, 0⟩)], ev := [e], busy := [b], net := [m] }) = .next t ∧
          memRead t 0 line = (data, false) ∧ t.coh = { coh0 with ev := [e], net := [msg0 .evaAck line 100 g] } ∧ t.cores = s.cores)) ∧
      (∀ o, o ≠ g → exec (.evaDirty g line) (at_ { coh0 with dir := [(line, ⟨2, o, 0⟩)], net := [ack .evaDirty, m] }) =
        .next (at_ { coh0 with dir := [(line, ⟨2, o, 0⟩)], net := [msg0 .evaAck line 100 g] }))) ∧
    (∀ e, e.slice = g → e.line = line →
      exec (.evaAck g line) (at_ { coh0 with ev := [e], net := [msg0 .evaAck line 100 g] }) = .next (at_ coh0))

/-- The coherence registers (R266 to R268, R277, R278, R293): an invalidation of L1s by register, the enable bits and STALE, and the
directory probe. An invalidation while one runs is ignored; it empties the named groves' L1s, their presence bits and their STALE bits,
and touches nothing else. -/
def Obligations.CoherenceRegisters : Prop :=
  ∀ (s : State), Live s →
    (∀ v, exec (.cohL1InvalWrite v) s =
      .next (if s.coh.l1busy then s else { s with coh := { s.coh with l1busy := true, l1inv := below 48 (fun g => v.testBit g) } })) ∧
    (s.coh.l1busy = true → ∃ t, exec .l1InvalDone s = .next t ∧ t.coh.l1busy = false ∧ t.coh.l1inv = [] ∧
      (∀ c, coreGet t c = if s.coh.l1inv.contains (groveOf c) then { coreGet s c with l1 := [] } else coreGet s c) ∧
      (∀ p ∈ t.coh.l2, s.coh.l1inv.contains (p.1 / 65536) = true → p.2.pres = 0) ∧
      (∀ g line w, s.coh.l1inv.contains g = false → w < 16 → l2get t g line w = l2get s g line w) ∧
      (∀ g, t.coh.stale.contains g = (s.coh.stale.contains g && !s.coh.l1inv.contains g)) ∧
      t.coh.dir = s.coh.dir ∧ t.tiers = s.tiers ∧ t.regs = s.regs) ∧
    (∀ v, ∃ t, exec (.cohL1EnWrite v) s = .next t ∧
      (∀ g, g < 48 → l1On t g = v.testBit g) ∧ (∀ a, a ≠ 0x60010 → regGet t a = regGet s a) ∧
      (∀ g, g < 48 → l1On s g = true → v.testBit g = false → ∀ p ∈ t.coh.l2, p.1 / 65536 = g → p.2.pres = 0) ∧
      (∀ g, g < 48 → t.coh.stale.contains g = (s.coh.stale.contains g || (!l1On s g && v.testBit g && !s.coh.l1clean.contains g))) ∧
      t.coh.dir = s.coh.dir ∧ t.tiers = s.tiers ∧ t.cores = s.cores) ∧
    (∀ v, exec (.cohProbeAddrWrite v) s =
      .next { regPut s 0x60030 (2 ^ 6 * bitsOf v 45 6) with coh := { s.coh with probeRun := true } }) ∧
    (s.coh.probeRun = true →
      let line := regField s 0x60030 45 6
      let d := dirGet s line
      let shows := fun (x : Nat) => exec .probeLookupDone s = .next { s with coh := { s.coh with probeRun := false, probe := 2 ^ 63 + x } }
      (lineBusy s line = true → shows (3 * 2 ^ 61)) ∧
      (lineBusy s line = false →
        (d.st = 2 → shows (2 * 2 ^ 61 + d.owner * 2 ^ 48)) ∧
        (d.st = 1 → regField s 0x60000 0 0 = 1 → shows (2 ^ 61 + d.sharers)) ∧
        (d.st = 1 → regField s 0x60000 0 0 = 0 → shows (2 ^ 61 + (2 ^ 48 - 1))) ∧
        (d.st = 0 → shows 0)))

/-- The host and the lines it can see (R274, R284 to R286, R323): what the complex answers to each snoop of the host when it holds the
floor line in I, S or M, what the host's own answers let a transaction do, and what an invalidated watched line does. -/
def Obligations.HostSnoops : Prop :=
  ∀ (s : State) (g line : Nat), Live s → resting s → g < 48 → s.tiers.poison = [] → s.host.hold = false →
    let at_ := fun (c : Coh) => { s with coh := c }
    let key := l2key g line 0
    (lineTier line = 2 →
      (exec (.hostSnpData line) (at_ coh0) = .next (emit (at_ coh0) (.snpRsp 0 line [])) ∧
        exec (.hostSnpInv line []) (at_ coh0) = .next (emit (at_ coh0) (.snpRsp 0 line [])) ∧
        exec (.hostSnpCur line) (at_ coh0) = .next (emit (at_ coh0) (.snpRsp 0 line []))) ∧
      (∀ data, data.length = 64 → ∃ t, exec (.hostSnpInv line data) (at_ coh0) = .next t ∧ memRead t 0 line = (data, false) ∧
        t.coh = coh0 ∧ t.out = s.out ++ [.snpRsp 0 line []] ∧ t.cores = s.cores) ∧
      (∀ sh, let c := { coh0 with hostSt := [(line, 1)], dir := [(line, ⟨1, 0, sh⟩)] }
        exec (.hostSnpData line) (at_ c) = .next (emit (at_ c) (.snpRsp 1 line [])) ∧
        exec (.hostSnpInv line []) (at_ c) = .next (emit (at_ coh0) (.snpRsp 2 line [])) ∧
        exec (.hostSnpCur line) (at_ c) = .next (emit (at_ c) (.snpRsp 1 line []))) ∧
      (∀ w, w.tag = line / 4096 → w.st = 2 → w.pinned = false → w.pres = 0 → w.data.length = 64 → w.poison = false →
        let c := { coh0 with l2 := [(key, w)], hostSt := [(line, 2)], dir := [(line, ⟨2, g, 0⟩)] }
        exec (.hostSnpCur line) (at_ c) = .next (emit (at_ c) (.snpRsp 5 line w.data)) ∧
        (∃ t, exec (.hostSnpData line) (at_ c) = .next t ∧ t.out = s.out ++ [.snpRsp 3 line w.data] ∧ memRead t 0 line = (w.data, false) ∧
          t.coh = { coh0 with l2 := [(key, { w with st := 1, written := false })], hostSt := [(line, 1)], dir := [(line, ⟨1, 0, 2 ^ g⟩)] } ∧
          t.cores = s.cores) ∧
        (w.written = false → exec (.hostSnpInv line []) (at_ c) = .next (emit (at_ coh0) (.snpRsp 4 line []))) ∧
        (w.written = true → ∃ t, exec (.hostSnpInv line []) (at_ c) = .next t ∧ t.out = s.out ++ [.snpRsp 4 line w.data] ∧
          memRead t 0 line = (w.data, false) ∧ t.coh = coh0 ∧ t.cores = s.cores)) ∧
      (∀ st, st = 1 ∨ st = 2 →
        let b := fun (k : MK) (h d : Bool) => (⟨line, msg0 k line g 100, [], h, none, false, d⟩ : Busy)
        let mem := (memRead s 0 line).1
        exec (.hostCacheResponse line st) (at_ { coh0 with busy := [b .rdS true false] }) =
          .next (at_ { coh0 with
            busy := [b .rdS false true], hostSt := [(line, st)], dir := [(line, if st = 2 then ⟨2, g, 0⟩ else ⟨1, 0, 2 ^ g⟩)]
            net := [{ msg0 .data line 100 g with data := mem, tgt := st }] }) ∧
        exec (.hostCacheResponse line st) (at_ { coh0 with busy := [b .rdM true false] }) =
          .next (at_ { coh0 with
            busy := [b .rdM false true], hostSt := [(line, 2)], dir := [(line, ⟨2, g, 0⟩)]
            net := [{ msg0 .data line 100 g with data := mem, tgt := 2 }] }) ∧
        exec (.hostCacheResponse line st) (at_ { coh0 with wb := [line] }) = .next (at_ coh0)) ∧
      (∀ w, w.line = line → w.refetch = false → w.wake = false → floorPA (regField s 0x40020 42 6 * 64) / 64 ≠ line →
        let u := emit (at_ { coh0 with
            watch := [{ w with refetch := true }], mshr := [⟨w.slice, line, .rdS, 3, 0, false, 0, false⟩], net := [msg0 .rdS line w.slice 100] })
            (.snpRsp 0 line [])
        let v := (lineQueues s line).foldl queueWake u
        v.errs = [] → exec (.watchWake line) (at_ { coh0 with watch := [w] }) = .next { v with pending := s.pending })) ∧
    (lineTier line = 0 →
      exec (.birsp line) (at_ { coh0 with busy := [⟨line, msg0 .rdS line g 100, [], true, none, false, false⟩] }) =
        .next (at_ { coh0 with
          busy := [⟨line, msg0 .rdS line g 100, [], false, none, false, true⟩], dir := [(line, ⟨1, 0, 2 ^ g⟩)]
          net := [{ msg0 .data line 100 g with data := (memRead s 0 line).1, tgt := 1 }] }) ∧
      exec (.birsp line) (at_ coh0) = .next (at_ coh0))

/-- The host port's memory requests and messages (R251, R291, R351, R367 to R370, R372): a window read returns the line, from the read-ahead
buffer or from memory, and a second consecutive read starts read-ahead; the flush page discards the buffer and returns COMPLETED; what lies
beyond reads as zero; a window write reaches memory or the stash slice, and Cmp completes it; a request brings its link out of L1; before the
decoders are committed every request is answered with zeros, discarded and counted; a link whose function the host does not see, or a window
that is stopped, serves nothing; a pending message goes out once its vector is unmasked; the last zero-length read lets a completion go. -/
def Obligations.HostMemory : Prop :=
  ∀ (s : State) (link dpa : Nat), Live s → resting s → s.coh = coh0 → link < 4 →
    let u := linkWake s link
    let w := hostOffset s link dpa / 64 * 64
    let line := winLine s w
    let sel := (winCur s).2
    let mem := memRead s sel line
    let zeros := List.replicate 64 (0 : Byte)
    ((hostSees s link = false ∨ windowStopped s = true → exec (.memRd link dpa) s = .next s ∧ exec (.memInv link dpa) s = .next s ∧
        ∀ mask p data, exec (.memWr link dpa mask p data) s = .next s) ∧
      (hostSees s link = true → windowStopped s = false → hdmDone s = false →
        (exec (.memRd link dpa) s = .next (uncommitted (emit u (.read zeros false)))) ∧
        (exec (.memInv link dpa) s = .next (uncommitted (emit u (.cmp link)))) ∧
        (∀ mask p data, exec (.memWr link dpa mask p data) s = .next (uncommitted (emit u (.cmp link)))) ∧
        (∀ x, regField (uncommitted x) 0xB0040 63 48 = satAdd 16 (regField x 0xB0040 63 48) 1))) ∧
    (hostSees s link = true → windowStopped s = false → hdmDone s = true →
      exec (.memInv link dpa) s = .next (emit u (.cmp link)) ∧
      (w < winSize → winServes s = false → exec (.memRd link dpa) s = .next (emit u (.read zeros false)) ∧
        ∀ mask p data, exec (.memWr link dpa mask p data) s = .next (emit u (.cmp link))) ∧
      (w < winSize → winServes s = true → winHeld s w false = false →
        (∀ d p, s.host.ra = [⟨w, line, sel, d, p⟩] → s.host.lastRd ≠ w → exec (.memRd link dpa) s =
          .next { emit u (.read d p) with host := { u.host with ra := [], lastRd := w + 64 } }) ∧
        (s.host.ra = [] → s.host.lastRd ≠ w → exec (.memRd link dpa) s =
          .next { emit u (.read mem.1 mem.2) with host := { u.host with lastRd := w + 64 } }) ∧
        (s.host.ra = [] → s.host.lastRd = w → 0 < w → regField s 0xB0000 19 16 = 1 → w + 64 < winSize → winHeld s (w + 64) false = false →
          exec (.memRd link dpa) s = .next { emit u (.read mem.1 mem.2) with host := { u.host with
            lastRd := w + 64, ra := [⟨w + 64, winLine s (w + 64), sel, (memRead s sel (winLine s (w + 64))).1, (memRead s sel (winLine s (w + 64))).2⟩] } })) ∧
      (∀ q, w = winSize + 64 * q → q < 1024 → ∃ rest, rest.length = 56 ∧ exec (.memRd link dpa) s =
        .next { emit u (.read (leBytes 8 ((queueGet s q).completed % 2 ^ 64) ++ rest) false) with
          host := { u.host with ra := [] }, free := s.free + 56 }) ∧
      (winSize + 65536 ≤ w → exec (.memRd link dpa) s = .next (emit u (.read zeros false)) ∧
        ∀ mask p data, exec (.memWr link dpa mask p data) s = .next (emit u (.cmp link))) ∧
      (∀ mask p data, w < winSize → winServes s = true → winHeld s w true = false → s.host.ra = [] → sel = 0 → lineTier line = 0 →
        (inStash s w = false → exec (.memWr link dpa mask p data) s = .next (emit (memWrite u 0 line (mask % 2 ^ 64) data (p != 0)) (.cmp link))) ∧
        (∀ g, inStash s w = true → regField s 0x60028 61 56 = g → g < 48 → groveFenced s g = false → wayMask s 2 ≠ 0 → s.tiers.poison = [] →
          ∃ t v, exec (.memWr link dpa mask p data) s = .next t ∧ l2find t g line = some v ∧
            l2get t g line v = ⟨line / 4096, 2, true, p != 0, 0, false, 0, mergeBytes (mask % 2 ^ 64) data mem.1⟩ ∧
            t.coh.dir = [(line, ⟨2, g, 0⟩)] ∧ t.tiers = s.tiers ∧ t.regs = s.regs))) ∧
    (∀ q, q < 1024 → windowStopped s = false →
      (hdmDone s = true → exec (.flushWordRead q) s =
        .next { emit s (.read (leBytes 8 ((queueGet s q).completed % 2 ^ 64)) false) with host := { s.host with ra := [] } }) ∧
      (hdmDone s = false → exec (.flushWordRead q) s = .next (uncommitted (emit s (.read (List.replicate 8 0) false))))) ∧
    (∀ off, exec (.readAheadExpiry off) s = .next { s with host := { s.host with ra := s.host.ra.filter (fun x => x.off != off) } }) ∧
    (∀ ways pos, hostSees s link = true → ways = 1 ∨ ways = 2 ∨ ways = 4 → exec (.hdmCommit link ⟨ways, pos⟩) s =
      .next { s with host := { s.host with
        hdm := tabSet (fun _ => 0) s.host.hdm link (ways + 1), hpos := tabSet (fun _ => 0) s.host.hpos link (pos % ways)
        again := setDel link s.host.again } }) ∧
    (∀ vec mask en fmask, vec < 2048 → s.host.hold = false → s.host.pba = [vec] →
      let e := { msixGet s vec with mask := mask != 0 }
      let h := { s.host with msixEn := en != 0, fmask := fmask != 0, msix := tabSet (fun _ => msix0) s.host.msix vec e }
      (mask = 0 → en ≠ 0 → fmask = 0 → exec (.msixUnmask vec mask en fmask) s =
        .next (emit (linkWake { s with host := { h with pba := [] } } 0) (.msix vec e.addr e.data))) ∧
      (mask ≠ 0 ∨ en = 0 ∨ fmask ≠ 0 → exec (.msixUnmask vec mask en fmask) s = .next { s with host := h })) ∧
    (∀ q r st d0 d1, s.host.hold = false →
      (∀ l, l ≠ link → s.host.defer = [⟨[link, l], q, r.idx, st, d0, d1⟩] → exec (.zeroLengthReadCompletion link) s =
        .next { s with host := { s.host with defer := [⟨[l], q, r.idx, st, d0, d1⟩] } }) ∧
      (s.host.defer = [⟨[link], q, r.idx, st, d0, d1⟩] → q < 1024 → s.tiers.poison = [] → (queueGet s q).run = [r] →
        (queueGet s q).cpl % 64 = 0 → (queueGet s q).cpl + 64 * 2 ^ (queueGet s q).clog ≤ 2 ^ 44 →
        let k := queueGet s q
        ∃ t el en, exec (.zeroLengthReadCompletion link) s = .next t ∧ t.host.defer = [] ∧
          hostBytes t (k.cpl + 64 * (k.completed % 2 ^ k.clog)) 64 =
            words [phaseOf k.completed k.clog * 2 ^ 63 + st * 2 ^ 55 + q * 2 ^ 45 + dSeq r.desc * 2 ^ 30 + dCmd r.desc * 2 ^ 25 + dCtx r.desc,
              el, en, d0, d1, 0, 0, 0] ∧
          queueGet t q = { k with run := [], completed := k.completed + 1 } ∧ t.cores = s.cores ∧ t.movers = s.movers))

/-- The host port's links (R360 to R362, R373 to R376, R378, R379): training, IDE, recovery, the narrow and idle states, and the loss of the
host link: HOLD is entered from RUN, every enabled queue is in HOLD, floor lines leave the L2, and the link's error is recorded; what needs
the host then ends, and a link that comes back leaves the complex in HOLD. -/
def Obligations.HostLinks : Prop :=
  ∀ (s : State) (n : Nat), Live s → n < 4 →
    let L := linkGet s n
    let put := fun (l : Link) => (.next (linkPut s n (fun _ => l)) : Host.Outcome State Fault Refusal)
    (∀ width rate flit neg, s.life.released = true → width ≤ 4 → 1 ≤ rate → rate ≤ 6 → 1 ≤ flit → flit ≤ 3 →
      let up := fun (x : State) => linkPut x n (fun l =>
        ⟨true, l.ide && l.trained, width, width, rate, flit, 0, if l.trained then l.key else 0, l.skid && l.trained, neg != 0⟩)
      ((rate = 6 ↔ 2 ≤ flit) →
        (s.host.hold = false → exec (.linkTrained n width rate ⟨flit, neg⟩) s = .next (up s)) ∧
        (L.trained = false → exec (.linkUpAfterLoss n width rate ⟨flit, neg⟩) s = .next (up (linkConfigReset s n)))) ∧
      (¬(rate = 6 ↔ 2 ≤ flit) → exec (.linkTrained n width rate ⟨flit, neg⟩) s = .next s)) ∧
    (L.trained = false → ∀ key skid i, i ∈ [Instr.ideKeyProgram ⟨n, key, skid⟩, .recoveryEntry n, .linkRecoveryReturn n 0, .l0pNarrow n, .l0pWiden n, .aspmL1Entry n,
      .aspmL1Exit n, .dlDown n, .recoveryTimeout n, .viral n] → exec i s = .next s) ∧
    (L.trained = true →
      (∀ key skid, exec (.ideKeyProgram ⟨n, key, skid⟩) s = put { L with ide := true, key := key % 2 ^ 256, skid := skid != 0 }) ∧
      exec (.recoveryEntry n) s = put { L with pm := 3 } ∧
      (∀ r, L.pm = 3 → ∃ t, exec (.linkRecoveryReturn n r) s = .next t ∧
        linkGet t n = { L with pm := if L.l0p < L.width then 1 else 0 } ∧
        regField t 0xB0040 47 32 = satAdd 16 (regField s 0xB0040 47 32) 1 ∧ regField t 0xB0040 31 0 = satAdd 32 (regField s 0xB0040 31 0) r ∧
        regField t 0xB0040 63 48 = regField s 0xB0040 63 48 ∧ (∀ a, a ≠ 0xB0040 → regGet t a = regGet s a) ∧
        { t with regs := s.regs, host := { t.host with links := s.host.links } } = s) ∧
      (L.neg = true → L.pm ≤ 1 → 2 < L.l0p → exec (.l0pNarrow n) s = put { L with l0p := L.l0p - 1, pm := 1 }) ∧
      (L.pm = 1 → exec (.l0pWiden n) s = put { L with l0p := L.width, pm := 0 }) ∧
      (L.pm ≤ 1 → (fnGet s n).l1 = true → exec (.aspmL1Entry n) s = put { L with pm := 2 }) ∧
      (L.pm = 2 → exec (.aspmL1Exit n) s = put { L with pm := if L.l0p < L.width then 1 else 0 }) ∧
      (∀ i cause g line w, i = Instr.dlDown n ∧ cause = 1 ∨ i = .recoveryTimeout n ∧ cause = 2 ∧ L.pm = 3 ∨ i = .viral n ∧ cause = 3 →
        mode s = 3 → s.host.hold = false → logsOnly s (0xA88 + n) 3 → g < 48 → lineTier line = 2 → w.tag = line / 4096 → w.pinned = false →
        w.st = 2 → w.pres = 0 →
        s.coh = { coh0 with l2 := [(l2key g line 0, w)], dir := [(line, ⟨2, g, 0⟩)], hostSt := [(line, 2)] } →
        ∃ t, exec i s = .next t ∧
          logged { s with
            coh := coh0
            host := { s.host with
              links := tabSet (fun _ => link0) s.host.links n link0, hdm := tabSet (fun _ => 0) s.host.hdm n 0
              hpos := tabSet (fun _ => 0) s.host.hpos n 0, fns := tabSet (fun _ => fnCfg0) s.host.fns n fnCfg0, again := List.range 4
              msixEn := if n = 0 then false else s.host.msixEn, fmask := if n = 0 then false else s.host.fmask
              hold := true, cause := cause, link := n, ra := [], lastRd := 0 }
            qsu := { s.qsu with
              queues := s.qsu.queues.map (fun p => (p.1, if p.2.en then { p.2 with st := .hold } else p.2))
              topoGen := (s.qsu.topoGen + 2) % 2 ^ 64 } } t (0xA88 + n) 3 0 0)) ∧
    ((s.host.hold = false → exec .linkLostTimeout s = .next s) ∧
      (∀ line slice k b v, lineTier line = 2 → s.host.hold = true → resting s → s.host.defer = [] → s.qsu.queues = [] → s.qsu.launches = [] →
        s.cores = [] → s.coh = { coh0 with mshr := [⟨slice, line, k, 0, 0, false, 0, false⟩], net := [msg0 k line slice 100], busy := [b] } →
        b.line = line →
        (s.movers = [] → exec .linkLostTimeout s = .next { s with coh := coh0 }) ∧
        (∀ m st, s.movers = [(m, ⟨some st, []⟩)] → st.st = .running → st.txns = [v] → dsOp st.desc = 0 → paTier v.src = 2 →
          exec .linkLostTimeout s = .next { s with
            coh := coh0, movers := [(m, ⟨some { st with txns := [], st := .done, aborted := true }, []⟩)] })))

/-- The links of ride ports (R383, R384, R386, R387, R402): a change of mode, training and the exchange of IDENT, acknowledgement and replay,
and the events that fail a port. -/
def Obligations.RideLinks : Prop :=
  ∀ (s : State) (i : Nat), Live s → i < 24 → s.prf.run = none → (∀ j, (portGet s j).waitq = []) →
    let p := portGet s i
    let port := fun (x : Port) => (.next (portSet s i x) : Host.Outcome State Fault Refusal)
    let fails := fun (c : Instr) => s.qsu.evOn = false → s.ride.waits = [] → p.replay = [] → logsOnly s (rideRec i) 1 →
      ∃ t, exec c s = .next t ∧ logged { portSet s i { p with
        st := 4, lanes := 0, lockTimer := false, replay := [], waitq := [], tx := 0, rx := 0, ackd := 0, nak := false, bad := false, cred := port0.cred, owed := port0.owed }
        with qsu := { s.qsu with topoGen := (s.qsu.topoGen + 2) % 2 ^ 64 } } t (rideRec i) 1 0 0
    let comesUp := fun (c : Instr) (x : Port) => ∃ t, exec c s = .next t ∧ portGet t i = { x with st := 2, lockTimer := false } ∧
      (∀ j, j ≠ i → portGet t j = portGet s j) ∧ t.qsu.topoGen = (s.qsu.topoGen + 2) % 2 ^ 64 ∧ (quiet s → t.cores = s.cores) ∧ t.movers = s.movers
    (∀ v, mode s < 2 → p.st ≠ 5 → rwsLocked s = false → ∃ t, exec (.rideModeWrite i v) s = .next t ∧ portMode t i = v % 4 ∧
      portGet t i = (if v % 4 = portMode s i then p else { port0 with st := if v % 4 = 0 then 0 else 1 }) ∧
      (∀ j, j ≠ i → portGet t j = portGet s j) ∧ (quiet s → t.cores = s.cores)) ∧
    (∀ v, 2 ≤ mode s → ∃ t, exec (.rideModeWrite i v) s = .next t ∧ t.ride = s.ride ∧ (topoPort t i = topoPort s i → t.qsu = s.qsu) ∧
      (quiet s → t.cores = s.cores)) ∧
    (p.st ≠ 1 → exec (.portTrained i) s = .next s) ∧ (p.st ≠ 4 → exec (.portRetrain i) s = .next s) ∧
    (∀ c, c = Instr.portTrained i ∧ p.st = 1 ∨ c = .portRetrain i ∧ p.st = 4 →
      (portMode s i = 2 → comesUp c { p with lanes := 15 }) ∧
      (portMode s i ≠ 2 → exec c s = .next (emit (portSet s i { p with lanes := 15, nak := false, ackd := p.rx, owed := port0.owed })
        (.cell i 9 (cellBytes (cellHeader p 9 16 0) (identPayload s i)))))) ∧
    (∀ serial n m, portMode s i = 1 ∨ portMode s i = 3 →
      let c := Instr.ident i serial n m
      let q := { p with nserial := serial % 2 ^ 64, nport := n % 32, nmode := m % 4 }
      (p.st = 2 → serial % 2 ^ 64 = p.nserial → exec c s = .next s) ∧
      (p.st = 2 → serial % 2 ^ 64 ≠ p.nserial → fails c) ∧
      (p.lanes = 15 → p.st = 1 ∨ p.st = 3 ∨ p.st = 4 →
        (m % 4 = portMode s i → comesUp c q) ∧
        (m % 4 ≠ portMode s i → p.st = 3 → p.nserial = serial % 2 ^ 64 → p.nport = n % 32 → exec c s = port q) ∧
        (m % 4 ≠ portMode s i → p.st = 3 → (p.nserial ≠ serial % 2 ^ 64 ∨ p.nport ≠ n % 32) → ∃ t, exec c s = .next t ∧ portGet t i = q ∧
          t.qsu.topoGen = (s.qsu.topoGen + 2) % 2 ^ 64 ∧ (quiet s → t.cores = s.cores)) ∧
        (m % 4 ≠ portMode s i → p.st ≠ 3 → ∃ t, exec c s = .next t ∧ portGet t i = { q with st := 3 } ∧
          t.qsu.topoGen = (s.qsu.topoGen + 2) % 2 ^ 64 ∧ (quiet s → t.cores = s.cores)))) ∧
    (∀ l, p.st = 2 → exec (.blockLockLoss i l) s = port { p with lanes := l % 16, lockTimer := l % 16 != 15 }) ∧
    (p.st = 2 → p.lockTimer = false → exec (.laneLockLost i) s = .next s) ∧
    (p.st = 2 → p.lockTimer = true → fails (.laneLockLost i)) ∧
    (p.replay = [] → exec (.cellReplayTimeout i) s = .next s) ∧
    (∀ c, p.st = 2 → p.replay = [c] → c.tries < 8 → logsOnly s (rideRec i) 0 → ∃ t, exec (.cellReplayTimeout i) s = .next t ∧
      logged (emit (regCount (portSet s i { p with replay := [{ c with tries := c.tries + 1 }], nak := false, ackd := p.rx, owed := port0.owed })
          (0x80018 + 0x800 * i) 47 32 1) (.cell i c.ty (cellBytes (cellHeader p c.ty c.data.length c.lseq) c.data)))
        t (rideRec i) 0 0 0) ∧
    (∀ c, p.st = 2 → p.replay = [c] → 8 ≤ c.tries → s.qsu.evOn = false → logsOnly s (rideRec i) 1 → ∃ t, exec (.cellReplayTimeout i) s = .next t ∧
      (portGet t i).st = 4 ∧ (portGet t i).replay = [] ∧ regField t (frOff (rideRec i)) 4 4 = 1) ∧
    (∀ hdr c, p.st = 2 → portMode s i ≠ 2 → bitsOf hdr 127 124 = 15 → bitOf hdr 80 = false → p.replay = [c] → c.lseq = bitsOf hdr 96 81 →
      resting s ∨ bitsOf hdr 79 72 = 0 →
      exec (.idleCell i hdr) s = port { p with
        replay := [], cred := (List.range 6).map (fun k => min (port0.cred.getD k 0) (p.cred.getD k 0 + bitsOf hdr (79 - 8 * k) (72 - 8 * k))) }) ∧
    (p.st = 2 → portMode s i ≠ 2 →
      (p.bad = false → exec (.badCell i 0) s = .next (idleOut (portSet s i { p with nak := true, bad := true }) i)) ∧
      (p.bad = true → exec (.badCell i 0) s = .next s) ∧
      ∀ k, k ≠ 0 → logsOnly s (rideRec i) 2 → ∃ t, exec (.badCell i k) s = .next t ∧
        logged (idleOut (portSet s i { p with rx := (p.rx + 1) % 65536, bad := false }) i) t (rideRec i) 2 0 0)

/-- Arriving ride cells (R183 to R185, R341, R342, R384 to R387, R391 to R394), at a port with nothing in flight: the first cell out of
sequence sets NAK and no such cell has another effect; what a cell leaves to report goes out in an IDLE cell; chain words reach their core or wait; a tile is landed, refused, stale or held, and acknowledged; a fence is raised to
the message's value once for each MSGID; window reads and writes are served or denied; and each answer ends what waited for it. -/
def Obligations.RideCells : Prop :=
  ∀ (s : State) (i hdr : Nat) (d : List Byte), Live s → i < 24 → s.prf.run = none → portIdle s i 1 →
    let p := portGet s i
    let h := fieldAt d 0 16
    let rx := (p.rx + 1) % 65536
    let cell := fun (ty : Nat) (ok : Bool) => (⟨ty, rx, d, 0, 0, ok, false⟩ : RCell)
    let holds := fun (ty : Nat) (ok : Bool) =>
      (.next (idleOut (portSet s i { p with rx := rx, bad := false, held := [cell ty ok] }) i) : Host.Outcome State Fault Refusal)
    let off := (.next (if p.bad then s else idleOut (portSet s i { p with nak := true, bad := true }) i) : Host.Outcome State Fault Refusal)
    let done := fun (u : State) => (.next (idleOut u i) : Host.Outcome State Fault Refusal)
    (∀ c, c ∈ [Instr.chainCell i hdr d, .fenceCell i hdr d, .winRd i hdr d, .tileAck i hdr d, .fenceAck i hdr d, .winRsp i hdr d] →
      (bitsOf hdr 127 124 = 1 ∧ c = .chainCell i hdr d ∨ bitsOf hdr 127 124 = 3 ∧ c = .fenceCell i hdr d ∨
        bitsOf hdr 127 124 = 5 ∧ c = .winRd i hdr d ∨ bitsOf hdr 127 124 = 8 ∧ c = .tileAck i hdr d ∨
        bitsOf hdr 127 124 = 4 ∧ c = .fenceAck i hdr d ∨ bitsOf hdr 127 124 = 7 ∧ c = .winRsp i hdr d) →
      bitsOf hdr 112 97 ≠ rx → exec c s = off) ∧
    (resting s → bitsOf hdr 112 97 ≠ rx →
      (bitsOf hdr 127 124 = 2 → exec (.tileCell i hdr d) s = off) ∧ (bitsOf hdr 127 124 = 6 → exec (.winWr i hdr d) s = off)) ∧
    (nextCell s i hdr 1 →
      let x := cell 1 false
      (judgeChain s i x = .hold → exec (.chainCell i hdr d) s = holds 1 (chainComp s i d != 0 && chainAhead s i x == 0)) ∧
      (judgeChain s i x = .stale → exec (.chainCell i hdr d) s = done (freeCredit (countStale (tookCell s i) i) i 1)) ∧
      (judgeChain s i x = .malformed → logsOnly s (rideRec i) 2 → ∃ t, exec (.chainCell i hdr d) s = .next t ∧
        logged (idleOut (freeCredit (tookCell s i) i 1) i) t (rideRec i) 2 0 0) ∧
      (∀ c slot, judgeChain s i x = .deliver c slot → exec (.chainCell i hdr d) s = done (freeCredit (coreMap (tookCell s i) c (fun k => { k with
        wire := tabSet (fun _ => []) k.wire slot (wireGet k slot ++ chainWords d)
        rrecv := tabSet (fun _ => 0) k.rrecv slot ((tabGet (fun _ => 0) k.rrecv slot + (chainWords d).length) % 65536) })) i 1))) ∧
    (nextCell s i hdr 2 → resting s → s.coh = coh0 → s.tiers.poison = [] →
      let tag := bitsOf h 71 56
      let n := (tlData d).length
      (tileFits d = false → logsOnly s (rideRec i) 2 → ∃ t, exec (.tileCell i hdr d) s = .next t ∧
        logged (idleOut (freeCredit (tookCell s i) i 2) i) t (rideRec i) 2 0 0) ∧
      (tileFits d = true → judgeTile s i d = 1 → s.qsu.evOn = false → exec (.tileCell i hdr d) s =
        done (answersCell (rideCount s i 0 1) i 8 (leBytes 16 (tag + 2 ^ 16)) 2)) ∧
      (tileFits d = true → judgeTile s i d = 2 → exec (.tileCell i hdr d) s =
        done (answersCell (countStale s i) i 8 (leBytes 16 (tag + 2 * 2 ^ 16)) 2)) ∧
      (∀ e, tileFits d = true → judgeTile s i d = 0 → landEntry s (bitsOf h 127 112) = some e → leKind e = 0 → leSel e = 0 →
        let a := e.getD 1 0 + bitsOf h 95 72
        bitOf (e.getD 0 0) 34 = false → paTier a = 0 → a < 2 ^ 44 → a % 64 + n ≤ 64 → hostBias s (a / 64) = false →
        (∀ x ∈ s.cores, x.2.hints = []) →
        ∃ t, exec (.tileCell i hdr d) s = .next t ∧ paRead t 0 a n = (tlData d, false) ∧
          (∀ line, line ≠ a / 64 → memRead t 0 line = memRead s 0 line) ∧
          t.out = (idleOut (answersCell s i 8 (leBytes 16 tag) 2) i).out ∧
          t.ride.landed = (p.nserial, tag) :: s.ride.landed ∧ t.coh = coh0 ∧ t.cores = s.cores)) ∧
    (nextCell s i hdr 8 → ∀ m tile mask st v, s.ride.tiles = [⟨bitsOf h 15 0, m, tile, mask⟩] → m ≠ resliceMover → moverGet s m = ⟨some st, v⟩ →
      let u := freeCredit { tookCell s i with ride := { (tookCell s i).ride with tiles := [] } } i 8
      (bitsOf h 17 16 = 0 → st.txns.any (fun x => x.tile == tile) = false → exec (.tileAck i hdr d) s =
        done (moverSet u m ⟨some { st with tdone := st.tdone + 1 }, v⟩)) ∧
      (bitsOf h 17 16 ≠ 0 → st.st ≠ .cut → st.aborted = false → ∃ t, exec (.tileAck i hdr d) s = .next t ∧
        moverGet t m = ⟨some { st with txns := [], st := .faulted, cause := 8, aborted := true }, v⟩ ∧ t.ride = (idleOut u i).ride ∧ t.cores = s.cores)) ∧
    (nextCell s i hdr 3 → s.ride.lands = [] → s.coh = coh0 → s.tiers.poison = [] → s.qsu.queues = [] →
      let msg := bitsOf h 127 100
      (remoteServed s i = false → (∀ f ∈ s.ride.fences, f.1 ≠ p.nserial) → exec (.fenceCell i hdr d) s =
        done (answersCell { s with ride := { s.ride with fences := (p.nserial, msg, 3, 0) :: s.ride.fences } } i 4 (fenceAckPayload msg 3 0) 3)) ∧
      (∀ res v, s.ride.fences = [(p.nserial, msg, res, v)] → remoteServed s i = false →
        exec (.fenceCell i hdr d) s = done (answersCell s i 4 (fenceAckPayload msg res v) 3)) ∧
      (remoteServed s i = true → s.ride.fences = [] → s.qsu.evOn = false →
        let pa := (remotePA s (bitsOf h 99 64)).1
        let old := leNat (paRead s 0 pa 8).1
        let new := bitsOf h 63 0
        (remotePA s (bitsOf h 99 64)).2 = 0 → rangeHeld s (rideSrc i) 0 pa 8 true = false → paTier pa = 0 → pa < 2 ^ 44 → pa % 8 = 0 →
        hostBias s (pa / 64) = false →
        ∃ t, exec (.fenceCell i hdr d) s = .next t ∧ leNat (paRead t 0 pa 8).1 = max old new ∧
          t.out = (idleOut (answersCell s i 4
            (fenceAckPayload msg (if old < new then (if new = 2 ^ 64 - 1 then 2 else 0) else if new = old then 0 else 1) old) 3) i).out ∧
          t.ride.fences.length = 1 ∧ t.cores = s.cores)) ∧
    (nextCell s i hdr 4 → ∀ q idx, s.ride.waits = [⟨2, bitsOf h 127 100, i, q, idx⟩] →
      let u := freeCredit { tookCell s i with ride := { (tookCell s i).ride with waits := [] } } i 4
      let v := bitsOf h 63 0
      (bitsOf h 65 64 = 0 → exec (.fenceAck i hdr d) s = done (finishNow u q idx 0 v 0)) ∧
      (bitsOf h 65 64 = 1 → exec (.fenceAck i hdr d) s = done (finishNow u q idx 0x05 v 0)) ∧
      (bitsOf h 65 64 = 2 → exec (.fenceAck i hdr d) s = done (finishNow u q idx 0x06 v 0)) ∧
      (bitsOf h 65 64 = 3 → exec (.fenceAck i hdr d) s = done (finishNow u q idx 0x07 0 0))) ∧
    (nextCell s i hdr 5 →
      let n := 2 ^ bitsOf h 37 36
      let tag := bitsOf h 63 40
      (bitOf h 127 = true → exec (.winRd i hdr d) s =
        done (answersCell s i 7 (leBytes 16 (tag * 2 ^ 40 + leNat (topoBytes (tookCell s i) (bitsOf h 35 0) n) * 2 ^ 64)) 5)) ∧
      (bitOf h 127 = false → remoteServed s i = false → exec (.winRd i hdr d) s =
        done (answersCell s i 7 (leBytes 16 (1 + tag * 2 ^ 40 + (2 ^ 64 - 1) * 2 ^ 64)) 5)) ∧
      (bitOf h 127 = false → remoteServed s i = true →
        let pa := remotePA s (bitsOf h 35 0)
        (rangeHeld s (rideSrc i) pa.2 pa.1 n false = false → exec (.winRd i hdr d) s =
          done (answersCell (readNotes (rangeTake s (rideSrc i) pa.1 n) pa.1 n) i 7 (leBytes 16 (tag * 2 ^ 40 + leNat (paRead s pa.2 pa.1 n).1 * 2 ^ 64)) 5)) ∧
        (rangeHeld s (rideSrc i) pa.2 pa.1 n false = true → exec (.winRd i hdr d) s = holds 5 false))) ∧
    (nextCell s i hdr 6 → resting s → s.coh = coh0 → s.tiers.poison = [] → bitOf h 127 = false →
      let n := 2 ^ bitsOf h 37 36
      let tag := bitsOf h 63 40
      let pa := (remotePA s (bitsOf h 35 0)).1
      (remoteServed s i = false → exec (.winWr i hdr d) s =
        done (answersCell s i 7 (leBytes 16 (1 + tag * 2 ^ 40 + (2 ^ 64 - 1) * 2 ^ 64)) 6)) ∧
      (remoteServed s i = true → (remotePA s (bitsOf h 35 0)).2 = 0 → rangeHeld s (rideSrc i) 0 pa n true = false → paTier pa = 0 → pa + n < 2 ^ 44 →
        (∀ l ∈ rangeLines pa n, hostBias s l = false) →
        ∃ t, exec (.winWr i hdr d) s = .next t ∧ paRead t 0 pa n = (leBytes n (bitsOf h 127 64), false) ∧
          t.out = (idleOut (answersCell s i 7 (leBytes 16 (tag * 2 ^ 40)) 6) i).out ∧ t.coh = coh0 ∧ t.cores = s.cores)) ∧
    (nextCell s i hdr 7 → ∀ c l, c < 2400 → s.ride.waits = [⟨0, bitsOf h 63 40, i, c, l.tag⟩] → (coreGet s c).loads = [l] →
      coreFree { coreGet s c with loads := [] } = true → (coreGet s c).latch = slots0 →
      exec (.winRsp i hdr d) s = done (coreSet (freeCredit { tookCell s i with ride := { (tookCell s i).ride with waits := [] } } i 7) c
        { coreGet s c with loads := [{ l with
          parts := [⟨l.pa / 64, some (lineAt l.pa (leBytes (smSize l.width) (if bitOf h 0 then 2 ^ 64 - 1 else bitsOf h 127 64)), false), false⟩] }] }))

/-- Ethernet requests and the storage target (R395 to R397, R477): a request that a condition of R396 refuses gets a NAK and is counted; one
that passes writes or reads device memory; a marked packet gives a CNP at most every 50 µs and a CNP is counted against the requester's rate;
the proof engine goes from step to step of R477, asks again after a time-out, and fails its target when its retries are used up. -/
def Obligations.EthernetRequests : Prop :=
  ∀ (s : State) (i : Nat), Live s → i < 24 →
    (portUp s i 2 = true → ∀ rkey va,
      let w := ethRegion s (rkey % 4096) 0
      let base := ethRegion s (rkey % 4096) 1
      let len := ethRegion s (rkey % 4096) 2
      (∀ n data, data.length = n →
        (bitOf w 63 = false ∨ bitsOf w 51 32 ≠ rkey / 4096 % 2 ^ 20 ∨ va < base ∨ base + len < va + n →
          exec (.rdmaWrite i rkey va data) s = .next (rdmaNak s i) ∧ exec (.rdmaRead i rkey va n) s = .next (rdmaNak s i)) ∧
        (bitOf w 62 = false → exec (.rdmaWrite i rkey va data) s = .next (rdmaNak s i)) ∧
        (bitOf w 61 = false → exec (.rdmaRead i rkey va n) s = .next (rdmaNak s i))) ∧
      (∀ lf n, bitOf w 63 = true → bitsOf w 51 32 = rkey / 4096 % 2 ^ 20 → base ≤ va → va + n ≤ base + len → 0 < n → va % 64 + n ≤ 64 →
        (translate s (bitsOf w 60 53) va).1 = .leaf lf → paTier (ePage lf.ent) = 0 → eSel lf.ent = 0 → s.coh = coh0 → s.tiers.poison = [] →
        let pa := leafPA lf va
        (bitOf w 61 = true → eR lf.ent = true → rangeHeld s (rideSrc i) 0 pa n false = false →
          exec (.rdmaRead i rkey va n) s = .next (emit (readNotes s pa n) (.packet i 4 (paRead s 0 pa n).1))) ∧
        (∀ data, data.length = n → bitOf w 62 = true → eW lf.ent = true → rangeHeld s (rideSrc i) 0 pa n true = false → resting s → paTier pa = 0 →
          pa + n < 2 ^ 44 → (∀ l ∈ rangeLines pa n, hostBias s l = false) → ∃ t, exec (.rdmaWrite i rkey va data) s = .next t ∧ paRead t 0 pa n = (data, false) ∧
            t.out = s.out ++ [.packet i 3 []] ∧ t.coh = coh0 ∧ t.cores = s.cores ∧ t.ride = s.ride))) ∧
    (∀ qp gap, portUp s i 2 = true →
      exec (.ecnMarkedPacket i qp gap) s = .next (if 50 ≤ gap then emit s (.packet i 6 (leBytes 4 qp)) else s) ∧
      ∃ t, exec (.cnp i qp) s = .next t ∧ (∀ q, tabGet (fun _ => 0) t.ride.rate q =
        tabGet (fun _ => 0) s.ride.rate q + if q = qp % 4096 then 1 else 0) ∧ { t with ride := s.ride } = s) ∧
    (∀ r, s.prf.run = some r → r.cmd = 6 →
      let w := qpWord s (storeQp s) 0
      let goes := fun (x : PrfRun) => emit { s with prf := { s.prf with run := some x } } (.packet (bitsOf w 60 56) (stoRequest s x).1 (stoRequest s x).2)
      (r.sto = 0 → (∀ ok data, exec (.rdmaResponse ok data) s = .next s) ∧ exec .rdmaRetryTimeout s = .next s) ∧
      (∀ data, r.sto = 3 → r.phase = 1 → exec (.rdmaResponse 1 data) s = .next { s with prf := { s.prf with run := some { r with sto := 9 } } }) ∧
      (rangerUp s = true → bitsOf w 63 61 = 6 → portUp s (bitsOf w 60 56) 2 = true →
        (∀ data, r.sto = 1 → exec (.rdmaResponse 1 data) s =
          .next (goes { r with img := tabPut r.img (hdrAt 0) (data.take 4096), sto := 2, retry := 0 })) ∧
        (∀ data, r.sto = 4 → exec (.rdmaResponse 1 data) s = .next (goes { r with sto := 5, retry := 0 })) ∧
        (∀ data, r.sto = 5 → exec (.rdmaResponse 1 data) s = .next (goes { r with sto := 6, retry := 0 })) ∧
        (r.sto ≠ 0 → r.sto ≠ 9 → r.retry < qpWord s (storeQp s) 5 % 256 →
          exec .rdmaRetryTimeout s = .next (goes { r with retry := r.retry + 1 }))) ∧
      (∀ c, c = Instr.rdmaResponse 0 [] ∨ c = .rdmaRetryTimeout ∧ qpWord s (storeQp s) 5 % 256 ≤ r.retry → r.sto ≠ 0 → r.sto ≠ 9 →
        r.auto = true → s.qsu.evOn = false → s.coh = coh0 → ∃ t, exec c s = .next t ∧ t.prf = { s.prf with run := none } ∧ regField t 0x90048 39 32 = 0x33 ∧
          t.cores = s.cores ∧ t.qsu = s.qsu))

/-- The proof partner (R253, R473, R475, R476, R479, R482 to R485, R527): BEGIN opens the slot that does not hold the newest proof, DATA is
placed by offset, COMMIT is answered OK only when every byte has come and the digests agree, ACK commits or fails the proof, READ_REQ is
served from the reserve, and heartbeats keep the pair; PROOF cells of any other serial have no effect, and a pair without heartbeats is
lost. -/
def Obligations.ProofPartner : Prop :=
  ∀ (s : State) (i hdr : Nat) (d : List Byte), Live s → i < 24 → portIdle s i 3 → nextCell s i hdr 10 → s.tiers.owHeld = [] →
    let b := freeCredit (tookCell s i) i 10
    let prf := fun (f : Prf) => { b with prf := f }
    let g := pcGen d
    let j := ownOpen s
    let done := fun (u : State) => (.next (idleOut u i) : Host.Outcome State Fault Refusal)
    (s.prf.run = none → fromPartner s i = false → ∀ c, c ∈ [Instr.proofBegin i hdr d, .proofData i hdr d, .proofCommit i hdr d, .proofAck i hdr d,
      .readReq i hdr d, .readData i hdr d, .proofAbort i hdr d, .heartbeat i hdr d] → exec c s = done b) ∧
    (fromPartner s i = true → s.prf.run = none →
      (pcKind d = 1 → 0 < slotGib s → exec (.proofBegin i hdr d) s =
        done { resWrite b (slotBase s j) (slotHeader 1 g (regGet s 0x90008) 0 []) with prf := { s.prf with recv := some ⟨g, j, [], []⟩ } }) ∧
      (∀ r, pcKind d = 0 → s.prf.recv = some r →
        (g = r.gen → 0 < (pcData d).length → 4096 + pcOff d + (pcData d).length ≤ slotGib s * gib → exec (.proofData i hdr d) s =
          done { resWrite b (slotBase s r.slot + 4096 + pcOff d) (pcData d) with prf := { s.prf with
            recv := some { r with got := (pcOff d, (pcData d).length) :: r.got, img := tabPut r.img (pcOff d) (pcData d) } } }) ∧
        (g ≠ r.gen ∨ slotGib s * gib < 4096 + pcOff d + (pcData d).length → exec (.proofData i hdr d) s = done b)) ∧
      (pcKind d = 2 → pairUp s = [i] → s.qsu.evOn = false →
        let n := fieldAt (pcData d) 0 8
        let dig := ((pcData d).drop 8).take 48
        (s.prf.recv = none → exec (.proofCommit i hdr d) s = done (sendsCell b i 10 (prfCell 3 g 0 0 0 1 []) (pairMask s))) ∧
        (∀ r, s.prf.recv = some r →
          (g ≠ r.gen ∨ covers r.got 0 n = false ∨ digestBytes (tabBytes r.img 0 n) ≠ dig → exec (.proofCommit i hdr d) s =
            done (sendsCell (prf { s.prf with recv := none }) i 10 (prfCell 3 g r.slot 0 0 1 []) (pairMask s))) ∧
          (g = r.gen → covers r.got 0 n = true → digestBytes (tabBytes r.img 0 n) = dig → exec (.proofCommit i hdr d) s =
            done (sendsCell (regSet (resWrite (prf { s.prf with recv := none }) (slotBase s r.slot) (slotHeader 2 g (regGet s 0x90008) n dig))
              0x90050 63 32 g) i 10 (prfCell 3 g r.slot 0 0 0 []) (pairMask s))))) ∧
      (pcKind d = 3 → exec (.proofAck i hdr d) s = done b) ∧
      (pcKind d = 4 → pairUp s = [i] → pcOff d < hdrOff → pcLen d ≤ 1024 →
        let o := 4096 + pcOff d
        let bytes := resRead s (slotBase s (pcSlot d) + o) (pcLen d)
        (slotGib s * gib < o + pcLen d ∨ bytes.2 = true → exec (.readReq i hdr d) s =
          done (sendsCell b i 10 (prfCell 7 g (pcSlot d) 0 0 0 []) (pairMask s))) ∧
        (o + pcLen d ≤ slotGib s * gib → bytes.2 = false → bytes.1.length = pcLen d → exec (.readReq i hdr d) s =
          done (sendsCell b i 10 (prfCell 5 g (pcSlot d) (pcOff d) 0 0 bytes.1) (pairMask s)))) ∧
      (pcKind d = 5 → exec (.readData i hdr d) s = done b) ∧
      (∀ r, pcKind d = 7 → s.prf.recv = some r → exec (.proofAbort i hdr d) s =
        done (if g = r.gen then prf { s.prf with recv := none } else b)) ∧
      (pcKind d = 6 → fieldAt (pcData d) 0 8 ≠ regGet s 0x90008 → exec (.heartbeat i hdr d) s = done b) ∧
      (pcKind d = 6 → fieldAt (pcData d) 0 8 = regGet s 0x90008 →
        let w := fieldAt (pcData d) 8 8
        let new := fieldAt (pcData d) 16 4
        let p := { s.prf with strap := bitsOf w 19 16, risk := bitsOf w 7 0, beat := true }
        (s.prf.pair = 2 ∨ s.prf.pair = 3 → exec (.heartbeat i hdr d) s = done (regSet (prf p) 0x90050 31 0 new)) ∧
        (s.prf.pair = 0 → exec (.heartbeat i hdr d) s =
          done (prf (if regField s 0x90000 16 16 = 1 then { p with pair := 1 } else p))) ∧
        (s.prf.pair = 4 → s.qsu.evOn = false → exec (.heartbeat i hdr d) s =
          done (regSet (prf { p with
            pair := if regField s 0x90000 11 8 = regField s 0x90000 3 0 then 3 else 2, lost := false
            autoNext := s.prf.autoNext || decide (new < regField s 0x90050 31 0) }) 0x90050 31 0 new)))) ∧
    (∀ r, fromPartner s i = true → s.prf.run = some r → s.qsu.evOn = false →
      (pcKind d = 3 → r.cmd = 6 → r.phase = 3 → g = r.gen → r.want = 1 → r.ok = 0 → r.gone = false → r.auto = true →
        (pcRes d = 0 → dWord r.body 6 = 0 → dWord r.body 7 = 0 → ∃ t, exec (.proofAck i hdr d) s = .next t ∧
          t.prf = { s.prf with run := none, pslot := pcSlot d, gen := max s.prf.gen r.gen } ∧
          regField t 0x90050 31 0 = r.gen ∧ regField t 0x90048 39 32 = 0 ∧ t.tiers = s.tiers ∧ t.cores = s.cores) ∧
        (pcRes d = 1 → logsOnly s 0xA95 1 → ∃ t, exec (.proofAck i hdr d) s = .next t ∧
          logged (idleOut (regSet (prf { s.prf with run := none }) 0x90048 39 32 0x36) i) t 0xA95 1 0 0)) ∧
      (pcKind d = 5 → r.cmd = 7 → r.want = 1 → r.phase = 1 → r.slot = 0 →
        covers ((pcOff d + 4096 * pcSlot d, (pcData d).length) :: r.have_) (hdrAt 0) 4096 = false → exec (.readData i hdr d) s =
          done (prf { s.prf with run := some { r with
            img := tabPut r.img (pcOff d + 4096 * pcSlot d) (pcData d), have_ := (pcOff d + 4096 * pcSlot d, (pcData d).length) :: r.have_ } }))) ∧
    (pairUp s = [i] → exec .heartbeatSend s = .next (sendsCell s i 10 (prfCell 6 0 0 0 0 0 (beatBytes s)) (2 ^ i))) ∧
    (∀ c, c = Instr.pairLost ∨ c = .pairSenseLow → s.prf.run = none →
      (s.prf.pair ≠ 2 → s.prf.pair ≠ 3 → exec c s = .next s) ∧
      (s.prf.pair = 2 ∨ s.prf.pair = 3 → s.qsu.evOn = false → logsOnly s 0xA95 0 → ∃ t, exec c s = .next t ∧
        logged { s with prf := { s.prf with pair := 4, lost := true, risk := 0 } } t 0xA95 0 0 0))

/-- The draw budget (R29, R403, R406, R412, R413, R416, R421, R429, R433, R436, R535): an interval shows its sample, the cap and the budgets,
keeps every domain within its ceiling, takes a domain that is over its budget down to the highest point that fits, and starts the lowest
grove of a LAUNCH that waits unless it has admitted rises already; a voltage step ends,
K is corrected, a cap or a grant is taken, and a hot sensor begins its action. -/
def Obligations.PowerBudget : Prop :=
  ∀ (s : State), Live s →
    let clear := { s.pwr with sumM := 0, sumL := 0, sumD := 0, spoil := false }
    (∀ volt curr cnt, ∃ t, exec (.cappingInterval volt curr cnt) s = .next t ∧
      regField t 0x70040 47 32 = volt % 65536 ∧ regField t 0x70040 15 0 = curr % 65536 ∧ regField t 0x70030 44 32 = effCap s ∧
      (∀ d, d < 5 → regField t (0x70080 + 8 * d) 44 32 = min 8191 (domBudget s d)) ∧
      (∀ d, d < 5 → (ceiling t d).1 ≤ (domGet t d).point ∧ (domGet t d).duty ≤ (ceiling t d).2) ∧
      (pwrFlag s 5 = false → volt % 65536 < 4200 → pwrFlag t 2 = true) ∧
      t.pwr.low = (if volt % 65536 < 3800 then s.pwr.low + 1 else 0) ∧
      (∀ d, d < 5 → d < 4 → (liveStands s).contains d = true →
        let u := applyCeilings (classify (regSet (regSet s 0x70040 47 32 (volt % 65536)) 0x70040 15 0 (curr % 65536)) (volt % 65536))
        let e := estimate u (volt % 65536) (currDraw (curr % 65536)) cnt
        let b := domBudget s d * duEnergy (volt % 65536)
        b < scaledEst e d → (domGet u d).point < domFloor d →
          (domGet t d).step = 1 ∧ (domGet u d).point < (domGet t d).point ∧
          (predicted u e d (domGet t d).point ≤ b ∨ (domGet t d).point = domFloor d) ∧
          (∀ p, (domGet u d).point < p → p < (domGet t d).point → b < predicted u e d p)) ∧
      (quiet s → ∀ c, coreGet t c = if (coreGet s c).st = .loading ∧ (coreGet t c).st = .running then { coreGet s c with st := .running } else coreGet s c) ∧
      (∀ g, g < 48 → groveWaits s g = true → (∀ h, h < g → groveWaits s h = false) → groveWaits t g = true → t.pwr.rampUsed ≠ 0) ∧
      t.movers = s.movers) ∧
    ((classBudgets s).1 + (classBudgets s).2 = effCap s - linkAllot s ∧ effCap s ≤ 4800) ∧
    (∀ d, d < 5 → let v := domGet s d
      (v.step = 0 → exec (.vfStepSettled d) s = .next s) ∧
      (v.step = 1 → exec (.vfStepSettled d) s = .next (domSet s d { v with step := 0, fit := 0 })) ∧
      (v.step = 2 → exec (.vfStepSettled d) s = .next (domSet s d { v with point := v.target, step := 0, fit := 0 }))) ∧
    ((s.pwr.spoil = true ∨ pwrFlag s 5 = true ∨ disturbed s = true → exec .kUpdate s = .next { s with pwr := clear }) ∧
      (s.pwr.spoil = false → pwrFlag s 5 = false → disturbed s = false → s.pwr.sumD ≠ 0 → ∃ t, exec .kUpdate s = .next t ∧ t.pwr = clear ∧
        3072 ≤ kFactor t ∧ kFactor t ≤ 5120 ∧
        kFactor t = (max 3072 (min 5120 ((kFactor s : Int) + (((s.pwr.sumM - s.pwr.sumL) * 4096 / s.pwr.sumD : Nat) - (kFactor s : Int)) / 16))).toNat ∧
        (∀ a, a ≠ 0x70048 → regGet t a = regGet s a) ∧ (quiet s → t.cores = s.cores))) ∧
    (∀ v, exec (.pwrCapWrite v) s = .next (regSet s 0x70008 12 0 v) ∧ effCap (regSet s 0x70008 12 0 v) ≤ v % 2 ^ 13) ∧
    (∀ g, (rangerUp s = false → exec (.pldmGrant g) s = .next s) ∧
      (rangerUp s = true → ∃ t, exec (.pldmGrant g) s = .next t ∧ regField t 0x70010 12 0 = min g 4800 ∧ regField t 0x70010 13 13 = 1 ∧
        effCap t ≤ min g 4800 ∧ t.pwr = s.pwr ∧ (quiet s → t.cores = s.cores))) ∧
    ((rangerUp s = false → exec .sensorRefresh s = .next s) ∧
      (rangerUp s = true → ∃ a b rest, exec .sensorRefresh s =
        .next (emit { s with free := s.free + 2 } (.pldm 16 ([a, b, s.pwr.energy / 10 ^ 15, effCap s, regField s 0x70048 15 0] ++ rest))))) ∧
    (∀ temps, s.pwr.hot = [] → s.pwr.cool = [] →
      let u := { s with pwr := { s.pwr with temps := temps.take 29 } }
      let at_ := fun i => sensorTemp (temps.take 29) i
      ((∀ i, i < 17 → at_ i < threshold i 0) → exec (.thermalCheck temps) s = .next (applyCeilings u)) ∧
      (∀ i, i < 4 → threshold i 0 ≤ at_ i → at_ i < threshold i 1 → (∀ j, j < 17 → j ≠ i → at_ j < threshold j 0) → logsOnly s (0xA8C + i) 3 →
        ∃ t, exec (.thermalCheck temps) s = .next t ∧ logged (applyCeilings { u with pwr := { u.pwr with hot := [4 * i] } }) t (0xA8C + i) 3 0 0))

/-- Disturbances, the loss of the feed and the power inputs (R404, R417, R418, R420 to R423, R425 to R427, R525): each event acts only where
its condition has held, shows in PWR_STATUS, and FEED_LOSS makes the complex FROZEN. -/
def Obligations.PowerEvents : Prop :=
  ∀ (s : State), Live s →
    let v := regField s 0x70040 47 32
    let does := fun (c : Nat) => s.qsu.evOn = false → pwrFlag s 5 = false →
      exec (.measImplausible c) s = .next { regSet s 0x70030 5 5 1 with pwr := { s.pwr with plaus := 0, spoil := true } }
    let same := fun (t : State) => t.cores = s.cores ∧ t.movers = s.movers ∧ t.coh = s.coh
    ((pwrFlag s 4 = true ∨ pwrFlag s 5 = true ∨ s.pwr.agree < 500 → exec .estDiverge s = .next s) ∧
      (pwrFlag s 4 = false → pwrFlag s 5 = false → 500 ≤ s.pwr.agree → s.qsu.evOn = false →
        exec .estDiverge s = .next { regSet s 0x70030 4 4 1 with pwr := { s.pwr with agree := 0 } })) ∧
    ((v < 2000 ∨ 7000 < v → does 1) ∧ (inBounds 5000 (regField s 0x70040 15 0) = false → does 2) ∧ does 3 ∧
      (∀ c, pwrFlag s 5 = true → exec (.measImplausible c) s = .next s) ∧
      (2000 ≤ v → v ≤ 7000 → exec (.measImplausible 1) s = .next s) ∧
      (s.qsu.evOn = false → pwrFlag s 5 = false → logsOnly s 0xA93 0 → ∃ t, exec (.measImplausible 4) s = .next t ∧
        logged { regSet s 0x70030 5 5 1 with pwr := { s.pwr with plaus := 0, spoil := true } } t 0xA93 0 0 0)) ∧
    ((pwrFlag s 3 = true ∨ s.pwr.aboveN < 10 → exec .capUnreachable s = .next s) ∧
      (pwrFlag s 3 = false → 10 ≤ s.pwr.aboveN → ∃ t, exec .capUnreachable s = .next t ∧ pwrFlag t 3 = true ∧
        (∀ d, d < 5 → (domGet t d).point = domFloor d ∧ (d < 4 → (domGet t d).duty = 0)) ∧ (quiet s → t.cores = s.cores) ∧ t.movers = s.movers)) ∧
    ((pwrFlag s 3 = false ∨ s.pwr.under < 500 → exec .capReached s = .next s) ∧
      (pwrFlag s 3 = true → 500 ≤ s.pwr.under → ∃ t, exec .capReached s = .next t ∧ pwrFlag t 3 = false ∧ t.pwr = s.pwr ∧ (quiet s → t.cores = s.cores))) ∧
    (∀ low dur, (pwrFlag s 2 = false ∨ v < 4400 ∨ pwrFlag s 5 = true → exec (.sagEnd low dur) s = .next s) ∧
      (pwrFlag s 2 = true → 4400 ≤ v → pwrFlag s 5 = false → regField s 0x1F1010 10 10 = 0 → s.pwr.log.length < 256 →
        ∃ t, exec (.sagEnd low dur) s = .next t ∧ pwrFlag t 2 = false ∧
          t.pwr = { s.pwr with log := s.pwr.log ++ [⟨s.pwr.logSeq, 1, low, dur⟩], logSeq := s.pwr.logSeq + 1 } ∧ (quiet s → t.cores = s.cores))) ∧
    (∀ pp, let lim := regField s 0x70028 15 0
      let n := min 1000 (s.pwr.ripGap + 1)
      (lim < pp → exec (.rippleWindow pp) s =
        .next { s with pwr := { s.pwr with ripGap := n, ripple := true, ripplePp := if s.pwr.ripple then max s.pwr.ripplePp pp else pp } }) ∧
      (pp ≤ lim → s.pwr.ripple = false → exec (.rippleWindow pp) s = .next { s with pwr := { s.pwr with ripGap := n } }) ∧
      (pp ≤ lim → s.pwr.ripple = true → n < 1000 → exec (.rippleWindow pp) s = .next { s with pwr := { s.pwr with ripGap := n, ripple := false } }) ∧
      (pp ≤ lim → s.pwr.ripple = true → n = 1000 → regField s 0x1F1010 10 10 = 0 → s.pwr.log.length < 256 →
        ∃ t, exec (.rippleWindow pp) s = .next t ∧
          t.pwr = { s.pwr with ripGap := 0, ripple := false, log := s.pwr.log ++ [⟨s.pwr.logSeq, 4, s.pwr.ripplePp, 0⟩], logSeq := s.pwr.logSeq + 1 })) ∧
    ((s.pwr.low < 10 → pwrFlag s 5 = false → exec .feedLoss s = .next s) ∧
      (∀ c, c = Instr.feedLoss ∧ (10 ≤ s.pwr.low ∨ pwrFlag s 5 = true) ∨ c = .pwrGoodLow → ∃ t, exec c s = .next t ∧ mode t = 5 ∧ frozen t = true ∧
        same t ∧ (∀ a, a ≠ 0x20008 → regGet t a = regGet s a) ∧
        (regField s 0x1F1010 10 10 = 0 → s.pwr.log.length < 256 → t.pwr.log = s.pwr.log ++ [⟨s.pwr.logSeq, 5, v, 0⟩]))) ∧
    (exec .feedLossWritesSent s = .next s) ∧
    (∀ z, frozen z = true → ∃ t, exec .feedLossWritesSent z = .next t ∧ t.host.links = [] ∧ (∀ i, (portGet t i).lanes = 0) ∧
      t.cores = z.cores ∧ t.tiers = z.tiers ∧ t.regs = z.regs) ∧
    (∀ i, i < 2 →
      let p := if i = 0 then s.pwr.throttle else s.pwr.alert
      let pin := fun (t : State) => if i = 0 then t.pwr.throttle else t.pwr.alert
      let on := fun (gap : Nat) => if i = 0 then Instr.throttleInAssert gap else .feedAlertAssert gap
      let off := if i = 0 then Instr.throttleInDeassert else .feedAlertDeassert
      (∀ gap, ∃ t, exec (on gap) s = .next t ∧ pwrFlag t i = true ∧ pin t = ⟨true, true, p.chat || decide (gap < 100)⟩ ∧
        (gap < 100 → p.chat = false → regField t 0x70038 (2 * i + 1) (2 * i + 1) = 1) ∧
        (i = 1 → ∀ d, d < 4 → 8 ≤ (domGet t d).point) ∧ (i = 0 → t.pwr.doms = s.pwr.doms) ∧ (quiet s → t.cores = s.cores)) ∧
      (∃ t, exec off s = .next t ∧ pin t = { p with raw := false, on := p.chat } ∧ pwrFlag t i = p.chat ∧ t.pwr.doms = s.pwr.doms ∧ (quiet s → t.cores = s.cores)) ∧
      (p.on = false → exec (.pinStuck i) s = .next s) ∧
      (p.on = true → ∃ t, exec (.pinStuck i) s = .next t ∧ regField t 0x70038 (2 * i) (2 * i) = 1 ∧ t.pwr = s.pwr ∧ (quiet s → t.cores = s.cores)) ∧
      (p.chat = false ∨ p.raw = true → exec (.pinChatterEnd i) s = .next s) ∧
      (p.chat = true → p.raw = false → ∃ t, exec (.pinChatterEnd i) s = .next t ∧ pin t = ⟨false, false, false⟩ ∧ pwrFlag t i = false ∧
        t.pwr.doms = s.pwr.doms ∧ (quiet s → t.cores = s.cores)))

/-- Fault records (R437, R439, R440, R443, R444, R452 to R455, R463): a detected error is latched and counted, a further one only sets
OVERFLOW; a reaction that calls for the pin asserts it and traps into the fault log; a canopy error poisons its line; a block reset and a
quiet period end; forced errors, injection, the latch's and the pin's clearing, and the growth rings' reports. -/
def Obligations.FaultRecords : Prop :=
  ∀ (s : State) (rec : Nat), Live s →
    let o := frOff rec
    let only := fun (t : State) (a : Nat) => (∀ b, b ≠ a → regGet t b = regGet s b) ∧ { t with regs := s.regs } = s
    (frClass rec = none → ∀ c, c ∈ [Instr.errorDetected rec 0 0 0, .blockResetEnd rec, .quietPeriodExpiry rec, .frForce rec 1,
      .frInjectArm rec 1, .frStatusClear rec, .delayMonitor rec 0 0] → exec c s = .next s) ∧
    (∀ k, frClass rec = some k →
      (∀ src synd addr, srcCount k ≤ src → exec (.errorDetected rec src synd addr) s = .next s) ∧
      (∀ src synd addr, src < srcCount k → k = 2 ∨ (5 ≤ k ∧ k ≠ 9) → regField s (o + 0x30) 63 63 = 0 →
        (logsOnly s rec src → ∃ t, exec (.errorDetected rec src synd addr) s = .next t ∧ logged s t rec src synd addr) ∧
        (frState s rec = 1 → regField s o 4 4 = 1 → regField s (o + 0x20) (4 * src + 2) (4 * src) = 0 →
          ∃ t, exec (.errorDetected rec src synd addr) s = .next t ∧ regField t o 5 5 = 1 ∧ regField t o 4 0 = regField s o 4 0 ∧
            regField t o 23 16 = regField s o 23 16 ∧ regGet t (o + 8) = regGet s (o + 8) ∧ regGet t (o + 16) = regGet s (o + 16) ∧
            t.cores = s.cores ∧ t.tiers = s.tiers ∧ t.movers = s.movers) ∧
        (k = 12 → regField s (o + 0x20) (4 * src + 2) (4 * src) = 5 → frState s rec = 0 → regField s o 4 4 = 0 → s.qsu.evOn = false →
          ∃ t, exec (.errorDetected rec src synd addr) s = .next t ∧ frState t rec = 1 ∧
            regField t 0x1F0800 31 31 = 1 ∧ regField t 0x1F0800 11 0 = rec % 4096 ∧
            t.flt.log.getLast? = some ⟨s.flt.logSeq, 5 * 2 ^ 24 + src * 2 ^ 16 + rec, synd % 2 ^ 64, addr % 2 ^ 64⟩ ∧
            t.cores = s.cores ∧ t.tiers = s.tiers ∧ t.movers = s.movers)) ∧
      (∀ synd addr, k = 3 → s.tiers.poison = [] → addr < 2 ^ 44 → ctlRecord (addr / 64) = rec → paValid addr = true →
        regField s (o + 0x30) 63 63 = 0 → logsOnly s rec 1 → ∃ t, exec (.errorDetected rec 1 synd addr) s = .next t ∧
          logged { s with tiers := { s.tiers with poison := [addr / 64] } } t rec 1 synd addr) ∧
      (frState s rec ≠ 2 → exec (.blockResetEnd rec) s = .next s) ∧
      (frState s rec = 2 → resting s → exec (.blockResetEnd rec) s = .next (regSet s o 2 0 1)) ∧
      (frState s rec ≠ 1 → exec (.quietPeriodExpiry rec) s = .next s) ∧
      (frState s rec = 1 → s.qsu.evOn = false → ∃ t, exec (.quietPeriodExpiry rec) s = .next t ∧ frState t rec = 0 ∧
        regField t (o + 0x40) 15 0 = satAdd 16 (regField s (o + 0x40) 15 0) 1 ∧ regField t o 23 3 = regField s o 23 3 ∧
        (∀ a, a ≠ o → a ≠ o + 0x40 → regGet t a = regGet s a) ∧
        { t with regs := s.regs, flt := { t.flt with episode := s.flt.episode } } = s) ∧
      (∀ v, 3 ≤ mode s → exec (.frForce rec v) s = .next s) ∧
      (∀ n, n < srcCount k → mode s < 3 → logsOnly s rec n → ∃ t, exec (.frForce rec (2 ^ n)) s = .next t ∧
        logged s t rec n 0 0 ∧ regField t o 8 8 = 1) ∧
      (∀ v, let src := bitsOf v 35 32
        (hasCheck k src = true → ∃ t, exec (.frInjectArm rec v) s = .next t ∧ regField t (o + 0x30) 63 63 = bitsOf v 63 63 ∧
          regField t (o + 0x30) 35 32 = src ∧ regField t (o + 0x30) 15 0 = v % 65536 ∧ only t (o + 0x30)) ∧
        (hasCheck k src = false → ∃ t, exec (.frInjectArm rec v) s = .next t ∧ regField t (o + 0x30) 63 63 = 0 ∧
          regField t (o + 0x30) 62 0 = regField s (o + 0x30) 62 0 ∧ only t (o + 0x30))) ∧
      (∃ t, exec (.frStatusClear rec) s = .next t ∧ regGet t o = regField s o 2 0 ∧ regGet t (o + 8) = 0 ∧ regGet t (o + 16) = 0 ∧
        (∀ a, a ≠ o → a ≠ o + 8 → a ≠ o + 16 → regGet t a = regGet s a) ∧ { t with regs := s.regs } = s) ∧
      (∀ v rings, let a := o + 0x80
        let aged := fun (lo hi : Nat) => regSet (regSet s a hi lo v) a 63 32 (regField s a 63 32 + rings)
        (k ≠ 0 → k ≠ 7 → exec (.delayMonitor rec v rings) s = .next s) ∧
        (k = 0 → 40 ≤ v % 65536 → exec (.delayMonitor rec v rings) s = .next (aged 0 15)) ∧
        (k = 0 → v % 65536 < 40 → 40 ≤ regField s a 15 0 → logsOnly s rec 7 → ∃ t, exec (.delayMonitor rec v rings) s = .next t ∧
          logged (aged 0 15) t rec 7 0 0) ∧
        (k = 7 → v % 65536 ≤ 300 → exec (.delayMonitor rec v rings) s = .next (aged 16 31)) ∧
        (k = 7 → 300 < v % 65536 → regField s a 31 16 ≤ 300 → logsOnly s rec 2 → ∃ t, exec (.delayMonitor rec v rings) s = .next t ∧
          logged (aged 16 31) t rec 2 0 0))) ∧
    (∃ t, exec .fltPinClear s = .next t ∧ regField t 0x1F0800 31 31 = 0 ∧ t.flt.pinHeld = false ∧
      (s.flt.pinHeld = false → regField t 0x1F0800 30 0 = regField s 0x1F0800 30 0) ∧ (s.flt.pinHeld = true → regField t 0x1F0800 11 0 = 0) ∧
      (∀ a, a ≠ 0x1F0800 → regGet t a = regGet s a) ∧ { t with regs := s.regs, flt := s.flt } = s)

/-- The ranger (R456, R458 to R461): without running firmware nothing happens; the wear fit shows its prediction; the lookout shows the
terms and the clipped estimate, acts once on a rise and re-arms; the load is shown and sheds a level after 10 ms; the watchdog halts it. -/
def Obligations.RangerWorks : Prop :=
  ∀ (s : State), Live s →
    (rangerUp s = false → ∀ c, (∃ a b d, c = Instr.wearFit a b d d d d) ∨ (∃ a b, c = .lookoutUpdate a b) ∨ (∃ a, c = .rangerLoadCheck a) ∨ c = .watchdog →
      exec c s = .next s) ∧
    (rangerUp s = true →
      (∀ days core d0 d1 d2 d3, core < 2400 → s.qsu.evOn = false →
        (shedLevel s ≠ 0 ∨ s.flt.restored = false → exec (.wearFit days core d0 d1 d2 d3) s = .next s) ∧
        (shedLevel s = 0 → s.flt.restored = true → ∃ t, exec (.wearFit days core d0 d1 d2 d3) s = .next t ∧
          bitsOf (topoWord t 0x2000) 15 0 = days % 65536 ∧ bitsOf (topoWord t 0x2000) 27 16 = core ∧
          (∀ i, i < 4 → bitsOf (topoWord t (0x2010 + 8 * i)) 31 16 = ([d0, d1, d2, d3].getD i 0) % 65536) ∧
          (t.flt = s.flt → t = s) ∧ (t.flt ≠ s.flt → t.qsu.topoGen = (s.qsu.topoGen + 2) % 2 ^ 64) ∧
          t.cores = s.cores ∧ t.tiers = s.tiers ∧ t.regs = s.regs)) ∧
      (∀ ces sags, s.qsu.evOn = false → s.prf.risk < 256 →
        let e := s.flt.eol
        let hot := ((s.pwr.temps.take 16) ++ (s.pwr.temps.drop 28)).foldl max 0
        let ce := min 96 (ces / 4)
        let age := if 365 ≤ e then 0 else 64 * (365 - e) / 365
        let feed := if s.pwr.alert.on then 48 else min 48 (16 * sags)
        let temp := min 48 (8 * (hot - 95))
        let partner := if s.prf.pair = 2 ∨ s.prf.pair = 3 then s.prf.risk / 4 else 0
        let sum := min 255 (ce + age + feed + temp + partner)
        let r := if s.prf.pair = 3 then max sum (regField s 0x1F1000 15 8) else sum
        let th := max 1 (regField s 0x1F1000 7 0)
        let rises := th ≤ r ∧ s.flt.above = false ∧ s.flt.armed = true
        ∃ t, exec (.lookoutUpdate ces sags) s = .next t ∧ (∀ a, a ≠ 0x1F1008 → regGet t a = regGet s a) ∧
          regField t 0x1F1008 7 0 = r ∧ regField t 0x1F1008 15 8 = ce ∧ regField t 0x1F1008 23 16 = age ∧ regField t 0x1F1008 31 24 = feed ∧
          regField t 0x1F1008 39 32 = temp ∧ regField t 0x1F1008 47 40 = partner ∧
          (regField t 0x1F1008 48 48 = 1 ↔ th ≤ r) ∧ (regField t 0x1F1008 49 49 = 1 ↔ s.prf.pair = 3) ∧
          (t.prf.autoPend = true ↔ s.prf.autoPend = true ∨ (rises ∧ regField s 0x1F1000 16 16 = 1)) ∧
          (rises → t.flt.armed = false) ∧ (16 ≤ th → r < th - 16 → t.flt.armed = true) ∧ (th < 16 → r = 0 → t.flt.armed = true) ∧
          t.cores = s.cores ∧ t.tiers = s.tiers ∧ t.qsu = s.qsu) ∧
      (∀ load, load < 256 →
        (load * 10 ≤ 2304 → 1792 ≤ load * 10 →
          exec (.rangerLoadCheck load) s = .next { regSet s 0x1F1010 7 0 load with life := { s.life with hi := 0, lo := 0 } }) ∧
        (2304 < load * 10 → s.life.hi < 9 → exec (.rangerLoadCheck load) s =
          .next { regSet s 0x1F1010 7 0 load with life := { s.life with hi := s.life.hi + 1, lo := 0 } }) ∧
        (2304 < load * 10 → s.life.hi = 9 → shedLevel s < 3 → s.qsu.evOn = false → logsOnly s 0xA94 3 →
          ∃ t, exec (.rangerLoadCheck load) s = .next t ∧ logged (regSet { regSet s 0x1F1010 7 0 load with
            life := { s.life with hi := 0, lo := 0 } } 0x1F1010 9 8 (shedLevel s + 1)) t 0xA94 3 0 0) ∧
        (load * 10 < 1792 → s.life.lo < 99 → exec (.rangerLoadCheck load) s =
          .next { regSet s 0x1F1010 7 0 load with life := { s.life with hi := 0, lo := s.life.lo + 1 } }) ∧
        (load * 10 < 1792 → s.life.lo = 99 → 0 < shedLevel s → s.qsu.evOn = false → logsOnly s 0xA94 3 →
          ∃ t, exec (.rangerLoadCheck load) s = .next t ∧ logged (regSet { regSet s 0x1F1010 7 0 load with
            life := { s.life with hi := 0, lo := 0 } } 0x1F1010 9 8 (shedLevel s - 1)) t 0xA94 3 0 0)) ∧
      (logsOnly s 0xA94 2 → ∃ t, exec .watchdog s = .next t ∧ rangerUp t = false ∧
        logged (regSet (regSet s 0x20020 3 0 6) 0x1F1010 10 10 1) t 0xA94 2 0 0))

/-- Resets and power (R423, R425, R495 to R497, R508): each reset that reaches the complex leaves its reset state, with its cause and the fuses
kept; a life-cycle transition moves the fuses forward and resets; the loss of power leaves the floor's memory alone; a frozen complex does
not resume when its feed returns. -/
def Obligations.Resets : Prop :=
  ∀ (s : State),
    ((s.life.on = true → mode s = 5 → exec .powerOn s = .next s) ∧
      (s.life.on = false ∨ mode s ≠ 5 → ∃ t, exec .powerOn s = .next t ∧ regField t 0x20030 7 0 = 1 ∧ mode t = 0 ∧ frozen t = false ∧ t.cores = [] ∧
        t.tiers.slots = [] ∧ t.qsu = qsu0 ∧ t.movers = [] ∧ t.life.lc = s.life.lc ∧ t.life.minSvn = s.life.minSvn ∧ t.pending = s.pending ∧
        (∀ a, tabGet (fun _ => 0) t.tiers.bytes a = if a / 2 ^ 44 = 2 then tabGet (fun _ => 0) s.tiers.bytes a else 0))) ∧
    (∃ t, exec .powerLoss s = .next t ∧ frozen t = true ∧ t.life.on = false ∧ t.cores = [] ∧ t.movers = [] ∧ t.qsu = qsu0 ∧ t.tiers.slots = [] ∧
      t.life.lc = s.life.lc ∧ t.life.minSvn = s.life.minSvn ∧ t.pending = s.pending ∧
      (∀ a, tabGet (fun _ => 0) t.tiers.bytes a = if a / 2 ^ 44 = 2 then tabGet (fun _ => 0) s.tiers.bytes a else 0)) ∧
    (s.life.on = false → exec .resetPin s = .next s) ∧
    (s.life.on = true → ∃ t, exec .resetPin s = .next t ∧ afterReset s t 2) ∧
    (Live s →
      (s.life.released = false → exec .softwareReset s = .next s ∧ exec .deploy s = .next s ∧ exec .decommission s = .next s) ∧
      (s.life.released = true →
        (∃ t, exec .softwareReset s = .next t ∧ afterReset s t 3) ∧
        (1 < mode s → exec .deploy s = .next s ∧ exec .decommission s = .next s) ∧
        (mode s ≤ 1 →
          (s.life.lc = 1 → ∃ t, exec .deploy s = .next t ∧ afterReset { s with life := { s.life with lc := 2 } } t 5) ∧
          (s.life.lc ≠ 1 → exec .deploy s = .next s) ∧
          (s.life.lc = 1 ∨ s.life.lc = 2 →
            ∃ t, exec .decommission s = .next t ∧ afterReset { s with life := { s.life with lc := 3 } } t 5) ∧
          (s.life.lc ≠ 1 → s.life.lc ≠ 2 → exec .decommission s = .next s))))

/-- The start-up sequence (R495, R498, R500, R501, R502, R504, R505): each step in its order and once; the self-test marks or refuses; firmware
is loaded, verified against each refusal, and starts; the wear history is restored once or rejected. -/
def Obligations.StartUp : Prop :=
  ∀ (s : State), Live s →
    let life := fun (l : Life) => (.next { s with life := l } : Host.Outcome State Fault Refusal)
    let wiped := s.tiers.wPlates = true ∧ s.tiers.wCaches = true ∧ s.tiers.wErased = true ∧ s.tiers.wCanopy = true
    (∀ strap,
      (s.life.released = true → exec (.resetRelease strap) s = .next s) ∧
      (s.life.released = false → ∃ t, exec (.resetRelease strap) s = .next t ∧ t.life = { s.life with released := true } ∧
        regField t 0x90000 3 0 = strap % 16 ∧
        mode t = (if s.life.lc = 0 then 2 else if regField s 0x20030 7 0 = 4 then 1 else 0) ∧
        (∀ a, a ≠ 0x90000 → a ≠ 0x20008 → regGet t a = regGet s a) ∧ t.cores = s.cores ∧ t.tiers = s.tiers)) ∧
    (s.life.released = false ∨ s.life.ramped = true → exec .rampComplete s = .next s) ∧
    (s.life.released = true → s.life.ramped = false → ∃ t, exec .rampComplete s = .next t ∧ t.life = { s.life with ramped := true } ∧
      (∀ d, d < 5 → (domGet t d).point = if d < 4 then 15 else 3) ∧ t.cores = s.cores ∧ t.tiers = s.tiers ∧ t.regs = s.regs) ∧
    (s.life.ramped = false → exec .fuseCheckDone s = .next s) ∧
    (s.life.ramped = true → exec .fuseCheckDone s = life { s.life with fused := true }) ∧
    (s.life.released = false → exec .configReady s = .next s) ∧
    (s.life.released = true → exec .configReady s = .next { s with host := { s.host with cfgReady := true } }) ∧
    (∀ failed, s.life.fused = false ∨ s.life.tested = true → exec (.selfTestDone failed) s = .next s) ∧
    (s.life.fused = true → s.life.tested = false → mode s = 0 →
      let tested := { s with life := { s.life with tested := true } }
      exec (.selfTestDone []) s = .next (regPut tested 0x20038 0) ∧
      (∀ r k src, frClass r = some k → src < srcCount k →
        (k = 0 ∨ k = 1 ∨ k = 2 ∨ k = 5 → ∃ t, exec (.selfTestDone [r + 4096 * src]) s = .next t ∧ regGet t 0x20038 = r * 2 ^ 32 + 1 ∧
          t.life = { s.life with tested := true, marked := setAdd r s.life.marked } ∧ t.cores = s.cores ∧ t.tiers = s.tiers ∧
          (∀ a, a ≠ 0x20038 → regGet t a = regGet s a)) ∧
        (k ≠ 0 → k ≠ 1 → k ≠ 2 → k ≠ 5 → s.qsu.evOn = false → ∃ t, exec (.selfTestDone [r + 4096 * src]) s = .next t ∧
          regGet t 0x20038 = r * 2 ^ 32 + 1 ∧ regField t 0x20008 1 1 = 1 ∧ regField t 0x1F0800 31 31 = 1 ∧ regField t 0x1F0800 11 0 = r ∧
          t.life = { s.life with tested := true } ∧ t.cores = s.cores ∧ t.tiers = s.tiers))) ∧
    ((fwState s = 1 ∨ fwState s = 2 ∨ fwState s = 6 ∨ s.life.tested = false ∨ ¬wiped ∨ regField s 0x20008 1 1 = 1 → exec .fwLoad s = .next s) ∧
      (fwState s ≠ 1 → fwState s ≠ 2 → fwState s ≠ 6 → s.life.tested = true → wiped → regField s 0x20008 1 1 = 0 →
        exec .fwLoad s = .next (regSet s 0x20020 3 0 1))) ∧
    (fwState s ≠ 1 → exec .firmwareVerified s = .next s) ∧
    (fwState s = 1 →
      let pa := regField s 0x20018 45 12 * 4096
      let h := (paRead s 0 pa 4096).1
      let body := fieldAt h 12 4
      let image := (paRead s 0 (pa + 4096) body).1
      let key := fieldAt h 10 2
      let svn := fieldAt h 8 2
      let refused := fun st => exec .firmwareVerified s = .next (regSet s 0x20020 3 0 st)
      let placed := paTier pa = 0 ∧ pa + 4096 + body ≤ 1152 * gib
      let formed := fieldAt h 0 4 = 0x57524D5A ∧ (∀ x ∈ h.drop 112, x = 0) ∧ 4096 + body ≤ regField s 0x20018 61 48 * 1024 ∧ 4096 + body ≤ 8 * 2 ^ 20
      let known := s.life.lc = 0 ∧ key = 2 ∨ s.life.lc = 1 ∧ (key = 1 ∨ key = 2) ∨ s.life.lc = 2 ∧ key = 1
      let signed := known ∧ Config.sigOk key (sha384 (h.take 16 ++ image)) (leNat ((h.drop 16).take 96)) = true
      (¬(placed ∧ formed) → refused 3) ∧
      (placed → formed → ¬signed → refused 4) ∧
      (placed → formed → signed → svn < s.life.minSvn → refused 5) ∧
      (placed → formed → signed → s.life.minSvn ≤ svn → ∃ t, exec .firmwareVerified s = .next t ∧ fwState t = 2 ∧
        regField t 0x20020 63 32 = fieldAt h 4 4 ∧ regField t 0x20020 31 16 = svn ∧ t.life = { s.life with fwKey := key } ∧
        (∀ a, a ≠ 0x20020 → regGet t a = regGet s a) ∧ t.cores = s.cores ∧ t.tiers = s.tiers)) ∧
    (mode s = 4 → exec .wearLoad s = life { s.life with wearPend := true }) ∧
    (mode s ≠ 4 →
      let b := (paRead s 0 (wearPA s) 65536).1
      let good := rangerUp s = true ∧ s.flt.restored = false ∧ wearInCanopy s = true ∧ fieldAt b 0 8 = 0x000152414557 ∧
        fieldAt b 8 8 = Config.serial % 2 ^ 64 ∧ fieldAt b 0x20 4 = crc32 (listPut b 0x20 [0, 0, 0, 0])
      (¬good → exec .wearLoad s = .next (regSet { s with life := { s.life with wearPend := false } } 0x20028 62 61 2)) ∧
      (good → s.qsu.evOn = false → ∃ t, exec .wearLoad s = .next t ∧ regField t 0x20028 62 61 = 1 ∧ t.flt.restored = true ∧
        t.flt.eol = fieldAt b 0x18 2 ∧
        (∀ c, c < 2400 → regField t (frOff c + 0x80) 63 32 = (regField s (frOff c + 0x80) 63 32 + fieldAt b (0x100 + 4 * c) 4) % 2 ^ 32) ∧
        (∀ r, (frClass r).isSome → regField t (frOff r + 0x40) 15 0 = satAdd 16 (regField s (frOff r + 0x40) 15 0) (fieldAt b (0x2800 + 2 * r) 2)) ∧
        t.cores = s.cores ∧ t.tiers = s.tiers))

/-- Enable, disable and shutdown (R495, R504, R506, R507, R509, R515): the check starts once and only where it may; a refusal shows its reason
and changes nothing; an acceptance enters RUN with the groves' cores in service; a disable clears and ends in BRINGUP. -/
def Obligations.EnableAndDisable : Prop :=
  ∀ (s : State), Live s →
    let calm := uncached s ∧ resting s ∧ s.movers = [] ∧ s.qsu.launches = [] ∧ s.qsu.clears = [] ∧ s.host.defer = [] ∧ s.prf.run = none ∧
      (∀ p ∈ s.qsu.queues, p.2.run = [])
    let stops := fun (t : State) => mode t = 4 ∧ regField t 0x20000 0 0 = 0 ∧ t.qsu.clears = [⟨0, 0, true, List.range 48, 1, true⟩]
    (3 ≤ mode s ∨ regField s 0x20008 2 2 = 1 ∨ s.life.released = false → exec .enableCmd s = .next s) ∧
    (mode s < 3 → regField s 0x20008 2 2 = 0 → s.life.released = true →
      exec .enableCmd s = .next { regSet s 0x20008 2 2 1 with prf := { s.prf with beat := false } }) ∧
    (regField s 0x20008 2 2 = 0 ∨ s.host.hold = true → exec .enableCheckDone s = .next s) ∧
    (regField s 0x20008 2 2 = 1 → s.host.hold = false →
      (∀ code unit, checkVerdict s = some (code, unit) → code < 2 ^ 16 → unit < 2 ^ 16 → ∃ t, exec .enableCheckDone s = .next t ∧
        regField t 0x20008 2 2 = 0 ∧ mode t = mode s ∧ regField t 0x20000 0 0 = 0 ∧ regGet t 0x20010 = unit * 2 ^ 16 + code ∧
        (∀ a, a ≠ 0x20000 → a ≠ 0x20008 → a ≠ 0x20010 → regGet t a = regGet s a) ∧ { t with regs := s.regs } = s) ∧
      (s.life.lc = 0 ∨ s.life.lc = 3 ∨ mode s = 2 → checkVerdict s = some (0x13, 0xFFFF)) ∧
      (s.life.lc ≠ 0 → s.life.lc ≠ 3 → mode s ≠ 2 → s.tiers.wCanopy = false → checkVerdict s = some (0x14, 0xFFFF)) ∧
      (s.life.lc ≠ 0 → s.life.lc ≠ 3 → mode s ≠ 2 → s.tiers.wPlates = true → s.tiers.wCaches = true → s.tiers.wErased = true →
        s.tiers.wCanopy = true → fwState s ≠ 2 → checkVerdict s = some (0x01, 0xFFFF)) ∧
      (checkVerdict s = none → enabledEntries s = [] → uncached s → resting s → ∃ t, exec .enableCheckDone s = .next t ∧ mode t = 3 ∧
        regField t 0x20008 2 2 = 0 ∧ regField t 0x20000 0 0 = 1 ∧ regGet t 0x20010 = 0xFFFF * 2 ^ 16 ∧
        t.tiers.winBase = regField s 0x50010 45 30 ∧ t.tiers.winSel = regField s 0x50010 63 58 ∧ t.qsu.queues = [] ∧ t.qsu.period = [] ∧
        t.prf.atClear = List.range 48 ∧ t.flt.armed = true ∧
        (∀ c, c < 2400 → (coreGet t c).st = (if fenceAsked s c then .fenced else if (nextServing s (groveOf c)).contains c then .idle else .unused) ∧
          (coreGet t c).fenced = fenceAsked s c ∧ (coreGet t c).a.stip = [] ∧ (coreGet t c).a.tags = [] ∧
          (coreGet t c).a.plate = (coreGet s c).a.plate))) ∧
    (mode s ≠ 3 → exec .disableCmd s = .next s ∧ exec .shutdown s = .next s) ∧
    (mode s = 3 → calm →
      (∃ t, exec .disableCmd s = .next t ∧ stops t ∧ t.tiers = s.tiers ∧ t.life = s.life) ∧
      (rangerUp s = false → ∃ t, exec .shutdown s = .next t ∧ stops t ∧ t.tiers = s.tiers ∧ t.life = { s.life with shut := true }) ∧
      (rangerUp s = true → wearInCanopy s = true → ∃ t, exec .shutdown s = .next t ∧ stops t ∧ t.life = { s.life with shut := true } ∧
        (paRead t 0 (wearPA s + 0x10) 8).1 = leBytes 8 ((leNat (paRead s 0 (wearPA s + 0x10) 8).1 + 1) % 2 ^ 64) ∧
        (∀ line, line < wearPA s / 64 ∨ wearPA s / 64 + 1024 ≤ line → memRead t 0 line = memRead s 0 line))) ∧
    (mode s ≠ 4 → exec .disableEnd s = .next s) ∧
    (∀ c, mode s = 4 → s.qsu.clears = [c] →
      (c.auto = false ∨ c.step < 9 → exec .disableEnd s = .next s) ∧
      (c.auto = true → 9 ≤ c.step → s.life.wearPend = false → ∃ t, exec .disableEnd s = .next t ∧ mode t = 0 ∧ t.qsu.clears = [] ∧
        (∀ q, (queueGet t q).en = false ∧ (queueGet t q).st = .disabled ∧ (queueGet t q).run = []) ∧
        (s.life.shut = true → regField t 0x20008 3 3 = 1) ∧ (s.life.shut = false → regField t 0x20008 3 3 = regField s 0x20008 3 3) ∧
        t.life = { s.life with shut := false } ∧ (∀ a, a ≠ 0x20008 → regGet t a = regGet s a) ∧ t.cores = s.cores ∧ t.tiers = s.tiers))

/-- Register accesses (R9 to R11, R510, R513, R515 to R518): a read returns what the register shows and clears the fields that clear on
reading; a write of another width or alignment, at an unlisted offset, while a reset is applied or without link 0 has no effect; a write of
a register whose fields act alone takes each bit by its field's type, and a locked set-up field keeps its value and counts; a compartment's
groves, which the topology page shows, move its generation. -/
def Obligations.RegistersObeyTheirTypes : Prop :=
  ∀ (s : State) (off : Nat), Live s →
    (barReach s = false → ∀ size, exec (.rcRead ⟨off, size⟩) s = .next s ∧ ∀ v, exec (.registerWrite off size v) s = .next s) ∧
    (barReach s = true → off < 2 ^ 24 →
      (∀ size, ∃ t, exec (.rcRead ⟨off, size⟩) s = .next t ∧ t.out = s.out ++ [.read (leBytes size (barRead s off size)) false] ∧
        (∀ a, a ≠ off → regGet t a = regGet s a) ∧ { t with regs := s.regs, out := s.out } = s ∧
        (regAt off = none ∨ size ≠ 8 ∨ off % 8 ≠ 0 → regGet t off = regGet s off) ∧
        (∀ d i, regAt off = some d → size = 8 → off % 8 = 0 →
          (regGet t off).testBit i = ((regGet s off).testBit i && !d.rc.testBit i))) ∧
      (∀ size v, off < 0xF00000 → size ≠ 8 ∨ off % 8 ≠ 0 → exec (.registerWrite off size v) s = .next s) ∧
      (∀ d v, regAt off = some d → v < 2 ^ 64 → off % 8 = 0 →
        off ∉ [0x20000, 0x20028, 0x20040, 0x50140, 0x60010, 0x60018, 0x60030, 0xA0000, 0x1F0800] →
        (off < 0x30100 ∨ 0x30280 ≤ off) → (off < 0x50100 ∨ 0x50140 ≤ off) → (off < 0xA1000 ∨ 0xA2000 ≤ off) → off < 0xF00000 →
        (off < 0x80000 ∨ 0x8C000 ≤ off ∨ off % 0x800 ≠ 0) →
        (off < 0x100000 ∨ 0x1F0000 ≤ off ∨ (off % 0x100 ≠ 0 ∧ off % 0x100 ≠ 0x28 ∧ off % 0x100 ≠ 0x30)) →
        (rwsLocked s = false → ∃ t, exec (.registerWrite off 8 v) s = .next t ∧ (∀ a, a ≠ off → regGet t a = regGet s a) ∧
          { t with regs := s.regs } = s ∧
          ∀ i, (regGet t off).testBit i =
            if d.rws.testBit i || d.rw.testBit i then v.testBit i && !d.w1c.testBit i
            else (regGet s off).testBit i && !(d.w1c.testBit i && v.testBit i)) ∧
        (rwsLocked s = true → off ≠ 0x20008 → ∃ t, exec (.registerWrite off 8 v) s = .next t ∧
          (∀ a, a ≠ off → a ≠ 0x20008 → regGet t a = regGet s a) ∧ { t with regs := s.regs } = s ∧
          (d.rws ≠ 0 → regField t 0x20008 63 32 = satAdd 32 (regField s 0x20008 63 32) 1) ∧
          (d.rws = 0 → regGet t 0x20008 = regGet s 0x20008) ∧
          ∀ i, (regGet t off).testBit i =
            if d.rw.testBit i then v.testBit i && !d.w1c.testBit i
            else (regGet s off).testBit i && !(d.w1c.testBit i && v.testBit i))) ∧
      (∀ k v d, k < 48 → v < 2 ^ 64 → regAt (0x30100 + 8 * k) = some d → ∃ t, exec (.registerWrite (0x30100 + 8 * k) 8 v) s = .next t ∧
        (∀ i, (regGet t (0x30100 + 8 * k)).testBit i =
          if d.rws.testBit i && !rwsLocked s then v.testBit i else (regGet s (0x30100 + 8 * k)).testBit i) ∧
        t.qsu.topoGen = (if regGet t (0x30100 + 8 * k) = regGet s (0x30100 + 8 * k) then s.qsu.topoGen else (s.qsu.topoGen + 2) % 2 ^ 64)) ∧
      (∀ v, exec (.registerWrite 0x60018 8 v) s = exec (.cohL1InvalWrite (v % 2 ^ 64)) s ∧
        exec (.registerWrite 0x60010 8 v) s = exec (.cohL1EnWrite (v % 2 ^ 64)) s ∧
        (∀ r, (frClass r).isSome → exec (.registerWrite (frOff r + 0x28) 8 v) s = exec (.frForce r (v % 2 ^ 64)) s ∧
          exec (.registerWrite (frOff r + 0x30) 8 v) s = exec (.frInjectArm r (v % 2 ^ 64)) s ∧
          (bitOf (v % 2 ^ 64) 4 = true → exec (.registerWrite (frOff r) 8 v) s = exec (.frStatusClear r) s))))

/-- The ranger mailbox (R519 to R521): a request is taken while none is served, reads return the log's entries from a sequence number on,
and the status names the request's tag, length and result. -/
def Obligations.MailboxReadsTheLogs : Prop :=
  ∀ (s : State), Live s →
    let done := fun (t : State) (tag len result : Nat) => t.life = { s.life with mbx := none } ∧
      regGet t 0xA0008 = tag % 65536 * 2 ^ 48 + len % 65536 * 2 ^ 32 + result * 256 + 2 ∧ t.cores = s.cores ∧ t.tiers = s.tiers ∧ t.qsu = s.qsu
    (∀ tag len, barReach s = false ∨ s.life.mbx ≠ none →
      exec (.readFaultLog tag len) s = .next s ∧ exec (.readDisturbanceLog tag len) s = .next s) ∧
    (∀ tag len, barReach s = true → s.life.mbx = none → tag < 65536 → len < 65536 →
      exec (.readFaultLog tag len) s = .next { regSet s 0xA0008 0 0 1 with life := { s.life with mbx := some (1, tag, len) } } ∧
      exec (.readDisturbanceLog tag len) s = .next { regSet s 0xA0008 0 0 1 with life := { s.life with mbx := some (2, tag, len) } }) ∧
    (s.life.mbx = none → exec .mbxRequestDone s = .next s) ∧
    (∀ op tag len, s.life.mbx = some (op, tag, len) →
      (rangerUp s = false → ∃ t, exec .mbxRequestDone s = .next t ∧ done t tag 0 2) ∧
      (rangerUp s = true → shedLevel s = 3 → exec .mbxRequestDone s = .next s) ∧
      (rangerUp s = true → shedLevel s ≠ 3 → (op ≠ 1 ∧ op ≠ 2) ∨ len ≠ 8 → ∃ t, exec .mbxRequestDone s = .next t ∧ done t tag 0 1) ∧
      (rangerUp s = true → shedLevel s ≠ 3 → op = 1 ∨ op = 2 → len = 8 →
        let log := ((if op = 1 then s.flt.log else s.pwr.log).filter (fun e => decide (regGet s 0xA1000 ≤ e.seq))).take 128
        ∃ t, exec .mbxRequestDone s = .next t ∧ done t tag (32 * log.length) 0 ∧
          ∀ i e, log[i]? = some e → regGet t (0xA2000 + 32 * i) = e.w0 % 2 ^ 64 ∧ regGet t (0xA2008 + 32 * i) = e.w1 % 2 ^ 64 ∧
            regGet t (0xA2010 + 32 * i) = e.w2 % 2 ^ 64 ∧ regGet t (0xA2018 + 32 * i) = e.seq % 2 ^ 64))

/-- The machine right after reset (R121, R353, R358, R368, R380, R386, R402, R495, R514, R518): every register of the map reads its reset
value, every core is UNUSED with no logical index, every queue DISABLED, every port DISABLED, no link trained, every cache and key slot
empty, and the mode BRINGUP. The memory and the queue of commands meet their invariants. -/
def Obligations.ResetState : Prop :=
  (∀ a, a ≠ 0x20030 → tabGet regReset State.reset.regs a = regReset a) ∧ mode State.reset = 0 ∧ Live State.reset ∧
  (∀ c, coreGet State.reset c = core0) ∧ core0.st = .unused ∧ core0.logical = 255 ∧ core0.fenced = false ∧
  (∀ q, (queueGet State.reset q).en = false ∧ (queueGet State.reset q).st = .disabled ∧ (queueGet State.reset q).completed = 0) ∧
  (∀ i, (portGet State.reset i).st = 0 ∧ (portGet State.reset i).cred = [32, 32, 16, 16, 64, 64]) ∧
  (∀ n, (linkGet State.reset n).trained = false) ∧ State.reset.host.hold = false ∧ State.reset.coh = coh0 ∧
  (∀ n, pairOf State.reset n = 0) ∧ State.reset.xlt.cache = [] ∧ State.reset.life.released = false ∧ memoryOk State.reset = true ∧
  queueOk State.reset

/-- A queue of commands that name units of the complex runs to its end: each step answers a next state, keeps the rest of the queue
as it is, and never refuses or faults (the invariant is the queue's; the commands come from outside). -/
def Obligations.WellFormedQueuesRun : Prop :=
  ∀ s : State, queueOk s →
    (∃ t, step s = .next t ∧ t.pending = s.pending.tail) ∧ (∀ t, step s = .next t → queueOk t) ∧
    (∀ r, step s ≠ .refused r) ∧ (∀ f, step s ≠ .fault f)

/-- A complex that is FROZEN or without power reads nothing, writes nothing and starts nothing (R423, R425): every command but a reset
by pin, the feed's return, its loss and the last writes of a freeze leaves it as it is. -/
def Obligations.FrozenComplexIgnores : Prop :=
  ∀ (i : Instr) (s : State), frozen s = true → wellFormed i = true → i ∉ obeyedFrozen → exec i s = .next s

/-- Every slot of a bundle reads the state before the bundle (R79, R125): a scalar slot given before its vector slot does not show in what the
vector slot reads, and the other way round. -/
def Obligations.SlotsReadBeforeTheBundle : Prop :=
  ∀ (h : Hdr) (f : BitVec 26) (g : BitVec 42) (s : State),
    let k := coreGet s h.core
    let v := BitVec.ofInt 64 (sextInt 17 (fld f 16 0))
    let read := BitVec.ofNat 32 (sget k.a (fld g 32 28)).toNat
    let lane0 := BitVec.ofNat 64 (lane (vget k.a (fld g 32 28)) (fld g 17 12)).toNat
    Live s → h.last = true → h.core < 2400 → coreFree k = true → k.latch = slotPut slots0 .sc (slotWord 26 9 f) →
      guardOk k.a (fld f 25 22) = true → guardOk k.a (fld g 41 38) = true →
      (bundleReady k (slotPut k.latch .vec (slotWord 42 32 g)) = true →
        exec (.bcst h g) s = .next (coreSet s h.core { k with
          latch := slots0, pc := k.pc + 1, a := vput (sput k.a (fld f 21 17) v) (fld g 37 33) (List.replicate 64 read) })) ∧
      (bundleReady k (slotPut k.latch .vec (slotWord 42 33 g)) = true → fld f 21 17 ≠ fld g 37 33 →
        exec (.vext h g) s = .next (coreSet s h.core { k with
          latch := slots0, pc := k.pc + 1, a := sput (sput k.a (fld f 21 17) v) (fld g 37 33) lane0 }))

/-- What the host writes through the window it reads back (R239, R251, R369): a whole line written to the canopy is what the next read of that
offset returns, and every other line of memory reads as before. -/
def Obligations.WindowReadsBack : Prop :=
  ∀ (s : State) (link dpa : Nat) (data : List Byte), Live s → resting s → uncached s → link < 4 →
    let w := hostOffset s link dpa / 64 * 64
    let line := winLine s w
    hostSees s link = true → windowStopped s = false → hdmDone s = true → w < winSize → winServes s = true → (winCur s).2 = 0 → lineTier line = 0 →
      winHeld s w true = false → winHeld s w false = false → inStash s w = false → s.host.ra = [] → regField s 0xB0000 19 16 = 0 → data.length = 64 →
      ∃ t u, exec (.memWr link dpa (2 ^ 64 - 1) 0 data) s = .next t ∧ exec (.memRd link dpa) t = .next u ∧
        u.out = s.out ++ [.cmp link, .read data false] ∧ (∀ l, l ≠ line → memRead u 0 l = memRead s 0 l) ∧ u.cores = s.cores ∧ u.regs = s.regs

/-- The commands a complex obeys while it is FROZEN or off do not bring it back but by a reset (R423, R425): after any command it is still
FROZEN or off, unless the command is a reset by pin or the feed's return to a complex that lost it. -/
def Obligations.FrozenUntilReset : Prop :=
  ∀ (i : Instr) (s t : State), frozen s = true → wellFormed i = true → i ≠ .resetPin → i ≠ .powerOn → exec i s = .next t → frozen t = true

/-- What the host's requests meet beside the registers (R11, R363 to R366, R498, R513): in BAR0, where no register lies and in accesses that
are not a register's own, a read returns zero and a write is ignored; the arrays end at their counts and the fault records at the indices of
R437. A function's configuration space shows its identity, its BAR its size, and what the host has written; before the functions are ready it
asks for a retry, and a request that no function's BAR takes is an Unsupported Request. -/
def Obligations.UnoccupiedOffsetsReadZero : Prop :=
  (∀ (s : State) (off : Nat), Live s → barReach s = true → 0x20000 ≤ off → (off < 0xF00000 ∨ 0xF08100 ≤ off) → off < 2 ^ 24 → inComp0 off = false →
    (regAt off = none ∨ off % 8 ≠ 0 → ∀ size, exec (.rcRead ⟨off, size⟩) s = .next (emit s (.read (List.replicate size 0) false)) ∧
      ∀ v, exec (.registerWrite off size v) s = .next s) ∧
    (∀ size v, size ≠ 8 → barRead s off size = 0 ∧ exec (.registerWrite off size v) s = .next s)) ∧
  (∀ (s : State) (n : Nat), Live s → barReach s = true → n < 4 → (linkGet s n).trained = true →
    (s.host.cfgReady = false → ∀ o size v, o < 2 ^ 24 → exec (.rcRead ⟨cfgAt n o, size⟩) s = .next (emit s (.ioStatus 2)) ∧
      exec (.registerWrite (cfgAt n o) size v) s = .next (emit s (.ioStatus 2))) ∧
    (s.host.cfgReady = true →
      (∀ o size, o < 0x1000 → size = 1 ∨ size = 2 ∨ size = 4 → o % size = 0 → exec (.rcRead ⟨cfgAt n o, size⟩) s =
        .next (emit s (.read (((leBytes 4 (cfgWord s n (o / 4 * 4))).drop (o % 4)).take size) false))) ∧
      (∀ v, v < 2 ^ 32 → ∃ t u, exec (.registerWrite (cfgAt n 0x10) 4 v) s = .next t ∧ exec (.registerWrite (cfgAt n 0x14) 4 v) t = .next u ∧
        cfgWord u n 0x10 = v / barSize n * barSize n + 4 ∧ cfgWord u n 0x14 = v ∧ { u with host := { u.host with fns := s.host.fns } } = s) ∧
      (∀ o v, o = 0x18 ∨ o = 0x1C ∨ o = 0x20 ∨ o = 0x24 ∨ o = 0x30 → cfgWord s n o = 0 ∧ exec (.registerWrite (cfgAt n o) 4 v) s = .next s)) ∧
    cfgWord s n 0 = (if n = 0 then 0x0A401F6B else 0x0A411F6B) ∧ cfgWord s n 8 / 2 ^ 8 = 0x120000 ∧ cfgWord s n 0x2C = 0x00011F6B ∧
    barSize 0 = 2 ^ 24 ∧ (n ≠ 0 → barSize n = 2 ^ 16) ∧
    (∀ o size, n ≠ 0 → 2 ^ 16 ≤ o → o < 2 ^ 24 → exec (.rcRead ⟨compAt n o, size⟩) s = .next (emit s (.ioStatus 1)))) ∧
  (∀ c j, 2400 ≤ c → j < 16 → 0x200000 + 16 * c + j < 0xF00000 → regAt (0x200000 + 16 * c + j) = none) ∧
  (∀ k j, 48 ≤ k → j < 8 → 0x30100 + 8 * k + j < 0x32000 → regAt (0x30100 + 8 * k + j) = none) ∧
  (∀ k j, 48 ≤ k → j < 8 → 0x71000 + 8 * k + j < 0x72000 → regAt (0x71000 + 8 * k + j) = none) ∧
  (∀ r o, frClass r = none → r < 0xF00 → o < 0x100 → regAt (frOff r + o) = none)

/-- A bundle that holds on WAITP or WAITM holds as a whole (R142): whatever its other slots are and whichever slot comes last, giving it
leaves the core's registers, plate, tensor queue and next bundle as they were, and the bundle holds. -/
def Obligations.WaitsHoldTheWholeBundle : Prop :=
  ∀ (i : Instr) (h : Hdr) (kind : SlotKind) (w : Nat) (s : State) (f : BitVec 26) (lf : Leaf), slotOf i = some (h, kind, w) →
    let k := coreGet s h.core
    let b := slotPut k.latch kind w
    let va := (sget k.a (fld f 16 12)).toNat
    let holds := fun (t : State) => (coreGet t h.core).a = k.a ∧ (coreGet t h.core).pc = k.pc ∧ (coreGet t h.core).tq = [] ∧
      (coreGet t h.core).fetched = [b] ∧ (coreGet t h.core).st = .running ∧ t.tiers = s.tiers ∧ t.regs = s.regs ∧
      (∀ d, d ≠ h.core → coreGet t d = coreGet s d)
    Live s → h.core < 2400 → h.last = true → coreFree k = true → bundleLegal b = true → guardOk k.a (fld f 25 22) = true →
      vPlateOk k.a (vAct k.a b) = true →
      (b.sc = some (slotWord 26 26 f) → va / 8 * 8 + 8 ≤ 0x180000 → leNat (plateGet k.a (va / 8 * 8) 8) < (sget k.a (fld f 11 7)).toNat →
        ∃ t, exec i s = .next t ∧ holds t) ∧
      (b.sc = some (slotWord 26 27 f) → accessOk k va 8 false lf → ∃ t, exec i s = .next t ∧ holds t)

/-- The window before the canopy is wiped (R499): it reads zero and discards writes; once CANOPY_DONE is set it serves any valid base. -/
def Obligations.WindowBeforeTheWipe : Prop :=
  ∀ (s : State) (link dpa : Nat), Live s → link < 4 → hostSees s link = true → windowStopped s = false → hdmDone s = true → mode s < 3 →
    (s.tiers.wCanopy = false → hostOffset s link dpa / 64 * 64 < winSize →
      exec (.memRd link dpa) s = .next (emit (linkWake s link) (.read (List.replicate 64 0) false)) ∧
      ∀ mask poison data, exec (.memWr link dpa mask poison data) s = .next (emit (linkWake s link) (.cmp link))) ∧
    (s.tiers.wCanopy = true → winValid s (regField s 0x50010 45 30) (regField s 0x50010 63 58) = true → winServes s = true)
end

