-- ==== Sys2Proof/Laws/Tab.lean ====
section
/-! SUPPORT. Laws of sparse tables: a read after a write, a write over a write, and that every write keeps the canonical form. -/

namespace Sys2Proof.Machine

variable {α : Type}

@[simp] theorem tabDel_tabDel (k : Nat) (t : Tab α) : tabDel k (tabDel k t) = tabDel k t := by
  induction t with
  | nil => rfl
  | cons p r ih => by_cases h : p.1 = k <;> simp [tabDel, h, ih]

@[simp] theorem tabDel_tabIns (k : Nat) (v : α) (t : Tab α) : tabDel k (tabIns k v t) = tabDel k t := by
  induction t with
  | nil => simp [tabIns, tabDel]
  | cons p r ih =>
    by_cases h : k < p.1
    · simp [tabIns, h, tabDel]
    · by_cases e : p.1 = k <;> simp [tabIns, h, tabDel, e, ih]

@[simp] theorem tabGet_tabDel_same (d : Nat → α) (k : Nat) (t : Tab α) : tabGet d (tabDel k t) k = d k := by
  induction t with
  | nil => rfl
  | cons p r ih => by_cases h : p.1 = k <;> simp [tabDel, h, tabGet, ih]

theorem tabGet_tabDel_ne (d : Nat → α) {k j : Nat} (t : Tab α) (h : j ≠ k) : tabGet d (tabDel k t) j = tabGet d t j := by
  induction t with
  | nil => rfl
  | cons p r ih =>
    by_cases e : p.1 = k
    · have : p.1 ≠ j := by omega
      simp [tabDel, e, tabGet, ih]; intro hk; omega
    · simp [tabDel, e, tabGet, ih]

theorem tabGet_tabIns_ne (d : Nat → α) {k j : Nat} (v : α) (t : Tab α) (h : j ≠ k) : tabGet d (tabIns k v t) j = tabGet d t j := by
  induction t with
  | nil => simp [tabIns, tabGet]; intro e; omega
  | cons p r ih =>
    by_cases e : k < p.1
    · simp [tabIns, e, tabGet]; intro e; omega
    · simp [tabIns, e, tabGet, ih]

theorem tabGet_tabIns_del (d : Nat → α) (k : Nat) (v : α) (t : Tab α) : tabGet d (tabIns k v (tabDel k t)) k = v := by
  induction t with
  | nil => simp [tabIns, tabDel, tabGet]
  | cons p r ih =>
    by_cases e : p.1 = k
    · simp [tabDel, e, ih]
    · by_cases g : k < p.1
      · simp [tabDel, e, tabIns, g, tabGet]
      · simp [tabDel, e, tabIns, g, tabGet, ih]

variable [DecidableEq α]

/-- A read after a write to the same key gives the value written. -/
@[simp] theorem tabGet_tabSet_same (d : Nat → α) (t : Tab α) (k : Nat) (v : α) : tabGet d (tabSet d t k v) k = v := by
  unfold tabSet; split
  · next h => rw [tabGet_tabDel_same, h]
  · exact tabGet_tabIns_del d k v t

/-- A write leaves every other key alone. -/
theorem tabGet_tabSet_ne (d : Nat → α) (t : Tab α) {k j : Nat} (v : α) (h : j ≠ k) :
    tabGet d (tabSet d t k v) j = tabGet d t j := by
  unfold tabSet; split
  · exact tabGet_tabDel_ne d t h
  · rw [tabGet_tabIns_ne d v _ h, tabGet_tabDel_ne d t h]

/-- A read after a write. -/
theorem tabGet_tabSet (d : Nat → α) (t : Tab α) (k j : Nat) (v : α) :
    tabGet d (tabSet d t k v) j = if j = k then v else tabGet d t j := by
  split
  · next h => rw [h, tabGet_tabSet_same]
  · next h => exact tabGet_tabSet_ne d t v h

/-- A write over a write to the same key. -/
@[simp] theorem tabSet_tabSet (d : Nat → α) (t : Tab α) (k : Nat) (v w : α) : tabSet d (tabSet d t k v) k w = tabSet d t k w := by
  unfold tabSet
  split <;> split <;> simp

omit [DecidableEq α] in
theorem tabSorted_mono {lo lo' : Nat} (t : Tab α) (h : lo' ≤ lo) (s : tabSorted lo t = true) : tabSorted lo' t = true := by
  cases t with
  | nil => rfl
  | cons p r => simp [tabSorted] at *; exact ⟨by omega, s.2⟩

omit [DecidableEq α] in
theorem tabSorted_tabDel (lo k : Nat) (t : Tab α) (h : tabSorted lo t = true) : tabSorted lo (tabDel k t) = true := by
  induction t generalizing lo with
  | nil => rfl
  | cons p r ih =>
    simp [tabSorted] at h
    by_cases e : p.1 = k
    · simp only [tabDel, e, if_true]
      exact ih lo (tabSorted_mono r (by omega) h.2)
    · simp [tabDel, e, tabSorted, h.1, ih _ h.2]

omit [DecidableEq α] in
theorem tabDel_above (k lo : Nat) (t : Tab α) (h : tabSorted lo t = true) (g : k < lo) : tabDel k t = t := by
  induction t generalizing lo with
  | nil => rfl
  | cons p r ih =>
    simp [tabSorted] at h
    have : p.1 ≠ k := by omega
    simp [tabDel, this, ih _ h.2 (by omega)]

omit [DecidableEq α] in
theorem tabSorted_tabIns (lo k : Nat) (v : α) (t : Tab α) (h : tabSorted lo t = true) (g : lo ≤ k)
    (n : ∀ p ∈ t, p.1 ≠ k) : tabSorted lo (tabIns k v t) = true := by
  induction t generalizing lo with
  | nil => simp [tabIns, tabSorted, g]
  | cons p r ih =>
    simp [tabSorted] at h
    have e : p.1 ≠ k := n p (by simp)
    by_cases c : k < p.1
    · simp [tabIns, c, tabSorted, g, h.2]
    · simp only [tabIns, c, if_false, tabSorted, Bool.and_eq_true, decide_eq_true_eq]
      exact ⟨h.1, ih _ h.2 (by omega) (fun q hq => n q (by simp [hq]))⟩

omit [DecidableEq α] in
theorem tabDel_no (k : Nat) (t : Tab α) : ∀ p ∈ tabDel k t, p.1 ≠ k := by
  induction t with
  | nil => simp [tabDel]
  | cons p r ih =>
    by_cases e : p.1 = k
    · simpa [tabDel, e] using ih
    · intro q hq
      simp [tabDel, e] at hq
      rcases hq with rfl | hq
      · exact e
      · exact ih q hq

omit [DecidableEq α] in
theorem mem_tabDel {k : Nat} {t : Tab α} {p : Nat × α} (h : p ∈ tabDel k t) : p ∈ t := by
  induction t with
  | nil => simp [tabDel] at h
  | cons q r ih =>
    by_cases e : q.1 = k
    · simp [tabDel, e] at h; simp [ih h]
    · simp [tabDel, e] at h
      rcases h with rfl | h
      · simp
      · simp [ih h]

omit [DecidableEq α] in
theorem mem_tabIns {k : Nat} {v : α} {t : Tab α} {p : Nat × α} (h : p ∈ tabIns k v t) : p = (k, v) ∨ p ∈ t := by
  induction t with
  | nil => simp [tabIns] at h; simp [h]
  | cons q r ih =>
    by_cases e : k < q.1
    · simp [tabIns, e] at h; simpa using h
    · simp [tabIns, e] at h
      rcases h with rfl | h
      · simp
      · rcases ih h with rfl | h
        · simp
        · simp [h]

/-- A write keeps the canonical form. -/
theorem tabWf_tabSet (d : Nat → α) (t : Tab α) (k : Nat) (v : α) (h : tabWf d t = true) : tabWf d (tabSet d t k v) = true := by
  simp [tabWf] at *
  have s := tabSorted_tabDel 0 k t h.1
  unfold tabSet
  split
  · exact ⟨s, fun a b m => h.2 a b (mem_tabDel m)⟩
  · next e =>
    refine ⟨tabSorted_tabIns 0 k v _ s (Nat.zero_le _) (tabDel_no k t), fun a b m => ?_⟩
    rcases mem_tabIns m with g | g
    · simp at g; rw [g.1, g.2]; exact e
    · exact h.2 a b (mem_tabDel g)

/-- A write of consecutive bytes keeps the canonical form. -/
theorem tabWf_tabPut (t : Tab Byte) (a : Nat) (l : List Byte) (h : tabWf (fun _ => 0) t = true) :
    tabWf (fun _ => 0) (tabPut t a l) = true := by
  induction l generalizing t a with
  | nil => exact h
  | cons b r ih => exact ih _ _ (tabWf_tabSet _ t a b h)

omit [DecidableEq α] in
theorem tabSorted_filter (lo : Nat) (t : Tab α) (p : Nat × α → Bool) (h : tabSorted lo t = true) : tabSorted lo (t.filter p) = true := by
  induction t generalizing lo with
  | nil => rfl
  | cons e r ih =>
    simp only [tabSorted, Bool.and_eq_true, decide_eq_true_eq] at h
    rw [List.filter_cons]
    split
    · simp only [tabSorted, Bool.and_eq_true, decide_eq_true_eq]
      exact ⟨h.1, ih _ h.2⟩
    · exact tabSorted_mono _ (by omega) (ih _ h.2)

/-- Dropping entries keeps the canonical form. -/
theorem tabWf_filter (d : Nat → α) (t : Tab α) (p : Nat × α → Bool) (h : tabWf d t = true) : tabWf d (t.filter p) = true := by
  simp only [tabWf, Bool.and_eq_true, List.all_eq_true] at *
  exact ⟨tabSorted_filter 0 t p h.1, fun x m => h.2 x (List.mem_of_mem_filter m)⟩

/-- Writing what a key already reads as changes nothing. -/
theorem tabSet_tabGet (d : Nat → α) (t : Tab α) (k : Nat) (h : tabWf d t = true) : tabSet d t k (tabGet d t k) = t := by
  simp only [tabWf, Bool.and_eq_true, List.all_eq_true, decide_eq_true_eq] at h
  obtain ⟨hs, hd⟩ := h
  suffices ∀ lo, tabSorted lo t = true → tabSet d t k (tabGet d t k) = t from this 0 hs
  clear hs
  induction t with
  | nil => intro lo _; simp [tabGet, tabSet, tabDel]
  | cons p r ih =>
    intro lo hs
    simp [tabSorted] at hs
    have ir := ih (fun q hq => hd q (by simp [hq])) _ hs.2
    by_cases e : p.1 = k
    · have ne : p.2 ≠ d k := by have := hd p (by simp); rwa [e] at this
      have dl : tabDel k r = r := tabDel_above k (p.1 + 1) r hs.2 (by omega)
      simp only [tabGet, e, if_true, tabSet, ne, if_false, tabDel, dl]
      cases r with
      | nil => simp [tabIns, ← e]
      | cons q r' =>
        simp [tabSorted] at hs
        have c : k < q.1 := by omega
        have c' : p.1 < q.1 := by omega
        simp [tabIns, ← e, c']
    · by_cases g : tabGet d r k = d k
      · simp only [tabGet, e, if_false, tabSet, g, if_true, tabDel] at ir ⊢
        rw [ir]
      · simp only [tabGet, e, if_false, tabSet, g, tabDel] at ir ⊢
        by_cases c : k < p.1
        · exfalso
          have dl : tabDel k r = r := tabDel_above k (p.1 + 1) r hs.2 (by omega)
          have : tabGet d r k = d k := by rw [← dl]; exact tabGet_tabDel_same d k r
          exact g this
        · simp [tabIns, c, ir]

end Sys2Proof.Machine
end

