-- ==== Sys2Proof/Laws/State.lean ====
section
/-! SUPPORT. What each update of State leaves and gives, field by field: every law holds by definition, so no later proof unfolds a record update. -/

namespace Sys2Proof.Machine

@[simp] theorem regPut_pending (s : State) (off v : Nat) : (regPut s off v).pending = s.pending := rfl
@[simp] theorem regPut_cores (s : State) (off v : Nat) : (regPut s off v).cores = s.cores := rfl
@[simp] theorem regPut_tiers (s : State) (off v : Nat) : (regPut s off v).tiers = s.tiers := rfl
@[simp] theorem regPut_coh (s : State) (off v : Nat) : (regPut s off v).coh = s.coh := rfl
@[simp] theorem regPut_xlt (s : State) (off v : Nat) : (regPut s off v).xlt = s.xlt := rfl
@[simp] theorem regPut_movers (s : State) (off v : Nat) : (regPut s off v).movers = s.movers := rfl
@[simp] theorem regPut_qsu (s : State) (off v : Nat) : (regPut s off v).qsu = s.qsu := rfl
@[simp] theorem regPut_host (s : State) (off v : Nat) : (regPut s off v).host = s.host := rfl
@[simp] theorem regPut_flt (s : State) (off v : Nat) : (regPut s off v).flt = s.flt := rfl
@[simp] theorem regPut_ride (s : State) (off v : Nat) : (regPut s off v).ride = s.ride := rfl
@[simp] theorem regPut_pwr (s : State) (off v : Nat) : (regPut s off v).pwr = s.pwr := rfl
@[simp] theorem regPut_prf (s : State) (off v : Nat) : (regPut s off v).prf = s.prf := rfl
@[simp] theorem regPut_life (s : State) (off v : Nat) : (regPut s off v).life = s.life := rfl
@[simp] theorem regPut_errs (s : State) (off v : Nat) : (regPut s off v).errs = s.errs := rfl
@[simp] theorem regPut_sidn (s : State) (off v : Nat) : (regPut s off v).sidn = s.sidn := rfl
@[simp] theorem regPut_out (s : State) (off v : Nat) : (regPut s off v).out = s.out := rfl
@[simp] theorem regPut_free (s : State) (off v : Nat) : (regPut s off v).free = s.free := rfl

@[simp] theorem regSet_pending (s : State) (off hi lo v : Nat) : (regSet s off hi lo v).pending = s.pending := rfl
@[simp] theorem regSet_cores (s : State) (off hi lo v : Nat) : (regSet s off hi lo v).cores = s.cores := rfl
@[simp] theorem regSet_tiers (s : State) (off hi lo v : Nat) : (regSet s off hi lo v).tiers = s.tiers := rfl
@[simp] theorem regSet_coh (s : State) (off hi lo v : Nat) : (regSet s off hi lo v).coh = s.coh := rfl
@[simp] theorem regSet_xlt (s : State) (off hi lo v : Nat) : (regSet s off hi lo v).xlt = s.xlt := rfl
@[simp] theorem regSet_movers (s : State) (off hi lo v : Nat) : (regSet s off hi lo v).movers = s.movers := rfl
@[simp] theorem regSet_qsu (s : State) (off hi lo v : Nat) : (regSet s off hi lo v).qsu = s.qsu := rfl
@[simp] theorem regSet_host (s : State) (off hi lo v : Nat) : (regSet s off hi lo v).host = s.host := rfl
@[simp] theorem regSet_flt (s : State) (off hi lo v : Nat) : (regSet s off hi lo v).flt = s.flt := rfl
@[simp] theorem regSet_ride (s : State) (off hi lo v : Nat) : (regSet s off hi lo v).ride = s.ride := rfl
@[simp] theorem regSet_pwr (s : State) (off hi lo v : Nat) : (regSet s off hi lo v).pwr = s.pwr := rfl
@[simp] theorem regSet_prf (s : State) (off hi lo v : Nat) : (regSet s off hi lo v).prf = s.prf := rfl
@[simp] theorem regSet_life (s : State) (off hi lo v : Nat) : (regSet s off hi lo v).life = s.life := rfl
@[simp] theorem regSet_errs (s : State) (off hi lo v : Nat) : (regSet s off hi lo v).errs = s.errs := rfl
@[simp] theorem regSet_sidn (s : State) (off hi lo v : Nat) : (regSet s off hi lo v).sidn = s.sidn := rfl
@[simp] theorem regSet_out (s : State) (off hi lo v : Nat) : (regSet s off hi lo v).out = s.out := rfl
@[simp] theorem regSet_free (s : State) (off hi lo v : Nat) : (regSet s off hi lo v).free = s.free := rfl

@[simp] theorem regCount_pending (s : State) (off hi lo v : Nat) : (regCount s off hi lo v).pending = s.pending := rfl
@[simp] theorem regCount_cores (s : State) (off hi lo v : Nat) : (regCount s off hi lo v).cores = s.cores := rfl
@[simp] theorem regCount_tiers (s : State) (off hi lo v : Nat) : (regCount s off hi lo v).tiers = s.tiers := rfl
@[simp] theorem regCount_coh (s : State) (off hi lo v : Nat) : (regCount s off hi lo v).coh = s.coh := rfl
@[simp] theorem regCount_xlt (s : State) (off hi lo v : Nat) : (regCount s off hi lo v).xlt = s.xlt := rfl
@[simp] theorem regCount_movers (s : State) (off hi lo v : Nat) : (regCount s off hi lo v).movers = s.movers := rfl
@[simp] theorem regCount_qsu (s : State) (off hi lo v : Nat) : (regCount s off hi lo v).qsu = s.qsu := rfl
@[simp] theorem regCount_host (s : State) (off hi lo v : Nat) : (regCount s off hi lo v).host = s.host := rfl
@[simp] theorem regCount_flt (s : State) (off hi lo v : Nat) : (regCount s off hi lo v).flt = s.flt := rfl
@[simp] theorem regCount_ride (s : State) (off hi lo v : Nat) : (regCount s off hi lo v).ride = s.ride := rfl
@[simp] theorem regCount_pwr (s : State) (off hi lo v : Nat) : (regCount s off hi lo v).pwr = s.pwr := rfl
@[simp] theorem regCount_prf (s : State) (off hi lo v : Nat) : (regCount s off hi lo v).prf = s.prf := rfl
@[simp] theorem regCount_life (s : State) (off hi lo v : Nat) : (regCount s off hi lo v).life = s.life := rfl
@[simp] theorem regCount_errs (s : State) (off hi lo v : Nat) : (regCount s off hi lo v).errs = s.errs := rfl
@[simp] theorem regCount_sidn (s : State) (off hi lo v : Nat) : (regCount s off hi lo v).sidn = s.sidn := rfl
@[simp] theorem regCount_out (s : State) (off hi lo v : Nat) : (regCount s off hi lo v).out = s.out := rfl
@[simp] theorem regCount_free (s : State) (off hi lo v : Nat) : (regCount s off hi lo v).free = s.free := rfl

@[simp] theorem coreSet_pending (s : State) (c : Nat) (k : Core) : (coreSet s c k).pending = s.pending := rfl
@[simp] theorem coreSet_tiers (s : State) (c : Nat) (k : Core) : (coreSet s c k).tiers = s.tiers := rfl
@[simp] theorem coreSet_coh (s : State) (c : Nat) (k : Core) : (coreSet s c k).coh = s.coh := rfl
@[simp] theorem coreSet_xlt (s : State) (c : Nat) (k : Core) : (coreSet s c k).xlt = s.xlt := rfl
@[simp] theorem coreSet_movers (s : State) (c : Nat) (k : Core) : (coreSet s c k).movers = s.movers := rfl
@[simp] theorem coreSet_qsu (s : State) (c : Nat) (k : Core) : (coreSet s c k).qsu = s.qsu := rfl
@[simp] theorem coreSet_host (s : State) (c : Nat) (k : Core) : (coreSet s c k).host = s.host := rfl
@[simp] theorem coreSet_flt (s : State) (c : Nat) (k : Core) : (coreSet s c k).flt = s.flt := rfl
@[simp] theorem coreSet_ride (s : State) (c : Nat) (k : Core) : (coreSet s c k).ride = s.ride := rfl
@[simp] theorem coreSet_pwr (s : State) (c : Nat) (k : Core) : (coreSet s c k).pwr = s.pwr := rfl
@[simp] theorem coreSet_prf (s : State) (c : Nat) (k : Core) : (coreSet s c k).prf = s.prf := rfl
@[simp] theorem coreSet_life (s : State) (c : Nat) (k : Core) : (coreSet s c k).life = s.life := rfl
@[simp] theorem coreSet_errs (s : State) (c : Nat) (k : Core) : (coreSet s c k).errs = s.errs := rfl
@[simp] theorem coreSet_regs (s : State) (c : Nat) (k : Core) : (coreSet s c k).regs = s.regs := rfl
@[simp] theorem coreSet_sidn (s : State) (c : Nat) (k : Core) : (coreSet s c k).sidn = s.sidn := rfl
@[simp] theorem coreSet_out (s : State) (c : Nat) (k : Core) : (coreSet s c k).out = s.out := rfl
@[simp] theorem coreSet_free (s : State) (c : Nat) (k : Core) : (coreSet s c k).free = s.free := rfl

@[simp] theorem coreMap_pending (s : State) (c : Nat) (f : Core → Core) : (coreMap s c f).pending = s.pending := rfl
@[simp] theorem coreMap_tiers (s : State) (c : Nat) (f : Core → Core) : (coreMap s c f).tiers = s.tiers := rfl
@[simp] theorem coreMap_coh (s : State) (c : Nat) (f : Core → Core) : (coreMap s c f).coh = s.coh := rfl
@[simp] theorem coreMap_xlt (s : State) (c : Nat) (f : Core → Core) : (coreMap s c f).xlt = s.xlt := rfl
@[simp] theorem coreMap_movers (s : State) (c : Nat) (f : Core → Core) : (coreMap s c f).movers = s.movers := rfl
@[simp] theorem coreMap_qsu (s : State) (c : Nat) (f : Core → Core) : (coreMap s c f).qsu = s.qsu := rfl
@[simp] theorem coreMap_host (s : State) (c : Nat) (f : Core → Core) : (coreMap s c f).host = s.host := rfl
@[simp] theorem coreMap_flt (s : State) (c : Nat) (f : Core → Core) : (coreMap s c f).flt = s.flt := rfl
@[simp] theorem coreMap_ride (s : State) (c : Nat) (f : Core → Core) : (coreMap s c f).ride = s.ride := rfl
@[simp] theorem coreMap_pwr (s : State) (c : Nat) (f : Core → Core) : (coreMap s c f).pwr = s.pwr := rfl
@[simp] theorem coreMap_prf (s : State) (c : Nat) (f : Core → Core) : (coreMap s c f).prf = s.prf := rfl
@[simp] theorem coreMap_life (s : State) (c : Nat) (f : Core → Core) : (coreMap s c f).life = s.life := rfl
@[simp] theorem coreMap_errs (s : State) (c : Nat) (f : Core → Core) : (coreMap s c f).errs = s.errs := rfl
@[simp] theorem coreMap_regs (s : State) (c : Nat) (f : Core → Core) : (coreMap s c f).regs = s.regs := rfl
@[simp] theorem coreMap_sidn (s : State) (c : Nat) (f : Core → Core) : (coreMap s c f).sidn = s.sidn := rfl
@[simp] theorem coreMap_out (s : State) (c : Nat) (f : Core → Core) : (coreMap s c f).out = s.out := rfl
@[simp] theorem coreMap_free (s : State) (c : Nat) (f : Core → Core) : (coreMap s c f).free = s.free := rfl

@[simp] theorem moverSet_pending (s : State) (m : Nat) (v : Mover) : (moverSet s m v).pending = s.pending := rfl
@[simp] theorem moverSet_cores (s : State) (m : Nat) (v : Mover) : (moverSet s m v).cores = s.cores := rfl
@[simp] theorem moverSet_tiers (s : State) (m : Nat) (v : Mover) : (moverSet s m v).tiers = s.tiers := rfl
@[simp] theorem moverSet_coh (s : State) (m : Nat) (v : Mover) : (moverSet s m v).coh = s.coh := rfl
@[simp] theorem moverSet_xlt (s : State) (m : Nat) (v : Mover) : (moverSet s m v).xlt = s.xlt := rfl
@[simp] theorem moverSet_qsu (s : State) (m : Nat) (v : Mover) : (moverSet s m v).qsu = s.qsu := rfl
@[simp] theorem moverSet_host (s : State) (m : Nat) (v : Mover) : (moverSet s m v).host = s.host := rfl
@[simp] theorem moverSet_flt (s : State) (m : Nat) (v : Mover) : (moverSet s m v).flt = s.flt := rfl
@[simp] theorem moverSet_ride (s : State) (m : Nat) (v : Mover) : (moverSet s m v).ride = s.ride := rfl
@[simp] theorem moverSet_pwr (s : State) (m : Nat) (v : Mover) : (moverSet s m v).pwr = s.pwr := rfl
@[simp] theorem moverSet_prf (s : State) (m : Nat) (v : Mover) : (moverSet s m v).prf = s.prf := rfl
@[simp] theorem moverSet_life (s : State) (m : Nat) (v : Mover) : (moverSet s m v).life = s.life := rfl
@[simp] theorem moverSet_errs (s : State) (m : Nat) (v : Mover) : (moverSet s m v).errs = s.errs := rfl
@[simp] theorem moverSet_regs (s : State) (m : Nat) (v : Mover) : (moverSet s m v).regs = s.regs := rfl
@[simp] theorem moverSet_sidn (s : State) (m : Nat) (v : Mover) : (moverSet s m v).sidn = s.sidn := rfl
@[simp] theorem moverSet_out (s : State) (m : Nat) (v : Mover) : (moverSet s m v).out = s.out := rfl
@[simp] theorem moverSet_free (s : State) (m : Nat) (v : Mover) : (moverSet s m v).free = s.free := rfl

@[simp] theorem portSet_pending (s : State) (i : Nat) (p : Port) : (portSet s i p).pending = s.pending := rfl
@[simp] theorem portSet_cores (s : State) (i : Nat) (p : Port) : (portSet s i p).cores = s.cores := rfl
@[simp] theorem portSet_tiers (s : State) (i : Nat) (p : Port) : (portSet s i p).tiers = s.tiers := rfl
@[simp] theorem portSet_coh (s : State) (i : Nat) (p : Port) : (portSet s i p).coh = s.coh := rfl
@[simp] theorem portSet_xlt (s : State) (i : Nat) (p : Port) : (portSet s i p).xlt = s.xlt := rfl
@[simp] theorem portSet_movers (s : State) (i : Nat) (p : Port) : (portSet s i p).movers = s.movers := rfl
@[simp] theorem portSet_qsu (s : State) (i : Nat) (p : Port) : (portSet s i p).qsu = s.qsu := rfl
@[simp] theorem portSet_host (s : State) (i : Nat) (p : Port) : (portSet s i p).host = s.host := rfl
@[simp] theorem portSet_flt (s : State) (i : Nat) (p : Port) : (portSet s i p).flt = s.flt := rfl
@[simp] theorem portSet_pwr (s : State) (i : Nat) (p : Port) : (portSet s i p).pwr = s.pwr := rfl
@[simp] theorem portSet_prf (s : State) (i : Nat) (p : Port) : (portSet s i p).prf = s.prf := rfl
@[simp] theorem portSet_life (s : State) (i : Nat) (p : Port) : (portSet s i p).life = s.life := rfl
@[simp] theorem portSet_errs (s : State) (i : Nat) (p : Port) : (portSet s i p).errs = s.errs := rfl
@[simp] theorem portSet_regs (s : State) (i : Nat) (p : Port) : (portSet s i p).regs = s.regs := rfl
@[simp] theorem portSet_sidn (s : State) (i : Nat) (p : Port) : (portSet s i p).sidn = s.sidn := rfl
@[simp] theorem portSet_out (s : State) (i : Nat) (p : Port) : (portSet s i p).out = s.out := rfl
@[simp] theorem portSet_free (s : State) (i : Nat) (p : Port) : (portSet s i p).free = s.free := rfl

@[simp] theorem queueSet_pending (s : State) (q : Nat) (v : Queue) : (queueSet s q v).pending = s.pending := rfl
@[simp] theorem queueSet_cores (s : State) (q : Nat) (v : Queue) : (queueSet s q v).cores = s.cores := rfl
@[simp] theorem queueSet_tiers (s : State) (q : Nat) (v : Queue) : (queueSet s q v).tiers = s.tiers := rfl
@[simp] theorem queueSet_coh (s : State) (q : Nat) (v : Queue) : (queueSet s q v).coh = s.coh := rfl
@[simp] theorem queueSet_xlt (s : State) (q : Nat) (v : Queue) : (queueSet s q v).xlt = s.xlt := rfl
@[simp] theorem queueSet_movers (s : State) (q : Nat) (v : Queue) : (queueSet s q v).movers = s.movers := rfl
@[simp] theorem queueSet_host (s : State) (q : Nat) (v : Queue) : (queueSet s q v).host = s.host := rfl
@[simp] theorem queueSet_flt (s : State) (q : Nat) (v : Queue) : (queueSet s q v).flt = s.flt := rfl
@[simp] theorem queueSet_ride (s : State) (q : Nat) (v : Queue) : (queueSet s q v).ride = s.ride := rfl
@[simp] theorem queueSet_pwr (s : State) (q : Nat) (v : Queue) : (queueSet s q v).pwr = s.pwr := rfl
@[simp] theorem queueSet_prf (s : State) (q : Nat) (v : Queue) : (queueSet s q v).prf = s.prf := rfl
@[simp] theorem queueSet_life (s : State) (q : Nat) (v : Queue) : (queueSet s q v).life = s.life := rfl
@[simp] theorem queueSet_errs (s : State) (q : Nat) (v : Queue) : (queueSet s q v).errs = s.errs := rfl
@[simp] theorem queueSet_regs (s : State) (q : Nat) (v : Queue) : (queueSet s q v).regs = s.regs := rfl
@[simp] theorem queueSet_sidn (s : State) (q : Nat) (v : Queue) : (queueSet s q v).sidn = s.sidn := rfl
@[simp] theorem queueSet_out (s : State) (q : Nat) (v : Queue) : (queueSet s q v).out = s.out := rfl
@[simp] theorem queueSet_free (s : State) (q : Nat) (v : Queue) : (queueSet s q v).free = s.free := rfl

@[simp] theorem emit_pending (s : State) (o : Out) : (emit s o).pending = s.pending := rfl
@[simp] theorem emit_cores (s : State) (o : Out) : (emit s o).cores = s.cores := rfl
@[simp] theorem emit_tiers (s : State) (o : Out) : (emit s o).tiers = s.tiers := rfl
@[simp] theorem emit_coh (s : State) (o : Out) : (emit s o).coh = s.coh := rfl
@[simp] theorem emit_xlt (s : State) (o : Out) : (emit s o).xlt = s.xlt := rfl
@[simp] theorem emit_movers (s : State) (o : Out) : (emit s o).movers = s.movers := rfl
@[simp] theorem emit_qsu (s : State) (o : Out) : (emit s o).qsu = s.qsu := rfl
@[simp] theorem emit_host (s : State) (o : Out) : (emit s o).host = s.host := rfl
@[simp] theorem emit_flt (s : State) (o : Out) : (emit s o).flt = s.flt := rfl
@[simp] theorem emit_ride (s : State) (o : Out) : (emit s o).ride = s.ride := rfl
@[simp] theorem emit_pwr (s : State) (o : Out) : (emit s o).pwr = s.pwr := rfl
@[simp] theorem emit_prf (s : State) (o : Out) : (emit s o).prf = s.prf := rfl
@[simp] theorem emit_life (s : State) (o : Out) : (emit s o).life = s.life := rfl
@[simp] theorem emit_errs (s : State) (o : Out) : (emit s o).errs = s.errs := rfl
@[simp] theorem emit_regs (s : State) (o : Out) : (emit s o).regs = s.regs := rfl
@[simp] theorem emit_sidn (s : State) (o : Out) : (emit s o).sidn = s.sidn := rfl
@[simp] theorem emit_free (s : State) (o : Out) : (emit s o).free = s.free := rfl

@[simp] theorem noteErr_pending (s : State) (rec src synd addr : Nat) : (noteErr s rec src synd addr).pending = s.pending := rfl
@[simp] theorem noteErr_cores (s : State) (rec src synd addr : Nat) : (noteErr s rec src synd addr).cores = s.cores := rfl
@[simp] theorem noteErr_tiers (s : State) (rec src synd addr : Nat) : (noteErr s rec src synd addr).tiers = s.tiers := rfl
@[simp] theorem noteErr_coh (s : State) (rec src synd addr : Nat) : (noteErr s rec src synd addr).coh = s.coh := rfl
@[simp] theorem noteErr_xlt (s : State) (rec src synd addr : Nat) : (noteErr s rec src synd addr).xlt = s.xlt := rfl
@[simp] theorem noteErr_movers (s : State) (rec src synd addr : Nat) : (noteErr s rec src synd addr).movers = s.movers := rfl
@[simp] theorem noteErr_qsu (s : State) (rec src synd addr : Nat) : (noteErr s rec src synd addr).qsu = s.qsu := rfl
@[simp] theorem noteErr_host (s : State) (rec src synd addr : Nat) : (noteErr s rec src synd addr).host = s.host := rfl
@[simp] theorem noteErr_flt (s : State) (rec src synd addr : Nat) : (noteErr s rec src synd addr).flt = s.flt := rfl
@[simp] theorem noteErr_ride (s : State) (rec src synd addr : Nat) : (noteErr s rec src synd addr).ride = s.ride := rfl
@[simp] theorem noteErr_pwr (s : State) (rec src synd addr : Nat) : (noteErr s rec src synd addr).pwr = s.pwr := rfl
@[simp] theorem noteErr_prf (s : State) (rec src synd addr : Nat) : (noteErr s rec src synd addr).prf = s.prf := rfl
@[simp] theorem noteErr_life (s : State) (rec src synd addr : Nat) : (noteErr s rec src synd addr).life = s.life := rfl
@[simp] theorem noteErr_regs (s : State) (rec src synd addr : Nat) : (noteErr s rec src synd addr).regs = s.regs := rfl
@[simp] theorem noteErr_sidn (s : State) (rec src synd addr : Nat) : (noteErr s rec src synd addr).sidn = s.sidn := rfl
@[simp] theorem noteErr_out (s : State) (rec src synd addr : Nat) : (noteErr s rec src synd addr).out = s.out := rfl
@[simp] theorem noteErr_free (s : State) (rec src synd addr : Nat) : (noteErr s rec src synd addr).free = s.free := rfl

@[simp] theorem drawFree_pending (s : State) : (drawFree s).2.pending = s.pending := rfl
@[simp] theorem drawFree_cores (s : State) : (drawFree s).2.cores = s.cores := rfl
@[simp] theorem drawFree_tiers (s : State) : (drawFree s).2.tiers = s.tiers := rfl
@[simp] theorem drawFree_coh (s : State) : (drawFree s).2.coh = s.coh := rfl
@[simp] theorem drawFree_xlt (s : State) : (drawFree s).2.xlt = s.xlt := rfl
@[simp] theorem drawFree_movers (s : State) : (drawFree s).2.movers = s.movers := rfl
@[simp] theorem drawFree_qsu (s : State) : (drawFree s).2.qsu = s.qsu := rfl
@[simp] theorem drawFree_host (s : State) : (drawFree s).2.host = s.host := rfl
@[simp] theorem drawFree_flt (s : State) : (drawFree s).2.flt = s.flt := rfl
@[simp] theorem drawFree_ride (s : State) : (drawFree s).2.ride = s.ride := rfl
@[simp] theorem drawFree_pwr (s : State) : (drawFree s).2.pwr = s.pwr := rfl
@[simp] theorem drawFree_prf (s : State) : (drawFree s).2.prf = s.prf := rfl
@[simp] theorem drawFree_life (s : State) : (drawFree s).2.life = s.life := rfl
@[simp] theorem drawFree_errs (s : State) : (drawFree s).2.errs = s.errs := rfl
@[simp] theorem drawFree_regs (s : State) : (drawFree s).2.regs = s.regs := rfl
@[simp] theorem drawFree_sidn (s : State) : (drawFree s).2.sidn = s.sidn := rfl
@[simp] theorem drawFree_out (s : State) : (drawFree s).2.out = s.out := rfl
@[simp] theorem drawFree_free (s : State) : (drawFree s).2.free = s.free + 1 := rfl
@[simp] theorem drawFree_fst (s : State) : (drawFree s).1 = Config.freeNat s.free := rfl
@[simp] theorem emit_out (s : State) (o : Out) : (emit s o).out = s.out ++ [o] := rfl
@[simp] theorem noteErr_errs (s : State) (r a y d : Nat) : (noteErr s r a y d).errs = s.errs ++ [⟨r, a, y, d, false⟩] := rfl
@[simp] theorem regPut_regs (s : State) (o v : Nat) : (regPut s o v).regs = tabSet regReset s.regs o (BitVec.ofNat 64 v) := rfl

/-- A register read after a write: the 64-bit word written. -/
@[simp] theorem regGet_regPut_same (s : State) (o v : Nat) : regGet (regPut s o v) o = v % 2 ^ 64 := by
  simp [regGet, regPut]

/-- A register write leaves every other register alone. -/
theorem regGet_regPut_ne (s : State) {o p : Nat} (v : Nat) (h : p ≠ o) : regGet (regPut s o v) p = regGet s p := by
  simp [regGet, regPut, tabGet_tabSet_ne _ _ _ h]

/-- A field write leaves every other register alone. -/
theorem regGet_regSet_ne (s : State) {o p : Nat} (hi lo v : Nat) (h : p ≠ o) : regGet (regSet s o hi lo v) p = regGet s p :=
  regGet_regPut_ne s _ h

theorem regField_regPut_ne (s : State) {o p : Nat} (v hi lo : Nat) (h : p ≠ o) : regField (regPut s o v) p hi lo = regField s p hi lo := by
  simp [regField, regGet_regPut_ne s v h]

theorem regField_regSet_ne (s : State) {o p : Nat} (a b v hi lo : Nat) (h : p ≠ o) :
    regField (regSet s o a b v) p hi lo = regField s p hi lo := by
  simp [regField, regGet_regSet_ne s a b v h]

@[simp] theorem coreGet_coreSet_same (s : State) (i : Nat) (v : Core) : coreGet (coreSet s i v) i = v := by simp [coreGet, coreSet]
theorem coreGet_coreSet_ne (s : State) {i j : Nat} (v : Core) (h : j ≠ i) : coreGet (coreSet s i v) j = coreGet s j := by
  simp [coreGet, coreSet, tabGet_tabSet_ne _ _ _ h]
@[simp] theorem coreSet_coreSet (s : State) (i : Nat) (v w : Core) : coreSet (coreSet s i v) i w = coreSet s i w := by simp [coreSet]

@[simp] theorem moverGet_moverSet_same (s : State) (i : Nat) (v : Mover) : moverGet (moverSet s i v) i = v := by simp [moverGet, moverSet]
theorem moverGet_moverSet_ne (s : State) {i j : Nat} (v : Mover) (h : j ≠ i) : moverGet (moverSet s i v) j = moverGet s j := by
  simp [moverGet, moverSet, tabGet_tabSet_ne _ _ _ h]
@[simp] theorem moverSet_moverSet (s : State) (i : Nat) (v w : Mover) : moverSet (moverSet s i v) i w = moverSet s i w := by simp [moverSet]

@[simp] theorem portGet_portSet_same (s : State) (i : Nat) (v : Port) : portGet (portSet s i v) i = v := by simp [portGet, portSet]
theorem portGet_portSet_ne (s : State) {i j : Nat} (v : Port) (h : j ≠ i) : portGet (portSet s i v) j = portGet s j := by
  simp [portGet, portSet, tabGet_tabSet_ne _ _ _ h]
@[simp] theorem portSet_portSet (s : State) (i : Nat) (v w : Port) : portSet (portSet s i v) i w = portSet s i w := by simp [portSet]

@[simp] theorem queueGet_queueSet_same (s : State) (i : Nat) (v : Queue) : queueGet (queueSet s i v) i = v := by simp [queueGet, queueSet]
theorem queueGet_queueSet_ne (s : State) {i j : Nat} (v : Queue) (h : j ≠ i) : queueGet (queueSet s i v) j = queueGet s j := by
  simp [queueGet, queueSet, tabGet_tabSet_ne _ _ _ h]
@[simp] theorem queueSet_queueSet (s : State) (i : Nat) (v w : Queue) : queueSet (queueSet s i v) i w = queueSet s i w := by simp [queueSet]

@[simp] theorem coreGet_regPut (s : State) (off v : Nat) (j : Nat) : coreGet (regPut s off v) j = coreGet s j := rfl
@[simp] theorem moverGet_regPut (s : State) (off v : Nat) (j : Nat) : moverGet (regPut s off v) j = moverGet s j := rfl
@[simp] theorem portGet_regPut (s : State) (off v : Nat) (j : Nat) : portGet (regPut s off v) j = portGet s j := rfl
@[simp] theorem queueGet_regPut (s : State) (off v : Nat) (j : Nat) : queueGet (regPut s off v) j = queueGet s j := rfl
@[simp] theorem coreGet_regSet (s : State) (off hi lo v : Nat) (j : Nat) : coreGet (regSet s off hi lo v) j = coreGet s j := rfl
@[simp] theorem moverGet_regSet (s : State) (off hi lo v : Nat) (j : Nat) : moverGet (regSet s off hi lo v) j = moverGet s j := rfl
@[simp] theorem portGet_regSet (s : State) (off hi lo v : Nat) (j : Nat) : portGet (regSet s off hi lo v) j = portGet s j := rfl
@[simp] theorem queueGet_regSet (s : State) (off hi lo v : Nat) (j : Nat) : queueGet (regSet s off hi lo v) j = queueGet s j := rfl
@[simp] theorem regGet_coreSet (s : State) (c : Nat) (k : Core) (j : Nat) : regGet (coreSet s c k) j = regGet s j := rfl
@[simp] theorem moverGet_coreSet (s : State) (c : Nat) (k : Core) (j : Nat) : moverGet (coreSet s c k) j = moverGet s j := rfl
@[simp] theorem portGet_coreSet (s : State) (c : Nat) (k : Core) (j : Nat) : portGet (coreSet s c k) j = portGet s j := rfl
@[simp] theorem queueGet_coreSet (s : State) (c : Nat) (k : Core) (j : Nat) : queueGet (coreSet s c k) j = queueGet s j := rfl
@[simp] theorem regGet_coreMap (s : State) (c : Nat) (f : Core → Core) (j : Nat) : regGet (coreMap s c f) j = regGet s j := rfl
@[simp] theorem moverGet_coreMap (s : State) (c : Nat) (f : Core → Core) (j : Nat) : moverGet (coreMap s c f) j = moverGet s j := rfl
@[simp] theorem portGet_coreMap (s : State) (c : Nat) (f : Core → Core) (j : Nat) : portGet (coreMap s c f) j = portGet s j := rfl
@[simp] theorem queueGet_coreMap (s : State) (c : Nat) (f : Core → Core) (j : Nat) : queueGet (coreMap s c f) j = queueGet s j := rfl
@[simp] theorem regGet_moverSet (s : State) (m : Nat) (v : Mover) (j : Nat) : regGet (moverSet s m v) j = regGet s j := rfl
@[simp] theorem coreGet_moverSet (s : State) (m : Nat) (v : Mover) (j : Nat) : coreGet (moverSet s m v) j = coreGet s j := rfl
@[simp] theorem portGet_moverSet (s : State) (m : Nat) (v : Mover) (j : Nat) : portGet (moverSet s m v) j = portGet s j := rfl
@[simp] theorem queueGet_moverSet (s : State) (m : Nat) (v : Mover) (j : Nat) : queueGet (moverSet s m v) j = queueGet s j := rfl
@[simp] theorem regGet_portSet (s : State) (i : Nat) (p : Port) (j : Nat) : regGet (portSet s i p) j = regGet s j := rfl
@[simp] theorem coreGet_portSet (s : State) (i : Nat) (p : Port) (j : Nat) : coreGet (portSet s i p) j = coreGet s j := rfl
@[simp] theorem moverGet_portSet (s : State) (i : Nat) (p : Port) (j : Nat) : moverGet (portSet s i p) j = moverGet s j := rfl
@[simp] theorem queueGet_portSet (s : State) (i : Nat) (p : Port) (j : Nat) : queueGet (portSet s i p) j = queueGet s j := rfl
@[simp] theorem regGet_queueSet (s : State) (q : Nat) (v : Queue) (j : Nat) : regGet (queueSet s q v) j = regGet s j := rfl
@[simp] theorem coreGet_queueSet (s : State) (q : Nat) (v : Queue) (j : Nat) : coreGet (queueSet s q v) j = coreGet s j := rfl
@[simp] theorem moverGet_queueSet (s : State) (q : Nat) (v : Queue) (j : Nat) : moverGet (queueSet s q v) j = moverGet s j := rfl
@[simp] theorem portGet_queueSet (s : State) (q : Nat) (v : Queue) (j : Nat) : portGet (queueSet s q v) j = portGet s j := rfl
@[simp] theorem regGet_emit (s : State) (o : Out) (j : Nat) : regGet (emit s o) j = regGet s j := rfl
@[simp] theorem coreGet_emit (s : State) (o : Out) (j : Nat) : coreGet (emit s o) j = coreGet s j := rfl
@[simp] theorem moverGet_emit (s : State) (o : Out) (j : Nat) : moverGet (emit s o) j = moverGet s j := rfl
@[simp] theorem portGet_emit (s : State) (o : Out) (j : Nat) : portGet (emit s o) j = portGet s j := rfl
@[simp] theorem queueGet_emit (s : State) (o : Out) (j : Nat) : queueGet (emit s o) j = queueGet s j := rfl
@[simp] theorem regGet_noteErr (s : State) (rec src synd addr : Nat) (j : Nat) : regGet (noteErr s rec src synd addr) j = regGet s j := rfl
@[simp] theorem coreGet_noteErr (s : State) (rec src synd addr : Nat) (j : Nat) : coreGet (noteErr s rec src synd addr) j = coreGet s j := rfl
@[simp] theorem moverGet_noteErr (s : State) (rec src synd addr : Nat) (j : Nat) : moverGet (noteErr s rec src synd addr) j = moverGet s j := rfl
@[simp] theorem portGet_noteErr (s : State) (rec src synd addr : Nat) (j : Nat) : portGet (noteErr s rec src synd addr) j = portGet s j := rfl
@[simp] theorem queueGet_noteErr (s : State) (rec src synd addr : Nat) (j : Nat) : queueGet (noteErr s rec src synd addr) j = queueGet s j := rfl
@[simp] theorem regField_coreSet (s : State) (c : Nat) (k : Core) (x y z : Nat) : regField (coreSet s c k) x y z = regField s x y z := rfl
@[simp] theorem mode_coreSet (s : State) (c : Nat) (k : Core) : mode (coreSet s c k) = mode s := rfl
@[simp] theorem frozen_coreSet (s : State) (c : Nat) (k : Core) : frozen (coreSet s c k) = frozen s := rfl
@[simp] theorem regField_coreMap (s : State) (c : Nat) (f : Core → Core) (x y z : Nat) : regField (coreMap s c f) x y z = regField s x y z := rfl
@[simp] theorem mode_coreMap (s : State) (c : Nat) (f : Core → Core) : mode (coreMap s c f) = mode s := rfl
@[simp] theorem frozen_coreMap (s : State) (c : Nat) (f : Core → Core) : frozen (coreMap s c f) = frozen s := rfl
@[simp] theorem regField_moverSet (s : State) (m : Nat) (v : Mover) (x y z : Nat) : regField (moverSet s m v) x y z = regField s x y z := rfl
@[simp] theorem mode_moverSet (s : State) (m : Nat) (v : Mover) : mode (moverSet s m v) = mode s := rfl
@[simp] theorem frozen_moverSet (s : State) (m : Nat) (v : Mover) : frozen (moverSet s m v) = frozen s := rfl
@[simp] theorem regField_portSet (s : State) (i : Nat) (p : Port) (x y z : Nat) : regField (portSet s i p) x y z = regField s x y z := rfl
@[simp] theorem mode_portSet (s : State) (i : Nat) (p : Port) : mode (portSet s i p) = mode s := rfl
@[simp] theorem frozen_portSet (s : State) (i : Nat) (p : Port) : frozen (portSet s i p) = frozen s := rfl
@[simp] theorem regField_queueSet (s : State) (q : Nat) (v : Queue) (x y z : Nat) : regField (queueSet s q v) x y z = regField s x y z := rfl
@[simp] theorem mode_queueSet (s : State) (q : Nat) (v : Queue) : mode (queueSet s q v) = mode s := rfl
@[simp] theorem frozen_queueSet (s : State) (q : Nat) (v : Queue) : frozen (queueSet s q v) = frozen s := rfl
@[simp] theorem regField_emit (s : State) (o : Out) (x y z : Nat) : regField (emit s o) x y z = regField s x y z := rfl
@[simp] theorem mode_emit (s : State) (o : Out) : mode (emit s o) = mode s := rfl
@[simp] theorem frozen_emit (s : State) (o : Out) : frozen (emit s o) = frozen s := rfl
@[simp] theorem regField_noteErr (s : State) (rec src synd addr : Nat) (x y z : Nat) : regField (noteErr s rec src synd addr) x y z = regField s x y z := rfl
@[simp] theorem mode_noteErr (s : State) (rec src synd addr : Nat) : mode (noteErr s rec src synd addr) = mode s := rfl
@[simp] theorem frozen_noteErr (s : State) (rec src synd addr : Nat) : frozen (noteErr s rec src synd addr) = frozen s := rfl

@[simp] theorem coreGet_coreMap_same (s : State) (c : Nat) (f : Core → Core) : coreGet (coreMap s c f) c = f (coreGet s c) := by
  simp [coreMap]
theorem coreGet_coreMap_ne (s : State) {c d : Nat} (f : Core → Core) (h : d ≠ c) : coreGet (coreMap s c f) d = coreGet s d :=
  coreGet_coreSet_ne s _ h

/-- Writing a core back as it is changes nothing in a canonical table. -/
theorem coreSet_coreGet (s : State) (c : Nat) (h : tabWf (fun _ => core0) s.cores = true) : coreSet s c (coreGet s c) = s := by
  simp [coreSet, coreGet, tabSet_tabGet _ _ _ h]

/-- The command queue plays no part in what a command reads. -/
@[simp] theorem frozen_pending (s : State) (p : List Instr) : frozen { s with pending := p } = frozen s := rfl

end Sys2Proof.Machine
end

