-- ==== Sys2Proof/Laws/Issue.lean ====
section
/-! SUPPORT. What issue does on a free core: nothing outstanding moves, and one bundle issues as one whole. -/

namespace Sys2Proof.Machine

/-- A core without outstanding work: only its first bundle can move. -/
def coreStill (k : Core) : Prop := k.tq = [] ∧ k.loads = [] ∧ k.sb = [] ∧ k.hints = []

theorem chainTurn_still (n : Nat) (s : State) (c : Nat) (h : (coreGet s c).tq = []) : chainTurn n s c = s := by
  cases n <;> simp [chainTurn, chainRunning, h]

theorem abandonRecv_still (s : State) (c : Nat) (h : (coreGet s c).tq = []) : abandonRecv s c = s := by
  simp [abandonRecv, chainRunning, h]

theorem tStartAll_still (s : State) (c : Nat) (h : (coreGet s c).tq = []) : tStartAll s c = s := by
  simp [tStartAll, h]

theorem sendLoads_still (s : State) (c : Nat) (h : (coreGet s c).loads = []) : sendLoads s c = s := by
  simp [sendLoads, h]

theorem drainSb_still (s : State) (c : Nat) (h : (coreGet s c).sb = []) : drainSb s c = s := by
  simp [drainSb, h]

/-- A still core's round is the issue of its next bundle. -/
theorem pumpStep_still (s : State) (c : Nat) (h : coreStill (coreGet s c)) : pumpStep s c = tryIssue s c := by
  obtain ⟨a, b, d, e⟩ := h
  simp only [pumpStep, tStartAll_still s c a, chainTurn_still _ s c a, abandonRecv_still s c a, e, List.isEmpty_nil,
    if_true, sendLoads_still s c b, drainSb_still s c d]

theorem tryIssue_none (s : State) (c : Nat) (h : (coreGet s c).fetched = []) : tryIssue s c = s := by
  simp [tryIssue, h]

/-- A still core that holds one bundle, which leaves it still and without a bundle: the bundle's issue and, where the core
ends or stops, its end. -/
theorem pumpCore_one (s : State) (c : Nat) (b : Slots) (h : coreStill (coreGet s c)) (f : (coreGet s c).fetched = [b])
    (t : State) (ht : tryIssue s c = t) (g : coreStill (coreGet t c)) (e : (coreGet t c).fetched = []) :
    pumpCore s c = coreFinish t c := by
  have hs : pumpStep s c = t := by rw [pumpStep_still s c h, ht]
  have ht2 : pumpStep t c = t := by rw [pumpStep_still t c g, tryIssue_none t c e]
  simp [pumpCore, pumpLoop, f, hs, ht2, e, tStartAll_still t c g.1]

/-- A still core with no bundle does nothing but end. -/
theorem pumpCore_idle (s : State) (c : Nat) (h : coreStill (coreGet s c)) (f : (coreGet s c).fetched = []) :
    pumpCore s c = coreFinish s c := by
  have hs : pumpStep s c = s := by rw [pumpStep_still s c h, tryIssue_none s c f]
  simp [pumpCore, pumpLoop, f, hs, tStartAll_still s c h.1]

theorem coreFinish_running (s : State) (c : Nat) (h : (coreGet s c).st = .running) (e : (coreGet s c).ended = false) :
    coreFinish s c = s := by
  simp [coreFinish, h, e]

/-- What `coreFree` says, field by field. -/
theorem coreFree_iff (k : Core) : coreFree k = true ↔
    k.st = .running ∧ k.ended = false ∧ k.fetched = [] ∧ k.tq = [] ∧ k.loads = [] ∧ k.sb = [] ∧ k.hints = [] ∧
    k.bar = 0 ∧ k.waitTry = false ∧ k.waitOk = false := by
  simp [coreFree, and_assoc]

theorem coreFree_still {k : Core} (h : coreFree k = true) : coreStill k := by
  rw [coreFree_iff] at h; exact ⟨h.2.2.2.1, h.2.2.2.2.1, h.2.2.2.2.2.1, h.2.2.2.2.2.2.1⟩

/-- The condition of R79 holds for every bundle without a load or a tensor instruction on a still core. -/
theorem issueReady_still (k : Core) (sw vw tw : Nat) (h : coreStill k) (q : tQueued tw = false) :
    issueReady k sw vw tw = true := by
  obtain ⟨a, b, d, e⟩ := h
  simp [issueReady, regsReady, pendS, pendV, a, b, meets, plateReady, sideReady, acqBusy, q]

theorem scPlain_facts {w : Nat} (h : scPlain w = true) : scIsLoad w = false ∧ scIsMem w = false ∧ scIsStore w = false ∧
    scOp w ≠ 62 ∧ scOp w ≠ 26 ∧ scOp w ≠ 27 ∧ scOp w ≠ 63 ∧ scOp w ≠ 25 := by
  simp [scPlain] at h
  simp [scIsLoad, scIsMem, scIsStore]
  omega

/-- A bundle that acts on registers and plate only issues on a free core: the core retires it, and nothing else changes
(R79, R125, R134). -/
theorem tryIssue_plain (s : State) (c : Nat) (k : Core) (b : Slots) (hk : coreGet s c = { k with fetched := [b] })
    (h : coreFree k = true) (r : bundleReady k b = true) :
    tryIssue s c = coreSet s c (retire k (bundleEffect k.pc k.a (scAct k.a b) (vAct k.a b) (tAct k.a b))
      ((scTarget k.a (scAct k.a b)).getD (k.pc + 1))) := by
  have st := coreFree_still h
  rw [coreFree_iff] at h
  obtain ⟨h1, h2, h3, h4, h5, h6, h7, h8, h9, h10⟩ := h
  simp only [bundleReady, Bool.and_eq_true, decide_eq_true_eq, Bool.not_eq_true'] at r
  obtain ⟨⟨⟨⟨⟨r1, r2⟩, r3⟩, r4⟩, r5⟩, r6⟩ := r
  obtain ⟨p1, p2, p3, p4, p5, p6, p7, p8⟩ := scPlain_facts r2
  have rdy : issueReady { k with fetched := [b] } (scAct k.a b) (vAct k.a b) (tAct k.a b) = true :=
    issueReady_still _ _ _ _ st r3
  have bm : barMet { k with fetched := [b] } = true := by simp [barMet, h8]
  simp only [tryIssue, hk, h1, h2, ne_eq, not_true_eq_false, decide_false, Bool.not_true, Bool.or_self,
    Bool.false_eq_true, if_false, barEnd, h8, if_true, r1, p4, r4, r5, p5, p6, p2]
  simp only [issueBundle, hk, p8, p7, false_or, if_false, beq_iff_eq, bundleEntry, r3,
    Bool.false_eq_true, decide_eq_true r6, Bool.or_true, if_true, List.append_nil, List.length_nil, Nat.add_zero, h4]
  have e63 : (scOp (scAct k.a b) == 63) = false := by simp [p7]
  rw [e63]
  cases k
  simp_all [retire]

/-- The last slot of a bundle that acts on registers and plate only, given to a free core: the bundle issues as one whole. -/
theorem giveSlot_last (s : State) (h : Hdr) (kind : SlotKind) (w : Nat) (l : h.last = true) (k : Core)
    (hk : coreGet s h.core = k) (f : coreFree k = true) (r : bundleReady k (slotPut k.latch kind w) = true) :
    giveSlot s h kind w = coreSet s h.core { (retire k
      (bundleEffect k.pc k.a (scAct k.a (slotPut k.latch kind w)) (vAct k.a (slotPut k.latch kind w)) (tAct k.a (slotPut k.latch kind w)))
      ((scTarget k.a (scAct k.a (slotPut k.latch kind w))).getD (k.pc + 1))) with latch := slots0 } := by
  have st := coreFree_still f
  have ff := (coreFree_iff k).1 f
  have f' : coreFree { k with latch := slots0 } = true := f
  have hl : latchSlot k kind w true = { ({ k with latch := slots0 } : Core) with fetched := [slotPut k.latch kind w] } := by
    simp [latchSlot, ff.1, ff.2.1, ff.2.2.1]
  simp only [giveSlot, l, if_true, hk, hl]
  have gk : coreGet (coreSet s h.core { ({ k with latch := slots0 } : Core) with fetched := [slotPut k.latch kind w] }) h.core =
      { ({ k with latch := slots0 } : Core) with fetched := [slotPut k.latch kind w] } := by simp
  have tr := tryIssue_plain _ h.core { k with latch := slots0 } (slotPut k.latch kind w) gk f' r
  rw [pumpCore_one _ h.core (slotPut k.latch kind w) (by rw [gk]; exact st) (by rw [gk]) _ tr
    (by simp [retire]; exact st) (by simp [retire]; exact ff.2.2.1)]
  rw [coreFinish_running _ _ (by simp [retire]; exact ff.1) (by simp [retire]; exact ff.2.1)]
  simp [retire]

/-- A slot that is not the bundle's last is kept for it. -/
theorem giveSlot_more (s : State) (h : Hdr) (kind : SlotKind) (w : Nat) (l : h.last = false)
    (r : (coreGet s h.core).st = .running) (e : (coreGet s h.core).ended = false) :
    giveSlot s h kind w = coreSet s h.core { coreGet s h.core with latch := slotPut (coreGet s h.core).latch kind w } := by
  simp [giveSlot, l, latchSlot, r, e]

end Sys2Proof.Machine
end

