-- ==== Sys2Proof/Laws/Run.lean ====
section
/-! SUPPORT. What running a command's effect does: nothing on a frozen complex, the effect itself where it detects no error, and never a change of the command queue. -/

namespace Sys2Proof.Machine

/-- A step that has detected no error is unchanged by the reactions. -/
theorem settle_calm (s : State) (h : s.errs = []) : settle s = s := by simp [settle, h]

/-- On a complex that serves, an effect that detects no error is the whole of what a command does. -/
theorem runLive_calm (s : State) (f : State → State) (h : frozen s = false) (e : (f s).errs = []) (p : (f s).pending = s.pending) :
    runLive s f = .next (f s) := by
  have : { f s with pending := s.pending } = f s := by rw [← p]
  simp [runLive, h, settle_calm _ e, this]

/-- A frozen complex does nothing (R423). -/
theorem runLive_frozen (s : State) (f : State → State) (h : frozen s = true) : runLive s f = .next s := by simp [runLive, h]

/-- A command's effect never touches the queue of waiting commands. -/
theorem runLive_pending (s t : State) (f : State → State) (h : runLive s f = .next t) : t.pending = s.pending := by
  simp only [runLive, Host.Outcome.next.injEq] at h
  subst h; split <;> rfl

theorem withUnit_in {n i : Nat} (r : Host.Outcome State Fault Refusal) (h : i < n) : withUnit n i r = r := by simp [withUnit, h]

theorem withUnit_out {n i : Nat} (r : Host.Outcome State Fault Refusal) (h : n ≤ i) : withUnit n i r = .fault .noSuchUnit := by
  simp [withUnit, Nat.not_lt.mpr h]

theorem withUnit_next {n i : Nat} {r : Host.Outcome State Fault Refusal} {t : State} (h : withUnit n i r = .next t) : i < n ∧ r = .next t := by
  unfold withUnit at h; split at h
  · exact ⟨‹_›, h⟩
  · cases h

end Sys2Proof.Machine
end

