-- ==== Sys2Proof/Laws/Effects.lean ====
section
/-! SUPPORT. What shared operations do where nothing stands in their way: a free core goes on, a port sends at once, and a command that detects no error answers the state its operation gives. -/

namespace Sys2Proof.Machine

/-- A free core with no bundle does nothing. -/
theorem pumpCore_free (s : State) (c : Nat) (k : Core) (hk : coreGet s c = k) (h : coreFree k = true) : pumpCore s c = s := by
  subst hk
  have ff := (coreFree_iff _).1 h
  rw [pumpCore_idle s c (coreFree_still h) ff.2.2.1, coreFinish_running s c ff.1 ff.2.1]

theorem pumpCore_coreSet (s : State) (c : Nat) (k : Core) (h : coreFree k = true) : pumpCore (coreSet s c k) c = coreSet s c k :=
  pumpCore_free _ c k (coreGet_coreSet_same _ _ _) h

/-- With no landing in progress, none goes on. -/
@[simp] theorem landGo_none (s : State) (h : s.ride.lands = []) : landGo s = s := by simp [landGo, h]

/-- A command on a unit, on a complex that serves, whose operation leaves the errors and the queue alone. -/
theorem withUnit_calm (n i : Nat) (s t : State) (f : State → State) (hi : i < n) (v : Live s) (e : f s = t) (a : t.errs = s.errs)
    (b : t.pending = s.pending) : withUnit n i (runLive s f) = .next t := by
  rw [withUnit_in _ hi, runLive_calm s f v.1 (by rw [e, a]; exact v.2) (by rw [e, b]), e]

/-- A command on a complex that serves, whose operation leaves the errors and the queue alone. -/
theorem runLive_next (s t : State) (f : State → State) (v : Live s) (e : f s = t) (a : t.errs = s.errs) (b : t.pending = s.pending) :
    runLive s f = .next t := by
  rw [runLive_calm s f v.1 (by rw [e, a]; exact v.2) (by rw [e, b]), e]

/-- A port with one cell waiting that may leave sends it. -/
theorem portPump_one (s : State) (i : Nat) (p : Port) (c : RCell) (hp : portGet s i = p) (hq : p.waitq = [c]) (st : p.st = 2)
    (cr : p.cred.getD (cellClass c.ty) 0 ≠ 0) (rp : p.replay.length < 256) :
    portPump s i = emitCell (portSet s i { p with
      tx := (p.tx + 1) % 65536, waitq := [], replay := p.replay ++ [{ c with lseq := (p.tx + 1) % 65536 }]
      cred := p.cred.set (cellClass c.ty) (p.cred.getD (cellClass c.ty) 0 - 1) }) i c.ty ((p.tx + 1) % 65536) c.data := by
  have fi : (p.waitq.find? (fun x => cellClass x.ty == cellClass c.ty) == some c) = true := by rw [hq]; simp
  unfold portPump
  rw [hp, hq]
  simp only [List.foldl_cons, List.foldl_nil, hp, st, fi, cr, rp, ne_eq, not_false_eq_true, and_self, if_true]
  rw [hq]; simp only [List.erase_cons_head]

/-- A port with nothing waiting sends nothing more. -/
theorem portPump_none (s : State) (i : Nat) (h : (portGet s i).waitq = []) : portPump s i = s := by simp [portPump, h]

/-- A cell handed to a port that is ready is on the lanes. -/
theorem portSend_ready (s : State) (i ty : Nat) (data : List Byte) (mask : Nat) (h : portReady (portGet s i) ty) :
    portSend s i ty data mask = sendsCell s i ty data mask := by
  obtain ⟨a, b, d, e⟩ := h
  obtain ⟨p, hp⟩ : ∃ p, portGet s i = p := ⟨_, rfl⟩
  rw [hp] at a b d e
  have pp := portPump_one (portSet s i { p with waitq := p.waitq ++ [⟨ty, 0, data, mask, 0, false, false⟩] }) i _ ⟨ty, 0, data, mask, 0, false, false⟩
    (portGet_portSet_same _ _ _) (by rw [b]; rfl) a d e
  simp only [portSend, portQueue]
  rw [hp, pp]
  simp only [emitCell, portGet_portSet_same, portSet_portSet, sendsCell, sentPort, sentCell, hp]
  rfl

/-- A cell sent over a mask of which one port is UP. -/
theorem maskSend_one (s : State) (m i n ty : Nat) (data : List Byte) (h : maskUp s m = [i]) (r : portReady (portGet s i) ty) :
    maskSend s m n ty data = sendsCell s i ty data m := by
  simp only [maskSend, h, List.isEmpty_cons, Bool.false_eq_true, if_false, List.length_singleton, Nat.mod_one, List.getElem?_cons_zero]
  exact portSend_ready s i ty data m r

/-- A fill, and a copy to plates or a port, reads no byte that it writes (R202). -/
theorem overlapRead_apart (s : State) (st : Stream) (x : MvTxn) (l : List Byte) (h : dsOp st.desc ≠ 0 ∨ 1 < dsDst st.desc) :
    overlapRead s st x l = (l, s) := by
  have w : ∀ a, streamWrites s st a = false := fun a => by
    rcases h with h | h
    · simp [streamWrites, h]
    · simp [streamWrites, Nat.not_le.mpr h]
  simp [overlapRead, w]

end Sys2Proof.Machine
end

