-- ==== Sys2Proof/Laws/Registers.lean ====
section
/-! SUPPORT. Register fields: a field written reads back, and the register's other fields and the other registers keep their values. -/

namespace Sys2Proof.Machine

/-- A number split at a field. -/
theorem putBits_split (x hi lo v : Nat) : ∃ a r, r < 2 ^ lo ∧ x = 2 ^ lo * (2 ^ (hi + 1 - lo) * a + bitsOf x hi lo) + r ∧
    putBits x hi lo v = 2 ^ lo * (2 ^ (hi + 1 - lo) * a + v % 2 ^ (hi + 1 - lo)) + r := by
  refine ⟨x / 2 ^ lo / 2 ^ (hi + 1 - lo), x % 2 ^ lo, Nat.mod_lt _ (Nat.two_pow_pos _), ?_, ?_⟩
  · unfold bitsOf
    rw [Nat.shiftRight_eq_div_pow, Nat.div_add_mod, Nat.div_add_mod]
  · unfold putBits
    dsimp only
    have e : x = 2 ^ lo * (2 ^ (hi + 1 - lo) * (x / 2 ^ lo / 2 ^ (hi + 1 - lo)) + bitsOf x hi lo) + x % 2 ^ lo := by
      unfold bitsOf
      rw [Nat.shiftRight_eq_div_pow, Nat.div_add_mod, Nat.div_add_mod]
    generalize x / 2 ^ lo / 2 ^ (hi + 1 - lo) = a at *
    generalize x % 2 ^ lo = r at *
    generalize bitsOf x hi lo = f at *
    generalize 2 ^ lo = p at *
    generalize 2 ^ (hi + 1 - lo) = w at *
    generalize v % w = u
    rw [e, Nat.mul_add, Nat.mul_add, Nat.mul_comm f p, Nat.mul_comm u p]
    generalize p * (w * a) = z
    omega

/-- A field that was written reads as what was written. -/
theorem bitsOf_putBits_same (x hi lo v : Nat) : bitsOf (putBits x hi lo v) hi lo = v % 2 ^ (hi + 1 - lo) := by
  obtain ⟨a, r, hr, -, e⟩ := putBits_split x hi lo v
  rw [e]; unfold bitsOf
  rw [Nat.shiftRight_eq_div_pow, Nat.mul_add_div (Nat.two_pow_pos _), Nat.div_eq_of_lt hr, Nat.add_zero, Nat.mul_add_mod, Nat.mod_mod]

/-- The bits outside a field that was written are kept. -/
theorem bitsOf_putBits_ne (x hi lo v a b : Nat) (h : lo ≤ hi) (d : hi < b ∨ a < lo) : bitsOf (putBits x hi lo v) a b = bitsOf x a b := by
  obtain ⟨q, r, hr, ex, e⟩ := putBits_split x hi lo v
  rw [e]
  conv => rhs; rw [ex]
  have fl2 : bitsOf x hi lo < 2 ^ (hi + 1 - lo) := Nat.mod_lt _ (Nat.two_pow_pos _)
  generalize bitsOf x hi lo = f at *
  have fl : v % 2 ^ (hi + 1 - lo) < 2 ^ (hi + 1 - lo) := Nat.mod_lt _ (Nat.two_pow_pos _)
  have k : ∀ u, bitsOf (2 ^ lo * (2 ^ (hi + 1 - lo) * q + u) + r) a b = if a < lo then bitsOf r a b else
      ((2 ^ lo * (2 ^ (hi + 1 - lo) * q + u) + r) / 2 ^ (hi + 1)) / 2 ^ (b - (hi + 1)) % 2 ^ (a + 1 - b) := by
    intro u
    split
    · rename_i c
      unfold bitsOf
      rw [Nat.shiftRight_eq_div_pow, Nat.shiftRight_eq_div_pow]
      by_cases g : b ≤ a
      · have p2 : 2 ^ lo = 2 ^ b * (2 ^ (a + 1 - b) * 2 ^ (lo - (a + 1))) := by
          rw [← Nat.pow_add, ← Nat.pow_add]; congr 1; omega
        rw [p2, Nat.mul_assoc, Nat.mul_add_div (Nat.two_pow_pos _), Nat.mul_assoc, Nat.mul_add_mod]
      · rw [show a + 1 - b = 0 by omega, Nat.pow_zero, Nat.mod_one, Nat.mod_one]
    · rename_i c
      unfold bitsOf
      rw [Nat.shiftRight_eq_div_pow, Nat.div_div_eq_div_mul, ← Nat.pow_add, show hi + 1 + (b - (hi + 1)) = b by omega]
  have m : ∀ u, u < 2 ^ (hi + 1 - lo) → (2 ^ lo * (2 ^ (hi + 1 - lo) * q + u) + r) / 2 ^ (hi + 1) = q := by
    intro u hu
    have p2 : 2 ^ (hi + 1) = 2 ^ lo * 2 ^ (hi + 1 - lo) := by rw [← Nat.pow_add]; congr 1; omega
    rw [p2, ← Nat.div_div_eq_div_mul, Nat.mul_add_div (Nat.two_pow_pos _), Nat.div_eq_of_lt hr, Nat.add_zero, Nat.mul_add_div (Nat.two_pow_pos _),
      Nat.div_eq_of_lt hu, Nat.add_zero]
  rw [k, k]
  split
  · rfl
  · rw [m _ fl, m _ fl2]

/-- A stored register keeps 64 bits. -/
theorem bitsOf_mod64 (x hi lo : Nat) (h : hi < 64) : bitsOf (x % 2 ^ 64) hi lo = bitsOf x hi lo := by
  unfold bitsOf
  rw [Nat.shiftRight_eq_div_pow, Nat.shiftRight_eq_div_pow]
  by_cases g : lo ≤ hi
  · have p : 2 ^ 64 = 2 ^ lo * (2 ^ (hi + 1 - lo) * 2 ^ (63 - hi)) := by
      rw [← Nat.pow_add, ← Nat.pow_add]; congr 1; omega
    rw [p, Nat.mod_mul_right_div_self, Nat.mod_mul_right_mod]
  · rw [show hi + 1 - lo = 0 by omega, Nat.pow_zero, Nat.mod_one, Nat.mod_one]

/-- A register's field that was written reads as what was written. -/
theorem regField_regSet_same (s : State) (o hi lo v : Nat) (h : hi < 64) : regField (regSet s o hi lo v) o hi lo = v % 2 ^ (hi + 1 - lo) := by
  unfold regField regSet
  rw [regGet_regPut_same, bitsOf_mod64 _ _ _ h, bitsOf_putBits_same]

/-- A register's other fields are kept. -/
theorem regField_regSet_bits (s : State) (o hi lo v a b : Nat) (h : lo ≤ hi) (g : a < 64) (d : hi < b ∨ a < lo) :
    regField (regSet s o hi lo v) o a b = regField s o a b := by
  unfold regField regSet
  rw [regGet_regPut_same, bitsOf_mod64 _ _ _ g, bitsOf_putBits_ne _ _ _ _ _ _ h d]

end Sys2Proof.Machine
end

