-- ==== Sys2Proof/Laws/Errors.lean ====
section
/-! SUPPORT. An error whose reaction is LOG. -/

namespace Sys2Proof.Machine

theorem satAdd_lt (w x n : Nat) : satAdd w x n < 2 ^ w := by
  have := Nat.two_pow_pos w
  unfold satAdd; omega

/-- Writing registers changes the registers only. -/
def regsOnly (s t : State) : Prop := t = { s with regs := t.regs }

theorem regsOnly.regPut {s t : State} (h : regsOnly s t) (o v : Nat) : regsOnly s (regPut t o v) := by
  unfold regsOnly at h; rw [h]; exact rfl

theorem regsOnly.regSet {s t : State} (h : regsOnly s t) (o hi lo v : Nat) : regsOnly s (regSet t o hi lo v) := h.regPut _ _

theorem regsOnly.regCount {s t : State} (h : regsOnly s t) (o hi lo n : Nat) : regsOnly s (regCount t o hi lo n) := h.regPut _ _

theorem errs_regSet (s : State) (e : List ErrNote) (o hi lo v : Nat) : { regSet s o hi lo v with errs := e } = regSet { s with errs := e } o hi lo v := rfl

/-- The handling of an error that is only logged. -/
theorem handleErr_logs (s : State) (rec src synd addr : Nat) (h : logsOnly s rec src) (fr : frozen s = false) :
    logged s (handleErr s ⟨rec, src, synd, addr, false⟩) rec src synd addr ∧ (handleErr s ⟨rec, src, synd, addr, false⟩).errs = s.errs := by
  obtain ⟨hc, hs, h0, h1, h2⟩ := h
  obtain ⟨k, hk⟩ := Option.ne_none_iff_exists'.1 hc
  obtain ⟨o, ho⟩ : ∃ o, o = frOff rec := ⟨_, rfl⟩
  have ob : 0x100000 ≤ o := by rw [ho]; unfold frOff; omega
  have ac : ∀ b, reactActs b k 0 = 0 := fun b => rfl
  obtain ⟨x1, e1⟩ : ∃ x, x = regSet (regSet (regSet s o 23 19 src) o 18 16 0) o 4 4 1 := ⟨_, rfl⟩
  obtain ⟨x2, e2⟩ : ∃ x, x = regPut (regPut x1 (o + 8) synd) (o + 16) addr := ⟨_, rfl⟩
  obtain ⟨x3, e3⟩ : ∃ x, x = (if srcIsC k src then regCount x2 (o + 0x18) 31 0 1 else regCount x2 (o + 0x18) 63 32 1) := ⟨_, rfl⟩
  have s0 : regField x3 o 2 0 = 0 := by
    have a : regField x3 o 2 0 = regField x2 o 2 0 := by
      rw [e3]; split <;> exact regField_regSet_ne _ _ _ _ _ _ (by omega)
    have b : regField x2 o 2 0 = regField x1 o 2 0 := by
      rw [e2, regField_regPut_ne _ _ _ _ (by omega), regField_regPut_ne _ _ _ _ (by omega)]
    rw [a, b, e1, regField_regSet_bits _ _ _ _ _ _ _ (by omega) (by omega) (by omega), regField_regSet_bits _ _ _ _ _ _ _ (by omega) (by omega) (by omega),
      regField_regSet_bits _ _ _ _ _ _ _ (by omega) (by omega) (by omega)]
    unfold frState at h0; rw [ho]; exact h0
  obtain ⟨x4, e4⟩ : ∃ x, x = episodePut x3 rec 0 := ⟨_, rfl⟩
  have s4 : frState x4 rec = 0 := by rw [e4]; unfold frState; rw [← ho]; exact s0
  have e : handleErr s ⟨rec, src, synd, addr, false⟩ = regSet x4 o 2 0 1 := by
    unfold handleErr
    rw [hk]; dsimp only
    rw [fr, ← ho]
    rw [← ho] at h2
    have la : frLatch s ⟨rec, src, synd, addr, false⟩ 0 = x2 := by
      unfold frLatch; dsimp only; rw [← ho]; rw [← ho] at h1
      rw [h1, e2, e1]; rfl
    have ct : frCount x2 k ⟨rec, src, synd, addr, false⟩ = x3 := by
      unfold frCount; dsimp only; rw [← ho, e3]
    have s3 : frState x3 rec = 0 := by unfold frState; rw [← ho]; exact s0
    rw [h2, la, ct, ac, s3, if_pos rfl]
    simp only [Nat.zero_and, Nat.sub_zero, Nat.or_zero]
    rw [← e4, s4]
    simp [act]
  rw [e]
  have R : ∀ a b c, regField (regSet x4 o 2 0 1) a b c = regField (regSet x3 o 2 0 1) a b c := by intro a b c; rw [e4]; rfl
  have RG : ∀ a, regGet (regSet x4 o 2 0 1) a = regGet (regSet x3 o 2 0 1) a := by intro a; rw [e4]; rfl
  have keep : ∀ b c, b < 64 → 2 < c → regField (regSet x3 o 2 0 1) o b c = regField x1 o b c := by
    intro b c hb hc
    rw [regField_regSet_bits _ _ _ _ _ _ _ (by omega) hb (by omega)]
    have a : regField x3 o b c = regField x2 o b c := by
      rw [e3]; split <;> exact regField_regSet_ne _ _ _ _ _ _ (by omega)
    rw [a, e2, regField_regPut_ne _ _ _ _ (by omega), regField_regPut_ne _ _ _ _ (by omega)]
  have X3 : ∀ a, a < o ∨ o + 0x20 ≤ a → regGet x3 a = regGet s a := by
    intro a ha
    have b : regGet x3 a = regGet x2 a := by
      rw [e3]; split <;> exact regGet_regPut_ne _ _ (by omega)
    rw [b, e2, regGet_regPut_ne _ _ (by omega), regGet_regPut_ne _ _ (by omega), e1]
    unfold regSet
    rw [regGet_regPut_ne _ _ (by omega), regGet_regPut_ne _ _ (by omega), regGet_regPut_ne _ _ (by omega)]
  have r1 : regsOnly s x1 := by
    have r0 : regsOnly s s := rfl
    rw [e1]; exact ((r0.regSet _ _ _ _).regSet _ _ _ _).regSet _ _ _ _
  have r3 : regsOnly s x3 := by
    rw [e3, e2]; split
    · exact ((r1.regPut _ _).regPut _ _).regCount _ _ _ _
    · exact ((r1.regPut _ _).regPut _ _).regCount _ _ _ _
  have k5 : regSet x4 o 2 0 1 = { s with regs := (regSet x4 o 2 0 1).regs, flt := x4.flt } := by
    have q : x4 = { s with regs := x4.regs, flt := x4.flt } := by
      rw [e4]; unfold regsOnly at r3; rw [r3]; rfl
    generalize x4 = y at *
    rw [q]; rfl
  have k6 : x4.flt = { s.flt with episode := x4.flt.episode } := by
    have q : x3.flt = s.flt := by unfold regsOnly at r3; rw [r3]
    rw [e4]; simp only [episodePut, q]
  refine ⟨⟨?_, ?_, ?_, ?_, ?_, ?_, ?_, ?_⟩, ?_⟩
  · rw [R, ← ho, regField_regSet_same _ _ _ _ _ (by omega)]; rfl
  · rw [R, ← ho, keep _ _ (by omega) (by omega), e1, regField_regSet_same _ _ _ _ _ (by omega)]; rfl
  · rw [R, ← ho, keep _ _ (by omega) (by omega), e1, regField_regSet_bits _ _ _ _ _ _ _ (by omega) (by omega) (by omega),
      regField_regSet_bits _ _ _ _ _ _ _ (by omega) (by omega) (by omega), regField_regSet_same _ _ _ _ _ (by omega)]
    exact Nat.mod_eq_of_lt (by omega)
  · rw [RG, ← ho]
    unfold regSet; rw [regGet_regPut_ne _ _ (by omega)]
    have b : regGet x3 (o + 8) = regGet x2 (o + 8) := by
      rw [e3]; split <;> exact regGet_regPut_ne _ _ (by omega)
    rw [b, e2, regGet_regPut_ne _ _ (by omega), regGet_regPut_same]
  · rw [RG, ← ho]
    unfold regSet; rw [regGet_regPut_ne _ _ (by omega)]
    have b : regGet x3 (o + 16) = regGet x2 (o + 16) := by
      rw [e3]; split <;> exact regGet_regPut_ne _ _ (by omega)
    rw [b, e2, regGet_regPut_same]
  · intro k' hk'
    have : k' = k := by rw [hk] at hk'; exact (Option.some.inj hk').symm
    subst this
    have q : ∀ b c, regField x2 (o + 0x18) b c = regField s (o + 0x18) b c := by
      intro b c
      rw [e2, regField_regPut_ne _ _ _ _ (by omega), regField_regPut_ne _ _ _ _ (by omega), e1, regField_regSet_ne _ _ _ _ _ _ (by omega),
        regField_regSet_ne _ _ _ _ _ _ (by omega), regField_regSet_ne _ _ _ _ _ _ (by omega)]
    by_cases g : srcIsC k' src = true
    · rw [if_pos g]
      rw [if_pos g] at e3
      rw [R, ← ho, regField_regSet_ne _ _ _ _ _ _ (by omega), e3]
      unfold regCount
      rw [regField_regSet_same _ _ _ _ _ (by omega), q]
      exact Nat.mod_eq_of_lt (satAdd_lt _ _ _)
    · rw [if_neg g]
      rw [if_neg g] at e3
      rw [R, ← ho, regField_regSet_ne _ _ _ _ _ _ (by omega), e3]
      unfold regCount
      rw [regField_regSet_same _ _ _ _ _ (by omega), q]
      exact Nat.mod_eq_of_lt (satAdd_lt _ _ _)
  · intro a ha
    rw [← ho] at ha
    rw [RG]; unfold regSet; rw [regGet_regPut_ne _ _ (by omega)]
    exact X3 a ha
  · rw [k5, k6]
  · rw [k5]

/-- A step that has detected one error whose reaction is LOG. -/
theorem settle_logs (u : State) (rec src synd addr : Nat) (h : logsOnly u rec src) (fr : frozen u = false) (e : u.errs = []) :
    logged u (settle (noteErr u rec src synd addr)) rec src synd addr := by
  have k := handleErr_logs u rec src synd addr h fr
  have n : settle (noteErr u rec src synd addr) = handleErr u ⟨rec, src, synd, addr, false⟩ := by
    have z : (noteErr u rec src synd addr).errs = [⟨rec, src, synd, addr, false⟩] := by simp [noteErr, e]
    have w : { noteErr u rec src synd addr with errs := [] } = u := by cases u; simp only at e; subst e; rfl
    unfold settle
    rw [z]
    simp only [List.isEmpty_cons, Bool.false_eq_true, if_false]
    have r1 : settleLoop 4096 (noteErr u rec src synd addr) = settleLoop 4095 (handleErr u ⟨rec, src, synd, addr, false⟩) := by
      show (match nextErr (noteErr u rec src synd addr).errs with | none => _ | some e => _) = _
      rw [z]
      simp only [nextErr, List.foldl_nil, List.erase_cons_head]
      rw [w]
    rw [r1]
    have r2 : (handleErr u ⟨rec, src, synd, addr, false⟩).errs = [] := k.2.trans e
    have r3 : ∀ n (x : State), x.errs = [] → settleLoop (n + 1) x = x := by
      intro n x hx
      show (match nextErr x.errs with | none => _ | some e => _) = _
      rw [hx]; rfl
    exact r3 4094 _ r2
  rw [n]; exact k.1

/-- A command whose one detected error is only logged. -/
theorem runLive_logs (s u : State) (f : State → State) (rec src synd addr : Nat) (v : frozen s = false) (e : f s = noteErr u rec src synd addr)
    (h : logsOnly u rec src) (fr : frozen u = false) (a : u.errs = []) (b : u.pending = s.pending) :
    ∃ t, runLive s f = .next t ∧ logged u t rec src synd addr := by
  have k := settle_logs u rec src synd addr h fr a
  refine ⟨settle (noteErr u rec src synd addr), ?_, k⟩
  have p : (settle (noteErr u rec src synd addr)).pending = s.pending := by
    have := congrArg State.pending k.2.2.2.2.2.2.2
    rw [← b]; exact this
  unfold runLive
  rw [v, e]
  generalize settle (noteErr u rec src synd addr) = x at p
  rw [← p]; rfl

end Sys2Proof.Machine
end

