-- ==== Sys2Proof/Laws/Slots.lean ====
section
/-! SUPPORT. A slot given as a bundle of its own to a free core: what the bundle's effect comes to, for each kind of slot. -/

namespace Sys2Proof.Machine

/-- A field below the opcode reads the command's bits. -/
theorem bitsOf_slotWord (n op hi lo : Nat) (f : BitVec n) (h : hi < n) (g : lo ≤ hi) :
    bitsOf (slotWord n op f) hi lo = bitsOf f.toNat hi lo := by
  unfold bitsOf slotWord
  rw [Nat.shiftRight_eq_div_pow, Nat.shiftRight_eq_div_pow]
  have e : (2 : Nat) ^ n = 2 ^ lo * 2 ^ (n - lo) := by rw [← Nat.pow_add]; congr 1; omega
  have e2 : (2 : Nat) ^ (n - lo) = 2 ^ (hi + 1 - lo) * 2 ^ (n - lo - (hi + 1 - lo)) := by rw [← Nat.pow_add]; congr 1; omega
  have pos : 0 < (2 : Nat) ^ lo := Nat.pos_of_ne_zero (by simp)
  rw [e, show op * (2 ^ lo * 2 ^ (n - lo)) + f.toNat = f.toNat + 2 ^ lo * (op * 2 ^ (n - lo)) by ring, Nat.add_mul_div_left _ _ pos, e2,
    show op * (2 ^ (hi + 1 - lo) * 2 ^ (n - lo - (hi + 1 - lo))) = 2 ^ (hi + 1 - lo) * (op * 2 ^ (n - lo - (hi + 1 - lo))) by ring,
    Nat.add_mul_mod_self_left]

theorem bitOf_slotWord (n op i : Nat) (f : BitVec n) (h : i < n) : bitOf (slotWord n op f) i = bitOf f.toNat i := by
  unfold bitOf slotWord
  rw [Nat.mul_comm, Nat.testBit_two_pow_mul_add _ f.isLt, if_pos h]

theorem scOp_slotWord (op : Nat) (f : BitVec 26) (h : op < 64) : scOp (slotWord 26 op f) = op := by
  unfold scOp bitsOf slotWord
  have := f.isLt
  rw [Nat.shiftRight_eq_div_pow]; omega

theorem vOp_slotWord (op : Nat) (f : BitVec 42) (h : op < 64) : vOp (slotWord 42 op f) = op := by
  unfold vOp bitsOf slotWord
  have := f.isLt
  rw [Nat.shiftRight_eq_div_pow]; omega

@[simp] theorem guardOk_zero (a : Arch) : guardOk a 0 = true := by simp [guardOk, pget, bitOf]

@[simp] theorem scAct_sc (a : Arch) (w : Nat) : scAct a (slotPut slots0 .sc w) = if guardOk a (scG w) then w else 0 := rfl
@[simp] theorem vAct_sc (a : Arch) (w : Nat) : vAct a (slotPut slots0 .sc w) = 0 := ite_self 0
@[simp] theorem tAct_sc (a : Arch) (w : Nat) : tAct a (slotPut slots0 .sc w) = 0 := ite_self 0
@[simp] theorem scAct_vec (a : Arch) (w : Nat) : scAct a (slotPut slots0 .vec w) = 0 := ite_self 0
@[simp] theorem vAct_vec (a : Arch) (w : Nat) : vAct a (slotPut slots0 .vec w) = if guardOk a (vG w) then w else 0 := rfl
@[simp] theorem tAct_vec (a : Arch) (w : Nat) : tAct a (slotPut slots0 .vec w) = 0 := ite_self 0
@[simp] theorem scAct_ten (a : Arch) (w : Nat) : scAct a (slotPut slots0 .ten w) = 0 := ite_self 0
@[simp] theorem vAct_ten (a : Arch) (w : Nat) : vAct a (slotPut slots0 .ten w) = 0 := ite_self 0
@[simp] theorem tAct_ten (a : Arch) (w : Nat) : tAct a (slotPut slots0 .ten w) = if guardOk a (vG w) then w else 0 := rfl

@[simp] theorem reserveFor_noTensor (p : Arch) (sw vw : Nat) : reserveFor p sw vw 0 = none := by
  simp [reserveFor, drnStream, tEntry, vOp, bitsOf]

@[simp] theorem reserveFor_tensorAlone (p : Arch) (tw : Nat) : reserveFor p 0 0 tw = none := by
  unfold reserveFor; cases drnStream (tEntry p 0 tw 0 none) <;> simp [bundleStreams, vDraws, vOp, scOp, bitsOf]

@[simp] theorem drawsFirst_noTensor (p : Arch) (vw : Nat) : drawsFirst p vw 0 = 0 := by
  simp [drawsFirst, drnStream, tEntry, vOp, bitsOf]

/-- A bundle of a scalar slot alone. -/
theorem bundleEffect_sc (pc : Nat) (p : Arch) (w : Nat) : bundleEffect pc p w 0 0 = scLate p w (scEffect pc p w p) := by
  simp [bundleEffect, vEffect, vOp, bitsOf]

/-- A bundle of a vector slot alone: its draws start at the stream's counter. -/
theorem bundleEffect_vec (pc : Nat) (p : Arch) (w : Nat) :
    bundleEffect pc p 0 w 0 = vEffect ((match vDraws w with | some d => (stipGet p d.1).ctr | none => 0) % 2 ^ 128) p w p := by
  cases h : vDraws w <;> simp [bundleEffect, scEffect, scLate, scOp, vOp, bitsOf, effNop, h]

/-- A bundle whose slots all do nothing. -/
theorem bundleEffect_nop (pc : Nat) (p : Arch) : bundleEffect pc p 0 0 0 = p := by
  rw [bundleEffect_sc]; simp [scEffect, scLate, scOp, bitsOf, effNop]

@[simp] theorem scTarget_zero (p : Arch) : scTarget p 0 = none := by simp [scTarget, scOp, bitsOf]

/-- What `loneReady` says. -/
theorem loneReady_iff (s : State) (c : Nat) (kind : SlotKind) (w : Nat) : loneReady s c kind w = true ↔
    c < 2400 ∧ coreFree (coreGet s c) = true ∧ (coreGet s c).latch = slots0 ∧ bundleReady (coreGet s c) (slotPut slots0 kind w) = true := by
  simp [loneReady, and_assoc]

/-- A slot given as a bundle of its own, its effect on registers and plate only. -/
theorem giveSlot_lone (s : State) (h : Hdr) (kind : SlotKind) (w : Nat) (l : h.last = true) (r : loneReady s h.core kind w = true) :
    giveSlot s h kind w = coreSet s h.core (retire (coreGet s h.core)
      (bundleEffect (coreGet s h.core).pc (coreGet s h.core).a (scAct (coreGet s h.core).a (slotPut slots0 kind w))
        (vAct (coreGet s h.core).a (slotPut slots0 kind w)) (tAct (coreGet s h.core).a (slotPut slots0 kind w)))
      ((scTarget (coreGet s h.core).a (scAct (coreGet s h.core).a (slotPut slots0 kind w))).getD ((coreGet s h.core).pc + 1))) := by
  rw [loneReady_iff] at r
  obtain ⟨_, r2, r3, r4⟩ := r
  have e := giveSlot_last s h kind w l _ rfl r2 (by rw [r3]; exact r4)
  rw [r3] at e
  rw [e]; congr 1
  unfold retire
  generalize coreGet s h.core = k at r3 ⊢
  cases k; simp_all

/-- On a complex that serves, a slot is given whole. -/
theorem runLive_giveSlot (s : State) (h : Hdr) (kind : SlotKind) (w : Nat) (v : Live s) (t : State)
    (g : giveSlot s h kind w = t) (e : t.errs = s.errs) (p : t.pending = s.pending) :
    runLive s (fun s => giveSlot s h kind w) = .next t := by
  subst g; exact runLive_calm s _ v.1 (by rw [e, v.2]) p

theorem bitsOf_fld (n op hi lo : Nat) (f : BitVec n) (h : hi < n) (g : lo ≤ hi) : bitsOf (slotWord n op f) hi lo = fld f hi lo :=
  bitsOf_slotWord n op hi lo f h g

theorem fld_lt {n : Nat} (f : BitVec n) (hi lo : Nat) : fld f hi lo < 2 ^ (hi + 1 - lo) := Nat.mod_lt _ (by positivity)

/-- A field whose upper part is zero is its lower part. -/
theorem fld_low {n : Nat} (f : BitVec n) (hi mid lo : Nat) (h : fld f hi mid = 0) (a : lo < mid) (b : mid ≤ hi + 1) :
    fld f hi lo = fld f (mid - 1) lo := by
  unfold fld bitsOf at *
  rw [Nat.shiftRight_eq_div_pow] at *
  have e : f.toNat / 2 ^ mid = f.toNat / 2 ^ lo / 2 ^ (mid - lo) := by
    rw [Nat.div_div_eq_div_mul, ← Nat.pow_add]; congr 2; omega
  rw [e] at h
  rw [show mid - 1 + 1 - lo = mid - lo by omega, show hi + 1 - lo = (mid - lo) + (hi + 1 - mid) by omega, Nat.pow_add, Nat.mod_mul, h]
  simp

/-- A core instruction gives its slot to its core. -/
theorem exec_slot (i : Sys2Proof.Instr) (s : State) (h : Hdr) (kind : SlotKind) (w : Nat) (e : slotOf i = some (h, kind, w)) :
    exec i s = withUnit 2400 h.core (runLive s (fun s => giveSlot s h kind w)) := by
  cases i <;> first
    | (simp only [slotOf, Option.some.injEq, Prod.mk.injEq] at e; obtain ⟨rfl, rfl, rfl⟩ := e; rfl)
    | (simp only [slotOf] at e; exact absurd e (by simp))

/-- A slot given on a complex that serves, whose giving leaves the errors and the queue alone. -/
theorem exec_giveSlot {s : State} {h : Hdr} {kind : SlotKind} {w : Nat} {t : State} (v : Live s) (r : h.core < 2400)
    (e : giveSlot s h kind w = t) (q : t.errs = s.errs) (p : t.pending = s.pending) :
    withUnit 2400 h.core (runLive s (fun s => giveSlot s h kind w)) = .next t := by
  rw [withUnit_in _ r]; exact runLive_giveSlot s h kind w v t e q p

theorem soleSlot_core {s : State} {h : Hdr} {kind : SlotKind} {w g : Nat} (r : soleSlot s h kind w g) : h.core < 2400 :=
  ((loneReady_iff _ _ _ _).1 r.2.2.1).1

theorem soleSlot_ready {s : State} {h : Hdr} {kind : SlotKind} {w g : Nat} (r : soleSlot s h kind w g) :
    bundleReady (coreGet s h.core) (slotPut slots0 kind w) = true := ((loneReady_iff _ _ _ _).1 r.2.2.1).2.2.2

/-- What a scalar slot does that takes effect on its own: its register and plate effect, and the next bundle. -/
theorem exec_soleSc {s : State} {h : Hdr} {op : Nat} {f : BitVec 26} (r : soleSc s h op f) :
    withUnit 2400 h.core (runLive s (fun s => giveSlot s h .sc (slotWord 26 op f))) =
    retired s h (scLate (coreGet s h.core).a (slotWord 26 op f)
        (scEffect (coreGet s h.core).pc (coreGet s h.core).a (slotWord 26 op f) (coreGet s h.core).a))
      ((scTarget (coreGet s h.core).a (slotWord 26 op f)).getD ((coreGet s h.core).pc + 1)) := by
  have r' : soleSlot s h .sc (slotWord 26 op f) (fld f 25 22) := r
  have g : guardOk (coreGet s h.core).a (scG (slotWord 26 op f)) = true := by
    unfold scG; rw [bitsOf_slotWord _ _ _ _ _ (by omega) (by omega)]; exact r'.2.2.2
  have e := giveSlot_lone s h .sc _ r'.2.1 r'.2.2.1
  rw [scAct_sc, if_pos g, vAct_sc, tAct_sc, bundleEffect_sc] at e
  rw [retired]
  exact exec_giveSlot r'.1 (soleSlot_core r') e (coreSet_errs _ _ _) (coreSet_pending _ _ _)

/-- What a vector slot does that takes effect on its own. -/
theorem exec_soleVec {s : State} {h : Hdr} {op : Nat} {f : BitVec 42} (r : soleVec s h op f) :
    withUnit 2400 h.core (runLive s (fun s => giveSlot s h .vec (slotWord 42 op f))) =
    retired s h (vEffect ((match vDraws (slotWord 42 op f) with | some d => (stipGet (coreGet s h.core).a d.1).ctr | none => 0) % 2 ^ 128)
      (coreGet s h.core).a (slotWord 42 op f) (coreGet s h.core).a) ((coreGet s h.core).pc + 1) := by
  have r' : soleSlot s h .vec (slotWord 42 op f) (fld f 41 38) := r
  have g : guardOk (coreGet s h.core).a (vG (slotWord 42 op f)) = true := by
    unfold vG; rw [bitsOf_slotWord _ _ _ _ _ (by omega) (by omega)]; exact r'.2.2.2
  have e := giveSlot_lone s h .vec _ r'.2.1 r'.2.2.1
  rw [scAct_vec, vAct_vec, if_pos g, tAct_vec, bundleEffect_vec, scTarget_zero] at e
  rw [retired]
  exact exec_giveSlot r'.1 (soleSlot_core r') e (coreSet_errs _ _ _) (coreSet_pending _ _ _)

/-- A scalar slot that issues on its own is legal. -/
theorem soleSc_legal {s : State} {h : Hdr} {op : Nat} {f : BitVec 26} (r : soleSc s h op f) : scLegal (slotWord 26 op f) = true := by
  have e := soleSlot_ready r
  simp only [bundleReady, bundleLegal, Bool.and_eq_true] at e
  exact e.1.1.1.1.1.1.1.1

/-- A vector slot that issues on its own is legal. -/
theorem soleVec_legal {s : State} {h : Hdr} {op : Nat} {f : BitVec 42} (r : soleVec s h op f) : vLegal (slotWord 42 op f) = true := by
  have e := soleSlot_ready r
  simp only [bundleReady, bundleLegal, Bool.and_eq_true] at e
  exact e.1.1.1.1.1.1.1.2

end Sys2Proof.Machine
end

