-- ==== Sys2Proof/Laws/Stop.lean ====
section
/-! SUPPORT. How a free core stops: an exception at its next bundle, and END. -/

namespace Sys2Proof.Machine

/-- A free core that raises an exception at the bundle it holds stops issue; nothing outstanding moves. -/
theorem raiseExc_free (s : State) (c x n : Nat) (k : Core) (b : Slots) (hk : coreGet s c = { k with fetched := [b] })
    (h : coreFree k = true) :
    raiseExc s c x n = coreSet s c { k with st := .stopping, fetched := [], latch := slots0, exc := x, excB := n, rep := false } := by
  rw [coreFree_iff] at h
  obtain ⟨h1, h2, h3, h4, h5, h6, h7, h8, h9, h10⟩ := h
  simp only [raiseExc, hk, h1, if_true, stopIssue, haltIssue, sbDrainAll, h5, h6, List.filter_nil, List.map_nil]
  congr 1
  cases k; simp_all

/-- A stopping core with nothing outstanding and an exception is STOPPED. -/
theorem coreFinish_stopping (s : State) (c : Nat) (k : Core) (hk : coreGet s c = k) (h : k.st = .stopping) (e : k.exc ≠ 0)
    (q : k.tq = []) (b : k.sb = []) (l : k.loads = []) (a : k.latch = slots0) (f : k.fetched = []) :
    coreFinish s c = coreSet s c { k with st := .stopped, ended := false, lastNf := k.a.nflags } := by
  simp only [coreFinish, hk, h, q, b, l, e, true_or, List.isEmpty_nil, List.all_nil, and_self, if_true, ne_eq, not_false_eq_true]
  congr 1
  cases k; simp_all

/-- A core that has executed END with nothing outstanding is IDLE (R112, R143). -/
theorem coreFinish_ended (s : State) (c : Nat) (k : Core) (hk : coreGet s c = k) (h : k.st = .running) (e : k.ended = true)
    (q : k.tq = []) (b : k.sb = []) (l : k.loads = []) (a : k.latch = slots0) (f : k.fetched = []) :
    coreFinish s c = coreSet s c { k with st := .idle, ended := false, lastNf := k.a.nflags } := by
  simp only [coreFinish, hk, h, q, b, l, e, or_true, List.isEmpty_nil, List.all_nil, and_self, if_true]
  simp
  congr 1
  cases k; simp_all

/-- The last slot given to a fresh core: the bundle meets `tryIssue`, and what it leaves is finished. -/
theorem giveSlot_fresh (s : State) (h : Hdr) (kind : SlotKind) (w : Nat) (l : h.last = true) (f : freshCore s h.core) (t : State)
    (g : tryIssue (coreSet s h.core { coreGet s h.core with fetched := [slotPut slots0 kind w] }) h.core = t)
    (st : coreStill (coreGet t h.core)) (e : (coreGet t h.core).fetched = []) :
    giveSlot s h kind w = coreFinish t h.core := by
  obtain ⟨_, f2, f3⟩ := f
  have ff := (coreFree_iff _).1 f2
  have hl : latchSlot (coreGet s h.core) kind w true = { coreGet s h.core with fetched := [slotPut slots0 kind w] } := by
    generalize coreGet s h.core = k at *
    obtain ⟨h1, h2, h3, _⟩ := ff
    cases k; simp_all [latchSlot]
  simp only [giveSlot, l, if_true, hl]
  have gk : coreGet (coreSet s h.core { coreGet s h.core with fetched := [slotPut slots0 kind w] }) h.core =
      { coreGet s h.core with fetched := [slotPut slots0 kind w] } := by simp
  exact pumpCore_one _ h.core (slotPut slots0 kind w) (by rw [gk]; exact (show coreStill (coreGet s h.core) from coreFree_still f2)) (by rw [gk]) _ g st e

/-- A slot at which a fresh core raises an exception before any effect. -/
theorem giveSlot_raise (s : State) (h : Hdr) (kind : SlotKind) (w x : Nat) (l : h.last = true) (f : freshCore s h.core) (x0 : x ≠ 0)
    (g : tryIssue (coreSet s h.core { coreGet s h.core with fetched := [slotPut slots0 kind w] }) h.core =
      raiseExc (coreSet s h.core { coreGet s h.core with fetched := [slotPut slots0 kind w] }) h.core x (coreGet s h.core).pc) :
    giveSlot s h kind w = coreSet s h.core { coreGet s h.core with
      st := .stopped, exc := x, excB := (coreGet s h.core).pc, rep := false, lastNf := (coreGet s h.core).a.nflags } := by
  have ff := (coreFree_iff _).1 f.2.1
  have rr := raiseExc_free (coreSet s h.core { coreGet s h.core with fetched := [slotPut slots0 kind w] }) h.core x (coreGet s h.core).pc
    (coreGet s h.core) (slotPut slots0 kind w) (by simp) f.2.1
  rw [rr] at g
  have q := giveSlot_fresh s h kind w l f _ g (by simp [coreStill]; exact ⟨ff.2.2.2.1, ff.2.2.2.2.1, ff.2.2.2.2.2.1, ff.2.2.2.2.2.2.1⟩) (by simp)
  rw [q, coreFinish_stopping _ _ _ (coreGet_coreSet_same _ _ _) rfl x0 (by exact ff.2.2.2.1) (by exact ff.2.2.2.2.2.1) (by exact ff.2.2.2.2.1) rfl rfl]
  simp only [coreSet_coreSet]
  congr 1
  have := f.2.2
  generalize coreGet s h.core = k at *
  cases k; simp_all

/-- A bundle that does not decode (R126, R127, R129). -/
theorem tryIssue_illegal (s : State) (c : Nat) (k : Core) (b : Slots) (hk : coreGet s c = { k with fetched := [b] })
    (h : coreFree k = true) (r : bundleLegal b = false) : tryIssue s c = raiseExc s c xcILLEGAL k.pc := by
  rw [coreFree_iff] at h
  obtain ⟨h1, h2, h3, h4, h5, h6, h7, h8, h9, h10⟩ := h
  simp [tryIssue, hk, h1, h2, barMet, h8, barEnd, r]

end Sys2Proof.Machine
end

