-- ==== Sys2Proof/Laws/Loads.lean ====
section
/-! SUPPORT. What sending a core's loads does: registers, memory and errors stay, and every outstanding load stays what it is. -/

namespace Sys2Proof.Machine

/-- Two views of one load: the same but for what has been sent and has come. -/
def Load.same (x y : Load) : Prop :=
  y.kind = x.kind ∧ y.tag = x.tag ∧ y.rd = x.rd ∧ y.width = x.width ∧ y.sx = x.sx ∧ y.pa = x.pa ∧ y.sel = x.sel ∧ y.bundle = x.bundle ∧
  y.parts.map (fun p => p.line) = x.parts.map (fun p => p.line)

theorem Load.same_refl (x : Load) : Load.same x x := ⟨rfl, rfl, rfl, rfl, rfl, rfl, rfl, rfl, rfl⟩

theorem Load.same_trans {x y z : Load} (h : Load.same x y) (g : Load.same y z) : Load.same x z := by
  simp only [Load.same] at *; simp_all

/-- What of a core sending loads does not touch. -/
def coreStrip (k : Core) : Core := { k with l1 := [], l1lru := [], pf := [], pfn := 0, loads := [], ldn := 0 }

/-- Sending loads at core `c` may have led from `s` to `t`. -/
def LoadsGo (c : Nat) (s t : State) : Prop :=
  coreStrip (coreGet t c) = coreStrip (coreGet s c) ∧ t.tiers = s.tiers ∧ t.regs = s.regs ∧ t.errs = s.errs ∧ t.pending = s.pending ∧
  (∀ x ∈ (coreGet s c).loads, ∃ y ∈ (coreGet t c).loads, Load.same x y) ∧
  (∀ y ∈ (coreGet t c).loads, paTier y.pa = 3 → ∃ x ∈ (coreGet s c).loads, paTier x.pa = 3)

theorem LoadsGo.refl (c : Nat) (s : State) : LoadsGo c s s :=
  ⟨rfl, rfl, rfl, rfl, rfl, fun x h => ⟨x, h, Load.same_refl x⟩, fun y h q => ⟨y, h, q⟩⟩

theorem LoadsGo.trans {c : Nat} {s t u : State} (h : LoadsGo c s t) (g : LoadsGo c t u) : LoadsGo c s u := by
  obtain ⟨h1, h2, h3, h4, h5, h6, h7⟩ := h
  obtain ⟨g1, g2, g3, g4, g5, g6, g7⟩ := g
  refine ⟨g1.trans h1, g2.trans h2, g3.trans h3, g4.trans h4, g5.trans h5, fun x m => ?_, fun y m q => ?_⟩
  · obtain ⟨y, m', e⟩ := h6 x m
    obtain ⟨z, m'', e'⟩ := g6 y m'
    exact ⟨z, m'', Load.same_trans e e'⟩
  · obtain ⟨x, m', e⟩ := g7 y m q
    exact h7 x m' e

/-- A change that leaves the cores, memory, registers, errors and queue. -/
theorem LoadsGo.of_same {c : Nat} {s t : State} (a : t.cores = s.cores) (b : t.tiers = s.tiers) (r : t.regs = s.regs)
    (e : t.errs = s.errs) (p : t.pending = s.pending) : LoadsGo c s t := by
  have : coreGet t c = coreGet s c := by simp [coreGet, a]
  exact ⟨by rw [this], b, r, e, p, fun x h => ⟨x, by rw [this]; exact h, Load.same_refl x⟩, fun y h q => ⟨y, by rw [← this]; exact h, q⟩⟩

/-- A change of one core that leaves its loads and what `coreStrip` shows. -/
theorem LoadsGo.of_core {c : Nat} {s : State} {k : Core} (a : coreStrip k = coreStrip (coreGet s c)) (l : k.loads = (coreGet s c).loads) :
    LoadsGo c s (coreSet s c k) := by
  refine ⟨by simpa using a, rfl, rfl, rfl, rfl, fun x h => ⟨x, by simpa [l] using h, Load.same_refl x⟩, fun y h q => ⟨y, by simpa [l] using h, q⟩⟩

theorem loadPut_go (s : State) (c tag : Nat) (f : Load → Load) (h : ∀ l, Load.same l (f l)) : LoadsGo c s (loadPut s c tag f) := by
  refine ⟨by simp [loadPut, coreMap, coreStrip], rfl, rfl, rfl, rfl, fun x m => ?_, fun y m q => ?_⟩
  · refine ⟨if x.tag = tag then f x else x, ?_, ?_⟩
    · simp only [loadPut, coreMap, coreGet_coreSet_same, List.mem_map]; exact ⟨x, m, rfl⟩
    · split
      · exact h x
      · exact Load.same_refl x
  · simp only [loadPut, coreMap, coreGet_coreSet_same, List.mem_map] at m
    obtain ⟨x, m, rfl⟩ := m
    refine ⟨x, m, ?_⟩
    split at q
    · rw [← (h x).2.2.2.2.2.1]; exact q
    · exact q

theorem send_go (c : Nat) (s : State) (m : Msg) : LoadsGo c s (send s m) := by
  unfold send
  split <;> exact LoadsGo.of_same rfl rfl rfl rfl rfl

theorem sliceRequest_go (s : State) (c g line sel : Nat) (m f st : Bool) : LoadsGo c s (sliceRequest s g line sel m f st) := by
  have r : ∀ k cls, LoadsGo c s (request s g line k cls sel st) := by
    intro k cls; unfold request
    split
    · exact LoadsGo.refl c s
    · exact LoadsGo.trans (LoadsGo.of_same rfl rfl rfl rfl rfl) (send_go c _ _)
  unfold sliceRequest
  split
  · exact r _ _
  · split
    · exact r _ _
    · exact LoadsGo.refl c s
  · exact LoadsGo.refl c s

theorem coreStrip_l1touch (k : Core) (line w : Nat) : coreStrip (l1touch k line w) = coreStrip k ∧ (l1touch k line w).loads = k.loads := ⟨rfl, rfl⟩

theorem coreStrip_l1fill (k : Core) (line : Nat) (d : List Byte) :
    coreStrip (l1fillCore k line d) = coreStrip k ∧ (l1fillCore k line d).loads = k.loads := by
  unfold l1fillCore; exact ⟨rfl, rfl⟩

theorem l2put_go (c : Nat) (s : State) (g line w : Nat) (v : L2Way) : LoadsGo c s (l2put s g line w v) :=
  LoadsGo.of_same rfl rfl rfl rfl rfl

theorem l2touch_go (c : Nat) (s : State) (g line w : Nat) : LoadsGo c s (l2touch s g line w) := LoadsGo.of_same rfl rfl rfl rfl rfl

theorem l1fill_go (s : State) (c line : Nat) (d : List Byte) : LoadsGo c s (l1fill s c line d) := by
  unfold l1fill
  simp only
  split
  · exact LoadsGo.refl c s
  · split
    · exact LoadsGo.refl c s
    · exact LoadsGo.trans (l2put_go c s _ _ _ _) (LoadsGo.of_core (coreStrip_l1fill _ _ _).1 (coreStrip_l1fill _ _ _).2)

theorem partPut_go (s : State) (c tag line : Nat) (f : LoadPart → LoadPart) (h : ∀ p, (f p).line = p.line) : LoadsGo c s (partPut s c tag line f) := by
  apply loadPut_go
  intro x
  refine ⟨rfl, rfl, rfl, rfl, rfl, rfl, rfl, rfl, ?_⟩
  simp only [List.map_map]
  apply List.map_congr_left
  intro p _
  simp only [Function.comp]
  split
  · exact h p
  · rfl

theorem takeLine_go (s : State) (c : Nat) (l : Load) (line : Nat) (d : List Byte × Bool) : LoadsGo c s (takeLine s c l line d) := by
  unfold takeLine
  have g := partPut_go s c l.tag line (fun p => { p with got := some d }) (fun _ => rfl)
  simp only
  split
  · refine LoadsGo.trans g (LoadsGo.trans (LoadsGo.of_same (t := (drawFree (partPut s c l.tag line fun p => { p with got := some d })).2) rfl rfl rfl rfl rfl) ?_)
    exact loadPut_go _ c l.tag _ (fun x => ⟨rfl, rfl, rfl, rfl, rfl, rfl, rfl, rfl, rfl⟩)
  · exact g

/-- Sending one line of a load. -/
theorem sendLine_go (s : State) (c : Nat) (l : Load) (p : LoadPart) : LoadsGo c s (sendLine s c l p) := by
  unfold sendLine
  simp only
  split
  · refine LoadsGo.trans ?_ (takeLine_go _ c l _ _)
    unfold coreMap
    refine LoadsGo.of_core ?_ ?_
    · beta_reduce; split <;> rfl
    · beta_reduce; split <;> rfl
  · split
    · exact LoadsGo.refl c s
    · split
      · refine LoadsGo.trans ?_ (takeLine_go _ c l _ _)
        split
        · refine LoadsGo.trans ?_ (l1fill_go _ c _ _)
          split
          · exact l2touch_go c s _ _ _
          · exact LoadsGo.refl c s
        · split
          · exact l2touch_go c s _ _ _
          · exact LoadsGo.refl c s
      · split
        · exact LoadsGo.refl c s
        · have a := partPut_go s c l.tag p.line (fun p => { p with asked := true }) (fun _ => rfl)
          exact LoadsGo.trans a (sliceRequest_go _ c (groveOf c) p.line l.sel (needsM l) false false)

theorem foldl_go {α : Type} (c : Nat) (f : State → α → State) (h : ∀ s x, LoadsGo c s (f s x)) (l : List α) (s : State) :
    LoadsGo c s (l.foldl f s) := by
  induction l generalizing s with
  | nil => exact LoadsGo.refl c s
  | cons x l ih =>
    have a := h s x
    have b := ih (f s x)
    exact LoadsGo.trans a b

theorem pfTrain_strip (k : Core) (a : Nat) : coreStrip (pfTrain k a).1 = coreStrip k ∧ (pfTrain k a).1.loads = k.loads := by
  unfold pfTrain
  simp only
  split
  · exact ⟨rfl, rfl⟩
  · split
    · exact ⟨rfl, rfl⟩
    · split <;> exact ⟨rfl, rfl⟩

/-- Prefetching adds loads, none of them in device space. -/
theorem prefetch_go (s : State) (c va : Nat) : LoadsGo c s (prefetch s c va) := by
  unfold prefetch
  simp only
  have t := pfTrain_strip (coreGet s c) va
  refine LoadsGo.trans (LoadsGo.of_core (k := (pfTrain (coreGet s c) va).1) t.1 t.2) ?_
  split
  · exact LoadsGo.refl c _
  · refine foldl_go c _ (fun s i => ?_) _ _
    split
    · exact LoadsGo.refl c s
    · split
      · exact LoadsGo.refl c s
      · rename_i lf _
        split
        · exact LoadsGo.refl c s
        · rename_i hd
          refine LoadsGo.trans ?_ (sendLine_go _ c _ _)
          refine ⟨by simp [coreStrip], rfl, rfl, rfl, rfl, fun x m => ⟨x, by simp [m], Load.same_refl x⟩, fun y m q => ?_⟩
          simp only [coreGet_coreSet_same, List.mem_append, List.mem_singleton] at m
          rcases m with m | rfl
          · exact ⟨y, m, q⟩
          · simp only [Bool.or_eq_true, beq_iff_eq] at hd
            exact absurd q (by intro q; simp_all)

/-- Sending a line of a demand load, with the prefetches it trains. -/
theorem sendPart_go (s : State) (c : Nat) (l : Load) (p : LoadPart) : LoadsGo c s (sendPart s c l p) := by
  unfold sendPart
  split
  · exact LoadsGo.refl c s
  · simp only
    split
    · exact LoadsGo.trans (sendLine_go s c l p) (prefetch_go _ c _)
    · exact sendLine_go s c l p

/-- Sending a load to the canopy or the floor. -/
theorem sendLoad_go (s : State) (c : Nat) (l : Load) (h : paTier l.pa ≠ 3) : LoadsGo c s (sendLoad s c l) := by
  unfold sendLoad
  rw [if_neg h]
  exact LoadsGo.trans (loadPut_go s c l.tag (fun l => { l with sent := true }) (fun x => ⟨rfl, rfl, rfl, rfl, rfl, rfl, rfl, rfl, rfl⟩))
    (foldl_go c (fun s (p : LoadPart) => sendPart s c l p) (fun s p => sendPart_go s c l p) _ _)

theorem foldl_go_mem {α : Type} (c : Nat) (f : State → α → State) (l : List α) (h : ∀ s, ∀ x ∈ l, LoadsGo c s (f s x)) (s : State) :
    LoadsGo c s (l.foldl f s) := by
  induction l generalizing s with
  | nil => exact LoadsGo.refl c s
  | cons x l ih =>
    have a := h s x (List.mem_cons_self ..)
    have b := ih (fun s y m => h s y (List.mem_cons_of_mem x m)) (f s x)
    exact LoadsGo.trans a b

/-- Sending every load of a core none of whose loads is in device space. -/
theorem sendLoads_go (s : State) (c : Nat) (h : ∀ l ∈ (coreGet s c).loads, paTier l.pa ≠ 3) : LoadsGo c s (sendLoads s c) := by
  unfold sendLoads
  refine foldl_go_mem c _ _ (fun s x m => ?_) s
  split
  · exact sendLoad_go s c x (h x m)
  · exact LoadsGo.refl c s

/-- Starting a load to the canopy or the floor at a core none of whose loads is in device space: it is outstanding. -/
theorem startLoad_go (s : State) (c : Nat) (kind : LoadKind) (rd width : Nat) (sx : Bool) (va bundle : Nat) (lf : Leaf)
    (h : ∀ l ∈ (coreGet s c).loads, paTier l.pa ≠ 3) (p : paTier (leafPA lf va) ≠ 3) :
    let t := startLoad s c kind rd width sx va bundle lf
    coreStrip (coreGet t c) = coreStrip (coreGet s c) ∧ t.tiers = s.tiers ∧ t.regs = s.regs ∧ t.errs = s.errs ∧ t.pending = s.pending ∧
    (∀ l ∈ (coreGet t c).loads, paTier l.pa ≠ 3) ∧
    ∃ l ∈ (coreGet t c).loads, loadIs l kind (coreGet s c).ldn rd width sx va bundle lf := by
  intro t
  obtain ⟨l, hl, e0⟩ : ∃ l : Load, loadIs l kind (coreGet s c).ldn rd width sx va bundle lf ∧ t = sendLoads
      (coreSet s c { coreGet s c with loads := (coreGet s c).loads ++ [l], ldn := (coreGet s c).ldn + 1 }) c := by
    refine ⟨_, ?_, rfl⟩
    simp [loadIs, accessLines, List.map_map, Function.comp_def]
  let u := coreSet s c { coreGet s c with loads := (coreGet s c).loads ++ [l], ldn := (coreGet s c).ldn + 1 }
  have nd : ∀ x ∈ (coreGet u c).loads, paTier x.pa ≠ 3 := by
    intro x m
    simp only [u, coreGet_coreSet_same, List.mem_append, List.mem_singleton] at m
    rcases m with m | rfl
    · exact h x m
    · rw [hl.2.2.2.2.2.1]; exact p
  have g : LoadsGo c u t := by rw [e0]; exact sendLoads_go u c nd
  obtain ⟨g1, g2, g3, g4, g5, g6, g7⟩ := g
  refine ⟨by rw [g1]; simp [u, coreStrip], g2, g3, g4, g5, fun y m q => ?_, ?_⟩
  · obtain ⟨x, m', q'⟩ := g7 y m q
    exact nd x m' q'
  · obtain ⟨y, m, e⟩ := g6 l (by simp [u])
    obtain ⟨h1, h2, h3, h4, h5, h6, h7, h8, h9⟩ := hl
    obtain ⟨e1, e2, e3, e4, e5, e6, e7, e8, e9⟩ := e
    exact ⟨y, m, e1.trans h1, e2.trans h2, e3.trans h3, e4.trans h4, e5.trans h5, e6.trans h6, e7.trans h7, e8.trans h8, e9.trans h9⟩

end Sys2Proof.Machine
end

