-- ==== Sys2Proof/Laws/MemSlots.lean ====
section
/-! SUPPORT. A memory access of the scalar slot at a fresh core: its checks, and what issue makes of it. -/

namespace Sys2Proof.Machine

/-- An address translated by a leaf to the canopy or the floor is in the canopy or the floor. -/
theorem leafPA_tier {k : Core} {va n : Nat} {w : Bool} {lf : Leaf} (h : accessOk k va n w lf) : paTier (leafPA lf va) ≠ 3 := by
  obtain ⟨_, _, _, _, _, h6, h7⟩ := h
  unfold leafPA
  cases hb : lf.big
  · simp only [Bool.false_eq_true, if_false]
    unfold paTier ePage at *
    generalize bitsOf lf.ent 45 26 = x at *
    omega
  · simp only [if_true]
    have e := h7 hb
    unfold paTier ePage at *
    have : bitsOf lf.ent 45 26 % 64 = 0 := by
      unfold bitsOf at *
      rw [Nat.shiftRight_eq_div_pow] at *
      omega
    generalize bitsOf lf.ent 45 26 = x at *
    omega

/-- The checks pass: the leaf is the core's most recently used. -/
theorem memCheck_ok (s : State) (c va n : Nat) (w : Bool) (lf : Leaf) (h : accessOk (coreGet s c) va n w lf) :
    memCheck s c va n w = (0, some lf, coreSet s c (tbufPut (coreGet s c) lf)) := by
  obtain ⟨h1, h2, h3, h4, h5, h6, _⟩ := h
  have e3 : paTier (ePage lf.ent) ≠ 3 := by omega
  have e1 : paTier (ePage lf.ent) ≠ 1 := by omega
  simp only [memCheck, h1, ne_eq, not_true_eq_false, if_false, coreXlate, Nat.not_le.mpr h2, h3, h4, e1, e3, false_and]
  cases w <;> simp_all

/-- Each condition of R79 holds on a still core for a scalar slot alone. -/
theorem issueReady_sc (k : Core) (sw : Nat) (h : coreStill k) : issueReady k sw 0 0 = true := by
  obtain ⟨a, b, d, e⟩ := h
  simp [issueReady, regsReady, pendS, pendV, a, b, meets, plateReady, sideReady, acqBusy, tQueued, vOp, bitsOf]

/-- There is at least one miss credit (R25). -/
theorem missDepth_pos (s : State) : 0 < missDepth s := by
  simp only [missDepth]; split <;> omega

/-- A still core has its miss credits. -/
theorem creditOk_still (s : State) (c : Nat) (kind : LoadKind) (pa n : Nat) (h : (coreGet s c).loads = []) (g : (coreGet s c).sb = []) :
    creditOk s c kind pa n = true := by
  have m : missUsed (coreGet s c) < missDepth s := by
    have := missDepth_pos s
    simp only [missUsed, h, g, List.map_nil, List.sum_nil, List.filter_nil, List.length_nil]; omega
  simp [creditOk, m]

/-- The facts of a memory slot that passes decode alone. -/
theorem bundleLegal_sc (w : Nat) (h : scLegal w = true) : bundleLegal (slotPut slots0 .sc w) = true := by
  simp [bundleLegal, slotPut, slots0, h, vLegal, tLegal, tFieldsOk, vOp, bitsOf, pairLegal, meets, vSWrites, vWrites]

/-- What `coreFree` says of a core that holds one bundle besides. -/
structure HoldsOne (k : Core) (b : Slots) : Prop where
  st : k.st = .running
  ended : k.ended = false
  fetched : k.fetched = [b]
  tq : k.tq = []
  loads : k.loads = []
  sb : k.sb = []
  hints : k.hints = []
  bar : k.bar = 0
  wtry : k.waitTry = false
  wok : k.waitOk = false

theorem HoldsOne.of_free {k : Core} {b : Slots} (h : coreFree k = true) : HoldsOne { k with fetched := [b] } b := by
  obtain ⟨h1, h2, h3, h4, h5, h6, h7, h8, h9, h10⟩ := (coreFree_iff k).1 h
  exact ⟨h1, h2, rfl, h4, h5, h6, h7, h8, h9, h10⟩

theorem HoldsOne.still {k : Core} {b : Slots} (h : HoldsOne k b) : coreStill k := ⟨h.tq, h.loads, h.sb, h.hints⟩

/-- A load at a fresh core issues: its bundle is done, and the load starts. -/
theorem tryIssue_load (s : State) (c : Nat) (k : Core) (w : Nat) (lf : Leaf) (kind : LoadKind) (hk : coreGet s c = k)
    (h : HoldsOne k (slotPut slots0 .sc w)) (lg : scLegal w = true) (g : guardOk k.a (scG w) = true)
    (o : scOp w = 20 ∧ kind = .plain ∨ scOp w = 21 ∧ kind = .acq ∨ scOp w = 22 ∧ kind = .nc)
    (ok : accessOk k (smAddr k.a w).toNat (smSize (scWidth w)) false lf) (n : k.pc + 1 < k.klen) :
    tryIssue s c = startLoad (coreSet s c { tbufPut k lf with pc := k.pc + 1, fetched := [] }) c kind (scRd w) (scWidth w) (scX w)
      (smAddr k.a w).toNat k.pc lf := by
  have bm : barMet k = true := by simp [barMet, h.bar]
  have rdy : issueReady k w 0 0 = true := issueReady_sc _ _ h.still
  have act : scAct k.a (slotPut slots0 .sc w) = w := by rw [scAct_sc, if_pos g]
  have mc := memCheck_ok s c (smAddr k.a w).toNat (smSize (scWidth w)) false lf (by rw [hk]; exact ok)
  have lr : 20 ≤ scOp w ∧ scOp w ≤ 22 := by omega
  have isl : scIsLoad w = true := by simp [scIsLoad, lr]
  have ism : scIsMem w = true := by simp [scIsMem]; omega
  have iss : scIsStore w = false := by simp [scIsStore]; omega
  have ne : scOp w ≠ 62 ∧ scOp w ≠ 26 ∧ scOp w ≠ 27 ∧ scOp w ≠ 25 ∧ scOp w ≠ 63 ∧ scOp w ≠ 18 ∧ scOp w ≠ 19 := by omega
  have pl : scPlateOk k.a w = true := by simp [scPlateOk, scPlateRead, ne]
  have vp : vPlateOk k.a 0 = true := by simp [vPlateOk, vOp, bitsOf]
  have eff : bundleEffect k.pc k.a w 0 0 = k.a := by
    rw [bundleEffect_sc]
    rcases o with ⟨o, _⟩ | ⟨o, _⟩ | ⟨o, _⟩ <;> simp [scLate, scEffect, o, effNop]
  have tgt : scTarget k.a w = none := by
    rcases o with ⟨o, _⟩ | ⟨o, _⟩ | ⟨o, _⟩ <;> simp [scTarget, o]
  have kd : loadKind (scOp w) = kind := by
    rcases o with ⟨o, q⟩ | ⟨o, q⟩ | ⟨o, q⟩ <;> simp [loadKind, o, q]
  have cr := fun kind pa n => creditOk_still (coreSet s c (tbufPut k lf)) c kind pa n (by simp; exact h.loads) (by simp; exact h.sb)
  have z : (vOp 0 != 0 && vOp 0 != 18) = false := by simp [vOp, bitsOf]
  have e63 : (scOp w == 63) = false := by simp [ne]
  simp only [tryIssue, hk, h.fetched, h.st, h.ended, bm, ne_eq, not_true_eq_false, decide_false, Bool.not_true, Bool.or_self,
    Bool.false_eq_true, if_false, barEnd, h.bar, if_true, act, vAct_sc, tAct_sc, bundleLegal_sc w lg, rdy, ne, pl, vp, ism, iss, mc, false_and, cr, and_false, Bool.true_eq_false]
  simp only [issueBundle, coreGet_coreSet_same, tbufPut, eff, tgt, Option.getD_none, bundleEntry, tQueued, isl, kd, z, e63, h.fetched,
    Bool.false_eq_true, if_false, if_true, List.append_nil, List.length_nil, Nat.add_zero, ne, or_self, List.tail_cons,
    coreSet_coreSet, decide_eq_true n, Bool.or_true, h.st, h.ended, h.tq, h.loads, h.sb, h.hints, h.bar, h.wtry, h.wok]

/-- WAITM at a fresh core holds, and its first read starts (R140). -/
theorem tryIssue_waitm (s : State) (c : Nat) (k : Core) (w : Nat) (lf : Leaf) (hk : coreGet s c = k)
    (h : HoldsOne k (slotPut slots0 .sc w)) (lg : scLegal w = true) (g : guardOk k.a (scG w) = true) (o : scOp w = 27)
    (ok : accessOk k (sget k.a (scRs1 w)).toNat 8 false lf) :
    tryIssue s c = startLoad (coreSet s c { tbufPut k lf with waitTry := true }) c .wait 0 3 false (sget k.a (scRs1 w)).toNat k.pc lf := by
  have bm : barMet k = true := by simp [barMet, h.bar]
  have rdy : issueReady k w 0 0 = true := issueReady_sc _ _ h.still
  have act : scAct k.a (slotPut slots0 .sc w) = w := by rw [scAct_sc, if_pos g]
  have mc := memCheck_ok s c (sget k.a (scRs1 w)).toNat 8 false lf (by rw [hk]; exact ok)
  have pl : scPlateOk k.a w = true := by simp [scPlateOk, scPlateRead, o]
  have vp : vPlateOk k.a 0 = true := by simp [vPlateOk, vOp, bitsOf]
  have cr := fun kind pa n => creditOk_still (coreSet s c (tbufPut k lf)) c kind pa n (by simp; exact h.loads) (by simp; exact h.sb)
  simp [tryIssue, hk, h.fetched, h.st, h.ended, bm, barEnd, h.bar, act, bundleLegal_sc w lg, rdy, o, pl, vp, mc, h.wok, h.wtry, coreMap, cr]

/-- A store at a fresh core issues: its bytes stand in the store buffer. -/
theorem tryIssue_store (s : State) (c : Nat) (k : Core) (w : Nat) (lf : Leaf) (hk : coreGet s c = k)
    (h : HoldsOne k (slotPut slots0 .sc w)) (lg : scLegal w = true) (g : guardOk k.a (scG w) = true) (o : scOp w = 23 ∨ scOp w = 24)
    (room : sbNeed (tbufPut k lf) (leafPA lf (smAddr k.a w).toNat) (storeBytes k.a (scWidth w) (scRd w)) (scOp w == 24) ≤ 16)
    (ok : accessOk k (smAddr k.a w).toNat (smSize (scWidth w)) true lf) (n : k.pc + 1 < k.klen) :
    tryIssue s c = coreSet s c (sbPut { tbufPut k lf with pc := k.pc + 1, fetched := [] } (leafPA lf (smAddr k.a w).toNat) (eSel lf.ent)
      s.xlt.epoch k.pc (storeBytes k.a (scWidth w) (scRd w)) (scOp w == 24)) := by
  have bm : barMet k = true := by simp [barMet, h.bar]
  have rdy : issueReady k w 0 0 = true := issueReady_sc _ _ h.still
  have act : scAct k.a (slotPut slots0 .sc w) = w := by rw [scAct_sc, if_pos g]
  have mc := memCheck_ok s c (smAddr k.a w).toNat (smSize (scWidth w)) true lf (by rw [hk]; exact ok)
  have isl : scIsLoad w = false := by simp [scIsLoad]; omega
  have ism : scIsMem w = true := by simp [scIsMem]; omega
  have iss : scIsStore w = true := by simp [scIsStore]; omega
  have ne : scOp w ≠ 62 ∧ scOp w ≠ 26 ∧ scOp w ≠ 27 ∧ scOp w ≠ 25 ∧ scOp w ≠ 63 ∧ scOp w ≠ 18 ∧ scOp w ≠ 19 := by omega
  have pl : scPlateOk k.a w = true := by simp [scPlateOk, scPlateRead, ne]
  have vp : vPlateOk k.a 0 = true := by simp [vPlateOk, vOp, bitsOf]
  have eff : bundleEffect k.pc k.a w 0 0 = k.a := by
    rw [bundleEffect_sc]
    rcases o with o | o <;> simp [scLate, scEffect, o, effNop]
  have tgt : scTarget k.a w = none := by
    rcases o with o | o <;> simp [scTarget, o]
  have z : (vOp 0 != 0 && vOp 0 != 18) = false := by simp [vOp, bitsOf]
  have e63 : (scOp w == 63) = false := by simp [ne]
  have rm : ¬ (16 < (tbufPut k lf).sb.length + sbNeed (tbufPut k lf) (leafPA lf (smAddr k.a w).toNat)
      (storeBytes k.a (scWidth w) (scRd w)) (scOp w == 24)) := by
    have : (tbufPut k lf).sb = [] := h.sb
    rw [this]; simp only [List.length_nil]; omega
  simp only [tryIssue, hk, h.fetched, h.st, h.ended, bm, ne_eq, not_true_eq_false, decide_false, Bool.not_true, Bool.or_self,
    Bool.false_eq_true, if_false, barEnd, h.bar, if_true, act, vAct_sc, tAct_sc, bundleLegal_sc w lg, rdy, ne, pl, vp, ism, iss, mc,
    coreGet_coreSet_same, rm, and_false, isl, false_and]
  simp only [issueBundle, coreGet_coreSet_same, tbufPut, eff, tgt, Option.getD_none, bundleEntry, tQueued, isl, iss, z, e63, h.fetched,
    Bool.false_eq_true, if_false, if_true, List.append_nil, List.length_nil, Nat.add_zero, ne, or_self, List.tail_cons,
    coreSet_coreSet, decide_eq_true n, Bool.or_true, h.st, h.ended, h.tq, h.loads, h.sb, h.hints, h.bar, h.wtry, h.wok, coreMap, coreSet_xlt]

/-- A round at a core whose bundle has issued: only its loads and its stores can move. -/
theorem pumpStep_issued (t : State) (c : Nat) (q : (coreGet t c).tq = []) (hh : (coreGet t c).hints = [])
    (keep : (coreGet (drainSb (sendLoads t c) c) c).fetched = []) : pumpStep t c = drainSb (sendLoads t c) c := by
  simp only [pumpStep, tStartAll_still t c q, chainTurn_still _ t c q, abandonRecv_still t c q, hh, List.isEmpty_nil, if_true]
  exact tryIssue_none _ c keep

/-- A core that holds one bundle, which issues: its loads and stores go out, and nothing else happens. -/
theorem pumpCore_issued (s : State) (c : Nat) (b : Slots) (h : HoldsOne (coreGet s c) b) (t : State) (ht : tryIssue s c = t)
    (q : (coreGet t c).tq = []) (f : (coreGet t c).fetched = []) (hh : (coreGet t c).hints = []) (u : State)
    (hu : drainSb (sendLoads t c) c = u) (uq : (coreGet u c).tq = []) (uf : (coreGet u c).fetched = [])
    (us : (coreGet u c).st = .running) (ue : (coreGet u c).ended = false) : pumpCore s c = u := by
  have hs : pumpStep s c = t := by rw [pumpStep_still s c h.still, ht]
  have ht2 : pumpStep t c = u := by rw [pumpStep_issued t c q hh (by rw [hu]; exact uf), hu]
  simp only [pumpCore, h.fetched, List.length_singleton, pumpLoop, hs, f, ht2, uf, if_true]
  simp only [List.ne_cons_self, if_false]
  rw [tStartAll_still u c uq, coreFinish_running u c us ue]

/-- A core that holds one bundle, which goes on holding. -/
theorem pumpCore_holds (s : State) (c : Nat) (b : Slots) (h : HoldsOne (coreGet s c) b) (t : State) (ht : tryIssue s c = t)
    (q : (coreGet t c).tq = []) (f : (coreGet t c).fetched = [b]) (us : (coreGet t c).st = .running) (ue : (coreGet t c).ended = false) :
    pumpCore s c = t := by
  have hs : pumpStep s c = t := by rw [pumpStep_still s c h.still, ht]
  simp only [pumpCore, h.fetched, List.length_singleton, pumpLoop, hs, f, if_true]
  rw [tStartAll_still t c q, coreFinish_running t c us ue]

/-- The last slot given to a fresh core: the core holds the bundle and goes on. -/
theorem giveSlot_pump (s : State) (h : Hdr) (kind : SlotKind) (w : Nat) (l : h.last = true) (f : freshCore s h.core) :
    giveSlot s h kind w = pumpCore (coreSet s h.core { coreGet s h.core with fetched := [slotPut slots0 kind w] }) h.core := by
  obtain ⟨_, f2, f3⟩ := f
  have ff := (coreFree_iff _).1 f2
  have hl : latchSlot (coreGet s h.core) kind w true = { coreGet s h.core with fetched := [slotPut slots0 kind w] } := by
    generalize coreGet s h.core = k at *
    obtain ⟨h1, h2, h3, _⟩ := ff
    cases k; simp_all [latchSlot]
  simp only [giveSlot, l, if_true, hl]

/-- Draining stores that are not to a device asks slices for lines: of the core only what its entries have asked for changes,
and other cores, memory, registers, errors and the queue stay. -/
def DrainGo (c : Nat) (s t : State) : Prop :=
  (∃ es : List SbEntry, es.map (fun e => { e with req := false }) = (coreGet s c).sb.map (fun e => { e with req := false }) ∧
    coreGet t c = { coreGet s c with sb := es }) ∧
  (∀ d, d ≠ c → coreGet t d = coreGet s d) ∧ t.tiers = s.tiers ∧ t.regs = s.regs ∧ t.errs = s.errs ∧ t.pending = s.pending

theorem DrainGo.refl (c : Nat) (s : State) : DrainGo c s s := ⟨⟨_, rfl, rfl⟩, fun _ _ => rfl, rfl, rfl, rfl, rfl⟩

theorem DrainGo.trans {c : Nat} {s t u : State} (h : DrainGo c s t) (g : DrainGo c t u) : DrainGo c s u := by
  obtain ⟨⟨es, a, b⟩, h2, h3, h4, h5, h6⟩ := h
  obtain ⟨⟨fs, a', b'⟩, g2, g3, g4, g5, g6⟩ := g
  refine ⟨⟨fs, ?_, ?_⟩, fun d n => (g2 d n).trans (h2 d n), g3.trans h3, g4.trans h4, g5.trans h5, g6.trans h6⟩
  · rw [a', b]; exact a
  · rw [b', b]

theorem DrainGo.of_same {c : Nat} {s t : State} (a : t.cores = s.cores) (b : t.tiers = s.tiers) (r : t.regs = s.regs)
    (e : t.errs = s.errs) (p : t.pending = s.pending) : DrainGo c s t :=
  ⟨⟨(coreGet s c).sb, rfl, by simp [coreGet, a]⟩, fun d _ => by simp [coreGet, a], b, r, e, p⟩

theorem sliceRequest_drain (c : Nat) (s : State) (g line sel : Nat) (m f st : Bool) : DrainGo c s (sliceRequest s g line sel m f st) := by
  have sd : ∀ (s : State) m, DrainGo c s (send s m) := by
    intro s m; unfold send; split <;> exact DrainGo.of_same rfl rfl rfl rfl rfl
  have rq : ∀ k cls, DrainGo c s (request s g line k cls sel st) := by
    intro k cls; unfold request
    split
    · exact DrainGo.refl c s
    · refine DrainGo.trans ?_ (sd _ _)
      exact DrainGo.of_same rfl rfl rfl rfl rfl
  unfold sliceRequest
  split
  · exact rq _ _
  · split
    · exact rq _ _
    · exact DrainGo.refl c s
  · exact DrainGo.refl c s

theorem sbRequest_drain (s : State) (c : Nat) (e : SbEntry) : DrainGo c s (sbRequest s c e) := by
  unfold sbRequest
  simp only
  split
  · exact sliceRequest_drain c s _ _ _ _ _ _
  · split
    · refine DrainGo.trans ⟨⟨_, ?_, coreGet_coreSet_same _ _ _⟩, fun d n => coreGet_coreSet_ne _ _ n, rfl, rfl, rfl, rfl⟩ (sliceRequest_drain c _ _ _ _ _ _ _)
      simp only [List.map_map]
      apply List.map_congr_left
      intro x _
      simp only [Function.comp]
      split <;> rfl
    · exact DrainGo.refl c s

/-- What draining a core's stores does when none is to a device. -/
theorem drainSb_plain (s : State) (c : Nat) (h : ∀ e ∈ (coreGet s c).sb, e.dev = false) : DrainGo c s (drainSb s c) := by
  unfold drainSb
  generalize (coreGet s c).sb = L at h
  induction L generalizing s with
  | nil => exact DrainGo.refl c s
  | cons e L ih =>
    simp only [List.foldl_cons]
    have he := h e (List.mem_cons_self ..)
    have r := fun s => ih s (fun x m => h x (List.mem_cons_of_mem e m))
    split
    · exact r s
    · simp only [he, Bool.false_eq_true, if_false]
      exact DrainGo.trans (sbRequest_drain s c e) (r _)

end Sys2Proof.Machine
end

