-- ==== Sys2Proof/Laws/Memory.lean ====
section
/-! SUPPORT. Memory reads back what was written: bytes of a table, lines, and coherent accesses where nothing is cached. -/

namespace Sys2Proof.Machine

/-- A byte after a run of bytes has been written. -/
theorem tabGet_tabPut (t : Tab Byte) (a : Nat) (l : List Byte) (i : Nat) :
    tabGet (fun _ => 0) (tabPut t a l) i = if a ≤ i ∧ i < a + l.length then byteAt l (i - a) else tabGet (fun _ => 0) t i := by
  induction l generalizing t a with
  | nil => simp [tabPut]
  | cons b l ih =>
    simp only [tabPut, ih, tabGet_tabSet, List.length_cons]
    by_cases h : i = a
    · subst h; simp [byteAt]
    · by_cases g : a + 1 ≤ i ∧ i < a + 1 + l.length
      · rw [if_pos g, if_pos (by omega)]
        obtain ⟨n, rfl⟩ : ∃ n, i = a + 1 + n := ⟨i - (a + 1), by omega⟩
        rw [show a + 1 + n - (a + 1) = n by omega, show a + 1 + n - a = n + 1 by omega]
        simp [byteAt]
      · rw [if_neg g, if_neg h, if_neg (by omega)]

theorem bytesFrom_congr (f g : Nat → Byte) (a n : Nat) (h : ∀ i, a ≤ i → i < a + n → f i = g i) : bytesFrom f a n = bytesFrom g a n := by
  induction n generalizing a with
  | zero => rfl
  | succ n ih =>
    simp only [bytesFrom]
    rw [h a (by omega) (by omega), ih (a + 1) (fun i h1 h2 => h i (by omega) (by omega))]

@[simp] theorem bytesFrom_length (f : Nat → Byte) (a n : Nat) : (bytesFrom f a n).length = n := by
  induction n generalizing a with
  | zero => rfl
  | succ n ih => simp [bytesFrom, ih]

/-- Bytes just written read back. -/
theorem tabBytes_tabPut_same (t : Tab Byte) (a : Nat) (l : List Byte) : tabBytes (tabPut t a l) a l.length = l := by
  unfold tabBytes
  induction l generalizing t a with
  | nil => rfl
  | cons b l ih =>
    simp only [List.length_cons, bytesFrom]
    rw [show tabPut t a (b :: l) = tabPut (tabSet (fun _ => 0) t a b) (a + 1) l from rfl, ih, tabGet_tabPut, if_neg (by omega),
      tabGet_tabSet_same]

/-- A write leaves every other byte alone. -/
theorem tabBytes_tabPut_other (t : Tab Byte) (a b n : Nat) (l : List Byte) (h : b + n ≤ a ∨ a + l.length ≤ b) :
    tabBytes (tabPut t a l) b n = tabBytes t b n := by
  unfold tabBytes
  apply bytesFrom_congr
  intro i h1 h2
  rw [tabGet_tabPut, if_neg (by omega)]

/-- Where nothing is cached there is no owner's copy of a line. -/
theorem ownerData_uncached (s : State) (line : Nat) (h : s.coh = coh0) : ownerData s line = none := by
  simp [ownerData, dirGet, h, coh0, tabGet, dir0]

/-- Where nothing is cached a snoop finds nothing. -/
theorem snoop_uncached (s : State) (g line : Nat) (h : s.coh = coh0) : (snoop s .snpI g line).2.2 = s := by
  have f : firstBelow 16 (fun w => let v := l2get s g line w; v.tag == line / 4096 && v.st != 0) = none := by
    simp [l2get, h, coh0, tabGet, l2way0, firstBelow]
  have e : evFind s g line = none := by simp [evFind, h, coh0]
  simp [snoop, l2find, f, e]

theorem dropAll_uncached (s : State) (line : Nat) (h : s.coh = coh0) : dropAll s line = s := by
  unfold dropAll
  generalize List.range 48 = r
  induction r with
  | nil => rfl
  | cons g r ih => rw [List.foldl_cons, snoop_uncached s g line h, ih]

theorem linkWake_coh (s : State) (n : Nat) : (linkWake s n).coh = s.coh := by unfold linkWake; dsimp only; split <;> rfl

theorem biasSnoop_coh (s : State) (k line : Nat) : (biasSnoop s k line).coh = s.coh := by
  unfold biasSnoop; split
  · exact linkWake_coh s _
  · rfl

theorem writeNote_coh (s : State) (line mask : Nat) : (writeNote s line mask).coh = s.coh := by
  unfold writeNote; split
  · exact linkWake_coh s _
  · exact biasSnoop_coh s _ _

/-- A write by its home where nothing is cached is the write of the memory. -/
theorem cohWriteCore_uncached (s : State) (sel line mask : Nat) (data : List Byte) (poison : Bool) (h : s.coh = coh0) :
    cohWriteCore s sel line mask data poison = memWrite s sel line mask data poison := by
  have d : dirPut s line dir0 = s := by cases s; simp only at h; subst h; simp [dirPut, coh0, tabSet, tabDel, dir0]
  have e : hostStPut s line 0 = s := by cases s; simp only at h; subst h; simp [hostStPut, coh0, tabSet, tabDel]
  simp [cohWriteCore, writeOver, ownerData_uncached s line h, dropAll_uncached s line h, d, e]

/-- A coherent write where nothing is cached: what goes to the host for it, and the write of the memory. -/
theorem cohWrite_uncached (s : State) (sel line mask : Nat) (data : List Byte) (poison : Bool) (h : s.coh = coh0) :
    cohWrite s sel line mask data poison = memWrite (writeNote s line mask) sel line mask data poison :=
  cohWriteCore_uncached _ sel line mask data poison (by rw [writeNote_coh]; exact h)

/-- A coherent read where nothing is cached is the read of the memory. -/
theorem cohReadCur_uncached (s : State) (sel line : Nat) (h : s.coh = coh0) : cohReadCur s sel line = memRead s sel line := by
  simp [cohReadCur, ownerData_uncached s line h]

theorem bytesFrom_append (f : Nat → Byte) (a j k : Nat) : bytesFrom f a j ++ bytesFrom f (a + j) k = bytesFrom f a (j + k) := by
  induction j generalizing a with
  | zero => simp [bytesFrom]
  | succ j ih =>
    rw [show j + 1 + k = j + k + 1 by omega]
    simp only [bytesFrom, List.cons_append]
    rw [← ih, show a + (j + 1) = a + 1 + j by omega]

theorem bytesFrom_slice (f : Nat → Byte) (a n o k : Nat) (h : o + k ≤ n) : ((bytesFrom f a n).drop o).take k = bytesFrom f (a + o) k := by
  obtain ⟨r, rfl⟩ : ∃ r, n = o + (k + r) := ⟨n - (o + k), by omega⟩
  rw [← bytesFrom_append, ← bytesFrom_append, List.drop_left' (by simp), List.take_left' (by simp)]

/-- A canopy line written as plaintext and not poisoned reads as its bytes. -/
theorem memRead_plain (s : State) (line : Nat) (e : s.tiers.enc = []) (p : s.tiers.poison = []) (h : line < 2 ^ 38) :
    memRead s 0 line = (rawLine s line, false) := by
  have t : lineTier line = 0 := Nat.div_eq_of_lt h
  simp [memRead, t, selEmpty, e, p, tabGet, pairOf, rekey]

/-- What a canopy range reads as where nothing is cached, encrypted or poisoned. -/
theorem cohGet_plain (s : State) (c : s.coh = coh0) (e : s.tiers.enc = []) (p : s.tiers.poison = []) (f pa n : Nat)
    (hf : n = 0 ∨ pa % 64 + n ≤ 64 * f) (ha : pa + n ≤ 2 ^ 44) : cohGet s 0 pa f n = (tabBytes s.tiers.bytes pa n, false) := by
  induction f generalizing pa n with
  | zero => obtain rfl : n = 0 := by omega
            rfl
  | succ f ih =>
    unfold cohGet
    split
    · next h => subst h; rfl
    · next h =>
      have hl : pa / 64 < 2 ^ 38 := by omega
      dsimp only
      rw [cohReadCur_uncached s 0 _ c, memRead_plain s _ e p hl, ih _ _ (by rcases Nat.le_total (64 - pa % 64) n with g | g <;> simp only [Nat.min_eq_left, Nat.min_eq_right, g] <;> omega) (by omega)]
      dsimp only
      unfold rawLine tabBytes
      rw [bytesFrom_slice _ _ _ _ _ (by omega), show 64 * (pa / 64) + pa % 64 = pa by omega, bytesFrom_append,
        show min (64 - pa % 64) n + (n - min (64 - pa % 64) n) = n by omega, Bool.or_self]

theorem paRead_plain (s : State) (c : s.coh = coh0) (e : s.tiers.enc = []) (p : s.tiers.poison = []) (pa n : Nat) (ha : pa + n ≤ 2 ^ 44) :
    paRead s 0 pa n = (tabBytes s.tiers.bytes pa n, false) := cohGet_plain s c e p _ _ _ (.inr (by omega)) ha

/-! The operations that write the bytes of the tiers, each of which keeps their canonical form. -/

theorem injTaken_bytes (s : State) (line : Nat) : (injTaken s line).tiers = s.tiers := by
  unfold injTaken
  dsimp only
  generalize 0x100030 + 0x100 * ctlRecord line = o
  split
  · exact regSet_tiers ..
  · rfl

theorem memoryOk_memStore (s : State) (sel line mask : Nat) (data : List Byte) (poison : Bool) (h : memoryOk s = true) :
    memoryOk (memStore s sel line mask data poison) = true := by
  unfold memStore memoryOk
  dsimp only
  exact tabWf_tabPut _ _ _ (by rw [injTaken_bytes]; exact h)

theorem memoryOk_memWrite (s : State) (sel line mask : Nat) (data : List Byte) (poison : Bool) (h : memoryOk s = true) :
    memoryOk (memWrite s sel line mask data poison) = true := by
  unfold memWrite
  split
  · exact h
  · split
    · exact h
    · exact memoryOk_memStore s sel line mask data poison h

theorem memoryOk_hostPut (s : State) (hpa : Nat) (l : List Byte) (h : memoryOk s = true) : memoryOk (hostPut s hpa l) = true :=
  tabWf_tabPut _ _ _ h

theorem memoryOk_pageZero (s : State) (p : Nat) (h : memoryOk s = true) : memoryOk (pageZero s p) = true := tabWf_filter _ _ _ h

theorem memoryOk_foldl {α : Type} (f : State → α → State) (g : ∀ s x, memoryOk s = true → memoryOk (f s x) = true) (l : List α) (s : State)
    (h : memoryOk s = true) : memoryOk (l.foldl f s) = true := by
  induction l generalizing s with
  | nil => exact h
  | cons x l ih => exact ih _ (g s x h)

theorem memoryOk_bringForward (s : State) (p : Nat) (h : memoryOk s = true) : memoryOk (bringForward s p) = true := by
  unfold bringForward
  split
  · exact h
  · exact memoryOk_foldl _ (fun s (x : HeldWrite) => memoryOk_memWrite s x.sel x.line x.mask x.data x.poison) _ _ (memoryOk_pageZero s p h)

theorem memoryOk_powerGone (s : State) (h : memoryOk s = true) : memoryOk (powerGone s) = true := tabWf_filter _ _ _ h

theorem memoryOk_complexReset (s : State) (cause rec : Nat) (h : memoryOk s = true) : memoryOk (complexReset s cause rec) = true := by
  unfold complexReset
  exact h

/-- The end of the canopy's wipe (R255) only drops entries. -/
theorem memoryOk_dropped (s t : State) (p : Nat × Byte → Bool) (e : t.tiers.bytes = s.tiers.bytes.filter p) (h : memoryOk s = true) :
    memoryOk t = true := by
  unfold memoryOk
  rw [e]
  exact tabWf_filter _ _ _ h

theorem foldl_tiers {α : Type} (f : State → α → State) (g : ∀ s x, (f s x).tiers = s.tiers) (l : List α) (s : State) : (l.foldl f s).tiers = s.tiers := by
  induction l generalizing s with
  | nil => rfl
  | cons x l ih => rw [List.foldl_cons, ih, g]

theorem backInval_tiers (s : State) (slice line : Nat) : (backInval s slice line).tiers = s.tiers := by
  unfold backInval
  split
  · rfl
  · exact foldl_tiers _ (fun s c => by split <;> rfl) _ _

theorem l2drop_tiers (s : State) (slice line : Nat) : (l2drop s slice line).tiers = s.tiers := by
  unfold l2drop
  split <;> rfl

theorem snoop_tiers (s : State) (k : MK) (slice line : Nat) : (snoop s k slice line).2.2.tiers = s.tiers := by
  unfold snoop
  split
  · dsimp only
    split <;> rfl
  · split
    · rfl
    · dsimp only
      split <;> split <;> simp [l2drop_tiers, backInval_tiers, l2put]

theorem dropAll_tiers (s : State) (line : Nat) : (dropAll s line).tiers = s.tiers := by
  unfold dropAll
  exact foldl_tiers _ (fun s g => snoop_tiers s .snpI g line) _ s

theorem dirPut_tiers (s : State) (line : Nat) (d : DirE) : (dirPut s line d).tiers = s.tiers := rfl

theorem memoryOk_resWrite (s : State) (pa : Nat) (b : List Byte) (h : memoryOk s = true) : memoryOk (resWrite s pa b) = true := by
  unfold resWrite
  refine memoryOk_foldl _ ?_ _ _ h
  intro s l g
  have d : (dirPut (dropAll (bringForward s (underPage l)) l) l dir0).tiers = (bringForward s (underPage l)).tiers := by
    rw [dirPut_tiers, dropAll_tiers]
  unfold memoryOk
  dsimp only
  refine tabWf_tabPut _ _ _ ?_
  rw [d]
  exact memoryOk_bringForward s _ g

end Sys2Proof.Machine
end

