-- ==== Sys2Proof/Laws/PerInstr.lean ====
section
/-! SUPPORT. One lemma per command: a slot command is well formed exactly when its core exists, and its slot value fits the slot's width. -/

namespace Sys2Proof.Laws.F
open Sys2Proof Sys2Proof.Machine

/-- Width of a slot (R124, R146, R161). -/
def slotBits (k : SlotKind) : Nat :=
  match k with
  | .sc => 32
  | .vec => 48
  | .ten => 48

/-- A core instruction is well formed exactly when it names one of the 2,400 cores, and its slot value fits its slot; every
other command has no slot. -/
def Statement (i : Instr) : Prop :=
  ∀ h k w, slotOf i = some (h, k, w) → wellFormed i = decide (h.core < 2400) ∧ w < 2 ^ slotBits k

/-- A slot value is below two to the power of its width (R124). -/
theorem slotWord_lt {n op : Nat} (f : BitVec n) (h : op < 64) : slotWord n op f < 2 ^ (n + 6) := by
  have := f.isLt
  have : op * 2 ^ n ≤ 63 * 2 ^ n := Nat.mul_le_mul_right _ (by omega)
  simp only [slotWord, Nat.pow_add]
  omega

/-- The statement of a command whose slot is given. -/
theorem of_slot {i : Instr} {h : Hdr} {k : SlotKind} {w : Nat} (e : slotOf i = some (h, k, w))
    (c : wellFormed i = decide (h.core < 2400)) (l : w < 2 ^ slotBits k) : Statement i := by
  intro h' k' w' e'
  obtain ⟨rfl, rfl, rfl⟩ : h = h' ∧ k = k' ∧ w = w' := by simpa [e] using e'
  exact ⟨c, l⟩

/-- The statement of a command that is no core instruction. -/
theorem of_none {i : Instr} (e : slotOf i = none) : Statement i := by
  intro h k w e'
  simp [e] at e'

theorem nop (h : Hdr) (f : BitVec 26) : Statement (.nop h f) := of_slot rfl rfl (slotWord_lt f (by decide))
theorem alu (h : Hdr) (f : BitVec 26) : Statement (.alu h f) := of_slot rfl rfl (slotWord_lt f (by decide))
theorem addi (h : Hdr) (f : BitVec 26) : Statement (.addi h f) := of_slot rfl rfl (slotWord_lt f (by decide))
theorem andi (h : Hdr) (f : BitVec 26) : Statement (.andi h f) := of_slot rfl rfl (slotWord_lt f (by decide))
theorem ori (h : Hdr) (f : BitVec 26) : Statement (.ori h f) := of_slot rfl rfl (slotWord_lt f (by decide))
theorem xori (h : Hdr) (f : BitVec 26) : Statement (.xori h f) := of_slot rfl rfl (slotWord_lt f (by decide))
theorem shli (h : Hdr) (f : BitVec 26) : Statement (.shli h f) := of_slot rfl rfl (slotWord_lt f (by decide))
theorem shri (h : Hdr) (f : BitVec 26) : Statement (.shri h f) := of_slot rfl rfl (slotWord_lt f (by decide))
theorem sari (h : Hdr) (f : BitVec 26) : Statement (.sari h f) := of_slot rfl rfl (slotWord_lt f (by decide))
theorem li (h : Hdr) (f : BitVec 26) : Statement (.li h f) := of_slot rfl rfl (slotWord_lt f (by decide))
theorem lih (h : Hdr) (f : BitVec 26) : Statement (.lih h f) := of_slot rfl rfl (slotWord_lt f (by decide))
theorem pcmp (h : Hdr) (f : BitVec 26) : Statement (.pcmp h f) := of_slot rfl rfl (slotWord_lt f (by decide))
theorem pcmpi (h : Hdr) (f : BitVec 26) : Statement (.pcmpi h f) := of_slot rfl rfl (slotWord_lt f (by decide))
theorem plog (h : Hdr) (f : BitVec 26) : Statement (.plog h f) := of_slot rfl rfl (slotWord_lt f (by decide))
theorem br (h : Hdr) (f : BitVec 26) : Statement (.br h f) := of_slot rfl rfl (slotWord_lt f (by decide))
theorem brdec (h : Hdr) (f : BitVec 26) : Statement (.brdec h f) := of_slot rfl rfl (slotWord_lt f (by decide))
theorem jal (h : Hdr) (f : BitVec 26) : Statement (.jal h f) := of_slot rfl rfl (slotWord_lt f (by decide))
theorem jr (h : Hdr) (f : BitVec 26) : Statement (.jr h f) := of_slot rfl rfl (slotWord_lt f (by decide))
theorem ldp (h : Hdr) (f : BitVec 26) : Statement (.ldp h f) := of_slot rfl rfl (slotWord_lt f (by decide))
theorem stp (h : Hdr) (f : BitVec 26) : Statement (.stp h f) := of_slot rfl rfl (slotWord_lt f (by decide))
theorem ldm (h : Hdr) (f : BitVec 26) : Statement (.ldm h f) := of_slot rfl rfl (slotWord_lt f (by decide))
theorem ldmAcq (h : Hdr) (f : BitVec 26) : Statement (.ldmAcq h f) := of_slot rfl rfl (slotWord_lt f (by decide))
theorem ldmNc (h : Hdr) (f : BitVec 26) : Statement (.ldmNc h f) := of_slot rfl rfl (slotWord_lt f (by decide))
theorem stm (h : Hdr) (f : BitVec 26) : Statement (.stm h f) := of_slot rfl rfl (slotWord_lt f (by decide))
theorem stmRel (h : Hdr) (f : BitVec 26) : Statement (.stmRel h f) := of_slot rfl rfl (slotWord_lt f (by decide))
theorem bar (h : Hdr) (f : BitVec 26) : Statement (.bar h f) := of_slot rfl rfl (slotWord_lt f (by decide))
theorem waitp (h : Hdr) (f : BitVec 26) : Statement (.waitp h f) := of_slot rfl rfl (slotWord_lt f (by decide))
theorem waitm (h : Hdr) (f : BitVec 26) : Statement (.waitm h f) := of_slot rfl rfl (slotWord_lt f (by decide))
theorem nflr (h : Hdr) (f : BitVec 26) : Statement (.nflr h f) := of_slot rfl rfl (slotWord_lt f (by decide))
theorem nflc (h : Hdr) (f : BitVec 26) : Statement (.nflc h f) := of_slot rfl rfl (slotWord_lt f (by decide))
theorem spk (h : Hdr) (f : BitVec 26) : Statement (.spk h f) := of_slot rfl rfl (slotWord_lt f (by decide))
theorem spc (h : Hdr) (f : BitVec 26) : Statement (.spc h f) := of_slot rfl rfl (slotWord_lt f (by decide))
theorem spr (h : Hdr) (f : BitVec 26) : Statement (.spr h f) := of_slot rfl rfl (slotWord_lt f (by decide))
theorem trap (h : Hdr) (f : BitVec 26) : Statement (.trap h f) := of_slot rfl rfl (slotWord_lt f (by decide))
theorem endK (h : Hdr) (f : BitVec 26) : Statement (.endK h f) := of_slot rfl rfl (slotWord_lt f (by decide))
theorem vnop (h : Hdr) (f : BitVec 42) : Statement (.vnop h f) := of_slot rfl rfl (slotWord_lt f (by decide))
theorem fadd (h : Hdr) (f : BitVec 42) : Statement (.fadd h f) := of_slot rfl rfl (slotWord_lt f (by decide))
theorem fsub (h : Hdr) (f : BitVec 42) : Statement (.fsub h f) := of_slot rfl rfl (slotWord_lt f (by decide))
theorem fmul (h : Hdr) (f : BitVec 42) : Statement (.fmul h f) := of_slot rfl rfl (slotWord_lt f (by decide))
theorem ffma (h : Hdr) (f : BitVec 42) : Statement (.ffma h f) := of_slot rfl rfl (slotWord_lt f (by decide))
theorem fmin (h : Hdr) (f : BitVec 42) : Statement (.fmin h f) := of_slot rfl rfl (slotWord_lt f (by decide))
theorem fmax (h : Hdr) (f : BitVec 42) : Statement (.fmax h f) := of_slot rfl rfl (slotWord_lt f (by decide))
theorem fabs (h : Hdr) (f : BitVec 42) : Statement (.fabs h f) := of_slot rfl rfl (slotWord_lt f (by decide))
theorem fneg (h : Hdr) (f : BitVec 42) : Statement (.fneg h f) := of_slot rfl rfl (slotWord_lt f (by decide))
theorem fcmp (h : Hdr) (f : BitVec 42) : Statement (.fcmp h f) := of_slot rfl rfl (slotWord_lt f (by decide))
theorem sel (h : Hdr) (f : BitVec 42) : Statement (.sel h f) := of_slot rfl rfl (slotWord_lt f (by decide))
theorem exp2 (h : Hdr) (f : BitVec 42) : Statement (.exp2 h f) := of_slot rfl rfl (slotWord_lt f (by decide))
theorem log2 (h : Hdr) (f : BitVec 42) : Statement (.log2 h f) := of_slot rfl rfl (slotWord_lt f (by decide))
theorem rcp (h : Hdr) (f : BitVec 42) : Statement (.rcp h f) := of_slot rfl rfl (slotWord_lt f (by decide))
theorem rsqrt (h : Hdr) (f : BitVec 42) : Statement (.rsqrt h f) := of_slot rfl rfl (slotWord_lt f (by decide))
theorem tanh (h : Hdr) (f : BitVec 42) : Statement (.tanh h f) := of_slot rfl rfl (slotWord_lt f (by decide))
theorem cvtOut (h : Hdr) (f : BitVec 42) : Statement (.cvtOut h f) := of_slot rfl rfl (slotWord_lt f (by decide))
theorem cvtIn (h : Hdr) (f : BitVec 42) : Statement (.cvtIn h f) := of_slot rfl rfl (slotWord_lt f (by decide))
theorem ftoi (h : Hdr) (f : BitVec 42) : Statement (.ftoi h f) := of_slot rfl rfl (slotWord_lt f (by decide))
theorem itof (h : Hdr) (f : BitVec 42) : Statement (.itof h f) := of_slot rfl rfl (slotWord_lt f (by decide))
theorem iadd (h : Hdr) (f : BitVec 42) : Statement (.iadd h f) := of_slot rfl rfl (slotWord_lt f (by decide))
theorem isub (h : Hdr) (f : BitVec 42) : Statement (.isub h f) := of_slot rfl rfl (slotWord_lt f (by decide))
theorem imul (h : Hdr) (f : BitVec 42) : Statement (.imul h f) := of_slot rfl rfl (slotWord_lt f (by decide))
theorem iand (h : Hdr) (f : BitVec 42) : Statement (.iand h f) := of_slot rfl rfl (slotWord_lt f (by decide))
theorem ior (h : Hdr) (f : BitVec 42) : Statement (.ior h f) := of_slot rfl rfl (slotWord_lt f (by decide))
theorem ixor (h : Hdr) (f : BitVec 42) : Statement (.ixor h f) := of_slot rfl rfl (slotWord_lt f (by decide))
theorem ishl (h : Hdr) (f : BitVec 42) : Statement (.ishl h f) := of_slot rfl rfl (slotWord_lt f (by decide))
theorem ishr (h : Hdr) (f : BitVec 42) : Statement (.ishr h f) := of_slot rfl rfl (slotWord_lt f (by decide))
theorem isar (h : Hdr) (f : BitVec 42) : Statement (.isar h f) := of_slot rfl rfl (slotWord_lt f (by decide))
theorem icmp (h : Hdr) (f : BitVec 42) : Statement (.icmp h f) := of_slot rfl rfl (slotWord_lt f (by decide))
theorem perm (h : Hdr) (f : BitVec 42) : Statement (.perm h f) := of_slot rfl rfl (slotWord_lt f (by decide))
theorem vred (h : Hdr) (f : BitVec 42) : Statement (.vred h f) := of_slot rfl rfl (slotWord_lt f (by decide))
theorem bcst (h : Hdr) (f : BitVec 42) : Statement (.bcst h f) := of_slot rfl rfl (slotWord_lt f (by decide))
theorem vext (h : Hdr) (f : BitVec 42) : Statement (.vext h f) := of_slot rfl rfl (slotWord_lt f (by decide))
theorem gath (h : Hdr) (f : BitVec 42) : Statement (.gath h f) := of_slot rfl rfl (slotWord_lt f (by decide))
theorem scat (h : Hdr) (f : BitVec 42) : Statement (.scat h f) := of_slot rfl rfl (slotWord_lt f (by decide))
theorem twin (h : Hdr) (f : BitVec 42) : Statement (.twin h f) := of_slot rfl rfl (slotWord_lt f (by decide))
theorem twout (h : Hdr) (f : BitVec 42) : Statement (.twout h f) := of_slot rfl rfl (slotWord_lt f (by decide))
theorem twadd (h : Hdr) (f : BitVec 42) : Statement (.twadd h f) := of_slot rfl rfl (slotWord_lt f (by decide))
theorem spd (h : Hdr) (f : BitVec 42) : Statement (.spd h f) := of_slot rfl rfl (slotWord_lt f (by decide))
theorem tnop (h : Hdr) (f : BitVec 42) : Statement (.tnop h f) := of_slot rfl rfl (slotWord_lt f (by decide))
theorem wld (h : Hdr) (f : BitVec 42) : Statement (.wld h f) := of_slot rfl rfl (slotWord_lt f (by decide))
theorem wldF (h : Hdr) (f : BitVec 42) : Statement (.wldF h f) := of_slot rfl rfl (slotWord_lt f (by decide))
theorem wldFv (h : Hdr) (f : BitVec 42) : Statement (.wldFv h f) := of_slot rfl rfl (slotWord_lt f (by decide))
theorem mma (h : Hdr) (f : BitVec 42) : Statement (.mma h f) := of_slot rfl rfl (slotWord_lt f (by decide))
theorem mmaF (h : Hdr) (f : BitVec 42) : Statement (.mmaF h f) := of_slot rfl rfl (slotWord_lt f (by decide))
theorem acz (h : Hdr) (f : BitVec 42) : Statement (.acz h f) := of_slot rfl rfl (slotWord_lt f (by decide))
theorem drn (h : Hdr) (f : BitVec 42) : Statement (.drn h f) := of_slot rfl rfl (slotWord_lt f (by decide))
theorem tlz (h : Hdr) (f : BitVec 42) : Statement (.tlz h f) := of_slot rfl rfl (slotWord_lt f (by decide))
theorem tlv (h : Hdr) (f : BitVec 42) : Statement (.tlv h f) := of_slot rfl rfl (slotWord_lt f (by decide))
theorem tlr (h : Hdr) (f : BitVec 42) : Statement (.tlr h f) := of_slot rfl rfl (slotWord_lt f (by decide))
theorem tlm (h : Hdr) (f : BitVec 42) : Statement (.tlm h f) := of_slot rfl rfl (slotWord_lt f (by decide))
theorem chs (h : Hdr) (f : BitVec 42) : Statement (.chs h f) := of_slot rfl rfl (slotWord_lt f (by decide))
theorem chr (h : Hdr) (f : BitVec 42) : Statement (.chr h f) := of_slot rfl rfl (slotWord_lt f (by decide))
theorem cha (h : Hdr) (f : BitVec 42) : Statement (.cha h f) := of_slot rfl rfl (slotWord_lt f (by decide))
theorem mvi (h : Hdr) (f : BitVec 42) : Statement (.mvi h f) := of_slot rfl rfl (slotWord_lt f (by decide))
theorem srp (h : Hdr) (f : BitVec 42) : Statement (.srp h f) := of_slot rfl rfl (slotWord_lt f (by decide))
theorem srr (h : Hdr) (f : BitVec 42) : Statement (.srr h f) := of_slot rfl rfl (slotWord_lt f (by decide))
theorem srt (h : Hdr) (f : BitVec 42) : Statement (.srt h f) := of_slot rfl rfl (slotWord_lt f (by decide))
theorem tensorComplete (core : Nat) (unit : Nat) : Statement (.tensorComplete core unit) := of_none rfl
theorem exceptionReport (core : Nat) : Statement (.exceptionReport core) := of_none rfl
theorem loadDataReturn (core : Nat) (tag : Nat) : Statement (.loadDataReturn core tag) := of_none rfl
theorem sbEntryTimeout (core : Nat) (ent : Nat) : Statement (.sbEntryTimeout core ent) := of_none rfl
theorem storePerformed (core : Nat) (ent : Nat) : Statement (.storePerformed core ent) := of_none rfl
theorem waitpReread (core : Nat) : Statement (.waitpReread core) := of_none rfl
theorem waitmReread (core : Nat) : Statement (.waitmReread core) := of_none rfl
theorem coreClockGate (core : Nat) : Statement (.coreClockGate core) := of_none rfl
theorem hintWrite (core : Nat) (addr : Nat) (data : List Byte) : Statement (.hintWrite core addr data) := of_none rfl
theorem chainWordArrival (core : Nat) (slot : Nat) : Statement (.chainWordArrival core slot) := of_none rfl
theorem chainCellCloseTimeout (core : Nat) (slot : Nat) : Statement (.chainCellCloseTimeout core slot) := of_none rfl
theorem nopCmd (q : Nat) : Statement (.nopCmd q) := of_none rfl
theorem moveCmd (q : Nat) : Statement (.moveCmd q) := of_none rfl
theorem launchCmd (q : Nat) : Statement (.launchCmd q) := of_none rfl
theorem launchImageLoaded (q : Nat) : Statement (.launchImageLoaded q) := of_none rfl
theorem launchComplete (q : Nat) : Statement (.launchComplete q) := of_none rfl
theorem signalCmd (q : Nat) : Statement (.signalCmd q) := of_none rfl
theorem waitCmd (q : Nat) : Statement (.waitCmd q) := of_none rfl
theorem fencePoll (q : Nat) : Statement (.fencePoll q) := of_none rfl
theorem clearCmd (q : Nat) : Statement (.clearCmd q) := of_none rfl
theorem clearingStepDone (q : Nat) : Statement (.clearingStepDone q) := of_none rfl
theorem proofCmd (q : Nat) : Statement (.proofCmd q) := of_none rfl
theorem proofCaptureDone : Statement .proofCaptureDone := of_none rfl
theorem proofPageCopy (page : Nat) : Statement (.proofPageCopy page) := of_none rfl
theorem restoreCmd (q : Nat) : Statement (.restoreCmd q) := of_none rfl
theorem resliceCmd (q : Nat) : Statement (.resliceCmd q) := of_none rfl
theorem xltSync (q : Nat) : Statement (.xltSync q) := of_none rfl
theorem xltInval (q : Nat) : Statement (.xltInval q) := of_none rfl
theorem xltInvalDrainDone : Statement .xltInvalDrainDone := of_none rfl
theorem biasSet (q : Nat) : Statement (.biasSet q) := of_none rfl
theorem biasWritebackDone (q : Nat) : Statement (.biasWritebackDone q) := of_none rfl
theorem windowMove (q : Nat) : Statement (.windowMove q) := of_none rfl
theorem queueWake (q : Nat) : Statement (.queueWake q) := of_none rfl
theorem descReread (q : Nat) : Statement (.descReread q) := of_none rfl
theorem fallbackPoll : Statement .fallbackPoll := of_none rfl
theorem moverAccept (m : Nat) : Statement (.moverAccept m) := of_none rfl
theorem tileCheck (m : Nat) : Statement (.tileCheck m) := of_none rfl
theorem tableWalkDone (root : Nat) (va : Nat) : Statement (.tableWalkDone root va) := of_none rfl
theorem moverTransactionDone (m : Nat) (txn : Nat) : Statement (.moverTransactionDone m txn) := of_none rfl
theorem streamComplete (m : Nat) : Statement (.streamComplete m) := of_none rfl
theorem faultRecordWrite : Statement .faultRecordWrite := of_none rfl
theorem fqHeadUpdate : Statement .fqHeadUpdate := of_none rfl
theorem scrubPatrol (line : Nat) (found : Nat) : Statement (.scrubPatrol line found) := of_none rfl
theorem keyLoad (slot : Nat) : Statement (.keyLoad slot) := of_none rfl
theorem keyErase (slot : Nat) : Statement (.keyErase slot) := of_none rfl
theorem keyCmdDone : Statement .keyCmdDone := of_none rfl
theorem wipePlatesCaches : Statement .wipePlatesCaches := of_none rfl
theorem underCryptoErase : Statement .underCryptoErase := of_none rfl
theorem canopyWipeDone : Statement .canopyWipeDone := of_none rfl
theorem underOverwritePage : Statement .underOverwritePage := of_none rfl
theorem cohL1InvalWrite (v : Nat) : Statement (.cohL1InvalWrite v) := of_none rfl
theorem l1InvalDone : Statement .l1InvalDone := of_none rfl
theorem cohL1EnWrite (v : Nat) : Statement (.cohL1EnWrite v) := of_none rfl
theorem cohProbeAddrWrite (v : Nat) : Statement (.cohProbeAddrWrite v) := of_none rfl
theorem probeLookupDone : Statement .probeLookupDone := of_none rfl
theorem rdS (slice : Nat) (line : Nat) : Statement (.rdS slice line) := of_none rfl
theorem rdM (slice : Nat) (line : Nat) : Statement (.rdM slice line) := of_none rfl
theorem upg (slice : Nat) (line : Nat) : Statement (.upg slice line) := of_none rfl
theorem own (slice : Nat) (line : Nat) : Statement (.own slice line) := of_none rfl
theorem rdCur (line : Nat) (sel : Nat) : Statement (.rdCur line sel) := of_none rfl
theorem wrInv (line : Nat) (sel : Nat) (mask : Nat) (data : List Byte) : Statement (.wrInv line sel mask data) := of_none rfl
theorem wrHint (line : Nat) (sel : Nat) (mask : Nat) (slice : Nat) (data : List Byte) : Statement (.wrHint line sel mask slice data) := of_none rfl
theorem snpS (slice : Nat) (line : Nat) : Statement (.snpS slice line) := of_none rfl
theorem snpI (slice : Nat) (line : Nat) : Statement (.snpI slice line) := of_none rfl
theorem snpCur (slice : Nat) (line : Nat) : Statement (.snpCur slice line) := of_none rfl
theorem ackI (slice : Nat) (line : Nat) : Statement (.ackI slice line) := of_none rfl
theorem ackS (slice : Nat) (line : Nat) : Statement (.ackS slice line) := of_none rfl
theorem ackFwd (slice : Nat) (line : Nat) : Statement (.ackFwd slice line) := of_none rfl
theorem nack (slice : Nat) (line : Nat) : Statement (.nack slice line) := of_none rfl
theorem nackRetry (slice : Nat) (line : Nat) : Statement (.nackRetry slice line) := of_none rfl
theorem reservationLapse (slice : Nat) (line : Nat) : Statement (.reservationLapse slice line) := of_none rfl
theorem gnt (slice : Nat) (line : Nat) : Statement (.gnt slice line) := of_none rfl
theorem cmp (slice : Nat) (line : Nat) : Statement (.cmp slice line) := of_none rfl
theorem evaAck (slice : Nat) (line : Nat) : Statement (.evaAck slice line) := of_none rfl
theorem dataMsg (dst : Nat) (line : Nat) : Statement (.dataMsg dst line) := of_none rfl
theorem evaClean (slice : Nat) (line : Nat) : Statement (.evaClean slice line) := of_none rfl
theorem evaDirty (slice : Nat) (line : Nat) : Statement (.evaDirty slice line) := of_none rfl
theorem watchWake (line : Nat) : Statement (.watchWake line) := of_none rfl
theorem hostSnpData (line : Nat) : Statement (.hostSnpData line) := of_none rfl
theorem hostSnpInv (line : Nat) (data : List Byte) : Statement (.hostSnpInv line data) := of_none rfl
theorem hostSnpCur (line : Nat) : Statement (.hostSnpCur line) := of_none rfl
theorem hostCacheResponse (line : Nat) (st : Nat) : Statement (.hostCacheResponse line st) := of_none rfl
theorem birsp (line : Nat) : Statement (.birsp line) := of_none rfl
theorem memRd (link : Nat) (dpa : Nat) : Statement (.memRd link dpa) := of_none rfl
theorem memWr (link : Nat) (dpa : Nat) (mask : Nat) (poison : Nat) (data : List Byte) : Statement (.memWr link dpa mask poison data) := of_none rfl
theorem memInv (link : Nat) (dpa : Nat) : Statement (.memInv link dpa) := of_none rfl
theorem flushWordRead (q : Nat) : Statement (.flushWordRead q) := of_none rfl
theorem readAheadExpiry (off : Nat) : Statement (.readAheadExpiry off) := of_none rfl
theorem hdmCommit (fn : Nat) (set : Interleave) : Statement (.hdmCommit fn set) := of_none rfl
theorem msixUnmask (vec : Nat) (mask : Nat) (en : Nat) (fmask : Nat) : Statement (.msixUnmask vec mask en fmask) := of_none rfl
theorem ideKeyProgram (p : IdeKey) : Statement (.ideKeyProgram p) := of_none rfl
theorem linkTrained (link : Nat) (width : Nat) (rate : Nat) (m : LinkMode) : Statement (.linkTrained link width rate m) := of_none rfl
theorem dlDown (link : Nat) : Statement (.dlDown link) := of_none rfl
theorem recoveryTimeout (link : Nat) : Statement (.recoveryTimeout link) := of_none rfl
theorem viral (link : Nat) : Statement (.viral link) := of_none rfl
theorem linkRecoveryReturn (link : Nat) (replays : Nat) : Statement (.linkRecoveryReturn link replays) := of_none rfl
theorem linkLostTimeout : Statement .linkLostTimeout := of_none rfl
theorem linkUpAfterLoss (link : Nat) (width : Nat) (rate : Nat) (m : LinkMode) : Statement (.linkUpAfterLoss link width rate m) := of_none rfl
theorem l0pNarrow (link : Nat) : Statement (.l0pNarrow link) := of_none rfl
theorem l0pWiden (link : Nat) : Statement (.l0pWiden link) := of_none rfl
theorem aspmL1Entry (link : Nat) : Statement (.aspmL1Entry link) := of_none rfl
theorem aspmL1Exit (link : Nat) : Statement (.aspmL1Exit link) := of_none rfl
theorem rideModeWrite (port : Nat) (v : Nat) : Statement (.rideModeWrite port v) := of_none rfl
theorem portTrained (port : Nat) : Statement (.portTrained port) := of_none rfl
theorem ident (port : Nat) (serial : Nat) (nport : Nat) (mode : Nat) : Statement (.ident port serial nport mode) := of_none rfl
theorem idleCell (port : Nat) (hdr : Nat) : Statement (.idleCell port hdr) := of_none rfl
theorem chainCell (port : Nat) (hdr : Nat) (data : List Byte) : Statement (.chainCell port hdr data) := of_none rfl
theorem tileCell (port : Nat) (hdr : Nat) (data : List Byte) : Statement (.tileCell port hdr data) := of_none rfl
theorem tileAck (port : Nat) (hdr : Nat) (data : List Byte) : Statement (.tileAck port hdr data) := of_none rfl
theorem fenceCell (port : Nat) (hdr : Nat) (data : List Byte) : Statement (.fenceCell port hdr data) := of_none rfl
theorem fenceAck (port : Nat) (hdr : Nat) (data : List Byte) : Statement (.fenceAck port hdr data) := of_none rfl
theorem winRd (port : Nat) (hdr : Nat) (data : List Byte) : Statement (.winRd port hdr data) := of_none rfl
theorem winWr (port : Nat) (hdr : Nat) (data : List Byte) : Statement (.winWr port hdr data) := of_none rfl
theorem winRsp (port : Nat) (hdr : Nat) (data : List Byte) : Statement (.winRsp port hdr data) := of_none rfl
theorem cellReplayTimeout (port : Nat) : Statement (.cellReplayTimeout port) := of_none rfl
theorem laneLockLost (port : Nat) : Statement (.laneLockLost port) := of_none rfl
theorem portRetrain (port : Nat) : Statement (.portRetrain port) := of_none rfl
theorem rdmaWrite (port : Nat) (rkey : Nat) (va : Nat) (data : List Byte) : Statement (.rdmaWrite port rkey va data) := of_none rfl
theorem rdmaRead (port : Nat) (rkey : Nat) (va : Nat) (len : Nat) : Statement (.rdmaRead port rkey va len) := of_none rfl
theorem rdmaResponse (ok : Nat) (data : List Byte) : Statement (.rdmaResponse ok data) := of_none rfl
theorem ecnMarkedPacket (port : Nat) (qp : Nat) (gap : Nat) : Statement (.ecnMarkedPacket port qp gap) := of_none rfl
theorem cnp (port : Nat) (qp : Nat) : Statement (.cnp port qp) := of_none rfl
theorem proofBegin (port : Nat) (hdr : Nat) (data : List Byte) : Statement (.proofBegin port hdr data) := of_none rfl
theorem proofData (port : Nat) (hdr : Nat) (data : List Byte) : Statement (.proofData port hdr data) := of_none rfl
theorem proofCommit (port : Nat) (hdr : Nat) (data : List Byte) : Statement (.proofCommit port hdr data) := of_none rfl
theorem proofAck (port : Nat) (hdr : Nat) (data : List Byte) : Statement (.proofAck port hdr data) := of_none rfl
theorem readReq (port : Nat) (hdr : Nat) (data : List Byte) : Statement (.readReq port hdr data) := of_none rfl
theorem readData (port : Nat) (hdr : Nat) (data : List Byte) : Statement (.readData port hdr data) := of_none rfl
theorem proofAbort (port : Nat) (hdr : Nat) (data : List Byte) : Statement (.proofAbort port hdr data) := of_none rfl
theorem heartbeat (port : Nat) (hdr : Nat) (data : List Byte) : Statement (.heartbeat port hdr data) := of_none rfl
theorem heartbeatSend : Statement .heartbeatSend := of_none rfl
theorem pairLost : Statement .pairLost := of_none rfl
theorem pairSenseLow : Statement .pairSenseLow := of_none rfl
theorem cappingInterval (volt : Nat) (curr : Nat) (cnt : List Nat) : Statement (.cappingInterval volt curr cnt) := of_none rfl
theorem vfStepSettled (dom : Nat) : Statement (.vfStepSettled dom) := of_none rfl
theorem kUpdate : Statement .kUpdate := of_none rfl
theorem estDiverge : Statement .estDiverge := of_none rfl
theorem measImplausible (cause : Nat) : Statement (.measImplausible cause) := of_none rfl
theorem capUnreachable : Statement .capUnreachable := of_none rfl
theorem capReached : Statement .capReached := of_none rfl
theorem sagEnd (low : Nat) (dur : Nat) : Statement (.sagEnd low dur) := of_none rfl
theorem rippleWindow (pp : Nat) : Statement (.rippleWindow pp) := of_none rfl
theorem feedLoss : Statement .feedLoss := of_none rfl
theorem feedLossWritesSent : Statement .feedLossWritesSent := of_none rfl
theorem pwrGoodLow : Statement .pwrGoodLow := of_none rfl
theorem throttleInAssert (gap : Nat) : Statement (.throttleInAssert gap) := of_none rfl
theorem throttleInDeassert : Statement .throttleInDeassert := of_none rfl
theorem feedAlertAssert (gap : Nat) : Statement (.feedAlertAssert gap) := of_none rfl
theorem feedAlertDeassert : Statement .feedAlertDeassert := of_none rfl
theorem pinStuck (pin : Nat) : Statement (.pinStuck pin) := of_none rfl
theorem pinChatterEnd (pin : Nat) : Statement (.pinChatterEnd pin) := of_none rfl
theorem pldmGrant (grant : Nat) : Statement (.pldmGrant grant) := of_none rfl
theorem sensorRefresh : Statement .sensorRefresh := of_none rfl
theorem pwrCapWrite (v : Nat) : Statement (.pwrCapWrite v) := of_none rfl
theorem thermalCheck (temps : List Nat) : Statement (.thermalCheck temps) := of_none rfl
theorem errorDetected (record : Nat) (src : Nat) (synd : Nat) (addr : Nat) : Statement (.errorDetected record src synd addr) := of_none rfl
theorem blockResetEnd (record : Nat) : Statement (.blockResetEnd record) := of_none rfl
theorem quietPeriodExpiry (record : Nat) : Statement (.quietPeriodExpiry record) := of_none rfl
theorem frForce (record : Nat) (v : Nat) : Statement (.frForce record v) := of_none rfl
theorem frInjectArm (record : Nat) (v : Nat) : Statement (.frInjectArm record v) := of_none rfl
theorem frStatusClear (record : Nat) : Statement (.frStatusClear record) := of_none rfl
theorem fltPinClear : Statement .fltPinClear := of_none rfl
theorem delayMonitor (record : Nat) (v : Nat) (rings : Nat) : Statement (.delayMonitor record v rings) := of_none rfl
theorem wearFit (days : Nat) (core : Nat) (d0 : Nat) (d1 : Nat) (d2 : Nat) (d3 : Nat) : Statement (.wearFit days core d0 d1 d2 d3) := of_none rfl
theorem lookoutUpdate (ces : Nat) (sags : Nat) : Statement (.lookoutUpdate ces sags) := of_none rfl
theorem rangerLoadCheck (load : Nat) : Statement (.rangerLoadCheck load) := of_none rfl
theorem watchdog : Statement .watchdog := of_none rfl
theorem powerOn : Statement .powerOn := of_none rfl
theorem resetPin : Statement .resetPin := of_none rfl
theorem softwareReset : Statement .softwareReset := of_none rfl
theorem resetRelease (strap : Nat) : Statement (.resetRelease strap) := of_none rfl
theorem rampComplete : Statement .rampComplete := of_none rfl
theorem fuseCheckDone : Statement .fuseCheckDone := of_none rfl
theorem selfTestDone (failed : List Nat) : Statement (.selfTestDone failed) := of_none rfl
theorem configReady : Statement .configReady := of_none rfl
theorem fwLoad : Statement .fwLoad := of_none rfl
theorem firmwareVerified : Statement .firmwareVerified := of_none rfl
theorem wearLoad : Statement .wearLoad := of_none rfl
theorem enableCmd : Statement .enableCmd := of_none rfl
theorem enableCheckDone : Statement .enableCheckDone := of_none rfl
theorem disableCmd : Statement .disableCmd := of_none rfl
theorem shutdown : Statement .shutdown := of_none rfl
theorem disableEnd : Statement .disableEnd := of_none rfl
theorem deploy : Statement .deploy := of_none rfl
theorem decommission : Statement .decommission := of_none rfl
theorem readFaultLog (tag : Nat) (len : Nat) : Statement (.readFaultLog tag len) := of_none rfl
theorem readDisturbanceLog (tag : Nat) (len : Nat) : Statement (.readDisturbanceLog tag len) := of_none rfl
theorem mbxRequestDone : Statement .mbxRequestDone := of_none rfl
theorem rcRead (a : Access) : Statement (.rcRead a) := of_none rfl
theorem registerWrite (off : Nat) (size : Nat) (v : Nat) : Statement (.registerWrite off size v) := of_none rfl
theorem powerLoss : Statement .powerLoss := of_none rfl
theorem zeroLengthReadCompletion (link : Nat) : Statement (.zeroLengthReadCompletion link) := of_none rfl
theorem recoveryEntry (link : Nat) : Statement (.recoveryEntry link) := of_none rfl
theorem blockLockLoss (port : Nat) (lanes : Nat) : Statement (.blockLockLoss port lanes) := of_none rfl
theorem badCell (port : Nat) (kind : Nat) : Statement (.badCell port kind) := of_none rfl
theorem rdmaRetryTimeout : Statement .rdmaRetryTimeout := of_none rfl
theorem overwriteBroughtForward (page : Nat) : Statement (.overwriteBroughtForward page) := of_none rfl

end Sys2Proof.Laws.F
end

