-- ==== Sys2Proof/Laws/Queues.lean ====
section
/-! SUPPORT. Queue commands where nothing is cached: a started command, its completion record, and what the queue engine's search for more work leaves alone. -/

namespace Sys2Proof.Machine

/-- Bytes under a full mask. -/
theorem mergeBytes_full (new old : List Byte) (h : new.length = 64) : mergeBytes fullMask new old = new := by
  apply List.ext_getElem
  · simp [mergeBytes, h]
  · intro i h1 h2
    have : fullMask.testBit i = true := by
      rw [fullMask, Nat.testBit_two_pow_sub_one]; simp [mergeBytes] at h1; simpa using h1
    simp [mergeBytes, this, byteAt, h2]

theorem lineTier_floor (hpa : Nat) (h : hpa < 2 ^ 44) : lineTier (floorPA hpa / 64) = 2 := by
  unfold lineTier floorPA; omega

/-- A store to a floor line, whole. -/
theorem memWrite_floor (s : State) (line : Nat) (l : List Byte) (h : lineTier line = 2) (n : l.length = 64) (p : s.tiers.poison = []) :
    memWrite s 0 line fullMask l false = { s with tiers := { s.tiers with
      bytes := tabPut s.tiers.bytes (64 * line) l, enc := tabSet (fun _ => 0) s.tiers.enc line 0 } } := by
  have r : (memRead s 0 line).2 = false := by simp [memRead, h, p]
  have i : injTaken s line = s := by simp [injTaken, h]
  simp only [memWrite, h, ne_eq, not_true_eq_false, false_and, if_false, memStore, i, r, mergeBytes_full l _ n, Bool.false_or,
    Bool.false_and, Bool.false_eq_true, if_true, p, setDel]
  simp

/-- A change of no more than a link's power state and what has been sent. -/
def justSends (s t : State) : Prop :=
  { t with host := s.host, out := s.out } = s ∧ t.tiers = s.tiers ∧ { t.host with links := s.host.links } = s.host

theorem justSends.refl (s : State) : justSends s s := ⟨rfl, rfl, rfl⟩

theorem justSends.trans {s t v : State} (a : justSends s t) (b : justSends t v) : justSends s v := by
  refine ⟨?_, b.2.1.trans a.2.1, ?_⟩
  · exact (congrArg (fun x : State => { x with host := s.host, out := s.out }) b.1).trans a.1
  · exact (congrArg (fun x : HostPort => { x with links := s.host.links }) b.2.2).trans a.2.2

theorem linkWake_sent (s : State) (n : Nat) : justSends s (linkWake s n) := by
  unfold linkWake; dsimp only; split
  · exact ⟨rfl, rfl, rfl⟩
  · exact justSends.refl s

theorem d2h_sent (s : State) (k line : Nat) : justSends s (d2h s k line) :=
  (linkWake_sent s _).trans ⟨rfl, rfl, rfl⟩

theorem biasSnoop_sent (s : State) (k line : Nat) : justSends s (biasSnoop s k line) := by
  unfold biasSnoop; split
  · exact (linkWake_sent s _).trans ⟨rfl, rfl, rfl⟩
  · exact justSends.refl s

theorem writeNote_sent (s : State) (line mask : Nat) : justSends s (writeNote s line mask) := by
  unfold writeNote; split
  · exact d2h_sent s _ _
  · exact biasSnoop_sent s _ _

theorem readNote_sent (s : State) (line : Nat) : justSends s (readNote s line) := by
  unfold readNote; split
  · split
    · exact d2h_sent s _ _
    · exact justSends.refl s
  · exact biasSnoop_sent s _ _

theorem readNotes_sent (s : State) (pa n : Nat) : justSends s (readNotes s pa n) := by
  unfold readNotes
  generalize List.range _ = l
  induction l generalizing s with
  | nil => exact justSends.refl s
  | cons a l ih => exact (readNote_sent s _).trans (ih _)

/-- A line written to host memory where nothing is cached. -/
theorem floorWrite_line (s : State) (hpa : Nat) (l : List Byte) (a : hpa % 64 = 0) (b : hpa < 2 ^ 44) (n : l.length = 64) (u : uncached s) :
    floorWrite s hpa l = { d2h s 4 (floorPA hpa / 64) with tiers := { s.tiers with
      bytes := tabPut s.tiers.bytes (floorPA hpa) l, enc := tabSet (fun _ => 0) s.tiers.enc (floorPA hpa / 64) 0 } } := by
  have m : floorPA hpa % 64 = 0 := by unfold floorPA; omega
  have e : ¬ l.isEmpty = true := by intro h; rw [List.isEmpty_iff] at h; simp [h] at n
  have t : l.take 64 = l := List.take_of_length_le (by omega)
  have d : l.drop 64 = [] := List.drop_of_length_le (by omega)
  have w : 64 * (floorPA hpa / 64) = floorPA hpa := by omega
  simp only [floorWrite, paWrite, n, cohPut, e, m, Nat.sub_zero, Nat.min_self, t, d, List.isEmpty_nil, if_true, cohPutLine,
    Nat.pow_zero, Nat.mul_one, List.replicate_zero, List.nil_append]
  rw [cohWrite_uncached s _ _ _ _ _ u.1]
  have wn : writeNote s (floorPA hpa / 64) fullMask = d2h s 4 (floorPA hpa / 64) := by simp [writeNote, lineTier_floor hpa b]
  have wt : (d2h s 4 (floorPA hpa / 64)).tiers = s.tiers := (d2h_sent s _ _).2.1
  rw [show (2 ^ 64 - 1 : Nat) = fullMask from rfl, wn, memWrite_floor _ _ l (lineTier_floor hpa b) n (by rw [wt]; exact u.2), w, wt]
  simp

/-- A plaintext read where no line is poisoned meets no poison. -/
theorem memRead_clean (s : State) (line : Nat) (p : s.tiers.poison = []) : (memRead s 0 line).2 = false := by
  unfold memRead
  split
  · simp [p]
  · split
    · rfl
    · simp [selEmpty, p]

theorem cohGet_clean (s : State) (f pa n : Nat) (u : uncached s) : (cohGet s 0 pa f n).2 = false := by
  induction f generalizing pa n with
  | zero => rfl
  | succ f ih =>
    simp only [cohGet]
    split
    · rfl
    · rw [cohReadCur_uncached s _ _ u.1]
      simp [memRead_clean s _ u.2, ih]

/-- All of the complex but its memory, its registers, what it has sent, its host port and its queues is the same, the running
LAUNCHes and clearings too; nothing has become cached. -/
def sameWork (s t : State) : Prop :=
  uncached t ∧ { t with tiers := s.tiers, regs := s.regs, out := s.out, host := s.host, qsu := s.qsu } = s ∧
  t.qsu.launches = s.qsu.launches ∧ t.qsu.clears = s.qsu.clears ∧ t.host.hold = s.host.hold

theorem sameWork.refl (s : State) (u : uncached s) : sameWork s s := ⟨u, rfl, rfl, rfl, rfl⟩

theorem sameWork.trans {s t v : State} (a : sameWork s t) (b : sameWork t v) : sameWork s v := by
  refine ⟨b.1, ?_, b.2.2.1.trans a.2.2.1, b.2.2.2.1.trans a.2.2.2.1, b.2.2.2.2.trans a.2.2.2.2⟩
  have h := congrArg (fun x : State => { x with tiers := s.tiers, regs := s.regs, out := s.out, host := s.host, qsu := s.qsu }) b.2.1
  exact h.trans a.2.1

theorem justSends.same {s t : State} (h : justSends s t) (u : uncached s) : sameWork s t := by
  have c : t.coh = s.coh := by have := congrArg State.coh h.1; exact this
  have q : t.qsu = s.qsu := by have := congrArg State.qsu h.1; exact this
  have d : t.host.hold = s.host.hold := by have := congrArg HostPort.hold h.2.2; exact this
  refine ⟨⟨c.trans u.1, by rw [h.2.1]; exact u.2⟩, ?_, by rw [q], by rw [q], d⟩
  have r : t.regs = s.regs := by have := congrArg State.regs h.1; exact this
  calc { t with tiers := s.tiers, regs := s.regs, out := s.out, host := s.host, qsu := s.qsu }
      = { t with host := s.host, out := s.out } := by rw [← h.2.1, ← r, ← q]
    _ = s := h.1

theorem regSet_same (s : State) (off hi lo v : Nat) (u : uncached s) : sameWork s (regSet s off hi lo v) := ⟨u, rfl, rfl, rfl, rfl⟩

/-- A plaintext write where nothing is cached changes memory only. -/
theorem memWrite_same (s : State) (line mask : Nat) (l : List Byte) (u : uncached s) : sameWork s (memWrite s 0 line mask l false) := by
  have r := memRead_clean s line u.2
  unfold memWrite
  rw [if_neg (by simp [selEmpty])]
  split
  · exact ⟨u, rfl, rfl, rfl, rfl⟩
  · have k : ∀ x : State, uncached x → (memRead x 0 line).2 = false → sameWork x { x with tiers := { x.tiers with
        bytes := tabPut x.tiers.bytes (64 * line) (mergeBytes mask l (memRead x 0 line).1)
        enc := tabSet (fun _ => 0) x.tiers.enc line (if lineTier line = 2 then 0 else pairOf x 0)
        poison := if (false || ((memRead x 0 line).2 && mask != fullMask)) then setAdd line x.tiers.poison else setDel line x.tiers.poison } } := by
      intro x ux rx
      refine ⟨⟨ux.1, ?_⟩, rfl, rfl, rfl, rfl⟩
      simp [rx, ux.2, setDel]
    unfold memStore
    simp only
    have i : sameWork s (injTaken s line) := by
      unfold injTaken; dsimp only; split
      · exact regSet_same s _ _ _ _ u
      · exact sameWork.refl s u
    exact i.trans (k _ i.1 (memRead_clean _ line i.1.2))

theorem cohPut_same (s : State) (f pa : Nat) (l : List Byte) (u : uncached s) : sameWork s (cohPut s 0 pa f l) := by
  induction f generalizing s pa l with
  | zero => exact sameWork.refl s u
  | succ f ih =>
    simp only [cohPut]
    split
    · exact sameWork.refl s u
    · have w : sameWork s (cohPutLine s 0 pa (l.take (min (64 - pa % 64) l.length)) false) := by
        simp only [cohPutLine]
        rw [cohWrite_uncached s _ _ _ _ _ u.1]
        have n := (writeNote_sent s (pa / 64) ((2 ^ (l.take (min (64 - pa % 64) l.length)).length - 1) * 2 ^ (pa % 64))).same u
        exact n.trans (memWrite_same _ _ _ _ n.1)
      exact w.trans (ih _ _ _ w.1)

theorem floorWrite_same (s : State) (hpa : Nat) (l : List Byte) (u : uncached s) : sameWork s (floorWrite s hpa l) :=
  cohPut_same s _ _ l u

theorem sendMsix_work (s : State) (v : Nat) (u : uncached s) : sameWork s (sendMsix s v) := by
  unfold sendMsix; dsimp only
  split
  · exact sameWork.refl s u
  · split
    · exact ((linkWake_sent s 0).trans ⟨rfl, rfl, rfl⟩).same u
    · exact ⟨u, rfl, rfl, rfl, rfl⟩

/-- An event where nothing is cached is memory, registers and a message. -/
theorem writeEventQ_same (s : State) (code noq q seq ctx a0 a1 a2 : Nat) (u : uncached s) :
    sameWork s (writeEventQ s code noq q seq ctx a0 a1 a2) := by
  unfold writeEventQ; dsimp only
  split
  · exact sameWork.refl s u
  · split
    · exact regSet_same s _ _ _ _ u
    · have w := floorWrite_same s (regField s 0x30010 42 6 * 64 + 32 * (s.qsu.evT % 2 ^ regField s 0x30018 4 0))
        (words [phaseOf s.qsu.evT (regField s 0x30018 4 0) * 2 ^ 63 + code * 2 ^ 55 + q * 2 ^ 45 + seq * 2 ^ 30 + noq * 2 ^ 29 + ctx, a0, a1, a2]) u
      refine w.trans ?_
      generalize floorWrite s _ _ = t at w ⊢
      have a : ∀ n, sameWork t { t with qsu := { t.qsu with evT := n } } := fun n => ⟨w.1, rfl, rfl, rfl, rfl⟩
      have b : ∀ x : State, uncached x → ∀ hi lo v, sameWork x (regSet x 0x30020 hi lo v) := fun x ux hi lo v => regSet_same x _ hi lo v ux
      refine (a (s.qsu.evT + 1)).trans ((b _ (a _).1 32 32 1).trans ?_)
      split
      · exact (b _ (b _ (a _).1 32 32 1).1 33 33 1).trans (sendMsix_work _ _ (b _ (b _ (a _).1 32 32 1).1 33 33 1).1)
      · exact sendMsix_work _ _ (b _ (a _).1 32 32 1).1

theorem queueSet_same (s : State) (q : Nat) (k : Queue) (u : uncached s) : sameWork s (queueSet s q k) := ⟨u, rfl, rfl, rfl, rfl⟩

/-- Fetching where no line is poisoned. -/
theorem fetchLoop_same (n : Nat) (s : State) (q : Nat) (u : uncached s) : sameWork s (fetchLoop n s q) := by
  induction n generalizing s with
  | zero => exact sameWork.refl s u
  | succ n ih =>
    simp only [fetchLoop]
    split
    · exact queueSet_same s q _ u
    · have c : (descRead s (queueGet s q) (queueGet s q).fetched).2 = false := cohGet_clean s _ _ _ u
      rw [c]
      simp only [Bool.false_eq_true, if_false]
      have n := (readNotes_sent s (floorPA ((queueGet s q).ring + 128 * ((queueGet s q).fetched % 2 ^ (queueGet s q).rlog))) 128).same u
      split
      · exact n.trans ((queueSet_same _ q _ n.1).trans (ih _ (queueSet_same _ q _ n.1).1))
      · exact n.trans (queueSet_same _ q _ n.1)

/-- The search for more work where nothing is cached. -/
theorem queueWake_same (s : State) (q : Nat) (u : uncached s) : sameWork s (queueWake s q) := by
  unfold queueWake; dsimp only
  split
  · exact sameWork.refl s u
  split
  · exact queueSet_same s q _ u
  · split
    · exact sameWork.refl s u
    · have po : ∀ x : State, uncached x → ∀ t h, sameWork x (parkOverrun x q t h) := by
        intro x ux t h
        exact (queueSet_same x q _ ux).trans (writeEventQ_same _ _ _ _ _ _ _ _ _ (queueSet_same x q _ ux).1)
      split
      · exact (queueSet_same s q _ u).trans (po _ (queueSet_same s q _ u).1 _ _)
      · split
        · exact (queueSet_same s q _ u).trans (po _ (queueSet_same s q _ u).1 _ _)
        · have fin : ∀ v (p : State → Prop) [DecidablePred p] (g : State → Queue), sameWork s (if p (fetchLoop 9 (queueSet s q v) q) then
              queueSet (fetchLoop 9 (queueSet s q v) q) q (g (fetchLoop 9 (queueSet s q v) q)) else fetchLoop 9 (queueSet s q v) q) := by
            intro v p _ g
            have f := (queueSet_same s q v u).trans (fetchLoop_same 9 _ q (queueSet_same s q v u).1)
            split
            · exact f.trans (queueSet_same _ q _ f.1)
            · exact f
          exact fin _ (fun t => (queueGet s q).st = .cplFull ∧ cplRoom (queueGet t q) = false ∧ (!(queueGet t q).buf.isEmpty) = true)
            (fun t => { queueGet t q with st := .cplFull })

/-- A started command is the queue's only one: it runs, and the queue looks for more work. -/
theorem startCmd_lone (s : State) (q : Nat) (d : List Byte) (h : queueTurn s q d) (p : Nat → Bool) (hp : p (dCmd d) = true)
    (own : State → List Byte → Bool) (ho : own s d = true) (f : Started → State) :
    startCmd s q p own f = queueWake (f ⟨(queueGet s q).started, d, begunState s q d⟩) q := by
  obtain ⟨v, hq, m, hd, cl, u, pr, en, st, bf, rn, room, _⟩ := h
  have ql : qLive s = true := by simp [qLive, inRun, m, hd]
  have cc : clearCovers s q = false := by simp [clearCovers, cl]
  have oo : orderOk (queueGet s q) d = true := by simp [orderOk, rn]
  have en' : (!(queueGet s q).en) = false := by rw [en]; rfl
  unfold startCmd begunState begun
  simp only [bf, en', ql, cc, hp, oo, ho, room, Bool.not_true, Bool.or_self, Bool.false_eq_true, if_false, st, rn, List.nil_append]

/-- What a completion leaves alone: all of the complex but the bytes of memory, what it has sent, its queues, its free values, its
energy and the energy counters among its registers. -/
def sameBut (s t : State) : Prop :=
  uncached t ∧ { t with tiers := s.tiers, regs := s.regs, out := s.out, host := s.host, qsu := s.qsu, free := s.free, pwr := s.pwr } = s ∧
  { t.tiers with bytes := s.tiers.bytes, enc := s.tiers.enc } = s.tiers ∧ { t.qsu with queues := s.qsu.queues } = s.qsu ∧
  t.host.hold = s.host.hold ∧ ∀ a, a < 0x71000 ∨ 0x74000 ≤ a → regGet t a = regGet s a

theorem sameBut.refl (s : State) (u : uncached s) : sameBut s s := ⟨u, rfl, rfl, rfl, rfl, fun _ _ => rfl⟩

theorem sameBut.trans {s t v : State} (a : sameBut s t) (b : sameBut t v) : sameBut s v := by
  refine ⟨b.1, ?_, ?_, ?_, b.2.2.2.2.1.trans a.2.2.2.2.1, fun x h => (b.2.2.2.2.2 x h).trans (a.2.2.2.2.2 x h)⟩
  · have h := congrArg (fun x : State => { x with
      tiers := s.tiers, regs := s.regs, out := s.out, host := s.host, qsu := s.qsu, free := s.free, pwr := s.pwr }) b.2.1
    exact h.trans a.2.1
  · have h := congrArg (fun x : Tiers => { x with bytes := s.tiers.bytes, enc := s.tiers.enc }) b.2.2.1
    exact h.trans a.2.2.1
  · have h := congrArg (fun x : Qsu => { x with queues := s.qsu.queues }) b.2.2.2.1
    exact h.trans a.2.2.2.1

theorem justSends.but {s t : State} (h : justSends s t) (u : uncached s) : sameBut s t := by
  have w := h.same u
  have q : t.qsu = s.qsu := by have := congrArg State.qsu h.1; exact this
  have r : t.regs = s.regs := by have := congrArg State.regs h.1; exact this
  have f : t.free = s.free := by have := congrArg State.free h.1; exact this
  have p : t.pwr = s.pwr := by have := congrArg State.pwr h.1; exact this
  refine ⟨w.1, ?_, by rw [h.2.1], by rw [q], w.2.2.2.2, fun a _ => by simp only [regGet, r]⟩
  calc { t with tiers := s.tiers, regs := s.regs, out := s.out, host := s.host, qsu := s.qsu, free := s.free, pwr := s.pwr }
      = { t with tiers := s.tiers, regs := s.regs, out := s.out, host := s.host, qsu := s.qsu } := by rw [← f, ← p]
    _ = s := w.2.1

theorem regPut_but (s : State) (off v : Nat) (u : uncached s) (h : 0x71000 ≤ off ∧ off < 0x74000) : sameBut s (regPut s off v) :=
  ⟨u, rfl, rfl, rfl, rfl, fun a g => regGet_regPut_ne s v (by omega)⟩

theorem words_length (l : List Nat) : (words l).length = 8 * l.length := by
  have e : ∀ n x, (leBytes n x).length = n := by
    intro n; induction n with
    | zero => intro x; rfl
    | succ n ih => intro x; simp [leBytes, ih]
  induction l with
  | nil => rfl
  | cons a l ih => simp only [words, List.flatMap_cons, List.length_append, e] at *; rw [ih]; simp; omega

theorem queueGet_queues (s t : State) (q : Nat) (h : t.qsu.queues = s.qsu.queues) : queueGet t q = queueGet s q := by
  simp only [queueGet, h]

theorem sendMsix_same (s : State) (v : Nat) (u : uncached s) :
    (sendMsix s v).qsu = s.qsu ∧ (sendMsix s v).tiers = s.tiers ∧ sameBut s (sendMsix s v) := by
  unfold sendMsix; dsimp only
  split
  · exact ⟨rfl, rfl, sameBut.refl s u⟩
  · split
    · have j : justSends s (emit (linkWake s 0) (.msix (v % 2048) (msixGet s v).addr (msixGet s v).data)) :=
        (linkWake_sent s 0).trans ⟨rfl, rfl, rfl⟩
      exact ⟨by have := congrArg State.qsu j.1; exact this, j.2.1, j.but u⟩
    · exact ⟨rfl, rfl, u, rfl, rfl, rfl, rfl, fun _ _ => rfl⟩

theorem frozen_regPut (s : State) (b v : Nat) (h : 0x20008 ≠ b) : frozen (regPut s b v) = frozen s := by
  simp only [frozen, mode, regField, regGet, regPut, tabGet_tabSet_ne _ _ _ h]

/-- What charging energy leaves alone. -/
theorem chargeQueue_but (s : State) (q e : Nat) (u : uncached s) (hq : q < 1024) :
    sameBut s (chargeQueue s q e) ∧ frozen (chargeQueue s q e) = frozen s ∧ (chargeQueue s q e).qsu = s.qsu := by
  unfold chargeQueue
  dsimp only
  have f : ∀ (t : State) p, frozen { t with pwr := p } = frozen t := fun t p => rfl
  have pw : ∀ (t : State) p, sameBut s t → sameBut s { t with pwr := p } :=
    fun t p h => h.trans ⟨h.1, rfl, rfl, rfl, rfl, fun _ _ => rfl⟩
  split
  · refine ⟨pw _ _ ((regPut_but s _ _ u (by omega)).trans (regPut_but (regPut s _ _) _ _ u (by omega))), ?_, rfl⟩
    rw [f, frozen_regPut _ _ _ (by omega), frozen_regPut _ _ _ (by omega)]
  · refine ⟨pw _ _ (regPut_but s _ _ u (by omega)), ?_, rfl⟩
    rw [f, frozen_regPut _ _ _ (by omega)]

/-- A stored record reads back (R336). -/
theorem recordStore_line (s : State) (q : Nat) (rec : List Byte) (irq : Bool) (u : uncached s) (hd : s.host.hold = false)
    (fr : frozen s = false) (n : rec.length = 64) (a : (queueGet s q).cpl % 64 = 0)
    (b : (queueGet s q).cpl + 64 * 2 ^ (queueGet s q).clog ≤ 2 ^ 44) :
    hostBytes (recordStore s q rec irq) ((queueGet s q).cpl + 64 * ((queueGet s q).completed % 2 ^ (queueGet s q).clog)) 64 = rec ∧
    sameBut s (recordStore s q rec irq) ∧ (recordStore s q rec irq).qsu = s.qsu ∧
    (∀ x m, x + m ≤ 2 ^ 45 → tabBytes (recordStore s q rec irq).tiers.bytes x m = tabBytes s.tiers.bytes x m) ∧
    ∀ x, x < 2 ^ 39 → tabGet (fun _ => 0) (recordStore s q rec irq).tiers.enc x = tabGet (fun _ => 0) s.tiers.enc x := by
  have lt : (queueGet s q).completed % 2 ^ (queueGet s q).clog < 2 ^ (queueGet s q).clog := Nat.mod_lt _ (Nat.two_pow_pos _)
  generalize hk : queueGet s q = k at *
  have w := floorWrite_line s (k.cpl + 64 * (k.completed % 2 ^ k.clog)) rec (by omega) (by omega) n u
  unfold recordStore
  simp only [hd, fr, hk, Bool.or_self, Bool.false_eq_true, if_false]
  have rd : hostBytes (floorWrite s (k.cpl + 64 * (k.completed % 2 ^ k.clog)) rec) (k.cpl + 64 * (k.completed % 2 ^ k.clog)) 64 = rec := by
    rw [w]; unfold hostBytes; rw [← n]; exact tabBytes_tabPut_same _ _ _
  have sw : sameBut s (floorWrite s (k.cpl + 64 * (k.completed % 2 ^ k.clog)) rec) := by
    have j := (d2h_sent s 4 (floorPA (k.cpl + 64 * (k.completed % 2 ^ k.clog)) / 64)).but u
    rw [w]; exact j.trans ⟨⟨j.1.1, u.2⟩, rfl, by rw [(d2h_sent s _ _).2.1], rfl, rfl, fun _ _ => rfl⟩
  have qq : (floorWrite s (k.cpl + 64 * (k.completed % 2 ^ k.clog)) rec).qsu = s.qsu := by
    rw [w]; have := congrArg State.qsu (d2h_sent s 4 (floorPA (k.cpl + 64 * (k.completed % 2 ^ k.clog)) / 64)).1; exact this
  have ot : ∀ x m, x + m ≤ 2 ^ 45 → tabBytes (floorWrite s (k.cpl + 64 * (k.completed % 2 ^ k.clog)) rec).tiers.bytes x m =
      tabBytes s.tiers.bytes x m := by
    intro x m h; rw [w]; exact tabBytes_tabPut_other _ _ _ _ _ (by unfold floorPA; omega)
  have en : ∀ x, x < 2 ^ 39 → tabGet (fun _ => 0) (floorWrite s (k.cpl + 64 * (k.completed % 2 ^ k.clog)) rec).tiers.enc x =
      tabGet (fun _ => 0) s.tiers.enc x := by
    intro x h
    have ne : x ≠ floorPA (k.cpl + 64 * (k.completed % 2 ^ k.clog)) / 64 := by unfold floorPA; omega
    rw [w]; exact tabGet_tabSet_ne (fun _ => 0) s.tiers.enc 0 ne
  generalize floorWrite s _ rec = t at *
  have ms := sendMsix_same t k.vec sw.1
  split
  · refine ⟨?_, sw.trans ms.2.2, ms.1.trans qq, ?_, ?_⟩
    · unfold hostBytes; rw [ms.2.1]; exact rd
    · rw [ms.2.1]; exact ot
    · rw [ms.2.1]; exact en
  · exact ⟨rd, sw, qq, ot, en⟩

/-- The record of a completion (R336, R339): one 64-byte line of the ring, and COMPLETED; the canopy and the understory keep
their bytes. -/
theorem writeRecord_line (s : State) (q status cmd seq ctx : Nat) (irq : Bool) (d0 d1 e : Nat) (u : uncached s) (hq : q < 1024) (hd : s.host.hold = false)
    (fr : frozen s = false) (a : (queueGet s q).cpl % 64 = 0) (b : (queueGet s q).cpl + 64 * 2 ^ (queueGet s q).clog ≤ 2 ^ 44) :
    let t := writeRecord s q status cmd seq ctx irq d0 d1 e
    (∃ el en, hostBytes t ((queueGet s q).cpl + 64 * ((queueGet s q).completed % 2 ^ (queueGet s q).clog)) 64 =
      words [phaseOf (queueGet s q).completed (queueGet s q).clog * 2 ^ 63 + status * 2 ^ 55 + q * 2 ^ 45 + seq * 2 ^ 30 + cmd * 2 ^ 25 + ctx, el, en, d0, d1, 0, 0, 0]) ∧
    t.qsu.queues = tabSet (fun _ => queue0) s.qsu.queues q { queueGet s q with completed := (queueGet s q).completed + 1 } ∧
    sameBut s t ∧
    (∀ x m, x + m ≤ 2 ^ 45 → tabBytes t.tiers.bytes x m = tabBytes s.tiers.bytes x m) ∧
    ∀ x, x < 2 ^ 39 → tabGet (fun _ => 0) t.tiers.enc x = tabGet (fun _ => 0) s.tiers.enc x := by
  unfold writeRecord
  dsimp only
  generalize hr : words _ = rec
  have n : rec.length = 64 := by rw [← hr, words_length]; rfl
  have dd : (drawFree s).2 = { s with free := s.free + 1 } := rfl
  rw [dd]
  have b0 : sameBut s { s with free := s.free + 1 } := ⟨u, rfl, rfl, rfl, rfl, fun _ _ => rfl⟩
  have te : (chargeQueue { s with free := s.free + 1 } q e).tiers = s.tiers := by
    unfold chargeQueue; dsimp only; split <;> rfl
  obtain ⟨b1, f1, q1⟩ := chargeQueue_but { s with free := s.free + 1 } q e u hq
  generalize chargeQueue _ q _ = x at *
  have e1 : queueGet x q = queueGet s q := queueGet_queues _ _ q (by rw [q1])
  obtain ⟨h1, h2, h3, h4, h5⟩ := recordStore_line x q rec irq b1.1 (b1.2.2.2.2.1.trans hd) (f1.trans fr) n (by rw [e1]; exact a) (by rw [e1]; exact b)
  have e2 : queueGet (recordStore x q rec irq) q = queueGet s q := (queueGet_queues x _ q (by rw [h3])).trans e1
  rw [e1] at h1
  rw [te] at h4 h5
  generalize recordStore x q rec irq = y at *
  refine ⟨⟨(drawFree s).1, e % 2 ^ 64, ?_⟩, ?_, ?_, h4, h5⟩
  · exact h1.trans hr.symm
  · simp only [queueSet]
    rw [e2, h3, q1]
  · exact b0.trans (b1.trans (h2.trans ⟨h2.1, rfl, rfl, rfl, rfl, fun _ _ => rfl⟩))

/-- The completion of a queue's one running command. -/
theorem finish_lone {n m fj : Nat} (s u : State) (q : Nat) (d : List Byte) (h : queueTurn s q d) (un : uncached u) (hu : u.host.hold = false)
    (rn : (queueGet u q).run = [⟨(queueGet s q).started, d, n, m, fj⟩]) (k : { queueGet u q with run := [] } = { begun (queueGet s q) d with run := [] })
    (co : u.cores = s.cores) (mo : u.movers = s.movers) (la : u.qsu.launches = s.qsu.launches)
    (fr : frozen u = false) (status d0 d1 : Nat) :
    completes s (finish u [] q (queueGet s q).started status d0 d1) q d status d0 d1 ∧
    sameBut u (finish u [] q (queueGet s q).started status d0 d1) ∧
    (finish u [] q (queueGet s q).started status d0 d1).qsu.queues =
      tabSet (fun _ => queue0) u.qsu.queues q { begun (queueGet s q) d with run := [], completed := (queueGet s q).completed + 1 } ∧
    (∀ x m, x + m ≤ 2 ^ 45 → tabBytes (finish u [] q (queueGet s q).started status d0 d1).tiers.bytes x m = tabBytes u.tiers.bytes x m) ∧
    ∀ x, x < 2 ^ 39 → tabGet (fun _ => 0) (finish u [] q (queueGet s q).started status d0 d1).tiers.enc x =
      tabGet (fun _ => 0) u.tiers.enc x := by
  obtain ⟨v, hq, md, hd, cl, us, pr, en, st, bf, r0, room, al, bd⟩ := h
  have rr : runOf u q (queueGet s q).started = some ⟨(queueGet s q).started, d, n, m, fj⟩ := by simp [runOf, rn]
  have e : finish u [] q (queueGet s q).started status d0 d1 = writeRecord (queueSet u q { begun (queueGet s q) d with run := [] }) q
      status (dCmd d) (dSeq d) (dCtx d) (bitOf (dHead d) 40) d0 d1 (fj / fjPerUj) := by
    simp only [finish, List.isEmpty_nil, Bool.true_or, if_true, finishNow, rr]
    rw [← k, show (queueGet u q).run.filter (fun x => x.idx != (queueGet s q).started) = [] by simp [rn]]
  rw [e]
  have g : queueGet (queueSet u q { begun (queueGet s q) d with run := [] }) q = { begun (queueGet s q) d with run := [] } := by
    simp [queueGet, queueSet]
  have sb : sameBut u (queueSet u q { begun (queueGet s q) d with run := [] }) := ⟨un, rfl, rfl, rfl, rfl, fun _ _ => rfl⟩
  obtain ⟨w1, w2, w3, w5, w6⟩ := writeRecord_line (queueSet u q { begun (queueGet s q) d with run := [] }) q status (dCmd d) (dSeq d) (dCtx d)
    (bitOf (dHead d) 40) d0 d1 (fj / fjPerUj) sb.1 hq hu fr (by rw [g]; exact al) (by rw [g]; exact bd)
  have w4 := sb.trans w3
  rw [g] at w1 w2
  replace w2 := w2.trans (tabSet_tabSet _ _ _ _ _)
  generalize writeRecord _ _ _ _ _ _ _ _ _ _ = t at *
  refine ⟨⟨⟨?_, ?_⟩, ?_, ?_, ?_⟩, w4, w2, w5, w6⟩
  · exact w1
  · simp only [queueGet, w2, tabGet_tabSet_same]
    rfl
  · have := congrArg State.cores w4.2.1; exact this.trans co
  · have := congrArg State.movers w4.2.1; exact this.trans mo
  · have := congrArg Qsu.launches w4.2.2.2.1; exact this.trans la

/-- A command of a queue whose effect detects no error, followed by the queue's search for more work. -/
theorem queue_runs (q : Nat) (s : State) (d : List Byte) (h : queueTurn s q d) (p : Nat → Bool) (hp : p (dCmd d) = true)
    (own : State → List Byte → Bool) (ho : own s d = true) (f : Started → State) (t : State)
    (e : f ⟨(queueGet s q).started, d, begunState s q d⟩ = t) (u : uncached t) (er : t.errs = s.errs)
    (pe : t.pending = s.pending) : withUnit 1024 q (runLive s (fun s => startCmd s q p own f)) = .next (queueWake t q) := by
  have w := queueWake_same t q u
  refine withUnit_calm 1024 q s _ _ h.2.1 h.1 ?_ ?_ ?_
  · rw [startCmd_lone s q d h p hp own ho f, e]
  · have := congrArg State.errs w.2.1; exact this.trans er
  · have := congrArg State.pending w.2.1; exact this.trans pe

end Sys2Proof.Machine
end

