-- ==== Sys2Proof/Laws/TenSlots.lean ====
section
/-! SUPPORT. A tensor instruction at a fresh core: it enters the tensor queue and starts, or its operands raise an exception. -/

namespace Sys2Proof.Machine

/-- With every entry started, nothing starts. -/
theorem tStart_none (s : State) (c : Nat) (h : ∀ e ∈ (coreGet s c).tq, e.started = true) : tStart s c = s := by
  have : (coreGet s c).tq.find? (fun e => !e.started) = none := by
    rw [List.find?_eq_none]; intro e m; simp [h e m]
  simp only [tStart, this]

theorem tStart_fold (s : State) (c n : Nat) (h : ∀ e ∈ (coreGet s c).tq, e.started = true) :
    (List.range n).foldl (fun s _ => tStart s c) s = s := by
  induction n with
  | zero => rfl
  | succ n ih => rw [List.range_succ, List.foldl_append, ih]; exact tStart_none s c h

theorem tStartAll_started (s : State) (c : Nat) (h : ∀ e ∈ (coreGet s c).tq, e.started = true) : tStartAll s c = s := by
  unfold tStartAll
  split
  · rfl
  · exact tStart_fold s c 16 h

/-- The first entry starts alone. -/
theorem tStartAll_first (s : State) (c : Nat) (e : TEntry) (t : State) (h : (coreGet s c).tq = [e]) (ht : tStart s c = t)
    (g : ∀ x ∈ (coreGet t c).tq, x.started = true) : tStartAll s c = t := by
  have r : List.range 16 = 0 :: (List.range 15).map (· + 1) := rfl
  have fold : ∀ l : List Nat, l.foldl (fun s _ => tStart s c) t = t := by
    intro l
    induction l with
    | nil => rfl
    | cons a l ih => rw [List.foldl_cons, tStart_none t c g]; exact ih
  simp only [tStartAll, h, List.isEmpty_cons, Bool.false_eq_true, if_false, r, List.foldl_cons, ht]
  exact fold _

/-- A tensor slot alone at a fresh core issues: its entry is queued. -/
theorem tryIssue_ten (s : State) (c : Nat) (k : Core) (w : Nat) (hk : coreGet s c = k) (h : HoldsOne k (slotPut slots0 .ten w))
    (lg : tLegal w = true) (np : vOp w ≠ 18) (g : guardOk k.a (vG w) = true) (q : tQueued w = true) (n : k.pc + 1 < k.klen) :
    tryIssue s c = coreSet s c { k with
      pc := k.pc + 1, fetched := [], tq := [tEntry k.a k.tqn w k.pc none], tqn := k.tqn + 1 } := by
  have bm : barMet k = true := by simp [barMet, h.bar]
  have act : tAct k.a (slotPut slots0 .ten w) = w := by rw [tAct_ten, if_pos g]
  have z0 : scOp 0 = 0 := by simp [scOp, bitsOf]
  have v0 : vOp 0 = 0 := by simp [vOp, bitsOf]
  have lgl : bundleLegal (slotPut slots0 .ten w) = true := by
    simp [bundleLegal, slotPut, slots0, lg, scLegal, vLegal, z0, v0, pairLegal, meets, scWrites, scVWrites, vSWrites, vWrites, np, bitsOf]
  have rdy : issueReady k 0 0 w = true := by
    obtain ⟨a, b, d, e⟩ := h.still
    simp [issueReady, regsReady, pendS, pendV, a, b, meets, plateReady, sideReady, acqBusy, z0]
  have pl : scPlateOk k.a 0 = true := by simp [scPlateOk, scPlateRead, z0]
  have vp : vPlateOk k.a 0 = true := by simp [vPlateOk, v0]
  have eff : bundleEffect k.pc k.a 0 0 w = k.a := by
    simp [bundleEffect, scEffect, scLate, z0, effNop, vEffect, v0, np]
  have be : bundleEntry k 0 0 w = [tEntry k.a k.tqn w k.pc none] := by simp [bundleEntry, q]
  have isl : scIsLoad 0 = false := by simp [scIsLoad, z0]
  have ism : scIsMem 0 = false := by simp [scIsMem, z0]
  simp only [tryIssue, hk, h.fetched, h.st, h.ended, bm, ne_eq, not_true_eq_false, decide_false, Bool.not_true, Bool.or_self,
    Bool.false_eq_true, if_false, barEnd, h.bar, if_true, act, scAct_ten, vAct_ten, lgl, rdy, z0, pl, vp, ism]
  simp [issueBundle, hk, eff, be, h.fetched, h.tq, z0, n, h.wtry, h.wok, h.st, h.loads, h.sb, h.hints]

/-- Everything about a fresh core's tensor instruction that has been queued, as it goes on to start. -/
theorem pumpCore_queued (s : State) (c : Nat) (b : Slots) (h : HoldsOne (coreGet s c) b) (t : State) (ht : tryIssue s c = t)
    (f : (coreGet t c).fetched = []) (u : State) (hu : pumpStep t c = u) (uf : (coreGet u c).fetched = [])
    (us : ∀ e ∈ (coreGet u c).tq, e.started = true) : pumpCore s c = coreFinish u c := by
  have hs : pumpStep s c = t := by rw [pumpStep_still s c h.still, ht]
  simp only [pumpCore, h.fetched, List.length_singleton, pumpLoop, hs, f, hu, uf, if_true]
  simp only [List.ne_cons_self, if_false]
  rw [tStartAll_started u c us]

/-- A round at a core with one started entry that is no chain instruction. -/
theorem pumpStep_started (t : State) (c : Nat) (e : TEntry) (u : State) (h : (coreGet t c).tq = [e]) (hu : tStart t c = u)
    (ue : ∀ x ∈ (coreGet u c).tq, x.started = true ∧ tUnit x.w ≠ 4) (uf : (coreGet u c).fetched = []) (ul : (coreGet u c).loads = [])
    (ub : (coreGet u c).sb = []) (uh : (coreGet u c).hints = []) : pumpStep t c = u := by
  have cr : chainRunning (coreGet u c) = none := by
    rw [chainRunning, List.find?_eq_none]; intro x m; simp [(ue x m).2]
  have ct : ∀ n, chainTurn n u c = u := by intro n; cases n <;> simp [chainTurn, cr]
  simp only [pumpStep, tStartAll_first t c e u h hu (fun x m => (ue x m).1), ct, abandonRecv, cr, uh, List.isEmpty_nil, if_true,
    sendLoads_still u c ul, drainSb_still u c ub, tryIssue_none u c uf]

/-- A tensor instruction of the array, weight, drain, tally or recorder unit whose operands pass: it starts. -/
theorem giveSlot_ten (s : State) (h : Hdr) (w : Nat) (l : h.last = true) (f : freshCore s h.core) (lg : tLegal w = true)
    (g : guardOk (coreGet s h.core).a (vG w) = true) (q : tQueued w = true) (n : (coreGet s h.core).pc + 1 < (coreGet s h.core).klen)
    (u4 : tUnit w ≠ 4) (u5 : tUnit w ≠ 5)
    (ck : tCheck (coreGet s h.core).a (tEntry (coreGet s h.core).a (coreGet s h.core).tqn w (coreGet s h.core).pc none) = 0) :
    giveSlot s h .ten w = coreSet s h.core { coreGet s h.core with
      pc := (coreGet s h.core).pc + 1,
      tq := [{ tEntry (coreGet s h.core).a (coreGet s h.core).tqn w (coreGet s h.core).pc none with started := true }],
      tqn := (coreGet s h.core).tqn + 1 } := by
  have H := HoldsOne.of_free (b := slotPut slots0 .ten w) f.2.1
  have ff := (coreFree_iff _).1 f.2.1
  have np : vOp w ≠ 18 := by intro e; simp [tQueued, e] at q
  have t1 := tryIssue_ten (coreSet s h.core { coreGet s h.core with fetched := [slotPut slots0 .ten w] }) h.core _ w
    (coreGet_coreSet_same _ _ _) H lg np g q n
  rw [coreSet_coreSet] at t1
  obtain ⟨E, hE⟩ : ∃ E, tEntry (coreGet s h.core).a (coreGet s h.core).tqn w (coreGet s h.core).pc none = E := ⟨_, rfl⟩
  have Ew : E.w = w := by rw [← hE]; rfl
  have Es : E.started = false := by rw [← hE]; rfl
  rw [hE] at ck ⊢
  obtain ⟨K, hK⟩ : ∃ K : Core, { coreGet s h.core with pc := (coreGet s h.core).pc + 1, tq := [E], tqn := (coreGet s h.core).tqn + 1 } = K := ⟨_, rfl⟩
  have t2 : tryIssue (coreSet s h.core { coreGet s h.core with fetched := [slotPut slots0 .ten w] }) h.core = coreSet s h.core K := by
    rw [t1, ← hK, ← hE]
    congr 1
    have := ff.2.2.1
    generalize coreGet s h.core = k at *
    cases k; simp only at this; subst this; rfl
  have kq : K.tq = [E] := by rw [← hK]
  have ka : K.a = (coreGet s h.core).a := by rw [← hK]
  have ts : tStart (coreSet s h.core K) h.core = coreSet s h.core { K with tq := [{ E with started := true }] } := by
    simp [tStart, kq, Es, tStartCheck, Ew, u4, u5, ka, ck]
  have ps := pumpStep_started (coreSet s h.core K) h.core E _ (by rw [coreGet_coreSet_same]; exact kq) ts
    (by rw [coreGet_coreSet_same]; intro x m; simp only [List.mem_singleton] at m; subst m; exact ⟨rfl, by rw [Ew]; exact u4⟩)
    (by rw [coreGet_coreSet_same, ← hK]; exact ff.2.2.1) (by rw [coreGet_coreSet_same, ← hK]; exact ff.2.2.2.2.1)
    (by rw [coreGet_coreSet_same, ← hK]; exact ff.2.2.2.2.2.1) (by rw [coreGet_coreSet_same, ← hK]; exact ff.2.2.2.2.2.2.1)
  have pc := pumpCore_queued _ h.core (slotPut slots0 .ten w) (by rw [coreGet_coreSet_same]; exact H) _ t2
    (by rw [coreGet_coreSet_same, ← hK]; exact ff.2.2.1) _ ps (by rw [coreGet_coreSet_same, ← hK]; exact ff.2.2.1)
    (by rw [coreGet_coreSet_same]; intro x m; simp only [List.mem_singleton] at m; subst m; rfl)
  rw [coreFinish_running _ _ (by rw [coreGet_coreSet_same, ← hK]; exact ff.1) (by rw [coreGet_coreSet_same, ← hK]; exact ff.2.1)] at pc
  rw [giveSlot_pump s h .ten w l f, pc, ← hK]

/-- The start of a tensor instruction whose operands do not pass (R116, R162): it is discarded, and the core stops issue. -/
theorem tStart_bad (s : State) (c x : Nat) (K : Core) (E : TEntry) (hK : coreGet s c = K) (kq : K.tq = [E]) (es : E.started = false)
    (eo : vOp E.w ≠ 15) (hx : tCheck K.a E = x) (x0 : x ≠ 0) (st : K.st = .running) (l : K.loads = []) (b : K.sb = []) :
    tStart s c = coreSet s c { K with
      tq := [], st := .stopping, fetched := [], latch := slots0, exc := x, excB := E.bundle, rep := false, bar := 0,
      waitTry := false, waitOk := false, ended := false } := by
  have tc : tStartCheck s c E = x := by simp [tStartCheck, hK, hx, x0]
  have td : tDiscard s c (fun y => ([] : List TEntry).contains y) = coreSet s c { K with tq := [] } := by
    simp [tDiscard, hK, kq, eo]
  simp only [tStart, hK, kq, List.find?_cons, es, Bool.not_false, List.takeWhile_cons, bne_self_eq_false, Bool.false_eq_true, if_false,
    List.any_nil, tc, x0, ne_eq, not_false_eq_true, if_true, td]
  simp only [raiseExc, coreGet_coreSet_same, st, if_true, stopIssue, haltIssue, sbDrainAll, l, b, List.filter_nil, List.map_nil, coreSet_coreSet]

/-- A round at a core whose tensor queue empties as it starts. -/
theorem pumpStep_emptied (s t : State) (c : Nat) (h : tStartAll s c = t) (st : coreStill (coreGet t c)) (f : (coreGet t c).fetched = []) :
    pumpStep s c = t := by
  obtain ⟨a, b, d, e⟩ := st
  simp only [pumpStep, h, chainTurn_still _ t c a, abandonRecv_still t c a, e, List.isEmpty_nil, if_true, sendLoads_still t c b,
    drainSb_still t c d, tryIssue_none t c f]

/-- A tensor instruction whose operands do not pass: the core stops with the exception. -/
theorem giveSlot_tenBad (s : State) (h : Hdr) (w : Nat) (l : h.last = true) (f1 : freshCore s h.core) (lg : tLegal w = true)
    (g : guardOk (coreGet s h.core).a (vG w) = true) (q' : tQueued w = true) (n : (coreGet s h.core).pc + 1 < (coreGet s h.core).klen)
    (nq : vOp w ≠ 15) (k : Core) (hk : coreGet s h.core = k) (x : Nat) (hx : tCheck k.a (tEntry k.a k.tqn w k.pc none) = x) (x0 : x ≠ 0) :
    giveSlot s h .ten w = coreSet s h.core { k with
      pc := k.pc + 1, tqn := k.tqn + 1, st := .stopped, exc := x, excB := k.pc, rep := false, lastNf := k.a.nflags } := by
  have np : vOp w ≠ 18 := by intro e; simp [tQueued, e] at q'
  have H := HoldsOne.of_free (b := slotPut slots0 .ten w) f1.2.1
  have ff := (coreFree_iff _).1 f1.2.1
  have hl := f1.2.2
  have t1 := tryIssue_ten (coreSet s h.core { coreGet s h.core with fetched := [slotPut slots0 .ten w] }) h.core _ w
    (coreGet_coreSet_same _ _ _) H lg np g q' n
  rw [giveSlot_pump s h .ten w l f1]
  have H2 : HoldsOne (coreGet (coreSet s h.core { coreGet s h.core with fetched := [slotPut slots0 .ten w] }) h.core) (slotPut slots0 .ten w) := by
    rw [coreGet_coreSet_same]; exact H
  rw [hk] at t1 ff hl H2 ⊢
  dsimp only at t1
  obtain ⟨E, hE⟩ : ∃ E, tEntry k.a k.tqn w k.pc none = E := ⟨_, rfl⟩
  have Ew : E.w = w := by rw [← hE]; rfl
  have Es : E.started = false := by rw [← hE]; rfl
  have Eb : E.bundle = k.pc := by rw [← hE]; rfl
  rw [hE] at t1 hx
  rw [coreSet_coreSet] at t1
  have t3 := tStart_bad (coreSet s h.core { k with pc := k.pc + 1, fetched := [], tq := [E], tqn := k.tqn + 1 }) h.core x _ E
    (coreGet_coreSet_same _ _ _) rfl Es (by rw [Ew]; exact nq) hx x0 ff.1 ff.2.2.2.2.1 ff.2.2.2.2.2.1
  rw [coreSet_coreSet] at t3
  have sa := tStartAll_first _ h.core E _ (by rw [coreGet_coreSet_same]) t3 (by rw [coreGet_coreSet_same]; simp)
  have ps := pumpStep_emptied _ _ h.core sa (by rw [coreGet_coreSet_same]; exact ⟨rfl, ff.2.2.2.2.1, ff.2.2.2.2.2.1, ff.2.2.2.2.2.2.1⟩)
    (by rw [coreGet_coreSet_same])
  rw [pumpCore_queued _ h.core (slotPut slots0 .ten w) H2 _ t1 (by rw [coreGet_coreSet_same]) _ ps (by rw [coreGet_coreSet_same])
    (by rw [coreGet_coreSet_same]; simp)]
  rw [coreFinish_stopping _ _ _ (coreGet_coreSet_same _ _ _) rfl x0 rfl (by exact ff.2.2.2.2.2.1) (by exact ff.2.2.2.2.1) rfl rfl, coreSet_coreSet]
  refine congrArg (coreSet s h.core) ?_
  clear ps sa t3 t1 hE hx H H2 hk
  rw [Eb]
  obtain ⟨h1, h2, h3, h4, h5, h6, h7, h8, h9, h10⟩ := ff
  cases k
  dsimp only at h1 h2 h3 h4 h5 h6 h7 h8 h9 h10 hl ⊢
  subst h1 h2 h3 h4 h5 h6 h7 h8 h9 h10 hl
  rfl

/-- A chain instruction of one word that can be done: the loop does it and stops. -/
theorem chainLoop_one (n : Nat) (s t : State) (c : Nat) (e : TEntry) (hq : (coreGet s c).tq = [e]) (st : e.started = true)
    (u : tUnit e.w = 4) (pr : e.prog = 0) (one : chCount e.w = 1) (ht : chainWord s c e = t)
    (tq : (coreGet t c).tq = [{ e with prog := 1 }]) : chainLoop (n + 2) s c = t := by
  have r1 : chainRunning (coreGet s c) = some e := by simp [chainRunning, hq, st, u]
  have r2 : chainRunning (coreGet t c) = some { e with prog := 1 } := by simp [chainRunning, tq, st, u]
  have w2 : chainWord t c { e with prog := 1 } = t := by simp [chainWord, one]
  simp [chainLoop, r1, r2, ht, w2, chainProg, pr]

/-- A core's turn in which its chain instruction goes on, with no chain instruction upstream. -/
theorem chainTurn_word (n : Nat) (s t : State) (c : Nat) (e : TEntry) (rs : chainRunning (coreGet s c) = some e)
    (lp : chainLoop 257 s c = t) (pg : chainProg (coreGet t c) ≠ chainProg (coreGet s c))
    (up : vOp e.w = 12 ∨ ∃ d, (launchOf t c).bind (fun l => chNbr l c (chSlot e.w) true) = some (.core d) ∧ (coreGet t d).tq = []) :
    chainTurn (n + 1) s c = t := by
  simp only [chainTurn, rs, lp, pg, or_false]
  rcases up with o | ⟨d, o, dq⟩
  · simp [o]
  · rw [o]; simp only [chainTurn_still _ t d dq, ite_self]

/-- A chain instruction of one word at a fresh core, whose word can be done at once: it starts and does its word. -/
theorem giveSlot_chain (s t : State) (h : Hdr) (w : Nat) (l : h.last = true) (f1 : freshCore s h.core) (lg : tLegal w = true)
    (g : guardOk (coreGet s h.core).a (vG w) = true) (n : (coreGet s h.core).pc + 1 < (coreGet s h.core).klen)
    (u : tUnit w = 4) (one : chCount w = 1) (k : Core) (hk : coreGet s h.core = k)
    (ck : tCheck k.a (tenEntry k w) = 0) (bd : chBound s h.core (tenEntry k w) = true)
    (ht : chainWord (coreSet s h.core (tenQueued k w 0)) h.core { tenEntry k w with started := true, prog := 0 } = t)
    (K : Core) (hK : coreGet t h.core = K) (kq : K.tq = [{ tenEntry k w with started := true, prog := 1 }]) (kf : K.fetched = [])
    (kl : K.loads = []) (kb : K.sb = []) (kh : K.hints = []) (ks : K.st = .running) (ke : K.ended = false)
    (up : vOp w = 12 ∨ ∃ d, (launchOf t h.core).bind (fun l => chNbr l h.core (chSlot w) true) = some (.core d) ∧ (coreGet t d).tq = []) :
    giveSlot s h .ten w = t := by
  have vo : vOp w ≠ 0 ∧ vOp w ≠ 18 := by
    constructor <;> intro e <;> simp [tUnit, e] at u
  have H := HoldsOne.of_free (b := slotPut slots0 .ten w) f1.2.1
  have ff := (coreFree_iff _).1 f1.2.1
  have t1 := tryIssue_ten (coreSet s h.core { coreGet s h.core with fetched := [slotPut slots0 .ten w] }) h.core _ w
    (coreGet_coreSet_same _ _ _) H lg vo.2 g (by simp [tQueued, vo]) n
  rw [giveSlot_pump s h .ten w l f1]
  have H2 : HoldsOne (coreGet (coreSet s h.core { coreGet s h.core with fetched := [slotPut slots0 .ten w] }) h.core) (slotPut slots0 .ten w) := by
    rw [coreGet_coreSet_same]; exact H
  rw [hk] at t1 ff H2 ⊢
  dsimp only at t1
  rw [coreSet_coreSet] at t1
  obtain ⟨E, hE⟩ : ∃ E, tEntry k.a k.tqn w k.pc none = E := ⟨_, rfl⟩
  have hE' : tenEntry k w = E := hE
  have Ew : E.w = w := by rw [← hE]; rfl
  have Es : E.started = false := by rw [← hE]; rfl
  have Ep : E.prog = 0 := by rw [← hE]; rfl
  rw [hE] at t1
  rw [hE'] at ck bd ht kq
  have t1' : tryIssue (coreSet s h.core { k with fetched := [slotPut slots0 .ten w] }) h.core =
      coreSet s h.core { k with pc := k.pc + 1, tq := [E], tqn := k.tqn + 1 } := by
    rw [t1]
    refine congrArg (coreSet s h.core) ?_
    have := ff.2.2.1
    cases k; simp only at this; subst this; rfl
  have bd' : chBound (coreSet s h.core { k with pc := k.pc + 1, tq := [E], tqn := k.tqn + 1 }) h.core E = true := bd
  have ts : tStart (coreSet s h.core { k with pc := k.pc + 1, tq := [E], tqn := k.tqn + 1 }) h.core = coreSet s h.core (tenQueued k w 0) := by
    simp only [tStart, coreGet_coreSet_same, List.find?_cons, Es, Bool.not_false, List.takeWhile_cons, bne_self_eq_false,
      Bool.false_eq_true, if_false, List.any_nil, tStartCheck, ck, ne_eq, not_true_eq_false, Ew, u, bd', List.map_cons, List.map_nil,
      if_true, coreSet_coreSet, tenQueued, hE']
    simp [Ep]
  have sa := tStartAll_first _ h.core E _ (by rw [coreGet_coreSet_same]) ts (by rw [coreGet_coreSet_same]; simp [tenQueued])
  have q2 : (coreGet (coreSet s h.core (tenQueued k w 0)) h.core).tq = [{ E with started := true, prog := 0 }] := by
    rw [coreGet_coreSet_same, tenQueued, hE']
  have lp := chainLoop_one 255 _ t h.core _ q2 rfl (by rw [← u, ← Ew]) rfl (by rw [← one, ← Ew]) ht (by rw [hK, kq])
  have rs : chainRunning (coreGet (coreSet s h.core (tenQueued k w 0)) h.core) = some { E with started := true, prog := 0 } := by
    rw [chainRunning, q2]; simp [Ew, u]
  have rt : chainRunning (coreGet t h.core) = some { E with started := true, prog := 1 } := by
    rw [chainRunning, hK, kq]; simp [Ew, u]
  have ct : chainTurn 2400 (coreSet s h.core (tenQueued k w 0)) h.core = t := by
    have pg : chainProg (coreGet t h.core) ≠ chainProg (coreGet (coreSet s h.core (tenQueued k w 0)) h.core) := by
      unfold chainProg; rw [rs, rt]; simp
    exact chainTurn_word 2399 _ t h.core _ rs lp pg (by simpa [Ew] using up)
  have ab : abandonRecv t h.core = t := by
    unfold abandonRecv; dsimp only; rw [rt]; simp [hK, ks]
  have ps : pumpStep (coreSet s h.core { k with pc := k.pc + 1, tq := [E], tqn := k.tqn + 1 }) h.core = t := by
    simp only [pumpStep, sa, ct, ab, hK, kh, List.isEmpty_nil, if_true, sendLoads_still t h.core (by rw [hK, kl]),
      drainSb_still t h.core (by rw [hK, kb]), tryIssue_none t h.core (by rw [hK, kf])]
  rw [pumpCore_queued _ h.core (slotPut slots0 .ten w) H2 _ t1' (by rw [coreGet_coreSet_same]; exact ff.2.2.1) _ ps (by rw [hK, kf])
    (by rw [hK, kq]; simp)]
  exact coreFinish_running _ _ (by rw [hK, ks]) (by rw [hK, ke])

end Sys2Proof.Machine
end

