-- ==== Sys2Proof/Tests/Slice0.lean ====
section
/-! SUPPORT. The model's own tests: WellFormed's refusals, and a witness for the hypotheses of every statement. -/

namespace Sys2Proof.Tests

open Sys2Proof.Machine

set_option Elab.async false

/-- A page of the canopy that root 0 maps from address 0, pinned, readable and writable. -/
def leafA : Leaf := ⟨0, 0, false, 2 ^ 53 + 2 ^ 52 + 2 ^ 51 + 2 ^ 26⟩

/-- A core in a LAUNCH with nothing outstanding, at bundle 4 of 100. -/
def coreA : Core := { core0 with
  st := .running, klen := 100, pc := 4, tbuf := [leafA], a := { arch0 with
    sreg := [(2, 5), (3, 0x8000000000000007), (4, 1), (6, 0x180000), (7, 64)], preg := 0x24, nflags := 0x41 } }

/-- The complex after reset with one core as given. -/
def onCore (k : Core) : State := { State.reset with cores := [(0, k)] }

/-- The header of a slot that ends core 0's bundle. -/
def hLast : Hdr := ⟨0, true⟩

/-- A scalar slot's fields: rd, rs1, rs2 and the low bits. -/
def sc (rd rs1 rs2 low : Nat) : BitVec 26 := BitVec.ofNat 26 (rd * 2 ^ 17 + rs1 * 2 ^ 12 + rs2 * 2 ^ 7 + low)

/-- An access slot's fields: rd, rs1, width, sign extension and offset. -/
def sm (rd rs1 width sx off : Nat) : BitVec 26 := BitVec.ofNat 26 (rd * 2 ^ 17 + rs1 * 2 ^ 12 + width * 2 ^ 9 + sx * 2 ^ 8 + off)

/-- A predicate slot's fields: pd, condition, rs1, rs2 or immediate. -/
def pc (pd cond rs1 low : Nat) : BitVec 26 := BitVec.ofNat 26 (pd * 2 ^ 19 + cond * 2 ^ 16 + rs1 * 2 ^ 11 + low)

/-- A vector slot's fields: vd, va, vb, vc and the low bits. -/
def ve (vd va vb vc low : Nat) : BitVec 42 := BitVec.ofNat 42 (vd * 2 ^ 33 + va * 2 ^ 28 + vb * 2 ^ 23 + vc * 2 ^ 18 + low)

theorem witness_ScalarArithmetic :
    (∀ p ∈ [(0, sc 0 0 0 0), (2, sc 5 2 15 127), (3, sc 5 2 15 127), (4, sc 5 2 0 1), (5, sc 5 2 0 1), (6, sc 5 2 0 63), (7, sc 5 2 0 63),
      (8, sc 5 2 0 63), (9, sc 5 31 31 127), (10, sc 5 31 31 127)], soleSc (onCore coreA) hLast p.1 p.2) ∧
    (∀ fn < 15, soleSc (onCore coreA) hLast 1 (sc 5 2 3 fn)) ∧ soleSc (onCore coreA) hLast 1 (sc 5 0 0 15) := by
  unfold soleSc soleSlot Live
  and_intros <;> decide +kernel

theorem witness_PredicatesAndBranches :
    (∀ cond < 6, soleSc (onCore coreA) hLast 11 (pc 1 cond 2 (3 * 2 ^ 6)) ∧ soleSc (onCore coreA) hLast 12 (pc 1 cond 2 2047)) ∧
    (∀ fn < 4, soleSc (onCore coreA) hLast 13 (BitVec.ofNat 26 (2 ^ 19 + 2 * 2 ^ 16 + 3 * 2 ^ 13 + fn * 2 ^ 11))) ∧
    soleSc (onCore coreA) hLast 14 (BitVec.ofNat 26 (99 * 2 ^ 11)) ∧ soleSc (onCore coreA) hLast 15 (BitVec.ofNat 26 (99 * 2 ^ 11 + 2 * 2 ^ 6)) ∧
    soleSc (onCore coreA) hLast 15 (BitVec.ofNat 26 (99 * 2 ^ 11 + 4 * 2 ^ 6)) ∧ sget coreA.a 2 - 1 ≠ 0 ∧ sget coreA.a 4 - 1 = 0 ∧
    soleSc (onCore coreA) hLast 16 (BitVec.ofNat 26 (5 * 2 ^ 17 + 99 * 2 ^ 6)) ∧ soleSc (onCore coreA) hLast 17 (sc 0 2 0 0) := by
  unfold soleSc soleSlot Live
  and_intros <;> decide +kernel

theorem witness_PlateFlagsAndStipples :
    (∀ w < 4, soleSc (onCore coreA) hLast 18 (sm 8 2 w 0 1) ∧ soleSc (onCore coreA) hLast 19 (sm 8 2 w 0 1)) ∧
    (∀ w < 3, soleSc (onCore coreA) hLast 18 (sm 8 2 w 1 1)) ∧
    (∀ w < 2, soleSc (onCore coreA) hLast 18 (sm 8 7 (4 + w) 0 1) ∧ soleSc (onCore coreA) hLast 19 (sm 8 7 (4 + w) 0 1)) ∧
    soleSc (onCore coreA) hLast 28 (sc 5 0 0 0) ∧ soleSc (onCore coreA) hLast 29 (sc 0 0 0 127) ∧ soleSc (onCore coreA) hLast 30 (sc 0 2 0 63) ∧
    soleSc (onCore coreA) hLast 31 (sc 0 2 0 63) ∧ ∀ i < 4, soleSc (onCore coreA) hLast 32 (BitVec.ofNat 26 (5 * 2 ^ 17 + i * 2 ^ 6 + 63)) := by
  unfold soleSc soleSlot Live
  and_intros <;> decide +kernel

theorem witness_SlotsWaitForTheirBundle :
    slotOf (.addi ⟨0, false⟩ (sc 5 2 0 1)) = some (⟨0, false⟩, .sc, slotWord 26 2 (sc 5 2 0 1)) ∧ Live (onCore coreA) ∧
    (coreGet (onCore coreA) 0).st = .running ∧ (coreGet (onCore coreA) 0).ended = false := by
  unfold Live
  and_intros <;> decide +kernel

/-- Guard 1 is false on `coreA`. -/
def guarded : BitVec 26 := BitVec.ofNat 26 (2 ^ 22 + 5 * 2 ^ 17 + 2 * 2 ^ 12 + 1)

theorem witness_FalseGuardsDoNothing :
    slotOf (.addi hLast guarded) = some (hLast, .sc, slotWord 26 2 guarded) ∧ Live (onCore coreA) ∧
    loneReady (onCore coreA) 0 .sc (slotWord 26 2 guarded) = true ∧ guardOk coreA.a (slotGuard .sc (slotWord 26 2 guarded)) = false := by
  unfold Live
  and_intros <;> decide +kernel

theorem witness_IllegalBundlesRaise :
    slotOf (.nop hLast 1) = some (hLast, .sc, slotWord 26 0 1) ∧ Live (onCore coreA) ∧ freshCore (onCore coreA) 0 ∧
    bundleLegal (slotPut slots0 .sc (slotWord 26 0 1)) = false := by
  unfold Live freshCore
  and_intros <;> decide +kernel

theorem witness_KernelEndsAndTraps :
    (∀ p ∈ [(62, sc 0 0 0 0), (63, sc 0 0 0 0), (25, sc 0 0 0 3), (14, BitVec.ofNat 26 (100 * 2 ^ 11)), (17, sc 0 6 0 0), (18, sm 8 6 3 0 0),
      (19, sm 8 6 3 0 0)], freshSc (onCore coreA) hLast p.1 p.2) ∧ coreA.pc + 1 < coreA.klen ∧ coreA.klen ≤ fld (BitVec.ofNat 26 (100 * 2 ^ 11)) 21 11 ∧
    coreA.klen ≤ (sget coreA.a 6).toNat ∧ 0x180000 < slotVa (onCore coreA) hLast (sm 8 6 3 0 0) / 8 * 8 + 8 := by
  unfold freshSc Live freshCore
  and_intros <;> decide +kernel

theorem witness_PlateWaits :
    let f := sc 0 2 4 0
    let g := sc 0 2 0 0
    (Live (onCore coreA) ∧ coreFree coreA = true ∧ bundleLegal (slotPut coreA.latch .sc (slotWord 26 26 f)) = true ∧
      vPlateOk coreA.a (vAct coreA.a coreA.latch) = true ∧ leNat (plateGet coreA.a 0 8) < (sget coreA.a 4).toNat) ∧
    (freshSc (onCore coreA) hLast 26 g ∧ (sget coreA.a 0).toNat ≤ leNat (plateGet coreA.a 0 8)) ∧
    (let k := { coreA with fetched := [slotPut slots0 .sc (slotWord 26 26 f)], waitTry := true }
     Live (onCore k) ∧ coreFree { k with fetched := [], waitTry := false } = true ∧ scLegal (slotWord 26 26 f) = true ∧ scLegal (slotWord 26 26 g) = true ∧
       guardOk k.a (fld f 25 22) = true) := by
  unfold freshSc Live freshCore
  and_intros <;> decide +kernel

theorem witness_LoadsStart :
    (∀ op ∈ [20, 21, 22], freshSc (onCore coreA) hLast op (sm 8 7 3 0 1)) ∧ accessOk coreA (slotVa (onCore coreA) hLast (sm 8 7 3 0 1)) 8 false leafA ∧
    freshSc (onCore coreA) hLast 27 (sc 0 7 0 0) ∧ accessOk coreA 64 8 false leafA := by
  unfold freshSc accessOk Live freshCore
  and_intros <;> decide +kernel

theorem witness_StoresAreBuffered :
    (∀ w < 4, freshSc (onCore coreA) hLast 23 (sm 8 7 w 0 0)) ∧ (∀ w ∈ [2, 3], freshSc (onCore coreA) hLast 24 (sm 8 7 w 0 0)) ∧
    (∀ w < 4, accessOk coreA (slotVa (onCore coreA) hLast (sm 8 7 w 0 0)) (smSize w) true leafA) ∧
    (∀ w ∈ [4, 5], freshSc (onCore coreA) hLast 23 (sm 8 0 w 0 1)) ∧ (∀ w ∈ [4, 5], accessOk coreA (slotVa (onCore coreA) hLast (sm 8 0 w 0 1)) (smSize w) true leafA) ∧
    freshSc (onCore coreA) hLast 24 (sm 8 0 4 0 1) := by
  unfold freshSc accessOk Live freshCore
  and_intros <;> decide +kernel

/-- `coreA` with vector registers: v1 and v2 numbers of both signs, v3 the lane index. -/
def coreV : Core := { coreA with a := { coreA.a with vreg := [
  (1, (List.range 64).map (fun i => BitVec.ofNat 32 (0x3F000000 + 0x00812345 * i))),
  (2, (List.range 64).map (fun i => BitVec.ofNat 32 (0xBF800000 + 0x00654321 * i))),
  (3, (List.range 64).map (fun i => BitVec.ofNat 32 i))] } }

theorem witness_VectorArithmetic :
    soleVec (onCore coreV) hLast 0 0 ∧
    (∀ op ∈ [1, 2, 3, 5, 6], soleVec (onCore coreV) hLast op (ve 4 1 2 0 (15 * 2 ^ 14))) ∧
    (∀ op ∈ [4, 10], soleVec (onCore coreV) hLast op (ve 4 1 2 3 (15 * 2 ^ 14))) ∧
    (∀ op ∈ [7, 8, 11, 12, 13, 14, 15], soleVec (onCore coreV) hLast op (ve 4 1 0 0 (15 * 2 ^ 14))) ∧
    (∀ c < 6, soleVec (onCore coreV) hLast 9 (ve 4 1 2 0 (15 * 2 ^ 14 + c * 2 ^ 10))) := by
  unfold soleVec soleSlot Live
  and_intros <;> decide +kernel

theorem witness_VectorIntegers :
    soleVec (onCore coreV) hLast 19 (ve 4 3 0 0 0) ∧ (∀ op ∈ [20, 21, 22, 23, 24, 25, 26, 27, 28], soleVec (onCore coreV) hLast op (ve 4 1 2 0 0)) ∧
    (∀ c < 6, soleVec (onCore coreV) hLast 29 (ve 4 1 2 0 (c * 2 ^ 10))) := by
  unfold soleVec soleSlot Live
  and_intros <;> decide +kernel

theorem witness_VectorMovement :
    (∀ p ∈ [(30, ve 4 1 3 0 0), (32, ve 4 2 0 0 0), (33, ve 4 1 0 0 (63 * 2 ^ 12)), (34, ve 4 3 0 7 0), (35, ve 3 1 3 7 (2 ^ 17)), (35, ve 0 1 3 7 0)],
      soleVec (onCore coreV) hLast p.1 p.2) ∧ (∀ c < 6, soleVec (onCore coreV) hLast 31 (ve 4 1 0 0 (c * 2 ^ 10))) := by
  unfold soleVec soleSlot Live
  and_intros <;> decide +kernel

theorem witness_VectorConversions :
    (∀ rm < 3, soleVec (onCore coreV) hLast 16 (ve 4 1 0 0 (rm * 2 ^ 9))) ∧ soleVec (onCore coreV) hLast 16 (ve 4 1 0 0 (2 ^ 11 + 2 * 2 ^ 9 + 63 * 2 ^ 2)) ∧
    (∀ op ∈ [17, 18, 36], soleVec (onCore coreV) hLast op (ve 4 1 0 0 0)) ∧ soleVec (onCore coreV) hLast 18 (ve 4 1 0 0 (2 * 2 ^ 9 + 63 * 2 ^ 2)) ∧
    soleVec (onCore coreV) hLast 36 (ve 4 1 2 0 (3 * 2 ^ 16)) ∧ soleVec (onCore coreV) hLast 37 (ve 4 1 2 0 (3 * 2 ^ 16)) ∧
    soleVec (onCore coreV) hLast 37 (ve 4 1 2 0 (2 * 2 ^ 14 + 63 * 2 ^ 8)) ∧ soleVec (onCore coreV) hLast 38 (ve 4 1 2 0 0) ∧
    (∀ n ∈ [0, 1, 15], soleVec (onCore coreV) hLast 39 (ve 4 0 0 0 (n * 2 ^ 14 + 63 * 2 ^ 8))) := by
  unfold soleVec soleSlot Live
  and_intros <;> decide +kernel

/-- A tensor slot that names no scalar register: every operand is zero. -/
def te (n : Nat) : BitVec 42 := BitVec.ofNat 42 n

theorem witness_TensorStarts :
    (∀ op ∈ [0, 1, 2, 3, 4, 5, 6, 7, 8, 9, 10, 11, 16, 17], freshTen (onCore coreA) hLast op 0) ∧
    (∀ op ∈ [1, 2, 4, 5, 7], tCheck coreA.a (tenEntry coreA (slotWord 42 op 0)) = 0) ∧
    freshTen (onCore coreA) hLast 1 (te (6 * 2 ^ 26)) ∧ tCheck coreA.a (tenEntry coreA (slotWord 42 1 (te (6 * 2 ^ 26)))) ≠ 0 := by
  unfold freshTen Live freshCore
  and_intros <;> decide +kernel

/-- `coreV` with one tensor instruction started. -/
def coreT (w : Nat) : Core := { coreV with tq := [{ tenEntry coreV w with started := true }] }

theorem witness_TensorCompletes :
    (∀ op ∈ [1, 2, 3, 4, 5, 6, 7, 8, 9, 10, 11, 16, 17], tenRunning (onCore (coreT (op * 2 ^ 42))) 0 { tenEntry coreV (op * 2 ^ 42) with started := true }) ∧
    tenRunning (onCore (coreT (10 * 2 ^ 42 + 2 ^ 28))) 0 { tenEntry coreV (10 * 2 ^ 42 + 2 ^ 28) with started := true } := by
  unfold tenRunning Live
  and_intros <;> decide +kernel

/-- The SRT slot of tag 255, and the STP of v1 that its bundle holds. -/
def stpV1 : BitVec 26 := sm 1 0 5 0 1

theorem witness_RecorderStores :
    let k := { coreV with latch := slotPut slots0 .sc (slotWord 26 19 stpV1) }
    let g := te (255 * 2 ^ 30)
    Live (onCore k) ∧ coreFree k = true ∧ fld stpV1 11 9 = 5 ∧ bundleReady k (slotPut k.latch .ten (slotWord 42 18 g)) = true ∧
      guardOk k.a (fld stpV1 25 22) = true ∧ guardOk k.a (fld g 41 38) = true := by
  unfold Live
  and_intros <;> decide +kernel

/-- A LAUNCH of queue 0 on cores 0 to 2, whose chain slot 0 runs through the grove, and slot 1 to the ports of mask 0x20. -/
def launchA : Launch :=
  { q := 0, idx := 0, comp := 0, groves := [0], cores := [0, 1, 2], loaded := true,
    chains := leBytes 16 1 ++ leBytes 16 (2 ^ 109 + 7 * 2 ^ 68 + 3) ++ List.replicate 224 0, first := none, cut := false, streamAbort := false, links := [] }

/-- Core 1 between its neighbours, in that LAUNCH. -/
def chained (k : Core) : State :=
  { State.reset with cores := [(0, { coreA with logical := 0 }), (1, k), (2, { coreA with logical := 2 })], qsu := { qsu0 with launches := [launchA] } }

/-- Core 1 with one word received on slot 0. -/
def coreW : Core := { coreA with logical := 1, recv := [(0, [77])] }

theorem witness_ChainWords :
    let s := chained coreW
    let h : Hdr := ⟨1, true⟩
    launchOf s 1 = some launchA ∧ chNbr launchA 1 0 false = some (.core 2) ∧ chNbr launchA 1 0 true = some (.core 0) ∧
      freshTen s h 12 (te (2 ^ 26)) ∧ freshTen s h 13 (te (2 ^ 26)) ∧ freshTen s h 14 (te (2 ^ 26)) ∧ recvGet coreW 0 = [77] ∧
      (coreGet s 0).tq = [] ∧ fld (te (2 ^ 26)) 15 15 = 0 ∧
      (recvGet (coreGet s 2) 0).length + (wireGet (coreGet s 2) 0).length < 64 := by
  unfold freshTen Live freshCore
  and_intros <;> decide +kernel

theorem witness_MoverIssue :
    freshTen (onCore coreA) hLast 15 (te (3 * 2 ^ 36)) ∧ fld (te (3 * 2 ^ 36)) 35 35 = 0 ∧ moverServing (onCore coreA) 3 = true := by
  unfold freshTen Live freshCore
  and_intros <;> decide +kernel

/-- A load of a width into register 8 at the start of the second page's line 0, its data come or not. -/
def loadA (width : Nat) (sx : Bool) (got : Option (List Byte × Bool)) : Load :=
  { tag := 9, kind := .plain, rd := 8, width := width, sx := sx, va := 0, pa := 2 ^ 26, sel := 0, epoch := 0, bundle := 2, sent := true, sbn := 0,
    waits := [], split := false, parts := (List.range (max 1 (smSize width / 64))).map (fun j => ⟨2 ^ 20 + j, got, true⟩) }

/-- A line of 64 bytes whose first has its top bit set. -/
def lineA : List Byte := 0x85 :: (List.range 63).map (BitVec.ofNat 8)

/-- The complex whose core 0 has that load outstanding. -/
def loading (l : Load) : State := onCore { coreA with loads := [l] }

theorem witness_LoadsReturn :
    (∀ w < 6, ∀ sx ∈ [false, true], Live (loading (loadA w sx (some (lineA, false)))) ∧
      coreFree { coreA with loads := [] } = true ∧ (secondHalf (loading (loadA w sx (some (lineA, false)))) 0 (loadA w sx (some (lineA, false)))).parts.all
        (fun p => (p.got.getD ([], true)).2 == false) = true) ∧
    (loadA 3 false none).parts.any (fun p => p.got.isNone) = true ∧ Live (loading (loadA 3 false none)) ∧
    (let l := loadA 3 false (some (lineA, true))
     Live (loading l) ∧ l.parts.all (fun p => p.got.isSome) = true ∧ (secondHalf (loading l) 0 l).parts.any (fun p => (p.got.getD ([], false)).2) = true) := by
  unfold Live
  and_intros <;> decide +kernel

/-- A store-buffer entry of a line of the canopy, or of the floor. -/
def entryA (line mask : Nat) (draining req : Bool) : SbEntry :=
  { id := 3, line := line, mask := mask, data := lineA, dev := false, rel := false, sel := 0, epoch := 0, bundle := 2, draining := draining, ldn := 0,
    req := req, bad := false }

/-- The complex whose core 0 has that entry in its store buffer, and whose grove holds a line in M if `own`. -/
def storing (e : SbEntry) (own : Bool) : State :=
  { onCore { coreA with sb := [e] } with coh := if own then { coh0 with l2 := [(l2key 0 e.line 0, ⟨e.line / 4096, 2, false, false, 0, false, 0, List.replicate 64 7⟩)] }
    else coh0 }

/-- The same with no credit in the host pool. -/
def noPool (s : State) : State := regSet s 0xB0000 14 0 0

theorem witness_StoresPerform :
    oneStore (storing (entryA 5 3 false false) true) 0 (entryA 5 3 false false) ∧ l2st (storing (entryA 5 3 false false) true) 0 5 = 2 ∧
    oneStore (noPool (storing (entryA (2 ^ 39) 3 false false) false)) 0 (entryA (2 ^ 39) 3 false false) ∧
    hostRoom (noPool (storing (entryA (2 ^ 39) 3 false false) false)) (2 ^ 39) = false ∧
    oneStore (storing (entryA 5 3 false false) false) 0 (entryA 5 3 false false) ∧ l2st (storing (entryA 5 3 false false) false) 0 5 = 0 ∧
    mshrOf (storing (entryA 5 3 false false) false) 0 5 = none ∧ lineLeaving (storing (entryA 5 3 false false) false) 5 = false ∧
    hostRoom (storing (entryA 5 3 false false) false) 5 = true ∧
    (∀ line ∈ [5, 2 ^ 39], ∀ on ∈ [0, 1],
      let s := regPut (storing (entryA line 3 true true) true) 0x60010 on
      oneStore s 0 (entryA line 3 true true) ∧ l2find s 0 line = some 0 ∧ (l2get s 0 line 0).st = 2 ∧ l1On s 0 = (on == 1)) := by
  unfold oneStore Live
  and_intros <;> decide +kernel

/-- The WAITM slot whose address register is s7. -/
def waitS7 : BitVec 26 := sc 0 7 0 0

/-- Port 5 UP in Ride mode, with all its credits. -/
def port5 (s : State) : State := portSet (regSet s 0x82800 1 0 1) 5 { port0 with st := 2 }

theorem witness_CoreEvents :
    (let k := { coreA with st := .stopped, exc := 3 }
     Live (onCore k) ∧ launchOf (onCore k) 0 = none) ∧
    (let k := { coreA with st := .stopped, exc := 3 }
     let s := { onCore k with qsu := { qsu0 with launches := [{ launchA with cores := [0] }] } }
     Live s ∧ coreFree { k with st := .running } = true ∧ launchOf s 0 = some { launchA with cores := [0] }) ∧
    Live (onCore { coreA with st := .idle }) ∧ Live (onCore coreA) ∧ coreFree coreA = true ∧
    (wireGet { coreA with wire := [(15, [5, 6])] } 15 = [5, 6] ∧ coreFree { coreA with wire := [(15, [5, 6])] } = true) ∧
    (let s := port5 (chained { coreA with cell := [(1, [9])] })
     Live s ∧ launchOf s 1 = some launchA ∧ chNbr launchA 0 1 false = some (.ride 32 7) ∧ maskUp s 32 = [5] ∧ portReady (portGet s 5) 1) ∧
    (let k := { coreA with fetched := [slotPut slots0 .sc (slotWord 26 27 waitS7)], waitTry := true }
     Live (onCore k) ∧ coreFree { k with fetched := [], waitTry := false } = true ∧ accessOk k 64 8 false leafA) := by
  unfold accessOk portReady Live
  and_intros <;> decide +kernel

/-- A descriptor of index 0 with its command, body words and CONTEXT 7. -/
def descA (cmd : Nat) (body : List Nat) : List Byte :=
  words ((2 ^ 63 + cmd * 2 ^ 43 + 7) :: body ++ List.replicate (14 - body.length) 0 ++ [2 ^ 63])

/-- Queue 0 of compartment 0 and root 0, privileged or not, with its rings and its slot on the floor. -/
def queueA (priv : Bool) : Queue :=
  { queue0 with en := true, priv := priv, comp := 0, rlog := 4, clog := 4, ring := 0x10000, cpl := 0x20000, slot := 0x30000, st := .idle,
                seen := leBytes 8 1 ++ List.replicate 56 0 }

/-- The complex in RUN whose host has published one descriptor on that queue; root 0 maps its first page. -/
def published (k : Queue) : State :=
  let s := regSet State.reset 0x20008 18 16 3
  { queueSet s 0 k with
    tiers := { s.tiers with bytes := tabPut [] (floorPA 0x30000) (leBytes 8 1) }, xlt := { s.xlt with cache := [leafA] } }

/-- The same with a descriptor fetched. -/
def turnS (priv : Bool) (d : List Byte) : State := published { queueA priv with fetched := 1, tail := 1, buf := [d] }

/-- Bytes that the canopy holds. -/
def holding (s : State) (a : Nat) (l : List Byte) : State := { s with tiers := { s.tiers with bytes := tabPut s.tiers.bytes a l } }

/-- One core of grove 0 that waits for a kernel, in compartment 0. -/
def staffed (s : State) : State := { regPut s 0x30100 1 with cores := [(0, { core0 with st := .idle })] }

/-- The ranger serves (R453). -/
def ranging (s : State) : State := regSet s 0x20020 3 0 2

theorem witness_QueueCommandsAreChecked :
    (∀ c < 13, dCmd (descA c []) = c ∧ queueTurn (ranging (turnS false (descA c []))) 0 (descA c []) ∧ rangerUp (ranging (turnS false (descA c []))) = true) ∧
    moveOwn 0 (turnS false (descA 1 [])) (descA 1 []) = true ∧ launchOwn 0 (turnS false (descA 2 [])) (descA 2 []) = true ∧
    fenceOwn 0 true (turnS false (descA 3 [])) (descA 3 []) = true ∧
    (∀ c ∈ [0, 1, 2, 3, 4, 5, 6, 7, 8, 9, 10, 11, 12], (descA c (List.replicate 14 (2 ^ 64 - 1))).length = 128 ∧ bodyOk (descA c (List.replicate 14 (2 ^ 64 - 1))) = false) ∧
    (∀ p ∈ [(5, [1]), (6, [0]), (7, []), (8, [0, 0, 1]), (9, [1]), (10, [1, 0, 1]), (11, [0, 1]), (12, [])],
      bodyOk (descA p.1 p.2) = true ∧ needsPriv (queueA false) (descA p.1 p.2) = true) ∧
    queueTurn (turnS false ((descA 0 []).take 8)) 0 ((descA 0 []).take 8) := by
  unfold queueTurn uncached Live
  and_intros <;> decide +kernel

/-- Root 0's header at 2^20: generation 5, and its first table. -/
def headed (s : State) : State :=
  let s := regPut s 0x41000 (2 ^ 63 + 2 ^ 20)
  holding s (2 ^ 20) (leBytes 8 5 ++ leBytes 8 (2 ^ 21))

theorem witness_QueueCommandsComplete :
    let turn := fun (c : Nat) (b : List Nat) => queueTurn (turnS true (descA c b)) 0 (descA c b) ∧ bodyOk (descA c b) = true
    turn 0 [] ∧ (turn 12 [1088] ∧ winValid (turnS true (descA 12 [1088])) 1088 0 = true) ∧
    (turn 12 [1089] ∧ winValid (turnS true (descA 12 [1089])) 1089 0 = false) ∧
    (turn 9 [0, 5] ∧ regField (turnS true (descA 9 [0, 5])) 0x41000 63 63 = 0) ∧
    (let s := headed (turnS true (descA 9 [0, 5]))
     queueTurn s 0 (descA 9 [0, 5]) ∧ regField s 0x41000 63 63 = 1 ∧ l1Ok (fieldAt (paRead s 0 (rootHdr s 0) 64).1 8 8) = true ∧
       fieldAt (paRead s 0 (rootHdr s 0) 64).1 0 8 = 5 ∧ regGet s 0x42000 < 5) ∧
    (let s := headed (turnS true (descA 9 [0, 4]))
     queueTurn s 0 (descA 9 [0, 4]) ∧ fieldAt (paRead s 0 (rootHdr s 0) 64).1 0 8 ≠ 4) ∧
    (∀ p ∈ [(3, 5), (3, 0), (4, 5), (4, 0)], turn p.1 [64, p.2] ∧
      (let s := turnS true (descA p.1 [64, p.2])
       cachedAt s 0 64 leafA ∧ eR leafA.ent = true ∧ eW leafA.ent = true ∧ eSel leafA.ent = 0 ∧ leafPA leafA 64 = 2 ^ 26 + 64 ∧
         rangeHeld s qsuSrc 0 (2 ^ 26 + 64) 8 true = false ∧ leNat (paRead s 0 (2 ^ 26 + 64) 8).1 = 0 ∧ (∀ r ∈ s.qsu.queues, r.1 = 0 ∨ r.2.run = []))) := by
  unfold queueTurn uncached Live cachedAt
  and_intros <;> decide +kernel

theorem witness_QueueCommandsThatGoOn :
    (let d := descA 10 [0, 3, 2]
     let s := { turnS false d with cores := [(0, coreA), (7, { coreA with loads := [loadA 3 false none] })] }
     queueTurn s 0 d ∧ bodyOk d = true ∧ s.xlt.drains.length < 3 ∧ epochBusy s 0 = true ∧ epochBusy (turnS false d) 5 = false) ∧
    (∀ b ∈ [[67583, 2], [67582, 2, 1], [0, 1, 0]], queueTurn (turnS true (descA 11 b)) 0 (descA 11 b) ∧ bodyOk (descA 11 b) = true) ∧
    resting (turnS true (descA 11 [67582, 2, 1])) := by
  unfold queueTurn uncached Live resting
  and_intros <;> decide +kernel

theorem witness_ClearingsStep :
    (∀ c ∈ [0, 1, 2, 3], let d := descA 5 [c]
      let s := turnS true d
      queueTurn s 0 d ∧ bodyOk d = true ∧ resting s ∧ s.movers = [] ∧ s.qsu.launches = [] ∧ s.host.defer = [] ∧
        (∀ p ∈ s.qsu.queues, p.1 = 0 ∨ p.2.run = [])) ∧
    (∀ n ∈ [1, 5, 6], let s := { State.reset with qsu := { qsu0 with clears := [⟨1023, 4, true, List.range 48, n, false⟩] } }
      Live s ∧ s.qsu.clears = [⟨1023, 4, true, List.range 48, n, false⟩]) := by
  unfold queueTurn uncached Live resting
  and_intros <;> decide +kernel

/-- That queue before its fetch: what its slot holds, and its ring's first descriptor. -/
def ringS (tail head : Nat) (d : List Byte) (k : Queue) : State :=
  let s := published k
  { s with tiers := { s.tiers with bytes := tabPut (tabPut s.tiers.bytes (floorPA 0x30000) (leBytes 8 tail ++ leBytes 8 head)) (floorPA 0x10000) d } }

theorem witness_QueuesFetch :
    let k := { queueA true with seen := [] }
    let tailOf := fun (s : State) => fieldAt (slotLine s (queueGet s 0)) 0 8
    let headOf := fun (s : State) => fieldAt (slotLine s (queueGet s 0)) 8 8
    (∀ p ∈ [(0, 0), (1, 0), (1, 2 ^ 64 - 16), (17, 0), (0, 2 ^ 64 - 17)], queueFetches (ringS p.1 p.2 (descA 0 []) k) 0 ∧
      tailOf (ringS p.1 p.2 (descA 0 []) k) = p.1 ∧ headOf (ringS p.1 p.2 (descA 0 []) k) = p.2) ∧
    descOk (descRead (ringS 1 0 (descA 0 []) k) k 0).1 0 4 = true ∧
    (queueFetches (ringS 1 0 [] k) 0 ∧ descOk (descRead (ringS 1 0 [] k) k 0).1 0 4 = false) ∧
    queueFetches (ringS 1 0 (descA 0 []) { k with tail := 1 }) 0 ∧
    (let s := regSet (ringS 1 0 (descA 0 []) k) 0x30000 15 0 100
     queueFetches s 0 ∧ regField s 0x30000 15 0 ≠ 0 ∧ s.qsu.evOn = false ∧ s.qsu.queues = [(0, k)] ∧ slotLine s k ≠ k.seen) ∧
    (let k := queueA true
     let s := regSet (ringS 1 0 (descA 0 []) k) 0x30000 15 0 100
     queueFetches s 0 ∧ s.qsu.queues = [(0, k)] ∧ slotLine s k = k.seen) := by
  unfold queueFetches uncached Live
  and_intros <;> decide +kernel

theorem witness_MovesAndLaunches :
    (let d := descA 1 [128, 3]
     queueTurn (turnS false d) 0 d ∧ bodyOk d = true ∧ moveSel (turnS false d) (queueA false) d = none) ∧
    (let d := descA 1 [128, 255]
     let s := staffed (turnS false d)
     queueTurn s 0 d ∧ bodyOk d = true ∧ moveSel s (queueGet s 0) d = some 0 ∧ moverFree s 0 = true ∧
       readArg (leaveClear (begunState s 0 d) 0) 0 128 128 = (some (List.replicate 128 0), leaveClear (begunState s 0 d) 0)) ∧
    (let d := descA 2 [64, 128, 0, 3]
     queueTurn (turnS false d) 0 d ∧ bodyOk d = true ∧ compCores (turnS false d) 0 = [] ∧ launchOwn 0 (turnS false d) d = true) ∧
    (∀ p ∈ [(0, 3), (0, 2049), (256, 3)],
      let d := descA 2 [64, 128, p.1, p.2]
      let s := staffed (turnS false d)
      let b := leaveClear (begunState s 0 d) 0
      queueTurn s 0 d ∧ bodyOk d = true ∧ resting s ∧ launchOwn 0 s d = true ∧ compCores s 0 ≠ [] ∧
        (readArg b 0 64 (16 * p.2)).1.isSome = true ∧ argLeaf b 0 128 = (some leafA, b) ∧ readArg b 0 256 256 = (some (List.replicate 256 0), b)) ∧
    (let d := descA 2 [64, 128, 256, 3]
     let s := holding (staffed (turnS false d)) (2 ^ 26 + 256) (leBytes 256 9)
     let b := leaveClear (begunState s 0 d) 0
     queueTurn s 0 d ∧ bodyOk d = true ∧ readArg b 0 256 256 = (some (leBytes 256 9), b) ∧ chainOk b [0] (leBytes 256 9) = false ∧
       chainOk b [0] (List.replicate 256 0) = true) ∧
    (let l := { launchA with cores := [0] }
     let s := staffed (turnS false (descA 2 [64, 128, 0, 3]))
     queueTurn s 0 (descA 2 [64, 128, 0, 3]) ∧ bodyOk (descA 2 [64, 128, 0, 3]) = true ∧ l.q = 0 ∧ l.idx = (queueGet s 0).started ∧ l.cut = false ∧ l.loaded = true ∧ l.links = [] ∧ l.cores.all (coreDone s) = true ∧ s.qsu.launches = [] ∧
       (coreGet { s with cores := [(0, { core0 with st := .loading })] } 0).st = .loading ∧ s.pwr.rampUsed = 0) := by
  unfold queueTurn uncached Live resting
  and_intros <;> decide +kernel

/-- Queue 0 at a clearing, with the ranger, a storage target over port 4, and slots of 1 GiB there. -/
def proving (d : List Byte) : State :=
  let s := regSet (ranging (turnS true d)) 0x90020 9 0 1
  let s := regPut (regPut s 0x90010 (2 ^ 63 + 3 * 2 ^ 40)) 0x8C010 (7 * 2 ^ 20)
  let s := holding s (7 * 2 ^ 20 + 0x40000 + 128 * 3) (leBytes 8 (6 * 2 ^ 61 + 4 * 2 ^ 56))
  let s := portSet (regSet s 0x82000 1 0 2) 4 { port0 with st := 2 }
  { s with prf := { s.prf with atClear := [0] } }

/-- The same paired over port 9. -/
def pairing (d : List Byte) : State :=
  let s := portSet (regSet (proving d) 0x84800 1 0 3) 9 { port0 with st := 2 }
  { s with prf := { s.prf with pair := 2 } }

/-- What every clause of ProofCommandsStart asks. -/
def proofTurn (s : State) (d : List Byte) : Prop := queueTurn s 0 d ∧ bodyOk d = true ∧ (queueGet s 0).priv = true ∧ rangerUp s = true

theorem witness_ProofCommandsStart_turns :
    (∀ c ∈ [6, 7], proofTurn (ranging (turnS true (descA c [0]))) (descA c [0])) ∧
    (∀ b ∈ [[2 ^ 26, 5, 2, 2 ^ 32, 5], [4096, 5, 2, 2 ^ 32, 5]], proofTurn (proving (descA 6 b)) (descA 6 b)) := by
  unfold proofTurn queueTurn uncached Live
  and_intros <;> decide +kernel

theorem leNat_zeros (m : List Byte) (h : m.all (fun x => x == 0) = true) : leNat m = 0 := by
  induction m with
  | nil => rfl
  | cons b r ih =>
    simp only [List.all_cons, Bool.and_eq_true, beq_iff_eq] at h
    simp [leNat, h.1, ih h.2]

/-- A manifest of zeros names no range, and no rule. -/
theorem mfRead_zeros (s t : State) (m : List Byte) (root va comp st g : Nat) (h : readArg s root va 0x5000 = (some m, t))
    (a : m.all (fun x => x == 0) = true) (c : (compCores t comp).length * 22528 + 4 * gib ≤ g * gib) :
    mfRead s root va comp st g = (some (m, []), t) := by
  have sub : ∀ l : List Byte, (∀ x ∈ l, x ∈ m) → l.all (fun x => x == 0) = true := fun l hl =>
    List.all_eq_true.mpr (fun x hx => List.all_eq_true.mp a x (hl x hx))
  have f : ∀ i n, fieldAt m i n = 0 := fun i n => leNat_zeros _ (sub _ (fun _ hx => List.mem_of_mem_drop (List.mem_of_mem_take hx)))
  have z : ∀ i j, zeroSpan m i j = true := fun i j => sub _ (fun _ hx => List.mem_of_mem_take (List.mem_of_mem_drop hx))
  unfold mfRead
  rw [h]
  simp [mfForm, mfPages, mfPosVa, mfPlate, mfMem, mfPlates, mfPos, mfMems, stagingMeets, sumLen, f, z, bitsOf, c]

/-- Whether a manifest of zeros is read in going to a state that satisfies `p`. -/
def readsZeros (s : State) (p : State → Bool) : Bool :=
  match readArg s 0 4096 0x5000 with
  | (some m, t) => m.all (fun x => x == 0) && p t
  | _ => false

theorem readsZeros_manifest (s : State) (p : State → Bool) (st g : Nat) (h : readsZeros s p = true)
    (c : ∀ t, p t = true → compCores t 0 = []) (e : 4 * gib ≤ g * gib) :
    ∃ m t, mfRead s 0 4096 0 st g = (some (m, []), t) ∧ imageBytes t 0 m = 28672 ∧ p t = true := by
  unfold readsZeros at h
  split at h
  next m t r =>
    simp only [Bool.and_eq_true] at h
    have n := c t h.2
    refine ⟨m, t, mfRead_zeros s t m 0 4096 0 st g r h.1 (by simpa [n] using e), ?_, h.2⟩
    have f : fieldAt m 0 8 = 0 := leNat_zeros _ (List.all_eq_true.mpr (fun x hx =>
      List.all_eq_true.mp h.1 x (List.mem_of_mem_drop (List.mem_of_mem_take hx))))
    simp [imageBytes, n, mfMem, mfMems, f, bitsOf, sumLen]
  next => cases h

/-- A storage target answers for a slot of 28,672 bytes and its header. -/
def storable (v : State) : Bool :=
  (compCores v 0).isEmpty && storeUp v && bitsOf (qpWord v (storeQp v) 0) 63 61 == 6 &&
  portUp v (bitsOf (qpWord v (storeQp v) 0) 60 56) 2 && decide (4096 + 28672 ≤ storeSlot v)

/-- A partner answers over port 9. -/
def partnered (v : State) : Bool :=
  (compCores v 0).isEmpty && (v.prf.pair == 2 || v.prf.pair == 3) && pairUp v == [9] && (portGet v 9).st == 2 && (portGet v 9).waitq.isEmpty &&
  (portGet v 9).cred.getD (cellClass 10) 0 != 0 && decide ((portGet v 9).replay.length < 256)

theorem stored_read : readsZeros (begunState (proving (descA 6 [4096, 5, 2, 2 ^ 32, 5])) 0 (descA 6 [4096, 5, 2, 2 ^ 32, 5])) storable = true := by
  decide +kernel

theorem paired_read : readsZeros (begunState (pairing (descA 6 [4096, 5, 1, 2 ^ 32, 5])) 0 (descA 6 [4096, 5, 1, 2 ^ 32, 5])) partnered = true := by
  decide +kernel

theorem witness_ProofCommandsStart_targets :
    (∃ m t, mfRead (begunState (proving (descA 6 [4096, 5, 2, 2 ^ 32, 5])) 0 (descA 6 [4096, 5, 2, 2 ^ 32, 5])) 0 4096 0 (2 ^ 32) 5 = (some (m, []), t) ∧
      imageBytes t 0 m = 28672 ∧ storable t = true) ∧
    ∃ m t, mfRead (begunState (pairing (descA 6 [4096, 5, 1, 2 ^ 32, 5])) 0 (descA 6 [4096, 5, 1, 2 ^ 32, 5])) 0 4096 0 (2 ^ 32) 5 = (some (m, []), t) ∧
      imageBytes t 0 m = 28672 ∧ partnered t = true := by
  refine ⟨readsZeros_manifest _ _ _ _ stored_read ?_ (by decide), readsZeros_manifest _ _ _ _ paired_read ?_ (by decide)⟩ <;>
    intro t h <;> simp [storable, partnered] at h <;> simp [h]

theorem witness_ProofCommandsStart_others :
    (let d := descA 7 [0, 3]
     proofTurn (proving d) d ∧ partnerUp (proving d) = false ∧ proofTurn (pairing d) d ∧ partnered (pairing d) = true) ∧
    (let d := descA 7 [1, 3]
     proofTurn (proving d) d ∧ storable (proving d) = true) ∧
    (let d := descA 8 [9, 4096, 1]
     proofTurn (proving d) d ∧ slotGib (proving d) = 0) ∧
    resting (turnS true (descA 0 [])) := by
  unfold proofTurn queueTurn uncached Live resting
  and_intros <;> decide +kernel

/-- A PROOF that has captured its header's slot and has no page left to copy. -/
def capturing : PrfRun :=
  { cmd := 6, q := 0, idx := 0, auto := false, gone := false, comp := 0, root := 0, body := descA 6 [4096, 5, 2], phase := 1, gen := 1, slot := 0,
    bytes := 28672, img := [], have_ := [], pages := [], want := 2, ok := 0, sto := 3, retry := 0, entry := 0 }

theorem witness_ProofCommandsStart_captured (captured : State) :
    capturing.pages = [] ∧ bitOf (dWord capturing.body 3) 8 = false ∧
    stagingScrap captured capturing.root (dWord capturing.body 4) (dWord capturing.body 5 * gib) = captured ∧
    { capturing with pages := [(7, 0, 28672)] }.pages.find? (fun p => p.1 == 7) = some (7, 0, 28672) := by
  have w : dWord capturing.body 5 = 0 := by decide +kernel
  refine ⟨rfl, by decide +kernel, ?_, rfl⟩
  rw [w]
  rfl

/-- A read of the reserve's own lines, when each is stored under its key pair. -/
def ownRead (s : State) (pa n : Nat) : List Byte × Bool :=
  (rangeLines pa n).foldl (fun a l =>
    (a.1 ++ ((rawLine s l).take (min 64 (pa + n - 64 * l))).drop (if l = pa / 64 then pa % 64 else 0), a.2 || s.tiers.poison.contains l)) ([], false)

theorem resRead_own (s : State) (pa n : Nat) (h : ∀ l ∈ rangeLines pa n, ownerData s l = none ∧ owReached s.tiers (underPage l) = true ∧
    tabGet (fun _ => 0) s.tiers.enc l = reservePair) : resRead s pa n = ownRead s pa n := by
  unfold resRead ownRead
  generalize (([], false) : List Byte × Bool) = a
  revert h
  generalize rangeLines pa n = ls
  intro h
  induction ls generalizing a with
  | nil => rfl
  | cons l r ih =>
    obtain ⟨o, w, e⟩ := h l (List.mem_cons_self ..)
    rw [List.foldl_cons, List.foldl_cons, ih _ (fun x hx => h x (List.mem_cons_of_mem _ hx))]
    simp only [o, w, e, rekey, if_true]

/-- The RESLICE of proof 9 whose one map entry stands at device virtual address 4096. -/
def dSlice : List Byte := descA 8 [9, 4096, 1]

/-- The complex whose reserve of two slots of 8 GiB holds the partner's committed proof 9 in slot 0, one line of it among them. -/
def reserved : State :=
  let s := regPut (proving dSlice) 0x50028 8
  let s := holding (holding s (64 * 326149079040) ((slotHeader 2 9 0 4096 []).take 64)) (64 * 326149079105) (leBytes 64 77)
  let s := holding s (2 ^ 26 + 4096) (leBytes 8 64 ++ leBytes 8 64 ++ leBytes 8 256 ++ leBytes 8 1)
  { s with tiers := { s.tiers with
      owNext := 2 ^ 20
      enc := [(326149079040, reservePair), (326149079041, reservePair), (326149079105, reservePair), (326283296768, reservePair), (326283296769, reservePair)] } }

theorem reserved_line (l : Nat) (h : l ∈ [326149079040, 326149079041, 326149079105, 326283296768, 326283296769]) :
    ownerData reserved l = none ∧ owReached reserved.tiers (underPage l) = true ∧ tabGet (fun _ => 0) reserved.tiers.enc l = reservePair := by
  have e : reserved.tiers.enc = [(326149079040, reservePair), (326149079041, reservePair), (326149079105, reservePair), (326283296768, reservePair), (326283296769, reservePair)] := by
    unfold reserved
    rfl
  simp only [List.mem_cons, List.not_mem_nil, or_false] at h
  rw [e]
  obtain rfl | rfl | rfl | rfl | rfl := h <;> exact ⟨by decide +kernel, by decide +kernel, by simp [tabGet]⟩

/-- A read of lines of that reserve gives what they hold. -/
theorem reserved_read (pa n : Nat) (h : (rangeLines pa n).all (fun l => [326149079040, 326149079041, 326149079105, 326283296768, 326283296769].contains l) = true) :
    resRead reserved pa n = ownRead reserved pa n :=
  resRead_own _ _ _ (fun l hl => reserved_line l (by simpa using List.all_eq_true.mp h l hl))

theorem readArg_line (s : State) (root va : Nat) (lf : Leaf) (h : translate s root va = (.leaf lf, s))
    (r : (eR lf.ent && paTier (ePage lf.ent) != 3) = true) (a : va % 64 + 32 ≤ 64) (n : readNotes s (leafPA lf va) 32 = s)
    (p : (paRead s (eSel lf.ent) (leafPA lf va) 32).2 = false) (t : paTier (leafPA lf va) ≠ 2) :
    readArg s root va 32 = (some (paRead s (eSel lf.ent) (leafPA lf va) 32).1, s) := by
  have k : min (64 - va % 64) 32 = 32 := by omega
  simp [readArg, argBytes, argLeaf, h, r, k, n, p, t]

theorem readNotes_line (s : State) (pa n : Nat) (h : (pa + n - 1) / 64 = pa / 64) (t : lineTier (pa / 64) ≠ 2) (b : hostBias s (pa / 64) = false) :
    readNotes s pa n = s := by
  simp [readNotes, readNote, biasSnoop, h, t, b]

theorem reserved_mapped :
    readArg (begunState reserved 0 dSlice) 0 4096 32 = (some (leBytes 8 64 ++ leBytes 8 64 ++ leBytes 8 256 ++ leBytes 8 1), begunState reserved 0 dSlice) := by
  have v : (paRead (begunState reserved 0 dSlice) (eSel leafA.ent) (leafPA leafA 4096) 32).1 =
      leBytes 8 64 ++ leBytes 8 64 ++ leBytes 8 256 ++ leBytes 8 1 := by decide +kernel
  have p : (paRead (begunState reserved 0 dSlice) (eSel leafA.ent) (leafPA leafA 4096) 32).2 = false := by decide +kernel
  have c : (begunState reserved 0 dSlice).xlt.cache.find? (fun l => leafHit l 0 4096) = some leafA := by decide +kernel
  have b : hostBias (begunState reserved 0 dSlice) (leafPA leafA 4096 / 64) = false := by decide +kernel
  revert v p c b
  generalize begunState reserved 0 dSlice = s
  intro v p c b
  rw [readArg_line s 0 4096 leafA (by simp [Machine.translate, c]) (by decide) (by decide)
    (readNotes_line s _ _ (by decide +kernel) (by decide +kernel) b) p (by decide), v]

theorem reserved_data : resRead (begunState reserved 0 dSlice) (slotBase reserved 0 + 4096 + 64) 64 =
    ownRead (begunState reserved 0 dSlice) (slotBase reserved 0 + 4096 + 64) 64 := by
  apply resRead_own
  intro l h
  have c : (rangeLines (slotBase reserved 0 + 4096 + 64) 64).all (fun l => l == 326149079105) = true := by decide +kernel
  have e : l = 326149079105 := by simpa using List.all_eq_true.mp c l h
  rw [e]
  have r := reserved_line 326149079105 (by decide)
  exact ⟨by decide +kernel, r.2.1, r.2.2⟩

theorem witness_ProofCommandsStart_resliced :
    proofTurn reserved dSlice ∧ slotGib reserved ≠ 0 ∧ reserved.ride.tiles = [] ∧
    pickSlot (headerGen (resRead reserved (slotBase reserved 0) 80).1 (regGet reserved 0x90008))
      (headerGen (resRead reserved (slotBase reserved 1) 80).1 (regGet reserved 0x90008)) 9 = some 0 ∧
    readArg (begunState reserved 0 dSlice) 0 4096 32 = (some (leBytes 8 64 ++ leBytes 8 64 ++ leBytes 8 256 ++ leBytes 8 1), begunState reserved 0 dSlice) ∧
    mapEntry (leBytes 8 64 ++ leBytes 8 64 ++ leBytes 8 256 ++ leBytes 8 1) 0 = (64, 64, 256, 1) ∧
    64 + 64 ≤ fieldAt (resRead reserved (slotBase reserved 0) 80).1 24 8 ∧ cachedAt (begunState reserved 0 dSlice) 0 256 leafA ∧
    (resRead (begunState reserved 0 dSlice) (slotBase (begunState reserved 0 dSlice) 0 + 4096 + 64) 64).1.length = 64 := by
  have t : proofTurn reserved dSlice := by
    unfold proofTurn queueTurn uncached Live
    and_intros <;> decide +kernel
  have h0 := reserved_read (slotBase reserved 0) 80 (by decide +kernel)
  have h1 := reserved_read (slotBase reserved 1) 80 (by decide +kernel)
  rw [h0, h1, show slotBase (begunState reserved 0 dSlice) 0 = slotBase reserved 0 by decide +kernel, reserved_data]
  unfold cachedAt
  refine ⟨t, ?_, ?_, ?_, reserved_mapped, ?_, ?_, ⟨?_, ?_⟩, ?_⟩ <;> decide +kernel

/-- A stream descriptor of one dimension: operation, destination, completion word, source, address, extent and tile. -/
def descS (op dst cw cwAddr cwVal src addr ext tile : Nat) : List Byte :=
  words ([op * 2 ^ 58 + dst * 2 ^ 55 + 2 ^ 40 + cw * 2 ^ 32, src, addr, cwAddr, cwVal, ext + tile * 2 ^ 32] ++ List.replicate 10 0)

/-- A stream of queue 0's command of index 0 that carries that descriptor. -/
def streamA (d : List Byte) : Stream :=
  { sid := 3, desc := d, q := 0, idx := 0, core := none, root := 0, comp := 0, seq := 0, ctx := 7, ro := false, tile := 0, tdone := 0, txns := [],
    st := .running, cause := 0, aborted := false, hw := false, link := 0, cwf := false, pfb := [] }

/-- A transaction of 16 bytes from the canopy's second page. -/
def txnA : MvTxn := { tile := 0, len := 16, src := 2 ^ 26 + 64, ssel := 0, dst := 128, dsel := 0, epoch := 0, host := false }

/-- Mover 3 with a stream, root 0's first page mapped, and compartment 0 staffed. -/
def moving (cur : Option Stream) (waiting : List Stream) : State :=
  moverSet (staffed { State.reset with xlt := { xlt0 with cache := [leafA] } }) 3 ⟨cur, waiting⟩

/-- Root 0's table at 2^21, which maps its second page with entry `e`. -/
def tabled (s : State) (e : Nat) : State :=
  holding (holding (holding { s with xlt := { s.xlt with l1 := [(0, 2 ^ 21 + 1)] } } (2 ^ 21) (leBytes 8 (2 ^ 22 + 1))) (2 ^ 22) (leBytes 8 (2 ^ 23 + 1)))
    (2 ^ 23 + 8) (leBytes 8 e)

/-- Copies of 200 bytes from root 0's first page to a plate, to the page itself, and to a page that root 0 does not map. -/
def toPlate : List Byte := descS 0 2 0 0 0 64 128 200 256
def toPage : List Byte := descS 0 0 1 512 99 64 4096 200 256
def toNone : List Byte := descS 0 0 0 0 0 64 (2 ^ 26) 200 256

/-- A tile of 66 rows, each in a page of its own, at the source (0) or at the destination (1). -/
def tooWide (side : Nat) : List Byte :=
  words ([side * 2 ^ 58 + 2 * 2 ^ 40, 64, 64, 0, 0, 64 + 64 * 2 ^ 32, 66 + 66 * 2 ^ 32, 0, 0, 0, if side = 0 then 2 ^ 26 else 0,
    if side = 0 then 0 else 2 ^ 10] ++ List.replicate 4 0)

/-- The fault queue of 2^l entries on the floor, with `t` records written, `p` freed, and records pending. -/
def faulting (s : State) (t p l : Nat) (pend : List PendRec) : State :=
  let s := regPut (regPut (regPut s 0x40010 0x100000) 0x40018 l) 0x40020 0x200000
  { s with qsu := { s.qsu with evOn := true, evT := 3, evP := 2 }, xlt := { s.xlt with fqT := t, fqP := p, fqPend := pend } }

theorem witness_StreamsRun_checks :
    (∀ d ∈ [toPlate, toPage, toNone], streamInvalid (moving none [streamA d]) { streamA d with link := moverLink (moving none [streamA d]) 3 } = false) ∧
    streamInvalid (moving none [streamA (descS 2 0 0 0 0 64 4096 1 1)]) (streamA (descS 2 0 0 0 0 64 4096 1 1)) = true ∧
    (∀ d ∈ [toPlate, toPage, toNone], let s := moving (some (streamA d)) []
      Live s ∧ uncached s ∧ 0 < dsTiles d ∧ ([] : List MvTxn).length < mvDepth s ∧ (checkSide s (streamA d) 0).1.pages.length ≤ 64 ∧
        (checkSide s (streamA d) 0).1.fail = none) ∧
    (checkSide (moving (some (streamA toPage)) []) (streamA toPage) 1).1.fail = none ∧
    (checkSide (moving (some (streamA toNone)) []) (streamA toNone) 1).1.fail ≠ none ∧
    (let d := descS 0 2 0 0 0 (2 ^ 52) 128 200 256
     (checkSide (moving (some (streamA d)) []) (streamA d) 0).1.fail ≠ none) ∧
    (∀ st ∈ [streamA (tooWide 0), streamA (tooWide 1)], let s := moving (some st) []
      Live s ∧ uncached s ∧ 0 < dsTiles st.desc) ∧
    64 < (checkSide (moving (some (streamA (tooWide 0))) []) (streamA (tooWide 0)) 0).1.pages.length ∧
    64 < (checkSide (moving (some (streamA (tooWide 1))) []) (streamA (tooWide 1)) 1).1.pages.length ∧
    (∀ e ∈ [leafA.ent + 3, leafA.ent + 1], let s := regSet (tabled (moving none []) e) 0x50000 0 0 1
      Live s ∧ uncached s ∧ s.xlt.cache.find? (fun l => leafHit l 0 (2 ^ 26 + 5)) = none ∧
        (walk s 0 (2 ^ 26 + 5) = .leaf ⟨0, 1, false, e⟩ ↔ e = leafA.ent + 3)) ∧
    (moving none []).xlt.cache.find? (fun l => leafHit l 0 5) = some leafA := by
  unfold Live uncached
  and_intros <;> decide +kernel

/-- A fill of the same plate. -/
def fillPlate : List Byte := descS 1 2 1 0 0 0xAB 128 200 256

theorem witness_StreamsRun_moves :
    (∀ d ∈ [toPlate, fillPlate], let s := moving (some { streamA d with txns := [{ txnA with tile := 9 }, txnA] }) []
      Live s ∧ uncached s ∧ 1 < mvDepth s ∧ dsDst d = 2 ∧ dstCores s d 0 = [0] ∧ (coreGet s 0).hints = [] ∧
        xRefused (coreGet s 0) txnA.dst txnA.len = false ∧ txnA.src % 64 + txnA.len ≤ 64 ∧
        rangeHeld s (moverSrc 3) txnA.ssel txnA.src txnA.len false = false ∧ (memRead s txnA.ssel (txnA.src / 64)).2 = false ∧
        (memRead s txnA.ssel (txnA.src / 64)).1.length = 64) ∧
    dsOp toPlate = 0 ∧ dsOp fillPlate = 1 ∧
    (∀ st ∈ [{ streamA toPlate with tile := 1, tdone := 1 }, { streamA toPlate with st := .done, aborted := true, cause := 3 }],
      let s := moverSet (turnS false (descA 1 [128, 3])) 3 ⟨some st, []⟩
      queueTurn s 0 (descA 1 [128, 3]) ∧ st.idx = (queueGet s 0).started ∧ streamDrained s 3 st = true ∧ dsCw st.desc = 0 ∧
        (st.st = .running → dsTiles st.desc ≤ st.tile)) ∧
    (∀ d ∈ [descS 0 0 2 512 99 64 4096 200 256, toPage], let st := { streamA d with core := some 0, tile := 1 }
      let s := moving (some st) []
      Live s ∧ uncached s ∧ streamDrained s 3 st = true ∧ dsTiles d ≤ 1 ∧ dsPlate d = false ∧ xRefused (coreGet s 0) 512 8 = false ∧
        (coreGet s 0).hints = []) ∧
    dsCw (descS 0 0 2 512 99 64 4096 200 256) = 2 ∧ dsCw toPage = 1 ∧ cachedAt (moving none []) 0 512 leafA ∧
    rangeHeld (moving none []) (moverSrc 3) 0 (leafPA leafA 512) 8 true = false := by
  unfold queueTurn Live uncached cachedAt
  and_intros <;> decide +kernel

theorem witness_StreamsRun_faults :
    (∀ n ∈ [4, 5], ∀ w ∈ [false, true], let r : PendRec := ⟨3, 3, List.replicate 64 0, w⟩
      let st := { streamA toPlate with st := .faulted }
      let s := faulting (moving (some st) []) n 3 1 [r, ⟨4, 4, [], true⟩]
      Live s ∧ uncached s ∧ s.host.hold = false ∧ s.xlt.fqPend = [r, ⟨4, 4, [], true⟩] ∧ r.bytes.length = 64 ∧ fqAddr s n + 64 ≤ 2 ^ 44 ∧
        (2 ^ regField s 0x40018 4 0 ≤ s.xlt.fqT - s.xlt.fqP ↔ n = 5)) ∧
    (∀ p ∈ [(4, 2), (6, 3), (5, 3), (5, 2)],
      let v := faulting (moving (some { streamA toPlate with st := .awaiting }) []) 5 3 1 []
      let s := holding v (floorPA 0x200000) (leBytes 8 p.1 ++ leBytes 8 p.2)
      Live s ∧ uncached s ∧ fieldAt (hostBytes s (regField s 0x40020 42 6 * 64) 64) 0 8 = p.1 ∧
        fieldAt (hostBytes s (regField s 0x40020 42 6 * 64) 64) 8 8 = p.2 ∧ s.xlt.fqWait = [] ∧ fqAddr s 4 + 64 ≤ 2 ^ 44) := by
  unfold Live uncached
  and_intros <;> decide +kernel

/-- The complex after reset with its tiers changed. -/
def tiered (f : Tiers → Tiers) : State := { State.reset with tiers := f tiers0 }

theorem witness_MemoryIsGuarded :
    (∀ line ∈ [0, 5, 1152 * 2 ^ 24 - 1, 2 ^ 38, 2 ^ 38 + 3072 * 2 ^ 24 - 1], let s := regSet (regSet State.reset 0x50000 15 8 1) 0x50000 23 16 1
      let s := regPut s (frOff (ctlRecord line) + 0x20) 0
      Live s ∧ uncached s ∧ s.tiers.owHeld = [] ∧ scrubOn s line = true ∧ paValid (64 * line) = true ∧ ctlHeld s line = false ∧
        logsOnly s (ctlRecord line) 0 ∧ logsOnly s (ctlRecord line) 2) ∧
    (let s := regPut State.reset 0x50100 9
     keysOpen s = true ∧ s.tiers.keyCmd = none ∧ keyPair s % 2 ^ 256 ≠ keyPair s / 2 ^ 256) ∧
    keyPair State.reset % 2 ^ 256 = keyPair State.reset / 2 ^ 256 ∧ keysOpen (regSet State.reset 0x20008 18 16 2) = false ∧
    (∀ k ∈ [⟨true, keyReject, 0⟩, ⟨true, 63, 77⟩, ⟨false, 0, 7⟩, ⟨false, 5, 0⟩], let s := tiered (fun t => { t with keyCmd := some k })
      Live s ∧ uncached s ∧ resting s ∧ s.tiers.keyCmd = some k) ∧
    (let s := { staffed State.reset with life := { life0 with ramped := true } }
     Live s ∧ uncached s ∧ s.life.ramped = true ∧ s.tiers.wPlates = false) ∧
    (let s := tiered (fun t => { t with wPlates := true })
     Live s ∧ uncached s ∧ s.tiers.wPlates = true) ∧
    (∀ n ∈ [0, 49151], let s := tiered (fun t => { t with wErased := true, owNext := n })
      Live s ∧ uncached s ∧ resting s ∧ s.tiers.wCanopy = false ∧ s.tiers.owEarly.contains n = false ∧ s.tiers.owHeld = []) ∧
    (let w : HeldWrite := ⟨2 ^ 38 + 49151 * 2 ^ 20 + 3, 0, fullMask, lineA, false⟩
     let s := tiered (fun t => { t with wErased := true, owHeld := [w] })
     Live s ∧ uncached s ∧ resting s ∧ owReached s.tiers (underPage w.line) = false ∧ lineTier w.line = 1 ∧ w.data.length = 64) := by
  unfold Live uncached logsOnly resting
  and_intros <;> decide +kernel

theorem witness_RequestsReachTheirHome :
    (∀ g ∈ [0, 47], ∀ line ∈ [0, 1152 * 2 ^ 24 - 1], ∀ m ∈ [0, 1], let s := regSet State.reset 0x60000 0 0 m
      Live s ∧ s.tiers.poison = [] ∧ lineTier line = 0 ∧ hostBias s line = false ∧ lineHeld s 0 line true = false ∧ groveFenced s g = false ∧
        s.host.hold = false ∧ mx1 s = (m == 1)) ∧
    (let w : L2Way := ⟨0, 1, false, false, 0, false, 0, lineA⟩
     w.tag = 5 / 4096 ∧ w.st = 1) ∧
    (let b : Busy := ⟨5, msg0 .rdS 5 3 100, [], false, none, false, true⟩
     b.line = 5) ∧
    (let r : Mshr := ⟨3, 5, .rdM, 0, 2, true, 0, true⟩
     r.slice = 3 ∧ r.line = 5 ∧ r.retry = true ∧ r.k ≠ .upg) ∧
    wayMask State.reset 2 ≠ 0 := by
  unfold Live
  and_intros <;> decide +kernel

/-- A way of a slice that holds line 5 of the canopy. -/
def wayA (st : Nat) : L2Way := ⟨0, st, st == 2, false, 0, false, 0, lineA⟩

theorem witness_SlicesAnswer :
    (∀ g ∈ [0, 47], Live State.reset ∧ resting State.reset ∧ lineTier 5 = 0 ∧ groveFenced State.reset g = false ∧ wayMask State.reset 0 ≠ 0) ∧
    (∀ st ∈ [1, 2], (wayA st).tag = 5 / 4096 ∧ (wayA st).pinned = false ∧ (wayA st).pres = 0 ∧ (wayA st).st = st) ∧
    (∀ p ∈ [(3, MK.rdS), (3, .rdM), (3, .own), (200, .rdCur)], let b : Busy := ⟨5, msg0 p.2 5 p.1 100, [47], false, none, false, false⟩
      b.line = 5 ∧ (b.req.src < 48 ∨ 48 ≤ b.req.src)) ∧
    (let r : Mshr := ⟨47, 5, .upg, 0, 0, false, 0, true⟩
     r.slice = 47 ∧ r.line = 5 ∧ r.k = .upg) ∧
    (let r : Mshr := ⟨47, 5, .own, 0, 0, false, 0, true⟩
     let m := { msg0 .gnt 5 100 47 with data := lineA }
     r.k = .own ∧ m.k = .gnt ∧ m.dst = 47 ∧ m.line = 5) ∧
    (let m := { msg0 .data 5 100 47 with data := lineA, tgt := 2 }
     m.k = .data ∧ m.dst = 47 ∧ m.tgt ≠ 0) ∧
    (let m := { msg0 .data 5 47 100 with data := lineA, tgt := 0 }
     m.k = .data ∧ m.dst = 100 ∧ m.line = 5 ∧ m.tgt ≠ 1 ∧ m.sel = 0 ∧ m.poison = false ∧ m.data.length = 64) ∧
    (let e : EvLine := ⟨47, 5, lineA, false, 0, false⟩
     e.slice = 47 ∧ e.line = 5 ∧ e.dead = false) := by
  unfold Live resting
  and_intros <;> decide +kernel

theorem witness_CoherenceRegisters :
    (let s := { State.reset with coh := { coh0 with l1busy := true, l1inv := [0, 47] } }
     Live s ∧ s.coh.l1busy = true ∧ s.coh.l1inv.contains 1 = false) ∧
    (l1On State.reset 47 = true ∧ (0 : Nat).testBit 47 = false) ∧
    (∀ e ∈ [⟨0, 0, 0⟩, ⟨1, 0, 9⟩, ⟨2, 7, 0⟩], ∀ m ∈ [0, 1],
      let s := regPut (regPut { State.reset with coh := { coh0 with probeRun := true, dir := [(5, e)] } } 0x60030 320) 0x60000 m
      Live s ∧ s.coh.probeRun = true ∧ regField s 0x60030 45 6 = 5 ∧ lineBusy s 5 = false ∧ dirGet s 5 = e ∧ regField s 0x60000 0 0 = m) ∧
    (let s := regPut { State.reset with coh := { coh0 with probeRun := true, busy := [⟨5, msg0 .rdS 5 3 100, [], false, none, false, true⟩] } } 0x60030 320
     Live s ∧ lineBusy s (regField s 0x60030 45 6) = true) := by
  unfold Live
  and_intros <;> decide +kernel

theorem witness_HostSnoops :
    (∀ line ∈ [2 ^ 39, 2 ^ 39 + 2 ^ 38 - 1], Live State.reset ∧ resting State.reset ∧ State.reset.tiers.poison = [] ∧ State.reset.host.hold = false ∧
      lineTier line = 2) ∧
    lineTier 0 = 0 ∧
    (∀ d ∈ [false, true], let w : L2Way := ⟨2 ^ 27, 2, d, false, 0, false, 0, lineA⟩
      w.tag = (2 ^ 39 + 5) / 4096 ∧ w.st = 2 ∧ w.pinned = false ∧ w.pres = 0 ∧ w.data.length = 64 ∧ w.poison = false ∧ w.written = d) ∧
    (let w : Watch := ⟨floorPA 0x30000 / 64, 3, 0, false, false⟩
     let s := published (queueA true)
     let u := emit { s with coh := { coh0 with watch := [{ w with refetch := true }], mshr := [⟨3, w.line, .rdS, 3, 0, false, 0, false⟩], net := [msg0 .rdS w.line 3 100] } } (.snpRsp 0 w.line [])
     Live s ∧ resting s ∧ w.refetch = false ∧ w.wake = false ∧ floorPA (regField s 0x40020 42 6 * 64) / 64 ≠ w.line ∧
       ((lineQueues s w.line).foldl queueWake u).errs = []) := by
  unfold Live resting
  and_intros <;> decide +kernel

/-- The published complex with links trained, their decoders committed for that many ways or not. -/
def hosted (ls : List Nat) (ways : Nat) (com : Bool) : State :=
  let s := { published (queueA true) with life := { life0 with released := true } }
  ls.foldl (fun s n =>
    let s := linkPut s n (fun x => { x with trained := true })
    if com then { s with host := { s.host with
      hdm := tabSet (fun _ => 0) s.host.hdm n (ways + 1), hpos := tabSet (fun _ => 0) s.host.hpos n (n % ways) } } else s) s

/-- The host port's own state changed. -/
def ported (s : State) (f : HostPort → HostPort) : State := { s with host := f s.host }

theorem witness_HostMemory_requests :
    (∀ s ∈ [hosted [0] 1 false, hosted [1] 1 true, ported (hosted [0] 1 true) (fun h => { h with hold := true, again := [0] }), hosted [0] 1 true,
        hosted [0, 1, 2, 3] 4 true], Live s ∧ resting s ∧ s.coh = coh0) ∧
    (hostSees (hosted [0] 1 false) 0 = true ∧ windowStopped (hosted [0] 1 false) = false ∧ hdmDone (hosted [0] 1 false) = false) ∧
    hostSees (hosted [1] 1 true) 1 = false ∧ windowStopped (ported (hosted [0] 1 true) (fun h => { h with hold := true, again := [0] })) = true ∧
    (let s := hosted [0, 1, 2, 3] 4 true
     hostSees s 3 = true ∧ windowStopped s = false ∧ hdmDone s = true ∧ hostOffset s 3 256 / 64 * 64 = 1792 ∧ winServes s = true ∧
       winHeld s 1792 true = false ∧ winHeld s 1792 false = false ∧ s.host.ra = [] ∧ s.host.lastRd ≠ 1792 ∧ (winCur s).2 = 0 ∧
       lineTier (winLine s 1792) = 0 ∧ inStash s 1792 = false) ∧
    winServes (regSet (hosted [0] 1 true) 0x20008 18 16 1) = false ∧
    (let s := ported (hosted [0] 1 true) (fun h => { h with ra := [⟨0, winLine (hosted [0] 1 true) 0, 0, lineA, true⟩], lastRd := 64 })
     winServes s = true ∧ s.host.ra = [⟨0, winLine s 0, (winCur s).2, lineA, true⟩] ∧ s.host.lastRd ≠ 0) ∧
    (let s := regSet (ported (hosted [0] 1 true) (fun h => { h with lastRd := 64 })) 0xB0000 19 16 1
     hostOffset s 0 64 / 64 * 64 = 64 ∧ s.host.lastRd = 64 ∧ regField s 0xB0000 19 16 = 1 ∧ winHeld s 128 false = false) ∧
    hostOffset (hosted [0] 1 true) 0 (winSize + 64 * 1023) / 64 * 64 = winSize + 64 * 1023 ∧
    winSize + 65536 ≤ hostOffset (hosted [0] 1 true) 0 (winSize + 65536) / 64 * 64 ∧
    (let s := regPut (hosted [0] 1 true) 0x60028 (2 ^ 32 + 7 * 2 ^ 56)
     inStash s 64 = true ∧ regField s 0x60028 61 56 = 7 ∧ groveFenced s 7 = false ∧ wayMask s 2 ≠ 0) := by
  unfold Live resting
  and_intros <;> decide +kernel

theorem witness_HostMemory_messages :
    (let s := ported (hosted [0] 1 true) (fun h => { h with pba := [2047] })
     Live s ∧ resting s ∧ s.coh = coh0 ∧ s.host.hold = false ∧ s.host.pba = [2047]) ∧
    (let s := ported (hosted [0] 1 true) (fun h => { h with defer := [⟨[0, 2], 0, 0, 0x23, 4, 5⟩] })
     Live s ∧ resting s ∧ s.host.hold = false ∧ s.host.defer = [⟨[0, 2], 0, 0, 0x23, 4, 5⟩]) ∧
    (let r : RunCmd := ⟨0, descA 1 [128, 3], 1, 0, 0⟩
     let s := ported (queueSet (hosted [0] 1 true) 0 { queueA true with run := [r], started := 1 }) (fun h => { h with defer := [⟨[0], 0, 0, 0x23, 4, 5⟩] })
     Live s ∧ resting s ∧ s.host.hold = false ∧ s.tiers.poison = [] ∧ (queueGet s 0).run = [r] ∧ (queueGet s 0).cpl % 64 = 0 ∧
       (queueGet s 0).cpl + 64 * 2 ^ (queueGet s 0).clog ≤ 2 ^ 44) := by
  unfold Live resting
  and_intros <;> decide +kernel

/-- A floor line that grove 3 holds written. -/
def floorOwned (s : State) : State :=
  { s with coh := { coh0 with
      l2 := [(l2key 3 (2 ^ 39 + 5) 0, ⟨2 ^ 27, 2, true, false, 0, false, 0, lineA⟩)], dir := [(2 ^ 39 + 5, ⟨2, 3, 0⟩)], hostSt := [(2 ^ 39 + 5, 2)] } }

/-- A request for a floor line under way in HOLD. -/
def lost : State :=
  let b : Busy := ⟨2 ^ 39 + 5, msg0 .rdS (2 ^ 39 + 5) 3 100, [], true, none, false, false⟩
  { ported State.reset (fun h => { h with hold := true }) with
    coh := { coh0 with mshr := [⟨3, 2 ^ 39 + 5, .rdS, 0, 0, false, 0, false⟩], net := [msg0 .rdS (2 ^ 39 + 5) 3 100], busy := [b] } }

theorem witness_HostLinks :
    (∀ n ∈ [0, 3], let s := { State.reset with life := { life0 with released := true } }
      Live s ∧ s.life.released = true ∧ s.host.hold = false ∧ (linkGet s n).trained = false) ∧
    (∀ l ∈ [⟨true, false, 4, 3, 6, 3, 3, 0, false, true⟩, ⟨true, false, 4, 4, 6, 3, 0, 0, false, true⟩, ⟨true, false, 4, 3, 6, 3, 1, 0, false, true⟩,
        ⟨true, false, 4, 4, 6, 3, 2, 0, false, true⟩], let s := linkPut State.reset 3 (fun _ => l)
      Live s ∧ (linkGet s 3).trained = true) ∧
    (fnGet (ported State.reset (fun h => { h with fns := [(0, { fnCfg0 with l1 := true })] })) 0).l1 = true ∧
    (let s := floorOwned (regPut (linkPut (hosted [0] 1 true) 0 (fun x => { x with pm := 3 })) (frOff 0xA88 + 0x20) 0)
     Live s ∧ (linkGet s 0).trained = true ∧ (linkGet s 0).pm = 3 ∧ mode s = 3 ∧ s.host.hold = false ∧ logsOnly s 0xA88 3 ∧ lineTier (2 ^ 39 + 5) = 2 ∧
       2 ^ 27 = (2 ^ 39 + 5) / 4096) ∧
    (Live lost ∧ resting lost ∧ lost.host.hold = true ∧ lost.host.defer = [] ∧ lost.qsu.queues = [] ∧ lost.qsu.launches = [] ∧ lost.cores = [] ∧
      lost.movers = []) ∧
    (let x : MvTxn := ⟨0, 16, 2 ^ 45 + 64, 0, 128, 0, 0, true⟩
     let st := { streamA toPlate with txns := [x] }
     let s := { lost with movers := [(3, ⟨some st, []⟩)] }
     Live s ∧ st.st = .running ∧ st.txns = [x] ∧ dsOp st.desc = 0 ∧ paTier x.src = 2) := by
  unfold Live resting logsOnly
  and_intros <;> decide +kernel

/-- Port 23 in a mode, as given, its errors logged only. -/
def portA (mode : Nat) (p : Port) : State :=
  portSet (regPut (regSet (staffed State.reset) (0x80000 + 0x800 * 23) 1 0 mode) (frOff (rideRec 23) + 0x20) 0) 23 p

/-- A cell in the replay buffer. -/
def replayed (tries : Nat) : RCell := ⟨1, 9, [1, 2, 3], 0, tries, false, false⟩

theorem witness_RideLinks :
    (∀ m ∈ [1, 2, 3], ∀ st ∈ [0, 1, 2, 3, 4, 5], let s := portA m { port0 with st := st }
      Live s ∧ s.prf.run = none ∧ (∀ j < 24, (portGet s j).waitq = []) ∧ (portGet s 23).st = st ∧ mode s < 2 ∧ rwsLocked s = false ∧ portMode s 23 = m ∧
        s.qsu.evOn = false ∧ s.ride.waits = [] ∧ (portGet s 23).replay = [] ∧ logsOnly s (rideRec 23) 0 ∧ logsOnly s (rideRec 23) 1 ∧
        logsOnly s (rideRec 23) 2 ∧ resting s) ∧
    2 ≤ mode (regSet (portA 1 port0) 0x20008 18 16 3) ∧
    (∀ n ∈ [3, 4], let p := { port0 with st := 3, lanes := 15, nserial := 7, nport := n, nmode := 1 }
      Live (portA 1 p) ∧ (portGet (portA 1 p) 23).nserial = 7 ∧ (portGet (portA 1 p) 23).lanes = 15) ∧
    (portGet (portA 1 { port0 with st := 2, lockTimer := true }) 23).lockTimer = true ∧
    (∀ n ∈ [0, 7, 8], let s := portA 1 { port0 with st := 2, replay := [replayed n], bad := n == 8 }
      Live s ∧ (portGet s 23).replay = [replayed n]) ∧
    (let hdr := 15 * 2 ^ 124 + 9 * 2 ^ 81 + 3 * 2 ^ 72
     bitsOf hdr 127 124 = 15 ∧ bitOf hdr 80 = false ∧ (replayed 0).lseq = bitsOf hdr 96 81) := by
  unfold Live logsOnly resting
  and_intros <;> decide +kernel

/-- Port 5 in Ride mode with seven cells accepted, its errors logged only. -/
def ridden (s : State) : State :=
  portSet (regPut (regSet s 0x82800 1 0 1) (frOff (rideRec 5) + 0x20) 0) 5 { port0 with st := 2, rx := 7 }

/-- The header of the next cell of a type there. -/
def hdrA (ty : Nat) : Nat := ty * 2 ^ 124 + 8 * 2 ^ 97

/-- A CHAIN cell of identifier 7: period, FIRST and words. -/
def chainA (per first n : Nat) : List Byte := leBytes 16 (7 * 2 ^ 116 + per * 2 ^ 100 + first * 2 ^ 84 + n * 2 ^ 77) ++ leBytes 32 77

/-- A LAUNCH on core 0 whose slot 1 receives identifier 7 at port 5. -/
def bound : State :=
  { staffed State.reset with qsu := { qsu0 with launches := [{ launchA with
      cores := [0], groves := [0], chains := leBytes 16 1 ++ leBytes 16 (2 ^ 85 + 7 * 2 ^ 68 + 3) ++ List.replicate 224 0 }] } }

/-- A TILE cell for landing 9: period, offset and TAG 4, with `n` bytes. -/
def tileA (per off n : Nat) : List Byte := leBytes 16 (9 * 2 ^ 112 + per * 2 ^ 96 + off * 2 ^ 72 + 4 * 2 ^ 56) ++ List.replicate n 0xA5

/-- Landing 9 in the canopy's first page, 4,096 bytes from it. -/
def landed9 : State := { staffed State.reset with ride := { ride0 with land := [(9, [0, 4096, 2 ^ 20, 0])] } }

/-- RIDE_RWIN serves port 5. -/
def servedA (s : State) : State := { regPut (regSet s 0x82800 8 8 1) 0x8C008 (2 ^ 57) with ride := { s.ride with rwinOk := true } }

theorem witness_RideCells_arrivals :
    (∀ s ∈ [staffed State.reset, bound, landed9], Live (ridden s) ∧ (ridden s).prf.run = none ∧ portIdle (ridden s) 5 1 ∧ resting (ridden s) ∧
      (ridden s).coh = coh0 ∧ (ridden s).tiers.poison = [] ∧ (ridden s).qsu.evOn = false ∧ logsOnly (ridden s) (rideRec 5) 2 ∧
      ∀ ty ∈ [1, 2, 3, 4, 5, 6, 7, 8], nextCell (ridden s) 5 (hdrA ty) ty) ∧
    bitsOf (2 ^ 124) 112 97 ≠ ((portGet (ridden bound) 5).rx + 1) % 65536 ∧
    (∀ p ∈ [(chainA 0 0 2, Judge.deliver 0 1), (chainA 0 3 2, .hold), (chainA 1 0 2, .hold), (chainA 65535 0 2, .stale), (chainA 0 0 0, .malformed)],
      judgeChain (ridden bound) 5 ⟨1, 8, p.1, 0, 0, false, false⟩ = p.2) ∧
    (tileFits (tileA 0 1000 100) = false ∧ tileFits (tileA 0 0 64) = true) ∧
    (∀ p ∈ [(tileA 0 0 64, 0), (tileA 65535 0 64, 2)], judgeTile (ridden landed9) 5 p.1 = p.2) ∧
    judgeTile (ridden bound) 5 (tileA 0 0 64) = 1 ∧ landEntry (ridden landed9) 9 = some [0, 4096, 2 ^ 20, 0] ∧
    leKind [0, 4096, 2 ^ 20, 0] = 0 ∧ leSel [0, 4096, 2 ^ 20, 0] = 0 ∧ hostBias (ridden landed9) 64 = false ∧
    (∀ x ∈ (ridden landed9).cores, x.2.hints = []) := by
  unfold Live portIdle nextCell resting logsOnly
  and_intros <;> decide +kernel

theorem witness_RideCells_answers :
    (∀ w ∈ [[], [txnA]], let st := { streamA toPlate with txns := w }
      let s := ridden { moving (some st) [] with ride := { ride0 with tiles := [⟨77, 3, 0, 32⟩] } }
      Live s ∧ portIdle s 5 1 ∧ nextCell s 5 (hdrA 8) 8 ∧ s.ride.tiles = [⟨bitsOf 77 15 0, 3, 0, 32⟩] ∧ 3 ≠ resliceMover ∧
        moverGet s 3 = ⟨some st, []⟩) ∧
    (let s := ridden (staffed State.reset)
     remoteServed s 5 = false ∧ s.ride.lands = [] ∧ s.qsu.queues = [] ∧ (∀ f ∈ s.ride.fences, f.1 ≠ (portGet s 5).nserial)) ∧
    (let s := ridden { staffed State.reset with ride := { ride0 with fences := [(0, 5, 1, 9)] } }
     Live s ∧ portIdle s 5 1 ∧ nextCell s 5 (hdrA 3) 3 ∧ s.ride.fences = [((portGet s 5).nserial, 5, 1, 9)] ∧ remoteServed s 5 = false) ∧
    (let s := servedA (ridden (holding (staffed State.reset) 64 (leBytes 8 12)))
     Live s ∧ portIdle s 5 1 ∧ remoteServed s 5 = true ∧ s.ride.fences = [] ∧ remotePA s 64 = (64, 0) ∧ rangeHeld s (rideSrc 5) 0 64 8 true = false ∧
       rangeHeld s (rideSrc 5) 0 64 8 false = false ∧ hostBias s 1 = false ∧ leNat (paRead s 0 64 8).1 = 12 ∧ nextCell s 5 (hdrA 3) 3 ∧
       nextCell s 5 (hdrA 5) 5 ∧ nextCell s 5 (hdrA 6) 6 ∧ resting s ∧ (∀ l ∈ rangeLines 64 8, hostBias s l = false)) ∧
    (let s := ridden { staffed State.reset with ride := { ride0 with waits := [⟨2, 5, 5, 0, 0⟩] } }
     Live s ∧ portIdle s 5 1 ∧ nextCell s 5 (hdrA 4) 4 ∧ s.ride.waits = [⟨2, bitsOf (5 * 2 ^ 100) 127 100, 5, 0, 0⟩]) ∧
    (let l := { loadA 3 false none with tag := 9 }
     let s := ridden { onCore { coreA with loads := [l] } with ride := { ride0 with waits := [⟨0, 77, 5, 0, 9⟩] } }
     Live s ∧ portIdle s 5 1 ∧ nextCell s 5 (hdrA 7) 7 ∧ s.ride.waits = [⟨0, bitsOf (77 * 2 ^ 40) 63 40, 5, 0, l.tag⟩] ∧ (coreGet s 0).loads = [l] ∧
       coreFree { coreGet s 0 with loads := [] } = true ∧ (coreGet s 0).latch = slots0) := by
  unfold Live portIdle nextCell resting
  and_intros <;> decide +kernel

/-- An Ethernet port 4 with memory region 3, or with that proof running. -/
def ethered (w base len : Nat) : State :=
  { holding (proving (descA 6 [4096, 5, 2])) (7 * 2 ^ 20 + 0x10000 + 32 * 3) (leBytes 8 w ++ leBytes 8 base ++ leBytes 8 len) with qsu := qsu0 }

def proved (r : PrfRun) : State :=
  let s := holding (proving (descA 6 [4096, 5, 2])) (7 * 2 ^ 20 + 0x40000 + 128 * 3 + 40) (leBytes 8 3)
  { s with qsu := qsu0, prf := { s.prf with run := some r } }

theorem witness_EthernetRequests :
    (∀ w ∈ [2 ^ 62 + 2 ^ 61 + 5 * 2 ^ 32, 2 ^ 63 + 2 ^ 61 + 5 * 2 ^ 32, 2 ^ 63 + 2 ^ 62 + 5 * 2 ^ 32, 2 ^ 63 + 2 ^ 62 + 2 ^ 61 + 5 * 2 ^ 32],
      let s := ethered w 64 4096
      Live s ∧ portUp s 4 2 = true ∧ ethRegion s ((5 * 4096 + 3) % 4096) 0 = w ∧ bitsOf w 51 32 = (5 * 4096 + 3) / 4096 % 2 ^ 20 ∧ s.coh = coh0 ∧
        s.tiers.poison = [] ∧ resting s) ∧
    (let s := ethered (2 ^ 63 + 2 ^ 62 + 2 ^ 61 + 5 * 2 ^ 32) 64 4096
     ethRegion s 3 1 = 64 ∧ ethRegion s 3 2 = 4096 ∧ (translate s 0 64).1 = .leaf leafA ∧ eR leafA.ent = true ∧ eW leafA.ent = true ∧
       paTier (ePage leafA.ent) = 0 ∧ eSel leafA.ent = 0 ∧ rangeHeld s (rideSrc 4) 0 (leafPA leafA 64) 64 true = false ∧
       rangeHeld s (rideSrc 4) 0 (leafPA leafA 64) 64 false = false ∧ (∀ l ∈ rangeLines (leafPA leafA 64) 64, hostBias s l = false)) ∧
    (∀ p ∈ [(0, 0), (3, 0), (1, 2), (4, 0), (5, 3)], let s := proved { capturing with sto := p.1, retry := p.2, auto := true }
      Live s ∧ rangerUp s = true ∧ bitsOf (qpWord s (storeQp s) 0) 63 61 = 6 ∧ portUp s (bitsOf (qpWord s (storeQp s) 0) 60 56) 2 = true ∧
        qpWord s (storeQp s) 5 % 256 = 3 ∧ s.qsu.evOn = false ∧ s.coh = coh0) := by
  unfold Live resting
  and_intros <;> decide +kernel

/-- A PAIR port 9 with seven cells accepted, slots of 8 GiB, and the proof engine's own state. -/
def partnering (f : Prf → Prf) : State :=
  let s := regPut (regPut (regSet State.reset 0x84800 1 0 3) (frOff 0xA95 + 0x20) 0) 0x50028 8
  let s := portSet s 9 { port0 with st := 2, rx := 7 }
  { s with prf := f s.prf }

/-- A block whose digest a COMMIT names. -/
def blockA : List Byte := leBytes 64 77

theorem witness_ProofPartner :
    (∀ s ∈ [partnering id, portSet (partnering id) 9 { port0 with st := 2, rx := 7, nserial := 3 }, partnering (fun p => { p with pair := 4 })],
      Live s ∧ portIdle s 9 3 ∧ nextCell s 9 (hdrA 10) 10 ∧ s.tiers.owHeld = [] ∧ s.prf.run = none ∧ s.qsu.evOn = false ∧ pairUp s = [9] ∧
        logsOnly s 0xA95 0 ∧ logsOnly s 0xA95 1) ∧
    fromPartner (partnering id) 9 = true ∧ 0 < slotGib (partnering id) ∧
    fromPartner (portSet (partnering id) 9 { port0 with st := 2, rx := 7, nserial := 3 }) 9 = false ∧
    (∀ k ∈ [0, 1, 2, 3, 4, 5, 6, 7], pcKind (prfCell k 9 0 64 0 0 blockA) = k) ∧
    (let r : RecvRun := ⟨9, 1, [(0, 64)], tabPut [] 0 blockA⟩
     let d := prfCell 2 9 0 0 0 0 (leBytes 8 64 ++ digestBytes blockA)
     pcGen d = r.gen ∧ covers r.got 0 64 = true ∧ digestBytes (tabBytes r.img 0 64) = ((pcData d).drop 8).take 48 ∧ fieldAt (pcData d) 0 8 = 64) ∧
    (let d := prfCell 4 9 0 64 128 0 []
     pcOff d < hdrOff ∧ pcLen d ≤ 1024 ∧ 4096 + pcOff d + pcLen d ≤ slotGib (partnering id) * gib) ∧
    (let r := { capturing with phase := 3, gen := 9, want := 1, auto := true }
     let s := partnering (fun p => { p with run := some r })
     Live s ∧ portIdle s 9 3 ∧ nextCell s 9 (hdrA 10) 10 ∧ r.gen = pcGen (prfCell 3 9 0 0 0 0 []) ∧ dWord r.body 6 = 0 ∧ dWord r.body 7 = 0) ∧
    covers [(hdrAt 0, 1024)] (hdrAt 0) 4096 = false := by
  unfold Live portIdle nextCell logsOnly
  and_intros <;> decide +kernel

/-- Core 0 in service, the ranger running. -/
def powered : State := ranging (staffed State.reset)

/-- Power's own state changed. -/
def powering (s : State) (f : Pwr → Pwr) : State := { s with pwr := f s.pwr }

/-- A LAUNCH whose cores of grove 0 wait to be started. -/
def startingA : State :=
  { State.reset with cores := [(0, { coreA with st := .loading }), (1, { coreA with st := .loading })], qsu := { qsu0 with launches := [{ launchA with cores := [0, 1] }] } }

theorem scaledEst_plain (e : Est) (d : Nat) (h : e.t = e.total) : scaledEst e d = e.dyn.getD d 0 + e.leak.getD d 0 := by
  unfold scaledEst scaled
  split
  · rfl
  · rw [h, Nat.mul_div_cancel _ (by omega)]

theorem estimate_dyn (u : State) (volt curr : Nat) (cnt : List Nat) : (estimate u volt curr cnt).dyn.getD 0 0 = kFactor u * dynRaw u 0 cnt / 4096 := by
  simp only [estimate, List.range_succ, List.range_zero, List.nil_append, List.cons_append, List.map_cons, List.getD_cons_zero]
theorem estimate_t (u : State) (volt curr : Nat) (cnt : List Nat) (h4 : pwrFlag u 4 = false) (h5 : pwrFlag u 5 = false) : (estimate u volt curr cnt).t = (estimate u volt curr cnt).total := by simp [estimate, h4, h5]
theorem dynRaw_pos (u : State) (v n : Nat) (hn : n = 810000) (hd : (domPoint 0 (domGet u 0).point).2 = v) (hv : 0 < v) (hw : 0 < Config.calWeight 0 0) : 0 < dynRaw u 0 [n] := by
    have w : weighted 0 [n] = Config.calWeight 0 0 * n := by simp [weighted, domCounts]
    simp only [dynRaw, w, if_pos (show (0 : Nat) < 4 by decide), hd]
    apply Nat.div_pos _ (by norm_num)
    have p : 1 ≤ Config.calWeight 0 0 * (v * v) := Nat.mul_pos hw (Nat.mul_pos hv hv)
    calc 900 * 900 = 1 * n := by rw [hn]
      _ ≤ Config.calWeight 0 0 * (v * v) * n := Nat.mul_le_mul_right _ p
      _ = Config.calWeight 0 0 * n * v * v := by ac_rfl

/-- A part that draws anything per count draws more than nothing. -/
theorem draws (u : State) (volt curr n v : Nat) (hn : n = 810000) (h4 : pwrFlag u 4 = false) (h5 : pwrFlag u 5 = false) (hk : kFactor u = 4096)
    (hd : (domPoint 0 (domGet u 0).point).2 = v) (hv : 0 < v) (hw : 0 < Config.calWeight 0 0) : 0 < scaledEst (estimate u volt curr [n]) 0 := by
  rw [scaledEst_plain _ _ (estimate_t u volt curr [n] h4 h5), estimate_dyn, hk, Nat.mul_div_cancel_left _ (by norm_num)]
  have := dynRaw_pos u v n hn hd hv hw
  omega

theorem witness_PowerBudget :
    (∀ s ∈ [powered, startingA, { powered with pwr := { pwr0 with temps := List.replicate 29 30 } }], Live s ∧ quiet s ∧ pwrFlag s 5 = false) ∧
    4100 % 65536 < 4200 ∧ (liveStands powered).contains 0 = true ∧
    (groveWaits startingA 0 = true ∧ ∀ h < 0, groveWaits startingA h = false) ∧
    (∀ p ∈ [0, 1, 2], let s := domSet State.reset 2 { dom0 with step := p, target := 7 }
      Live s ∧ (domGet s 2).step = p) ∧
    (∀ s ∈ [State.reset, powering State.reset (fun p => { p with spoil := true }), powering State.reset (fun p => { p with sumM := 900, sumL := 100, sumD := 700 })],
      Live s ∧ pwrFlag s 5 = false ∧ disturbed s = false) ∧
    (powering State.reset (fun p => { p with sumM := 900, sumL := 100, sumD := 700 })).pwr.sumD ≠ 0 ∧
    (rangerUp powered = true ∧ rangerUp State.reset = false) ∧
    (∀ i < 4, let s := regPut State.reset (frOff (0xA8C + i) + 0x20) 0
      let temps := [20 + 82 * bnat (i == 0), 20, 20, 20, 20 + 82 * bnat (i == 1), 20, 20, 20, 20 + 82 * bnat (i == 2), 20, 20, 20, 20 + 82 * bnat (i == 3)] ++ List.replicate 16 20
      Live s ∧ s.pwr.hot = [] ∧ s.pwr.cool = [] ∧ threshold i 0 ≤ sensorTemp (temps.take 29) i ∧ sensorTemp (temps.take 29) i < threshold i 1 ∧
        (∀ j < 17, j ≠ i → sensorTemp (temps.take 29) j < threshold j 0) ∧ logsOnly s (0xA8C + i) 3) ∧
    ∀ i < 17, sensorTemp ((List.replicate 29 30).take 29) i < threshold i 0 := by
  unfold Live quiet logsOnly
  and_intros <;> decide +kernel

/-- The stand's budget buys nothing at 0 V, where its share of the estimate is above it if its first part draws anything per count. -/
theorem witness_PowerBudget_over (n : Nat) (hn : n = 810000) (hw : 0 < Config.calWeight 0 0) :
    let u := applyCeilings (classify (regSet (regSet powered 0x70040 47 32 (0 % 65536)) 0x70040 15 0 (0 % 65536)) (0 % 65536))
    domBudget powered 0 * duEnergy (0 % 65536) < scaledEst (estimate u (0 % 65536) (currDraw (0 % 65536)) [n]) 0 ∧ (domGet u 0).point < domFloor 0 := by
  refine ⟨?_, by decide +kernel⟩
  have h := draws (applyCeilings (classify (regSet (regSet powered 0x70040 47 32 (0 % 65536)) 0x70040 15 0 (0 % 65536)) (0 % 65536))) (0 % 65536) (currDraw (0 % 65536))
    n _ hn (by decide +kernel) (by decide +kernel) (by decide +kernel) rfl (by decide +kernel) hw
  have z : domBudget powered 0 * duEnergy (0 % 65536) = 0 := by decide +kernel
  rwa [z]

/-- A flag of PWR_STATUS set, and the measured voltage and current. -/
def flagged (s : State) (f volt curr : Nat) : State := regSet (regSet (regSet s 0x70030 f f 1) 0x70040 47 32 volt) 0x70040 15 0 curr

theorem witness_PowerEvents :
    (∀ s ∈ [State.reset, flagged State.reset 4 4800 500], Live s ∧ quiet s ∧ s.qsu.evOn = false) ∧
    (let s := powering (regPut (flagged State.reset 6 1900 30000) (frOff 0xA93 + 0x20) 0) (fun p => { p with agree := 500, aboveN := 10 })
     Live s ∧ pwrFlag s 4 = false ∧ pwrFlag s 5 = false ∧ pwrFlag s 3 = false ∧ 500 ≤ s.pwr.agree ∧ 10 ≤ s.pwr.aboveN ∧
       regField s 0x70040 47 32 < 2000 ∧ inBounds 5000 (regField s 0x70040 15 0) = false ∧ logsOnly s 0xA93 0) ∧
    (let s := powering (flagged State.reset 3 4800 500) (fun p => { p with under := 500 })
     Live s ∧ pwrFlag s 3 = true ∧ 500 ≤ s.pwr.under) ∧
    (let s := flagged State.reset 2 4400 500
     Live s ∧ pwrFlag s 2 = true ∧ 4400 ≤ regField s 0x70040 47 32 ∧ pwrFlag s 5 = false ∧ regField s 0x1F1010 10 10 = 0 ∧ s.pwr.log.length < 256) ∧
    (∀ g ∈ [998, 999, 1000], let s := powering State.reset (fun p => { p with ripGap := g, ripple := true })
      Live s ∧ s.pwr.ripple = true ∧ (min 1000 (s.pwr.ripGap + 1) < 1000 ↔ g = 998) ∧ 100 ≤ regField s 0x70028 15 0 ∧ regField s 0x70028 15 0 < 65535) ∧
    (∀ n ∈ [9, 10], let s := powering State.reset (fun p => { p with low := n })
      Live s ∧ s.pwr.low = n ∧ pwrFlag s 5 = false) ∧
    frozen (powerGone State.reset) = true ∧
    (∀ p ∈ [⟨true, true, false⟩, ⟨true, false, true⟩, ⟨true, true, true⟩, pin0], let s := powering State.reset (fun q => { q with throttle := p, alert := p })
      Live s ∧ s.pwr.throttle = p ∧ s.pwr.alert = p) := by
  unfold Live quiet logsOnly
  and_intros <;> decide +kernel

/-- A record's reactions all LOG. -/
def recording (s : State) (r : Nat) : State := regPut s (frOff r + 0x20) 0

theorem witness_FaultRecords :
    (∀ r ∈ [0xA5C, 0xA5F, 0xA96], frClass r = none) ∧
    (∀ r ∈ [0, 0x95F, 0x960, 0x990, 0xA4F, 0xA50, 0xA5B, 0xA60, 0xA6F, 0xA70, 0xA88, 0xA8C, 0xA90, 0xA95], let s := recording State.reset r
      Live s ∧ (frClass r).isSome = true ∧ logsOnly s r 0 ∧ logsOnly s r 1 ∧ regField s (frOff r + 0x30) 63 63 = 0 ∧ resting s ∧ mode s < 3) ∧
    (∀ r ∈ [0x990, 0xA70, 0xA95], ∀ k ∈ [1, 2], let s := regSet (regSet (recording State.reset r) (frOff r) 2 0 k) (frOff r) 4 4 1
      Live s ∧ frState s r = k ∧ regField s (frOff r) 4 4 = 1 ∧ regField s (frOff r + 0x20) 2 0 = 0 ∧ resting s) ∧
    (frClass 0xA94 = some 12 ∧ regField State.reset (frOff 0xA94 + 0x20) 6 4 = 5 ∧ frState State.reset 0xA94 = 0 ∧ regField State.reset (frOff 0xA94) 4 4 = 0) ∧
    (frClass 0xA57 = some 3 ∧ ctlRecord ((4096 * 7 + 64) / 64) = 0xA57 ∧ paValid (4096 * 7 + 64) = true ∧ logsOnly (recording State.reset 0xA57) 0xA57 1) ∧
    (∀ p ∈ [(0, 60, 40), (0xA8C, 60, 40)], p.2.2 ≤ p.2.1) ∧
    (let s := regSet (recording State.reset 5) (frOff 5 + 0x80) 15 0 40
     Live s ∧ frClass 5 = some 0 ∧ 40 ≤ regField s (frOff 5 + 0x80) 15 0 ∧ logsOnly s 5 7) ∧
    (let s := recording State.reset 0xA8C
     Live s ∧ frClass 0xA8C = some 7 ∧ regField s (frOff 0xA8C + 0x80) 31 16 ≤ 300 ∧ logsOnly s 0xA8C 2) ∧
    hasCheck 0 6 = true ∧ hasCheck 0 7 = false := by
  unfold Live logsOnly resting
  and_intros <;> decide +kernel

theorem witness_RangerWorks :
    (∀ s ∈ [State.reset, ranging State.reset], Live s ∧ s.qsu.evOn = false ∧ s.prf.risk < 256) ∧ rangerUp State.reset = false ∧
    (let s := { ranging State.reset with flt := { flt0 with restored := true } }
     Live s ∧ rangerUp s = true ∧ shedLevel s = 0 ∧ s.flt.restored = true) ∧
    (∀ p ∈ [(0, 9, 99), (2, 9, 99), (3, 9, 99)], let s := regSet (recording { ranging State.reset with life := { life0 with hi := p.2.1, lo := p.2.2 } } 0xA94) 0x1F1010 9 8 p.1
      Live s ∧ rangerUp s = true ∧ shedLevel s = p.1 ∧ s.life.hi = 9 ∧ s.life.lo = 99 ∧ logsOnly s 0xA94 3 ∧ logsOnly s 0xA94 2) ∧
    (2304 < 231 * 10 ∧ 230 * 10 ≤ 2304 ∧ 1792 ≤ 180 * 10 ∧ 179 * 10 < 1792) ∧
    (let s := { ranging (regSet (regPut State.reset 0x1F1000 0x110040) 0x1F1000 7 0 64) with flt := { flt0 with eol := 5, armed := true } }
     Live s ∧ rangerUp s = true ∧ max 1 (regField s 0x1F1000 7 0) ≤ 64 * (365 - s.flt.eol) / 365 + 2 ∧ s.flt.above = false ∧ s.flt.armed = true ∧
       regField s 0x1F1000 16 16 = 1) := by
  unfold Live logsOnly
  and_intros <;> decide +kernel

/-- A complex that has run: a core with a plate, bytes in three tiers, and a command waiting. -/
def worn (m lc : Nat) : State :=
  { regSet (onCore { coreA with a := { coreA.a with plate := [(3, 5)] } }) 0x20008 18 16 m with
    tiers := { tiers0 with bytes := [(77, 3), (2 ^ 44 + 5, 6), (2 * 2 ^ 44 + 64, 9)] }, pending := [.resetPin], life := { life0 with lc := lc, released := true } }

theorem witness_Resets :
    ((worn 3 2).life.on = true ∧ mode (worn 5 2) = 5 ∧ mode (worn 3 2) ≠ 5 ∧ (powerGone (worn 3 2)).life.on = false) ∧
    (∀ lc ∈ [0, 1, 2, 3], Live (worn 1 lc) ∧ (worn 1 lc).life.released = true ∧ mode (worn 1 lc) ≤ 1 ∧ (worn 1 lc).life.lc = lc) ∧
    (Live (worn 3 2) ∧ 1 < mode (worn 3 2)) ∧ (Live State.reset ∧ State.reset.life.released = false) := by
  unfold Live
  and_intros <;> decide +kernel

theorem crcBits_lt (n c : Nat) (h : c < 2 ^ 32) : crcBits n c < 2 ^ 32 := by
  induction n generalizing c with
  | zero => exact h
  | succ n ih =>
    unfold crcBits
    apply ih
    split
    · exact Nat.xor_lt_two_pow (by omega) (by norm_num)
    · omega

theorem crc32_lt (l : List Byte) : crc32 l < 2 ^ 32 := by
  unfold crc32
  apply Nat.xor_lt_two_pow _ (by norm_num)
  have g : ∀ c, c < 2 ^ 32 → l.foldl (fun c b => crcBits 8 (c ^^^ b.toNat)) c < 2 ^ 32 := by
    induction l with
    | nil => exact fun c h => h
    | cons b l ih => exact fun c h => ih _ (crcBits_lt _ _ (Nat.xor_lt_two_pow h (by have := b.isLt; omega)))
  exact g _ (by norm_num)

theorem leNat_leBytes (n x : Nat) (h : x < 256 ^ n) : leNat (leBytes n x) = x := by
  induction n generalizing x with
  | zero => simp [leBytes, leNat]; omega
  | succ n ih =>
    simp only [leBytes, leNat, BitVec.toNat_ofNat]
    rw [ih _ (by rw [Nat.pow_succ] at h; omega)]
    omega

@[simp] theorem leBytes_length (n x : Nat) : (leBytes n x).length = n := by
  induction n generalizing x with
  | zero => rfl
  | succ n ih => simp [leBytes, ih]

/-- The first 32 bytes of a wear area of this complex, and a whole one with its checksum. -/
def wearHead : List Byte := leBytes 8 0x000152414557 ++ (leBytes 8 (Config.serial % 2 ^ 64) ++ (leBytes 8 1 ++ leBytes 8 77))
def wearTail : List Byte := List.replicate 65500 0
def wearArea : List Byte := wearHead ++ (leBytes 4 (crc32 (wearHead ++ ([0, 0, 0, 0] ++ wearTail))) ++ wearTail)

/-- A complex whose wear area is that. -/
def wearing : State := regSet (ranging (holding State.reset 0x30000 wearArea)) 0x20028 45 16 3

theorem wearHead_length : wearHead.length = 32 := by simp [wearHead]

theorem wearTail_length : wearTail.length = 65500 := List.length_replicate

theorem wearArea_length : wearArea.length = 65536 := by
  unfold wearArea
  rw [List.length_append, List.length_append, wearHead_length, leBytes_length, wearTail_length]

theorem wearArea_sum : fieldAt wearArea 0x20 4 = crc32 (listPut wearArea 0x20 [0, 0, 0, 0]) := by
  have e : listPut wearArea 0x20 [0, 0, 0, 0] = wearHead ++ ([0, 0, 0, 0] ++ wearTail) := by
    unfold listPut wearArea
    rw [List.take_left' wearHead_length, ← List.append_assoc wearHead (leBytes 4 _) wearTail, List.drop_left' (by simp [wearHead_length]), List.append_assoc]
  rw [e]
  unfold fieldAt wearArea
  rw [List.drop_left' wearHead_length, List.take_left' (by simp)]
  exact leNat_leBytes _ _ (crc32_lt _)

theorem witness_StartUp_wear :
    Live wearing ∧ mode wearing ≠ 4 ∧ wearing.qsu.evOn = false ∧ rangerUp wearing = true ∧ wearing.flt.restored = false ∧ wearInCanopy wearing = true ∧
    (let b := (paRead wearing 0 (wearPA wearing) 65536).1
     fieldAt b 0 8 = 0x000152414557 ∧ fieldAt b 8 8 = Config.serial % 2 ^ 64 ∧ fieldAt b 0x20 4 = crc32 (listPut b 0x20 [0, 0, 0, 0])) := by
  have a : wearPA wearing = 0x30000 := by decide +kernel
  have r : (paRead wearing 0 (wearPA wearing) 65536).1 = wearArea := by
    rw [a, paRead_plain wearing rfl rfl rfl _ _ (by norm_num)]
    have b : ∀ l, (regSet (ranging (holding State.reset 0x30000 l)) 0x20028 45 16 3).tiers.bytes = tabPut [] 0x30000 l := fun _ => rfl
    have := tabBytes_tabPut_same ([] : Tab Byte) 0x30000 wearArea
    rw [wearArea_length] at this
    unfold wearing
    rw [b, this]
  rw [r]
  refine ⟨by unfold Live; and_intros <;> decide +kernel, by decide +kernel, by decide +kernel, by decide +kernel, by decide +kernel, by decide +kernel, ?_, ?_, wearArea_sum⟩
  · unfold fieldAt wearArea wearHead
    rw [List.drop_zero, List.append_assoc, List.take_left' (by simp)]
    exact leNat_leBytes _ _ (by norm_num)
  · unfold fieldAt wearArea wearHead
    rw [List.append_assoc, List.drop_left' (by simp), List.append_assoc, List.take_left' (by simp)]
    exact leNat_leBytes _ _ (by omega)

/-- A complex whose start-up has come as far as said. -/
def starting (released ramped fused tested : Bool) (lc fw : Nat) : State :=
  { regSet (onCore { coreA with st := .idle }) 0x20020 3 0 fw with
    life := { life0 with lc := lc, released := released, ramped := ramped, fused := fused, tested := tested } }

/-- Every memory wiped (R255, R499). -/
def wiped (s : State) : State := { s with tiers := { s.tiers with wPlates := true, wCaches := true, wErased := true, wCanopy := true } }

/-- A firmware image of `len` bytes at 64 KiB, its limit as given: header fields, with `x` in a byte that must be zero. -/
def imaged (magic svn key len limit x lc : Nat) : State :=
  let s := holding (starting true true true true lc 1) 0x10000 (leBytes 4 magic ++ leBytes 4 5 ++ leBytes 2 svn ++ leBytes 2 key ++ leBytes 4 len)
  let s := holding (holding s 0x10070 (leBytes 1 x)) 0x11000 [1, 2, 3]
  regSet (regSet { s with life := { s.life with minSvn := 3 } } 0x20018 45 12 16) 0x20018 61 48 limit

theorem witness_StartUp :
    (∀ s ∈ [State.reset, starting true false false false 1 0, starting true true false false 2 0, starting true true true false 0 0], Live s) ∧
    ((starting false false false false 1 0).life.released = false ∧ (starting true false false false 1 0).life.ramped = false) ∧
    (let s := starting true true true false 1 0
     s.life.fused = true ∧ s.life.tested = false ∧ mode s = 0 ∧ s.qsu.evOn = false) ∧
    (∀ p ∈ [(0, 0, 7), (0x960, 1, 5), (0x990, 2, 3), (0xA70, 5, 5), (0xA50, 3, 8), (0xA94, 12, 3)], frClass p.1 = some p.2.1 ∧ p.2.2 < srcCount p.2.1) ∧
    (let s := wiped (starting true true true true 1 0)
     Live s ∧ fwState s = 0 ∧ s.life.tested = true ∧ s.tiers.wPlates = true ∧ s.tiers.wCaches = true ∧ s.tiers.wErased = true ∧ s.tiers.wCanopy = true ∧
       regField s 0x20008 1 1 = 0) ∧
    (∀ f ∈ [2, 3, 6], fwState (starting true true true true 1 f) ≠ 1) ∧
    (∀ p ∈ [(0x57524D5B, 3, 1, 8, 0), (0x57524D5A, 3, 1, 4, 0), (0x57524D5A, 3, 1, 8, 9), (0x57524D5A, 3, 2, 8, 0), (0x57524D5A, 2, 1, 8, 0)],
      fwState (imaged p.1 p.2.1 p.2.2.1 100 p.2.2.2.1 p.2.2.2.2 2) = 1) ∧
    mode (regSet State.reset 0x20008 18 16 4) = 4 := by
  unfold Live
  and_intros <;> decide +kernel

theorem witness_StartUp_image :
    let s := imaged 0x57524D5A 3 1 100 8 0 2
    let pa := regField s 0x20018 45 12 * 4096
    let h := (paRead s 0 pa 4096).1
    Live s ∧ fwState s = 1 ∧ (paTier pa = 0 ∧ pa + 4096 + fieldAt h 12 4 ≤ 1152 * gib) ∧
      (fieldAt h 0 4 = 0x57524D5A ∧ (∀ x ∈ h.drop 112, x = 0) ∧ 4096 + fieldAt h 12 4 ≤ regField s 0x20018 61 48 * 1024 ∧ 4096 + fieldAt h 12 4 ≤ 8 * 2 ^ 20) ∧
      (s.life.lc = 2 ∧ fieldAt h 10 2 = 1) ∧ s.life.minSvn ≤ fieldAt h 8 2 := by
  intro s pa h
  have a : pa = 0x10000 := by decide +kernel
  have e : h = tabBytes s.tiers.bytes 0x10000 4096 := by
    unfold h
    rw [a, paRead_plain s rfl rfl rfl _ _ (by norm_num)]
  have z : ((tabBytes s.tiers.bytes 0x10000 4096).drop 112).all (fun x => x == 0) = true := by decide +kernel
  rw [e, a]
  refine ⟨by unfold Live; and_intros <;> decide +kernel, by decide +kernel, ⟨by decide +kernel, by decide +kernel⟩,
    ⟨by decide +kernel, fun x hx => by simpa using List.all_eq_true.mp z x hx, by decide +kernel, by decide +kernel⟩, ⟨by decide +kernel, by decide +kernel⟩, by decide +kernel⟩

/-- Registers that pass every check of an enable, the check under way. -/
def checking : State :=
  let s := wiped (starting true true true true 2 2)
  { s with regs := (regPut (regPut (regPut (regPut (regPut (regPut (regPut (regPut (regPut State.reset 0x60000 0x40800) 0x20008 4) 0x20020 2) 0x30010 4096) 0x30018 0x108)
    0x40010 0x4000) 0x40018 0x108) 0x40020 64) 0x50020 0x4000).regs }

theorem foldl_add_le {α : Type} (f : α → Nat) (b : Nat) (h : ∀ x, f x ≤ b) (l : List α) (a : Nat) :
    l.foldl (fun a x => a + f x) a ≤ a + b * l.length := by
  induction l generalizing a with
  | nil => simp
  | cons x l ih =>
    have := ih (a + f x)
    have := h x
    rw [List.foldl_cons, List.length_cons, Nat.mul_succ]
    omega

theorem nextServing_length (s : State) (g : Nat) : (nextServing s g).length ≤ 50 := by
  unfold nextServing
  refine Nat.le_trans (List.length_filter_le _ _) ?_
  simp [groveCores]

theorem creditsFit_of (s : State) (m : missDepth s = 8) (d : regField s 0x40000 23 16 = 128) (r : regField s 0x8C020 16 0 = 4096)
    (p : regField s 0xB0000 14 0 ≤ 16384) : creditsFit s = true := by
  have n : (List.range 48).foldl (fun a g => a + (nextServing s g).length) 0 ≤ 0 + 50 * (List.range 48).length := foldl_add_le _ 50 (nextServing_length s) _ _
  rw [List.length_range] at n
  unfold creditsFit
  rw [m, d, r]
  revert n
  generalize (List.range 48).foldl (fun a g => a + (nextServing s g).length) 0 = c
  intro n
  simp only [Bool.and_eq_true, decide_eq_true_eq]
  exact ⟨by simp; omega, p⟩

theorem checking_credits : creditsFit checking = true :=
  creditsFit_of _ (by decide +kernel) (by decide +kernel) (by decide +kernel) (by decide +kernel)

theorem checking_passes : checkVerdict checking = none := by
  unfold checkVerdict
  rw [checking_credits]
  decide +kernel

/-- A complex in RUN with nothing running, its wear area in the canopy; or the clearing of its disable at a step. -/
def calmA : State := regSet (regSet (starting true true true true 2 2) 0x20028 45 16 3) 0x20008 18 16 3

def disabling (step : Nat) (auto shut : Bool) : State :=
  { regSet calmA 0x20008 18 16 4 with qsu := { qsu0 with clears := [⟨0, 0, true, List.range 48, step, auto⟩] }, life := { calmA.life with shut := shut } }

theorem witness_EnableAndDisable :
    (Live State.reset ∧ mode State.reset < 3 ∧ regField State.reset 0x20008 2 2 = 0 ∧ State.reset.life.released = false) ∧
    (let s := starting true true true true 2 2
     Live s ∧ mode s < 3 ∧ regField s 0x20008 2 2 = 0 ∧ s.life.released = true) ∧
    (Live checking ∧ regField checking 0x20008 2 2 = 1 ∧ checking.host.hold = false ∧ checking.life.lc ≠ 0 ∧ checking.life.lc ≠ 3 ∧ mode checking ≠ 2 ∧
      enabledEntries checking = [] ∧ uncached checking ∧ resting checking) ∧
    checkVerdict checking = none ∧
    checkVerdict { checking with life := { checking.life with lc := 3 } } = some (0x13, 0xFFFF) ∧
    checkVerdict { checking with tiers := { checking.tiers with wCanopy := false } } = some (0x14, 0xFFFF) ∧
    checkVerdict (regSet checking 0x20020 3 0 3) = some (0x01, 0xFFFF) ∧
    (∀ s ∈ [calmA, regSet calmA 0x20020 3 0 3], Live s ∧ mode s = 3 ∧ uncached s ∧ resting s ∧ s.movers = [] ∧ s.qsu.launches = [] ∧ s.qsu.clears = [] ∧
      s.host.defer = [] ∧ s.prf.run = none ∧ (∀ p ∈ s.qsu.queues, p.2.run = [])) ∧
    (rangerUp calmA = true ∧ wearInCanopy calmA = true ∧ rangerUp (regSet calmA 0x20020 3 0 3) = false) ∧
    (∀ p ∈ [(5, true), (9, true), (9, false)], let s := disabling p.1 p.2 true
      Live s ∧ mode s = 4 ∧ s.qsu.clears = [⟨0, 0, true, List.range 48, p.1, p.2⟩] ∧ s.life.wearPend = false ∧ s.life.shut = true) ∧
    (disabling 9 true false).life.shut = false := by
  unfold Live uncached resting
  refine ⟨?_, ?_, ?_, checking_passes, ?_⟩ <;> and_intros <;> decide +kernel

theorem witness_RegistersObeyTheirTypes :
    (∀ m ∈ [0, 3], let s := regSet (hosted [0] 1 true) 0x20008 18 16 m
      Live s ∧ barReach s = true ∧ rwsLocked s = decide (m = 3)) ∧
    (Live State.reset ∧ barReach State.reset = false) ∧ (regAt 0x70008).isSome = true ∧ (regAt 0x30108).isSome = true ∧ (frClass 0xA95).isSome = true ∧
    regAt 0x20050 = none := by
  unfold Live
  and_intros <;> decide +kernel

theorem witness_MailboxReadsTheLogs :
    (∀ p ∈ [none, some (1, 7, 8), some (2, 7, 8), some (1, 7, 9), some (3, 7, 8)], ∀ f ∈ [0, 2], let s := regSet (hosted [0] 1 true) 0x20020 3 0 f
      let t := { s with life := { s.life with mbx := p } }
      Live t ∧ barReach t = true ∧ t.life.mbx = p ∧ rangerUp t = decide (f = 2) ∧ shedLevel t = 0) ∧
    shedLevel (regSet (ranging State.reset) 0x1F1010 9 8 3) = 3 ∧ rangerUp (regSet (ranging State.reset) 0x1F1010 9 8 3) = true := by
  unfold Live
  and_intros <;> decide +kernel

theorem witness_StepTakesTheFrontCommand : State.reset.pending = [] := rfl

theorem witness_WellFormedQueuesRun :
    Machine.queueOk { State.reset with pending := [.powerOn, .addi hLast (sc 5 2 0 1), .memRd 3 64, .errorDetected 0xA95 0 1 2, .queueWake 1023] } := by
  unfold Machine.queueOk
  decide

/-- A complex whose feed failed, and one without power. -/
theorem witness_FrozenComplexIgnores :
    (∀ s ∈ [regSet State.reset 0x20008 18 16 5, powerGone State.reset], frozen s = true) ∧
    (∀ i ∈ [Instr.nop hLast 0, .memWr 3 64 1 0 (List.replicate 64 7), .softwareReset, .registerWrite 0x20008 8 1], wellFormed i = true ∧ i ∉ obeyedFrozen) := by
  and_intros <;> decide +kernel

theorem witness_FrozenUntilReset :
    frozen (powerGone State.reset) = true ∧ wellFormed .powerLoss = true ∧ Instr.powerLoss ≠ .resetPin ∧ Instr.powerLoss ≠ .powerOn ∧
    exec .powerLoss (powerGone State.reset) = .next (powerGone (powerGone State.reset)) :=
  ⟨by decide +kernel, rfl, by decide, by decide, rfl⟩

/-- A core whose next bundle holds LI s5 or a wait as its scalar slot. -/
def latched (w : Nat) : State := onCore { coreA with latch := slotPut slots0 .sc w }

/-- LI s5, and a vector instruction's v3 and register 5. -/
def liA : BitVec 26 := BitVec.ofNat 26 (5 * 2 ^ 17 + 77)
def readA : BitVec 42 := BitVec.ofNat 42 (3 * 2 ^ 33 + 5 * 2 ^ 28)

theorem witness_SlotsReadBeforeTheBundle :
    Live (latched (slotWord 26 9 liA)) ∧ hLast.last = true ∧ coreFree (coreGet (latched (slotWord 26 9 liA)) 0) = true ∧
    (coreGet (latched (slotWord 26 9 liA)) 0).latch = slotPut slots0 .sc (slotWord 26 9 liA) ∧
    guardOk (coreGet (latched (slotWord 26 9 liA)) 0).a (fld liA 25 22) = true ∧ guardOk (coreGet (latched (slotWord 26 9 liA)) 0).a (fld readA 41 38) = true ∧
    bundleReady (coreGet (latched (slotWord 26 9 liA)) 0) (slotPut (coreGet (latched (slotWord 26 9 liA)) 0).latch .vec (slotWord 42 32 readA)) = true ∧
    bundleReady (coreGet (latched (slotWord 26 9 liA)) 0) (slotPut (coreGet (latched (slotWord 26 9 liA)) 0).latch .vec (slotWord 42 33 readA)) = true ∧
    fld liA 21 17 ≠ fld readA 37 33 := by
  unfold Live
  and_intros <;> decide +kernel

/-- WAITP of 1 at the plate's byte s7 = 64, and WAITM there. -/
def waitA : BitVec 26 := sc 0 7 4 0

theorem witness_WaitsHoldTheWholeBundle :
    (∀ p ∈ [(Instr.waitp hLast waitA, onCore coreA, slotPut slots0 .sc (slotWord 26 26 waitA)),
        (.waitm hLast waitA, onCore coreA, slotPut slots0 .sc (slotWord 26 27 waitA)),
        (.acz hLast 0, latched (slotWord 26 26 waitA), slotPut (slotPut slots0 .sc (slotWord 26 26 waitA)) .ten (slotWord 42 6 0)),
        (.vnop hLast 0, latched (slotWord 26 27 waitA), slotPut (slotPut slots0 .sc (slotWord 26 27 waitA)) .vec (slotWord 42 0 0))],
      (slotOf p.1).isSome = true ∧ Live p.2.1 ∧ coreFree (coreGet p.2.1 0) = true ∧ bundleLegal p.2.2 = true ∧ guardOk (coreGet p.2.1 0).a (fld waitA 25 22) = true ∧
        vPlateOk (coreGet p.2.1 0).a (vAct (coreGet p.2.1 0).a p.2.2) = true) ∧
    (64 / 8 * 8 + 8 ≤ 0x180000 ∧ leNat (plateGet coreA.a (64 / 8 * 8) 8) < (sget coreA.a (fld waitA 11 7)).toNat) ∧ accessOk coreA 64 8 false leafA := by
  unfold Live accessOk
  and_intros <;> decide +kernel

theorem witness_WindowReadsBack :
    (∀ p ∈ [([0], 1), ([0, 1], 2), ([0, 1, 2, 3], 4)], let s := hosted p.1 p.2 true
      let s := regSet s 0xB0000 19 16 0
      let w := hostOffset s 0 4160 / 64 * 64
      Live s ∧ resting s ∧ uncached s ∧ hostSees s 0 = true ∧ windowStopped s = false ∧ hdmDone s = true ∧ w < winSize ∧ winServes s = true ∧
        (winCur s).2 = 0 ∧ lineTier (winLine s w) = 0 ∧ winHeld s w true = false ∧ winHeld s w false = false ∧ inStash s w = false ∧ s.host.ra = [] ∧
        regField s 0xB0000 19 16 = 0) ∧ (List.replicate 64 (7 : Byte)).length = 64 := by
  unfold Live resting uncached
  and_intros <;> decide +kernel

theorem witness_WindowBeforeTheWipe :
    (∀ c ∈ [false, true], let s := { regSet (hosted [0, 1] 2 true) 0x20008 18 16 0 with tiers := { tiers0 with wCanopy := c } }
      Live s ∧ hostSees s 1 = true ∧ windowStopped s = false ∧ hdmDone s = true ∧ mode s < 3 ∧ s.tiers.wCanopy = c ∧ hostOffset s 1 64 / 64 * 64 < winSize ∧
        winValid s (regField s 0x50010 45 30) (regField s 0x50010 63 58) = true) := by
  unfold Live
  decide +kernel

theorem witness_UnoccupiedOffsetsReadZero :
    (∀ r ∈ [false, true], let s := ported (hosted [0, 1, 2] 1 true) (fun h => { h with cfgReady := r })
      Live s ∧ barReach s = true ∧ s.host.cfgReady = r ∧ ∀ n ∈ [0, 1, 2], (linkGet s n).trained = true) ∧
    (∀ off ∈ [0x20050, 0x300000, 0xF08100], regAt off = none ∧ 0x20000 ≤ off ∧ (off < 0xF00000 ∨ 0xF08100 ≤ off) ∧ inComp0 off = false) ∧
    (0x200000 + 16 * 2400 < 0xF00000 ∧ 0x30100 + 8 * 48 < 0x32000 ∧ 0x71000 + 8 * 48 < 0x72000) ∧ (∀ r ∈ [0xA5C, 0xA96, 0xEFF], frClass r = none) ∧
    0x300000 % 8 = 0 := by
  unfold Live
  and_intros <;> decide +kernel

theorem wellFormed_refuses :
    (∀ i ∈ [Instr.nop ⟨2400, true⟩ 0, .loadDataReturn 2400 0, .waitCmd 1024, .tileCheck 192, .tableWalkDone 256 0, .rdS 48 0, .rdS 0 (2 ^ 40),
      .reservationLapse 700 0, .rdCur 0 64, .wrInv 0 0 (2 ^ 64) (List.replicate 64 0), .wrInv 0 0 0 (List.replicate 63 0), .cohL1EnWrite (2 ^ 64), .memRd 4 0,
      .portTrained 24, .vfStepSettled 5, .blockResetEnd 0xA96, .frForce 0 (2 ^ 64), .wearFit 0 2400 0 0 0 0], wellFormed i = false) ∧
    (∀ i ∈ [Instr.nop ⟨2399, true⟩ 0, .loadDataReturn 2399 0, .waitCmd 1023, .tileCheck 191, .tableWalkDone 255 0, .rdS 47 (2 ^ 40 - 1),
      .reservationLapse 699 0, .rdCur 0 63, .wrInv 0 0 (2 ^ 64 - 1) (List.replicate 64 0), .cohL1EnWrite (2 ^ 64 - 1), .memRd 3 0,
      .portTrained 23, .vfStepSettled 4, .blockResetEnd 0xA95, .wearFit 0 2399 0 0 0 0], wellFormed i = true) := by
  and_intros <;> decide

end Sys2Proof.Tests
end

section
/-! PROOFS. The host's accesses of BAR0 and of configuration space (R9 to R11, R363 to R366, R498, R510 to R518): where the map's registers
lie, what a read clears and a write stores, what a write of a compartment's groves leaves, and what meets no register. -/

namespace Sys2Proof.Machine

/-! ### The register map: where its registers lie -/

/-- The first offset beyond a register, or beyond the last of its array. -/
def regEnd (d : RegDesc) : Nat := d.base + (d.count - 1) * d.stride + 1

/-- A register and its array lie between their base and their end. -/
theorem regHit_bounds {d : RegDesc} {off : Nat} (h : regHit d off = true) : d.base ≤ off ∧ off < regEnd d := by
  unfold regHit at h
  unfold regEnd
  split at h
  · next single => rw [eq_of_beq h, single]; omega
  · simp only [Bool.and_eq_true, decide_eq_true_eq, beq_iff_eq] at h
    obtain ⟨⟨lo, aligned⟩, inside⟩ := h
    have place := Nat.div_add_mod' (off - d.base) d.stride
    have last := Nat.mul_le_mul_right d.stride (Nat.le_sub_one_of_lt inside)
    omega

/-- Outside the fault records, nothing lies in a range that every register of the table ends before or begins after. -/
theorem regAt_none_of_gap {lo hi off : Nat} (gap : ∀ d ∈ regTable, regEnd d ≤ lo ∨ hi ≤ d.base) (ge : lo ≤ off) (lt : off < hi)
    (out : off < 0x100000 ∨ 0x1F0000 ≤ off) : regAt off = none := by
  unfold regAt
  rw [if_neg (by omega), List.find?_eq_none]
  intro d hd hit
  have b := regHit_bounds hit
  rcases gap d hd with g | g <;> omega

/-- A register of an array of the table is a register of the map. -/
theorem regAt_ne_none_of_array {b st n off : Nat} (listed : ∃ d ∈ regTable, d.base = b ∧ d.stride = st ∧ d.count = n) (ge : b ≤ off)
    (aligned : (off - b) % st = 0) (lt : off < b + n * st) (pos : 0 < st) (out : off < 0x100000 ∨ 0x1F0000 ≤ off) : regAt off ≠ none := by
  obtain ⟨d, hd, rfl, rfl, rfl⟩ := listed
  unfold regAt
  rw [if_neg (by omega), Ne, List.find?_eq_none]
  intro none
  have i : (off - d.base) / d.stride < d.count := (Nat.div_lt_iff_lt_mul pos).2 (by omega)
  exact none d hd (by simp [regHit, Nat.ne_of_gt pos, ge, aligned, i])

/-- A record index that R437 lists lies below the FLT registers. -/
theorem frClass_lt {r : Nat} (h : (frClass r).isSome = true) : r < 0xA96 := by
  by_contra n
  simp only [frClass] at h
  repeat rw [if_neg (by omega)] at h
  simp at h

@[simp] theorem frSplit_frOff (r : Nat) {o : Nat} (h : o < 0x100) : frSplit (frOff r + o) = (r, o) := by
  unfold frSplit frOff
  exact Prod.ext (by show _ = r; omega) (by show _ = o; omega)

/-- A FLT offset in the records is a record's base and an offset in the record. -/
theorem frOff_frSplit {off : Nat} (h : 0x100000 ≤ off) : off = frOff (frSplit off).1 + (frSplit off).2 := by
  unfold frOff frSplit
  dsimp only
  omega

/-- No fault record lies at an index that R437 does not list. -/
theorem regAt_frOff_none {r o : Nat} (absent : frClass r = none) (hr : r < 0xF00) (ho : o < 0x100) : regAt (frOff r + o) = none := by
  unfold regAt
  rw [if_pos (by unfold frOff; omega), frSplit_frOff r ho]
  dsimp only
  rw [absent]

/-- FR_STATUS, FR_FORCE and FR_INJECT lie in every fault record. -/
theorem regAt_frOff_ne_none {r o : Nat} (listed : (frClass r).isSome = true) (ho : o = 0 ∨ o = 0x28 ∨ o = 0x30) :
    regAt (frOff r + o) ≠ none := by
  have hr := frClass_lt listed
  obtain ⟨k, hk⟩ := Option.isSome_iff_exists.1 listed
  unfold regAt
  rw [if_pos (by unfold frOff; omega), frSplit_frOff r (by omega)]
  dsimp only
  rw [hk]
  rcases ho with rfl | rfl | rfl <;> simp [regsRecord]

/-- The compartment registers hold set-up bits for the 48 groves, and no other. -/
theorem regAt_comp : ∀ k < 48, regAt (0x30100 + 8 * k) = some ⟨0x30100, 8, 48, 0, 0xFFFFFFFFFFFF, 0, 0, 0, 0, 0⟩ := by
  decide +kernel

/-! ### Bits of a register under a write and a read of the host -/

theorem testBit_sub_and (x m i : Nat) : (x - (x &&& m)).testBit i = (x.testBit i && !m.testBit i) := by
  induction i generalizing x m with
  | zero =>
    have p := @Nat.and_mod_two_eq_one x m
    have l : x &&& m ≤ x := Nat.and_le_left
    rw [Bool.eq_iff_iff]
    simp only [Nat.testBit_zero, decide_eq_true_eq, Bool.and_eq_true, Bool.not_eq_true', decide_eq_false_iff_not]
    omega
  | succ i ih =>
    have p := @Nat.and_mod_two_eq_one x m
    have l : x &&& m ≤ x := Nat.and_le_left
    have h : (x - (x &&& m)) / 2 = x / 2 - (x / 2 &&& m / 2) := by
      rw [← Nat.and_div_two]; omega
    simp only [Nat.testBit_succ, h, ih]

end Sys2Proof.Machine

namespace Sys2Proof.Machine

/-! ### What an event leaves: a write of host memory, and the change of the topology page -/

/-- What a write of host memory leaves alone: the errors detected, the commands waiting, the queue engine and the registers. -/
def besideMemory (s : State) : List ErrNote × List Instr × Qsu × Tab W64 := (s.errs, s.pending, s.qsu, s.regs)

theorem besideMemory_foldl {α : Type} {f : State → α → State} (h : ∀ s x, besideMemory (f s x) = besideMemory s) (l : List α) (s : State) :
    besideMemory (l.foldl f s) = besideMemory s := by
  induction l generalizing s with
  | nil => rfl
  | cons x l ih => rw [List.foldl_cons, ih, h]

theorem justSends.besideMemory {s t : State} (h : justSends s t) : besideMemory t = besideMemory s :=
  (congrArg Machine.besideMemory h.1 :)

theorem besideMemory_backInval (s : State) (slice line : Nat) : besideMemory (backInval s slice line) = besideMemory s := by
  unfold backInval
  split
  · rfl
  · exact besideMemory_foldl (fun s c => by split <;> rfl) _ s

theorem besideMemory_l2drop (s : State) (slice line : Nat) : besideMemory (l2drop s slice line) = besideMemory s := by
  unfold l2drop
  split <;> rfl

theorem besideMemory_snoopI (s : State) (slice line : Nat) : besideMemory (snoop s .snpI slice line).2.2 = besideMemory s := by
  have drop : besideMemory (l2drop (backInval s slice line) slice line) = besideMemory s :=
    (besideMemory_l2drop _ _ _).trans (besideMemory_backInval s slice line)
  unfold snoop
  split
  · rfl
  · split
    · rfl
    · dsimp only
      split
      · exact drop
      · exact drop

theorem besideMemory_dropAll (s : State) (line : Nat) : besideMemory (dropAll s line) = besideMemory s :=
  besideMemory_foldl (fun s g => besideMemory_snoopI s g line) _ s

theorem besideMemory_dirPut (s : State) (line : Nat) (d : DirE) : besideMemory (dirPut s line d) = besideMemory s := rfl
theorem besideMemory_hostStPut (s : State) (line v : Nat) : besideMemory (hostStPut s line v) = besideMemory s := rfl

/-- A store to a floor line meets no key slot and no armed injection. -/
theorem besideMemory_memWrite_floor (s : State) (sel : Nat) {line : Nat} (mask : Nat) (data : List Byte) (poison : Bool) (floor : lineTier line = 2) :
    besideMemory (memWrite s sel line mask data poison) = besideMemory s := by
  have i : injTaken s line = s := by simp [injTaken, floor]
  unfold memWrite
  rw [if_neg (by simp [floor]), if_neg (by simp [floor])]
  unfold memStore
  rw [i]
  rfl

theorem besideMemory_writeOver_floor (s : State) (o : Option Own) (sel : Nat) {line : Nat} (mask : Nat) (data : List Byte) (poison : Bool)
    (floor : lineTier line = 2) : besideMemory (writeOver s o sel line mask data poison) = besideMemory s := by
  unfold writeOver
  split
  · split
    · exact besideMemory_memWrite_floor s sel _ _ _ floor
    · rw [besideMemory_memWrite_floor _ sel _ _ _ floor]
      split
      · exact besideMemory_memWrite_floor s _ _ _ _ floor
      · rfl
  · exact besideMemory_memWrite_floor s sel _ _ _ floor

theorem besideMemory_cohWrite_floor (s : State) (sel : Nat) {line : Nat} (mask : Nat) (data : List Byte) (poison : Bool) (floor : lineTier line = 2) :
    besideMemory (cohWrite s sel line mask data poison) = besideMemory s := by
  unfold cohWrite cohWriteCore
  dsimp only
  rw [besideMemory_writeOver_floor _ _ _ _ _ _ floor]
  have dropped : besideMemory (dirPut (dropAll (writeNote s line mask) line) line dir0) = besideMemory s := by
    rw [besideMemory_dirPut, besideMemory_dropAll, (writeNote_sent s line mask).besideMemory]
  split
  · rw [besideMemory_hostStPut, dropped]
  · next h => exact absurd floor h

/-- A write of bytes that lie in the floor, line by line. -/
theorem besideMemory_cohPut_floor (s : State) (sel pa f : Nat) (l : List Byte) (lo : 2 * 2 ^ 44 ≤ pa) (hi : pa + l.length ≤ 3 * 2 ^ 44) :
    besideMemory (cohPut s sel pa f l) = besideMemory s := by
  induction f generalizing s pa l with
  | zero => rfl
  | succ f ih =>
    simp only [cohPut]
    split
    · rfl
    · next ne =>
      have pos : 0 < l.length := List.length_pos_of_ne_nil (by simpa using ne)
      rw [ih _ _ _ (by omega) (by rw [List.length_drop]; omega)]
      exact besideMemory_cohWrite_floor s sel _ _ _ (by unfold lineTier; omega)

theorem besideMemory_floorWrite (s : State) (hpa : Nat) (l : List Byte) (h : hpa + l.length ≤ 2 ^ 44) :
    besideMemory (floorWrite s hpa l) = besideMemory s :=
  besideMemory_cohPut_floor s 0 _ _ l (by unfold floorPA; omega) (by unfold floorPA; omega)

theorem besideMemory_sendMsix (s : State) (v : Nat) : besideMemory (sendMsix s v) = besideMemory s := by
  unfold sendMsix
  dsimp only
  split
  · rfl
  · split
    · exact (linkWake_sent s 0).besideMemory
    · rfl

/-- What an event leaves: the errors, the commands waiting, the topology's generation, and the registers but for the event ring's own. -/
structure KeptByEvent (s t : State) : Prop where
  errs : t.errs = s.errs
  pending : t.pending = s.pending
  topoGen : t.qsu.topoGen = s.qsu.topoGen
  regs : ∀ a, a ≠ 0x30020 → a ≠ 0x30028 → regGet t a = regGet s a

theorem KeptByEvent.refl (s : State) : KeptByEvent s s := ⟨rfl, rfl, rfl, fun _ _ _ => rfl⟩

theorem KeptByEvent.trans {s t u : State} (a : KeptByEvent s t) (b : KeptByEvent t u) : KeptByEvent s u :=
  ⟨b.errs.trans a.errs, b.pending.trans a.pending, b.topoGen.trans a.topoGen, fun r x y => (b.regs r x y).trans (a.regs r x y)⟩

theorem KeptByEvent.of_besideMemory {s t : State} (h : besideMemory t = besideMemory s) : KeptByEvent s t := by
  simp only [besideMemory, Prod.mk.injEq] at h
  obtain ⟨e, p, q, r⟩ := h
  exact ⟨e, p, by rw [q], fun a _ _ => by simp only [regGet, r]⟩

theorem KeptByEvent.regSet {s : State} (o hi lo v : Nat) (h : o = 0x30020 ∨ o = 0x30028) : KeptByEvent s (regSet s o hi lo v) :=
  ⟨rfl, rfl, rfl, fun _ x y => regGet_regSet_ne s _ _ _ (by omega)⟩

theorem bitsOf_lt (x hi lo : Nat) : bitsOf x hi lo < 2 ^ (hi + 1 - lo) := Nat.mod_lt _ (Nat.two_pow_pos _)

/-- An event record lies in host memory whatever the event ring's registers hold. -/
theorem eventSlot_lt (s : State) (t : Nat) : regField s 0x30010 42 6 * 64 + 32 * (t % 2 ^ regField s 0x30018 4 0) + 32 ≤ 2 ^ 44 := by
  have base : regField s 0x30010 42 6 < 2 ^ 37 := bitsOf_lt _ 42 6
  have log : regField s 0x30018 4 0 < 2 ^ 5 := bitsOf_lt _ 4 0
  have slots : 2 ^ regField s 0x30018 4 0 ≤ 2 ^ 31 := Nat.pow_le_pow_right (by omega) (by omega)
  have slot : t % 2 ^ regField s 0x30018 4 0 < 2 ^ regField s 0x30018 4 0 := Nat.mod_lt _ (Nat.two_pow_pos _)
  omega

theorem writeEventQ_keeps (s : State) (code noq queue seq ctx a0 a1 a2 : Nat) : KeptByEvent s (writeEventQ s code noq queue seq ctx a0 a1 a2) := by
  unfold writeEventQ
  dsimp only
  split
  · exact .refl s
  · split
    · exact .regSet _ _ _ _ (.inr rfl)
    · generalize record : words [_, a0, a1, a2] = l
      have len : l.length = 32 := by rw [← record, words_length]; rfl
      have slot := eventSlot_lt s s.qsu.evT
      generalize regField s 0x30010 42 6 * 64 + 32 * (s.qsu.evT % 2 ^ regField s 0x30018 4 0) = hpa at slot ⊢
      have w := KeptByEvent.of_besideMemory (besideMemory_floorWrite s hpa l (by omega))
      generalize floorWrite s hpa l = t at w ⊢
      refine w.trans ?_
      have count : KeptByEvent t { t with qsu := { t.qsu with evT := s.qsu.evT + 1 } } := ⟨rfl, rfl, rfl, fun _ _ _ => rfl⟩
      refine count.trans ((KeptByEvent.regSet 0x30020 32 32 1 (.inl rfl)).trans ?_)
      refine KeptByEvent.trans ?_ (.of_besideMemory (besideMemory_sendMsix _ _))
      split
      · exact .regSet _ _ _ _ (.inl rfl)
      · exact .refl _

/-- A change of the topology page moves its generation by two, detects no error, and writes no register but the event ring's. -/
theorem topoChange_moves (s : State) : (topoChange s).errs = s.errs ∧ (topoChange s).pending = s.pending ∧
    (topoChange s).qsu.topoGen = (s.qsu.topoGen + 2) % 2 ^ 64 ∧ ∀ a, a ≠ 0x30020 → a ≠ 0x30028 → regGet (topoChange s) a = regGet s a := by
  have k := writeEventQ_keeps { s with qsu := { s.qsu with topoGen := (s.qsu.topoGen + 2) % 2 ^ 64 } } 0x07 1 0 0 0 ((s.qsu.topoGen + 2) % 2 ^ 64) 0 0
  exact ⟨k.errs, k.pending, k.topoGen, k.regs⟩

end Sys2Proof.Machine

namespace Sys2Proof.Machine

/-! ### Register accesses of the host -/

theorem regGet_lt (s : State) (off : Nat) : regGet s off < 2 ^ 64 := BitVec.isLt _

theorem exec_rcRead (off size : Nat) (s : State) : exec (.rcRead ⟨off, size⟩) s = runLive s (fun s => rcReadDo s off size) := rfl
theorem exec_registerWrite (off size v : Nat) (s : State) :
    exec (.registerWrite off size v) s = runLive s (fun s => barWrite s off size v) := rfl
theorem exec_cohL1InvalWrite (v : Nat) (s : State) : exec (.cohL1InvalWrite v) s = runLive s (fun s => l1InvalWrite s v) := rfl
theorem exec_cohL1EnWrite (v : Nat) (s : State) : exec (.cohL1EnWrite v) s = runLive s (fun s => l1EnWrite s v) := rfl
theorem exec_frForce (r v : Nat) (s : State) : exec (.frForce r v) s = runLive s (fun s => force s r v) := rfl
theorem exec_frInjectArm (r v : Nat) (s : State) : exec (.frInjectArm r v) s = runLive s (fun s => inject s r v) := rfl
theorem exec_frStatusClear (r : Nat) (s : State) : exec (.frStatusClear r) s = runLive s (fun s => latchClear s r) := rfl

/-- Two effects that agree on the state run to the same outcome. -/
theorem runLive_congr {s : State} {f g : State → State} (h : f s = g s) : runLive s f = runLive s g := by
  simp only [runLive, h]

/-- A write that its register gives the meaning of a command. -/
theorem exec_registerWrite_command {s : State} {off size v : Nat} {f : State → State} (h : barWrite s off size v = f s) :
    exec (.registerWrite off size v) s = runLive s f := by
  rw [exec_registerWrite]
  exact runLive_congr h

theorem exec_registerWrite_next {s t : State} {off size v : Nat} (live : Live s) (h : barWrite s off size v = t) (errs : t.errs = s.errs)
    (pending : t.pending = s.pending) : exec (.registerWrite off size v) s = .next t := by
  rw [exec_registerWrite]
  exact runLive_next s t _ live h errs pending

theorem exec_registerWrite_ignored {s : State} {off size v : Nat} (live : Live s) (h : barWrite s off size v = s) :
    exec (.registerWrite off size v) s = .next s :=
  exec_registerWrite_next live h rfl rfl

theorem exec_rcRead_next {s t : State} {off size : Nat} (live : Live s) (h : rcReadDo s off size = t) (errs : t.errs = s.errs)
    (pending : t.pending = s.pending) : exec (.rcRead ⟨off, size⟩) s = .next t := by
  rw [exec_rcRead]
  exact runLive_next s t _ live h errs pending

/-- What a read returns is what the register showed before the read cleared it. -/
theorem barReadRc_fst (s : State) (off size : Nat) : (barReadRc s off size).1 = barRead s off size := by
  unfold barReadRc
  dsimp only
  split
  · split <;> rfl
  · rfl

theorem rcReadDo_unreached {s : State} (h : barReach s = false) (off size : Nat) : rcReadDo s off size = s := by simp [rcReadDo, h]
theorem rcReadDo_bar {s : State} (h : barReach s = true) {off : Nat} (lt : off < 2 ^ 24) (size : Nat) :
    rcReadDo s off size = emit (barReadRc s off size).2 (.read (leBytes size (barRead s off size)) false) := by
  rw [← barReadRc_fst s off size]
  simp only [rcReadDo, h, Bool.not_true, Bool.false_eq_true, if_false, if_neg (Nat.not_le.mpr lt)]
theorem rcReadDo_io {s : State} (h : barReach s = true) {a : Nat} (ge : 2 ^ 24 ≤ a) (size : Nat) : rcReadDo s a size = ioRead s a size := by
  simp only [rcReadDo, h, Bool.not_true, Bool.false_eq_true, if_false, if_pos ge]

theorem barWrite_unreached {s : State} (h : barReach s = false) (off size v : Nat) : barWrite s off size v = s := by simp [barWrite, h]
theorem barWrite_io {s : State} (h : barReach s = true) {a : Nat} (ge : 2 ^ 24 ≤ a) (size v : Nat) : barWrite s a size v = ioWrite s a size v := by
  simp only [barWrite, h, Bool.not_true, Bool.false_eq_true, if_false, if_pos ge]

/-- A write of the registers' space: 64 bits, naturally aligned, or nothing. -/
theorem barWrite_bar {s : State} (h : barReach s = true) {off : Nat} (lt : off < 2 ^ 24) (out : off < 0xF00000 ∨ 0xF08000 ≤ off) (size v : Nat) :
    barWrite s off size v = if size = 8 ∧ off % 8 = 0 then regWrite s off (v % 2 ^ 64) else s := by
  unfold barWrite
  rw [h, if_neg (by simp), if_neg (Nat.not_le.mpr lt), if_neg (by omega)]

theorem barWrite_other {s : State} (h : barReach s = true) {off : Nat} (lt : off < 2 ^ 24) (out : off < 0xF00000 ∨ 0xF08000 ≤ off) {size : Nat} (v : Nat)
    (other : size ≠ 8 ∨ off % 8 ≠ 0) : barWrite s off size v = s := by
  rw [barWrite_bar h lt out, if_neg (by omega)]

theorem barWrite_word {s : State} (h : barReach s = true) {off : Nat} (lt : off < 0xF00000) (al : off % 8 = 0) (v : Nat) :
    barWrite s off 8 v = regWrite s off (v % 2 ^ 64) := by
  rw [barWrite_bar h (by omega) (.inl lt), if_pos ⟨rfl, al⟩]

/-! What a read clears (R9, R517). -/

/-- The registers after a read: RC bits cleared where the access is the register's own. -/
theorem barReadRc_snd (s : State) (off size : Nat) : (barReadRc s off size).2 = s ∨
    ∃ d, regAt off = some d ∧ size = 8 ∧ off % 8 = 0 ∧ (barReadRc s off size).2 = regPut s off (regGet s off - (regGet s off &&& d.rc)) := by
  unfold barReadRc
  dsimp only
  split
  · next d hd =>
    split
    · next c => exact .inr ⟨d, hd, c.1, c.2.1, rfl⟩
    · exact .inl rfl
  · exact .inl rfl

theorem barReadRc_unread {s : State} {off size : Nat} (h : regAt off = none ∨ size ≠ 8 ∨ off % 8 ≠ 0) : (barReadRc s off size).2 = s := by
  rcases barReadRc_snd s off size with e | ⟨d, hd, e8, al, -⟩
  · exact e
  · rcases h with h | h | h
    · rw [h] at hd; cases hd
    · exact absurd e8 h
    · exact absurd al h

theorem regGet_barReadRc_ne (s : State) (off size : Nat) {a : Nat} (h : a ≠ off) : regGet (barReadRc s off size).2 a = regGet s a := by
  rcases barReadRc_snd s off size with e | ⟨d, -, -, -, e⟩ <;> rw [e]
  exact regGet_regPut_ne s _ h

/-- A read changes registers only. -/
theorem barReadRc_regs (s : State) (off size : Nat) : { (barReadRc s off size).2 with regs := s.regs } = s := by
  rcases barReadRc_snd s off size with e | ⟨d, -, -, -, e⟩ <;> rw [e]
  rfl

theorem barReadRc_errs (s : State) (off size : Nat) : (barReadRc s off size).2.errs = s.errs := (congrArg State.errs (barReadRc_regs s off size) :)
theorem barReadRc_pending (s : State) (off size : Nat) : (barReadRc s off size).2.pending = s.pending :=
  (congrArg State.pending (barReadRc_regs s off size) :)
theorem barReadRc_out (s : State) (off size : Nat) : (barReadRc s off size).2.out = s.out := (congrArg State.out (barReadRc_regs s off size) :)

/-- A register's own read clears its RC bits and keeps the others. -/
theorem testBit_barReadRc {s : State} {off : Nat} {d : RegDesc} (hd : regAt off = some d) (al : off % 8 = 0) (i : Nat) :
    (regGet (barReadRc s off 8).2 off).testBit i = ((regGet s off).testBit i && !d.rc.testBit i) := by
  have e : regGet (barReadRc s off 8).2 off = regGet s off - (regGet s off &&& d.rc) := by
    unfold barReadRc
    simp only [hd, al, true_and]
    split
    · rw [regGet_regPut_same, Nat.mod_eq_of_lt (Nat.lt_of_le_of_lt (Nat.sub_le _ _) (regGet_lt s off))]
    · next z => simp only [not_not.mp z, Nat.and_zero, Nat.sub_zero]
  rw [e, testBit_sub_and]

/-! What a write by field types stores (R9, R516). -/

/-- Bits under a mask are taken from the new value, the others kept. -/
theorem testBit_masked (old v m i : Nat) :
    ((old - (old &&& m)) ||| (v &&& m)).testBit i = if m.testBit i then v.testBit i else old.testBit i := by
  rw [Nat.testBit_or, testBit_sub_and, Nat.testBit_and]
  cases m.testBit i <;> simp

/-- Each bit of a written register follows its field's type; a locked RWS bit keeps its value. -/
theorem testBit_regWritten (d : RegDesc) (lock : Bool) (old v i : Nat) : (regWritten d lock old v).testBit i =
    if (!lock && d.rws.testBit i) || d.rw.testBit i then v.testBit i && !d.w1c.testBit i
    else (old.testBit i && !(d.w1c.testBit i && v.testBit i)) := by
  have mask : (if lock then d.rw else d.rws ||| d.rw).testBit i = ((!lock && d.rws.testBit i) || d.rw.testBit i) := by
    cases lock <;> simp
  unfold regWritten
  dsimp only
  rw [testBit_sub_and, Nat.testBit_and, testBit_masked, mask]
  split
  · cases v.testBit i <;> simp
  · rw [Bool.and_comm (v.testBit i)]

theorem regWritten_lt (d : RegDesc) (lock : Bool) {old v : Nat} (ho : old < 2 ^ 64) (hv : v < 2 ^ 64) : regWritten d lock old v < 2 ^ 64 := by
  unfold regWritten
  exact Nat.lt_of_le_of_lt (Nat.sub_le _ _) (Nat.or_lt_two_pow (Nat.lt_of_le_of_lt (Nat.sub_le _ _) ho) (Nat.lt_of_le_of_lt Nat.and_le_left hv))

theorem regStore_none {s : State} {off : Nat} (h : regAt off = none) (v : Nat) : regStore s off v = s := by simp [regStore, h]

/-- A register write changes registers only. -/
theorem regPut_sameBut (s : State) (off v : Nat) (r : Tab W64) : { regPut s off v with regs := r } = { s with regs := r } := rfl

theorem lockedWrite_sameBut (s : State) (r : Tab W64) : { lockedWrite s with regs := r } = { s with regs := r } := by
  unfold lockedWrite regCount regSet
  exact regPut_sameBut s _ _ r

/-- A write by field types changes registers only. -/
theorem regStore_regs (s : State) (off v : Nat) : { regStore s off v with regs := s.regs } = s := by
  unfold regStore
  split
  · rfl
  · dsimp only
    rw [regPut_sameBut]
    split
    · exact lockedWrite_sameBut s s.regs
    · rfl

theorem regStore_errs (s : State) (off v : Nat) : (regStore s off v).errs = s.errs := (congrArg State.errs (regStore_regs s off v) :)
theorem regStore_pending (s : State) (off v : Nat) : (regStore s off v).pending = s.pending := (congrArg State.pending (regStore_regs s off v) :)
theorem regStore_qsu (s : State) (off v : Nat) : (regStore s off v).qsu = s.qsu := (congrArg State.qsu (regStore_regs s off v) :)

/-- Only the register, and the count of locked writes, are written. -/
theorem regGet_regStore_ne (s : State) (off v : Nat) {a : Nat} (h : a ≠ off) (c : a ≠ 0x20008 ∨ rwsLocked s = false) :
    regGet (regStore s off v) a = regGet s a := by
  unfold regStore
  split
  · rfl
  · dsimp only
    rw [regGet_regPut_ne _ _ h]
    split
    · next l => exact regGet_regSet_ne s _ _ _ (c.resolve_right (by simp_all))
    · rfl

/-- The register written, bit for bit. -/
theorem testBit_regStore {s : State} {off v : Nat} {d : RegDesc} (hd : regAt off = some d) (hv : v < 2 ^ 64) (i : Nat)
    (c : off ≠ 0x20008 ∨ rwsLocked s = false) : (regGet (regStore s off v) off).testBit i =
    if (!rwsLocked s && d.rws.testBit i) || d.rw.testBit i then v.testBit i && !d.w1c.testBit i
    else (regGet s off).testBit i && !(d.w1c.testBit i && v.testBit i) := by
  have e : regGet (regStore s off v) off = regWritten d (rwsLocked s) (regGet s off) v := by
    unfold regStore
    simp only [hd]
    rw [regGet_regPut_same, Nat.mod_eq_of_lt hv]
    have k : regGet (if (rwsLocked s && d.rws != 0) = true then lockedWrite s else s) off = regGet s off := by
      split
      · next l => exact regGet_regSet_ne s _ _ _ (c.resolve_right (by simp_all))
      · rfl
    rw [k, Nat.mod_eq_of_lt (regWritten_lt d _ (regGet_lt s off) hv)]
  rw [e, testBit_regWritten]

/-- A write of a locked set-up field counts, and no other write does. -/
theorem lockedWrites_regStore {s : State} {off : Nat} {d : RegDesc} (v : Nat) (hd : regAt off = some d) (lock : rwsLocked s = true) (ne : off ≠ 0x20008) :
    (d.rws ≠ 0 → regField (regStore s off v) 0x20008 63 32 = satAdd 32 (regField s 0x20008 63 32) 1) ∧
    (d.rws = 0 → regGet (regStore s off v) 0x20008 = regGet s 0x20008) := by
  unfold regStore
  simp only [hd, lock, Bool.true_and, bne_iff_ne]
  constructor <;> intro h
  · rw [if_pos h, regField_regPut_ne _ _ _ _ ne.symm]
    unfold lockedWrite regCount
    rw [regField_regSet_same _ _ _ _ _ (by omega)]
    exact Nat.mod_eq_of_lt (by unfold satAdd; omega)
  · rw [if_neg (not_not.mpr h), regGet_regPut_ne _ _ ne.symm]

/-! Which registers a write gives their field types alone, and which have a rule of their own. -/

/-- A register whose fields act alone: neither a command or control register, a compartment, a key, a mailbox word, a port's mode, nor a
fault record's FR_STATUS, FR_FORCE or FR_INJECT. -/
def fieldsActAlone (off : Nat) : Prop :=
  off ∉ [0x20000, 0x20028, 0x20040, 0x50140, 0x60010, 0x60018, 0x60030, 0xA0000, 0x1F0800] ∧
  (off < 0x30100 ∨ 0x30280 ≤ off) ∧ (off < 0x50100 ∨ 0x50140 ≤ off) ∧ (off < 0xA1000 ∨ 0xA2000 ≤ off) ∧
  (off < 0x80000 ∨ 0x8C000 ≤ off ∨ off % 0x800 ≠ 0) ∧
  (off < 0x100000 ∨ 0x1F0000 ≤ off ∨ (off % 0x100 ≠ 0 ∧ off % 0x100 ≠ 0x28 ∧ off % 0x100 ≠ 0x30))

theorem regWrite_alone {s : State} {off : Nat} (v : Nat) (h : fieldsActAlone off) : regWrite s off v = regStore s off v := by
  obtain ⟨single, comp, key, mbx, port, rec⟩ := h
  simp only [List.mem_cons, List.not_mem_nil, or_false, not_or] at single
  unfold regWrite
  split
  · dsimp only
    have e : (frSplit off).2 = off % 0x100 := rfl
    split
    · omega
    · omega
    · omega
    · rfl
  · rw [if_neg (by omega), if_neg (by omega), if_neg (by omega), if_neg (by omega)]
    split
    case h_10 => rfl
    all_goals omega

/-- Where no register lies an aligned write does nothing. -/
theorem regWrite_none {s : State} {off : Nat} (v : Nat) (al : off % 8 = 0) (none : regAt off = none) : regWrite s off v = s := by
  have store := regStore_none (s := s) none v
  have listed : ∀ o ∈ [0x20000, 0x20028, 0x20040, 0x50140, 0x60010, 0x60018, 0x60030, 0xA0000, 0x1F0800], regAt o ≠ Option.none := by decide
  have single : off ∉ _ := fun m => listed off m none
  simp only [List.mem_cons, List.not_mem_nil, or_false, not_or] at single
  unfold regWrite
  split
  · next rec =>
    obtain ⟨ge, -, listed⟩ := rec
    have lies := fun o h => regAt_frOff_ne_none (o := o) listed h
    have e := frOff_frSplit ge
    dsimp only
    split
    · next z => exact absurd none (by rw [e, z]; exact lies 0 (by omega))
    · next z => exact absurd none (by rw [e, z]; exact lies 0x28 (by omega))
    · next z => exact absurd none (by rw [e, z]; exact lies 0x30 (by omega))
    · exact store
  · split
    · exact absurd none (regAt_ne_none_of_array (b := 0x80000) (st := 0x800) (n := 24) (by decide) (by omega) (by omega) (by omega) (by omega) (by omega))
    · split
      · simp [compWrite, store]
      · split
        · exact absurd none (regAt_ne_none_of_array (b := 0x50100) (st := 8) (n := 8) (by decide) (by omega) (by omega) (by omega) (by omega) (by omega))
        · split
          · simp [store]
          · split
            case h_10 => exact store
            all_goals omega

end Sys2Proof.Machine

namespace Sys2Proof.Machine

/-! ### Registers with a rule of their own -/

/-- A compartment's register, whole: its set-up bits, and the generation of the topology page where they change. -/
theorem compWrite_moves {s : State} {off v : Nat} (off_ne : off ≠ 0x30020 ∧ off ≠ 0x30028) :
    (compWrite s off v).errs = s.errs ∧ (compWrite s off v).pending = s.pending ∧
    regGet (compWrite s off v) off = regGet (regStore s off v) off ∧
    (compWrite s off v).qsu.topoGen = if regGet (compWrite s off v) off = regGet s off then s.qsu.topoGen else (s.qsu.topoGen + 2) % 2 ^ 64 := by
  unfold compWrite
  dsimp only
  split
  · next kept => exact ⟨regStore_errs s off v, regStore_pending s off v, rfl, by rw [regStore_qsu]⟩
  · next moved =>
    obtain ⟨te, tp, tg, tr⟩ := topoChange_moves (regStore s off v)
    have shown := tr off off_ne.1 off_ne.2
    exact ⟨te.trans (regStore_errs s off v), tp.trans (regStore_pending s off v), shown, by rw [shown, if_neg moved, tg, regStore_qsu]⟩

/-- An aligned write of a compartment's register. -/
theorem regWrite_comp (s : State) {k : Nat} (v : Nat) (hk : k < 48) : regWrite s (0x30100 + 8 * k) v = compWrite s (0x30100 + 8 * k) v := by
  unfold regWrite
  rw [if_neg (by omega), if_neg (by omega), if_pos (by omega)]

/-- An aligned write of a fault record's register. -/
theorem regWrite_frOff (s : State) {r o : Nat} (v : Nat) (listed : (frClass r).isSome = true) (ho : o < 0x100) : regWrite s (frOff r + o) v =
    if o = 0 then frStatusWrite s r v else if o = 0x28 then force s r v else if o = 0x30 then inject s r v else regStore s (frOff r + o) v := by
  have hr := frClass_lt listed
  unfold regWrite
  rw [frSplit_frOff r ho, if_pos ⟨by unfold frOff; omega, by unfold frOff; omega, listed⟩]
  dsimp only
  split
  · rfl
  · rfl
  · rfl
  · next a b c => rw [if_neg a, if_neg b, if_neg c]

theorem barWrite_frOff {s : State} (h : barReach s = true) {r o : Nat} (listed : (frClass r).isSome = true) (ho : o < 0x100) (al : o % 8 = 0) (v : Nat) :
    barWrite s (frOff r + o) 8 v = regWrite s (frOff r + o) (v % 2 ^ 64) := by
  have hr := frClass_lt listed
  exact barWrite_word h (by unfold frOff; omega) (by unfold frOff; omega) v

/-- A read of the registers' space answers what the register shows and clears its RC bits. -/
theorem exec_rcRead_bar {s : State} {off : Nat} (live : Live s) (reach : barReach s = true) (lt : off < 2 ^ 24) (size : Nat) :
    exec (.rcRead ⟨off, size⟩) s = .next (emit (barReadRc s off size).2 (.read (leBytes size (barRead s off size)) false)) := by
  exact exec_rcRead_next live (rcReadDo_bar reach lt size) (barReadRc_errs s off size) (barReadRc_pending s off size)

/-- A write of a register whose fields act alone is a write by its field types. -/
theorem exec_registerWrite_alone {s : State} {off : Nat} (live : Live s) (reach : barReach s = true) (lt : off < 0xF00000) (al : off % 8 = 0)
    (alone : fieldsActAlone off) {v : Nat} (hv : v < 2 ^ 64) : exec (.registerWrite off 8 v) s = .next (regStore s off v) := by
  refine exec_registerWrite_next live ?_ (regStore_errs s off v) (regStore_pending s off v)
  rw [barWrite_word reach lt al, Nat.mod_eq_of_lt hv, regWrite_alone v alone]

/-- What a read of the host does to a register. -/
theorem read_obeys_types {s : State} {off : Nat} (live : Live s) (reach : barReach s = true) (lt : off < 2 ^ 24) (size : Nat) :
    ∃ t, exec (.rcRead ⟨off, size⟩) s = .next t ∧ t.out = s.out ++ [.read (leBytes size (barRead s off size)) false] ∧
      (∀ a, a ≠ off → regGet t a = regGet s a) ∧ { t with regs := s.regs, out := s.out } = s ∧
      (regAt off = none ∨ size ≠ 8 ∨ off % 8 ≠ 0 → regGet t off = regGet s off) ∧
      (∀ d i, regAt off = some d → size = 8 → off % 8 = 0 →
        (regGet t off).testBit i = ((regGet s off).testBit i && !d.rc.testBit i)) := by
  refine ⟨_, exec_rcRead_bar live reach lt size, ?_, ?_, ?_, ?_, ?_⟩
  · rw [emit_out, barReadRc_out]
  · intro a ne
    rw [regGet_emit, regGet_barReadRc_ne s off size ne]
  · exact (congrArg (fun x : State => { x with out := s.out }) (barReadRc_regs s off size) :)
  · intro unread
    rw [regGet_emit, barReadRc_unread unread]
  · rintro d i hd rfl al
    rw [regGet_emit, testBit_barReadRc hd al]

/-- What a write does to a register whose fields act alone, while set-up fields are open. -/
theorem open_write_obeys_types {s : State} {off v : Nat} {d : RegDesc} (hd : regAt off = some d) (hv : v < 2 ^ 64) (opened : rwsLocked s = false) :
    (∀ a, a ≠ off → regGet (regStore s off v) a = regGet s a) ∧
      ∀ i, (regGet (regStore s off v) off).testBit i =
        if d.rws.testBit i || d.rw.testBit i then v.testBit i && !d.w1c.testBit i
        else (regGet s off).testBit i && !(d.w1c.testBit i && v.testBit i) := by
  refine ⟨fun a ne => regGet_regStore_ne s off v ne (.inr opened), fun i => ?_⟩
  rw [testBit_regStore hd hv i (.inr opened), opened]
  rfl

/-- What a write does to a register whose fields act alone, while set-up fields are locked. -/
theorem locked_write_obeys_types {s : State} {off v : Nat} {d : RegDesc} (hd : regAt off = some d) (hv : v < 2 ^ 64) (locked : rwsLocked s = true)
    (ne : off ≠ 0x20008) :
    (∀ a, a ≠ off → a ≠ 0x20008 → regGet (regStore s off v) a = regGet s a) ∧
      ∀ i, (regGet (regStore s off v) off).testBit i =
        if d.rw.testBit i then v.testBit i && !d.w1c.testBit i
        else (regGet s off).testBit i && !(d.w1c.testBit i && v.testBit i) := by
  refine ⟨fun a na nc => regGet_regStore_ne s off v na (.inl nc), fun i => ?_⟩
  rw [testBit_regStore hd hv i (.inl ne), locked]
  rfl

/-- What a write does to a compartment's groves. -/
theorem comp_write_obeys_types {s : State} {k v : Nat} {d : RegDesc} (live : Live s) (reach : barReach s = true) (hk : k < 48) (hv : v < 2 ^ 64)
    (hd : regAt (0x30100 + 8 * k) = some d) : ∃ t, exec (.registerWrite (0x30100 + 8 * k) 8 v) s = .next t ∧
      (∀ i, (regGet t (0x30100 + 8 * k)).testBit i =
        if d.rws.testBit i && !rwsLocked s then v.testBit i else (regGet s (0x30100 + 8 * k)).testBit i) ∧
      t.qsu.topoGen = (if regGet t (0x30100 + 8 * k) = regGet s (0x30100 + 8 * k) then s.qsu.topoGen else (s.qsu.topoGen + 2) % 2 ^ 64) := by
  obtain ⟨errs, pending, shown, gen⟩ := compWrite_moves (s := s) (off := 0x30100 + 8 * k) (v := v) (by omega)
  refine ⟨compWrite s (0x30100 + 8 * k) v, ?_, fun i => ?_, gen⟩
  · refine exec_registerWrite_next live ?_ errs pending
    rw [barWrite_word reach (by omega) (by omega), Nat.mod_eq_of_lt hv, regWrite_comp s v hk]
  · rw [shown, testBit_regStore hd hv i (.inl (by omega))]
    obtain rfl := Option.some.inj ((regAt_comp k hk).symm.trans hd)
    simp [Bool.and_comm]

end Sys2Proof.Machine

open Sys2Proof Sys2Proof.Machine in
/-- Settles O50: what a read clears, what a write that is no register's own does not do, what each field type takes of a write, and the
registers whose write is a command. -/
theorem registersObeyTheirTypes : Obligations.RegistersObeyTheirTypes := by
  unfold Obligations.RegistersObeyTheirTypes
  intro s off live
  refine ⟨fun lost size => ⟨?_, fun v => ?_⟩, fun reach lt => ⟨fun size => read_obeys_types live reach lt size, ?_, ?_, ?_, fun v => ⟨?_, ?_, ?_⟩⟩⟩
  · exact exec_rcRead_next live (rcReadDo_unreached lost off size) rfl rfl
  · exact exec_registerWrite_ignored live (barWrite_unreached lost off size v)
  · intro size v below other
    exact exec_registerWrite_ignored live (barWrite_other reach lt (.inl below) v other)
  · intro d v hd hv al single comp key mbx below port rec
    have done := exec_registerWrite_alone live reach below al ⟨single, comp, key, mbx, port, rec⟩ hv
    have same := regStore_regs s off v
    refine ⟨fun opened => ?_, fun locked ne => ?_⟩
    · obtain ⟨frame, bits⟩ := open_write_obeys_types hd hv opened
      exact ⟨_, done, frame, same, bits⟩
    · obtain ⟨frame, bits⟩ := locked_write_obeys_types hd hv locked ne
      obtain ⟨counts, free⟩ := lockedWrites_regStore v hd locked ne
      exact ⟨_, done, frame, same, counts, free, bits⟩
  · intro k v d hk hv hd
    exact comp_write_obeys_types live reach hk hv hd
  · rw [exec_cohL1InvalWrite]
    exact exec_registerWrite_command (barWrite_word reach (by omega) (by omega) v)
  · rw [exec_cohL1EnWrite]
    exact exec_registerWrite_command (barWrite_word reach (by omega) (by omega) v)
  · intro r listed
    rw [exec_frForce, exec_frInjectArm, exec_frStatusClear]
    refine ⟨exec_registerWrite_command ?_, exec_registerWrite_command ?_, fun clear => exec_registerWrite_command ?_⟩
    · rw [barWrite_frOff reach listed (by omega) (by omega)]
      exact regWrite_frOff s _ listed (by omega)
    · rw [barWrite_frOff reach listed (by omega) (by omega)]
      exact regWrite_frOff s _ listed (by omega)
    · have status := barWrite_frOff reach listed (o := 0) (by omega) (by omega) v
      rw [regWrite_frOff s _ listed (by omega), if_pos rfl] at status
      rw [Nat.add_zero] at status
      rw [status]
      simp only [frStatusWrite, clear, if_true]

namespace Sys2Proof.Machine

/-! ### Accesses that meet no register -/

theorem leBytes_zero (n : Nat) : leBytes n 0 = List.replicate n 0 := by
  induction n with
  | zero => rfl
  | succ n ih => rw [leBytes, Nat.zero_div, ih, List.replicate_succ]; rfl

/-- Among the registers of BAR0 a read shows a register, at its own width and alignment, or zero. -/
theorem barRead_registers (s : State) {off : Nat} (ge : 0x20000 ≤ off) (out : off < 0xF00000 ∨ 0xF08100 ≤ off) (comp : inComp0 off = false) (size : Nat) :
    barRead s off size = if size = 8 ∧ off % 8 = 0 then regView s off else 0 := by
  unfold barRead
  rw [if_neg (show ¬ off < 0x10000 by omega), if_neg (show ¬ off < 0x20000 by omega), if_neg (show ¬ (0xF00000 ≤ off ∧ off < 0xF08100) by omega), comp]
  by_cases eight : size = 8
  · subst eight
    by_cases al : off % 8 = 0 <;> simp [al]
  · simp [eight]

theorem regView_none {s : State} {off : Nat} (h : regAt off = none) : regView s off = 0 := by simp [regView, h]

/-- A read that meets no register returns zeros and clears nothing. -/
theorem exec_rcRead_unlisted {s : State} {off : Nat} (live : Live s) (reach : barReach s = true) (ge : 0x20000 ≤ off)
    (out : off < 0xF00000 ∨ 0xF08100 ≤ off) (lt : off < 2 ^ 24) (comp : inComp0 off = false) (unlisted : regAt off = none ∨ off % 8 ≠ 0) (size : Nat) :
    exec (.rcRead ⟨off, size⟩) s = .next (emit s (.read (List.replicate size 0) false)) := by
  have zero : barRead s off size = 0 := by
    rw [barRead_registers s ge out comp]
    split
    · next own => exact regView_none (unlisted.resolve_right (not_not.mpr own.2))
    · rfl
  rw [exec_rcRead_bar live reach lt, zero, leBytes_zero, barReadRc_unread (unlisted.imp id .inr)]

/-- A write that meets no register is ignored. -/
theorem exec_registerWrite_unlisted {s : State} {off : Nat} (live : Live s) (reach : barReach s = true) (out : off < 0xF00000 ∨ 0xF08100 ≤ off)
    (lt : off < 2 ^ 24) (unlisted : regAt off = none ∨ off % 8 ≠ 0) (size v : Nat) : exec (.registerWrite off size v) s = .next s := by
  refine exec_registerWrite_ignored live ?_
  rw [barWrite_bar reach lt (by omega)]
  split
  · next own => exact regWrite_none _ own.2 (unlisted.resolve_right (not_not.mpr own.2))
  · rfl

/-! ### Configuration space -/

theorem cfgAt_ge (n o : Nat) : 2 ^ 24 ≤ cfgAt n o := by unfold cfgAt; omega
theorem cfgAt_div (n : Nat) {o : Nat} (h : o < 2 ^ 24) : cfgAt n o / 2 ^ 24 = n + 1 := by unfold cfgAt; omega
theorem cfgAt_mod (n : Nat) {o : Nat} (h : o < 2 ^ 24) : cfgAt n o % 2 ^ 24 = o := by unfold cfgAt; omega

section Reached
variable {s : State} {n : Nat} (live : Live s) (reach : barReach s = true) (hn : n < 4) (trained : (linkGet s n).trained = true)
include live reach hn trained

/-- A request of configuration space before the functions are ready is asked to come again. -/
theorem exec_rcRead_cfg_retry (early : s.host.cfgReady = false) {o : Nat} (ho : o < 2 ^ 24) (size : Nat) :
    exec (.rcRead ⟨cfgAt n o, size⟩) s = .next (emit s (.ioStatus 2)) := by
  refine exec_rcRead_next live ?_ rfl rfl
  rw [rcReadDo_io reach (cfgAt_ge n o)]
  unfold ioRead
  simp only [cfgAt_div n ho, Nat.add_sub_cancel, trained, early]
  simp [show n + 1 ≤ 4 by omega]

theorem exec_registerWrite_cfg_retry (early : s.host.cfgReady = false) {o : Nat} (ho : o < 2 ^ 24) (size v : Nat) :
    exec (.registerWrite (cfgAt n o) size v) s = .next (emit s (.ioStatus 2)) := by
  refine exec_registerWrite_next live ?_ rfl rfl
  rw [barWrite_io reach (cfgAt_ge n o)]
  unfold ioWrite
  simp only [cfgAt_div n ho, Nat.add_sub_cancel, trained, early]
  simp [show n + 1 ≤ 4 by omega]

/-- A ready function answers an aligned read of configuration space with the bytes of its double word. -/
theorem exec_rcRead_cfg (ready : s.host.cfgReady = true) {o size : Nat} (ho : o < 0x1000) (hs : size = 1 ∨ size = 2 ∨ size = 4) (al : o % size = 0) :
    exec (.rcRead ⟨cfgAt n o, size⟩) s = .next (emit s (.read (((leBytes 4 (cfgWord s n (o / 4 * 4))).drop (o % 4)).take size) false)) := by
  refine exec_rcRead_next live ?_ rfl rfl
  have ok : ((size == 1 || size == 2 || size == 4) && o % size == 0) = true := by
    rw [al]
    rcases hs with rfl | rfl | rfl <;> rfl
  rw [rcReadDo_io reach (cfgAt_ge n o)]
  unfold ioRead
  simp only [cfgAt_div n (show o < 2 ^ 24 by omega), cfgAt_mod n (show o < 2 ^ 24 by omega), Nat.add_sub_cancel, trained, ready, ok]
  simp [show n + 1 ≤ 4 by omega, show ¬ 0x1000 ≤ o by omega]

/-- A ready function takes an aligned write of a double word. -/
theorem exec_registerWrite_cfg (ready : s.host.cfgReady = true) {o : Nat} (ho : o < 0x1000) (al : o % 4 = 0) (v : Nat)
    (errs : (cfgWrite s n o v).errs = s.errs) (pending : (cfgWrite s n o v).pending = s.pending) :
    exec (.registerWrite (cfgAt n o) 4 v) s = .next (cfgWrite s n o v) := by
  refine exec_registerWrite_next live ?_ errs pending
  rw [barWrite_io reach (cfgAt_ge n o)]
  unfold ioWrite
  simp only [cfgAt_div n (show o < 2 ^ 24 by omega), cfgAt_mod n (show o < 2 ^ 24 by omega), Nat.add_sub_cancel, trained, ready, al]
  simp [show n + 1 ≤ 4 by omega, show ¬ 0x1000 ≤ o by omega]

end Reached

@[simp] theorem fnGet_fnPut_same (s : State) (n : Nat) (c : FnCfg) : fnGet (fnPut s n c) n = c := by simp [fnGet, fnPut]

/-- Sizing and placing a function's BAR (R365): its base keeps no bit below its size, and nothing else of the complex changes. -/
theorem bar_sized_and_placed {s : State} {n v : Nat} (live : Live s) (reach : barReach s = true) (hn : n < 4) (trained : (linkGet s n).trained = true)
    (ready : s.host.cfgReady = true) (hv : v < 2 ^ 32) :
    ∃ t u, exec (.registerWrite (cfgAt n 0x10) 4 v) s = .next t ∧ exec (.registerWrite (cfgAt n 0x14) 4 v) t = .next u ∧
      cfgWord u n 0x10 = v / barSize n * barSize n + 4 ∧ cfgWord u n 0x14 = v ∧ { u with host := { u.host with fns := s.host.fns } } = s := by
  refine ⟨cfgWrite s n 0x10 v, cfgWrite (cfgWrite s n 0x10 v) n 0x14 v, ?_, ?_, ?_, ?_, rfl⟩
  · exact exec_registerWrite_cfg live reach hn trained ready (by omega) (by omega) v rfl rfl
  · exact exec_registerWrite_cfg (s := cfgWrite s n 0x10 v) live reach hn trained ready (by omega) (by omega) v rfl rfl
  · have fits : v / barSize n * barSize n ≤ v := Nat.div_mul_le_self _ _
    simp only [cfgWord, cfgWrite, fnGet_fnPut_same, Nat.mod_eq_of_lt hv]
    simp
    omega
  · simp only [cfgWord, cfgWrite, fnGet_fnPut_same, Nat.mod_eq_of_lt hv]
    simp
    omega

/-- A request at a companion's BAR beyond its size is an Unsupported Request (R366). -/
theorem exec_rcRead_beyond {s : State} {n o : Nat} (live : Live s) (reach : barReach s = true) (pos : n ≠ 0) (ge : 2 ^ 16 ≤ o) (ho : o < 2 ^ 24) (size : Nat) :
    exec (.rcRead ⟨compAt n o, size⟩) s = .next (emit s (.ioStatus 1)) := by
  refine exec_rcRead_next live ?_ rfl rfl
  have k : compAt n o / 2 ^ 24 = n + 4 := by unfold compAt; omega
  have m : compAt n o % 2 ^ 24 = o := by unfold compAt; omega
  rw [rcReadDo_io reach (by unfold compAt; omega)]
  unfold ioRead
  simp only [k, m]
  rw [if_neg (by omega), if_pos (.inr ge)]

/-! The places of the map's arrays: nothing lies between an array's end and the next register. -/

theorem regAt_beyond_cores {c j : Nat} (hc : 2400 ≤ c) (h : 0x200000 + 16 * c + j < 0xF00000) : regAt (0x200000 + 16 * c + j) = none :=
  regAt_none_of_gap (lo := 0x200000 + 16 * 2400) (hi := 0xF00000) (by decide) (by omega) h (by omega)

theorem regAt_beyond_comps {k j : Nat} (hk : 48 ≤ k) (h : 0x30100 + 8 * k + j < 0x32000) : regAt (0x30100 + 8 * k + j) = none :=
  regAt_none_of_gap (lo := 0x30100 + 8 * 48) (hi := 0x32000) (by decide) (by omega) h (by omega)

theorem regAt_beyond_groves {k j : Nat} (hk : 48 ≤ k) (h : 0x71000 + 8 * k + j < 0x72000) : regAt (0x71000 + 8 * k + j) = none :=
  regAt_none_of_gap (lo := 0x71000 + 8 * 48) (hi := 0x72000) (by decide) (by omega) h (by omega)

end Sys2Proof.Machine

open Sys2Proof Sys2Proof.Machine in
/-- Settles O58: accesses that meet no register, configuration space before and after the functions are ready, and the ends of the map's
arrays. -/
theorem unoccupiedOffsetsReadZero : Obligations.UnoccupiedOffsetsReadZero := by
  unfold Obligations.UnoccupiedOffsetsReadZero
  refine ⟨fun s off live reach ge out lt comp => ⟨fun unlisted size => ⟨?_, fun v => ?_⟩, fun size v narrow => ⟨?_, ?_⟩⟩,
    fun s n live reach hn trained => ⟨fun early o size v ho => ⟨?_, ?_⟩, fun ready => ⟨?_, ?_, ?_⟩, ?_, ?_, ?_, ?_, ?_, ?_⟩, ?_, ?_, ?_, ?_⟩
  · exact exec_rcRead_unlisted live reach ge out lt comp unlisted size
  · exact exec_registerWrite_unlisted live reach out lt unlisted size v
  · rw [barRead_registers s ge out comp, if_neg (by omega)]
  · exact exec_registerWrite_ignored live (barWrite_other reach lt (by omega) v (.inl narrow))
  · exact exec_rcRead_cfg_retry live reach hn trained early ho size
  · exact exec_registerWrite_cfg_retry live reach hn trained early ho size v
  · intro o size ho hs al
    exact exec_rcRead_cfg live reach hn trained ready ho hs al
  · intro v hv
    exact bar_sized_and_placed live reach hn trained ready hv
  · intro o v ho
    have write := fun al e p => exec_registerWrite_cfg (o := o) live reach hn trained ready (by omega) al v e p
    rcases ho with rfl | rfl | rfl | rfl | rfl <;> exact ⟨rfl, write (by omega) rfl rfl⟩
  · by_cases primary : n = 0 <;> simp [cfgWord, primary]
  · simp only [cfgWord]
    simp
    omega
  · rfl
  · rfl
  · intro pos
    exact if_neg pos
  · intro o size pos ge ho
    exact exec_rcRead_beyond live reach pos ge ho size
  · intro c j hc _ h
    exact regAt_beyond_cores hc h
  · intro k j hk _ h
    exact regAt_beyond_comps hk h
  · intro k j hk _ h
    exact regAt_beyond_groves hk h
  · intro r o absent hr ho
    exact regAt_frOff_none absent hr ho
end

section
/-! PROOFS. Clearings (R32, R37, R328, R333): a CLEAR on a compartment at rest cuts nothing and gives back what its queue had fetched. -/

namespace Sys2Proof.Machine

/-! ### What a change lets go on where nothing runs -/

theorem heldPumpAll_resting {s : State} (lands : s.ride.lands = []) (held : ∀ i, i < 24 → (portGet s i).held = []) : heldPumpAll s = s := by
  unfold heldPumpAll
  rw [landGo_none s lands]
  refine List.foldlRecOn (motive := fun t => t = s) _ _ rfl ?_
  rintro t rfl i hi
  simp [held i (List.mem_range.mp hi)]

theorem pumpAll_resting {s : State} (idle : ∀ p ∈ s.cores, p.2.st ≠ .running ∧ p.2.st ≠ .stopping) : pumpAll s = s := by
  have runs : s.cores.filter (fun p => decide (p.2.st = .running ∨ p.2.st = .stopping)) = [] :=
    List.filter_eq_nil_iff.mpr fun p hp => by simp [idle p hp]
  unfold pumpAll
  rw [runs]
  rfl

/-- Where every core rests, what a change lets go on is nothing. -/
theorem goOn_resting {s : State} (rest : resting s) : goOn s = s := by
  obtain ⟨cores, lands, held⟩ := rest
  have idle := pumpAll_resting fun p hp => ⟨(cores p hp).1, (cores p hp).2.1⟩
  rw [goOn, idle, heldPumpAll_resting lands held]

/-- A key's value in a sparse table is one of its entries, or the value of an unlisted key. -/
theorem tabGet_mem_or_default {α : Type} (d : Nat → α) (t : Tab α) (k : Nat) : (k, tabGet d t k) ∈ t ∨ tabGet d t k = d k := by
  induction t with
  | nil => exact .inr rfl
  | cons p r ih =>
    by_cases e : p.1 = k
    · subst e; simp [tabGet]
    · simpa [tabGet, e, Ne.symm e] using ih.imp_left .inr

/-- An entry of a table after a write is the one written, or one of another key that was there. -/
theorem mem_tabSet {α : Type} [DecidableEq α] {d : Nat → α} {t : Tab α} {k : Nat} {v : α} {p : Nat × α} (h : p ∈ tabSet d t k v) :
    p = (k, v) ∨ p.1 ≠ k ∧ p ∈ t := by
  unfold tabSet at h
  split at h
  · exact .inr ⟨tabDel_no k t p h, mem_tabDel h⟩
  · exact (mem_tabIns h).imp_right fun h => ⟨tabDel_no k t p h, mem_tabDel h⟩

/-- A core of a complex at rest neither runs, stops nor loads, and has no tensor instruction. -/
theorem resting_core {s : State} (rest : resting s) (c : Nat) :
    (coreGet s c).st ≠ .running ∧ (coreGet s c).st ≠ .stopping ∧ (coreGet s c).st ≠ .loading ∧ (coreGet s c).tq = [] := by
  rcases tabGet_mem_or_default (fun _ => core0) s.cores c with listed | absent
  · exact rest.1 _ listed
  · rw [coreGet, absent]; exact ⟨by decide, by decide, by decide, rfl⟩

/-! ### Step 1 where nothing is there to be cut -/

theorem cutCore_resting {s : State} (rest : resting s) (c : Nat) : cutCore s c = s := by
  obtain ⟨notRunning, notStopping, notLoading, noTensor⟩ := resting_core rest c
  have kept : tDiscard s c (·.started) = s := by simp [tDiscard, noTensor]
  unfold cutCore
  rw [kept]
  dsimp only
  split <;> first | contradiction | rfl

/-- What a clearing leaves of a queue it covers: nothing is fetched ahead, and the queue is as its ring leaves it (R328). -/
def givenBack (k : Queue) : Queue :=
  { k with buf := [], fetched := k.started, tries := 0, kept := false
           st := if k.st = .idle ∨ k.st = .active ∨ k.st = .cplFull then (if k.tail = k.started then .idle else .active) else k.st }

theorem givenBack_givenBack (k : Queue) : givenBack (givenBack k) = givenBack k := by
  unfold givenBack
  by_cases parked : k.st = .idle ∨ k.st = .active ∨ k.st = .cplFull
  · by_cases empty : k.tail = k.started <;> simp [parked, empty]
  · simp [parked]

/-- What giving back leaves of a command that runs alone in its queue, which is not parked on a full completion ring. -/
theorem givenBack_begun {k : Queue} (d : List Byte) (notFull : k.st ≠ .cplFull) : givenBack (begun k d) = { begun k d with
    fetched := k.started + 1, tries := 0, kept := false
    st := if k.st = .idle ∨ k.st = .active then (if k.tail = k.started + 1 then .idle else .active) else k.st } := by
  simp only [givenBack, begun, notFull, or_false]
  rfl

/-- A clearing gives each queue it covers back. -/
theorem cutBuffers_eq (s : State) (c : Clearing) : cutBuffers s c =
    s.qsu.queues.foldl (fun s p => if clearHits c p.1 (queueGet s p.1) then queueSet s p.1 (givenBack (queueGet s p.1)) else s) s := by
  unfold cutBuffers givenBack qSettle
  congr 1
  funext s p
  dsimp only
  split
  · split <;> rfl
  · rfl

theorem cutBuffers_only (s : State) (c : Clearing) : { cutBuffers s c with qsu := { (cutBuffers s c).qsu with queues := s.qsu.queues } } = s := by
  rw [cutBuffers_eq]
  refine List.foldlRecOn (motive := fun t : State => { t with qsu := { t.qsu with queues := s.qsu.queues } } = s) _ _ rfl ?_
  intro t same p _
  split <;> exact same

/-- A queue that a clearing covers is given back. -/
theorem queueGet_cutBuffers {s : State} {c : Clearing} {q : Nat} (hit : clearHits c q (queueGet s q) = true) (listed : queueGet s q ≠ queue0) :
    queueGet (cutBuffers s c) q = givenBack (queueGet s q) := by
  have fold : ∀ (l : List (Nat × Queue)) (t : State), clearHits c q (queueGet t q) = true →
      queueGet (l.foldl (fun s p => if clearHits c p.1 (queueGet s p.1) then queueSet s p.1 (givenBack (queueGet s p.1)) else s) t) q =
        if q ∈ l.map (·.1) then givenBack (queueGet t q) else queueGet t q := by
    intro l
    induction l with
    | nil => intro t _; rfl
    | cons p l ih =>
      intro t hit
      have comp : (givenBack (queueGet t q)).comp = (queueGet t q).comp := rfl
      rw [List.foldl_cons]
      by_cases e : p.1 = q
      · rw [e, if_pos hit, ih _ (by simpa [clearHits, comp] using hit)]
        simp [e, givenBack_givenBack]
      · have other : queueGet (if clearHits c p.1 (queueGet t p.1) then queueSet t p.1 (givenBack (queueGet t p.1)) else t) q = queueGet t q := by
          split
          · exact queueGet_queueSet_ne t _ (Ne.symm e)
          · rfl
        rw [ih _ (by rw [other]; exact hit), other]
        exact if_congr (show q ∈ l.map (·.1) ↔ q ∈ (p :: l).map (·.1) by simp [Ne.symm e]) rfl rfl
  have there : q ∈ s.qsu.queues.map (·.1) := by
    rcases tabGet_mem_or_default (fun _ => queue0) s.qsu.queues q with mem | absent
    · exact List.mem_map.mpr ⟨_, mem, rfl⟩
    · exact absurd absent listed
  rw [cutBuffers_eq, fold _ s hit, if_pos there]

/-- Step 1 of a clearing where no stream, kernel, deferred completion or command is there to be cut: the covered queues are given back. -/
theorem clearBegin_resting {s : State} {c : Clearing} (rest : resting s) (streams : s.movers = []) (kernels : s.qsu.launches = [])
    (waits : s.host.defer = []) (commands : ∀ p ∈ s.qsu.queues, ∀ r ∈ p.2.run, cuttable (dCmd r.desc) = false) :
    clearBegin s c = clearTo (cutBuffers s c) c 1 := by
  have dropped : dropWaiting s c = s := by simp [dropWaiting, moversMap, streams]
  have cut : cutStreams s c = s := by simp [cutStreams, moversMap, streams]
  have cores : (clearCores s c).foldl cutCore s = s :=
    List.foldlRecOn (motive := fun t => t = s) _ _ rfl (by rintro _ rfl x _; exact cutCore_resting rest x)
  have launches : { s with qsu := { s.qsu with launches := s.qsu.launches.map (fun l => if c.comps.contains l.comp then { l with cut := true } else l) } } = s := by
    rw [kernels, List.map_nil, ← kernels]
  have defers : cutDefers s c = s := by
    unfold cutDefers
    rw [waits, List.map_nil, ← waits]
  have queues : s.qsu.queues.foldl (fun s' p => if clearHits c p.1 p.2 then
      (p.2.run.filter (cutNow s' p.1)).foldl (fun s' r => finishNow s' p.1 r.idx 0x0E (cutDetail s p.1 r.idx) 0) s' else s') s = s := by
    refine List.foldlRecOn (motive := fun t => t = s) _ _ rfl ?_
    intro t same p hp
    have cut : p.2.run.filter (cutNow t p.1) = [] := List.filter_eq_nil_iff.mpr fun r hr => by simp [cutNow, commands p hp r hr]
    rw [cut]
    split <;> exact same
  have only := cutBuffers_only s c
  have rested : resting (clearTo (cutBuffers s c) c 1) := by
    obtain ⟨cores, lands, held⟩ := rest
    refine ⟨?_, ?_, fun i hi => ?_⟩
    · rw [show (clearTo (cutBuffers s c) c 1).cores = s.cores from (congrArg State.cores only :)]
      exact cores
    · exact (congrArg (fun x : State => x.ride.lands) only).trans lands
    · exact (congrArg (fun x : State => (portGet x i).held) only).trans (held i hi)
  unfold clearBegin
  simp only [dropped, cut, cores, launches, defers, queues]
  exact goOn_resting rested

/-! ### CLEAR, and the ends of steps that only pass on -/

/-- The clearing that a CLEAR asks for (R37). -/
def clearAsked (s : State) (q : Nat) (d : List Byte) : Clearing :=
  { q := q, idx := (queueGet s q).started, whole := bitOf (dWord d 1) 0
    comps := if bitOf (dWord d 1) 0 then List.range 48 else [(queueGet s q).comp], step := 0, auto := false }

/-- The complex with a CLEAR's command started and its clearing standing. -/
def clearStands (s : State) (q : Nat) (d : List Byte) : State :=
  { begunState s q d with qsu := { (begunState s q d).qsu with clears := [clearAsked s q d] } }

theorem queueGet_begunState (s : State) (q : Nat) (d : List Byte) : queueGet (begunState s q d) q = begun (queueGet s q) d :=
  queueGet_queueSet_same s q _

/-- A CLEAR that passes the first checks, with no clearing and no proof under way, takes its clearing's first step. -/
theorem clearRun_begins {s : State} {q : Nat} {d : List Byte} (body : bodyOk d = true) (cmd : dCmd d = 5) (clears : s.qsu.clears = [])
    (proof : s.prf.run = none) (priv : bitOf (dWord d 1) 0 = true → (queueGet s q).priv = true)
    (comp : bitOf (dWord d 1) 0 = false → (queueGet s q).comp < 48) :
    clearRun q ⟨(queueGet s q).started, d, begunState s q d⟩ = clearBegin (clearStands s q d) (clearAsked s q d) := by
  have checks : firstChecks (begunState s q d) q d (bitOf (dWord d 1) 0 || hasComp (queueGet (begunState s q d) q)) = 0 := by
    unfold firstChecks hasComp needsPriv
    rw [queueGet_begunState]
    cases whole : bitOf (dWord d 1) 0 <;> simp_all [begun]
  have open_ : clearBlocked (clearStands s q d) (clearAsked s q d) = false := by
    unfold clearBlocked
    rw [show (clearStands s q d).prf.run = none from proof]
    simp [clearAsked]
  have stands : (begunState s q d).qsu.clears ++ [clearAsked s q d] = [clearAsked s q d] := by
    rw [show (begunState s q d).qsu.clears = [] from clears]
    rfl
  unfold clearRun
  dsimp only
  rw [if_neg (not_not.mpr checks)]
  rw [queueGet_begunState]
  change (if clearBlocked { begunState s q d with qsu := { (begunState s q d).qsu with clears := _ ++ [clearAsked s q d] } } (clearAsked s q d) = true then _ else
    clearBegin { begunState s q d with qsu := { (begunState s q d).qsu with clears := _ ++ [clearAsked s q d] } } (clearAsked s q d)) = _
  rw [stands]
  exact if_neg (by rw [← clearStands]; simp [open_])

/-- A CLEAR that has started alone leaves no command that a clearing cuts. -/
theorem uncuttable_begun {s : State} {q : Nat} {d : List Byte} (cmd : dCmd d = 5) (others : ∀ p ∈ s.qsu.queues, p.1 = q ∨ p.2.run = []) :
    ∀ p ∈ (clearStands s q d).qsu.queues, ∀ r ∈ p.2.run, cuttable (dCmd r.desc) = false := by
  intro p hp r hr
  rcases mem_tabSet (show p ∈ tabSet (fun _ => queue0) s.qsu.queues q (begun (queueGet s q) d) from hp) with rfl | ⟨other, listed⟩
  · obtain rfl := List.mem_singleton.mp hr
    simp [cuttable, cmd]
  · rw [(others p listed).resolve_left other] at hr
    cases hr

/-- The ends of steps that only pass on. -/
theorem clearNext_passes {c : Clearing} (s : State) (passes : c.step = 1 ∨ c.step = 5 ∨ c.step = 6) : clearNext s c = clearTo s c (c.step + 1) := by
  unfold clearNext
  rcases passes with step | step | step <;> simp only [step]

theorem clearTo_sole {s : State} {c : Clearing} (sole : s.qsu.clears = [c]) (n : Nat) :
    clearTo s c n = { s with qsu := { s.qsu with clears := [{ c with step := n }] } } := by
  simp [clearTo, sole]

end Sys2Proof.Machine

open Sys2Proof Sys2Proof.Machine in
/-- Settles O27: a CLEAR on a compartment at rest takes its clearing's first step and gives back what its queue had fetched; the ends of
steps 1, 5 and 6 lead to the next. -/
theorem clearingsStep : Obligations.ClearingsStep := by
  unfold Obligations.ClearingsStep
  refine ⟨?_, ?_⟩
  · intro q d s turn body cmd rest streams kernels waits others k whole priv comp
    obtain ⟨live, hq, run, hold, clears, calm, proof, en, notFull, buf, runs, room, align, fits⟩ := id turn
    have got := queueGet_begunState s q d
    have begin_ := clearBegin_resting (s := clearStands s q d) (c := clearAsked s q d) rest streams kernels waits
      (uncuttable_begun cmd others)
    have only := cutBuffers_only (clearStands s q d) (clearAsked s q d)
    have clears' : (clearTo (cutBuffers (clearStands s q d) (clearAsked s q d)) (clearAsked s q d) 1).qsu.clears = [{ clearAsked s q d with step := 1 }] :=
      congrArg (fun x : State => x.qsu.clears) (clearTo_sole (congrArg (fun x : State => x.qsu.clears) only) 1)
    have queue : queueGet (cutBuffers (clearStands s q d) (clearAsked s q d)) q = givenBack (begun k d) := by
      rw [← got]
      exact queueGet_cutBuffers (by simp [clearHits, clearAsked]) (by rw [show queueGet (clearStands s q d) q = begun k d from got]; simp [begun, queue0])
    refine ⟨_, queue_runs q s d turn (· == 5) (by simp [cmd]) (clearOwn q) (by simp [clearOwn, clears]) (clearRun q) _
      ((clearRun_begins body cmd clears proof priv comp).trans begin_) ?_ ?_ ?_, clears', ?_, ?_, ?_, ?_⟩
    · exact ⟨(congrArg State.coh only :).trans calm.1, (congrArg (fun x : State => x.tiers.poison) only).trans calm.2⟩
    · exact (congrArg State.errs only :)
    · exact (congrArg State.pending only :)
    · exact queue.trans (givenBack_begun d notFull)
    · exact (congrArg State.cores only :)
    · exact (congrArg State.tiers only :)
    · exact (congrArg State.regs only :)
  · intro q s c live hq sole own passes
    have found : clearOf s q = some c := by simp [clearOf, sole, own]
    refine withUnit_calm 1024 q s _ _ hq live ?_ rfl rfl
    simp only [found]
    rw [clearNext_passes s passes, clearTo_sole sole]
end

section
/-! PROOFS. The store buffer (R24, R303). -/

namespace Sys2Proof.Machine

/-- A core of which nothing is left but a store-buffer entry for the floor line 2^39. -/
def floorStorer (req : Bool) : Core :=
  { core0 with st := .running, sb := [⟨0, 2 ^ 39, 3, [], false, false, 0, 0, 0, false, 0, req, false⟩] }

/-- A core table that lists core 0 twice, on a complex whose host pool holds one credit: the second entry, which no read of the core
reaches, has the credit (R24). -/
def listedTwice : State :=
  { regSet State.reset 0xB0000 14 0 1 with cores := [(0, floorStorer false), (0, floorStorer true)] }

/-- Once the entry's time is over, core 0 is written, which drops the entry listed behind it and frees the credit it counted for: the
store takes it and asks for its line. -/
theorem listedTwice_asks : (match exec (.sbEntryTimeout 0 0) listedTwice with
    | .next t => (coreGet t 0).sb.map (·.req)
    | _ => []) = [true] := by decide +kernel

end Sys2Proof.Machine

open Sys2Proof Sys2Proof.Machine in
/-- Refutes O22: clause 2 counts the host pool's credits over the core table as it is listed, so where the table lists the core a second
time with the pool's one credit, the entry waits by R24's count; but the step writes the core, which drops the second listing, and then
asks for the line with the credit freed. -/
theorem not_storesPerform : ¬ Obligations.StoresPerform := by
  unfold Obligations.StoresPerform
  intro h
  have one : oneStore listedTwice 0 ⟨0, 2 ^ 39, 3, [], false, false, 0, 0, 0, false, 0, false, false⟩ := by
    unfold oneStore Live
    decide +kernel
  have waits := (h 0 listedTwice _ one).2.1 rfl rfl (by decide +kernel)
  have asks := listedTwice_asks
  rw [waits] at asks
  simp at asks
end

section
/-! PROOFS. LAUNCH (R29, R111). -/

namespace Sys2Proof.Machine

/-- A LAUNCH descriptor of one bundle (R330). -/
def oneBundleLaunch : List Byte := words [2 * 2 ^ 43, 0, 0, 0, 1, 0, 0, 0, 0, 0, 0, 0, 0, 0, 0, 0]

/-- A core that waits to be started (R111). -/
def waitingCore : Core := { core0 with st := .loading }

/-- The complex in RUN with a LAUNCH fetched on queue 0, and two cores of grove 0 that wait to be started. -/
def twoWaiting : State :=
  { regSet State.reset 0x20008 18 16 3 with
    cores := [(0, waitingCore), (1, waitingCore)]
    qsu := { qsu0 with queues := [(0, { queue0 with en := true, st := .idle, comp := 0, buf := [oneBundleLaunch] })] } }

/-- The LAUNCH of core 0 alone. -/
def launchOfCore0 : Launch :=
  { q := 0, idx := 0, comp := 0, groves := [0], cores := [0], loaded := false, chains := [], first := none, cut := false, streamAbort := false, links := [] }

/-- That LAUNCH standing on its queue, its command started. -/
def twoWaitingLaunched : State :=
  { begunState twoWaiting 0 oneBundleLaunch with qsu := { (begunState twoWaiting 0 oneBundleLaunch).qsu with launches := [launchOfCore0] } }

/-- Once its image is in, the ramp starts grove 0: every core of it that waits, core 1 too. -/
theorem grove_starts_core1 : (match exec (.launchImageLoaded 0) twoWaitingLaunched with
    | .next t => (coreGet t 1).st
    | _ => .idle) = .running := by decide +kernel

end Sys2Proof.Machine

open Sys2Proof Sys2Proof.Machine in
/-- Refutes O29: a grove's start starts every core of the grove that waits, so where a core that waits is not in the LAUNCH, the image's
arrival does not leave it alone. -/
theorem not_movesAndLaunches : ¬ Obligations.MovesAndLaunches := by
  unfold Obligations.MovesAndLaunches
  intro h
  have turn : queueTurn twoWaiting 0 oneBundleLaunch := by
    unfold queueTurn uncached Live
    decide +kernel
  obtain ⟨t, loads, -, -, -, frame⟩ := ((h 0 oneBundleLaunch twoWaiting turn (by decide +kernel)).2.2 launchOfCore0 rfl rfl rfl rfl).1 rfl
  have kept : coreGet t 1 = coreGet twoWaiting 1 := by
    have := frame 1
    rwa [if_neg (by decide)] at this
  have loaded : exec (.launchImageLoaded 0) twoWaitingLaunched = .next t := loads
  have starts := grove_starts_core1
  rw [loaded] at starts
  exact absurd ((congrArg Core.st kept).symm.trans starts) (by decide)
end

section
/-! PROOFS. What an event leaves alone (R346 to R348): every core but its L1, and everything beside the caches, host memory, the port and
the event ring's own registers. -/

namespace Sys2Proof.Machine

/-- A core without its L1. -/
def lessL1 (k : Core) : Core := { k with l1 := [] }

/-- The complex without what a write of host memory changes: the cores, the tiers, the caches, the host port and what it has sent. -/
def lessMemory (s : State) : State := { s with cores := [], tiers := tiers0, coh := coh0, host := hostPort0, out := [] }

/-- What a write of host memory leaves: everything beside memory, and every core but its L1. -/
structure KeptByWrite (s t : State) : Prop where
  rest : lessMemory t = lessMemory s
  cores : ∀ c, lessL1 (coreGet t c) = lessL1 (coreGet s c)

theorem KeptByWrite.refl (s : State) : KeptByWrite s s := ⟨rfl, fun _ => rfl⟩

theorem KeptByWrite.trans {s t u : State} (a : KeptByWrite s t) (b : KeptByWrite t u) : KeptByWrite s u :=
  ⟨b.rest.trans a.rest, fun c => (b.cores c).trans (a.cores c)⟩

/-- A change that leaves the table of cores. -/
theorem KeptByWrite.of_cores {s t : State} (rest : lessMemory t = lessMemory s) (cores : t.cores = s.cores) : KeptByWrite s t :=
  ⟨rest, fun c => by simp only [coreGet, cores]⟩

theorem KeptByWrite.foldl {α : Type} {f : State → α → State} (h : ∀ s x, KeptByWrite s (f s x)) (l : List α) (s : State) :
    KeptByWrite s (l.foldl f s) := by
  induction l generalizing s with
  | nil => exact .refl s
  | cons x l ih => exact (h s x).trans (ih (f s x))

theorem justSends.kept {s t : State} (h : justSends s t) : KeptByWrite s t :=
  .of_cores (congrArg lessMemory h.1 :) (congrArg State.cores h.1 :)

theorem lessL1_l1drop (k : Core) (line : Nat) : lessL1 (l1drop k line) = lessL1 k := by
  unfold l1drop
  split <;> rfl

theorem coreMap_l1drop_kept (s : State) (c line : Nat) : KeptByWrite s (coreMap s c (fun k => l1drop k line)) := by
  refine ⟨rfl, fun d => ?_⟩
  by_cases e : d = c
  · rw [e, coreGet_coreMap_same, lessL1_l1drop]
  · rw [coreGet_coreMap_ne s _ e]

theorem l2put_kept (s : State) (slice line way : Nat) (v : L2Way) : KeptByWrite s (l2put s slice line way v) := .of_cores rfl rfl

theorem backInval_kept (s : State) (slice line : Nat) : KeptByWrite s (backInval s slice line) := by
  unfold backInval
  split
  · exact .refl s
  · refine (KeptByWrite.foldl (fun s c => ?_) _ s).trans (l2put_kept _ _ _ _ _)
    split
    · exact coreMap_l1drop_kept s c line
    · exact .refl s

theorem l2drop_kept (s : State) (slice line : Nat) : KeptByWrite s (l2drop s slice line) := by
  unfold l2drop
  split
  · exact .refl s
  · exact l2put_kept _ _ _ _ _

theorem snoopI_kept (s : State) (slice line : Nat) : KeptByWrite s (snoop s .snpI slice line).2.2 := by
  have drop := (backInval_kept s slice line).trans (l2drop_kept _ slice line)
  unfold snoop
  split
  · exact .of_cores rfl rfl
  · split
    · exact .refl s
    · dsimp only
      split
      · exact drop
      · exact drop

theorem dropAll_kept (s : State) (line : Nat) : KeptByWrite s (dropAll s line) := .foldl (fun s g => snoopI_kept s g line) _ s

/-- A store to a floor line changes the tiers alone. -/
theorem memWrite_floor_tiers (s : State) (sel : Nat) {line : Nat} (mask : Nat) (data : List Byte) (poison : Bool) (floor : lineTier line = 2) :
    { memWrite s sel line mask data poison with tiers := s.tiers } = s := by
  have unarmed : injTaken s line = s := by simp [injTaken, floor]
  unfold memWrite memStore
  rw [if_neg (by simp [floor]), if_neg (by simp [floor]), unarmed]

theorem memWrite_floor_kept (s : State) (sel : Nat) {line : Nat} (mask : Nat) (data : List Byte) (poison : Bool) (floor : lineTier line = 2) :
    KeptByWrite s (memWrite s sel line mask data poison) := by
  have only := memWrite_floor_tiers s sel mask data poison floor
  exact .of_cores (congrArg lessMemory only :) (congrArg State.cores only :)

theorem writeOver_floor_kept (s : State) (o : Option Own) (sel : Nat) {line : Nat} (mask : Nat) (data : List Byte) (poison : Bool)
    (floor : lineTier line = 2) : KeptByWrite s (writeOver s o sel line mask data poison) := by
  unfold writeOver
  split
  · split
    · exact memWrite_floor_kept s sel _ _ _ floor
    · refine KeptByWrite.trans ?_ (memWrite_floor_kept _ sel _ _ _ floor)
      split
      · exact memWrite_floor_kept s _ _ _ _ floor
      · exact .refl s
  · exact memWrite_floor_kept s sel _ _ _ floor

theorem cohWrite_floor_kept (s : State) (sel : Nat) {line : Nat} (mask : Nat) (data : List Byte) (poison : Bool) (floor : lineTier line = 2) :
    KeptByWrite s (cohWrite s sel line mask data poison) := by
  have note := (writeNote_sent s line mask).kept
  have dropped := note.trans (dropAll_kept (writeNote s line mask) line)
  unfold cohWrite cohWriteCore
  dsimp only
  rw [if_pos floor]
  generalize dropAll (writeNote s line mask) line = t at dropped
  have owned : KeptByWrite t (hostStPut (dirPut t line dir0) line 0) := .of_cores rfl rfl
  exact (dropped.trans owned).trans (writeOver_floor_kept _ _ sel mask data poison floor)

/-- Where nothing is cached, a coherent write of a floor line leaves the caches and the cores. -/
theorem cohWrite_floor_quiet {s : State} (sel : Nat) {line : Nat} (mask : Nat) (data : List Byte) (poison : Bool) (floor : lineTier line = 2)
    (none_ : s.coh = coh0) : (cohWrite s sel line mask data poison).coh = coh0 ∧ (cohWrite s sel line mask data poison).cores = s.cores := by
  rw [cohWrite_uncached s sel line mask data poison none_]
  have note := writeNote_sent s line mask
  have store := memWrite_floor_tiers (writeNote s line mask) sel mask data poison floor
  refine ⟨(congrArg State.coh store :).trans ((writeNote_coh s line mask).trans none_), ?_⟩
  exact (congrArg State.cores store :).trans (congrArg State.cores note.1 :)

/-- A line-by-line write of bytes of the floor keeps what a write of each line keeps. -/
theorem cohPut_floor_induct {R : State → State → Prop} (refl : ∀ s, R s s) (trans : ∀ {s t u}, R s t → R t u → R s u)
    (line : ∀ s sel line mask data, lineTier line = 2 → R s (cohWrite s sel line mask data false))
    (s : State) (sel pa f : Nat) (l : List Byte) (lo : 2 * 2 ^ 44 ≤ pa) (hi : pa + l.length ≤ 3 * 2 ^ 44) : R s (cohPut s sel pa f l) := by
  induction f generalizing s pa l with
  | zero => exact refl s
  | succ f ih =>
    simp only [cohPut]
    split
    · exact refl s
    · next ne =>
      have pos : 0 < l.length := List.length_pos_of_ne_nil (by simpa using ne)
      refine trans ?_ (ih _ _ _ (by omega) (by rw [List.length_drop]; omega))
      exact line s sel _ _ _ (by unfold lineTier; omega)

theorem floorWrite_kept (s : State) (hpa : Nat) (l : List Byte) (h : hpa + l.length ≤ 2 ^ 44) : KeptByWrite s (floorWrite s hpa l) :=
  cohPut_floor_induct .refl .trans (fun s sel _ mask data floor => cohWrite_floor_kept s sel mask data false floor) s 0 _ _ l
    (by unfold floorPA; omega) (by unfold floorPA; omega)

theorem floorWrite_quiet {s : State} (hpa : Nat) (l : List Byte) (h : hpa + l.length ≤ 2 ^ 44) (none_ : s.coh = coh0) :
    (floorWrite s hpa l).coh = coh0 ∧ (floorWrite s hpa l).cores = s.cores :=
  cohPut_floor_induct (R := fun s t => s.coh = coh0 → t.coh = coh0 ∧ t.cores = s.cores) (fun _ h => ⟨h, rfl⟩)
    (fun a b h => ⟨(b (a h).1).1, (b (a h).1).2.trans (a h).2⟩)
    (fun _ sel _ mask data floor h => cohWrite_floor_quiet sel mask data false floor h) s 0 _ _ l
    (by unfold floorPA; omega) (by unfold floorPA; omega) none_

theorem sendMsix_host (s : State) (v : Nat) : { sendMsix s v with host := s.host, out := s.out } = s := by
  unfold sendMsix
  dsimp only
  split
  · rfl
  · split
    · exact (linkWake_sent s 0).1
    · rfl

/-- The complex without what an event changes: what a write of host memory does, the registers, and the count of events. -/
def lessEvent (s : State) : State := { lessMemory s with regs := [], qsu := { s.qsu with evT := 0 } }

/-- What an event leaves: everything beside memory, the registers but for the event ring's own, every core but its L1, and where nothing is
cached every core. -/
structure LeftByEvent (s t : State) : Prop where
  rest : lessEvent t = lessEvent s
  regs : ∀ a, a ≠ 0x30020 → a ≠ 0x30028 → regGet t a = regGet s a
  cores : ∀ c, lessL1 (coreGet t c) = lessL1 (coreGet s c)
  still : quiet s → quiet t ∧ t.cores = s.cores

theorem LeftByEvent.refl (s : State) : LeftByEvent s s := ⟨rfl, fun _ _ _ => rfl, fun _ => rfl, fun h => ⟨h, rfl⟩⟩

theorem LeftByEvent.trans {s t u : State} (a : LeftByEvent s t) (b : LeftByEvent t u) : LeftByEvent s u :=
  ⟨b.rest.trans a.rest, fun r x y => (b.regs r x y).trans (a.regs r x y), fun c => (b.cores c).trans (a.cores c),
    fun h => ⟨(b.still (a.still h).1).1, (b.still (a.still h).1).2.trans (a.still h).2⟩⟩

/-- A change beside the cores and the caches. -/
theorem LeftByEvent.of_same {s t : State} (rest : lessEvent t = lessEvent s) (regs : ∀ a, a ≠ 0x30020 → a ≠ 0x30028 → regGet t a = regGet s a)
    (cores : t.cores = s.cores) (coh : t.coh = s.coh) : LeftByEvent s t := by
  have on : t.qsu.evOn = s.qsu.evOn := (congrArg (fun x : State => x.qsu.evOn) rest :)
  exact ⟨rest, regs, fun c => by simp only [coreGet, cores], fun calm => ⟨by unfold quiet; rwa [coh, on], cores⟩⟩

theorem LeftByEvent.regSet {s : State} (o hi lo v : Nat) (h : o = 0x30020 ∨ o = 0x30028) : LeftByEvent s (regSet s o hi lo v) :=
  .of_same rfl (fun _ x y => regGet_regSet_ne s _ _ _ (by omega)) rfl rfl

/-- The record of an event in the host's ring, while the ring is in use. -/
theorem floorWrite_leaves {s : State} (on : s.qsu.evOn = true) (hpa : Nat) (l : List Byte) (h : hpa + l.length ≤ 2 ^ 44) :
    LeftByEvent s (floorWrite s hpa l) := by
  have kept := floorWrite_kept s hpa l h
  have regs : (floorWrite s hpa l).regs = s.regs := (congrArg State.regs kept.rest :)
  refine ⟨?_, fun a _ _ => by simp only [regGet, regs], kept.cores, fun calm => ?_⟩
  · exact (congrArg (fun x : State => { x with regs := [], qsu := { x.qsu with evT := 0 } }) kept.rest :)
  · have none_ : s.coh = coh0 := calm.resolve_right (by simp [on])
    have still := floorWrite_quiet hpa l h none_
    exact ⟨.inl still.1, still.2⟩

theorem sendMsix_leaves (s : State) (v : Nat) : LeftByEvent s (sendMsix s v) := by
  have only := sendMsix_host s v
  have regs : (sendMsix s v).regs = s.regs := (congrArg State.regs only :)
  exact .of_same (congrArg lessEvent only :) (fun a _ _ => by simp only [regGet, regs]) (congrArg State.cores only :) (congrArg State.coh only :)

theorem writeEventQ_leaves (s : State) (code noq queue seq ctx a0 a1 a2 : Nat) : LeftByEvent s (writeEventQ s code noq queue seq ctx a0 a1 a2) := by
  unfold writeEventQ
  dsimp only
  split
  · exact .refl s
  · next open_ =>
    have on : s.qsu.evOn = true := by
      by_contra off
      exact open_ (by simp [off])
    split
    · exact .regSet _ _ _ _ (.inr rfl)
    · generalize bytes : words [_, a0, a1, a2] = l
      have len : l.length = 32 := by rw [← bytes, words_length]; rfl
      have slot := eventSlot_lt s s.qsu.evT
      generalize regField s 0x30010 42 6 * 64 + 32 * (s.qsu.evT % 2 ^ regField s 0x30018 4 0) = hpa at slot ⊢
      have record := floorWrite_leaves on hpa l (by omega)
      generalize floorWrite s hpa l = t at record ⊢
      have count : LeftByEvent t { t with qsu := { t.qsu with evT := s.qsu.evT + 1 } } := .of_same rfl (fun _ _ _ => rfl) rfl rfl
      refine (record.trans count).trans ((LeftByEvent.regSet 0x30020 32 32 1 (.inl rfl)).trans ?_)
      refine LeftByEvent.trans ?_ (sendMsix_leaves _ _)
      split
      · exact .regSet _ _ _ _ (.inl rfl)
      · exact .refl _

theorem writeEvent_leaves (s : State) (code a0 a1 a2 : Nat) : LeftByEvent s (writeEvent s code a0 a1 a2) := writeEventQ_leaves s code 1 0 0 0 a0 a1 a2

end Sys2Proof.Machine
end

section
/-! PROOFS. The draw budget (R29, R403 to R436, R535). -/

namespace Sys2Proof.Machine

/-! ### A sample's classification (R404, R418, R421) -/

/-- Power without the disturbances in progress and their log. -/
def lessDisturbance (p : Pwr) : Pwr := { p with drop := false, surge := false, ext := 0, dur := 0, log := [], logSeq := 0 }

/-- The complex without what a disturbance's report changes. -/
def lessSample (s : State) : State := { lessEvent s with pwr := lessDisturbance s.pwr }

/-- What the report of a disturbance leaves. -/
structure LeftBySample (s t : State) : Prop where
  rest : lessSample t = lessSample s
  regs : ∀ a, a ≠ 0x30020 → a ≠ 0x30028 → regGet t a = regGet s a
  cores : ∀ c, lessL1 (coreGet t c) = lessL1 (coreGet s c)
  still : quiet s → quiet t ∧ t.cores = s.cores

theorem LeftBySample.refl (s : State) : LeftBySample s s := ⟨rfl, fun _ _ _ => rfl, fun _ => rfl, fun h => ⟨h, rfl⟩⟩

theorem LeftBySample.trans {s t u : State} (a : LeftBySample s t) (b : LeftBySample t u) : LeftBySample s u :=
  ⟨b.rest.trans a.rest, fun r x y => (b.regs r x y).trans (a.regs r x y), fun c => (b.cores c).trans (a.cores c),
    fun h => ⟨(b.still (a.still h).1).1, (b.still (a.still h).1).2.trans (a.still h).2⟩⟩

theorem LeftByEvent.sample {s t : State} (h : LeftByEvent s t) : LeftBySample s t :=
  ⟨(congrArg (fun x : State => { x with pwr := lessDisturbance x.pwr }) h.rest :), h.regs, h.cores, h.still⟩

/-- A change of the disturbances and their log. -/
theorem LeftBySample.of_power {s : State} {p : Pwr} (h : lessDisturbance p = lessDisturbance s.pwr) : LeftBySample s { s with pwr := p } :=
  ⟨congrArg (fun x => { lessEvent s with pwr := x }) h, fun _ _ _ => rfl, fun _ => rfl, fun calm => ⟨calm, rfl⟩⟩

theorem LeftBySample.emit (s : State) (o : Out) : LeftBySample s (emit s o) := ⟨rfl, fun _ _ _ => rfl, fun _ => rfl, fun calm => ⟨calm, rfl⟩⟩

theorem disturb_leaves (s : State) (kind code a0 a1 : Nat) : LeftBySample s (disturb s kind code a0 a1) := by
  unfold disturb
  dsimp only
  have logged : ∀ t, LeftBySample s t → LeftBySample s (if rangerUp t then emit t (.pldm kind [a0, a1]) else t) := by
    intro t h
    split
    · exact h.trans (.emit t _)
    · exact h
  have reported : ∀ t, LeftBySample s t → LeftBySample s (if code = 0 then t else writeEvent t code a0 a1 0) := by
    intro t h
    split
    · exact h
    · exact h.trans (writeEvent_leaves t code a0 a1 0).sample
  refine reported _ (logged _ ?_)
  split
  · exact .refl s
  · exact .of_power (by unfold lessDisturbance; rfl)

/-- A sag shown (R421). -/
def sagShown (s : State) (volt : Nat) : State := if volt < 4200 then pwrFlagSet s 2 true else s

/-- A dropout that ends is reported (R404). -/
def dropoutEnded (s : State) (volt : Nat) : State :=
  if s.pwr.drop && decide (3800 ≤ volt) then disturb { s with pwr := { s.pwr with drop := false } } 2 0x24 s.pwr.ext s.pwr.dur else s

/-- A surge that ends is reported (R404). -/
def surgeEnded (s : State) (volt : Nat) : State :=
  if s.pwr.surge && decide (volt ≤ 5950) then disturb { s with pwr := { s.pwr with surge := false } } 3 0x25 s.pwr.ext s.pwr.dur else s

/-- A sample below the dropout's voltage is counted (R404, R422). -/
def dropoutSeen (p : Pwr) (volt : Nat) : Pwr :=
  if volt < 3800 then { p with drop := true, low := p.low + 1, ext := if p.drop then min p.ext volt else volt, dur := if p.drop then p.dur + 2 else 2 }
  else { p with low := 0 }

/-- A sample above the surge's voltage (R404). -/
def surgeSeen (p : Pwr) (volt : Nat) : Pwr :=
  if 5950 < volt then { p with surge := true, ext := if p.surge then max p.ext volt else volt, dur := if p.surge then p.dur + 2 else 2 } else p

/-- The classification of a sample of a measurement that is plausible. -/
theorem classify_plausible {s : State} (h : pwrFlag s 5 = false) (volt : Nat) : classify s volt =
    let t := surgeEnded (dropoutEnded (sagShown s volt) volt) volt
    { t with pwr := surgeSeen (dropoutSeen t.pwr volt) volt } := by
  unfold classify
  rw [if_neg (by simp [h])]
  rfl

theorem classify_implausible {s : State} (h : pwrFlag s 5 = true) (volt : Nat) : classify s volt =
    { s with pwr := { s.pwr with low := if volt < 3800 then s.pwr.low + 1 else 0 } } := by
  unfold classify
  rw [if_pos h]

theorem dropoutEnded_leaves (s : State) (volt : Nat) : LeftBySample s (dropoutEnded s volt) := by
  have ended : LeftBySample s { s with pwr := { s.pwr with drop := false } } := .of_power rfl
  unfold dropoutEnded
  split
  · exact ended.trans (disturb_leaves _ 2 0x24 s.pwr.ext s.pwr.dur)
  · exact .refl s

theorem surgeEnded_leaves (s : State) (volt : Nat) : LeftBySample s (surgeEnded s volt) := by
  have ended : LeftBySample s { s with pwr := { s.pwr with surge := false } } := .of_power rfl
  unfold surgeEnded
  split
  · exact ended.trans (disturb_leaves _ 3 0x25 s.pwr.ext s.pwr.dur)
  · exact .refl s

/-- A sample that has been seen has its run of low samples counted; the rest of what it changes is the disturbances' own. -/
theorem lessDisturbance_seen (p : Pwr) (volt : Nat) : lessDisturbance (surgeSeen (dropoutSeen p volt) volt) =
    { lessDisturbance p with low := if volt < 3800 then p.low + 1 else 0 } := by
  unfold surgeSeen dropoutSeen
  by_cases drop : volt < 3800 <;> by_cases high : 5950 < volt <;> simp only [drop, high, if_true, if_false] <;> rfl

/-- What a sample's classification leaves, from the state that shows the sag (none while the measurement is implausible). -/
structure LeftByClassify (s t : State) (volt : Nat) : Prop where
  rest : { lessEvent t with pwr := pwr0 } = { lessEvent s with pwr := pwr0 }
  power : lessDisturbance t.pwr = { lessDisturbance s.pwr with low := if volt < 3800 then s.pwr.low + 1 else 0 }
  regs : ∀ a, a ≠ 0x30020 → a ≠ 0x30028 → regGet t a = regGet (if pwrFlag s 5 then s else sagShown s volt) a
  cores : ∀ c, lessL1 (coreGet t c) = lessL1 (coreGet s c)
  still : quiet s → quiet t ∧ t.cores = s.cores

theorem classify_leaves (s : State) (volt : Nat) : LeftByClassify s (classify s volt) volt := by
  cases implausible : pwrFlag s 5 with
  | true =>
    rw [classify_implausible implausible]
    exact ⟨rfl, rfl, by simp [implausible, regGet], fun _ => rfl, fun calm => ⟨calm, rfl⟩⟩
  | false =>
    rw [classify_plausible implausible]
    have left := (dropoutEnded_leaves (sagShown s volt) volt).trans (surgeEnded_leaves _ volt)
    have sag : { sagShown s volt with regs := s.regs } = s := by
      unfold sagShown
      split <;> rfl
    dsimp only
    generalize surgeEnded (dropoutEnded (sagShown s volt) volt) volt = t at left ⊢
    obtain ⟨rest, regs, cores, still⟩ := left
    have power : lessDisturbance t.pwr = lessDisturbance s.pwr := by
      refine (congrArg State.pwr rest :).trans ?_
      exact (congrArg (fun x : State => lessDisturbance x.pwr) sag :)
    refine ⟨?_, ?_, fun a x y => ?_, fun c => ?_, fun calm => ?_⟩
    · exact (congrArg (fun x : State => { x with pwr := pwr0 }) rest :).trans (congrArg (fun x : State => { lessEvent x with pwr := pwr0 }) sag :)
    · dsimp only
      rw [lessDisturbance_seen, power, show t.pwr.low = s.pwr.low from (congrArg Pwr.low power :)]
    · rw [implausible, if_neg Bool.false_ne_true]
      exact regs a x y
    · exact (cores c).trans (congrArg (fun x : State => lessL1 (coreGet x c)) sag :)
    · have calm' : quiet (sagShown s volt) := by rwa [← sag] at calm
      exact ⟨(still calm').1, (still calm').2.trans (congrArg State.cores sag :)⟩

/-! ### Budgets and ceilings (R406, R407, R421) -/

/-- A state with the same settings of power, the same THROTTLE_IN# and the same cores serving divides its cap alike. -/
structure SameBudgets (s t : State) : Prop where
  regs : ∀ a, 0x70000 ≤ a → a < 0x70030 → regGet t a = regGet s a
  throttle : t.pwr.throttle = s.pwr.throttle
  serving : ∀ c, (coreGet t c).st = (coreGet s c).st

theorem liveStands_congr {s t : State} (serving : ∀ c, (coreGet t c).st = (coreGet s c).st) : liveStands t = liveStands s := by
  unfold liveStands groveServing coreServing
  simp only [serving]

namespace SameBudgets
variable {s t : State} (h : SameBudgets s t)
include h

theorem field {a : Nat} (hi lo : Nat) (ge : 0x70000 ≤ a) (lt : a < 0x70030) : regField t a hi lo = regField s a hi lo := by
  simp only [regField, h.regs a ge lt]

theorem effCap : effCap t = Machine.effCap s := by
  unfold Machine.effCap
  rw [h.throttle, h.field (a := 0x70008) 12 0 (by omega) (by omega), h.field (a := 0x70010) 12 0 (by omega) (by omega),
    h.field (a := 0x70028) 28 16 (by omega) (by omega)]

theorem linkAllot : linkAllot t = Machine.linkAllot s := h.field _ _ (by omega) (by omega)

theorem classBudgets : classBudgets t = Machine.classBudgets s := by
  unfold Machine.classBudgets
  rw [h.effCap, h.linkAllot, h.field (a := 0x70000) 1 0 (by omega) (by omega), h.field (a := 0x70018) 44 32 (by omega) (by omega),
    h.field (a := 0x70018) 28 16 (by omega) (by omega)]

theorem domBudget (d : Nat) : domBudget t d = Machine.domBudget s d := by
  have share : ∀ i, standShare t i = standShare s i := fun i => by unfold standShare; rw [h.regs 0x70020 (by omega) (by omega)]
  unfold Machine.domBudget standBudget
  simp only [h.classBudgets, liveStands_congr h.serving, h.field (a := 0x70020) 40 32 (by omega) (by omega), share]

end SameBudgets

/-- A sag, FEED_ALERT# and the thermal actions decide the ceilings. -/
theorem ceiling_congr {s t : State} (sag : pwrFlag t 2 = pwrFlag s 2) (alert : t.pwr.alert = s.pwr.alert) (hot : t.pwr.hot = s.pwr.hot) (d : Nat) :
    ceiling t d = ceiling s d := by
  unfold ceiling isHot
  simp only [sag, alert, hot]

/-- A domain within a ceiling (R421). -/
def withinCeiling (c : Nat × Nat) (v : Dom) : Prop := c.1 ≤ v.point ∧ v.duty ≤ c.2

theorem domGet_congr {s t : State} (h : t.pwr.doms = s.pwr.doms) (d : Nat) : domGet t d = domGet s d := by simp only [domGet, h]

@[simp] theorem domGet_domSet_same (s : State) (d : Nat) (v : Dom) : domGet (domSet s d v) d = v := by simp [domGet, domSet]

theorem domGet_domSet_ne (s : State) {d i : Nat} (v : Dom) (h : i ≠ d) : domGet (domSet s d v) i = domGet s i := by
  simp [domGet, domSet, tabGet_tabSet_ne _ _ _ h]

/-- A domain taken within its ceiling: its clock goes down at once, and a step up beyond the ceiling is abandoned (R421, R435). -/
def ceiled (c : Nat × Nat) (v : Dom) : Dom :=
  let v := if v.point < c.1 then { v with point := c.1, step := 1, target := c.1, fit := 0 }
    else if v.step = 2 ∧ v.target < c.1 then { v with step := 1, target := v.point, fit := 0 } else v
  if c.2 < v.duty then { v with duty := c.2, fit := 0 } else v

theorem applyCeiling_eq (s : State) (d : Nat) : applyCeiling s d = domSet s d (ceiled (ceiling s d) (domGet s d)) := rfl

theorem ceiled_within (c : Nat × Nat) (v : Dom) : withinCeiling c (ceiled c v) := by
  have clock : c.1 ≤ (if v.point < c.1 then { v with point := c.1, step := 1, target := c.1, fit := 0 }
    else if v.step = 2 ∧ v.target < c.1 then { v with step := 1, target := v.point, fit := 0 } else v : Dom).point := by
    split
    · exact le_refl _
    · next high => split <;> exact Nat.le_of_not_lt high
  unfold ceiled
  generalize (if v.point < c.1 then _ else _ : Dom) = w at clock
  dsimp only
  split
  · exact ⟨clock, le_refl _⟩
  · next low => exact ⟨clock, Nat.le_of_not_lt low⟩

/-- Applying the ceilings changes the domains alone. -/
theorem applyCeilings_doms (s : State) : ∃ doms, applyCeilings s = { s with pwr := { s.pwr with doms := doms } } := by
  unfold applyCeilings
  refine List.foldlRecOn (motive := fun t : State => ∃ doms, t = { s with pwr := { s.pwr with doms := doms } }) _ _ ⟨s.pwr.doms, rfl⟩ ?_
  rintro _ ⟨doms, rfl⟩ d _
  exact ⟨_, rfl⟩

theorem applyCeilings_within (s : State) {d : Nat} (hd : d < 5) : withinCeiling (ceiling s d) (domGet (applyCeilings s) d) := by
  suffices fold : ∀ n, (∀ i, ceiling ((List.range n).foldl applyCeiling s) i = ceiling s i) ∧
      ∀ i < n, withinCeiling (ceiling s i) (domGet ((List.range n).foldl applyCeiling s) i) from (fold 5).2 d hd
  intro n
  induction n with
  | zero => exact ⟨fun _ => rfl, fun i lt => absurd lt (Nat.not_lt_zero i)⟩
  | succ n ih =>
    rw [List.range_succ, List.foldl_append, List.foldl_cons, List.foldl_nil]
    generalize (List.range n).foldl applyCeiling s = t at ih
    obtain ⟨same, within⟩ := ih
    rw [applyCeiling_eq]
    refine ⟨same, fun i lt => ?_⟩
    by_cases e : i = n
    · rw [e, domGet_domSet_same, ← same n]
      exact ceiled_within _ _
    · rw [domGet_domSet_ne _ _ e]
      exact within i (by omega)

/-! ### A domain's turn (R413, R414, R419) -/

/-- A domain taken down from `v` to `w`: to the highest point whose predicted draw fits its budget, else to its lowest (R413). -/
def tookDown (s : State) (e : Est) (d budget : Nat) (v w : Dom) : Prop :=
  w.step = 1 ∧ v.point < w.point ∧ (predicted s e d w.point ≤ budget ∨ w.point = domFloor d) ∧
    ∀ p, v.point < p → p < w.point → budget < predicted s e d p

/-- The first point of a range that satisfies a condition, else the last of the range. -/
theorem find_range_getD (n : Nat) (p : Nat → Bool) : ((List.range (n + 1)).find? p).getD n ≤ n ∧
    (p (((List.range (n + 1)).find? p).getD n) = true ∨ ((List.range (n + 1)).find? p).getD n = n) ∧
    ∀ i < ((List.range (n + 1)).find? p).getD n, p i = false := by
  cases found : (List.range (n + 1)).find? p with
  | some x =>
    obtain ⟨holds, mem, first⟩ := List.find?_range_eq_some.mp found
    refine ⟨Nat.le_of_lt_succ (List.mem_range.mp mem), .inl holds, fun i lt => ?_⟩
    simpa using first i lt
  | none =>
    refine ⟨le_refl _, .inr rfl, fun i lt => ?_⟩
    simpa using List.find?_range_eq_none.mp found i (Nat.lt_succ_of_lt lt)

/-- A prediction rests on the temperatures and on the domain's point. -/
theorem predicted_congr {s t : State} (e : Est) {d : Nat} (temps : t.pwr.temps = s.pwr.temps) (dom : domGet t d = domGet s d) (p : Nat) :
    predicted t e d p = predicted s e d p := by
  unfold predicted leakAt domTemp
  rw [temps, dom]

theorem tookDown_congr {s t : State} (e : Est) {d : Nat} (temps : t.pwr.temps = s.pwr.temps) (dom : domGet t d = domGet s d) (budget : Nat) (v w : Dom) :
    tookDown t e d budget v w ↔ tookDown s e d budget v w := by
  unfold tookDown
  simp only [predicted_congr e temps dom]

theorem stepDown_takesDown {s : State} (e : Est) {d : Nat} (budget : Nat) (above : (domGet s d).point < domFloor d) :
    ∃ w, stepDown s e d budget = domSet s d w ∧ tookDown s e d budget (domGet s d) w ∧ w.duty = (domGet s d).duty := by
  have choice := find_range_getD (domFloor d) (fun p => decide ((domGet s d).point < p) && decide (predicted s e d p ≤ budget))
  unfold stepDown
  dsimp only
  rw [if_pos above]
  refine ⟨_, rfl, ⟨rfl, ?_, ?_, ?_⟩, rfl⟩
  all_goals dsimp only
  all_goals generalize (List.find? _ (List.range (domFloor d + 1))).getD (domFloor d) = p at choice ⊢
  all_goals obtain ⟨-, chosen, first⟩ := choice
  all_goals simp only [Bool.and_eq_true, decide_eq_true_eq, Bool.and_eq_false_iff, decide_eq_false_iff_not] at chosen first
  · omega
  · omega
  · intro i gt lt
    have := first i lt
    omega

/-- A change of no more than domain `d`, which stays within its ceiling. -/
def movesDom (d : Nat) (s t : State) : Prop :=
  t = s ∨ ∃ w, t = domSet s d w ∧ (withinCeiling (ceiling s d) (domGet s d) → withinCeiling (ceiling s d) w)

theorem stepDown_moves (s : State) (e : Est) (d budget : Nat) : movesDom d s (stepDown s e d budget) := by
  by_cases above : (domGet s d).point < domFloor d
  · obtain ⟨w, done, down, duty⟩ := stepDown_takesDown e budget above
    exact .inr ⟨w, done, fun within => ⟨within.1.trans down.2.1.le, duty.le.trans within.2⟩⟩
  · unfold stepDown
    dsimp only
    rw [if_neg above]
    split
    · exact .inr ⟨_, rfl, fun within => ⟨within.1, (Nat.sub_le _ 1).trans within.2⟩⟩
    · exact .inl rfl

theorem stepUp_moves (s : State) (e : Est) (d budget left : Nat) : movesDom d s (stepUp s e d budget left).1 := by
  have keeps : ∀ w : Dom, w.point = (domGet s d).point → w.duty = (domGet s d).duty → movesDom d s (domSet s d w) :=
    fun w p q => .inr ⟨w, rfl, fun within => ⟨within.1.trans p.ge, q.le.trans within.2⟩⟩
  have either : ∀ (p : Prop) [Decidable p] (a b : State × Nat), (p → movesDom d s a.1) → movesDom d s b.1 → movesDom d s (if p then a else b).1 := by
    intro p _ a b yes no
    split
    · next holds => exact yes holds
    · exact no
  unfold stepUp
  dsimp only
  refine either _ _ _ (fun _ => either _ _ _ (fun _ => keeps _ rfl rfl) (.inl rfl)) ?_
  refine either _ _ _ (fun _ => .inl rfl) ?_
  refine either _ _ _ (fun _ => keeps _ rfl rfl) ?_
  refine either _ _ _ (fun rises => ?_) (keeps _ rfl rfl)
  obtain ⟨-, -, allowed, -⟩ := rises
  by_cases duty : (domGet s d).duty < 7
  · simp only [duty, decide_true, if_true, decide_eq_true_eq] at allowed ⊢
    exact .inr ⟨_, rfl, fun within => ⟨within.1, allowed⟩⟩
  · simp only [duty, decide_false, Bool.false_eq_true, if_false]
    exact keeps _ rfl rfl

/-- Power without its domains. -/
def lessDoms (p : Pwr) : Pwr := { p with doms := [] }

theorem domSet_regs (s : State) (d : Nat) (w : Dom) : (domSet s d w).regs = s.regs := by
  unfold domSet
  rfl

theorem regGet_domSet (s : State) (d : Nat) (w : Dom) (a : Nat) : regGet (domSet s d w) a = regGet s a := by simp only [regGet, domSet_regs]

theorem regField_domSet (s : State) (d : Nat) (w : Dom) (a hi lo : Nat) : regField (domSet s d w) a hi lo = regField s a hi lo := by
  simp only [regField, regGet_domSet]

theorem lessDoms_domSet (s : State) (d : Nat) (w : Dom) : lessDoms (domSet s d w).pwr = lessDoms s.pwr := by
  unfold lessDoms domSet
  rfl

theorem domSet_only (s : State) (d : Nat) (w : Dom) (r : Tab W64) (p : Pwr) : { domSet s d w with regs := r, pwr := p } = { s with regs := r, pwr := p } := by
  unfold domSet
  rfl

/-- What a domain's turn of an interval does (R413): its budget is shown, it keeps within its ceiling, and over its budget it is taken down. -/
structure Turned (e : Est) (volt d : Nat) (s t : State) : Prop where
  rest : { t with regs := s.regs, pwr := s.pwr } = s
  power : lessDoms t.pwr = lessDoms s.pwr
  regs : ∀ a, a ≠ 0x70080 + 8 * d → regGet t a = regGet s a
  others : ∀ i, i ≠ d → domGet t i = domGet s i
  shown : regField t (0x70080 + 8 * d) 44 32 = min 8191 (domBudget s d)
  within : withinCeiling (ceiling s d) (domGet s d) → withinCeiling (ceiling s d) (domGet t d)
  down : (d < 4 → (liveStands s).contains d = true) → domBudget s d * duEnergy volt < scaledEst e d → (domGet s d).point < domFloor d →
    tookDown s e d (domBudget s d * duEnergy volt) (domGet s d) (domGet t d)

/-- A domain's two fields of its budget register (R436). -/
def budgetShown (s : State) (e : Est) (volt d : Nat) : State :=
  regSet (regSet s (0x70080 + 8 * d) 44 32 (min 8191 (domBudget s d))) (0x70080 + 8 * d) 28 16
    (min 8191 (if volt = 0 then 0 else scaledEst e d / duEnergy volt))

theorem budgetShown_pwr (s : State) (e : Est) (volt d : Nat) : (budgetShown s e volt d).pwr = s.pwr := by rw [budgetShown, regSet_pwr, regSet_pwr]

theorem budgetShown_only (s : State) (e : Est) (volt d : Nat) : { budgetShown s e volt d with regs := s.regs } = s := by
  unfold budgetShown regSet regPut
  rfl

theorem budgetShown_live (s : State) (e : Est) (volt d : Nat) : liveStands (budgetShown s e volt d) = liveStands s :=
  liveStands_congr fun c => by rw [budgetShown, coreGet_regSet, coreGet_regSet]

theorem budgetShown_field (s : State) (e : Est) (volt d : Nat) :
    regField (budgetShown s e volt d) (0x70080 + 8 * d) 44 32 = min 8191 (domBudget s d) := by
  rw [budgetShown, regField_regSet_bits _ _ _ _ _ _ _ (by omega) (by omega) (by omega), regField_regSet_same _ _ _ _ _ (by omega)]
  exact Nat.mod_eq_of_lt (by omega)

theorem budgetShown_regs (s : State) (e : Est) (volt d : Nat) : ∀ a, a ≠ 0x70080 + 8 * d → regGet (budgetShown s e volt d) a = regGet s a := by
  intro a ne
  rw [budgetShown, regGet_regSet_ne _ _ _ _ ne, regGet_regSet_ne _ _ _ _ ne]

/-- A domain's turn, by whether its stand has a core, and by whether its estimate is over its budget. -/
theorem domTurn_fst (e : Est) (volt : Nat) (s : State) (left d : Nat) : (domTurn e volt (s, left) d).1 =
    if d < 4 ∧ (liveStands s).contains d = false then budgetShown s e volt d
    else if domBudget s d * duEnergy volt < scaledEst e d then stepDown (budgetShown s e volt d) e d (domBudget s d * duEnergy volt)
    else (stepUp (budgetShown s e volt d) e d (domBudget s d * duEnergy volt) left).1 := by
  rw [← budgetShown_live s e volt d]
  unfold domTurn
  dsimp only
  rw [← budgetShown, apply_ite Prod.fst, apply_ite Prod.fst]

theorem domTurn_turned (e : Est) (volt : Nat) (s : State) (left d : Nat) : Turned e volt d s (domTurn e volt (s, left) d).1 := by
  have regs := budgetShown_regs s e volt d
  have shown := budgetShown_field s e volt d
  rw [domTurn_fst]
  have pwr := budgetShown_pwr s e volt d
  have only := budgetShown_only s e volt d
  generalize budgetShown s e volt d = b at regs shown pwr only ⊢
  have doms : ∀ i, domGet b i = domGet s i := domGet_congr (by rw [pwr])
  have flag : pwrFlag b 2 = pwrFlag s 2 := by simp only [pwrFlag, regField, regs 0x70030 (by omega)]
  have same : ceiling b d = ceiling s d := ceiling_congr flag (by rw [pwr]) (by rw [pwr]) d
  have moved : ∀ t, movesDom d b t → ((d < 4 → (liveStands s).contains d = true) →
      domBudget s d * duEnergy volt < scaledEst e d → (domGet s d).point < domFloor d →
        tookDown s e d (domBudget s d * duEnergy volt) (domGet s d) (domGet t d)) → Turned e volt d s t := by
    intro t moves down
    have rest : { b with regs := s.regs, pwr := s.pwr } = s := by rw [← pwr]; exact only
    rcases moves with rfl | ⟨w, rfl, within⟩
    · refine ⟨rest, by rw [pwr], regs, fun i _ => doms i, shown, fun within => ?_, down⟩
      rwa [doms]
    · refine ⟨(domSet_only b d w _ _).trans rest, (lessDoms_domSet b d w).trans (by rw [pwr]), fun a ne => (regGet_domSet b d w a).trans (regs a ne),
        fun i ne => (domGet_domSet_ne _ _ ne).trans (doms i), (regField_domSet b d w _ _ _).trans shown, ?_, down⟩
      rwa [domGet_domSet_same, ← same, ← doms]
  split
  · next absent => exact moved _ (.inl rfl) fun live => Bool.noConfusion ((live absent.1).symm.trans absent.2)
  · split
    · next exceeds =>
      refine moved _ (stepDown_moves _ _ _ _) fun _ _ above => ?_
      rw [← doms] at above
      obtain ⟨w, done, down, -⟩ := stepDown_takesDown e (domBudget s d * duEnergy volt) above
      rw [done, domGet_domSet_same, ← doms]
      exact (tookDown_congr e (by rw [pwr]) (doms d) _ _ _).mp down
    · next fits => exact moved _ (stepUp_moves _ _ _ _ _) fun _ exceeds => absurd exceeds fits

/-- What the turns of the domains below `n` have done. -/
structure TurnsDone (e : Est) (volt n : Nat) (s t : State) : Prop where
  rest : { t with regs := s.regs, pwr := s.pwr } = s
  power : lessDoms t.pwr = lessDoms s.pwr
  regs : ∀ a, a < 0x70080 → regGet t a = regGet s a
  ahead : ∀ d, n ≤ d → domGet t d = domGet s d
  shown : ∀ d, d < n → regField t (0x70080 + 8 * d) 44 32 = min 8191 (domBudget s d)
  within : ∀ d, d < n → withinCeiling (ceiling s d) (domGet s d) → withinCeiling (ceiling s d) (domGet t d)
  down : ∀ d, d < n → (d < 4 → (liveStands s).contains d = true) → domBudget s d * duEnergy volt < scaledEst e d →
    (domGet s d).point < domFloor d → tookDown s e d (domBudget s d * duEnergy volt) (domGet s d) (domGet t d)

theorem TurnsDone.next {e : Est} {volt n : Nat} {s t u : State} (done : TurnsDone e volt n s t) (turn : Turned e volt n t u) :
    TurnsDone e volt (n + 1) s u := by
  obtain ⟨rest, power, regs, ahead, shown, within, down⟩ := done
  have cores : t.cores = s.cores := (congrArg State.cores rest :)
  have budgets : SameBudgets s t := ⟨fun a _ lt => regs a (by omega), (congrArg Pwr.throttle power :), fun c => by simp only [coreGet, cores]⟩
  have sag : pwrFlag t 2 = pwrFlag s 2 := by simp only [pwrFlag, regField, regs 0x70030 (by omega)]
  have ceilings : ceiling t n = ceiling s n := ceiling_congr sag (congrArg Pwr.alert power :) (congrArg Pwr.hot power :) n
  have dom := ahead n (le_refl n)
  refine ⟨?_, turn.power.trans power, fun a lt => (turn.regs a (by omega)).trans (regs a lt), fun d le => ?_, fun d lt => ?_, fun d lt => ?_, fun d lt => ?_⟩
  · exact (congrArg (fun x : State => { x with regs := s.regs, pwr := s.pwr }) turn.rest :).trans rest
  · exact (turn.others d (by omega)).trans (ahead d (by omega))
  · by_cases e : d = n
    · rw [e, turn.shown, budgets.domBudget]
    · rw [← shown d (by omega)]
      simp only [regField, turn.regs _ (show 0x70080 + 8 * d ≠ 0x70080 + 8 * n by omega)]
  · by_cases e : d = n
    · rw [e, ← ceilings, ← dom]
      exact turn.within
    · rw [turn.others d e]
      exact within d (by omega)
  · by_cases e : d = n
    · subst e
      have down := turn.down
      rw [budgets.domBudget, liveStands_congr budgets.serving, dom] at down
      exact fun live exceeds above => (tookDown_congr _ (congrArg Pwr.temps power :) dom _ _ _).mp (down live exceeds above)
    · rw [turn.others d e]
      exact down d (by omega)

theorem turns_done (e : Est) (volt : Nat) (s : State) (left n : Nat) : TurnsDone e volt n s ((List.range n).foldl (domTurn e volt) (s, left)).1 := by
  induction n with
  | zero => exact ⟨rfl, rfl, fun _ _ => rfl, fun _ _ => rfl, fun _ lt => absurd lt (Nat.not_lt_zero _), fun _ lt => absurd lt (Nat.not_lt_zero _),
      fun _ lt => absurd lt (Nat.not_lt_zero _)⟩
  | succ n ih =>
    rw [List.range_succ, List.foldl_append, List.foldl_cons, List.foldl_nil]
    exact ih.next (domTurn_turned e volt _ _ n)

/-! ### The interval's books (R430, R431, R436) -/

/-- Power without what the interval's books count. -/
def lessCounts (p : Pwr) : Pwr :=
  { p with agree := 0, plaus := 0, aboveN := 0, under := 0, sumM := 0, sumL := 0, sumD := 0, spoil := false, energy := 0, rampUsed := 0 }

/-- What the interval's books leave: everything but the queues' shares, counts of power and the fields of registers that no budget stands in. -/
structure Booked (s t : State) : Prop where
  rest : { t with regs := s.regs, pwr := s.pwr, free := s.free, qsu := { t.qsu with queues := s.qsu.queues } } = s
  power : lessCounts t.pwr = lessCounts s.pwr
  regs : ∀ a, a < 0x70080 → a ≠ 0x70030 → regGet t a = regGet s a
  budgets : ∀ a hi lo, hi < 48 → regField t (0x70080 + a) hi lo = regField s (0x70080 + a) hi lo
  cap : regField t 0x70030 44 32 = regField s 0x70030 44 32
  sag : pwrFlag t 2 = pwrFlag s 2

theorem Booked.refl (s : State) : Booked s s := ⟨rfl, rfl, fun _ _ _ => rfl, fun _ _ _ _ => rfl, rfl, rfl⟩

theorem Booked.trans {s t u : State} (a : Booked s t) (b : Booked t u) : Booked s u :=
  ⟨(congrArg (fun x : State => { x with regs := s.regs, pwr := s.pwr, free := s.free, qsu := { x.qsu with queues := s.qsu.queues } }) b.rest :).trans a.rest,
    b.power.trans a.power, fun r x y => (b.regs r x y).trans (a.regs r x y), fun r hi lo x => (b.budgets r hi lo x).trans (a.budgets r hi lo x),
    b.cap.trans a.cap, b.sag.trans a.sag⟩

/-- A change that writes no register. -/
theorem Booked.of_regs {s t : State} (rest : { t with pwr := s.pwr, free := s.free, qsu := { t.qsu with queues := s.qsu.queues } } = s)
    (power : lessCounts t.pwr = lessCounts s.pwr) : Booked s t := by
  have regs : t.regs = s.regs := (congrArg State.regs rest :)
  have same : ∀ a, regGet t a = regGet s a := fun a => by simp only [regGet, regs]
  exact ⟨(congrArg (fun x : State => { x with regs := s.regs }) rest :), power, fun a _ _ => same a, fun a hi lo _ => by simp only [regField, same],
    by simp only [regField, same], by simp only [pwrFlag, regField, same]⟩

theorem runPut_booked (s : State) (q idx : Nat) (f : RunCmd → RunCmd) : Booked s (runPut s q idx f) := .of_regs rfl rfl

theorem shareOut_booked (s : State) (e : Nat) (l : List (Nat × Nat)) : Booked s (shareOut s e l) := by
  have drawn : Booked s { s with free := s.free + l.length + 1 } := .of_regs rfl rfl
  unfold shareOut
  dsimp only
  exact List.foldlRecOn (motive := Booked s) _ _ drawn fun t booked p _ => booked.trans (runPut_booked t _ _ _)

theorem shareEnergy_booked (s : State) (e : Est) : Booked s (shareEnergy s e) := by
  have stands : Booked s ((List.range 4).foldl (fun x t => shareOut x (scaledEst e t)
      ((s.qsu.launches.filter (fun l => l.groves.any (fun g => g / 12 == t))).map (fun l => (l.q, l.idx)))) s) :=
    List.foldlRecOn (motive := Booked s) _ _ (.refl s) fun t booked _ _ => booked.trans (shareOut_booked t _ _)
  exact (stands.trans (shareOut_booked _ _ _)).trans (shareOut_booked _ _ _)

end Sys2Proof.Machine
end

section
/-! PROOFS. The interval's books and the ramp (R29, R412, R430, R431). -/

namespace Sys2Proof.Machine

/-! ### The books' steps (R430, R431, R436) -/

theorem Booked.rampUsed (s : State) (u : Nat) : Booked s { s with pwr := { s.pwr with rampUsed := u } } := .of_regs rfl rfl

/-- A flag of PWR_STATUS beside the sag's. -/
theorem pwrFlagSet_booked (s : State) (i : Nat) (b : Bool) (lo : 2 < i) (hi : i < 32) : Booked s (pwrFlagSet s i b) := by
  unfold pwrFlagSet
  refine ⟨rfl, by rw [regSet_pwr], fun a _ ne => regGet_regSet_ne s _ _ _ ne, fun a hi lo _ => regField_regSet_ne s _ _ _ _ _ (by omega),
    regField_regSet_bits s _ _ _ _ _ _ (le_refl i) (by omega) (.inl hi), ?_⟩
  unfold pwrFlag
  rw [regField_regSet_bits s _ _ _ _ _ _ (le_refl i) (by omega) (.inr lo)]

theorem tally_booked (s : State) (volt curr : Nat) (cnt : List Nat) (e : Est) : Booked s (tally s volt curr cnt e) := by
  have lower : ∀ (c : Bool) (t : State) (i : Nat), 2 < i → i < 32 → Booked s t → Booked s (if c then pwrFlagSet t i false else t) := by
    intro c t i lo hi h
    cases c
    · exact h
    · exact h.trans (pwrFlagSet_booked t i false lo hi)
  have agreed : ∀ (c : Bool) (t : State), Booked s t → Booked s (if c then
      { pwrFlagSet t 4 false with pwr := { (pwrFlagSet t 4 false).pwr with agree := 0 } } else t) := by
    intro c t h
    cases c
    · exact h
    · exact (h.trans (pwrFlagSet_booked t 4 false (by omega) (by omega))).trans (.of_regs rfl rfl)
  unfold tally
  refine lower _ _ 5 (by omega) (by omega) (agreed _ _ (.of_regs rfl rfl))

/-- A field above a domain's budget. -/
theorem Booked.above (s : State) (o hi lo v : Nat) (ge : 48 ≤ lo) (le : lo ≤ hi) : Booked s (regSet s (0x70080 + o) hi lo v) := by
  refine ⟨rfl, by rw [regSet_pwr], fun a lt _ => regGet_regSet_ne s _ _ _ (by omega), fun a x y lt => ?_,
    regField_regSet_ne s _ _ _ _ _ (by omega), ?_⟩
  · by_cases e : a = o
    · rw [e]
      exact regField_regSet_bits s _ _ _ _ _ _ le (by omega) (.inr (by omega))
    · exact regField_regSet_ne s _ _ _ _ _ (by omega)
  · simp only [pwrFlag, regField_regSet_ne s _ _ _ _ _ (show 0x70030 ≠ 0x70080 + o by omega)]

theorem waitFractions_booked (s : State) : Booked s (waitFractions s) := by
  have drawn : Booked s (drawFree s).2 := .of_regs rfl rfl
  unfold waitFractions
  exact List.foldlRecOn (motive := Booked s) _ _ drawn fun t booked d _ =>
    (booked.trans (.above t _ _ _ _ (by omega) (by omega))).trans (.above _ _ _ _ _ (by omega) (by omega))

/-! ### The grove that the ramp admits (R29, R412) -/

/-- Starting cores that wait: nothing else of a core changes, and no core that does not wait. -/
structure Starts (s t : State) : Prop where
  rest : { t with cores := s.cores, pwr := { t.pwr with rampUsed := s.pwr.rampUsed } } = s
  cores : ∀ c, coreGet t c = coreGet s c ∨ (coreGet s c).st = .loading ∧ coreGet t c = { coreGet s c with st := .running }

theorem Starts.refl (s : State) : Starts s s := ⟨rfl, fun _ => .inl rfl⟩

theorem Starts.rampUsed (s : State) (u : Nat) : Starts s { s with pwr := { s.pwr with rampUsed := u } } := ⟨rfl, fun _ => .inl rfl⟩

theorem Starts.trans {s t u : State} (a : Starts s t) (b : Starts t u) : Starts s u := by
  refine ⟨(congrArg (fun x : State => { x with cores := s.cores, pwr := { x.pwr with rampUsed := s.pwr.rampUsed } }) b.rest :).trans a.rest, fun c => ?_⟩
  rcases a.cores c with same | ⟨waits, runs⟩
  · rw [← same]
    exact b.cores c
  · rcases b.cores c with same | ⟨waits', -⟩
    · exact .inr ⟨waits, same.trans runs⟩
    · rw [runs] at waits'
      exact CoreSt.noConfusion waits'

theorem Starts.waiting {s t : State} (h : Starts s t) {c : Nat} (waits : (coreGet t c).st = .loading) : (coreGet s c).st = .loading := by
  rcases h.cores c with same | ⟨was, -⟩
  · rwa [← same]
  · exact was

/-- No grove waits that did not before. -/
theorem Starts.groveWaits {s t : State} (h : Starts s t) {g : Nat} (waits : groveWaits t g = true) : groveWaits s g = true := by
  have launches : t.qsu.launches = s.qsu.launches := (congrArg (fun x : State => x.qsu.launches) h.rest :)
  unfold Machine.groveWaits at waits ⊢
  rw [launches] at waits
  simp only [List.any_eq_true, Bool.and_eq_true, beq_iff_eq, decide_eq_true_eq] at waits ⊢
  obtain ⟨l, mem, ready, c, named, here, loading⟩ := waits
  exact ⟨l, mem, ready, c, named, here, h.waiting loading⟩

/-- A waiting core is started. -/
def coreStart (s : State) (c : Nat) : State := if (coreGet s c).st = .loading then coreMap s c (fun k => { k with st := .running }) else s

theorem coreStart_starts (s : State) (c : Nat) : Starts s (coreStart s c) := by
  unfold coreStart
  split
  · next waits =>
    refine ⟨rfl, fun d => ?_⟩
    by_cases e : d = c
    · rw [e, coreGet_coreMap_same]
      exact .inr ⟨waits, rfl⟩
    · exact .inl (coreGet_coreMap_ne s _ e)
  · exact .refl s

theorem coreStart_notWaiting (s : State) (c : Nat) : (coreGet (coreStart s c) c).st ≠ .loading := by
  unfold coreStart
  split
  · rw [coreGet_coreMap_same]
    exact CoreSt.noConfusion
  · next h => exact h

theorem starts_list (s : State) (l : List Nat) : Starts s (l.foldl coreStart s) :=
  List.foldlRecOn (motive := Starts s) _ _ (.refl s) fun t h c _ => h.trans (coreStart_starts t c)

theorem started_list (s : State) (l : List Nat) : ∀ c ∈ l, (coreGet (l.foldl coreStart s) c).st ≠ .loading := by
  induction l generalizing s with
  | nil => exact fun c mem => absurd mem List.not_mem_nil
  | cons x l ih =>
    intro c mem
    rcases List.mem_cons.mp mem with rfl | mem
    · exact fun waits => coreStart_notWaiting s c ((starts_list _ l).waiting waits)
    · exact ih _ c mem

theorem groveStart_starts (s : State) (g : Nat) : Starts s (groveStart s g) := starts_list s (groveCores g)

/-- A grove that has been started waits no more. -/
theorem groveWaits_groveStart (s : State) (g : Nat) : groveWaits (groveStart s g) g = false := by
  rw [Bool.eq_false_iff]
  intro waits
  unfold Machine.groveWaits at waits
  simp only [List.any_eq_true, Bool.and_eq_true, beq_iff_eq, decide_eq_true_eq] at waits
  obtain ⟨l, -, -, c, -, here, loading⟩ := waits
  refine started_list s (groveCores g) c ?_ loading
  unfold groveOf at here
  exact List.mem_map.mpr ⟨c % 50, List.mem_range.mpr (Nat.mod_lt c (by omega)), by omega⟩

/-- A grove's turn of the ramp, while the ramp still admits. -/
def rampTurn (a : State × Bool) (g : Nat) : State × Bool :=
  if !a.2 || !groveWaits a.1 g then a
  else
    let r := groveRise a.1 g
    let u := a.1.pwr.rampUsed
    if u = 0 ∨ u + r ≤ rampLimit a.1 then (groveStart { a.1 with pwr := { a.1.pwr with rampUsed := u + r } } g, true)
    else (a.1, false)

theorem rampStart_eq (s : State) : rampStart s = ((List.range 48).foldl rampTurn (s, true)).1 := by
  unfold rampStart
  generalize List.range 48 = l
  rfl

theorem rampTurn_starts (a : State × Bool) (g : Nat) : Starts a.1 (rampTurn a g).1 := by
  unfold rampTurn
  dsimp only
  split
  · exact .refl _
  · split
    · dsimp only
      exact (Starts.rampUsed _ _).trans (groveStart_starts _ g)
    · exact .refl _

theorem rampTurns_starts (l : List Nat) (a : State × Bool) : Starts a.1 (l.foldl rampTurn a).1 :=
  List.foldlRecOn (motive := fun b : State × Bool => Starts a.1 b.1) _ _ (.refl a.1) fun b h g _ => h.trans (rampTurn_starts b g)

theorem rampStart_starts (s : State) : Starts s (rampStart s) := by
  rw [rampStart_eq]
  exact rampTurns_starts _ (s, true)

/-- Once the ramp admits no more, nothing starts. -/
theorem rampTurns_closed (s : State) (l : List Nat) : l.foldl rampTurn (s, false) = (s, false) :=
  List.foldlRecOn (motive := fun b => b = (s, false)) _ _ rfl fun b h g _ => by rw [h]; rfl

theorem rampTurns_idle (s : State) (l : List Nat) (idle : ∀ g ∈ l, groveWaits s g = false) : l.foldl rampTurn (s, true) = (s, true) :=
  List.foldlRecOn (motive := fun b => b = (s, true)) _ _ rfl fun b h g mem => by rw [h]; simp [rampTurn, idle g mem]

/-- The lowest grove that waits is started, unless the interval has admitted rises already. -/
theorem rampStart_lowest {s : State} {g : Nat} (hg : g < 48) (waits : groveWaits s g = true) (lowest : ∀ h, h < g → groveWaits s h = false)
    (still : groveWaits (rampStart s) g = true) : (rampStart s).pwr.rampUsed ≠ 0 := by
  have split : List.range 48 = List.range g ++ g :: (List.range (47 - g)).map (g + 1 + ·) := by
    rw [show 48 = g + 1 + (47 - g) by omega, List.range_add, List.range_succ, List.append_assoc, List.singleton_append]
  rw [rampStart_eq] at still ⊢
  rw [split, List.foldl_append, rampTurns_idle s _ fun h mem => lowest h (List.mem_range.mp mem), List.foldl_cons] at still ⊢
  have turn : rampTurn (s, true) g = if s.pwr.rampUsed = 0 ∨ s.pwr.rampUsed + groveRise s g ≤ rampLimit s then
      (groveStart { s with pwr := { s.pwr with rampUsed := s.pwr.rampUsed + groveRise s g } } g, true) else (s, false) := by
    simp [rampTurn, waits]
  rw [turn] at still ⊢
  split at still
  · have again := (rampTurns_starts _ _).groveWaits still
    dsimp only at again
    rw [groveWaits_groveStart] at again
    exact absurd again Bool.false_ne_true
  · next refused =>
    rw [if_neg refused, rampTurns_closed]
    exact fun zero => refused (.inl zero)

end Sys2Proof.Machine
end

section
/-! PROOFS. The capping interval (R403, R406, R412, R413). -/

namespace Sys2Proof.Machine

/-- An interval's sample shown (R436). -/
def sampleShown (s : State) (volt curr : Nat) : State := regSet (regSet s 0x70040 47 32 volt) 0x70040 15 0 curr

/-- A sample shown and classified, and the ceilings applied: what the interval's estimate reads. -/
def readied (s : State) (volt curr : Nat) : State := applyCeilings (classify (sampleShown s volt curr) volt)

theorem sampleShown_regs (s : State) (volt curr : Nat) {a : Nat} (h : a ≠ 0x70040) : regGet (sampleShown s volt curr) a = regGet s a := by
  rw [sampleShown, regGet_regSet_ne _ _ _ _ h, regGet_regSet_ne _ _ _ _ h]

theorem sampleShown_only (s : State) (volt curr : Nat) : { sampleShown s volt curr with regs := s.regs } = s := by
  unfold sampleShown regSet regPut
  rfl

theorem sagShown_regs (s : State) (volt : Nat) {a : Nat} (h : a ≠ 0x70030) : regGet (sagShown s volt) a = regGet s a := by
  unfold sagShown pwrFlagSet
  split
  · exact regGet_regSet_ne _ _ _ _ h
  · rfl

theorem sagShown_flag (s : State) {volt : Nat} (h : volt < 4200) : pwrFlag (sagShown s volt) 2 = true := by
  unfold sagShown pwrFlagSet pwrFlag
  rw [if_pos h, regField_regSet_same _ _ _ _ _ (by omega)]
  rfl

theorem sampleShown_fields (s : State) {volt curr : Nat} (hv : volt < 2 ^ 16) (hc : curr < 2 ^ 16) :
    regField (sampleShown s volt curr) 0x70040 47 32 = volt ∧ regField (sampleShown s volt curr) 0x70040 15 0 = curr := by
  unfold sampleShown
  rw [regField_regSet_bits _ _ _ _ _ _ _ (by omega) (by omega) (by omega), regField_regSet_same _ _ _ _ _ (by omega),
    regField_regSet_same _ _ _ _ _ (by omega)]
  exact ⟨Nat.mod_eq_of_lt hv, Nat.mod_eq_of_lt hc⟩

/-- A state in which the interval's estimate is made. -/
structure Readied (s u : State) (volt curr : Nat) : Prop where
  budgets : SameBudgets s u
  sample : regField u 0x70040 47 32 = volt ∧ regField u 0x70040 15 0 = curr
  sag : pwrFlag s 5 = false → volt < 4200 → pwrFlag u 2 = true
  low : u.pwr.low = if volt < 3800 then s.pwr.low + 1 else 0
  within : ∀ d < 5, withinCeiling (ceiling u d) (domGet u d)
  rest : u.movers = s.movers ∧ u.qsu.launches = s.qsu.launches ∧ u.errs = s.errs ∧ u.pending = s.pending
  still : quiet s → u.cores = s.cores

theorem LeftByClassify.readied {s b t : State} {volt curr : Nat} (left : LeftByClassify b t volt) (only : { b with regs := s.regs } = s)
    (before : ∀ a, a ≠ 0x70040 → regGet b a = regGet s a)
    (shown : regField b 0x70040 47 32 = volt ∧ regField b 0x70040 15 0 = curr) : Readied s (applyCeilings t) volt curr := by
  obtain ⟨rest, power, regs, cores, still⟩ := left
  have within : ∀ d < 5, withinCeiling (ceiling t d) (domGet (applyCeilings t) d) := fun d => applyCeilings_within t
  obtain ⟨doms, ceiled⟩ := applyCeilings_doms t
  rw [ceiled] at within ⊢
  have flag : pwrFlag b 5 = pwrFlag s 5 := by simp only [pwrFlag, regField, before 0x70030 (by omega)]
  have regsTB : ∀ a, a ≠ 0x30020 → a ≠ 0x30028 → a ≠ 0x70030 → regGet t a = regGet b a := by
    intro a x y z
    rw [regs a x y]
    split
    · rfl
    · exact sagShown_regs b volt z
  have coresBS : b.cores = s.cores := (congrArg State.cores only :)
  refine ⟨⟨fun a ge lt => ?_, ?_, fun c => ?_⟩, ?_, fun plausible low => ?_, ?_, fun d lt => ?_, ⟨?_, ?_, ?_, ?_⟩, fun calm => ?_⟩
  · exact (regsTB a (by omega) (by omega) (by omega)).trans (before a (by omega))
  · exact (congrArg Pwr.throttle power :).trans (congrArg (fun x : State => x.pwr.throttle) only :)
  · have serving : (coreGet t c).st = (coreGet b c).st := (congrArg Core.st (cores c) :)
    exact serving.trans (by simp only [coreGet, coresBS])
  · have sample := regsTB 0x70040 (by omega) (by omega) (by omega)
    unfold regField at shown
    rw [← sample] at shown
    exact shown
  · have sagged : regGet t 0x70030 = regGet (sagShown b volt) 0x70030 := by
      rw [regs 0x70030 (by omega) (by omega), flag, plausible, if_neg Bool.false_ne_true]
    have flagged := sagShown_flag b low
    unfold pwrFlag regField at flagged
    rw [← sagged] at flagged
    exact flagged
  · refine (congrArg Pwr.low power :).trans ?_
    exact (congrArg (fun x : State => if volt < 3800 then x.pwr.low + 1 else 0) only :)
  · have same : ceiling { t with pwr := { t.pwr with doms := doms } } d = ceiling t d := ceiling_congr rfl rfl rfl d
    rw [same]
    exact within d lt
  · exact (congrArg State.movers rest :).trans (congrArg State.movers only :)
  · exact (congrArg (fun x : State => x.qsu.launches) rest :).trans (congrArg (fun x : State => x.qsu.launches) only :)
  · exact (congrArg State.errs rest :).trans (congrArg State.errs only :)
  · exact (congrArg State.pending rest :).trans (congrArg State.pending only :)
  · have calm' : quiet b := by rwa [← only] at calm
    exact (still calm').2.trans coresBS

theorem readied_facts (s : State) {volt curr : Nat} (hv : volt < 2 ^ 16) (hc : curr < 2 ^ 16) : Readied s (readied s volt curr) volt curr :=
  (classify_leaves (sampleShown s volt curr) volt).readied (sampleShown_only s volt curr) (fun _ => sampleShown_regs s volt curr)
    (sampleShown_fields s hv hc)

/-- The draw and the cap shown (R436). -/
def capShown (u : State) (draw : Nat) : State :=
  regSet (regSet u 0x70048 15 0 draw) 0x70030 44 32 (effCap (regSet u 0x70048 15 0 draw))

theorem effCap_le (s : State) : effCap s ≤ 4800 := by
  unfold effCap
  dsimp only
  split <;> omega

/-- What an interval does from its estimate to its books. -/
structure Steered (e : Est) (volt : Nat) (u t : State) : Prop where
  rest : { t with regs := u.regs, pwr := u.pwr, free := u.free, qsu := { t.qsu with queues := u.qsu.queues } } = u
  power : lessCounts (lessDoms t.pwr) = lessCounts (lessDoms u.pwr)
  sample : regGet t 0x70040 = regGet u 0x70040
  sag : pwrFlag t 2 = pwrFlag u 2
  cap : regField t 0x70030 44 32 = effCap u
  shown : ∀ d < 5, regField t (0x70080 + 8 * d) 44 32 = min 8191 (domBudget u d)
  within : ∀ d < 5, withinCeiling (ceiling u d) (domGet u d) → withinCeiling (ceiling u d) (domGet t d)
  down : ∀ d < 5, (d < 4 → (liveStands u).contains d = true) → domBudget u d * duEnergy volt < scaledEst e d →
    (domGet u d).point < domFloor d → tookDown u e d (domBudget u d * duEnergy volt) (domGet u d) (domGet t d)

theorem capShown_facts (u : State) (draw : Nat) :
    (∀ a, a ≠ 0x70048 → a ≠ 0x70030 → regGet (capShown u draw) a = regGet u a) ∧ regField (capShown u draw) 0x70030 44 32 = effCap u ∧
    pwrFlag (capShown u draw) 2 = pwrFlag u 2 ∧ { capShown u draw with regs := u.regs } = u := by
  have same : SameBudgets u (regSet u 0x70048 15 0 draw) := ⟨fun a _ lt => regGet_regSet_ne u _ _ _ (by omega), rfl, fun _ => rfl⟩
  have le := effCap_le u
  unfold capShown
  rw [same.effCap]
  refine ⟨fun a x y => by rw [regGet_regSet_ne _ _ _ _ y, regGet_regSet_ne _ _ _ _ x], ?_, ?_, ?_⟩
  · rw [regField_regSet_same _ _ _ _ _ (by omega)]
    exact Nat.mod_eq_of_lt (by omega)
  · unfold pwrFlag
    rw [regField_regSet_bits _ _ _ _ _ _ _ (by omega) (by omega) (by omega), regField_regSet_ne _ _ _ _ _ _ (by omega)]
  · unfold regSet regPut
    rfl

/-- The turns of the domains and the books, from the state that shows the cap. -/
theorem Steered.of_turns {e : Est} {volt draw : Nat} {u r t : State} (turns : TurnsDone e volt 5 (capShown u draw) r) (booked : Booked r t) :
    Steered e volt u t := by
  obtain ⟨regs, cap, sag, only⟩ := capShown_facts u draw
  generalize capShown u draw = b at turns regs cap sag only
  have pwr : b.pwr = u.pwr := (congrArg State.pwr only :)
  have cores : b.cores = u.cores := (congrArg State.cores only :)
  have budgets : SameBudgets u b := ⟨fun a _ lt => regs a (by omega) (by omega), by rw [pwr], fun c => by simp only [coreGet, cores]⟩
  have doms : ∀ d, domGet b d = domGet u d := domGet_congr (by rw [pwr])
  have ceilings : ∀ d, ceiling b d = ceiling u d := ceiling_congr sag (by rw [pwr]) (by rw [pwr])
  have booksDoms : ∀ d, domGet t d = domGet r d := domGet_congr (congrArg Pwr.doms booked.power :)
  have sag' : pwrFlag r 2 = pwrFlag b 2 := by simp only [pwrFlag, regField, turns.regs 0x70030 (by omega)]
  refine ⟨?_, ?_, ?_, booked.sag.trans (sag'.trans sag), ?_, fun d lt => ?_, fun d lt => ?_, fun d lt => ?_⟩
  · have books := (congrArg (fun x : State => { x with regs := u.regs, pwr := u.pwr, free := u.free, qsu := { x.qsu with queues := u.qsu.queues } })
      booked.rest :)
    have turned := (congrArg (fun x : State => { x with regs := u.regs, pwr := u.pwr, free := u.free, qsu := { x.qsu with queues := u.qsu.queues } })
      turns.rest :)
    have shown := (congrArg (fun x : State => { x with regs := u.regs, pwr := u.pwr, free := u.free, qsu := { x.qsu with queues := u.qsu.queues } })
      only :)
    exact (books.trans turned).trans shown
  · exact ((congrArg lessDoms booked.power :).trans (congrArg lessCounts turns.power :)).trans (by rw [pwr])
  · rw [booked.regs _ (by omega) (by omega), turns.regs _ (by omega), regs _ (by omega) (by omega)]
  · rw [booked.cap, regField, turns.regs _ (by omega)]
    exact cap
  · rw [booked.budgets _ _ _ (by omega), turns.shown d lt, budgets.domBudget]
  · have within := turns.within d lt
    rw [ceilings, doms] at within
    rw [booksDoms]
    exact within
  · have down := turns.down d lt
    rw [budgets.domBudget, liveStands_congr budgets.serving, doms] at down
    rw [booksDoms]
    exact fun live exceeds above => (tookDown_congr e (by rw [pwr]) (doms d) _ _ _).mp (down live exceeds above)

/-- An interval: the sample, the estimate and the domains' turns, the books, and the groves that the ramp admits. -/
theorem cappingDo_steered (s : State) (volt curr : Nat) (cnt : List Nat) :
    let u := readied s (volt % 65536) (curr % 65536)
    ∃ t, Steered (estimate u (volt % 65536) (currDraw (curr % 65536)) cnt) (volt % 65536) u t ∧ cappingDo s volt curr cnt = rampStart t := by
  unfold cappingDo
  dsimp only
  rw [← sampleShown, ← readied]
  generalize readied s (volt % 65536) (curr % 65536) = u
  generalize estimate u (volt % 65536) (currDraw (curr % 65536)) cnt = e
  rw [← capShown]
  generalize (if volt % 65536 = 0 then 0 else min 65535 (e.t / duEnergy (volt % 65536))) = draw
  generalize (regField _ 0x70000 11 8 + 1) * 100 * duEnergy (volt % 65536) = ramp
  have turns := turns_done e (volt % 65536) (capShown u draw) ramp 5
  generalize (List.range 5).foldl (domTurn e (volt % 65536)) (capShown u draw, ramp) = r at turns ⊢
  refine ⟨_, .of_turns turns ?_, rfl⟩
  exact (((shareEnergy_booked r.1 e).trans (.rampUsed _ _)).trans (tally_booked _ _ _ _ _)).trans (waitFractions_booked _)

end Sys2Proof.Machine
end

section
/-! PROOFS. The commands of the draw budget (R403 to R436, R535). -/

namespace Sys2Proof.Machine

theorem groveWaits_congr {s t : State} (launches : t.qsu.launches = s.qsu.launches) (st : ∀ c, (coreGet t c).st = (coreGet s c).st) (g : Nat) :
    groveWaits t g = groveWaits s g := by
  unfold groveWaits
  simp only [launches, st]

/-- What an interval is seen to do, with the estimate that it makes (R403, R406, R412, R413). -/
structure Capped (e : Est) (volt curr : Nat) (s u t : State) : Prop where
  sample : regField t 0x70040 47 32 = volt ∧ regField t 0x70040 15 0 = curr
  cap : regField t 0x70030 44 32 = effCap s
  shown : ∀ d < 5, regField t (0x70080 + 8 * d) 44 32 = min 8191 (domBudget s d)
  within : ∀ d < 5, withinCeiling (ceiling t d) (domGet t d)
  sag : pwrFlag s 5 = false → volt < 4200 → pwrFlag t 2 = true
  low : t.pwr.low = if volt < 3800 then s.pwr.low + 1 else 0
  down : ∀ d < 5, (d < 4 → (liveStands s).contains d = true) → domBudget s d * duEnergy volt < scaledEst e d →
    (domGet u d).point < domFloor d → tookDown u e d (domBudget s d * duEnergy volt) (domGet u d) (domGet t d)
  cores : quiet s → ∀ c, coreGet t c =
    if (coreGet s c).st = .loading ∧ (coreGet t c).st = .running then { coreGet s c with st := .running } else coreGet s c
  lowest : ∀ g < 48, groveWaits s g = true → (∀ h < g, groveWaits s h = false) → groveWaits t g = true → t.pwr.rampUsed ≠ 0
  rest : t.movers = s.movers ∧ t.errs = s.errs ∧ t.pending = s.pending

/-- A core that a start may have reached: a core that waited runs, or it is as it was. -/
theorem Starts.core {s t : State} (h : Starts s t) (c : Nat) : coreGet t c =
    if (coreGet s c).st = .loading ∧ (coreGet t c).st = .running then { coreGet s c with st := .running } else coreGet s c := by
  rcases h.cores c with same | ⟨waits, runs⟩
  · rw [same, if_neg]
    exact fun both => CoreSt.noConfusion (both.1.symm.trans both.2)
  · rw [if_pos ⟨waits, by rw [runs]⟩, runs]

theorem Readied.capped {e : Est} {volt curr : Nat} {s u t r : State} (ready : Readied s u volt curr) (steered : Steered e volt u t)
    (starts : Starts t r)
    (lowest : ∀ g < 48, groveWaits t g = true → (∀ h < g, groveWaits t h = false) → groveWaits r g = true → r.pwr.rampUsed ≠ 0) :
    Capped e volt curr s u r := by
  obtain ⟨budgets, sample, sag, low, within, ⟨movers, launches, errs, pending⟩, still⟩ := ready
  obtain ⟨rest, power, sampleT, sagT, capT, shownT, withinT, downT⟩ := steered
  have regs : r.regs = t.regs := (congrArg State.regs starts.rest :)
  have same : ∀ a, regGet r a = regGet t a := fun a => by simp only [regGet, regs]
  have field : ∀ a hi lo, regField r a hi lo = regField t a hi lo := fun a hi lo => by simp only [regField, same]
  have doms : ∀ d, domGet r d = domGet t d := domGet_congr (congrArg (fun x : State => x.pwr.doms) starts.rest :)
  have flag : pwrFlag r 2 = pwrFlag u 2 := (congrArg (· == 1) (field 0x70030 2 2) :).trans sagT
  have ceilings : ∀ d, ceiling r d = ceiling u d := ceiling_congr flag
    ((congrArg (fun x : State => x.pwr.alert) starts.rest :).trans (congrArg Pwr.alert power :))
    ((congrArg (fun x : State => x.pwr.hot) starts.rest :).trans (congrArg Pwr.hot power :))
  have cores : t.cores = u.cores := (congrArg State.cores rest :)
  have st : ∀ c, (coreGet t c).st = (coreGet s c).st := fun c => by
    rw [← budgets.serving c]
    simp only [coreGet, cores]
  have waits : ∀ g, groveWaits t g = groveWaits s g :=
    groveWaits_congr ((congrArg (fun x : State => x.qsu.launches) rest :).trans launches) st
  refine ⟨?_, ?_, fun d lt => ?_, fun d lt => ?_, fun plausible under => ?_, ?_, fun d lt live => ?_, fun calm c => ?_, fun g lt waiting first => ?_,
    ?_, ?_, ?_⟩
  · simp only [regField, same, sampleT]
    exact sample
  · rw [field, capT, budgets.effCap]
  · rw [field, shownT d lt, budgets.domBudget]
  · rw [ceilings, doms]
    exact withinT d lt (within d lt)
  · rw [flag]
    exact sag plausible under
  · exact ((congrArg (fun x : State => x.pwr.low) starts.rest :).trans (congrArg Pwr.low power :)).trans low
  · have down := downT d lt
    rw [budgets.domBudget, liveStands_congr budgets.serving] at down
    rw [doms]
    exact down live
  · have core : coreGet t c = coreGet s c := by simp only [coreGet, cores, still calm]
    rw [← core]
    exact starts.core c
  · exact lowest g lt ((waits g).trans waiting) fun h less => (waits h).trans (first h less)
  · exact ((congrArg State.movers starts.rest :).trans (congrArg State.movers rest :)).trans movers
  · exact ((congrArg State.errs starts.rest :).trans (congrArg State.errs rest :)).trans errs
  · exact ((congrArg State.pending starts.rest :).trans (congrArg State.pending rest :)).trans pending

theorem exec_cappingInterval {s : State} (live : Live s) (volt curr : Nat) (cnt : List Nat) :
    let u := readied s (volt % 65536) (curr % 65536)
    ∃ t, exec (.cappingInterval volt curr cnt) s = .next t ∧
      Capped (estimate u (volt % 65536) (currDraw (curr % 65536)) cnt) (volt % 65536) (curr % 65536) s u t := by
  obtain ⟨t, steered, done⟩ := cappingDo_steered s volt curr cnt
  have ready := readied_facts s (show volt % 65536 < 2 ^ 16 by omega) (show curr % 65536 < 2 ^ 16 by omega)
  have capped := ready.capped steered (rampStart_starts t) fun g => rampStart_lowest
  obtain ⟨-, errs, pending⟩ := capped.rest
  exact ⟨rampStart t, runLive_next s _ (fun s => cappingDo s volt curr cnt) live done errs pending, capped⟩

/-- The two budgets of the classes divide what the links leave of the cap (R406). -/
theorem classBudgets_sum (s : State) : (classBudgets s).1 + (classBudgets s).2 = effCap s - linkAllot s := by
  unfold classBudgets
  dsimp only
  split <;> dsimp only <;> omega

theorem exec_vfStepSettled {s : State} (live : Live s) {d : Nat} (hd : d < 5) : exec (.vfStepSettled d) s = .next (settled s d) := by
  refine runLive_next s _ (fun s => if d < 5 then settled s d else s) live (if_pos hd) ?_ ?_
  all_goals unfold settled; dsimp only; split <;> rfl

theorem settled_none {s : State} {d : Nat} (h : (domGet s d).step = 0) : settled s d = s := by
  simp only [settled, h]

theorem settled_down {s : State} {d : Nat} (h : (domGet s d).step = 1) : settled s d = domSet s d { domGet s d with step := 0, fit := 0 } := by
  simp only [settled, h]

theorem settled_up {s : State} {d : Nat} (h : (domGet s d).step = 2) :
    settled s d = domSet s d { domGet s d with point := (domGet s d).target, step := 0, fit := 0 } := by
  simp only [settled, h]

/-! ### K (R416) -/

/-- Power with K's sums begun anew. -/
def lessSums (p : Pwr) : Pwr := { p with sumM := 0, sumL := 0, sumD := 0, spoil := false }

theorem kDo_spoilt {s : State} (h : s.pwr.spoil = true ∨ pwrFlag s 5 = true ∨ disturbed s = true) : kDo s = { s with pwr := lessSums s.pwr } := by
  unfold kDo
  dsimp only
  rw [if_pos (by simpa [or_assoc] using h)]
  rfl

theorem kDo_corrects {s : State} (spoil : s.pwr.spoil = false) (plausible : pwrFlag s 5 = false) (calm : disturbed s = false) :
    kDo s = { regSet s 0x70048 47 32 (nextK (kFactor s) s.pwr.sumM s.pwr.sumL s.pwr.sumD) with pwr := lessSums s.pwr } := by
  unfold kDo
  dsimp only
  rw [if_neg (by simp [spoil, plausible, calm]), regSet_pwr]
  rfl

theorem exec_kUpdate {s t : State} (live : Live s) (h : kDo s = t) (errs : t.errs = s.errs) (pending : t.pending = s.pending) :
    exec .kUpdate s = .next t := runLive_next s t kDo live h errs pending

theorem nextK_eq {k m l d : Nat} (h : d ≠ 0) :
    nextK k m l d = (max 3072 (min 5120 ((k : Int) + (((m - l) * 4096 / d : Nat) - (k : Int)) / 16))).toNat := by
  unfold nextK
  rw [if_neg h]

theorem nextK_bounds {k m l d : Nat} (h : d ≠ 0) : 3072 ≤ nextK k m l d ∧ nextK k m l d ≤ 5120 := by
  rw [nextK_eq h]
  generalize (k : Int) + _ = x
  omega

/-- A state that is `b` but for K's sums, where `b` is `s` but for a field of a register. -/
theorem regSet_lessSums {s b : State} {o hi lo v : Nat} (h : regSet s o hi lo v = b) (lt : hi < 64) :
    regField { b with pwr := lessSums s.pwr } o hi lo = v % 2 ^ (hi + 1 - lo) ∧
    (∀ a, a ≠ o → regGet { b with pwr := lessSums s.pwr } a = regGet s a) ∧ b.cores = s.cores ∧ b.errs = s.errs ∧ b.pending = s.pending := by
  have field := regField_regSet_same s o hi lo v lt
  have others := fun a => regGet_regSet_ne s (o := o) (p := a) hi lo v
  have only : { regSet s o hi lo v with regs := s.regs } = s := by
    unfold regSet regPut
    rfl
  rw [h] at field others only
  exact ⟨field, others, (congrArg State.cores only :), (congrArg State.errs only :), (congrArg State.pending only :)⟩

/-- An update of K from the sums of an undisturbed window (R416). -/
theorem exec_kUpdate_corrects {s : State} (live : Live s) (spoil : s.pwr.spoil = false) (plausible : pwrFlag s 5 = false)
    (calm : disturbed s = false) (sums : s.pwr.sumD ≠ 0) : ∃ t, exec .kUpdate s = .next t ∧ t.pwr = lessSums s.pwr ∧
      kFactor t = nextK (kFactor s) s.pwr.sumM s.pwr.sumL s.pwr.sumD ∧ (∀ a, a ≠ 0x70048 → regGet t a = regGet s a) ∧ t.cores = s.cores := by
  have done := kDo_corrects spoil plausible calm
  have bounds := nextK_bounds (k := kFactor s) (m := s.pwr.sumM) (l := s.pwr.sumL) sums
  generalize shown : regSet s 0x70048 47 32 (nextK (kFactor s) s.pwr.sumM s.pwr.sumL s.pwr.sumD) = b at done
  obtain ⟨field, others, cores, errs, pending⟩ := regSet_lessSums shown (by omega)
  refine ⟨_, exec_kUpdate live done errs pending, rfl, ?_, others, cores⟩
  rw [kFactor, field]
  exact Nat.mod_eq_of_lt (by omega)

/-! ### Grants and sensors (R428, R429, R534, R535) -/

/-- A grant that is taken, before it is reported (R429). -/
def granted (s : State) (new : Nat) : State := regSet (regSet s 0x70010 12 0 new) 0x70010 13 13 1

theorem granted_only (s : State) (new : Nat) : { granted s new with regs := s.regs } = s := by
  unfold granted regSet regPut
  rfl

theorem granted_field (s : State) {new : Nat} (h : new ≤ 4800) :
    regField (granted s new) 0x70010 12 0 = new ∧ regField (granted s new) 0x70010 13 13 = 1 := by
  unfold granted
  rw [regField_regSet_bits _ _ _ _ _ _ _ (by omega) (by omega) (by omega), regField_regSet_same _ _ _ _ _ (by omega),
    regField_regSet_same _ _ _ _ _ (by omega)]
  exact ⟨Nat.mod_eq_of_lt (by omega), rfl⟩

/-- The cap is no more than what the rack manager grants, and no more than the host's cap (R406). -/
theorem effCap_le_inputs (s : State) : effCap s ≤ regField s 0x70010 12 0 ∧ effCap s ≤ regField s 0x70008 12 0 := by
  unfold effCap
  dsimp only
  split <;> omega

/-- What a grant does. -/
structure Granted (s t : State) (new : Nat) : Prop where
  fields : regField t 0x70010 12 0 = new ∧ regField t 0x70010 13 13 = 1
  rest : t.pwr = s.pwr ∧ t.errs = s.errs ∧ t.pending = s.pending
  still : quiet s → t.cores = s.cores

theorem LeftByEvent.granted {s b t : State} {new : Nat} (left : LeftByEvent b t) (only : { b with regs := s.regs } = s)
    (fields : regField b 0x70010 12 0 = new ∧ regField b 0x70010 13 13 = 1) : Granted s t new := by
  obtain ⟨rest, regs, -, still⟩ := left
  refine ⟨?_, ⟨?_, ?_, ?_⟩, fun calm => ?_⟩
  · simp only [regField, regs 0x70010 (by omega) (by omega)]
    exact fields
  · exact (congrArg State.pwr rest :).trans (congrArg State.pwr only :)
  · exact (congrArg State.errs rest :).trans (congrArg State.errs only :)
  · exact (congrArg State.pending rest :).trans (congrArg State.pending only :)
  · have calm' : quiet b := by rwa [← only] at calm
    exact (still calm').2.trans (congrArg State.cores only :)

theorem exec_pldmGrant_down {s : State} (live : Live s) (down : rangerUp s = false) (g : Nat) : exec (.pldmGrant g) s = .next s := by
  refine runLive_next s s (fun s => grantDo s g) live ?_ rfl rfl
  simp [grantDo, down]

theorem exec_pldmGrant_up {s : State} (live : Live s) (up : rangerUp s = true) (g : Nat) :
    ∃ t, exec (.pldmGrant g) s = .next t ∧ Granted s t (min g 4800) := by
  have done : grantDo s g = writeEvent (granted s (min g 4800)) 0x27 (regField s 0x70010 12 0) (min g 4800) 0 := by
    unfold grantDo granted
    rw [up]
    rfl
  have taken := (writeEvent_leaves (granted s (min g 4800)) 0x27 (regField s 0x70010 12 0) (min g 4800) 0).granted
    (granted_only s _) (granted_field s (Nat.min_le_right g 4800))
  obtain ⟨-, errs, pending⟩ := taken.rest
  exact ⟨_, runLive_next s _ (fun s => grantDo s g) live done errs pending, taken⟩

theorem exec_pwrCapWrite {s : State} (live : Live s) (v : Nat) : exec (.pwrCapWrite v) s = .next (regSet s 0x70008 12 0 v) :=
  runLive_next s _ (fun s => regSet s 0x70008 12 0 v) live rfl rfl rfl

theorem exec_sensorRefresh_down {s : State} (live : Live s) (down : rangerUp s = false) : exec .sensorRefresh s = .next s := by
  refine runLive_next s s sensorDo live ?_ rfl rfl
  simp [sensorDo, down]

theorem exec_sensorRefresh_up {s : State} (live : Live s) (up : rangerUp s = true) : ∃ a b rest, exec .sensorRefresh s =
    .next (emit { s with free := s.free + 2 } (.pldm 16 ([a, b, s.pwr.energy / 10 ^ 15, effCap s, regField s 0x70048 15 0] ++ rest))) := by
  refine ⟨(drawFree s).1, (drawFree (drawFree s).2).1, (List.range 4).map (fun t => regField s (0x70080 + 8 * t) 63 56) ++
    [regField s 0x70010 12 0, stateSensor s] ++ s.pwr.temps, runLive_next s _ sensorDo live ?_ rfl rfl⟩
  unfold sensorDo
  rw [up]
  simp only [drawFree, List.append_assoc, Bool.not_true, Bool.false_eq_true, if_false]

/-! ### The thermal actions (R535) -/

/-- A sensor below its first threshold with no action of its own. -/
def cold (s : State) (i : Nat) : Prop := sensorTemp s.pwr.temps i < threshold i 0 ∧ ∀ l < 3, isHot s i l = false

theorem threshold_mono (i : Nat) : threshold i 0 ≤ threshold i 1 ∧ threshold i 1 ≤ threshold i 2 := by
  unfold threshold
  split
  · decide
  · split <;> decide

theorem thermalOne_below {s : State} {i l : Nat} (below : sensorTemp s.pwr.temps i < threshold i l) (idle : isHot s i l = false) :
    thermalOne s i l = s := by
  unfold thermalOne
  dsimp only
  rw [if_neg (Nat.not_le.mpr below), idle, if_neg Bool.false_ne_true]

/-- A sensor's three levels. -/
def thermalSensor (s : State) (i : Nat) : State := (List.range 3).foldl (fun s l => thermalOne s i l) s

theorem thermalSensor_eq (s : State) (i : Nat) : thermalSensor s i = thermalOne (thermalOne (thermalOne s i 0) i 1) i 2 := rfl

theorem thermalSensor_cold {s : State} {i : Nat} (h : cold s i) : thermalSensor s i = s := by
  obtain ⟨below, idle⟩ := h
  have mono := threshold_mono i
  rw [thermalSensor_eq, thermalOne_below below (idle 0 (by omega)), thermalOne_below (by omega) (idle 1 (by omega)),
    thermalOne_below (by omega) (idle 2 (by omega))]

theorem thermalSensors_cold {s : State} (l : List Nat) (h : ∀ i ∈ l, cold s i) : l.foldl thermalSensor s = s :=
  List.foldlRecOn (motive := fun t => t = s) _ _ rfl fun t same i mem => by rw [same, thermalSensor_cold (h i mem)]

/-- The sensors' readings, taken. -/
def tempsTaken (s : State) (temps : List Nat) : State := { s with pwr := { s.pwr with temps := temps.take 29 } }

theorem thermalDo_eq (s : State) (temps : List Nat) :
    thermalDo s temps = applyCeilings (thermalOne ((List.range 16).foldl thermalSensor (tempsTaken s temps)) 16 0) := by
  unfold thermalDo tempsTaken
  generalize List.range 16 = l
  rfl

theorem isHot_none {s : State} (h : s.pwr.hot = []) (i l : Nat) : isHot s i l = false := by
  unfold isHot
  rw [h]
  rfl

theorem thermalDo_cold {s : State} {temps : List Nat} (hot : s.pwr.hot = []) (below : ∀ i < 17, sensorTemp (temps.take 29) i < threshold i 0) :
    thermalDo s temps = applyCeilings (tempsTaken s temps) := by
  have idle : ∀ i l, isHot (tempsTaken s temps) i l = false := isHot_none hot
  rw [thermalDo_eq, thermalSensors_cold _ fun i mem => ⟨below i (by have := List.mem_range.mp mem; omega), fun l _ => idle i l⟩,
    thermalOne_below (below 16 (by omega)) (idle 16 0)]

/-- A sensor's first action begun (R535). -/
def heated (s : State) (i : Nat) : State := { s with pwr := { s.pwr with hot := [4 * i] } }

theorem isHot_heated (s : State) (i : Nat) {j l : Nat} (h : 4 * j + l ≠ 4 * i) : isHot (heated s i) j l = false := by
  simp [isHot, heated, h]

/-- A stand's sensor between its first threshold and its second begins its first action and fires its source. -/
theorem thermalSensor_begins {s : State} {i : Nat} (stand : i < 4) (hot : s.pwr.hot = []) (cool : s.pwr.cool = [])
    (above : threshold i 0 ≤ sensorTemp s.pwr.temps i) (below : sensorTemp s.pwr.temps i < threshold i 1) :
    thermalSensor s i = noteErr (heated s i) (0xA8C + i) 3 0 0 := by
  have mono := threshold_mono i
  have first : thermalOne s i 0 = noteErr (heated s i) (0xA8C + i) 3 0 0 := by
    unfold thermalOne heated
    dsimp only
    rw [if_pos above, isHot_none hot, if_neg (by simp), if_pos stand, hot, cool, show setAdd (4 * i + 0) [] = [4 * i] from rfl,
      show tabSet (fun _ => 0) [] (4 * i + 0) 0 = ([] : Tab Nat) from rfl]
  rw [thermalSensor_eq, first, thermalOne_below (s := noteErr (heated s i) _ _ _ _) below (isHot_heated s i (by omega)),
    thermalOne_below (s := noteErr (heated s i) _ _ _ _) (Nat.lt_of_lt_of_le below mono.2) (isHot_heated s i (by omega))]

theorem thermalDo_heats {s : State} {temps : List Nat} {i : Nat} (stand : i < 4) (hot : s.pwr.hot = []) (cool : s.pwr.cool = [])
    (above : threshold i 0 ≤ sensorTemp (temps.take 29) i) (below : sensorTemp (temps.take 29) i < threshold i 1)
    (others : ∀ j < 17, j ≠ i → sensorTemp (temps.take 29) j < threshold j 0) :
    thermalDo s temps = applyCeilings (noteErr (heated (tempsTaken s temps) i) (0xA8C + i) 3 0 0) := by
  have split : List.range 16 = List.range i ++ i :: (List.range (15 - i)).map (i + 1 + ·) := by
    rw [show 16 = i + 1 + (15 - i) by omega, List.range_add, List.range_succ, List.append_assoc, List.singleton_append]
  have before : ∀ j ∈ List.range i, cold (tempsTaken s temps) j := fun j mem =>
    have lt := List.mem_range.mp mem
    ⟨others j (by omega) (by omega), fun l _ => isHot_none hot j l⟩
  have after : ∀ j ∈ (List.range (15 - i)).map (i + 1 + ·), cold (noteErr (heated (tempsTaken s temps) i) (0xA8C + i) 3 0 0) j := by
    intro j mem
    obtain ⟨k, hk, rfl⟩ := List.mem_map.mp mem
    have lt := List.mem_range.mp hk
    exact ⟨others _ (by omega) (by omega), fun l _ => isHot_heated _ i (by omega)⟩
  rw [thermalDo_eq, split, List.foldl_append, thermalSensors_cold _ before, List.foldl_cons,
    thermalSensor_begins (s := tempsTaken s temps) stand hot cool above below,
    thermalSensors_cold _ after,
    thermalOne_below (s := noteErr (heated (tempsTaken s temps) i) _ _ _ _) (others 16 (by omega) (by omega)) (isHot_heated _ i (by omega))]

/-- The ceilings read nothing of the errors noted. -/
theorem applyCeilings_noteErr (s : State) (rec src synd addr : Nat) :
    applyCeilings (noteErr s rec src synd addr) = noteErr (applyCeilings s) rec src synd addr := by
  have one : ∀ t d, applyCeiling (noteErr t rec src synd addr) d = noteErr (applyCeiling t d) rec src synd addr := fun _ _ => rfl
  unfold applyCeilings
  generalize List.range 5 = l
  induction l generalizing s with
  | nil => rfl
  | cons d l ih => rw [List.foldl_cons, List.foldl_cons, one, ih]

theorem exec_thermalCheck_cold {s : State} (live : Live s) {temps : List Nat} (hot : s.pwr.hot = [])
    (below : ∀ i < 17, sensorTemp (temps.take 29) i < threshold i 0) :
    exec (.thermalCheck temps) s = .next (applyCeilings (tempsTaken s temps)) := by
  obtain ⟨doms, ceiled⟩ := applyCeilings_doms (tempsTaken s temps)
  refine runLive_next s _ (fun s => thermalDo s temps) live (thermalDo_cold hot below) ?_ ?_
  all_goals rw [ceiled]; rfl

theorem exec_thermalCheck_heats {s : State} (live : Live s) {temps : List Nat} {i : Nat} (stand : i < 4) (hot : s.pwr.hot = [])
    (cool : s.pwr.cool = []) (above : threshold i 0 ≤ sensorTemp (temps.take 29) i) (below : sensorTemp (temps.take 29) i < threshold i 1)
    (others : ∀ j < 17, j ≠ i → sensorTemp (temps.take 29) j < threshold j 0) (logs : logsOnly s (0xA8C + i) 3) :
    ∃ t, exec (.thermalCheck temps) s = .next t ∧ logged (applyCeilings (heated (tempsTaken s temps) i)) t (0xA8C + i) 3 0 0 := by
  obtain ⟨doms, ceiled⟩ := applyCeilings_doms (heated (tempsTaken s temps) i)
  have done := (thermalDo_heats stand hot cool above below others).trans (applyCeilings_noteErr _ _ _ _ _)
  generalize applyCeilings (heated (tempsTaken s temps) i) = u at ceiled done ⊢
  subst ceiled
  exact runLive_logs s _ (fun s => thermalDo s temps) _ _ _ _ live.1 done logs live.1 live.2 rfl

end Sys2Proof.Machine

open Sys2Proof Sys2Proof.Machine in
/-- Settles O43: an interval is its sample's classification, the ceilings, the turns of the domains and the ramp, each of which keeps what
the others have shown; the other commands are one step each. -/
theorem powerBudget : Obligations.PowerBudget := by
  unfold Obligations.PowerBudget
  intro s live
  refine ⟨fun volt curr cnt => ?_, ⟨classBudgets_sum s, effCap_le s⟩, fun d hd => ?_, ⟨fun spoilt => ?_, fun spoil plausible calm sums => ?_⟩,
    fun v => ⟨exec_pwrCapWrite live v, ?_⟩, fun g => ⟨fun down => exec_pldmGrant_down live down g, fun up => ?_⟩,
    ⟨exec_sensorRefresh_down live, exec_sensorRefresh_up live⟩, fun temps hot cool => ⟨?_, fun i stand above below others logs => ?_⟩⟩
  · obtain ⟨t, next, capped⟩ := exec_cappingInterval live volt curr cnt
    obtain ⟨⟨shownVolt, shownCurr⟩, cap, shown, within, sag, low, down, cores, lowest, movers, -, -⟩ := capped
    exact ⟨t, next, shownVolt, shownCurr, cap, shown, within, sag, low, fun d lt _ stand => down d lt fun _ => stand, cores, lowest, movers⟩
  · have next := exec_vfStepSettled live hd
    exact ⟨fun none_ => by rw [next, settled_none none_], fun down => by rw [next, settled_down down], fun up => by rw [next, settled_up up]⟩
  · exact exec_kUpdate live (kDo_spoilt spoilt) rfl rfl
  · obtain ⟨t, next, power, factor, regs, cores⟩ := exec_kUpdate_corrects live spoil plausible calm sums
    have bounds := nextK_bounds (k := kFactor s) (m := s.pwr.sumM) (l := s.pwr.sumL) sums
    rw [← factor] at bounds
    exact ⟨t, next, power, bounds.1, bounds.2, factor.trans (nextK_eq sums), regs, fun _ => cores⟩
  · have bound := (effCap_le_inputs (regSet s 0x70008 12 0 v)).2
    rwa [regField_regSet_same _ _ _ _ _ (by omega)] at bound
  · obtain ⟨t, next, ⟨⟨amount, taken⟩, ⟨pwr, -, -⟩, still⟩⟩ := exec_pldmGrant_up live up g
    exact ⟨t, next, amount, taken, amount ▸ (effCap_le_inputs t).1, pwr, still⟩
  · exact exec_thermalCheck_cold live hot
  · exact exec_thermalCheck_heats live stand hot cool above below others logs
end

section
/-! PROOFS. The vector slot's conversions, tally-word arithmetic and stipple draws (R54, R153 to R155, R158, R159): the fields a vector
slot command names, the draws its instruction takes, and what a step comes to with draws and without. -/

namespace Sys2Proof.Machine

/-! ### The fields of a vector slot command (R146, R149) -/

section Fields
variable (op : Nat) (f : BitVec 42)

@[simp] theorem vVd_slotWord : vVd (slotWord 42 op f) = fld f 37 33 := bitsOf_fld _ _ _ _ f (by decide) (by decide)
@[simp] theorem vVa_slotWord : vVa (slotWord 42 op f) = fld f 32 28 := bitsOf_fld _ _ _ _ f (by decide) (by decide)
@[simp] theorem vVb_slotWord : vVb (slotWord 42 op f) = fld f 27 23 := bitsOf_fld _ _ _ _ f (by decide) (by decide)
@[simp] theorem vVc_slotWord : vVc (slotWord 42 op f) = fld f 22 18 := bitsOf_fld _ _ _ _ f (by decide) (by decide)
@[simp] theorem vFmt_slotWord : vFmt (slotWord 42 op f) = fld f 17 14 := bitsOf_fld _ _ _ _ f (by decide) (by decide)
@[simp] theorem vK_slotWord : vK (slotWord 42 op f) = fld f 13 11 := bitsOf_fld _ _ _ _ f (by decide) (by decide)
@[simp] theorem vRm_slotWord : vRm (slotWord 42 op f) = fld f 10 9 := bitsOf_fld _ _ _ _ f (by decide) (by decide)
@[simp] theorem vStream_slotWord : vStream (slotWord 42 op f) = fld f 7 2 := bitsOf_fld _ _ _ _ f (by decide) (by decide)

end Fields

/-! ### The draws of an instruction (R54, R56) -/

/-- The counter runs modulo 2^128, so a draw may be counted from the reduced counter. -/
theorem drawBits_mod (key c j : Nat) : drawBits key (c % 2 ^ 128) j = drawBits key c j := by
  unfold drawBits
  rw [Nat.mod_add_mod]

/-- Of the vector instructions, CVT.OUT, FTOI and TWOUT read the counter for the bits of their elements and SPD for its whole draws: each
reads it modulo 2^128. -/
theorem vEffect_mod (c : Nat) (p : Arch) (w : Nat) (a : Arch) : vEffect (c % 2 ^ 128) p w a = vEffect c p w a := by
  have cvtOut : effCvtOut (c % 2 ^ 128) p w a = effCvtOut c p w a := by simp only [effCvtOut, drawBits_mod]
  have ftoi : effFtoi (c % 2 ^ 128) p w a = effFtoi c p w a := by simp only [effFtoi, drawBits_mod]
  have twout : effTwout (c % 2 ^ 128) p w a = effTwout c p w a := by simp only [effTwout, drawBits_mod]
  have spd : effSpd (c % 2 ^ 128) p w a = effSpd c p w a := by simp only [effSpd, Nat.mod_add_mod]
  unfold vEffect
  rw [cvtOut, ftoi, twout, spd]

theorem vDraws_cvtOut (f : BitVec 42) : vDraws (slotWord 42 16 f) = if fld f 10 9 = 2 then some (fld f 7 2, 8) else none := by
  simp [vDraws, vOp_slotWord]

theorem vDraws_ftoi (f : BitVec 42) : vDraws (slotWord 42 18 f) = if fld f 10 9 = 2 then some (fld f 7 2, 8) else none := by
  simp [vDraws, vOp_slotWord]

theorem vDraws_twout (f : BitVec 42) : vDraws (slotWord 42 37 f) = if fld f 15 14 = 2 then some (fld f 13 8, 2) else none := by
  simp [vDraws, vOp_slotWord, bitsOf_fld]

theorem vDraws_spd (f : BitVec 42) :
    vDraws (slotWord 42 39 f) = some (fld f 13 8, if fld f 17 14 = 0 then 16 else fld f 17 14) := by
  simp [vDraws, vOp_slotWord, bitsOf_fld]

/-- No other instruction draws. -/
theorem vDraws_none {op : Nat} (f : BitVec 42) (opcode : op < 64) (other : op ∉ [16, 18, 37, 39]) : vDraws (slotWord 42 op f) = none := by
  unfold vDraws
  rw [vOp_slotWord op f opcode]
  split <;> simp_all

/-! ### A vector slot that issues on its own, with draws and without -/

section Sole
variable {i : Sys2Proof.Instr} {s : State} {h : Hdr} {op : Nat} {f : BitVec 42}

/-- An instruction that draws starts at its stream's counter. -/
theorem exec_drawing {st n : Nat} (slot : slotOf i = some (h, .vec, slotWord 42 op f)) (sole : soleVec s h op f)
    (draws : vDraws (slotWord 42 op f) = some (st, n)) :
    exec i s = retired s h (vEffect (stipGet (coreGet s h.core).a st).ctr (coreGet s h.core).a (slotWord 42 op f)
      (coreGet s h.core).a) ((coreGet s h.core).pc + 1) := by
  rw [exec_slot i s h .vec _ slot, exec_soleVec sole, draws, vEffect_mod]

/-- An instruction that takes no draw has the same effect wherever the counters stand. -/
theorem exec_drawless (slot : slotOf i = some (h, .vec, slotWord 42 op f)) (sole : soleVec s h op f)
    (draws : vDraws (slotWord 42 op f) = none) :
    exec i s = retired s h (vEffect 0 (coreGet s h.core).a (slotWord 42 op f) (coreGet s h.core).a) ((coreGet s h.core).pc + 1) := by
  rw [exec_slot i s h .vec _ slot, exec_soleVec sole, draws, vEffect_mod]

end Sole

end Sys2Proof.Machine

open Sys2Proof Sys2Proof.Machine in
/-- Settles O15: each slot is its instruction's effect with the command's fields in place; a rounding that draws takes its bits from the
stream's counter and advances the stream, and any other rounding leaves every stream. -/
theorem vectorConversions : Obligations.VectorConversions := by
  unfold Obligations.VectorConversions
  intro h f s
  refine ⟨fun sole => ⟨fun sr => ?cvtOutDrawn, fun det => ?cvtOutUndrawn⟩, fun sole => ?cvtIn,
    fun sole => ⟨fun sr => ?ftoiDrawn, fun det => ?ftoiUndrawn⟩, fun sole => ?twin,
    fun sole => ⟨fun sr => ?twoutDrawn, fun det => ?twoutUndrawn⟩, fun sole => ?twadd, fun sole => ?spd⟩
  case cvtOutDrawn =>
    rw [exec_drawing rfl sole ((vDraws_cvtOut f).trans (if_pos sr))]
    simp [vEffect, vOp_slotWord, effCvtOut, bitOf_slotWord, sr]
  case cvtOutUndrawn =>
    rw [exec_drawless rfl sole ((vDraws_cvtOut f).trans (if_neg det))]
    simp [vEffect, vOp_slotWord, effCvtOut, bitOf_slotWord, det]
  case cvtIn =>
    rw [exec_drawless rfl sole (vDraws_none f (by decide) (by decide))]
    simp [vEffect, vOp_slotWord, effCvtIn]
  case ftoiDrawn =>
    rw [exec_drawing rfl sole ((vDraws_ftoi f).trans (if_pos sr))]
    simp [vEffect, vOp_slotWord, effFtoi, sr]
  case ftoiUndrawn =>
    rw [exec_drawless rfl sole ((vDraws_ftoi f).trans (if_neg det))]
    simp [vEffect, vOp_slotWord, effFtoi, det]
  case twin =>
    rw [exec_drawless rfl sole (vDraws_none f (by decide) (by decide))]
    simp [vEffect, vOp_slotWord, effTwin, bitsOf_fld]
  case twoutDrawn =>
    rw [exec_drawing rfl sole ((vDraws_twout f).trans (if_pos sr))]
    simp [vEffect, vOp_slotWord, effTwout, bitsOf_fld, sr]
  case twoutUndrawn =>
    rw [exec_drawless rfl sole ((vDraws_twout f).trans (if_neg det))]
    simp [vEffect, vOp_slotWord, effTwout, bitsOf_fld, det]
  case twadd =>
    rw [exec_drawless rfl sole (vDraws_none f (by decide) (by decide))]
    simp [vEffect, vOp_slotWord, effTwadd]
  case spd =>
    rw [exec_drawing rfl sole (vDraws_spd f)]
    simp [vEffect, vOp_slotWord, effSpd, bitsOf_fld]
end

section
/-! PROOFS. Bundles given slot by slot (R79, R123 to R125). -/

namespace Sys2Proof.Machine

section Pair
variable {a : Arch} {sw vw : Nat}

theorem scAct_pair (g : guardOk a (scG sw) = true) : scAct a (slotPut (slotPut slots0 .sc sw) .vec vw) = sw := if_pos g
theorem vAct_pair (g : guardOk a (vG vw) = true) : vAct a (slotPut (slotPut slots0 .sc sw) .vec vw) = vw := if_pos g
theorem tAct_pair : tAct a (slotPut (slotPut slots0 .sc sw) .vec vw) = 0 := ite_self 0

end Pair

/-- The effect of a bundle of LI and a vector instruction without draws: the vector slot acts on what LI has written and reads what stood
before. -/
theorem bundleEffect_li (pc : Nat) (p : Arch) (f : BitVec 26) {vw : Nat} (draws : vDraws vw = none) :
    bundleEffect pc p (slotWord 26 9 f) vw 0 = vEffect 0 p vw (sput p (fld f 21 17) (BitVec.ofInt 64 (sextInt 17 (fld f 16 0)))) := by
  have op := scOp_slotWord 9 f (by decide)
  have no : vOp 0 ≠ 18 := by decide
  simp [bundleEffect, scEffect, effLi, scLate, scRd, scImm17, sext64, op, draws, no, bitsOf_fld]

/-- The last slot of a bundle whose scalar slot is LI and whose vector slot takes no draw: the bundle issues, the vector slot reading the
state before it. -/
theorem exec_vector_beside_li {i : Sys2Proof.Instr} {s : State} {h : Hdr} {op : Nat} {f : BitVec 26} {g : BitVec 42}
    (slot : slotOf i = some (h, .vec, slotWord 42 op g)) (draws : vDraws (slotWord 42 op g) = none) (live : Live s) (last : h.last = true)
    (core : h.core < 2400) (free : coreFree (coreGet s h.core) = true) (latch : (coreGet s h.core).latch = slotPut slots0 .sc (slotWord 26 9 f))
    (gs : guardOk (coreGet s h.core).a (fld f 25 22) = true) (gv : guardOk (coreGet s h.core).a (fld g 41 38) = true)
    (ready : bundleReady (coreGet s h.core) (slotPut (coreGet s h.core).latch .vec (slotWord 42 op g)) = true) :
    exec i s = .next (coreSet s h.core { coreGet s h.core with
      latch := slots0, pc := (coreGet s h.core).pc + 1
      a := vEffect 0 (coreGet s h.core).a (slotWord 42 op g)
        (sput (coreGet s h.core).a (fld f 21 17) (BitVec.ofInt 64 (sextInt 17 (fld f 16 0)))) }) := by
  have scalar : guardOk (coreGet s h.core).a (scG (slotWord 26 9 f)) = true := by rw [scG, bitsOf_fld _ _ _ _ f (by decide) (by decide)]; exact gs
  have vector : guardOk (coreGet s h.core).a (vG (slotWord 42 op g)) = true := by rw [vG, bitsOf_fld _ _ _ _ g (by decide) (by decide)]; exact gv
  have next : scTarget (coreGet s h.core).a (slotWord 26 9 f) = none := by simp [scTarget, scOp_slotWord 9 f]
  have given := giveSlot_last s h .vec _ last _ rfl free ready
  rw [latch, scAct_pair scalar, vAct_pair vector, tAct_pair, bundleEffect_li _ _ f draws, next, Option.getD_none, retire] at given
  rw [exec_slot i s h .vec _ slot]
  exact exec_giveSlot live core given (coreSet_errs _ _ _) (coreSet_pending _ _ _)

end Sys2Proof.Machine

open Sys2Proof Sys2Proof.Machine in
/-- Settles O5: giving such a slot only adds it to the core's latch. -/
theorem slotsWaitForTheirBundle : Obligations.SlotsWaitForTheirBundle := by
  unfold Obligations.SlotsWaitForTheirBundle
  intro i s h kind w slot live core more running going
  rw [exec_slot i s h kind w slot]
  exact exec_giveSlot live core (giveSlot_more s h kind w more running going) rfl rfl

open Sys2Proof Sys2Proof.Machine in
/-- Settles O55: the bundle's vector slot acts on what LI has written, and what it reads is the register before the bundle. -/
theorem slotsReadBeforeTheBundle : Obligations.SlotsReadBeforeTheBundle := by
  unfold Obligations.SlotsReadBeforeTheBundle
  intro h f g s k v read lane0 live last core free latch gs gv
  constructor
  case left =>
    intro ready
    rw [exec_vector_beside_li rfl (vDraws_none g (by decide) (by decide)) live last core free latch gs gv ready]
    simp [vEffect, vOp_slotWord, effBcst, k, v, read]
  case right =>
    intro ready _
    rw [exec_vector_beside_li rfl (vDraws_none g (by decide) (by decide)) live last core free latch gs gv ready]
    simp [vEffect, vOp_slotWord, effVext, bitsOf_fld, k, v, lane0]
end

section
/-! PROOFS. The tensor queue (R79, R83, R98, R107, R162 to R173). -/

namespace Sys2Proof.Machine

/-- Opcodes of the array, weight, drain, tally and recorder units (R161), other than SRT, which is no entry of the queue. -/
def coreUnitOps : List Nat := [1, 2, 3, 4, 5, 6, 7, 8, 9, 10, 11, 16, 17]

/-- Opcodes of theirs whose operands nothing can fail (R162): they touch no plate and name no limit. -/
def uncheckedOps : List Nat := [3, 6, 8, 9, 10, 11, 16, 17]

theorem coreUnitOps_lt : ∀ op ∈ coreUnitOps, op < 64 := by decide
theorem uncheckedOps_listed : ∀ op ∈ uncheckedOps, op < 64 ∧ op ∈ coreUnitOps := by decide

@[simp] theorem vOp_zero : vOp 0 = 0 := by decide

/-- A tensor instruction of these units is queued, and its unit is neither the chain's nor the mover's. -/
theorem coreUnitOps_unit {w : Nat} (op : vOp w ∈ coreUnitOps) : tQueued w = true ∧ tUnit w ≠ 4 ∧ tUnit w ≠ 5 ∧ vOp w ≠ 15 := by
  unfold tQueued tUnit
  generalize vOp w = o at op
  revert o
  decide

/-- An instruction without checked operands passes at its start. -/
theorem tCheck_unchecked {a : Arch} {e : TEntry} (op : vOp e.w ∈ uncheckedOps) : tCheck a e = 0 := by
  simp only [uncheckedOps, List.mem_cons, List.not_mem_nil, or_false] at op
  rcases op with o | o | o | o | o | o | o | o <;> simp [tCheck, tPlateReads, tPlateWrites, tLimits, o]

section Starts
variable {i : Sys2Proof.Instr} {s : State} {h : Hdr} {op : Nat} {f : BitVec 42}

theorem freshTen_guard (fresh : freshTen s h op f) : guardOk (coreGet s h.core).a (vG (slotWord 42 op f)) = true := by
  obtain ⟨-, -, -, guard, -, -⟩ := fresh
  rw [vG, bitsOf_fld _ _ _ _ f (by decide) (by decide)]
  exact guard

/-- A legal tensor slot other than SRT is a legal bundle on its own (R126, R129). -/
theorem bundleLegal_ten {w : Nat} (legal : tLegal w = true) (notSrt : vOp w ≠ 18) : bundleLegal (slotPut slots0 .ten w) = true := by
  have others : scLegal 0 = true ∧ vLegal 0 = true := by decide
  have pairs : pairLegal ⟨none, none, some w⟩ = true := by
    simp [pairLegal, notSrt, meets, scWrites, scVWrites, vSWrites, vWrites, scOp, bitsOf]
  simp [bundleLegal, pairs, slotPut, slots0, others, legal]

/-- TNOP issues and does nothing (R161). -/
theorem exec_tnop (fresh : freshTen s h 0 f) : exec (.tnop h f) s = retired s h (coreGet s h.core).a ((coreGet s h.core).pc + 1) := by
  have guard := freshTen_guard fresh
  obtain ⟨live, last, ⟨core, free, latch⟩, -, legal, inside⟩ := fresh
  have op := vOp_slotWord 0 f (by decide)
  have scalar : scPlain 0 = true ∧ scPlateOk (coreGet s h.core).a 0 = true := ⟨by decide, by simp [scPlateOk, scPlateRead, scOp, bitsOf]⟩
  have ready : bundleReady (coreGet s h.core) (slotPut slots0 .ten (slotWord 42 0 f)) = true := by
    rw [bundleReady, tAct_ten, if_pos guard, scAct_ten, vAct_ten, scTarget_zero]
    simp [bundleLegal_ten legal (by simp [op]), scalar, vPlateOk, tQueued, op, inside]
  have nothing : bundleEffect (coreGet s h.core).pc (coreGet s h.core).a 0 0 (slotWord 42 0 f) = (coreGet s h.core).a := by
    simp [bundleEffect, op, scEffect, scLate, vEffect, scOp, bitsOf, effNop]
  have given := giveSlot_lone s h .ten _ last ((loneReady_iff _ _ _ _).2 ⟨core, free, latch, ready⟩)
  rw [tAct_ten, if_pos guard, scAct_ten, vAct_ten, scTarget_zero, nothing] at given
  rw [exec_slot _ s h .ten _ rfl, retired]
  exact exec_giveSlot live core given (coreSet_errs _ _ _) (coreSet_pending _ _ _)

/-- An instruction of these units whose operands pass is queued and started. -/
theorem exec_tensor_starts (slot : slotOf i = some (h, .ten, slotWord 42 op f)) (fresh : freshTen s h op f) (listed : op ∈ coreUnitOps)
    (passes : tCheck (coreGet s h.core).a (tenEntry (coreGet s h.core) (slotWord 42 op f)) = 0) :
    exec i s = .next (coreSet s h.core (tenQueued (coreGet s h.core) (slotWord 42 op f) 0)) := by
  have guard := freshTen_guard fresh
  obtain ⟨live, last, room, -, legal, inside⟩ := fresh
  have small : op < 64 := (coreUnitOps_lt op listed)
  obtain ⟨queued, notChain, notMover, -⟩ := coreUnitOps_unit (w := slotWord 42 op f) (by rw [vOp_slotWord op f small]; exact listed)
  rw [exec_slot i s h .ten _ slot]
  exact exec_giveSlot live room.1 (giveSlot_ten s h _ last room legal guard queued inside notChain notMover passes) rfl rfl

/-- One whose operands do not pass stops the core with its exception. -/
theorem exec_tensor_raises (slot : slotOf i = some (h, .ten, slotWord 42 op f)) (fresh : freshTen s h op f) (listed : op ∈ coreUnitOps)
    (fails : tCheck (coreGet s h.core).a (tenEntry (coreGet s h.core) (slotWord 42 op f)) ≠ 0) :
    exec i s = .next (coreSet s h.core { coreGet s h.core with
      pc := (coreGet s h.core).pc + 1, tqn := (coreGet s h.core).tqn + 1, st := .stopped
      exc := tCheck (coreGet s h.core).a (tenEntry (coreGet s h.core) (slotWord 42 op f)), excB := (coreGet s h.core).pc
      rep := false, lastNf := (coreGet s h.core).a.nflags }) := by
  have guard := freshTen_guard fresh
  obtain ⟨live, last, room, -, legal, inside⟩ := fresh
  have small : op < 64 := (coreUnitOps_lt op listed)
  obtain ⟨queued, -, -, notMvi⟩ := coreUnitOps_unit (w := slotWord 42 op f) (by rw [vOp_slotWord op f small]; exact listed)
  rw [exec_slot i s h .ten _ slot]
  exact exec_giveSlot live room.1 (giveSlot_tenBad s h _ last room legal guard queued inside notMvi _ rfl _ rfl fails) rfl rfl

/-- An instruction without checked operands is queued and started. -/
theorem exec_tensor_unchecked (slot : slotOf i = some (h, .ten, slotWord 42 op f)) (fresh : freshTen s h op f) (listed : op ∈ uncheckedOps) :
    exec i s = .next (coreSet s h.core (tenQueued (coreGet s h.core) (slotWord 42 op f) 0)) := by
  have small := uncheckedOps_listed op listed
  refine exec_tensor_starts slot fresh small.2 (tCheck_unchecked ?_)
  rw [show (tenEntry (coreGet s h.core) (slotWord 42 op f)).w = slotWord 42 op f from rfl, vOp_slotWord op f small.1]
  exact listed

end Starts

/-- A started instruction of a unit within the core makes its effect and leaves the queue. -/
theorem exec_tensorComplete {c u : Nat} {e : TEntry} {s : State} {a : Arch} (run : tenRunning s c e) (unit : tUnit e.w = u) (notChain : u ≠ 4)
    (notMover : u ≠ 5) (effect : tEffect e (coreGet s c).a = a) :
    exec (.tensorComplete c u) s = .next (coreSet s c { coreGet s c with tq := [], a := a }) := by
  obtain ⟨live, lands, core, free, queue, started⟩ := run
  have done : tensorDone s c u = coreSet s c { coreGet s c with tq := [], a := a } := by
    simp only [tensorDone, queue, List.find?_cons, unit, started, beq_self_eq_true, Bool.and_self, notMover, notChain, false_and, or_false,
      if_false, List.filter_cons, bne_self_eq_false, Bool.false_eq_true, List.filter_nil, effect]
    exact pumpCore_coreSet s c _ free
  exact withUnit_calm 2400 c s _ _ core live (by rw [done, landGo_none _ (by exact lands)]) rfl rfl

end Sys2Proof.Machine

open Sys2Proof Sys2Proof.Machine in
/-- Settles O16: an instruction with checked operands starts or raises by its check, and one without starts always. -/
theorem tensorStarts : Obligations.TensorStarts := by
  unfold Obligations.TensorStarts
  intro h f s k queued checked
  have either : ∀ {i op}, slotOf i = some (h, .ten, slotWord 42 op f) → op ∈ coreUnitOps → freshTen s h op f → checked i op :=
    fun slot listed fresh => ⟨exec_tensor_starts slot fresh listed, exec_tensor_raises slot fresh listed⟩
  have always : ∀ {i op}, slotOf i = some (h, .ten, slotWord 42 op f) → op ∈ uncheckedOps → freshTen s h op f → exec i s = queued op :=
    fun slot listed fresh => exec_tensor_unchecked slot fresh listed
  exact ⟨exec_tnop, either rfl (by decide), either rfl (by decide), always rfl (by decide), either rfl (by decide), either rfl (by decide),
    always rfl (by decide), either rfl (by decide), always rfl (by decide), always rfl (by decide), always rfl (by decide),
    always rfl (by decide), always rfl (by decide), always rfl (by decide)⟩

open Sys2Proof Sys2Proof.Machine in
/-- Settles O17: the entry's effect on the core is its opcode's, and the core, free but for the entry, does nothing more. -/
theorem tensorCompletes : Obligations.TensorCompletes := by
  unfold Obligations.TensorCompletes
  intro c e s run k done tag slot
  have completes : ∀ {u a}, tUnit e.w = u ∧ u ≠ 4 ∧ u ≠ 5 → tEffect e k.a = a → done u a :=
    fun unit effect => exec_tensorComplete run unit.1 unit.2.1 unit.2.2 effect
  refine ⟨fun o => ?wld, fun o => ?wldF, fun o => ?wldFv, fun o => ?mma, fun o => ?mmaF, fun o => ?acz, fun o => ?drn, fun o => ?tlz,
    fun o => ?tlv, fun o => ?tlrQuantity, fun o => ?tlrRecord, fun o => ?tlm, fun o => ?srp, fun o => ?srr⟩
  case tlrQuantity =>
    obtain ⟨o, quantity⟩ := o
    exact completes (by simp [tUnit, o]) (by simp [tEffect, o, effTlr, quantity, slot, Function.comp_def])
  case tlrRecord =>
    obtain ⟨o, record⟩ := o
    exact completes (by simp [tUnit, o]) (by simp [tEffect, o, effTlr, record, slot])
  all_goals
    exact completes (by simp [tUnit, o]) (by simp [tEffect, o, effAcz, effTlz, effTlv, effTlm, effSrp, effSrr, tRows, tBank, slot, tag])
end

section
/-! PROOFS. A core's loads return (R110, R137, R305, R309, R317). -/

namespace Sys2Proof.Machine

/-! ### A core that takes an exception with nothing outstanding (R116, R117) -/

/-- A free core that raises an exception between bundles is STOPPED with it. -/
theorem pumpCore_raiseExc (s : State) (c x n : Nat) (k : Core) (hk : coreGet s c = k) (free : coreFree k = true) (latch : k.latch = slots0)
    (x0 : x ≠ 0) : pumpCore (raiseExc s c x n) c =
      coreSet s c { k with st := .stopped, exc := x, excB := n, rep := false, lastNf := k.a.nflags } := by
  obtain ⟨st, ended, fetched, tq, loads, sb, hints, bar, wtry, wok⟩ := (coreFree_iff k).1 free
  have raised : raiseExc s c x n = coreSet s c { k with st := .stopping, exc := x, excB := n, rep := false } := by
    simp only [raiseExc, hk, st, if_true, stopIssue, haltIssue, sbDrainAll, loads, sb, List.filter_nil, List.map_nil]
    congr 1
    cases k; simp_all
  rw [raised, pumpCore_idle _ c (by rw [coreGet_coreSet_same]; exact ⟨tq, loads, sb, hints⟩) (by rw [coreGet_coreSet_same]; exact fetched),
    coreFinish_stopping _ c _ (coreGet_coreSet_same _ _ _) rfl x0 (by exact tq) (by exact sb) (by exact loads) (by exact latch) (by exact fetched),
    coreSet_coreSet]
  congr 1
  cases k; simp_all

/-! ### The second half of a load of the floor (R309) -/

section Half
variable (s : State) (c : Nat) (l : Load)

/-- Reading a load's second half changes what its lines have brought, and that it is still to be read. -/
theorem secondHalf_only : { secondHalf s c l with split := l.split, parts := l.parts } = l := by
  unfold secondHalf; split <;> rfl

theorem secondHalf_kind : (secondHalf s c l).kind = l.kind := (congrArg Load.kind (secondHalf_only s c l) :)
theorem secondHalf_width : (secondHalf s c l).width = l.width := (congrArg Load.width (secondHalf_only s c l) :)
theorem secondHalf_rd : (secondHalf s c l).rd = l.rd := (congrArg Load.rd (secondHalf_only s c l) :)
theorem secondHalf_sx : (secondHalf s c l).sx = l.sx := (congrArg Load.sx (secondHalf_only s c l) :)
theorem secondHalf_pa : (secondHalf s c l).pa = l.pa := (congrArg Load.pa (secondHalf_only s c l) :)
theorem secondHalf_bundle : (secondHalf s c l).bundle = l.bundle := (congrArg Load.bundle (secondHalf_only s c l) :)

/-- It brings no line that has not come. -/
theorem secondHalf_come : (secondHalf s c l).parts.any (fun p => p.got.isNone) = l.parts.any (fun p => p.got.isNone) := by
  unfold secondHalf
  split
  · simp [List.any_map, Function.comp_def]
  · rfl

end Half

/-! ### A core's one load (R110, R305) -/

section One
variable {s : State} {c : Nat} {l : Load}

/-- A load with a line still to come goes on waiting. -/
theorem loadReturn_waits (one : (coreGet s c).loads = [l]) (waits : l.parts.any (fun p => p.got.isNone) = true) : loadReturn s c l.tag = s := by
  simp [loadReturn, one, waits]

variable (one : (coreGet s c).loads = [l]) (come : l.parts.any (fun p => p.got.isNone) = false)
  (demand : l.kind = .plain ∨ l.kind = .acq ∨ l.kind = .nc)
include one come demand

/-- A demand load whose lines have all come leaves the core's list: it raises POISONED_DATA, or writes its destination. -/
theorem loadReturn_come : loadReturn s c l.tag =
    pumpCore (if loadBad (secondHalf s c l) then raiseExc (coreSet s c { coreGet s c with loads := [] }) c xcPOISON l.bundle
      else coreSet s c { coreGet s c with loads := [], a := loadInto (coreGet s c).a l.width l.rd l.sx (loadBytes (secondHalf s c l)) }) c := by
  have kept : [l].filter (fun x => x.tag != l.tag) = [] := by simp
  simp only [loadReturn, one, List.find?_cons, beq_self_eq_true, come, Bool.false_eq_true, if_false, kept, secondHalf_kind, secondHalf_width,
    secondHalf_rd, secondHalf_sx, secondHalf_bundle]
  rcases demand with e | e | e <;> simp only [e, coreMap, coreGet_coreSet_same, coreSet_coreSet]

variable (free : coreFree { coreGet s c with loads := [] } = true)
include free

/-- Without poison it writes its destination. -/
theorem loadReturn_writes (clean : loadBad (secondHalf s c l) = false) : loadReturn s c l.tag =
    coreSet s c { coreGet s c with loads := [], a := loadInto (coreGet s c).a l.width l.rd l.sx (loadBytes (secondHalf s c l)) } := by
  rw [loadReturn_come one come demand, clean, if_neg Bool.false_ne_true]
  exact pumpCore_coreSet s c _ free

/-- With poison it stops the core with POISONED_DATA at its bundle. -/
theorem loadReturn_poisoned (bad : loadBad (secondHalf s c l) = true) (latch : (coreGet s c).latch = slots0) : loadReturn s c l.tag =
    coreSet s c { coreGet s c with
      loads := [], st := .stopped, exc := 10, excB := l.bundle, rep := false, lastNf := (coreGet s c).a.nflags } := by
  rw [loadReturn_come one come demand, bad, if_pos rfl, pumpCore_raiseExc _ c _ _ _ (coreGet_coreSet_same _ _ _) free latch (by decide), coreSet_coreSet]
  rfl

end One

theorem exec_loadDataReturn {s t : State} {c tag : Nat} (live : Live s) (core : c < 2400) (e : loadReturn s c tag = t) (errs : t.errs = s.errs)
    (pending : t.pending = s.pending) : exec (.loadDataReturn c tag) s = .next t :=
  withUnit_calm 2400 c s t _ core live e errs pending

theorem loadBad_eq (l : Load) : loadBad l = l.parts.any (fun p => (p.got.getD ([], false)).2) := by
  unfold loadBad
  congr 1
  funext p
  cases p.got <;> rfl

/-- A load none of whose lines lacks clean data waits for none, and none came poisoned. -/
theorem come_of_clean {l : Load} (clean : l.parts.all (fun p => (p.got.getD ([], true)).2 == false) = true) :
    l.parts.any (fun p => p.got.isNone) = false ∧ loadBad l = false := by
  have each : ∀ p ∈ l.parts, ∃ d, p.got = some (d, false) := by
    intro p listed
    have pure := List.all_eq_true.1 clean p listed
    cases got : p.got with
    | none => simp [got] at pure
    | some d =>
      obtain ⟨bytes, poison⟩ := d
      exact ⟨bytes, by simpa [got] using pure⟩
  rw [loadBad_eq, List.any_eq_false, List.any_eq_false]
  constructor <;> intro p listed <;> obtain ⟨d, got⟩ := each p listed <;> simp [got]

/-- A load of at most 8 bytes writes one scalar register with the access's bytes, extended by its sign or by zero (R135). -/
theorem loadInto_narrow (a : Arch) {width : Nat} (rd : Nat) (sx : Bool) (l : List Byte) (narrow : width ≤ 3) :
    loadInto a width rd sx (l.take (smSize width)) =
      sput a rd (if sx then BitVec.ofInt 64 (sextInt (8 * smSize width) (leNat (l.take (smSize width))))
        else BitVec.ofNat 64 (leNat (l.take (smSize width)))) := by
  have field : fieldAt (l.take (smSize width)) 0 (smSize width) = leNat (l.take (smSize width)) := by simp [fieldAt, List.take_take]
  unfold loadInto
  rw [field]
  split
  · omega
  · omega
  · rfl

theorem smSize_narrow {width : Nat} (narrow : width ≤ 3) : smSize width < 64 := by interval_cases width <;> decide

end Sys2Proof.Machine

open Sys2Proof Sys2Proof.Machine in
/-- Settles O21: a load with a line still to come waits, one with a poisoned line raises its exception, and any other writes what its width
takes of the lines' bytes, its second half read by then. -/
theorem loadsReturn : Obligations.LoadsReturn := by
  unfold Obligations.LoadsReturn
  intro c s l k all d n b wrote live core free one demand
  refine ⟨fun waits => ?waits, fun clean => ?writes, fun come bad latch => ?poisoned⟩
  case waits => exact exec_loadDataReturn live core (loadReturn_waits one waits) rfl rfl
  case poisoned =>
    have noneWaits : l.parts.any (fun p => p.got.isNone) = false := by
      simp only [List.all_eq_true, List.any_eq_false, Option.isSome_iff_ne_none] at *
      simpa using come
    exact exec_loadDataReturn live core (loadReturn_poisoned one noneWaits demand free ((loadBad_eq _).trans bad) latch) (coreSet_errs _ _ _)
      (coreSet_pending _ _ _)
  case writes =>
    obtain ⟨come, pure⟩ := come_of_clean clean
    have writes : wrote (loadInto k.a l.width l.rd l.sx (loadBytes (secondHalf s c l))) :=
      exec_loadDataReturn live core (loadReturn_writes one ((secondHalf_come s c l).symm.trans come) demand free pure) (coreSet_errs _ _ _)
        (coreSet_pending _ _ _)
    have bytes : loadBytes (secondHalf s c l) = if n < 64 then b else d := by
      change (if smSize (secondHalf s c l).width < 64
        then (d.drop ((secondHalf s c l).pa % 64)).take (smSize (secondHalf s c l).width) else d) = _
      rw [secondHalf_width, secondHalf_pa]
    rw [bytes] at writes
    refine ⟨fun narrow => ?zeroExtended, fun narrow => ?signExtended, fun pair => ?pair, fun row => ?row⟩
    case zeroExtended =>
      obtain ⟨narrow, zero⟩ := narrow
      rw [if_pos (smSize_narrow narrow), loadInto_narrow _ _ _ _ narrow, zero] at writes
      exact writes
    case signExtended =>
      obtain ⟨narrow, sign⟩ := narrow
      rw [if_pos (smSize_narrow narrow), loadInto_narrow _ _ _ _ narrow, sign] at writes
      exact writes
    case pair =>
      rw [if_pos (by simp [n, pair, smSize]), pair] at writes
      exact writes
    case row =>
      rw [if_neg (by simp [n, row, smSize]), row] at writes
      exact writes
end

section
/-! PROOFS. What else reaches a core (R87, R88, R114, R117, R118, R140, R182, R183). -/

namespace Sys2Proof.Machine

/-! ### Exception reports (R117 to R119) -/

/-- A STOPPED core with nothing outstanding stays as it is. -/
theorem pumpCore_stopped (s : State) (c : Nat) (k : Core) (hk : coreGet s c = k) (stopped : k.st = .stopped)
    (free : coreFree { k with st := .running } = true) : pumpCore s c = s := by
  subst hk
  obtain ⟨-, -, fetched, tq, loads, sb, hints, -⟩ := (coreFree_iff _).1 free
  rw [pumpCore_idle s c ⟨tq, loads, sb, hints⟩ fetched]
  simp [coreFinish, stopped]

section Report
variable {s : State} {c : Nat} (raised : (coreGet s c).exc ≠ 0) (unreported : (coreGet s c).rep = false)
include raised unreported

/-- A core in no LAUNCH has only reported. -/
theorem excReport_alone (alone : launchOf s c = none) : excReport s c = coreSet s c { coreGet s c with rep := true } := by
  have still : launchOf (coreSet s c { coreGet s c with rep := true }) c = none := alone
  simp [excReport, raised, unreported, still]

/-- The first exception of a LAUNCH on one core is recorded as the LAUNCH's, and no other core is there to abort. -/
theorem excReport_first {l : Launch} (stopped : (coreGet s c).st = .stopped) (free : coreFree { coreGet s c with st := .running } = true)
    (launch : launchOf s c = some l) (only : l.cores = [c]) (uncut : l.cut = false) (first : l.first = none) :
    excReport s c = { coreSet s c { coreGet s c with rep := true } with
      qsu := { s.qsu with launches := s.qsu.launches.map (fun x =>
        if x.cores.contains c then { x with first := some ((coreGet s c).exc, c, (coreGet s c).excB) } else x) } } := by
  have still : launchOf (coreSet s c { coreGet s c with rep := true }) c = some l := launch
  simp only [excReport, raised, unreported, decide_false, Bool.or_self, Bool.false_eq_true, if_false, still, uncut, first, Option.isSome_none, only,
    List.foldl_cons, List.foldl_nil, if_true, pumpCores, coreSet_qsu]
  exact pumpCore_stopped _ c { coreGet s c with rep := true } (coreGet_coreSet_same s c _) stopped free

end Report

/-! ### Plate writes of the fabric (R87, R88) -/

/-- Two runs of bytes, one behind the other, are written as one. -/
theorem tabPut_append (t : Tab Byte) (a : Nat) (x y : List Byte) : tabPut t a (x ++ y) = tabPut (tabPut t a x) (a + x.length) y := by
  induction x generalizing t a with
  | nil => rfl
  | cons b x ih => rw [List.cons_append, tabPut, tabPut, ih, List.length_cons, Nat.add_assoc, Nat.add_comm 1]

theorem platePut_append (a : Arch) (p : Nat) (x y : List Byte) : platePut a p (x ++ y) = platePut (platePut a p x) (p + x.length) y := by
  simp [platePut, tabPut_append]

/-- What a list of X port accesses writes, in order. -/
def hintsPut (a : Arch) (hs : List Hint) : Arch := hs.foldl (fun a h => platePut a h.addr h.data) a

/-- The accesses of a write, one for each plate word, write its bytes. -/
theorem hintsPut_hintSplit (own fuel : Nat) (a : Arch) (p : Nat) (l : List Byte) (enough : l.length < fuel) :
    hintsPut a (hintSplit own fuel p l) = platePut a p l := by
  induction fuel generalizing a p l with
  | zero => omega
  | succ fuel ih =>
    rw [hintSplit]
    split
    · next empty => rw [List.isEmpty_iff.1 empty]; rfl
    · next bytes =>
      have pos : 0 < l.length := List.length_pos_iff.2 (by simpa using bytes)
      have word := Nat.mod_lt p (show 0 < 64 by decide)
      have rest := ih (platePut a p (l.take (64 - p % 64))) (p + (64 - p % 64)) (l.drop (64 - p % 64)) (by rw [List.length_drop]; omega)
      rw [hintsPut, List.foldl_cons]
      refine rest.trans ?_
      conv_rhs => rw [← List.take_append_drop (64 - p % 64) l, platePut_append, List.length_take]
      rcases Nat.le_total (64 - p % 64) l.length with inside | beyond
      · rw [Nat.min_eq_left inside]
      · rw [List.drop_eq_nil_of_le beyond]; rfl

/-- With no tensor instruction queued the X port refuses nothing: every access is served (R87). -/
theorem hintPump_serves (k : Core) (idle : k.tq = []) : hintPump k = { k with hints := [], a := hintsPut k.a k.hints } := by
  unfold hintPump
  generalize listed : k.hints = hs
  induction hs generalizing k with
  | nil => cases k; simp_all [hintsPut]
  | cons h hs ih =>
    have served : xRefused k h.addr h.data.length = false := by simp [xRefused, idle]
    rw [List.foldl_cons]
    simp only [listed, List.head?_cons, served, and_self, if_true, List.tail_cons]
    exact ih { k with hints := hs, a := platePut k.a h.addr h.data } idle rfl

/-- A write that arrives at a core with no hint waiting and no tensor instruction queued is in the plate. -/
theorem hintArrive_serves (k : Core) (own p : Nat) (l : List Byte) (idle : k.tq = []) (empty : k.hints = []) :
    hintArrive k own p l = { k with a := platePut k.a p l } := by
  rw [hintArrive, hintPump_serves _ (by exact idle)]
  simp only [empty, List.nil_append, hintsPut_hintSplit own _ k.a p l (Nat.lt_succ_self _)]

/-! ### Chain words and cells (R182, R183) -/

/-- The port of a mask of which one is UP, and may take a chain cell. -/
theorem chainPort_one {s : State} {m i : Nat} (n : Nat) (up : maskUp s m = [i]) (ready : portReady (portGet s i) 1) : chainPort s m n = some i := by
  obtain ⟨-, waits, credit, replay⟩ := ready
  have takes : chainCredit s i = true := by simpa [chainCredit, waits, replay, cellClass] using credit
  simp only [chainPort, up, List.filter_cons, takes, if_true, List.filter_nil, List.find?_cons, List.find?_nil, List.head?_cons]
  cases decide (n ≤ i) <;> rfl

theorem coreGet_sendsCell (s : State) (i ty : Nat) (data : List Byte) (mask c : Nat) : coreGet (sendsCell s i ty data mask) c = coreGet s c := rfl

/-- An open cell of a RIDE slot closes and leaves over the one port that is UP. -/
theorem closeCell_one {s : State} {c slot : Nat} {l : Launch} {m id i : Nat} (isOpen : cellGet (coreGet s c) slot ≠ [])
    (launch : launchOf s c = some l) (ride : chNbr l c slot false = some (.ride m id)) (up : maskUp s m = [i]) (ready : portReady (portGet s i) 1) :
    closeCell s c slot = sendsCell (coreSet s c { coreGet s c with
        cell := tabSet (fun _ => []) (coreGet s c).cell slot [], rot := tabSet (fun _ => 0) (coreGet s c).rot slot (i + 1) }) i 1
      (chainPayload id (period s l.comp)
        ((tabGet (fun _ => 0) (coreGet s c).rsent slot + 65536 - (cellGet (coreGet s c) slot).length) % 65536) (cellGet (coreGet s c) slot)) m := by
  obtain ⟨w, r, cell⟩ := List.exists_cons_of_ne_nil isOpen
  simp only [closeCell, launch, ride, cell, chainPort_one _ up ready]
  exact portSend_ready _ i 1 _ m ready

/-! ### WAITM's next read (R140) -/

/-- A core that holds on WAITM with no read outstanding starts the next one. -/
theorem exec_waitmReread {s : State} {c : Nat} {f : BitVec 26} {lf : Leaf} (live : Live s) (core : c < 2400)
    (free : coreFree { coreGet s c with fetched := [], waitTry := false } = true) (tried : (coreGet s c).waitTry = true)
    (holds : (coreGet s c).fetched = [slotPut slots0 .sc (slotWord 26 27 f)]) (guard : guardOk (coreGet s c).a (fld f 25 22) = true)
    (ok : accessOk (coreGet s c) (sget (coreGet s c).a (fld f 16 12)).toNat 8 false lf) :
    ∃ t, exec (.waitmReread c) s = .next t ∧ coreStrip (coreGet t c) = coreStrip (tbufPut (coreGet s c) lf) ∧ t.tiers = s.tiers ∧
      t.regs = s.regs ∧ ∃ l ∈ (coreGet t c).loads, loadIs l .wait (coreGet s c).ldn 0 3 false (sget (coreGet s c).a (fld f 16 12)).toNat
        (coreGet s c).pc lf := by
  obtain ⟨running, -, -, -, loads, sb, -, -, -, unmet⟩ := (coreFree_iff _).1 free
  replace loads : (coreGet s c).loads = [] := loads
  have scalar : holdingScalar (coreGet s c) = slotWord 26 27 f := by
    rw [holdingScalar, holds]
    simp only [scAct_sc, scG, bitsOf_fld _ _ _ _ f (show 25 < 26 by decide) (show 22 ≤ 25 by decide), guard, if_true]
  have address : scRs1 (slotWord 26 27 f) = fld f 16 12 := bitsOf_fld _ _ _ _ f (by decide) (by decide)
  have kept : (coreGet (coreSet s c (tbufPut (coreGet s c) lf)) c).loads = [] := by rw [coreGet_coreSet_same]; exact loads
  have credit := creditOk_still (coreSet s c (tbufPut (coreGet s c) lf)) c .wait (leafPA lf (sget (coreGet s c).a (fld f 16 12)).toNat) 8 kept
    (by rw [coreGet_coreSet_same]; exact sb)
  obtain ⟨strip, tiers, regs, errs, pending, -, started⟩ := startLoad_go (coreSet s c (tbufPut (coreGet s c) lf)) c .wait 0 3 false
    (sget (coreGet s c).a (fld f 16 12)).toNat (coreGet s c).pc lf (by rw [kept]; exact fun _ listed => absurd listed List.not_mem_nil)
    (leafPA_tier ok)
  rw [coreGet_coreSet_same] at strip started
  refine ⟨_, withUnit_calm 2400 c s _ _ core live ?_ errs pending, strip, tiers, regs, started⟩
  simp only [scalar, address, scOp_slotWord 27 f (by decide), show (coreGet s c).st = .running from running, tried,
    show (coreGet s c).waitOk = false from unmet, loads, List.any_nil, Bool.not_false, and_self, if_true, memCheck_ok s c _ 8 false lf ok, credit]

end Sys2Proof.Machine

open Sys2Proof Sys2Proof.Machine in
/-- Settles O23: a report and a gated clock change the one field they name; a write, a word and a cell reach a core that is free, so nothing
else goes on; and the repeated read is outstanding as the first one was. -/
theorem coreEvents : Obligations.CoreEvents := by
  unfold Obligations.CoreEvents
  intro c s live core k
  refine ⟨fun raised unreported alone => ?alone, fun l raised unreported stopped free launch only uncut first => ?first, fun idle drained => ?gate,
    fun addr data free inside start => ?hint, fun slot w r free wire room => ?word,
    fun slot l m id i free cell launch ride up ready => ?cell, fun f lf free tried holds guard ok => ?waitm⟩
  case alone => exact withUnit_calm 2400 c s _ _ core live (excReport_alone raised unreported alone) (coreSet_errs _ _ _) (coreSet_pending _ _ _)
  case first =>
    exact withUnit_calm 2400 c s _ _ core live (excReport_first raised unreported stopped free launch only uncut first) rfl rfl
  case gate =>
    exact withUnit_calm 2400 c s _ _ core live (by simp [show (coreGet s c).st = .idle from idle, show (coreGet s c).sb = [] from drained, k])
      (coreSet_errs _ _ _) (coreSet_pending _ _ _)
  case hint =>
    obtain ⟨-, -, -, tq, -, -, hints, -⟩ := (coreFree_iff _).1 free
    have fits : (plateOk addr data.length && hintRoom k addr data.length) = true := by
      simp [plateOk, plateSize, inside, start, hintRoom, hintArrive_serves k _ _ _ tq hints, hints]
    refine withUnit_calm 2400 c s _ _ core live ?_ (coreSet_errs _ _ _) (coreSet_pending _ _ _)
    simp only [show coreGet s c = k from rfl, fits, if_true, hintArrive_serves k 0 addr data tq hints]
    exact pumpCore_coreSet s c _ free
  case word =>
    have arrives : wordArrive s c slot = coreSet s c { k with
        wire := tabSet (fun _ => []) k.wire slot r, recv := tabSet (fun _ => []) k.recv slot (recvGet k slot ++ [w]) } := by
      simp only [wordArrive, show coreGet s c = k from rfl, wire, Nat.not_le.2 room, if_false]
    exact withUnit_calm 2400 c s _ _ core live (by rw [arrives]; exact pumpCore_coreSet s c _ free) (coreSet_errs _ _ _) (coreSet_pending _ _ _)
  case cell =>
    refine withUnit_calm 2400 c s _ _ core live ?_ rfl rfl
    rw [closeCell_one cell launch ride up ready]
    exact pumpCore_free _ c _ rfl (by rw [coreGet_sendsCell, coreGet_coreSet_same]; exact free)
  case waitm =>
    obtain ⟨t, reads, strip, tiers, regs, started⟩ := exec_waitmReread live core free tried holds guard ok
    exact ⟨t, reads, (congrArg Core.a strip :), (congrArg Core.pc strip :), (congrArg Core.fetched strip :), tiers, regs, started⟩
end

section
/-! PROOFS. The machine right after reset (R495, R514). -/

namespace Sys2Proof.Machine

theorem regs_reset {a : Nat} (other : a ≠ 0x20030) : tabGet regReset State.reset.regs a = regReset a := if_neg other.symm

theorem live_reset : Live State.reset := ⟨by decide, rfl⟩

theorem pairOf_reset (n : Nat) : pairOf State.reset n = 0 := ite_self 0

end Sys2Proof.Machine

open Sys2Proof Sys2Proof.Machine in
/-- Settles O52: every table is empty, so each entry reads as its default. -/
theorem resetState : Obligations.ResetState := by
  unfold Obligations.ResetState
  exact ⟨fun _ => regs_reset, by decide, live_reset, fun _ => rfl, rfl, rfl, rfl, fun _ => ⟨rfl, rfl, rfl⟩, fun _ => ⟨rfl, rfl⟩, fun _ => rfl,
    rfl, rfl, pairOf_reset, rfl, rfl, rfl, fun _ listed => absurd listed List.not_mem_nil⟩
end

section
/-! PROOFS. The scalar slot's registers, predicates, branches and plate accesses (R124, R130 to R136, R144, R145): the fields a scalar
slot command names, and what a slot that issues on its own comes to. -/

namespace Sys2Proof.Machine

/-! ### The fields of a scalar slot command (R130) -/

section Fields
variable (op : Nat) (f : BitVec 26)

@[simp] theorem scG_slotWord : scG (slotWord 26 op f) = fld f 25 22 := bitsOf_fld _ _ _ _ f (by decide) (by decide)
@[simp] theorem scRd_slotWord : scRd (slotWord 26 op f) = fld f 21 17 := bitsOf_fld _ _ _ _ f (by decide) (by decide)
@[simp] theorem scRs1_slotWord : scRs1 (slotWord 26 op f) = fld f 16 12 := bitsOf_fld _ _ _ _ f (by decide) (by decide)
@[simp] theorem scRs2_slotWord : scRs2 (slotWord 26 op f) = fld f 11 7 := bitsOf_fld _ _ _ _ f (by decide) (by decide)
@[simp] theorem scFn_slotWord : scFn (slotWord 26 op f) = fld f 6 0 := bitsOf_fld _ _ _ _ f (by decide) (by decide)
@[simp] theorem scImm12_slotWord : scImm12 (slotWord 26 op f) = fld f 11 0 := bitsOf_fld _ _ _ _ f (by decide) (by decide)
@[simp] theorem scImm17_slotWord : scImm17 (slotWord 26 op f) = fld f 16 0 := bitsOf_fld _ _ _ _ f (by decide) (by decide)
@[simp] theorem scPd_slotWord : scPd (slotWord 26 op f) = fld f 21 19 := bitsOf_fld _ _ _ _ f (by decide) (by decide)
@[simp] theorem scCond_slotWord : scCond (slotWord 26 op f) = fld f 18 16 := bitsOf_fld _ _ _ _ f (by decide) (by decide)
@[simp] theorem scPrs1_slotWord : scPrs1 (slotWord 26 op f) = fld f 15 11 := bitsOf_fld _ _ _ _ f (by decide) (by decide)
@[simp] theorem scPrs2_slotWord : scPrs2 (slotWord 26 op f) = fld f 10 6 := bitsOf_fld _ _ _ _ f (by decide) (by decide)
@[simp] theorem scWidth_slotWord : scWidth (slotWord 26 op f) = fld f 11 9 := bitsOf_fld _ _ _ _ f (by decide) (by decide)
@[simp] theorem scX_slotWord : scX (slotWord 26 op f) = bitOf f.toNat 8 := bitOf_slotWord _ _ _ f (by decide)
@[simp] theorem scOff8_slotWord : scOff8 (slotWord 26 op f) = fld f 7 0 := bitsOf_fld _ _ _ _ f (by decide) (by decide)

end Fields

/-! ### A scalar slot that issues on its own -/

section Sole
variable {i : Sys2Proof.Instr} {s : State} {h : Hdr} {op : Nat} {f : BitVec 26} {a : Arch}

/-- A scalar instruction that is no branch leaves its register effect and goes on to the next bundle. -/
theorem exec_straight (slot : slotOf i = some (h, .sc, slotWord 26 op f)) (sole : soleSc s h op f)
    (straight : scTarget (coreGet s h.core).a (slotWord 26 op f) = none)
    (effect : scLate (coreGet s h.core).a (slotWord 26 op f)
      (scEffect (coreGet s h.core).pc (coreGet s h.core).a (slotWord 26 op f) (coreGet s h.core).a) = a) :
    exec i s = retired s h a ((coreGet s h.core).pc + 1) := by
  rw [exec_slot i s h .sc _ slot, exec_soleSc sole, effect, straight, Option.getD_none]

/-- A branch that is taken leaves its register effect and goes to its target. -/
theorem exec_taken {n : Nat} (slot : slotOf i = some (h, .sc, slotWord 26 op f)) (sole : soleSc s h op f)
    (taken : scTarget (coreGet s h.core).a (slotWord 26 op f) = some n)
    (effect : scLate (coreGet s h.core).a (slotWord 26 op f)
      (scEffect (coreGet s h.core).pc (coreGet s h.core).a (slotWord 26 op f) (coreGet s h.core).a) = a) :
    exec i s = retired s h a n := by
  rw [exec_slot i s h .sc _ slot, exec_soleSc sole, effect, taken, Option.getD_some]

end Sole

/-- No other scalar instruction than BR, BRDEC, JAL and JR branches (R131, R134). -/
theorem scTarget_straight {op : Nat} (p : Arch) (f : BitVec 26) (opcode : op < 64) (other : op ∉ [14, 15, 16, 17]) :
    scTarget p (slotWord 26 op f) = none := by
  unfold scTarget
  rw [scOp_slotWord op f opcode]
  split <;> simp_all

/-! ### ALU functions (R132) -/

/-- p7 … p0 as a number, bit by bit: p0 reads one (R78). -/
theorem predBits_sum (a : Arch) : ((List.range 8).map (fun i => 2 ^ i * bnat (pget a i))).sum = predBits a := by
  have bit : ∀ i, i ≠ 0 → bnat (pget a i) = a.preg / 2 ^ i % 2 := fun i other => by
    rw [pget, if_neg other, Nat.testBit_eq_decide_div_mod_eq, bnat]
    split <;> simp_all
  have first : bnat (pget a 0) = 1 := rfl
  rw [show List.range 8 = [0, 1, 2, 3, 4, 5, 6, 7] from rfl, predBits]
  simp only [List.map_cons, List.map_nil, List.sum_cons, List.sum_nil, first, bit 1, bit 2, bit 3, bit 4, bit 5, bit 6, bit 7, ne_eq,
    OfNat.ofNat_ne_zero, one_ne_zero, not_false_eq_true]
  omega

/-- MUL wraps (R132). -/
theorem ofNat_mul_toNat (x y : W64) : BitVec.ofNat 64 (x.toNat * y.toNat) = x * y := by
  simp [BitVec.ofNat_mul]

end Sys2Proof.Machine

open Sys2Proof Sys2Proof.Machine in
/-- Settles O2: every arm of the table writes `rd` with the value its fields give; MUL wraps as a word product does, a shift count is the
legal field's low six bits, and PRD is the sum of its predicates. -/
theorem scalarArithmetic : Obligations.ScalarArithmetic := by
  unfold Obligations.ScalarArithmetic
  intro h f s k a rd x y imm wr
  have op : ∀ {n}, n < 64 → scOp (slotWord 26 n f) = n := fun small => scOp_slotWord _ f small
  have writes : ∀ {i n v}, slotOf i = some (h, .sc, slotWord 26 n f) → n < 64 → n ∉ [14, 15, 16, 17] → soleSc s h n f →
      scLate a (slotWord 26 n f) (scEffect k.pc a (slotWord 26 n f) a) = sput a rd v → exec i s = wr v :=
    fun slot small other sole effect => exec_straight slot sole (scTarget_straight a f small other) effect
  have alu : ∀ {v}, soleSc s h 1 f → aluFn (fld f 6 0) x y (predBits a) = v → exec (.alu h f) s = wr v := by
    intro v sole value
    exact writes rfl (by decide) (by decide) sole (by simp [scLate, scEffect, op, effAlu, ← value, x, y, rd])
  have shift : ∀ {n}, n = 6 ∨ n = 7 ∨ n = 8 → soleSc s h n f → fld f 11 0 % 64 = fld f 5 0 := by
    intro n which sole
    have legal := soleSc_legal sole
    have high : fld f 11 6 = 0 := by
      rcases which with rfl | rfl | rfl <;> simpa [scLegal, op, bitsOf_fld] using legal
    rw [fld_low f 11 6 0 high (by decide) (by decide)]
    exact Nat.mod_eq_of_lt (fld_lt f 5 0)
  refine ⟨fun sole => ?nop, fun sole => ⟨fun o => ?add, fun o => ?sub, fun o => ?and, fun o => ?or, fun o => ?xor, fun o => ?sll, fun o => ?srl,
    fun o => ?sra, fun o => ?mul, fun o => ?mulhu, fun o => ?mulh, fun o => ?min, fun o => ?max, fun o => ?minu, fun o => ?maxu, fun o => ?prd⟩,
    fun sole => ?addi, fun sole => ?andi, fun sole => ?ori, fun sole => ?xori, fun sole => ?shli, fun sole => ?shri, fun sole => ?sari,
    fun sole => ?li, fun sole => ?lih⟩
  case nop => exact exec_straight rfl sole (scTarget_straight a f (by decide) (by decide)) (by simp [scLate, scEffect, op, effNop, a, k])
  case addi => exact writes rfl (by decide) (by decide) sole (by simp [scLate, scEffect, op, effAddi, sext64, x, rd])
  case andi => exact writes rfl (by decide) (by decide) sole (by simp [scLate, scEffect, op, effAndi, imm, x, rd])
  case ori => exact writes rfl (by decide) (by decide) sole (by simp [scLate, scEffect, op, effOri, imm, x, rd])
  case xori => exact writes rfl (by decide) (by decide) sole (by simp [scLate, scEffect, op, effXori, imm, x, rd])
  case shli => exact writes rfl (by decide) (by decide) sole (by simp [scLate, scEffect, op, effShli, shift (by decide) sole, x, rd])
  case shri => exact writes rfl (by decide) (by decide) sole (by simp [scLate, scEffect, op, effShri, shift (by decide) sole, x, rd])
  case sari => exact writes rfl (by decide) (by decide) sole (by simp [scLate, scEffect, op, effSari, shift (by decide) sole, x, rd])
  case li => exact writes rfl (by decide) (by decide) sole (by simp [scLate, scEffect, op, effLi, sext64, rd])
  case lih => exact writes rfl (by decide) (by decide) sole (by simp [scLate, scEffect, op, effLih, rd])
  case mul => exact alu sole (by rw [o, ofNat_mul_toNat]; rfl)
  case prd => exact alu sole (by rw [o, predBits_sum]; rfl)
  all_goals exact alu sole (by rw [o]; rfl)

open Sys2Proof Sys2Proof.Machine in
/-- Settles O3: a comparison is its condition on the fields' registers, and a branch is taken exactly where it names a target. -/
theorem predicatesAndBranches : Obligations.PredicatesAndBranches := by
  unfold Obligations.PredicatesAndBranches
  intro h f s k a next cmp p q rs down
  have op : ∀ {n}, n < 64 → scOp (slotWord 26 n f) = n := fun small => scOp_slotWord _ f small
  have puts : ∀ {i n v}, slotOf i = some (h, .sc, slotWord 26 n f) → n < 64 → n ∉ [14, 15, 16, 17] → soleSc s h n f →
      scLate a (slotWord 26 n f) (scEffect k.pc a (slotWord 26 n f) a) = pput a (fld f 21 19) v →
      exec i s = retired s h (pput a (fld f 21 19) v) next :=
    fun slot small other sole effect => exec_straight slot sole (scTarget_straight a f small other) effect
  have compares : ∀ {i} {x y : W64}, (∀ c, fld f 18 16 = c → exec i s = retired s h (pput a (fld f 21 19) (condFn c x y)) next) → cmp i x y :=
    fun all => ⟨all 0, all 1, all 2, all 3, all 4, all 5⟩
  refine ⟨fun sole => compares ?pcmp, fun sole => compares ?pcmpi, fun sole => ⟨fun o => ?and, fun o => ?or, fun o => ?xor, fun o => ?andn⟩,
    fun sole => ?br, fun sole => ⟨fun goes => ?taken, fun ends => ?notTaken⟩, fun sole => ?jal, fun sole => ?jr⟩
  case pcmp =>
    intro c cond
    exact puts rfl (by decide) (by decide) sole (by simp [scLate, scEffect, op, effPcmp, cond])
  case pcmpi =>
    intro c cond
    exact puts rfl (by decide) (by decide) sole (by simp [scLate, scEffect, op, effPcmpi, cond, sext64, bitsOf_fld])
  case br => exact exec_taken rfl sole (by simp [scTarget, op, bitsOf_fld]) (by simp [scLate, scEffect, op, effNop, a, k])
  case taken =>
    exact exec_taken rfl sole (by simpa [scTarget, op, bitsOf_fld, down, rs, a, k] using goes) (by simp [scLate, scEffect, op, effBrdec, bitsOf_fld, down, rs, a, k])
  case notTaken =>
    exact exec_straight rfl sole (by simpa [scTarget, op, bitsOf_fld, down, rs, a, k] using ends) (by simp [scLate, scEffect, op, effBrdec, bitsOf_fld, down, rs, a, k])
  case jal => exact exec_taken rfl sole (by simp [scTarget, op, bitsOf_fld]) (by simp [scLate, scEffect, op, effJal, a, k, next])
  case jr => exact exec_taken rfl sole (by simp [scTarget, op, a, k]) (by simp [scLate, scEffect, op, effNop, a, k])
  all_goals exact puts rfl (by decide) (by decide) sole (by simp [scLate, scEffect, op, effPlog, bitsOf_fld, o, p, q])

namespace Sys2Proof.Machine

/-! ### Plate accesses of the scalar slot (R135, R136) -/

/-- A one-bit field. -/
theorem bitOf_eq_fld {n : Nat} (f : BitVec n) (i : Nat) : bitOf f.toNat i = decide (fld f i i = 1) := by
  simp [bitOf, fld, bitsOf, Nat.testBit_eq_decide_div_mod_eq, Nat.shiftRight_eq_div_pow]

/-- A field of bytes read from the plate is the plate's bytes there. -/
theorem fieldAt_plateGet (a : Arch) {p n o m : Nat} (within : o + m ≤ n) : fieldAt (plateGet a p n) o m = leNat (plateGet a (p + o) m) := by
  rw [fieldAt, plateGet, tabBytes, bytesFrom_slice _ _ _ _ _ within, plateGet, tabBytes]

/-- A load of up to eight bytes extends them by zeros or by their sign. -/
theorem loadInto_plate_narrow (a b : Arch) {width : Nat} (narrow : width ≤ 3) (rd p : Nat) (sx : Bool) :
    loadInto a width rd sx (plateGet b p (smSize width)) = sput a rd
      (if sx then BitVec.ofInt 64 (sextInt (8 * smSize width) (leNat (plateGet b p (smSize width))))
        else BitVec.ofNat 64 (leNat (plateGet b p (smSize width)))) := by
  have whole : fieldAt (plateGet b p (smSize width)) 0 (smSize width) = leNat (plateGet b p (smSize width)) :=
    fieldAt_plateGet b (by omega)
  unfold loadInto sext64
  rw [whole]
  split <;> first | omega | rfl

/-- A load of 16 bytes fills a pair of registers. -/
theorem loadInto_plate_pair (a b : Arch) (rd p : Nat) (sx : Bool) :
    loadInto a 4 rd sx (plateGet b p 16) = sput (sput a rd (BitVec.ofNat 64 (leNat (plateGet b p 8)))) (rd + 1)
      (BitVec.ofNat 64 (leNat (plateGet b (p + 8) 8))) := by
  simp only [loadInto, fieldAt_plateGet b (show 0 + 8 ≤ 16 by decide), fieldAt_plateGet b (show 8 + 8 ≤ 16 by decide), Nat.add_zero]

/-- A store of up to eight bytes writes the low bytes of its register. -/
theorem storeBytes_narrow (p : Arch) {width : Nat} (narrow : width ≤ 3) (rd : Nat) :
    storeBytes p width rd = leBytes (smSize width) (sget p rd).toNat := by
  unfold storeBytes
  split <;> first | omega | rfl

section Plate
variable {s : State} {h : Hdr} {f : BitVec 26}

/-- The plate address of a scalar slot's access, rounded down to its size. -/
theorem plateAlign_slotVa (s : State) (h : Hdr) (op : Nat) (f : BitVec 26) :
    plateAlign (smAddr (coreGet s h.core).a (slotWord 26 op f)) (smSize (fld f 11 9)) =
      slotVa s h f / smSize (fld f 11 9) * smSize (fld f 11 9) := by
  simp [plateAlign, smAddr, slotVa]

theorem exec_ldp (sole : soleSc s h 18 f) : exec (.ldp h f) s = retired s h (loadInto (coreGet s h.core).a (fld f 11 9) (fld f 21 17)
    (bitOf f.toNat 8) (plateGet (coreGet s h.core).a (slotVa s h f / smSize (fld f 11 9) * smSize (fld f 11 9)) (smSize (fld f 11 9))))
    ((coreGet s h.core).pc + 1) :=
  exec_straight rfl sole (scTarget_straight _ f (by decide) (by decide))
    (by simp [scLate, scEffect, scOp_slotWord 18 f, effLdp, plateAlign_slotVa])

theorem exec_stp (sole : soleSc s h 19 f) : exec (.stp h f) s = retired s h (platePut (coreGet s h.core).a
    (slotVa s h f / smSize (fld f 11 9) * smSize (fld f 11 9)) (storeBytes (coreGet s h.core).a (fld f 11 9) (fld f 21 17)))
    ((coreGet s h.core).pc + 1) :=
  exec_straight rfl sole (scTarget_straight _ f (by decide) (by decide))
    (by simp [scLate, scEffect, scOp_slotWord 19 f, effStp, plateAlign_slotVa])

end Plate

end Sys2Proof.Machine

open Sys2Proof Sys2Proof.Machine in
/-- Settles O4: LDP and STP by width, and the flag and stipple instructions, which read and write the fields their slot names. -/
theorem plateFlagsAndStipples : Obligations.PlateFlagsAndStipples := by
  unfold Obligations.PlateFlagsAndStipples
  intro h f s k a next rd n ad st str
  have op : ∀ {n}, n < 64 → scOp (slotWord 26 n f) = n := fun small => scOp_slotWord _ f small
  have leaves : ∀ {i n b}, slotOf i = some (h, .sc, slotWord 26 n f) → n < 64 → n ∉ [14, 15, 16, 17] → soleSc s h n f →
      scLate a (slotWord 26 n f) (scEffect k.pc a (slotWord 26 n f) a) = b → exec i s = retired s h b next :=
    fun slot small other sole effect => exec_straight slot sole (scTarget_straight a f small other) effect
  have loads : soleSc s h 18 f → exec (.ldp h f) s = retired s h (loadInto a (fld f 11 9) rd (bitOf f.toNat 8) (plateGet a ad n)) next := exec_ldp
  have stores : soleSc s h 19 f → exec (.stp h f) s = retired s h (platePut a ad (storeBytes a (fld f 11 9) rd)) next := exec_stp
  refine ⟨fun sole => ⟨fun o => ?ldpZero, fun o => ?ldpSign, fun o => ?ldpPair, fun o => ?ldpVector⟩,
    fun sole => ⟨fun o => ?stpNarrow, fun o => ?stpPair, fun o => ?stpVector⟩, fun sole => ?nflr, fun sole => ?nflc, fun sole => ?spk,
    fun sole => ?spc, fun sole => ⟨fun o => ?key, fun o => ?low, fun o => ?high, fun o => ?draws⟩⟩
  case ldpZero => rw [loads sole, loadInto_plate_narrow a a o.1, bitOf_eq_fld, o.2]; rfl
  case ldpSign => rw [loads sole, loadInto_plate_narrow a a (by omega), bitOf_eq_fld, o.2]; rfl
  case ldpPair => rw [loads sole, show n = 16 by simp only [n, o, smSize], o, loadInto_plate_pair]
  case ldpVector => rw [loads sole, show n = 256 by simp only [n, o, smSize], o]; rfl
  case stpNarrow => rw [stores sole, storeBytes_narrow a o]
  case stpPair => rw [stores sole, o]; rfl
  case stpVector => rw [stores sole, o]; rfl
  case nflr => exact leaves rfl (by decide) (by decide) sole (by simp [scLate, scEffect, op, effNflr, rd])
  case nflc => exact leaves rfl (by decide) (by decide) sole (by simp [scLate, scEffect, op, effNflc, bitsOf_fld])
  case spk => exact leaves rfl (by decide) (by decide) sole (by simp [scLate, scEffect, op, effNop, effSpk, bitsOf_fld, st, str])
  case spc => exact leaves rfl (by decide) (by decide) sole (by simp [scLate, scEffect, op, effNop, effSpc, bitsOf_fld, st, str])
  all_goals exact leaves rfl (by decide) (by decide) sole (by simp [scLate, scEffect, op, effSpr, bitsOf_fld, o, st, str, rd])
end

section
/-! PROOFS. Issue of a bundle that does nothing, does not decode, ends or traps (R115 to R117, R124, R127, R134, R136, R138, R143). -/

namespace Sys2Proof.Machine

/-! ### A false guard (R124) -/

/-- A lone slot whose guard is false acts as no slot at all. -/
theorem acts_guardFalse {a : Arch} {kind : SlotKind} {w : Nat} (off : guardOk a (slotGuard kind w) = false) :
    scAct a (slotPut slots0 kind w) = 0 ∧ vAct a (slotPut slots0 kind w) = 0 ∧ tAct a (slotPut slots0 kind w) = 0 := by
  cases kind <;> simp_all [slotGuard]

/-! ### A bundle that does not decode (R127) -/

/-- A fresh core stops at a bundle that does not decode. -/
theorem giveSlot_illegal (s : State) (h : Hdr) (kind : SlotKind) (w : Nat) (last : h.last = true) (fresh : freshCore s h.core)
    (illegal : bundleLegal (slotPut slots0 kind w) = false) :
    giveSlot s h kind w = coreSet s h.core { coreGet s h.core with
      st := .stopped, exc := xcILLEGAL, excB := (coreGet s h.core).pc, rep := false, lastNf := (coreGet s h.core).a.nflags } :=
  giveSlot_raise s h kind w xcILLEGAL last fresh (by decide)
    (tryIssue_illegal _ h.core (coreGet s h.core) _ (coreGet_coreSet_same _ _ _) fresh.2.1 illegal)

/-! ### What issue does with the one bundle of a core (R79, R129, R136, R138) -/

/-- A core that holds a bundle in issue, and no other. -/
def holding (k : Core) (b : Slots) : Core := { k with fetched := [b] }

/-- The same core while its wait has been tried or is satisfied (R139, R140). -/
def waiting (k : Core) (b : Slots) (tried ok : Bool) : Core := { k with fetched := [b], waitTry := tried, waitOk := ok }

section Issue
variable {s : State} {c : Nat} {k : Core} {b : Slots}

@[simp] theorem holding_a : (holding k b).a = k.a := rfl
@[simp] theorem holding_pc : (holding k b).pc = k.pc := rfl
@[simp] theorem holding_klen : (holding k b).klen = k.klen := rfl
@[simp] theorem holding_fetched : (holding k b).fetched = [b] := rfl

theorem holding_eq_waiting (free : coreFree k = true) (b : Slots) : holding k b = waiting k b false false := by
  obtain ⟨-, -, -, -, -, -, -, -, tried, ok⟩ := (coreFree_iff k).1 free
  simp [holding, waiting, tried, ok]

theorem holding_one (free : coreFree k = true) (b : Slots) : HoldsOne (holding k b) b := HoldsOne.of_free free

/-- A core that has nothing outstanding is ready for every bundle. -/
theorem issueReady_nothing (still : coreStill k) (sw vw tw : Nat) : issueReady k sw vw tw = true := by
  obtain ⟨tq, loads, -, -⟩ := still
  simp [issueReady, regsReady, pendS, pendV, tq, loads, meets, plateReady, sideReady, acqBusy]

/-- TRAP raises its exception (R138). -/
theorem tryIssue_trap (core : coreGet s c = holding k b) (free : coreFree k = true) (legal : bundleLegal b = true)
    (trap : scOp (scAct k.a b) = 62) : tryIssue s c = raiseExc s c xcTRAP k.pc := by
  have one := holding_one free b
  simp [tryIssue, core, one.st, one.ended, barMet, one.bar, barEnd, legal, issueReady_nothing one.still, trap]

/-- A plate access beyond the plate raises its exception (R136). -/
theorem tryIssue_beyondPlate (core : coreGet s c = holding k b) (free : coreFree k = true) (legal : bundleLegal b = true)
    (other : scOp (scAct k.a b) ≠ 62) (beyond : scPlateOk k.a (scAct k.a b) = false) : tryIssue s c = raiseExc s c xcPLATE k.pc := by
  have one := holding_one free b
  simp [tryIssue, core, one.st, one.ended, barMet, one.bar, barEnd, legal, issueReady_nothing one.still, other, beyond]

/-- A bundle whose scalar slot neither traps, nor waits, nor accesses memory issues. -/
theorem tryIssue_issues (core : coreGet s c = holding k b) (free : coreFree k = true) (legal : bundleLegal b = true)
    (other : scOp (scAct k.a b) ∉ [26, 27, 62]) (noMemory : scIsMem (scAct k.a b) = false)
    (scalarPlate : scPlateOk k.a (scAct k.a b) = true) (vectorPlate : vPlateOk k.a (vAct k.a b) = true) :
    tryIssue s c = issueBundle s c (scAct k.a b) (vAct k.a b) (tAct k.a b) none := by
  have one := holding_one free b
  simp only [List.mem_cons, List.not_mem_nil, or_false, not_or] at other
  simp [tryIssue, core, one.st, one.ended, barMet, one.bar, barEnd, legal, issueReady_nothing one.still, other, noMemory, scalarPlate,
    vectorPlate]

/-- A running core without loads and stores stops issue at an exception. -/
theorem raiseExc_still {x n : Nat} (core : coreGet s c = k) (running : k.st = .running) (loads : k.loads = []) (sb : k.sb = []) :
    raiseExc s c x n = coreSet s c { k with
      st := .stopping, fetched := [], latch := slots0, bar := 0, waitTry := false, waitOk := false, ended := false
      exc := x, excB := n, rep := false } := by
  simp [raiseExc, core, running, stopIssue, haltIssue, sbDrainAll, loads, sb]

/-- A core whose one bundle, of the scalar slot value `w` alone and no memory access, has issued. -/
def issuedSc (k : Core) (w : Nat) : Core :=
  { k with a := scLate k.a w (scEffect k.pc k.a w k.a), pc := (scTarget k.a w).getD (k.pc + 1), ended := scOp w == 63,
           bar := if scOp w = 25 then scFn w + 1 else 0 }

/-- A lone scalar slot issues; a next bundle beyond the kernel raises an exception after the effect (R134). -/
theorem issueBundle_sc {w : Nat} {tried ok : Bool} (core : coreGet s c = waiting k b tried ok) (free : coreFree k = true) :
    issueBundle s c w 0 0 none =
      if scOp w == 63 || decide ((issuedSc k w).pc < k.klen) then coreSet s c (issuedSc k w)
      else raiseExc (coreSet s c (issuedSc k w)) c xcIBUF k.pc := by
  obtain ⟨running, going, fetched, tq, loads, sb, hints, bar, wtry, wok⟩ := (coreFree_iff k).1 free
  have drained : ∀ k : Core, k.sb = [] → sbDrainAll k = k := fun k empty => by cases k; simp_all [sbDrainAll]
  simp [issueBundle, core, drained, waiting, bundleEntry, tQueued, bundleEffect_sc, issuedSc, fetched, tq, sb, wtry, wok]

end Issue

section Fresh
variable {i : Sys2Proof.Instr} {s : State} {h : Hdr} {op : Nat} {f : BitVec 26}

theorem freshSc_free (fresh : freshSc s h op f) : coreFree (coreGet s h.core) = true := fresh.2.2.1.2.1

/-- The bundle of a fresh core's lone scalar slot: it decodes, and its slot acts. -/
theorem freshSc_acts (fresh : freshSc s h op f) : bundleLegal (slotPut slots0 .sc (slotWord 26 op f)) = true ∧
    scAct (coreGet s h.core).a (slotPut slots0 .sc (slotWord 26 op f)) = slotWord 26 op f := by
  obtain ⟨-, -, -, guard, legal⟩ := fresh
  exact ⟨bundleLegal_sc _ legal, by rw [scAct_sc, scG_slotWord, if_pos guard]⟩

/-- A fresh core that raises an exception before any effect is STOPPED with it (R116, R117). -/
theorem exec_raises {x : Nat} (slot : slotOf i = some (h, .sc, slotWord 26 op f)) (fresh : freshSc s h op f) (some : x ≠ 0)
    (raises : ∀ t, coreGet t h.core = holding (coreGet s h.core) (slotPut slots0 .sc (slotWord 26 op f)) →
      tryIssue t h.core = raiseExc t h.core x (coreGet s h.core).pc) :
    exec i s = excepted s h.core x (coreGet s h.core).a (coreGet s h.core).pc := by
  obtain ⟨live, last, room, -, -⟩ := fresh
  rw [exec_slot i s h .sc _ slot]
  exact exec_giveSlot live room.1 (giveSlot_raise s h .sc _ x last room some (raises _ (coreGet_coreSet_same _ _ _)))
    (coreSet_errs _ _ _) (coreSet_pending _ _ _)

/-- A plate access beyond the plate stops the core (R136). -/
theorem exec_beyondPlate (slot : slotOf i = some (h, .sc, slotWord 26 op f)) (fresh : freshSc s h op f) (plate : op = 18 ∨ op = 19)
    (beyond : 0x180000 < slotVa s h f / smSize (fld f 11 9) * smSize (fld f 11 9) + smSize (fld f 11 9)) :
    exec i s = excepted s h.core 3 (coreGet s h.core).a (coreGet s h.core).pc := by
  obtain ⟨legal, act⟩ := freshSc_acts fresh
  have code : scOp (slotWord 26 op f) = op := scOp_slotWord op f (by omega)
  have size : smSize (fld f 11 9) ≠ 0 := by unfold smSize; split <;> decide
  have out : plateOk (slotVa s h f / smSize (fld f 11 9) * smSize (fld f 11 9)) (smSize (fld f 11 9)) = false := by
    simp [plateOk, plateSize, Nat.not_le.mpr beyond]
  have scalar : scPlateOk (coreGet s h.core).a (slotWord 26 op f) = false := by
    rcases plate with rfl | rfl <;> simp [scPlateOk, scPlateRead, scPlateWrite, code, plateAlign_slotVa, out, size]
  refine exec_raises slot fresh (by decide) fun t core => tryIssue_beyondPlate core (freshSc_free fresh) legal ?_ ?_
  · rw [act, code]; omega
  · rw [act]; exact scalar

/-- The bundle of a fresh core's lone scalar slot that neither traps, nor waits, nor accesses memory, as it meets issue. -/
theorem tryIssue_fresh (fresh : freshSc s h op f) (small : op < 64) (other : op ∉ [26, 27, 62]) (noMemory : op < 18 ∨ 24 < op) :
    tryIssue (coreSet s h.core (holding (coreGet s h.core) (slotPut slots0 .sc (slotWord 26 op f)))) h.core =
      if op == 63 || decide ((issuedSc (coreGet s h.core) (slotWord 26 op f)).pc < (coreGet s h.core).klen) then
        coreSet s h.core (issuedSc (coreGet s h.core) (slotWord 26 op f))
      else raiseExc (coreSet s h.core (issuedSc (coreGet s h.core) (slotWord 26 op f))) h.core xcIBUF (coreGet s h.core).pc := by
  obtain ⟨legal, act⟩ := freshSc_acts fresh
  have core := coreGet_coreSet_same s h.core (holding (coreGet s h.core) (slotPut slots0 .sc (slotWord 26 op f)))
  have code : scOp (slotWord 26 op f) = op := scOp_slotWord op f small
  have notPlate : op ≠ 18 ∧ op ≠ 19 ∧ op ≠ 26 := by simp at other; omega
  have plate : scPlateOk (coreGet s h.core).a (slotWord 26 op f) = true := by simp [scPlateOk, scPlateRead, code, notPlate]
  have issues := tryIssue_issues core (freshSc_free fresh) legal (by rw [act, code]; exact other)
    (by rw [act, scIsMem, code]; simp; omega) (by rw [act]; exact plate) (by simp [vPlateOk])
  rw [issues, act, vAct_sc, tAct_sc, issueBundle_sc (core.trans (holding_eq_waiting (freshSc_free fresh) _)) (freshSc_free fresh), code, coreSet_coreSet]

/-- What an issued scalar slot leaves as it was. -/
theorem issuedSc_still {k : Core} (free : coreFree k = true) (w : Nat) : coreStill (issuedSc k w) ∧ (issuedSc k w).fetched = [] := by
  obtain ⟨-, -, fetched, tq, loads, sb, hints, -, -, -⟩ := (coreFree_iff k).1 free
  exact ⟨⟨tq, loads, sb, hints⟩, fetched⟩

/-- A fresh core's lone scalar slot that neither traps, nor waits, nor accesses memory, and whose next bundle is in the kernel: the core
has issued it, and ends if it is END. -/
theorem giveSlot_inKernel (fresh : freshSc s h op f) (small : op < 64) (other : op ∉ [26, 27, 62]) (noMemory : op < 18 ∨ 24 < op)
    (inside : op = 63 ∨ (issuedSc (coreGet s h.core) (slotWord 26 op f)).pc < (coreGet s h.core).klen) :
    giveSlot s h .sc (slotWord 26 op f) = coreFinish (coreSet s h.core (issuedSc (coreGet s h.core) (slotWord 26 op f))) h.core := by
  obtain ⟨still, fetched⟩ := issuedSc_still (freshSc_free fresh) (slotWord 26 op f)
  have issued := tryIssue_fresh fresh small other noMemory
  rw [if_pos (by simpa using inside)] at issued
  obtain ⟨-, last, room, -, -⟩ := fresh
  exact giveSlot_fresh s h .sc _ last room _ issued (by rw [coreGet_coreSet_same]; exact still) (by rw [coreGet_coreSet_same]; exact fetched)

/-- A branch out of the kernel stops the core after its register effect (R134). -/
theorem exec_branchOut {n : Nat} (slot : slotOf i = some (h, .sc, slotWord 26 op f)) (fresh : freshSc s h op f) (branch : op = 14 ∨ op = 17)
    (target : scTarget (coreGet s h.core).a (slotWord 26 op f) = some n) (out : (coreGet s h.core).klen ≤ n) :
    exec i s = excepted s h.core 2 (coreGet s h.core).a n := by
  have code : scOp (slotWord 26 op f) = op := scOp_slotWord op f (by omega)
  have free := (coreFree_iff _).1 (freshSc_free fresh)
  have issued := tryIssue_fresh fresh (by omega) (by rcases branch with rfl | rfl <;> decide) (by omega)
  have goes : issuedSc (coreGet s h.core) (slotWord 26 op f) = { coreGet s h.core with pc := n } := by
    obtain ⟨-, going, -, -, -, -, -, bar, -, -⟩ := free
    rcases branch with rfl | rfl <;> simp [issuedSc, scLate, scEffect, code, effNop, target, ← going, ← bar]
  obtain ⟨running, going, fetched, tq, loads, sb, hints, bar, wtry, wok⟩ := free
  obtain ⟨live, last, room, -, -⟩ := fresh
  have not63 : (op == 63) = false := by rcases branch with rfl | rfl <;> rfl
  rw [goes, not63, Bool.false_or, if_neg (by simpa using out), raiseExc_still (coreGet_coreSet_same _ _ _) (by exact running)
    (by exact loads) (by exact sb), coreSet_coreSet] at issued
  have given := giveSlot_fresh s h .sc _ last room _ issued (by rw [coreGet_coreSet_same]; exact ⟨tq, loads, sb, hints⟩)
    (by rw [coreGet_coreSet_same])
  rw [coreFinish_stopping _ _ _ (coreGet_coreSet_same _ _ _) rfl (by simp [xcIBUF]) (by exact tq) (by exact sb) (by exact loads) rfl rfl, coreSet_coreSet] at given
  rw [exec_slot i s h .sc _ slot, exec_giveSlot live room.1 given rfl rfl, excepted]
  obtain ⟨-, -, latch⟩ := room
  generalize coreGet s h.core = k at *
  cases k
  simp_all [xcIBUF]

end Fresh

end Sys2Proof.Machine

open Sys2Proof Sys2Proof.Machine in
/-- Settles O6: no slot of the bundle acts, so its effect is the empty bundle's. -/
theorem falseGuardsDoNothing : Obligations.FalseGuardsDoNothing := by
  unfold Obligations.FalseGuardsDoNothing
  intro i s h kind w slot live last ready off
  obtain ⟨sc, vec, ten⟩ := acts_guardFalse off
  have given := giveSlot_lone s h kind w last ready
  rw [sc, vec, ten, bundleEffect_nop, scTarget_zero, Option.getD_none] at given
  rw [exec_slot i s h kind w slot]
  exact exec_giveSlot live ((loneReady_iff _ _ _ _).1 ready).1 given (coreSet_errs _ _ _) (coreSet_pending _ _ _)

open Sys2Proof Sys2Proof.Machine in
/-- Settles O7: the bundle fails at decode, before any guard is read. -/
theorem illegalBundlesRaise : Obligations.IllegalBundlesRaise := by
  unfold Obligations.IllegalBundlesRaise
  intro i s h kind w slot live last fresh illegal
  rw [exec_slot i s h kind w slot]
  exact exec_giveSlot live fresh.1 (giveSlot_illegal s h kind w last fresh illegal) (coreSet_errs _ _ _) (coreSet_pending _ _ _)

open Sys2Proof Sys2Proof.Machine in
/-- Settles O8: TRAP and the plate exceptions come before any effect, a branch out of the kernel after it; END and BAR issue and leave their
mark. -/
theorem kernelEndsAndTraps : Obligations.KernelEndsAndTraps := by
  unfold Obligations.KernelEndsAndTraps
  intro h f s k n
  refine ⟨fun fresh => ?trap, fun fresh => ?endK, fun fresh inside => ?bar, fun fresh beyond => ?br, fun fresh beyond => ?jr,
    fun fresh beyond => ?ldp, fun fresh beyond => ?stp⟩
  case trap =>
    obtain ⟨legal, act⟩ := freshSc_acts fresh
    refine exec_raises rfl fresh (by decide) fun t core => tryIssue_trap core (freshSc_free fresh) legal ?_
    rw [act, scOp_slotWord _ _ (by decide)]
  case ldp => exact exec_beyondPlate rfl fresh (.inl rfl) beyond
  case stp => exact exec_beyondPlate rfl fresh (.inr rfl) beyond
  case br => exact exec_branchOut rfl fresh (.inl rfl) (by simp [scTarget, scOp_slotWord 14 f, bitsOf_fld]) beyond
  case jr => exact exec_branchOut rfl fresh (.inr rfl) (by simp [scTarget, scOp_slotWord 17 f, k]) beyond
  case endK =>
    have given := giveSlot_inKernel fresh (by decide) (by decide) (by decide) (.inl rfl)
    obtain ⟨running, going, fetched, tq, loads, sb, -, bar, -, -⟩ := (coreFree_iff _).1 (freshSc_free fresh)
    obtain ⟨live, last, ⟨core, -, latch⟩, -, -⟩ := fresh
    have op := scOp_slotWord 63 f (by decide)
    rw [coreFinish_ended _ _ (issuedSc k (slotWord 26 63 f)) (coreGet_coreSet_same _ _ _) running (by simp [issuedSc, op]) tq sb loads latch fetched, coreSet_coreSet] at given
    rw [exec_slot _ s h .sc _ rfl, exec_giveSlot live core given rfl rfl]
    simp [issuedSc, op, scLate, scEffect, effNop, scTarget, ← bar, ← going, k]
  case bar =>
    have op := scOp_slotWord 25 f (by decide)
    have given := giveSlot_inKernel fresh (by decide) (by decide) (by decide) (.inr (by simpa [issuedSc, scTarget, op] using inside))
    obtain ⟨running, going, -⟩ := (coreFree_iff _).1 (freshSc_free fresh)
    obtain ⟨live, last, ⟨core, -, -⟩, -, -⟩ := fresh
    rw [coreFinish_running _ _ (by rw [coreGet_coreSet_same]; exact running) (by simp [issuedSc, op])] at given
    rw [exec_slot _ s h .sc _ rfl, exec_giveSlot live core given rfl rfl]
    simp [issuedSc, op, scLate, scEffect, effNop, scTarget, ← going, k]
end

section
/-! PROOFS. The waits (R139, R140, R142): a bundle that holds on WAITP or WAITM holds as a whole. -/

namespace Sys2Proof.Machine

/-! ### The last slot of a bundle, whichever it is -/

/-- The last slot given to a free core: the core holds the bundle and goes on. -/
theorem giveSlot_holding (s : State) (h : Hdr) (kind : SlotKind) (w : Nat) (last : h.last = true) (free : coreFree (coreGet s h.core) = true) :
    giveSlot s h kind w =
      pumpCore (coreSet s h.core (holding { coreGet s h.core with latch := slots0 } (slotPut (coreGet s h.core).latch kind w))) h.core := by
  obtain ⟨running, going, fetched, -⟩ := (coreFree_iff _).1 free
  simp [giveSlot, last, latchSlot, running, going, fetched, holding]

/-! ### WAITP (R139) -/

section Waitp
variable {s : State} {c : Nat} {k : Core} {b : Slots} {f : BitVec 26}

/-- The word WAITP waits for, at the plate address of its field. -/
theorem scPlateRead_waitp (a : Arch) (f : BitVec 26) : scPlateRead a (slotWord 26 26 f) = ((sget a (fld f 16 12)).toNat / 8 * 8, 8) := by
  simp [scPlateRead, scOp_slotWord 26 f, plateAlign]

theorem scPlateOk_waitp {a : Arch} (within : (sget a (fld f 16 12)).toNat / 8 * 8 + 8 ≤ 0x180000) :
    scPlateOk a (slotWord 26 26 f) = true := by
  simp [scPlateOk, scOp_slotWord 26 f, scPlateRead_waitp, plateOk, plateSize]
  omega

/-- WAITP issues once it is satisfied, and goes on holding otherwise. -/
theorem tryIssue_waitp {tried ok : Bool} (core : coreGet s c = waiting k b tried ok) (free : coreFree k = true) (legal : bundleLegal b = true)
    (act : scAct k.a b = slotWord 26 26 f) (vectorPlate : vPlateOk k.a (vAct k.a b) = true)
    (within : (sget k.a (fld f 16 12)).toNat / 8 * 8 + 8 ≤ 0x180000) :
    tryIssue s c =
      if ok || decide ((sget k.a (fld f 11 7)).toNat ≤ leNat (plateGet k.a ((sget k.a (fld f 16 12)).toNat / 8 * 8) 8)) && !tried then
        issueBundle s c (slotWord 26 26 f) (vAct k.a b) (tAct k.a b) none
      else coreSet s c (waiting k b true ok) := by
  obtain ⟨running, going, -, -, -, -, -, bar, -, -⟩ := (coreFree_iff k).1 free
  have still : coreStill (waiting k b tried ok) := (coreFree_still free : coreStill k)
  have plate : scPlateOk k.a (slotWord 26 26 f) = true := scPlateOk_waitp within
  have fields : (waiting k b tried ok).a = k.a ∧ (waiting k b tried ok).st = .running ∧ (waiting k b tried ok).ended = false ∧
      (waiting k b tried ok).bar = 0 ∧ (waiting k b tried ok).waitTry = tried ∧ (waiting k b tried ok).waitOk = ok ∧
      (waiting k b tried ok).fetched = [b] := ⟨rfl, running, going, bar, rfl, rfl, rfl⟩
  simp [tryIssue, core, fields, barMet, barEnd, legal, act, issueReady_nothing still, scOp_slotWord 26 f, plate, vectorPlate,
    scPlateRead_waitp, coreMap]
  simp [waiting, running, going, bar]

/-- A core whose wait goes on, and that holds nothing else, does nothing more. -/
theorem pumpCore_waits (core : coreGet s c = holding k b) (free : coreFree k = true)
    (tries : tryIssue s c = coreSet s c (waiting k b true false)) : pumpCore s c = coreSet s c (waiting k b true false) := by
  obtain ⟨running, going, -, tq, -⟩ := (coreFree_iff k).1 free
  exact pumpCore_holds s c b (core ▸ holding_one free b) _ tries (by simpa [waiting] using tq) (by simp [waiting])
    (by simpa [waiting] using running) (by simpa [waiting] using going)

/-- A core whose lone WAITP is satisfied issues it and goes on to the next bundle. -/
theorem pumpCore_waitpMet {tried ok : Bool} (core : coreGet s c = waiting k (slotPut slots0 .sc (slotWord 26 26 f)) tried ok)
    (free : coreFree k = true) (legal : scLegal (slotWord 26 26 f) = true) (guard : guardOk k.a (fld f 25 22) = true)
    (within : (sget k.a (fld f 16 12)).toNat / 8 * 8 + 8 ≤ 0x180000)
    (met : ok = true ∨ tried = false ∧
      (sget k.a (fld f 11 7)).toNat ≤ leNat (plateGet k.a ((sget k.a (fld f 16 12)).toNat / 8 * 8) 8))
    (inside : k.pc + 1 < k.klen) : pumpCore s c = coreSet s c { k with pc := k.pc + 1 } := by
  have op := scOp_slotWord 26 f (by decide)
  have act : scAct k.a (slotPut slots0 .sc (slotWord 26 26 f)) = slotWord 26 26 f := by rw [scAct_sc, scG_slotWord, if_pos guard]
  have tries := tryIssue_waitp core free (bundleLegal_sc _ legal) act (by simp [vPlateOk]) within
  obtain ⟨running, going, fetched, tq, loads, sb, hints, bar, -, -⟩ := (coreFree_iff k).1 free
  have issued : issuedSc k (slotWord 26 26 f) = { k with pc := k.pc + 1 } := by
    simp [issuedSc, op, scLate, scEffect, effNop, scTarget, ← going, ← bar]
  rw [if_pos (by simpa [and_comm] using met), vAct_sc, tAct_sc, issueBundle_sc core free, issued, if_pos (by simp [inside])] at tries
  have still : coreStill { k with pc := k.pc + 1 } := ⟨tq, loads, sb, hints⟩
  rw [pumpCore_one s c _ (core ▸ (coreFree_still free : coreStill k)) (by rw [core]; rfl) _ tries (by rw [coreGet_coreSet_same]; exact still)
    (by rw [coreGet_coreSet_same]; exact fetched)]
  exact coreFinish_running _ _ (by rw [coreGet_coreSet_same]; exact running) (by rw [coreGet_coreSet_same]; exact going)

end Waitp

/-! ### WAITM (R140), and what a core's loads leave alone -/

/-- Every core but `c` is as it was. -/
def OtherCores (c : Nat) (s t : State) : Prop := ∀ d, d ≠ c → coreGet t d = coreGet s d

namespace OtherCores
variable {c : Nat} {s t u : State}

theorem refl (c : Nat) (s : State) : OtherCores c s s := fun _ _ => rfl
theorem trans (first : OtherCores c s t) (next : OtherCores c t u) : OtherCores c s u := fun d other => (next d other).trans (first d other)
theorem of_cores (same : t.cores = s.cores) : OtherCores c s t := fun d _ => by simp [coreGet, same]
theorem of_coreSet (k : Core) : OtherCores c s (coreSet s c k) := fun _ other => coreGet_coreSet_ne s k other
theorem of_coreMap (f : Core → Core) : OtherCores c s (coreMap s c f) := fun _ other => coreGet_coreMap_ne s f other

theorem foldl {α : Type} {f : State → α → State} {l : List α} (each : ∀ s, ∀ x ∈ l, OtherCores c s (f s x)) :
    OtherCores c s (l.foldl f s) := by
  induction l generalizing s with
  | nil => exact refl c s
  | cons x l ih => exact (each s x (List.mem_cons_self ..)).trans (ih fun s y m => each s y (List.mem_cons_of_mem x m))

end OtherCores

section Elsewhere
variable (s : State) (c : Nat) (l : Load)

theorem sliceRequest_elsewhere (g line sel : Nat) (wantM full store : Bool) : OtherCores c s (sliceRequest s g line sel wantM full store) :=
  (sliceRequest_drain c s g line sel wantM full store).2.1

theorem l1fill_elsewhere (line : Nat) (d : List Byte) : OtherCores c s (l1fill s c line d) := by
  unfold l1fill
  dsimp only
  split
  · exact .refl c s
  · split
    · exact .refl c s
    · exact .trans (.of_cores rfl) (.of_coreMap _)

theorem takeLine_elsewhere (line : Nat) (d : List Byte × Bool) : OtherCores c s (takeLine s c l line d) := by
  unfold takeLine
  have taken : OtherCores c s (partPut s c l.tag line (fun p => { p with got := some d })) := .of_coreMap _
  dsimp only
  split
  · exact taken.trans (.trans (t := (drawFree _).2) (.of_cores rfl) (.of_coreMap _))
  · exact taken

theorem sendLine_elsewhere (p : LoadPart) : OtherCores c s (sendLine s c l p) := by
  unfold sendLine
  dsimp only
  split
  · exact .trans (.of_coreMap _) (takeLine_elsewhere _ c l _ _)
  · split
    · exact .refl c s
    · split
      · refine .trans ?_ (takeLine_elsewhere _ c l _ _)
        have touched : OtherCores c s (match l2find s (groveOf c) p.line with | some w => l2touch s (groveOf c) p.line w | none => s) := by
          split
          · exact .of_cores rfl
          · exact .refl c s
        split
        · exact touched.trans (l1fill_elsewhere _ c _ _)
        · exact touched
      · split
        · exact .refl c s
        · exact .trans (t := partPut s c l.tag p.line _) (.of_coreMap _) (sliceRequest_elsewhere _ c _ _ _ _ _ _)

theorem prefetch_elsewhere (va : Nat) : OtherCores c s (prefetch s c va) := by
  unfold prefetch
  dsimp only
  split
  · exact .of_coreSet _
  · refine .trans (.of_coreSet _) (.foldl fun s i _ => ?_)
    split
    · exact .refl c s
    · split
      · exact .refl c s
      · split
        · exact .refl c s
        · exact .trans (.of_coreSet _) (sendLine_elsewhere _ c _ _)

theorem sendPart_elsewhere (p : LoadPart) : OtherCores c s (sendPart s c l p) := by
  unfold sendPart
  dsimp only
  split
  · exact .refl c s
  · split
    · exact (sendLine_elsewhere s c l p).trans (prefetch_elsewhere _ c _)
    · exact sendLine_elsewhere s c l p

theorem sendLoad_elsewhere (memory : paTier l.pa ≠ 3) : OtherCores c s (sendLoad s c l) := by
  unfold sendLoad
  rw [if_neg memory]
  exact .trans (.of_coreMap _) (.foldl fun s p _ => sendPart_elsewhere s c l p)

/-- Loads to memory are sent by their core's slice; no other core takes part. -/
theorem sendLoads_elsewhere (memory : ∀ l ∈ (coreGet s c).loads, paTier l.pa ≠ 3) : OtherCores c s (sendLoads s c) := by
  unfold sendLoads
  refine .foldl fun s l m => ?_
  split
  · exact sendLoad_elsewhere s c l (memory l m)
  · exact .refl c s

end Elsewhere

/-- A load to memory that starts leaves every other core. -/
theorem startLoad_elsewhere (s : State) (c : Nat) (kind : LoadKind) (rd width : Nat) (sx : Bool) (va bundle : Nat) (lf : Leaf)
    (memory : ∀ l ∈ (coreGet s c).loads, paTier l.pa ≠ 3) (here : paTier (leafPA lf va) ≠ 3) :
    OtherCores c s (startLoad s c kind rd width sx va bundle lf) := by
  unfold startLoad
  refine .trans (.of_coreSet _) (sendLoads_elsewhere _ c ?_)
  intro l m
  simp only [coreGet_coreSet_same, List.mem_append, List.mem_singleton] at m
  rcases m with m | rfl
  · exact memory l m
  · exact here

section Waitm
variable {s : State} {c : Nat} {k : Core} {b : Slots} {f : BitVec 26} {lf : Leaf}

/-- WAITM's bundle holds, and its first read starts (R140). -/
theorem tryIssue_waitm_bundle (core : coreGet s c = holding k b) (free : coreFree k = true) (legal : bundleLegal b = true)
    (act : scAct k.a b = slotWord 26 27 f) (vectorPlate : vPlateOk k.a (vAct k.a b) = true)
    (access : accessOk k (sget k.a (fld f 16 12)).toNat 8 false lf) :
    tryIssue s c = startLoad (coreSet s c (waiting (tbufPut k lf) b true false)) c .wait 0 3 false (sget k.a (fld f 16 12)).toNat k.pc lf := by
  have one := holding_one free b
  have op := scOp_slotWord 27 f (by decide)
  have checked := memCheck_ok s c (sget k.a (fld f 16 12)).toNat 8 false lf (by rw [core]; exact access)
  have plate : scPlateOk k.a (slotWord 26 27 f) = true := by simp [scPlateOk, scPlateRead, op]
  have credit := fun kind pa n => creditOk_still (coreSet s c (tbufPut (holding k b) lf)) c kind pa n (by simp; exact one.loads) (by simp; exact one.sb)
  have tried : { tbufPut (holding k b) lf with waitTry := true } = waiting (tbufPut k lf) b true false := by
    simp [waiting, holding, tbufPut, show k.waitOk = false from one.wok]
  simp [tryIssue, core, one.st, one.ended, barMet, one.bar, barEnd, legal, act, issueReady_nothing one.still, op, plate, vectorPlate, checked,
    one.wok, one.wtry, coreMap, credit, tried]

/-- What two cores that differ in their loads, L1 and prefetcher alone have in common. -/
theorem coreStrip_kept {x y : Core} (same : coreStrip x = coreStrip y) : x.a = y.a ∧ x.pc = y.pc ∧ x.tq = y.tq ∧ x.fetched = y.fetched ∧
    x.st = y.st ∧ x.ended = y.ended ∧ x.waitTry = y.waitTry ∧ x.hints = y.hints ∧ x.sb = y.sb := by
  have field : ∀ {α : Type} (g : Core → α), g (coreStrip x) = g (coreStrip y) := fun g => congrArg g same
  exact ⟨field Core.a, field Core.pc, field Core.tq, field Core.fetched, field Core.st, field Core.ended, field Core.waitTry, field Core.hints,
    field Core.sb⟩

/-- A core whose bundle holds on WAITM does nothing but start its read: what it holds, what has come of it, and its load. -/
theorem pumpCore_waitm (core : coreGet s c = holding k b) (free : coreFree k = true) (legal : bundleLegal b = true)
    (act : scAct k.a b = slotWord 26 27 f) (vectorPlate : vPlateOk k.a (vAct k.a b) = true)
    (access : accessOk k (sget k.a (fld f 16 12)).toNat 8 false lf) :
    let t := pumpCore s c
    coreStrip (coreGet t c) = coreStrip (waiting (tbufPut k lf) b true false) ∧ t.tiers = s.tiers ∧ t.regs = s.regs ∧ t.errs = s.errs ∧
    t.pending = s.pending ∧ OtherCores c s t ∧
    ∃ l ∈ (coreGet t c).loads, loadIs l .wait k.ldn 0 3 false (sget k.a (fld f 16 12)).toNat k.pc lf := by
  have here := leafPA_tier access
  have none : ∀ l ∈ (coreGet (coreSet s c (waiting (tbufPut k lf) b true false)) c).loads, paTier l.pa ≠ 3 := by
    rw [coreGet_coreSet_same, show (waiting (tbufPut k lf) b true false).loads = [] from (coreFree_still free).2.1]
    simp
  have tries := tryIssue_waitm_bundle core free legal act vectorPlate access
  obtain ⟨strip, tiers, regs, errs, pending, -, load⟩ := startLoad_go _ c .wait 0 3 false _ k.pc lf none here
  have elsewhere := startLoad_elsewhere _ c .wait 0 3 false _ k.pc lf none here
  rw [coreGet_coreSet_same] at strip load
  obtain ⟨-, -, tq, fetched, running, going, -⟩ := coreStrip_kept strip
  obtain ⟨st, ended, -, queue, -⟩ := (coreFree_iff k).1 free
  have pumped := pumpCore_holds s c b (core ▸ holding_one free b) _ tries (tq.trans queue) fetched (running.trans st) (going.trans ended)
  dsimp only
  rw [pumped]
  exact ⟨strip, tiers, regs, errs, pending, .trans (.of_coreSet _) elsewhere, load⟩

end Waitm

/-- A scalar slot value whose guard is true acts. -/
theorem scAct_slot {a : Arch} {b : Slots} {op : Nat} {f : BitVec 26} (scalar : b.sc = some (slotWord 26 op f))
    (guard : guardOk a (fld f 25 22) = true) : scAct a b = slotWord 26 op f := by
  rw [scAct, scalar, Option.getD_some, scG_slotWord]
  exact if_pos guard

section Held
variable {s : State} {h : Hdr} {kind : SlotKind} {w : Nat} {b : Slots} {f : BitVec 26}

/-- The last slot of a bundle that holds on WAITP: the bundle holds, and nothing else changes. -/
theorem giveSlot_waitp (last : h.last = true) (free : coreFree (coreGet s h.core) = true) (whole : slotPut (coreGet s h.core).latch kind w = b)
    (legal : bundleLegal b = true) (scalar : b.sc = some (slotWord 26 26 f)) (guard : guardOk (coreGet s h.core).a (fld f 25 22) = true)
    (vectorPlate : vPlateOk (coreGet s h.core).a (vAct (coreGet s h.core).a b) = true)
    (within : (sget (coreGet s h.core).a (fld f 16 12)).toNat / 8 * 8 + 8 ≤ 0x180000)
    (early : leNat (plateGet (coreGet s h.core).a ((sget (coreGet s h.core).a (fld f 16 12)).toNat / 8 * 8) 8) <
      (sget (coreGet s h.core).a (fld f 11 7)).toNat) :
    giveSlot s h kind w = coreSet s h.core { coreGet s h.core with latch := slots0, fetched := [b], waitTry := true } := by
  have free' : coreFree { coreGet s h.core with latch := slots0 } = true := free
  have core := coreGet_coreSet_same s h.core (holding { coreGet s h.core with latch := slots0 } b)
  have tries := tryIssue_waitp (core.trans (holding_eq_waiting free' b)) free' legal (scAct_slot scalar guard) vectorPlate within
  rw [Bool.false_or, Bool.not_false, Bool.and_true, if_neg (by simpa using early)] at tries
  obtain ⟨-, -, -, -, -, -, -, -, -, ok⟩ := (coreFree_iff _).1 free
  rw [giveSlot_holding s h kind w last free, whole, pumpCore_waits core free' tries, coreSet_coreSet, waiting, ← ok]

/-- The last slot of a bundle that holds on WAITM: the bundle holds, and beside it only its read and the caches' use change. -/
theorem giveSlot_waitm {lf : Leaf} (last : h.last = true) (free : coreFree (coreGet s h.core) = true)
    (whole : slotPut (coreGet s h.core).latch kind w = b) (legal : bundleLegal b = true) (scalar : b.sc = some (slotWord 26 27 f))
    (guard : guardOk (coreGet s h.core).a (fld f 25 22) = true)
    (vectorPlate : vPlateOk (coreGet s h.core).a (vAct (coreGet s h.core).a b) = true)
    (access : accessOk (coreGet s h.core) (sget (coreGet s h.core).a (fld f 16 12)).toNat 8 false lf) :
    let t := giveSlot s h kind w
    coreStrip (coreGet t h.core) = coreStrip (waiting (tbufPut { coreGet s h.core with latch := slots0 } lf) b true false) ∧
    t.tiers = s.tiers ∧ t.regs = s.regs ∧ t.errs = s.errs ∧ t.pending = s.pending ∧ OtherCores h.core s t ∧
    ∃ l ∈ (coreGet t h.core).loads,
      loadIs l .wait (coreGet s h.core).ldn 0 3 false (sget (coreGet s h.core).a (fld f 16 12)).toNat (coreGet s h.core).pc lf := by
  have free' : coreFree { coreGet s h.core with latch := slots0 } = true := free
  have core := coreGet_coreSet_same s h.core (holding { coreGet s h.core with latch := slots0 } b)
  obtain ⟨strip, tiers, regs, errs, pending, elsewhere, load⟩ := pumpCore_waitm core free' legal (scAct_slot scalar guard) vectorPlate access
  dsimp only
  rw [giveSlot_holding s h kind w last free, whole]
  exact ⟨strip, tiers, regs, errs, pending, .trans (.of_coreSet _) elsewhere, load⟩

end Held

/-! ### WAITP's next read (R139) -/

/-- WAITP_REREAD on a complex that serves. -/
theorem exec_waitpReread {s t : State} {c : Nat} (live : Live s) (inside : c < 2400) (errs : t.errs = s.errs) (pending : t.pending = s.pending)
    (reads : (if (coreGet s c).st = .running ∧ scOp (holdingScalar (coreGet s c)) = 26 ∧ (coreGet s c).waitTry = true ∧
        (sget (coreGet s c).a (scRs2 (holdingScalar (coreGet s c)))).toNat ≤
          leNat (plateGet (coreGet s c).a (scPlateRead (coreGet s c).a (holdingScalar (coreGet s c))).1 8) then
      pumpCore (coreSet s c { coreGet s c with waitOk := true }) c else s) = t) :
    exec (.waitpReread c) s = .next t :=
  withUnit_calm 2400 c s t _ inside live reads errs pending

end Sys2Proof.Machine

open Sys2Proof Sys2Proof.Machine in
/-- Settles O59: the wait comes before the bundle's effect, whichever slot comes last. -/
theorem waitsHoldTheWholeBundle : Obligations.WaitsHoldTheWholeBundle := by
  unfold Obligations.WaitsHoldTheWholeBundle
  intro i h kind w s f lf slot k b va holds live core last free legal guard vectorPlate
  obtain ⟨running, -, -, tq, -⟩ := (coreFree_iff _).1 free
  rw [exec_slot i s h kind w slot]
  constructor
  case left =>
    intro scalar within early
    have given := giveSlot_waitp last free rfl legal scalar guard vectorPlate within early
    refine ⟨_, exec_giveSlot live core given rfl rfl, ?_⟩
    simp only [holds, coreGet_coreSet_same]
    exact ⟨rfl, rfl, tq, rfl, running, rfl, rfl, fun d other => coreGet_coreSet_ne s _ other⟩
  case right =>
    intro scalar access
    obtain ⟨strip, tiers, regs, errs, pending, elsewhere, -⟩ := giveSlot_waitm last free rfl legal scalar guard vectorPlate access
    obtain ⟨a, pc, queue, fetched, st, -⟩ := coreStrip_kept strip
    exact ⟨_, exec_giveSlot live core rfl errs pending, a, pc, queue.trans tq, fetched, st.trans running, tiers, regs, elsewhere⟩

open Sys2Proof Sys2Proof.Machine in
/-- Settles O9: WAITP issues exactly where its word, or the re-read that found it, is at least its target. -/
theorem plateWaits : Obligations.PlateWaits := by
  unfold Obligations.PlateWaits
  intro h f s k word target
  refine ⟨fun b live core last free latch legal guard vectorPlate within early => ?holds, fun fresh within inside late => ?issues,
    fun live core first guard early => ?holdsOn, fun live core free latch tried fetched legal guard within inside late => ?satisfied⟩
  case holds =>
    subst latch
    rw [exec_slot _ s h .sc _ rfl]
    exact exec_giveSlot live core (giveSlot_waitp last free rfl legal rfl guard vectorPlate within early) rfl rfl
  case issues =>
    obtain ⟨live, last, ⟨core, free, latch⟩, guard, legal⟩ := fresh
    have free' : coreFree { k with latch := slots0 } = true := free
    have given := giveSlot_holding s h .sc (slotWord 26 26 f) last free
    have held := coreGet_coreSet_same s h.core (holding { k with latch := slots0 } (slotPut slots0 .sc (slotWord 26 26 f)))
    rw [latch, pumpCore_waitpMet (held.trans (holding_eq_waiting free' _)) free' legal guard within (.inr ⟨rfl, late⟩) inside, coreSet_coreSet]
      at given
    rw [exec_slot _ s h .sc _ rfl, exec_giveSlot live core given rfl rfl, retired, retire, ← latch]
  case holdsOn =>
    have held : holdingScalar k = slotWord 26 26 f := by
      obtain ⟨rest, bundles⟩ : ∃ rest, k.fetched = slotPut slots0 .sc (slotWord 26 26 f) :: rest := by
        cases e : k.fetched <;> simp_all
      rw [holdingScalar, bundles]
      exact scAct_slot rfl guard
    refine exec_waitpReread live core rfl rfl (if_neg ?_)
    rw [show coreGet s h.core = k from rfl, held, scRs2_slotWord, scPlateRead_waitp]
    exact fun ⟨_, _, _, late⟩ => absurd late (Nat.not_le.mpr early)
  case satisfied =>
    have act : scAct k.a (slotPut slots0 .sc (slotWord 26 26 f)) = slotWord 26 26 f := scAct_slot rfl guard
    have held : holdingScalar k = slotWord 26 26 f := by rw [holdingScalar, fetched]; exact act
    have again : { k with waitOk := true } =
        waiting { k with fetched := [], waitTry := false } (slotPut slots0 .sc (slotWord 26 26 f)) true true := by
      rw [waiting, ← fetched, ← tried]
    have met := pumpCore_waitpMet ((coreGet_coreSet_same s h.core _).trans again) free legal guard within (.inl rfl) inside
    rw [coreSet_coreSet] at met
    refine exec_waitpReread live core rfl rfl ?_
    rw [if_pos ?reads]
    case reads =>
      rw [show coreGet s h.core = k from rfl, held, scRs2_slotWord, scPlateRead_waitp]
      exact ⟨((coreFree_iff _).1 free).1, scOp_slotWord 26 f (by decide), tried, late⟩
    exact met
end

section
/-! PROOFS. Loads and stores beyond the plate (R135, R137, R140, R299, R301, R303). -/

namespace Sys2Proof.Machine

/-! ### Loads (R137, R299) -/

/-- What a load asks for does not change while it is sent. -/
theorem loadIs_same {x y : Load} {kind : LoadKind} {tag rd width : Nat} {sx : Bool} {va pc : Nat} {lf : Leaf} (same : Load.same x y)
    (is : loadIs x kind tag rd width sx va pc lf) : loadIs y kind tag rd width sx va pc lf := by
  obtain ⟨h1, h2, h3, h4, h5, h6, h7, h8, h9⟩ := is
  obtain ⟨e1, e2, e3, e4, e5, e6, e7, e8, e9⟩ := same
  exact ⟨e1.trans h1, e2.trans h2, e3.trans h3, e4.trans h4, e5.trans h5, e6.trans h6, e7.trans h7, e8.trans h8, e9.trans h9⟩

section Loads
variable {i : Sys2Proof.Instr} {s : State} {h : Hdr} {op : Nat} {f : BitVec 26} {lf : Leaf} {kind : LoadKind}

/-- The address of a memory slot's access (R135). -/
theorem smAddr_slotVa (s : State) (h : Hdr) (op : Nat) (f : BitVec 26) :
    (smAddr (coreGet s h.core).a (slotWord 26 op f)).toNat = slotVa s h f := by
  simp [smAddr, slotVa]

/-- A core whose lone memory access has issued, before its load starts or its store is placed: its leaf is the most recently used. -/
def memIssued (k : Core) (lf : Leaf) : Core := { tbufPut k lf with pc := k.pc + 1, fetched := [] }

/-- A load at a fresh core issues: the load is outstanding, and registers and memory stay. -/
theorem giveSlot_load (fresh : freshSc s h op f) (which : op = 20 ∧ kind = .plain ∨ op = 21 ∧ kind = .acq ∨ op = 22 ∧ kind = .nc)
    (access : accessOk (coreGet s h.core) (slotVa s h f) (smSize (fld f 11 9)) false lf)
    (inside : (coreGet s h.core).pc + 1 < (coreGet s h.core).klen) :
    let t := giveSlot s h .sc (slotWord 26 op f)
    (coreGet t h.core).a = (coreGet s h.core).a ∧ (coreGet t h.core).pc = (coreGet s h.core).pc + 1 ∧ (coreGet t h.core).fetched = [] ∧
    t.tiers = s.tiers ∧ t.regs = s.regs ∧ t.errs = s.errs ∧ t.pending = s.pending ∧
    ∃ l ∈ (coreGet t h.core).loads, loadIs l kind (coreGet s h.core).ldn (fld f 21 17) (fld f 11 9) (bitOf f.toNat 8) (slotVa s h f)
      (coreGet s h.core).pc lf := by
  obtain ⟨live, last, room, guard, legal⟩ := fresh
  obtain ⟨st, ended, -, tq, loads, sb, hints, -⟩ := (coreFree_iff _).1 room.2.1
  have one := holding_one room.2.1 (slotPut slots0 .sc (slotWord 26 op f))
  have core := coreGet_coreSet_same s h.core (holding (coreGet s h.core) (slotPut slots0 .sc (slotWord 26 op f)))
  have code : scOp (slotWord 26 op f) = op := scOp_slotWord op f (by omega)
  have here := leafPA_tier access
  have issues := tryIssue_load _ h.core _ (slotWord 26 op f) lf kind core one legal (by rw [scG_slotWord]; exact guard)
    (by rw [code]; exact which) (by rw [holding_a, smAddr_slotVa, scWidth_slotWord]; exact access) inside
  rw [holding_a, smAddr_slotVa, scRd_slotWord, scWidth_slotWord, scX_slotWord, coreSet_coreSet] at issues
  change _ = startLoad (coreSet s h.core (memIssued (coreGet s h.core) lf)) h.core kind (fld f 21 17) (fld f 11 9) (bitOf f.toNat 8)
    (slotVa s h f) (coreGet s h.core).pc lf at issues
  have none : ∀ l ∈ (coreGet (coreSet s h.core (memIssued (coreGet s h.core) lf)) h.core).loads, paTier l.pa ≠ 3 := by
    rw [coreGet_coreSet_same]
    exact fun l m => absurd (loads ▸ m : l ∈ []) List.not_mem_nil
  obtain ⟨strip, tiers, regs, errs, pending, memory, l, listed, is⟩ := startLoad_go _ h.core kind (fld f 21 17) (fld f 11 9) (bitOf f.toNat 8)
    (slotVa s h f) (coreGet s h.core).pc lf none here
  rw [coreGet_coreSet_same] at strip is
  rw [giveSlot_pump s h .sc _ last room]
  generalize startLoad (coreSet s h.core (memIssued (coreGet s h.core) lf)) h.core kind (fld f 21 17) (fld f 11 9) (bitOf f.toNat 8) (slotVa s h f)
    (coreGet s h.core).pc lf = t at issues strip tiers regs errs pending memory listed
  obtain ⟨strip', tiers', regs', errs', pending', kept, -⟩ := sendLoads_go t h.core memory
  obtain ⟨a, pc, queue, fetched, running, going, -, held, stores⟩ := coreStrip_kept strip
  obtain ⟨a', pc', queue', fetched', running', going', -, -, stores'⟩ := coreStrip_kept (strip'.trans strip)
  have drained : drainSb (sendLoads t h.core) h.core = sendLoads t h.core := drainSb_still _ _ (stores'.trans sb)
  have pumped := pumpCore_issued _ h.core _ (core ▸ one) t issues (queue.trans tq) (fetched) (held.trans hints) _ drained
    (queue'.trans tq) (fetched') (running'.trans st) (going'.trans ended)
  obtain ⟨l', listed', same⟩ := kept l listed
  dsimp only
  rw [show pumpCore (coreSet s h.core { coreGet s h.core with fetched := [slotPut slots0 .sc (slotWord 26 op f)] }) h.core =
    sendLoads t h.core from pumped]
  exact ⟨a', pc', fetched', tiers'.trans tiers, regs'.trans regs, errs'.trans errs, pending'.trans pending,
    l', listed', loadIs_same same is⟩

theorem exec_load (slot : slotOf i = some (h, .sc, slotWord 26 op f)) (fresh : freshSc s h op f)
    (which : op = 20 ∧ kind = .plain ∨ op = 21 ∧ kind = .acq ∨ op = 22 ∧ kind = .nc)
    (access : accessOk (coreGet s h.core) (slotVa s h f) (smSize (fld f 11 9)) false lf)
    (inside : (coreGet s h.core).pc + 1 < (coreGet s h.core).klen) :
    ∃ t, exec i s = .next t ∧ (coreGet t h.core).a = (coreGet s h.core).a ∧ (coreGet t h.core).pc = (coreGet s h.core).pc + 1 ∧
    (coreGet t h.core).fetched = [] ∧ t.tiers = s.tiers ∧ t.regs = s.regs ∧
    ∃ l ∈ (coreGet t h.core).loads, loadIs l kind (coreGet s h.core).ldn (fld f 21 17) (fld f 11 9) (bitOf f.toNat 8) (slotVa s h f)
      (coreGet s h.core).pc lf := by
  obtain ⟨a, pc, fetched, tiers, regs, errs, pending, load⟩ := giveSlot_load fresh which access inside
  obtain ⟨live, -, room, -, -⟩ := fresh
  rw [exec_slot i s h .sc _ slot]
  exact ⟨_, exec_giveSlot live room.1 rfl errs pending, a, pc, fetched, tiers, regs, load⟩

end Loads

/-! ### Stores (R301, R303) -/

@[simp] theorem length_leBytes (n x : Nat) : (leBytes n x).length = n := by
  induction n generalizing x with
  | zero => rfl
  | succ n ih => simp [leBytes, ih]

@[simp] theorem length_vbytes (v : VReg) : (vbytes v).length = 256 := by simp [vbytes, List.length_flatMap]

/-- At most 16 bytes are no full line. -/
theorem mask_ne_full {n : Nat} (short : n ≤ 16) (j : Nat) : (2 ^ n - 1) * 2 ^ j ≠ fullMask := by
  have small : 2 ^ n ≤ 2 ^ 16 := Nat.pow_le_pow_right (by decide) short
  unfold fullMask
  cases j with
  | zero => omega
  | succ j =>
    rw [Nat.pow_succ, ← Nat.mul_assoc]
    omega

/-- A store to memory of at most 16 bytes, placed in an empty buffer: one entry, which waits for its time. -/
theorem sbPut_line {k : Core} {pa sel epoch bundle : Nat} {l : List Byte} {rel : Bool} (empty : k.sb = []) (memory : paTier pa ≠ 3)
    (short : l.length ≤ 16) : sbPut k pa sel epoch bundle l rel = { k with
      sb := [⟨k.sbn, pa / 64, (2 ^ l.length - 1) * 2 ^ (pa % 64), lineAt pa l, false, rel, sel, epoch, bundle, false, k.ldn, false, false⟩]
      sbn := k.sbn + 1 } := by
  have part := mask_ne_full short (pa % 64)
  have dev : (paTier pa == 3) = false := by simp [memory]
  have one : storeParts pa l = [(pa / 64, (2 ^ l.length - 1) * 2 ^ (pa % 64), lineAt pa l)] := by simp [storeParts]; omega
  cases rel <;> simp [sbPut, one, dev, sbMergeable, empty, part]

/-- A store of a whole vector register placed in an empty buffer: its four lines, all full, begin to drain. -/
theorem sbPut_lines {k : Core} {pa sel epoch bundle : Nat} {l : List Byte} (empty : k.sb = []) (memory : paTier pa ≠ 3)
    (whole : l.length = 256) : sbPut k pa sel epoch bundle l false = { k with
      sb := (List.range 4).map (fun j => ⟨k.sbn + j, pa / 64 + j, fullMask, (l.drop (64 * j)).take 64, false, false, sel, epoch, bundle,
        true, k.ldn, false, false⟩)
      sbn := k.sbn + 4 } := by
  have dev : (paTier pa == 3) = false := by simp [memory]
  have parts : storeParts pa l = [0, 1, 2, 3].map fun j => (pa / 64 + j, fullMask, (l.drop (64 * j)).take 64) := by
    simp [storeParts, whole, List.range_succ]
  simp [sbPut, parts, dev, sbMergeable, empty, List.range_succ]

/-- A store of at most 256 bytes needs no more than four entries. -/
theorem sbNeed_le (k : Core) (pa : Nat) {l : List Byte} (rel : Bool) (size : l.length ≤ 256) : sbNeed k pa l rel ≤ 4 := by
  refine (List.length_filter_le _ _).trans ?_
  unfold storeParts
  split <;> simp
  omega

/-- The bytes a store of each width writes. -/
theorem length_storeBytes (p : Arch) {width : Nat} (legal : width ≤ 5) (rd : Nat) : (storeBytes p width rd).length = smSize width := by
  interval_cases width <;> simp [storeBytes, smSize]

/-- An entry whose time is not over asks for nothing. -/
theorem drainSb_waits {s : State} {c : Nat} {e : SbEntry} (one : (coreGet s c).sb = [e]) (waits : e.draining = false) : drainSb s c = s := by
  simp [drainSb, one, sbReady, waits]

/-- An entry without its request. -/
def unasked (e : SbEntry) : SbEntry := { e with req := false }

/-- Entries that are `g 0`, `g 1`, … but for their requests. -/
theorem exists_asked {es : List SbEntry} {n : Nat} {g : Nat → SbEntry} (same : es.map unasked = ((List.range n).map g).map unasked) :
    ∃ asked : Nat → Bool, es = (List.range n).map (fun j => { g j with req := asked j }) := by
  have long : es.length = n := by simpa using congrArg List.length same
  refine ⟨fun j => (es[j]?.map SbEntry.req).getD false, List.ext_getElem (by simpa using long) fun j hj _ => ?_⟩
  have entry := List.getElem_of_eq same (i := j) (by simpa using hj)
  simp only [List.getElem_map, List.getElem_range] at entry
  simp only [List.getElem_map, List.getElem_range, List.getElem?_eq_getElem hj, Option.map_some, Option.getD_some]
  generalize es[j] = x at entry
  cases x
  simp only [unasked, SbEntry.mk.injEq] at entry ⊢
  simpa using entry

section Stores
variable {i : Sys2Proof.Instr} {s : State} {h : Hdr} {op : Nat} {f : BitVec 26} {lf : Leaf} {es : List SbEntry} {n : Nat}

/-- A store at a fresh core issues: its bytes stand in the store buffer, whose full entries may ask for their lines. -/
theorem giveSlot_store (fresh : freshSc s h op f) (which : op = 23 ∨ op = 24) (width : fld f 11 9 ≤ 5)
    (access : accessOk (coreGet s h.core) (slotVa s h f) (smSize (fld f 11 9)) true lf)
    (inside : (coreGet s h.core).pc + 1 < (coreGet s h.core).klen)
    (placed : sbPut (memIssued (coreGet s h.core) lf) (leafPA lf (slotVa s h f)) (eSel lf.ent) s.xlt.epoch (coreGet s h.core).pc
      (storeBytes (coreGet s h.core).a (fld f 11 9) (fld f 21 17)) (op == 24) = { memIssued (coreGet s h.core) lf with sb := es, sbn := n })
    (memory : ∀ e ∈ es, e.dev = false) :
    let t := coreSet s h.core { memIssued (coreGet s h.core) lf with sb := es, sbn := n }
    giveSlot s h .sc (slotWord 26 op f) = drainSb t h.core ∧ DrainGo h.core t (giveSlot s h .sc (slotWord 26 op f)) := by
  obtain ⟨live, last, room, guard, legal⟩ := fresh
  obtain ⟨st, ended, -, tq, loads, sb, hints, -⟩ := (coreFree_iff _).1 room.2.1
  have one := holding_one room.2.1 (slotPut slots0 .sc (slotWord 26 op f))
  have core := coreGet_coreSet_same s h.core (holding (coreGet s h.core) (slotPut slots0 .sc (slotWord 26 op f)))
  have code : scOp (slotWord 26 op f) = op := scOp_slotWord op f (by omega)
  have size : smSize (fld f 11 9) ≤ 256 := by unfold smSize; split <;> decide
  have issues := tryIssue_store _ h.core _ (slotWord 26 op f) lf core one legal (by rw [scG_slotWord]; exact guard) (by rw [code]; exact which)
    ((sbNeed_le _ _ _ (by rw [scWidth_slotWord, length_storeBytes _ width]; exact size)).trans (by decide))
    (by rw [holding_a, smAddr_slotVa, scWidth_slotWord]; exact access) inside
  rw [holding_a, smAddr_slotVa, scRd_slotWord, scWidth_slotWord, code, coreSet_coreSet] at issues
  change _ = coreSet s h.core (sbPut (memIssued (coreGet s h.core) lf) _ _ s.xlt.epoch (coreGet s h.core).pc _ _) at issues
  rw [placed] at issues
  have buffered := coreGet_coreSet_same s h.core { memIssued (coreGet s h.core) lf with sb := es, sbn := n }
  generalize coreSet s h.core { memIssued (coreGet s h.core) lf with sb := es, sbn := n } = t at issues buffered
  have drains := drainSb_plain t h.core (by rw [buffered]; exact memory)
  obtain ⟨⟨es', -, drained⟩, -⟩ := id drains
  rw [buffered] at drained
  have pumped := pumpCore_issued _ h.core _ (core ▸ one) t issues (by rw [buffered]; exact tq) (by rw [buffered]; rfl) (by rw [buffered]; exact hints) _
    (by rw [sendLoads_still t h.core (by rw [buffered]; exact loads)]) (by rw [drained]; exact tq) (by rw [drained]; rfl)
    (by rw [drained]; exact st) (by rw [drained]; exact ended)
  have given : giveSlot s h .sc (slotWord 26 op f) = drainSb t h.core := (giveSlot_pump s h .sc _ last room).trans pumped
  exact ⟨given, given ▸ drains⟩

/-- On a free core nothing is left in issue besides. -/
theorem memIssued_free {k : Core} (free : coreFree k = true) (lf : Leaf) : memIssued k lf = { tbufPut k lf with pc := k.pc + 1 } := by
  obtain ⟨-, -, fetched, -⟩ := (coreFree_iff _).1 free
  rw [memIssued, ← fetched]
  rfl

/-- A store of at most 16 bytes stands in one entry, which asks for nothing yet. -/
theorem exec_store_line {bytes : List Byte} {rel : Bool} (slot : slotOf i = some (h, .sc, slotWord 26 op f)) (fresh : freshSc s h op f)
    (which : op = 23 ∧ rel = false ∨ op = 24 ∧ rel = true) (width : fld f 11 9 ≤ 4)
    (stored : storeBytes (coreGet s h.core).a (fld f 11 9) (fld f 21 17) = bytes)
    (access : accessOk (coreGet s h.core) (slotVa s h f) (smSize (fld f 11 9)) true lf)
    (inside : (coreGet s h.core).pc + 1 < (coreGet s h.core).klen) :
    exec i s = .next (coreSet s h.core { tbufPut (coreGet s h.core) lf with
      pc := (coreGet s h.core).pc + 1
      sb := [⟨(coreGet s h.core).sbn, leafPA lf (slotVa s h f) / 64, (2 ^ smSize (fld f 11 9) - 1) * 2 ^ (leafPA lf (slotVa s h f) % 64),
        lineAt (leafPA lf (slotVa s h f)) bytes, false, rel, eSel lf.ent, s.xlt.epoch, (coreGet s h.core).pc, false, (coreGet s h.core).ldn,
        false, false⟩]
      sbn := (coreGet s h.core).sbn + 1 }) := by
  have size : bytes.length = smSize (fld f 11 9) := by rw [← stored, length_storeBytes _ (by omega)]
  have short : smSize (fld f 11 9) ≤ 16 := by interval_cases fld f 11 9 <;> decide
  have flag : (op == 24) = rel := by rcases which with ⟨rfl, rfl⟩ | ⟨rfl, rfl⟩ <;> rfl
  obtain ⟨-, -, -, -, -, sb, -⟩ := (coreFree_iff _).1 (freshSc_free fresh)
  have placed := sbPut_line (k := memIssued (coreGet s h.core) lf) (pa := leafPA lf (slotVa s h f)) (sel := eSel lf.ent)
    (epoch := s.xlt.epoch) (bundle := (coreGet s h.core).pc) (l := bytes) (rel := rel) sb (leafPA_tier access) (by omega)
  obtain ⟨given, -⟩ := giveSlot_store fresh (by omega) (by omega) access inside (by rw [stored, flag]; exact placed) (by simp)
  rw [drainSb_waits (by rw [coreGet_coreSet_same]) rfl, memIssued_free (freshSc_free fresh), size] at given
  obtain ⟨live, -, room, -, -⟩ := fresh
  rw [exec_slot i s h .sc _ slot]
  exact exec_giveSlot live room.1 given rfl rfl

/-- A store of a vector register stands in four entries, which are full and may ask for their lines. -/
theorem exec_store_lines (slot : slotOf i = some (h, .sc, slotWord 26 23 f)) (fresh : freshSc s h 23 f) (width : fld f 11 9 = 5)
    (access : accessOk (coreGet s h.core) (slotVa s h f) (smSize (fld f 11 9)) true lf)
    (inside : (coreGet s h.core).pc + 1 < (coreGet s h.core).klen) :
    ∃ (t : State) (asked : Nat → Bool), exec i s = .next t ∧ coreGet t h.core = { tbufPut (coreGet s h.core) lf with
        pc := (coreGet s h.core).pc + 1
        sb := (List.range 4).map (fun j => ⟨(coreGet s h.core).sbn + j, leafPA lf (slotVa s h f) / 64 + j, fullMask,
          ((vbytes (vget (coreGet s h.core).a (fld f 21 17))).drop (64 * j)).take 64, false, false, eSel lf.ent, s.xlt.epoch,
          (coreGet s h.core).pc, true, (coreGet s h.core).ldn, asked j, false⟩)
        sbn := (coreGet s h.core).sbn + 4 } ∧
      OtherCores h.core s t ∧ t.tiers = s.tiers ∧ t.regs = s.regs := by
  obtain ⟨-, -, -, -, -, sb, -⟩ := (coreFree_iff _).1 (freshSc_free fresh)
  have placed := sbPut_lines (k := memIssued (coreGet s h.core) lf) (pa := leafPA lf (slotVa s h f)) (sel := eSel lf.ent)
    (epoch := s.xlt.epoch) (bundle := (coreGet s h.core).pc) sb (leafPA_tier access) (length_vbytes (vget (coreGet s h.core).a (fld f 21 17)))
  obtain ⟨-, ⟨es, requests, drained⟩, elsewhere, tiers, regs, errs, pending⟩ :=
    giveSlot_store fresh (.inl rfl) (by omega) access inside (by rw [width]; exact placed) (by simp)
  rw [coreGet_coreSet_same] at requests drained
  obtain ⟨asked, rfl⟩ := exists_asked requests
  rw [memIssued_free (freshSc_free fresh)] at drained
  obtain ⟨live, -, room, -, -⟩ := fresh
  rw [exec_slot i s h .sc _ slot]
  exact ⟨_, asked, exec_giveSlot live room.1 rfl errs pending, drained, .trans (.of_coreSet _) elsewhere, tiers, regs⟩

end Stores

end Sys2Proof.Machine

open Sys2Proof Sys2Proof.Machine in
/-- Settles O10: a load's checks pass and its lines are asked for; WAITM's read is such a load beside the bundle that goes on holding. -/
theorem loadsStart : Obligations.LoadsStart := by
  unfold Obligations.LoadsStart
  intro h f s lf k n va starts
  constructor
  case left =>
    intro inside access
    exact ⟨fun fresh => exec_load rfl fresh (by decide) access inside, fun fresh => exec_load rfl fresh (by decide) access inside,
      fun fresh => exec_load rfl fresh (by decide) access inside⟩
  case right =>
    intro access fresh
    obtain ⟨live, last, ⟨core, free, latch⟩, guard, legal⟩ := fresh
    have whole : slotPut k.latch .sc (slotWord 26 27 f) = slotPut slots0 .sc (slotWord 26 27 f) := by rw [latch]
    obtain ⟨strip, tiers, regs, errs, pending, -, load⟩ :=
      giveSlot_waitm last free whole (bundleLegal_sc _ legal) rfl guard (by simp [vPlateOk]) access
    obtain ⟨a, pc, -, fetched, -, -, tried, -⟩ := coreStrip_kept strip
    rw [exec_slot _ s h .sc _ rfl]
    exact ⟨_, exec_giveSlot live core rfl errs pending, a, pc, fetched, tried, tiers, regs, load⟩

open Sys2Proof Sys2Proof.Machine in
/-- Settles O11: the store's bytes are placed in an empty buffer, one entry a line. -/
theorem storesAreBuffered : Obligations.StoresAreBuffered := by
  unfold Obligations.StoresAreBuffered
  intro h f s lf k n rd pa buffered narrow wide inside access
  have line : ∀ {i op rel bytes}, slotOf i = some (h, .sc, slotWord 26 op f) → freshSc s h op f → (op = 23 ∧ rel = false ∨ op = 24 ∧ rel = true) →
      fld f 11 9 ≤ 4 → storeBytes k.a (fld f 11 9) rd = bytes → buffered i rel (narrow bytes rel) :=
    fun slot fresh which width stored => ⟨_, exec_store_line slot fresh which width stored access inside, coreGet_coreSet_same _ _ _,
      fun d other => coreGet_coreSet_ne s _ other, rfl, rfl, by simp [narrow]⟩
  have pair : fld f 11 9 = 4 → storeBytes k.a (fld f 11 9) rd = leBytes 8 (sget k.a rd).toNat ++ leBytes 8 (sget k.a (rd + 1)).toNat :=
    fun width => by rw [width]; rfl
  refine ⟨fun fresh => ⟨fun width => ?_, fun width => ?_, fun width => ?wide⟩, fun fresh => ⟨fun width => ?_, fun width => ?_⟩⟩
  case wide =>
    obtain ⟨t, asked, gives, core, elsewhere, tiers, regs⟩ := exec_store_lines (i := .stm h f) rfl fresh width access inside
    exact ⟨asked, t, gives, core, elsewhere, tiers, regs, by simp [wide]⟩
  · exact line rfl fresh (by decide) (by omega) (storeBytes_narrow k.a width rd)
  · exact line rfl fresh (by decide) (by omega) (pair width)
  · exact line rfl fresh (by decide) (by omega) (storeBytes_narrow k.a width rd)
  · exact line rfl fresh (by decide) (by omega) (pair width)
end

section
/-! PROOFS. Vector arithmetic, integers, movement and reductions (R148, R150 to R152, R156). -/

namespace Sys2Proof.Machine

section Fields
variable (op : Nat) (f : BitVec 42)

@[simp] theorem vCond_slotWord : vCond (slotWord 42 op f) = fld f 12 10 := bitsOf_fld _ _ _ _ f (by decide) (by decide)

/-- A source's lanes are those of the register its field names, in the format of the slot's (R148). -/
@[simp] theorem arithSrc_slotWord (p : Arch) (r : Nat) :
    arithSrc p (slotWord 42 op f) r = arithLane (vget p r) (fld f 17 14) (bitOf f.toNat 13) := by
  rw [arithSrc, vFmt_slotWord, bitOf_slotWord _ _ _ f (by decide)]

end Fields

section Sole
variable {i : Sys2Proof.Instr} {s : State} {h : Hdr} {op : Nat} {f : BitVec 42} {a : Arch}

/-- A vector instruction that takes no draw leaves its effect. -/
theorem exec_vector (slot : slotOf i = some (h, .vec, slotWord 42 op f)) (opcode : op < 64) (drawless : op ∉ [16, 18, 37, 39])
    (sole : soleVec s h op f) (effect : vEffect 0 (coreGet s h.core).a (slotWord 42 op f) (coreGet s h.core).a = a) :
    exec i s = retired s h a ((coreGet s h.core).pc + 1) := by
  rw [exec_drawless slot sole (vDraws_none f opcode drawless), effect]

end Sole

end Sys2Proof.Machine

open Sys2Proof Sys2Proof.Machine in
/-- Settles O12: each instruction is its lane function on the sources its fields name. -/
theorem vectorArithmetic : Obligations.VectorArithmetic := by
  unfold Obligations.VectorArithmetic
  intro h f s a next x y z lanes word
  have op : ∀ {n}, n < 64 → vOp (slotWord 42 n f) = n := fun small => vOp_slotWord _ f small
  have computes : ∀ {i n g}, slotOf i = some (h, .vec, slotWord 42 n f) → n < 64 → n ∉ [16, 18, 37, 39] →
      vEffect 0 a (slotWord 42 n f) a = vFlagged a (fld f 37 33) g → soleVec s h n f → exec i s = lanes g :=
    fun slot small drawless effect sole => exec_vector slot small drawless sole effect
  refine ⟨fun sole => ?nop, computes rfl (by decide) (by decide) ?fadd, computes rfl (by decide) (by decide) ?fsub,
    computes rfl (by decide) (by decide) ?fmul, computes rfl (by decide) (by decide) ?ffma, computes rfl (by decide) (by decide) ?fmin,
    computes rfl (by decide) (by decide) ?fmax, computes rfl (by decide) (by decide) ?fabs, computes rfl (by decide) (by decide) ?fneg,
    computes rfl (by decide) (by decide) ?fcmp, fun sole => ?sel, computes rfl (by decide) (by decide) ?exp2,
    computes rfl (by decide) (by decide) ?log2, computes rfl (by decide) (by decide) ?rcp, computes rfl (by decide) (by decide) ?rsqrt,
    computes rfl (by decide) (by decide) ?tanh⟩
  case nop => exact exec_vector rfl (by decide) (by decide) sole (by simp [vEffect, op, a])
  case fadd => simp [vEffect, op, effFadd, vArith2, x, y]
  case fsub => simp [vEffect, op, effFsub, vArith2, x, y]
  case fmul => simp [vEffect, op, effFmul, vArith2, x, y]
  case ffma => simp [vEffect, op, effFfma, x, y, z]
  case fmin => simp [vEffect, op, effFmin, vArith2, x, y]
  case fmax => simp [vEffect, op, effFmax, vArith2, x, y]
  case fabs => simp [vEffect, op, effFabs, vArith1, x]
  case fneg => simp [vEffect, op, effFneg, vArith1, x]
  case fcmp => simp [vEffect, op, effFcmp, vArith2, maskOf, x, y]
  case sel => exact exec_vector rfl (by decide) (by decide) sole (by simp [vEffect, op, effSel, word, a])
  case exp2 => simp [vEffect, op, effExp2, vArith1, x]
  case log2 => simp [vEffect, op, effLog2, vArith1, x]
  case rcp => simp [vEffect, op, effRcp, vArith1, x]
  case rsqrt => simp [vEffect, op, effRsqrt, vArith1, x]
  case tanh => simp [vEffect, op, effTanh, vArith1, x]

open Sys2Proof Sys2Proof.Machine in
/-- Settles O13: each instruction is its function of the two source lanes, and its destination is all that it writes. -/
theorem vectorIntegers : Obligations.VectorIntegers := by
  unfold Obligations.VectorIntegers
  intro h f s a x y lanes mask
  have op : ∀ {n}, n < 64 → vOp (slotWord 42 n f) = n := fun small => vOp_slotWord _ f small
  have computes : ∀ {i n g}, slotOf i = some (h, .vec, slotWord 42 n f) → n < 64 → n ∉ [16, 18, 37, 39] →
      vEffect 0 a (slotWord 42 n f) a = vput a (fld f 37 33) (vbuild g) → soleVec s h n f → exec i s = lanes g :=
    fun slot small drawless effect sole => exec_vector slot small drawless sole effect
  refine ⟨computes rfl (by decide) (by decide) ?itof, computes rfl (by decide) (by decide) ?iadd, computes rfl (by decide) (by decide) ?isub,
    computes rfl (by decide) (by decide) ?imul, computes rfl (by decide) (by decide) ?iand, computes rfl (by decide) (by decide) ?ior,
    computes rfl (by decide) (by decide) ?ixor, computes rfl (by decide) (by decide) ?ishl, computes rfl (by decide) (by decide) ?ishr,
    computes rfl (by decide) (by decide) ?isar, fun sole => ⟨fun c => computes rfl (by decide) (by decide) ?eq sole,
      fun c => computes rfl (by decide) (by decide) ?ne sole, fun c => computes rfl (by decide) (by decide) ?lt sole,
      fun c => computes rfl (by decide) (by decide) ?ge sole, fun c => computes rfl (by decide) (by decide) ?ltu sole,
      fun c => computes rfl (by decide) (by decide) ?geu sole⟩⟩
  case itof => simp [vEffect, op, effItof, x]
  case iadd => simp [vEffect, op, effIadd, vInt2, x, y]
  case isub => simp [vEffect, op, effIsub, vInt2, x, y]
  case imul => simp [vEffect, op, effImul, vInt2, x, y]
  case iand => simp [vEffect, op, effIand, vInt2, x, y]
  case ior => simp [vEffect, op, effIor, vInt2, x, y]
  case ixor => simp [vEffect, op, effIxor, vInt2, x, y]
  case ishl => simp [vEffect, op, effIshl, vInt2, x, y]
  case ishr => simp [vEffect, op, effIshr, vInt2, x, y]
  case isar => simp [vEffect, op, effIsar, vInt2, x, y]
  all_goals simp [vEffect, op, effIcmp, vInt2, maskOf, condFn, c, mask, x, y]

open Sys2Proof Sys2Proof.Machine in
/-- Settles O14: each instruction is its movement, or its reduction by the tree, of the registers and the plate that its fields name. -/
theorem vectorMovement : Obligations.VectorMovement := by
  unfold Obligations.VectorMovement
  intro h f s a next vd x y lanes red ad
  have op : ∀ {n}, n < 64 → vOp (slotWord 42 n f) = n := fun small => vOp_slotWord _ f small
  have moves : ∀ {i n b}, slotOf i = some (h, .vec, slotWord 42 n f) → n < 64 → n ∉ [16, 18, 37, 39] →
      vEffect 0 a (slotWord 42 n f) a = b → soleVec s h n f → exec i s = retired s h b next :=
    fun slot small drawless effect sole => exec_vector slot small drawless sole effect
  refine ⟨moves rfl (by decide) (by decide) ?perm, fun sole => ⟨fun c => moves rfl (by decide) (by decide) ?sum sole,
      fun c => moves rfl (by decide) (by decide) ?max sole, fun c => moves rfl (by decide) (by decide) ?min sole,
      fun c => moves rfl (by decide) (by decide) ?isum sole, fun c => moves rfl (by decide) (by decide) ?imax sole,
      fun c => moves rfl (by decide) (by decide) ?imin sole⟩, moves rfl (by decide) (by decide) ?bcst, moves rfl (by decide) (by decide) ?vext,
    moves rfl (by decide) (by decide) ?gath, moves rfl (by decide) (by decide) ?scat⟩
  case perm => simp [vEffect, op, effPerm, vd, y]
  case bcst => simp [vEffect, op, effBcst, vd]
  case vext => simp [vEffect, op, effVext, bitsOf_fld, vd, x]
  case gath => simp [vEffect, op, effGath, gathAddr, ad, vd, x]
  case scat => simp [vEffect, op, effScat, gathAddr, scatOn, bitOf_slotWord, ad, vd, x, y]
  all_goals simp [vEffect, op, effVred, redFn, c, vd, x]
end

section
/-! PROOFS. The tensor slot beside STP and toward other cores (R129, R171, R173, R182, R192). -/

namespace Sys2Proof.Machine

/-! ### SRT with its STP (R129, R173) -/

/-- The effect of a bundle of a 256-byte STP and SRT: the plate holds the stored register, and the tag is updated with it. -/
theorem bundleEffect_srt (pc : Nat) (p : Arch) (f : BitVec 26) (g : BitVec 42) (width : fld f 11 9 = 5) :
    bundleEffect pc p (slotWord 26 19 f) 0 (slotWord 42 18 g) =
      let v := vget p (fld f 21 17)
      let ad := (sget p (fld f 16 12) + BitVec.ofInt 64 (sextInt 8 (fld f 7 0) * 256)).toNat / 256 * 256
      tagPut (platePut p ad (vbytes v)) (fld g 37 30) (tagUpdate (tagGet p (fld g 37 30)) v) := by
  have sc := scOp_slotWord 19 f (by decide)
  have ten := vOp_slotWord 18 g (by decide)
  simp [bundleEffect, scEffect, effStp, vEffect, scLate, effSrt, sc, ten, width, smAddr, smSize, storeBytes, plateAlign, bitsOf_fld]
  rfl

/-! ### Chain instructions of one word (R171, R182, R192) -/

section Send
variable {s : State} {c d : Nat} {l : Launch}

/-- A word sent to a core stands on its wire (R182). -/
theorem sendWord_core {slot w : Nat} {last : Bool} (launch : launchOf s c = some l) (down : chNbr l c slot false = some (.core d)) :
    sendWord s c slot w last = coreMap s d (fun k => { k with wire := tabSet (fun _ => []) k.wire slot (wireGet k slot ++ [w]) }) := by
  simp [sendWord, launch, down]

/-- A core with room in its buffer for a further word can be sent one (R182). -/
theorem canSend_core {slot : Nat} (launch : launchOf s c = some l) (down : chNbr l c slot false = some (.core d))
    (room : (recvGet (coreGet s d) slot).length + (wireGet (coreGet s d) slot).length < 64) : canSend s c slot = true := by
  simp [canSend, launch, down, room]

/-- Changes of core `c`, of another core `d`, and of core `c` again. -/
theorem coreMap_around (s : State) (other : d ≠ c) (k : Core) (f g : Core → Core) :
    let t := coreMap (coreMap (coreSet s c k) d g) c f
    coreGet t c = f k ∧ coreGet t d = g (coreGet s d) ∧ (∀ x, x ≠ c → x ≠ d → coreGet t x = coreGet s x) ∧ { t with cores := s.cores } = s := by
  refine ⟨?_, ?_, fun x notC notD => ?_, rfl⟩
  · rw [coreGet_coreMap_same, coreGet_coreMap_ne _ _ (Ne.symm other), coreGet_coreSet_same]
  · rw [coreGet_coreMap_ne _ _ other, coreGet_coreMap_same, coreGet_coreSet_ne _ _ other]
  · rw [coreGet_coreMap_ne _ _ notC, coreGet_coreMap_ne _ _ notD, coreGet_coreSet_ne _ _ notC]

end Send

/-- One word of an entry's chain instruction counted as done. -/
def wordDone (id : Nat) (k : Core) : Core :=
  { k with tq := k.tq.map (fun x => if x.id = id then { x with prog := x.prog + 1 } else x) }

/-- The queue of a core whose one chain instruction has done its first word. -/
theorem wordDone_tenQueued (k : Core) (w : Nat) (recv : List (Nat × List Nat)) (a : Arch) :
    wordDone (tenEntry k w).id { tenQueued k w 0 with
      recv := recv
      a := a } = { tenQueued k w 1 with
      recv := recv
      a := a } := by
  simp [wordDone, tenQueued]

section Chain
variable {i : Sys2Proof.Instr} {s t : State} {h : Hdr} {op : Nat} {f : BitVec 42} {l : Launch} {d x : Nat} {r : List Nat}

/-- A chain instruction of one word names its slot and its count. -/
theorem chain_fields (one : fld f 33 26 = 1) : chSlot (slotWord 42 op f) = fld f 37 34 ∧ chCount (slotWord 42 op f) = 1 ∧
    bitsOf (slotWord 42 op f) 33 26 = 1 := by
  have count : bitsOf (slotWord 42 op f) 33 26 = 1 := (bitsOf_fld _ _ _ _ f (by decide) (by decide)).trans one
  exact ⟨bitsOf_fld _ _ _ _ f (by decide) (by decide), by simp [chCount, count, countOf], count⟩

/-- A chain instruction of one word that can be done at once is done as its bundle issues (R171). -/
theorem exec_chain {recv : List (Nat × List Nat)} {a : Arch} (slot : slotOf i = some (h, .ten, slotWord 42 op f)) (fresh : freshTen s h op f)
    (chain : op = 12 ∨ op = 13 ∨ op = 14) (one : fld f 33 26 = 1)
    (passes : tCheck (coreGet s h.core).a (tenEntry (coreGet s h.core) (slotWord 42 op f)) = 0)
    (bound : chBound s h.core (tenEntry (coreGet s h.core) (slotWord 42 op f)) = true)
    (word : chainWord (coreSet s h.core (tenQueued (coreGet s h.core) (slotWord 42 op f) 0)) h.core
      { tenEntry (coreGet s h.core) (slotWord 42 op f) with started := true, prog := 0 } = t)
    (own : coreGet t h.core = { tenQueued (coreGet s h.core) (slotWord 42 op f) 1 with
      recv := recv
      a := a })
    (rest : { t with cores := s.cores } = s)
    (up : op = 12 ∨ ∃ d, (launchOf s h.core).bind (fun l => chNbr l h.core (fld f 37 34) true) = some (.core d) ∧ (coreGet t d).tq = []) :
    exec i s = .next t := by
  have guard := freshTen_guard fresh
  obtain ⟨live, last, room, -, legal, inside⟩ := fresh
  obtain ⟨running, ended, fetched, -, loads, sb, hints, -⟩ := (coreFree_iff _).1 room.2.1
  have code : vOp (slotWord 42 op f) = op := vOp_slotWord op f (by omega)
  obtain ⟨slotField, count, -⟩ := chain_fields (op := op) one
  have sameLaunch : launchOf t h.core = launchOf s h.core := by
    have sameQueues : t.qsu = s.qsu := (congrArg State.qsu rest :)
    rw [launchOf, sameQueues, launchOf]
  have unit : tUnit (slotWord 42 op f) = 4 := by
    rcases chain with rfl | rfl | rfl <;> simp [tUnit, code]
  rw [exec_slot i s h .ten _ slot]
  refine exec_giveSlot live room.1 (giveSlot_chain s t h _ last room legal guard inside unit count _ rfl passes bound word _ own
    rfl fetched loads sb hints running ended ?_) (congrArg State.errs rest :) (congrArg State.pending rest :)
  rw [code, slotField, sameLaunch]
  exact up

/-- A word lies within the plate. -/
theorem plateOk_word {p : Nat} (within : p + 16 ≤ 0x180000) : plateOk p 16 = true := by
  have starts : p < 0x180000 := by omega
  simp [plateOk, plateSize, within, starts]

/-- A CHA whose PLATE bit is clear stores nothing in the plate. -/
theorem cha_noStore (noStore : fld f 15 15 = 0) : bitOf (slotWord 42 14 f) 15 = false := by
  simp [bitOf_slotWord, bitOf_eq_fld, noStore]

theorem tCheck_chs {k : Core} (one : fld f 33 26 = 1) (source : (sget k.a (fld f 25 21)).toNat + 16 ≤ 0x180000) :
    tCheck k.a (tenEntry k (slotWord 42 12 f)) = 0 := by
  obtain ⟨-, -, count⟩ := chain_fields (op := 12) one
  simp [tCheck, tenEntry, tEntry, tPlateReads, tPlateWrites, tLimits, tOp, tSReads, countOf, count, vOp_slotWord 12 f, bitsOf_fld,
    plateOk_word source]

theorem tCheck_chr {k : Core} (one : fld f 33 26 = 1) (target : (sget k.a (fld f 20 16)).toNat + 16 ≤ 0x180000) :
    tCheck k.a (tenEntry k (slotWord 42 13 f)) = 0 := by
  obtain ⟨-, -, count⟩ := chain_fields (op := 13) one
  simp [tCheck, tenEntry, tEntry, tPlateReads, tPlateWrites, tLimits, tOp, tSReads, countOf, count, vOp_slotWord 13 f, bitsOf_fld,
    plateOk_word target]

theorem tCheck_cha {k : Core} (one : fld f 33 26 = 1) (source : (sget k.a (fld f 25 21)).toNat + 16 ≤ 0x180000)
    (noStore : fld f 15 15 = 0) : tCheck k.a (tenEntry k (slotWord 42 14 f)) = 0 := by
  obtain ⟨-, -, count⟩ := chain_fields (op := 14) one
  simp [tCheck, tenEntry, tEntry, tPlateReads, tPlateWrites, tLimits, tOp, tSReads, countOf, count, vOp_slotWord 14 f, bitsOf_fld,
    plateOk_word source, cha_noStore noStore]

/-- The word that CHS and CHA read of the plate. -/
def chainSource (k : Core) (f : BitVec 42) : Nat := leNat (plateGet k.a (sget k.a (fld f 25 21)).toNat 16)

/-- The core `d` with a word sent to it on slot `slot`. -/
def wireWord (slot w : Nat) (k : Core) : Core := { k with wire := tabSet (fun _ => []) k.wire slot (wireGet k slot ++ [w]) }

/-- The complex in which core `h.core` has done its chain instruction's word, with the core's `recv` and `a` then, and has sent `w` to core `d`. -/
def sentState (s : State) (h : Hdr) (f : BitVec 42) (op d : Nat) (recv : List (Nat × List Nat)) (a : Arch) (w : Nat) : State :=
  coreMap (coreMap (coreSet s h.core { tenQueued (coreGet s h.core) (slotWord 42 op f) 0 with
    recv := recv
    a := a }) d (wireWord (fld f 37 34) w)) h.core (wordDone (tenEntry (coreGet s h.core) (slotWord 42 op f)).id)

theorem sentState_cores (other : d ≠ h.core) (recv : List (Nat × List Nat)) (a : Arch) (w : Nat) :
    let t := sentState s h f op d recv a w
    coreGet t h.core = { tenQueued (coreGet s h.core) (slotWord 42 op f) 1 with
      recv := recv
      a := a } ∧ coreGet t d = wireWord (fld f 37 34) w (coreGet s d) ∧
      (∀ c, c ≠ h.core → c ≠ d → coreGet t c = coreGet s c) ∧ { t with cores := s.cores } = s := by
  have around := coreMap_around s other { tenQueued (coreGet s h.core) (slotWord 42 op f) 0 with
    recv := recv
    a := a } (wordDone (tenEntry (coreGet s h.core) (slotWord 42 op f)).id) (wireWord (fld f 37 34) w)
  rw [wordDone_tenQueued] at around
  exact around

/-- CHS does its next word (R171). -/
theorem chainWord_chs {c : Nat} {e : TEntry} (op : vOp e.w = 12) (more : e.prog < chCount e.w) (sends : canSend s c (chSlot e.w) = true)
    {w : Nat} (word : leNat (plateGet (coreGet s c).a (tOp e 0 + 16 * e.prog) 16) = w) :
    chainWord s c e = coreMap (sendWord (coreSet s c { coreGet s c with a := nfSet (coreGet s c).a (satFlag w) }) c (chSlot e.w) w
      (e.prog + 1 == chCount e.w)) c (wordDone e.id) := by
  simp only [chainWord, op, sends, word, if_neg (Nat.not_le.2 more), if_true]
  rfl

/-- CHR does its next word (R171). -/
theorem chainWord_chr {c : Nat} {e : TEntry} (op : vOp e.w = 13) (more : e.prog < chCount e.w) (got : recvGet (coreGet s c) (chSlot e.w) = x :: r) :
    chainWord s c e = coreMap (coreSet s c { coreGet s c with
      recv := tabSet (fun _ => []) (coreGet s c).recv (chSlot e.w) r
      a := nfSet (platePut (coreGet s c).a (tOp e 1 + 16 * e.prog) (leBytes 16 x)) (satFlag x) }) c (wordDone e.id) := by
  simp only [chainWord, op, got, if_neg (Nat.not_le.2 more)]
  rfl

/-- CHA that stores nothing does its next word (R171). -/
theorem chainWord_cha {c : Nat} {e : TEntry} (op : vOp e.w = 14) (more : e.prog < chCount e.w) (sends : canSend s c (chSlot e.w) = true)
    (got : recvGet (coreGet s c) (chSlot e.w) = x :: r) (noStore : bitOf e.w 15 = false) {w : Nat}
    (word : leNat (plateGet (coreGet s c).a (tOp e 0 + 16 * e.prog) 16) = w) :
    chainWord s c e = coreMap (sendWord (coreSet s c { coreGet s c with
      recv := tabSet (fun _ => []) (coreGet s c).recv (chSlot e.w) r
      a := nfSet (coreGet s c).a (flOr (twAdd x w).2 (satFlag (twAdd x w).1)) }) c (chSlot e.w) (twAdd x w).1
      (e.prog + 1 == chCount e.w)) c (wordDone e.id) := by
  simp only [chainWord, op, sends, got, word, noStore, if_neg (Nat.not_le.2 more), if_true, Bool.false_eq_true, if_false]
  rfl

/-- The complex whose core has queued and started its chain instruction. -/
def chainBegun (s : State) (h : Hdr) (op : Nat) (f : BitVec 42) : State :=
  coreSet s h.core (tenQueued (coreGet s h.core) (slotWord 42 op f) 0)
/-- That entry before its first word. -/
def chainStarted (s : State) (h : Hdr) (op : Nat) (f : BitVec 42) : TEntry :=
  { tenEntry (coreGet s h.core) (slotWord 42 op f) with started := true, prog := 0 }

/-- The started entry has its slot, and one word to do. -/
theorem chainStarted_fields (one : fld f 33 26 = 1) : chSlot (chainStarted s h op f).w = fld f 37 34 ∧
    chCount (chainStarted s h op f).w = 1 ∧ (chainStarted s h op f).prog < chCount (chainStarted s h op f).w := by
  obtain ⟨slot, count, -⟩ := chain_fields (op := op) one
  have word : (chainStarted s h op f).w = slotWord 42 op f := rfl
  rw [word, slot, count]
  exact ⟨rfl, rfl, Nat.zero_lt_one⟩

/-- The plate word of a chain instruction that reads one. -/
theorem chainStarted_source (sender : op = 12 ∨ op = 14) :
    leNat (plateGet (coreGet (chainBegun s h op f) h.core).a
      (tOp (chainStarted s h op f) 0 + 16 * (chainStarted s h op f).prog) 16) = chainSource (coreGet s h.core) f := by
  have operand : tOp (chainStarted s h op f) 0 = (sget (coreGet s h.core).a (fld f 25 21)).toNat := by
    rcases sender with rfl | rfl <;>
      simp [tOp, chainStarted, tenEntry, tEntry, tSReads, vOp_slotWord _ f, bitsOf_fld]
  rw [operand, chainBegun, coreGet_coreSet_same]
  rfl

section Word
variable (one : fld f 33 26 = 1) (launch : launchOf s h.core = some l) (other : d ≠ h.core)
  (down : chNbr l h.core (fld f 37 34) false = some (.core d))
  (room : (recvGet (coreGet s d) (fld f 37 34)).length + (wireGet (coreGet s d) (fld f 37 34)).length < 64)

include one launch other down room in
/-- The started instruction can send its word. -/
theorem chainBegun_canSend : canSend (chainBegun s h op f) h.core (chSlot (chainStarted s h op f).w) = true := by
  rw [(chainStarted_fields one).1]
  exact canSend_core launch down (by rwa [chainBegun, coreGet_coreSet_ne _ _ other])

include one launch other down room in
/-- CHS of one word sends the plate's word (R171, R192). -/
theorem chainBegun_chs : chainWord (chainBegun s h 12 f) h.core (chainStarted s h 12 f) =
    sentState s h f 12 d (coreGet s h.core).recv (nfSet (coreGet s h.core).a (satFlag (chainSource (coreGet s h.core) f)))
      (chainSource (coreGet s h.core) f) := by
  obtain ⟨slot, count, more⟩ := chainStarted_fields (s := s) (h := h) (op := 12) one
  rw [chainWord_chs (e := chainStarted s h 12 f) (vOp_slotWord 12 f (by decide)) more (chainBegun_canSend one launch other down room)
    (chainStarted_source (.inl rfl)), slot, count, chainBegun, coreGet_coreSet_same, coreSet_coreSet,
    sendWord_core (by exact launch) down]
  rfl

include one launch other down room in
/-- CHA of one word that stores nothing sends the sum (R171, R192). -/
theorem chainBegun_cha (received : recvGet (coreGet s h.core) (fld f 37 34) = x :: r) (noStore : fld f 15 15 = 0) :
    let sum := twAdd x (chainSource (coreGet s h.core) f)
    chainWord (chainBegun s h 14 f) h.core (chainStarted s h 14 f) =
      sentState s h f 14 d (tabSet (fun _ => []) (coreGet s h.core).recv (fld f 37 34) r)
        (nfSet (coreGet s h.core).a (flOr sum.2 (satFlag sum.1))) sum.1 := by
  obtain ⟨slot, count, more⟩ := chainStarted_fields (s := s) (h := h) (op := 14) one
  rw [chainWord_cha (e := chainStarted s h 14 f) (vOp_slotWord 14 f (by decide)) more (chainBegun_canSend one launch other down room)
    (by rw [slot, chainBegun, coreGet_coreSet_same]; exact received) (cha_noStore noStore)
    (chainStarted_source (.inr rfl)), slot, count, chainBegun, coreGet_coreSet_same, coreSet_coreSet,
    sendWord_core (by exact launch) down]
  rfl

include one in
/-- CHR of one word takes it into the plate (R171, R192). -/
theorem chainBegun_chr (received : recvGet (coreGet s h.core) (fld f 37 34) = x :: r) :
    chainWord (chainBegun s h 13 f) h.core (chainStarted s h 13 f) =
      coreSet s h.core { tenQueued (coreGet s h.core) (slotWord 42 13 f) 1 with
        recv := tabSet (fun _ => []) (coreGet s h.core).recv (fld f 37 34) r
        a := nfSet (platePut (coreGet s h.core).a (sget (coreGet s h.core).a (fld f 20 16)).toNat (leBytes 16 x)) (satFlag x) } := by
  obtain ⟨slot, count, more⟩ := chainStarted_fields (s := s) (h := h) (op := 13) one
  have operand : tOp (chainStarted s h 13 f) 1 = (sget (coreGet s h.core).a (fld f 20 16)).toNat := by
    simp [tOp, chainStarted, tenEntry, tEntry, tSReads, vOp_slotWord _ f, bitsOf_fld]
  have start : (chainStarted s h 13 f).prog = 0 := rfl
  rw [chainWord_chr (e := chainStarted s h 13 f) (vOp_slotWord 13 f (by decide)) more (by rw [slot, chainBegun, coreGet_coreSet_same]; exact received),
    slot, operand, start, Nat.mul_zero, Nat.add_zero, chainBegun, coreGet_coreSet_same, coreSet_coreSet, coreMap, coreGet_coreSet_same, coreSet_coreSet]
  exact congrArg (coreSet s h.core) (wordDone_tenQueued _ _ _ _)

end Word

end Chain

end Sys2Proof.Machine

open Sys2Proof Sys2Proof.Machine in
/-- Settles O18: the two slots are one bundle, which issues when SRT comes last. -/
theorem recorderStores : Obligations.RecorderStores := by
  unfold Obligations.RecorderStores
  intro h f g s k v ad tag live last core free latch width ready guardS guardT
  have sc : scAct k.a (slotPut k.latch .ten (slotWord 42 18 g)) = slotWord 26 19 f := scAct_slot (by rw [latch]; rfl) guardS
  have vec : vAct k.a (slotPut k.latch .ten (slotWord 42 18 g)) = 0 := by rw [latch]; exact ite_self 0
  have ten : tAct k.a (slotPut k.latch .ten (slotWord 42 18 g)) = slotWord 42 18 g := by
    rw [tAct, latch]
    exact if_pos (by
      show guardOk k.a (bitsOf (slotWord 42 18 g) 41 38) = true
      rwa [bitsOf_fld _ _ _ _ g (by decide) (by decide)])
  have next : scTarget k.a (slotWord 26 19 f) = none := scTarget_straight _ f (by decide) (by decide)
  have given := giveSlot_last s h .ten _ last k rfl free ready
  rw [sc, vec, ten, bundleEffect_srt k.pc k.a f g width, next] at given
  rw [exec_slot _ s h .ten _ rfl, exec_giveSlot live core given rfl rfl]
  rfl

open Sys2Proof Sys2Proof.Machine in
/-- Settles O19: each instruction starts as its bundle issues, and its one word is done at once. -/
theorem chainWords : Obligations.ChainWords := by
  unfold Obligations.ChainWords
  intro h f s l d u x r k slot src dst y got wired sends room launch one notD notU
  have boundIf {op : Nat} (small : op < 64) (upward : op = 12 ∨ (chNbr l h.core slot true).isSome = true)
      (downward : op = 13 ∨ (chNbr l h.core slot false).isSome = true) :
      chBound s h.core (tenEntry k (slotWord 42 op f)) = true := by
    have word : (tenEntry k (slotWord 42 op f)).w = slotWord 42 op f := rfl
    have named : chSlot (slotWord 42 op f) = slot := (chain_fields one).1
    simp [chBound, launch, word, vOp_slotWord op f small, named, upward, downward]
  refine ⟨fun down space fresh inPlate => ?_, fun up idle received fresh inPlate => ?_,
    fun up down idle space received fresh inPlate noStore => ?_⟩
  · obtain ⟨own, sent, others, rest⟩ := sentState_cores (s := s) (f := f) (op := 12) notD k.recv (nfSet k.a (satFlag y)) y
    exact ⟨_, exec_chain rfl fresh (.inl rfl) one (tCheck_chs one inPlate) (boundIf (by decide) (.inl rfl) (.inr (by simp [down])))
      (chainBegun_chs one launch notD down space) own rest (.inl rfl), own, sent, others, rest⟩
  · have upstream : (launchOf s h.core).bind (fun l => chNbr l h.core slot true) = some (.core u) := by simp [launch, up]
    exact exec_chain rfl fresh (.inr (.inl rfl)) one (tCheck_chr one inPlate) (boundIf (by decide) (.inr (by simp [up])) (.inl rfl))
      (chainBegun_chr one received) (coreGet_coreSet_same _ _ _) rfl
      (.inr ⟨u, upstream, by rw [coreGet_coreSet_ne _ _ notU]; exact idle⟩)
  · let sum := twAdd x y
    obtain ⟨own, sent, others, rest⟩ := sentState_cores (s := s) (f := f) (op := 14) notD got (nfSet k.a (flOr sum.2 (satFlag sum.1))) sum.1
    have upstream : (launchOf s h.core).bind (fun l => chNbr l h.core slot true) = some (.core u) := by simp [launch, up]
    have upIdle : (coreGet (sentState s h f 14 d got (nfSet k.a (flOr sum.2 (satFlag sum.1))) sum.1) u).tq = [] := by
      by_cases same : u = d
      · rw [same, sent, ← same]; exact idle
      · rw [others u notU same]; exact idle
    exact ⟨_, exec_chain rfl fresh (.inr (.inr rfl)) one (tCheck_cha one inPlate noStore)
      (boundIf (by decide) (.inr (by simp [up])) (.inr (by simp [down])))
      (chainBegun_cha one launch notD down space received noStore) own rest (.inr ⟨u, upstream, upIdle⟩), own, sent, others, rest⟩
end

section
/-! PROOFS. MVI offers its descriptor to a mover and waits there (R172, R200). -/

namespace Sys2Proof.Machine

/-! ### An entry that has been offered and waits -/

/-- The tensor starts of a core whose next one leaves nothing more to start. -/
theorem tStartAll_settles {s t : State} {c : Nat} {e : TEntry} (queue : (coreGet s c).tq = [e]) (first : tStart s c = t)
    (settled : tStart t c = t) : tStartAll s c = t := by
  have more : ∀ l : List Nat, l.foldl (fun s _ => tStart s c) t = t := by
    intro l
    induction l with
    | nil => rfl
    | cons a l ih => rw [List.foldl_cons, settled]; exact ih
  have rounds : List.range 16 = 0 :: (List.range 15).map (· + 1) := rfl
  simp only [tStartAll, queue, List.isEmpty_cons, Bool.false_eq_true, if_false, rounds, List.foldl_cons, first]
  exact more _

/-- A round at a core that has, after its tensor starts, nothing else to do. -/
theorem pumpStep_starts {s t : State} {c : Nat} (starts : tStartAll s c = t) (noChain : chainRunning (coreGet t c) = none)
    (fetched : (coreGet t c).fetched = []) (loads : (coreGet t c).loads = []) (sb : (coreGet t c).sb = [])
    (hints : (coreGet t c).hints = []) : pumpStep s c = t := by
  have turn : chainTurn 2400 t c = t := by simp [chainTurn, noChain]
  simp only [pumpStep, starts, turn, abandonRecv, noChain, hints, List.isEmpty_nil, if_true, sendLoads_still t c loads,
    drainSb_still t c sb, tryIssue_none t c fetched]

/-- A core whose one bundle issues a tensor instruction, which then starts or waits. -/
theorem pumpCore_settles {s t u : State} {c : Nat} {b : Slots} (one : HoldsOne (coreGet s c) b) (issues : tryIssue s c = t)
    (issued : (coreGet t c).fetched = []) (round : pumpStep t c = u) (nothing : (coreGet u c).fetched = [])
    (settled : tStartAll u c = u) : pumpCore s c = coreFinish u c := by
  have first : pumpStep s c = t := by rw [pumpStep_still s c one.still, issues]
  simp only [pumpCore, one.fetched, List.length_singleton, pumpLoop, first, issued, round, nothing, settled, if_true,
    List.ne_cons_self, if_false]

section Offer
variable {s : State} {h : Hdr} {f : BitVec 42}

/-- The stream that core `c` makes of an MVI entry's descriptor (R172). -/
def offeredStream (s : State) (c : Nat) (e : TEntry) : Stream :=
  let k := coreGet s c
  let desc := plateGet k.a (tOp e 0 / 128 * 128) 128
  let cd := match launchOf s c with
    | some l => (l.comp, match runOf s l.q l.idx with | some r => r.desc | none => [])
    | none => (compOfGrove s (groveOf c), [])
  (newStream s desc k.lq 0 (some c) k.root cd.1 k.lseq (dCtx cd.2) (bitOf (dHead cd.2) 39 && dsRo desc)).1

/-- A tensor queue whose entry `id` has been offered to a mover. -/
def markOffered (id : Nat) (k : Core) : Core :=
  { k with tq := k.tq.map (fun y => if y.id = id then { y with prog := 1 } else y) }

/-- Core `c` has offered its MVI entry's descriptor to mover `m` (R172). -/
def offeredState (s : State) (c : Nat) (e : TEntry) (m : Nat) : State :=
  streamGive (coreMap { s with sidn := s.sidn + 1 } c (markOffered e.id)) m (offeredStream s c e)

theorem offeredState_core (s : State) (c : Nat) (e : TEntry) (m : Nat) :
    coreGet (offeredState s c e m) c = markOffered e.id (coreGet s c) :=
  coreGet_coreMap_same { s with sidn := s.sidn + 1 } c (markOffered e.id)

theorem offeredState_otherCore (s : State) {c d : Nat} (e : TEntry) (m : Nat) (other : d ≠ c) :
    coreGet (offeredState s c e m) d = coreGet s d :=
  coreGet_coreMap_ne { s with sidn := s.sidn + 1 } (markOffered e.id) other

theorem offeredState_mover (s : State) (c : Nat) (e : TEntry) (m : Nat) :
    moverGet (offeredState s c e m) m = { moverGet s m with waiting := (moverGet s m).waiting ++ [offeredStream s c e] } :=
  moverGet_moverSet_same _ _ _

/-- An MVI that names a serving mover offers its descriptor to it (R172). -/
theorem mviStart_serving {c : Nat} {e : TEntry} (named : bitOf e.w 35 = false)
    (serves : moverServing s (4 * groveOf c + bitsOf e.w 37 36) = true) :
    mviStart s c e = offeredState s c e (4 * groveOf c + bitsOf e.w 37 36) := by
  have same : moverServing { s with sidn := s.sidn + 1 } (4 * groveOf c + bitsOf e.w 37 36) = true := serves
  simp only [mviStart, named, newStream, moverPick, same, Bool.false_eq_true, if_false, if_true]
  rfl

/-- The core whose MVI bundle has issued, its entry queued. -/
def mviQueued (k : Core) (e : TEntry) : Core := { k with pc := k.pc + 1, tq := [e], tqn := k.tqn + 1 }

/-- An MVI entry at the head of a tensor queue whose check passes is offered to its mover. -/
theorem tStart_mvi {c : Nat} {e : TEntry} (queue : (coreGet s c).tq = [e]) (waits : e.started = false) (unit : tUnit e.w = 5)
    (passes : tCheck (coreGet s c).a e = 0) : tStart s c = if e.prog = 0 then mviStart s c e else s := by
  simp [tStart, queue, waits, tStartCheck, passes, unit]

/-- A core that has only an MVI entry offers it to the mover it names, and the entry waits there. -/
theorem mviEntry_waits {c : Nat} {e : TEntry} (queue : (coreGet s c).tq = [e]) (begins : e.started = false) (offers : e.prog = 0)
    (unit : tUnit e.w = 5) (passes : tCheck (coreGet s c).a e = 0) (named : bitOf e.w 35 = false)
    (serves : moverServing s (4 * groveOf c + bitsOf e.w 37 36) = true) (fetched : (coreGet s c).fetched = [])
    (loads : (coreGet s c).loads = []) (sb : (coreGet s c).sb = []) (hints : (coreGet s c).hints = []) :
    let t := offeredState s c e (4 * groveOf c + bitsOf e.w 37 36)
    pumpStep s c = t ∧ tStartAll t c = t := by
  intro t
  have core : coreGet t c = markOffered e.id (coreGet s c) := offeredState_core _ _ _ _
  have waiting : (coreGet t c).tq = [{ e with prog := 1 }] := by simp [core, markOffered, queue]
  have first : tStart s c = t := by rw [tStart_mvi queue begins unit passes, if_pos offers, mviStart_serving named serves]
  have settled : tStart t c = t := by
    rw [tStart_mvi waiting begins unit (by rw [core]; exact passes)]
    exact if_neg one_ne_zero
  have notChain : chainRunning (coreGet t c) = none := by simp [chainRunning, waiting, begins]
  exact ⟨pumpStep_starts (tStartAll_settles queue first settled) notChain (by rw [core]; exact fetched) (by rw [core]; exact loads)
    (by rw [core]; exact sb) (by rw [core]; exact hints), tStartAll_settles waiting settled settled⟩

/-- The descriptor of an MVI lies within the plate. -/
theorem tCheck_mvi {k : Core} (inPlate : (sget k.a (fld f 34 30)).toNat / 128 * 128 + 128 ≤ 0x180000) :
    tCheck k.a (tenEntry k (slotWord 42 15 f)) = 0 := by
  have starts : (sget k.a (fld f 34 30)).toNat / 128 * 128 < 0x180000 := by omega
  have within : plateOk ((sget k.a (fld f 34 30)).toNat / 128 * 128) 128 = true := by simp [plateOk, plateSize, inPlate, starts]
  simp [tCheck, tenEntry, tEntry, tPlateReads, tPlateWrites, tLimits, tOp, tSReads, vOp_slotWord 15 f, bitsOf_fld, within]

/-- The address that an MVI names (R172). -/
theorem tOp_mvi (k : Core) : tOp (tenEntry k (slotWord 42 15 f)) 0 = (sget k.a (fld f 34 30)).toNat := by
  simp [tOp, tenEntry, tEntry, tSReads, vOp_slotWord 15 f, bitsOf_fld]

/-- The complex in which a core's MVI has issued and stands at the mover. -/
def mviOffered (s : State) (h : Hdr) (f : BitVec 42) : State :=
  let k := coreGet s h.core
  let e := tenEntry k (slotWord 42 15 f)
  offeredState (coreSet s h.core (mviQueued k e)) h.core e (4 * (h.core / 50) + fld f 37 36)

theorem mviOffered_core (s : State) (h : Hdr) (f : BitVec 42) : coreGet (mviOffered s h f) h.core =
    mviQueued (coreGet s h.core) { tenEntry (coreGet s h.core) (slotWord 42 15 f) with prog := 1 } := by
  rw [mviOffered, offeredState_core, coreGet_coreSet_same]
  simp [markOffered, mviQueued]

theorem mviOffered_otherCore (s : State) (h : Hdr) (f : BitVec 42) {d : Nat} (other : d ≠ h.core) :
    coreGet (mviOffered s h f) d = coreGet s d :=
  (offeredState_otherCore _ _ _ other).trans (coreGet_coreSet_ne _ _ other)

theorem mviOffered_mover (s : State) (h : Hdr) (f : BitVec 42) :
    let m := 4 * (h.core / 50) + fld f 37 36
    let e := tenEntry (coreGet s h.core) (slotWord 42 15 f)
    moverGet (mviOffered s h f) m = { moverGet s m with
      waiting := (moverGet s m).waiting ++ [offeredStream (coreSet s h.core (mviQueued (coreGet s h.core) e)) h.core e] } := by
  intro m e
  exact offeredState_mover _ _ _ _

/-- A fresh core's MVI issues and is offered to the mover it names. -/
theorem giveSlot_mvi (fresh : freshTen s h 15 f) (named : fld f 35 35 = 0)
    (inPlate : (sget (coreGet s h.core).a (fld f 34 30)).toNat / 128 * 128 + 128 ≤ 0x180000)
    (serves : moverServing s (4 * (h.core / 50) + fld f 37 36) = true) :
    giveSlot s h .ten (slotWord 42 15 f) = mviOffered s h f := by
  have guard := freshTen_guard fresh
  obtain ⟨-, last, room, -, legal, inside⟩ := fresh
  have free := room.2.1
  obtain ⟨running, ended, fetched, -, loads, sb, hints, -⟩ := (coreFree_iff _).1 free
  have code := vOp_slotWord 15 f (by decide)
  have unit : tUnit (slotWord 42 15 f) = 5 := by simp [tUnit, code]
  have passes := tCheck_mvi inPlate
  have choice : bitOf (slotWord 42 15 f) 35 = false := by simp [bitOf_slotWord, bitOf_eq_fld, named]
  have number : bitsOf (slotWord 42 15 f) 37 36 = fld f 37 36 := bitsOf_fld _ _ _ _ f (by decide) (by decide)
  rw [giveSlot_pump s h .ten _ last room]
  have word : (tenEntry (coreGet s h.core) (slotWord 42 15 f)).w = slotWord 42 15 f := rfl
  have issues := tryIssue_ten (coreSet s h.core { coreGet s h.core with fetched := [slotPut slots0 .ten (slotWord 42 15 f)] }) h.core _ _
    (coreGet_coreSet_same _ _ _) (.of_free free) legal (by simp [code]) guard (by simp [tQueued, code]) inside
  have queued : tryIssue (coreSet s h.core { coreGet s h.core with fetched := [slotPut slots0 .ten (slotWord 42 15 f)] }) h.core =
      coreSet s h.core (mviQueued (coreGet s h.core) (tenEntry (coreGet s h.core) (slotWord 42 15 f))) := by
    rw [issues, coreSet_coreSet, mviQueued, ← fetched]
    rfl
  obtain ⟨round, settled⟩ := mviEntry_waits (s := coreSet s h.core (mviQueued (coreGet s h.core) (tenEntry (coreGet s h.core) (slotWord 42 15 f))))
    (c := h.core) (e := tenEntry (coreGet s h.core) (slotWord 42 15 f)) (by rw [coreGet_coreSet_same, mviQueued]) rfl rfl (by rw [word]; exact unit)
    (by rw [coreGet_coreSet_same]; exact passes) (by rw [word]; exact choice) (by rw [word, number]; exact serves)
    (by rw [coreGet_coreSet_same]; exact fetched) (by rw [coreGet_coreSet_same]; exact loads) (by rw [coreGet_coreSet_same]; exact sb)
    (by rw [coreGet_coreSet_same]; exact hints)
  have offered : offeredState (coreSet s h.core (mviQueued (coreGet s h.core) (tenEntry (coreGet s h.core) (slotWord 42 15 f)))) h.core
      (tenEntry (coreGet s h.core) (slotWord 42 15 f))
      (4 * groveOf h.core + bitsOf (tenEntry (coreGet s h.core) (slotWord 42 15 f)).w 37 36) = mviOffered s h f := by
    rw [word, number]
    rfl
  rw [offered] at round settled
  have pumped := pumpCore_settles (by rw [coreGet_coreSet_same]; exact .of_free free) queued (by rw [coreGet_coreSet_same]; exact fetched) round
    (by rw [mviOffered_core]; exact fetched) settled
  rw [coreFinish_running _ _ (by rw [mviOffered_core]; exact running) (by rw [mviOffered_core]; exact ended)] at pumped
  exact pumped

end Offer

end Sys2Proof.Machine

open Sys2Proof Sys2Proof.Machine in
/-- Settles O20: the bundle issues, and its entry is offered to the mover and waits there. -/
theorem moverIssue : Obligations.MoverIssue := by
  unfold Obligations.MoverIssue
  intro h f s k m p fresh named inPlate serves
  have core : h.core < 2400 := fresh.2.2.1.1
  refine ⟨mviOffered s h f, offeredStream (coreSet s h.core (mviQueued k (tenEntry k (slotWord 42 15 f)))) h.core (tenEntry k (slotWord 42 15 f)),
    ?_, mviOffered_core s h f, fun d other => mviOffered_otherCore s h f other, mviOffered_mover s h f, ?_, rfl, ?_, rfl, rfl, rfl⟩
  · rw [exec_slot _ s h .ten _ rfl]
    exact exec_giveSlot fresh.1 core (giveSlot_mvi fresh named inPlate serves) rfl rfl
  · simp only [offeredStream, newStream, coreGet_coreSet_same, tOp_mvi]
    rfl
  · simp only [offeredStream, newStream, coreGet_coreSet_same]
    rfl
end

section
/-! PROOFS. A page walk's reads are visible to the host (R216, R284, R289). -/

namespace Sys2Proof.Machine

/-- The complex after reset, with root 0's level-1 table in the first page of the canopy, a page in host bias. -/
def tableInHostBias : State :=
  { State.reset with
    xlt := { xlt0 with l1 := [(0, 1)] }
    tiers := { tiers0 with bias := [0] } }

theorem tableInHostBias_serves : Live tableInHostBias ∧ uncached tableInHostBias := by
  unfold Live uncached
  decide +kernel

/-- The table is empty, so a walk finds no leaf. -/
theorem tableInHostBias_misses : tableInHostBias.xlt.cache.find? (fun l => leafHit l 0 0) = none ∧ walk tableInHostBias 0 0 = .miss 1 0 := by
  decide +kernel

/-- What a command leaves in the outward record. -/
def sentBy (o : Host.Outcome State Fault Refusal) : List Out :=
  match o with
  | .next t => t.out
  | _ => []

/-- The walk's read of the table snoops the host's copy of the line. -/
theorem tableInHostBias_snoops : sentBy (exec (.tableWalkDone 0 0) tableInHostBias) ≠ tableInHostBias.out := by
  decide +kernel

end Sys2Proof.Machine

open Sys2Proof Sys2Proof.Machine in
/-- Refutes O31: a walk that finds no leaf does not leave the complex as it was when the table it reads stands in a page in host bias.
Its read then sends a back-invalidate snoop to the host, which the outward record keeps. -/
theorem not_streamsRun : ¬ Obligations.StreamsRun := by
  unfold Obligations.StreamsRun
  intro claim
  obtain ⟨live, uncached⟩ := tableInHostBias_serves
  obtain ⟨notCached, misses⟩ := tableInHostBias_misses
  obtain ⟨-, -, walks, -⟩ := claim tableInHostBias 0 live (by decide)
  obtain ⟨-, -, nothing⟩ := walks 0 0 ⟨0, 0, false, 0⟩ (by decide) (by decide) uncached
  have still := nothing notCached (fun l leaf => by rw [misses] at leaf; cases leaf)
  exact tableInHostBias_snoops (congrArg sentBy still)
end

section
/-! PROOFS. A ride cell out of sequence (R22, R182, R183, R386, R387): the credits in its header let what waits for one go on. -/

namespace Sys2Proof.Machine

/-- A LAUNCH on core 0 whose chain slot 0 sends under identifier 7 over port 5 (R178). -/
def launchOverRide : Launch :=
  { q := 0, idx := 0, comp := 0, groves := [0], cores := [0], loaded := true
    chains := leBytes 16 (2 ^ 109 + 7 * 2 ^ 68 + 3) ++ List.replicate 240 0
    first := none, cut := false, streamAbort := false, links := [] }

/-- A CHS of one word on slot 0, started, its word not yet sent (R171). -/
def chsStarted : TEntry := { tEntry arch0 0 (slotWord 42 12 (BitVec.ofNat 42 (2 ^ 26))) 0 none with started := true }

/-- Core 0 runs that CHS, and port 5, its only way, has trained in Ride mode and awaits the neighbour's IDENT. -/
def chsWaits : State :=
  portSet { regSet State.reset 0x82800 1 0 1 with
    cores := [(0, { core0 with st := .running, klen := 8, tq := [chsStarted] })]
    qsu := { qsu0 with launches := [launchOverRide] } } 5 { port0 with st := 1, lanes := 15 }

/-- IDENT has brought the port UP (R383). No core has gone on since, so the CHS still waits. -/
def chsMaySend : State := takeIdent chsWaits 5 0 0 1

/-- The header of a CHAIN cell four ahead of the next in sequence, which returns one CHAIN credit. -/
def aheadHdr : Nat := 2 ^ 124 + 5 * 2 ^ 97 + 2 ^ 72

/-- The words that core 0's chain instruction has sent, plus 1, in the state a command leaves. -/
def chsProgress (o : Host.Outcome State Fault Refusal) : Nat :=
  match o with
  | .next t => chainProg (coreGet t 0)
  | _ => 0

/-- What a cell that is not accepted leaves where it is the first (R387): NAK, and nothing else. -/
def nakOnly (s : State) (i : Nat) : State :=
  if (portGet s i).bad then s else idleOut (portSet s i { portGet s i with nak := true, bad := true }) i

theorem chsMaySend_serves : Live chsMaySend ∧ chsMaySend.prf.run = none ∧ portIdle chsMaySend 5 1 := by
  unfold Live portIdle
  decide +kernel

/-- The cell is of type CHAIN, and it is not the next in sequence. -/
theorem aheadHdr_outOfSequence :
    bitsOf aheadHdr 127 124 = 1 ∧ bitsOf aheadHdr 112 97 ≠ ((portGet chsMaySend 5).rx + 1) % 65536 := by
  decide +kernel

theorem nakOnly_sendsNoWord : chsProgress (.next (nakOnly chsMaySend 5)) = 1 := by decide +kernel

/-- The credit of the discarded cell's header lets the CHS send its word. -/
theorem chainCell_ahead_sendsWord : chsProgress (exec (.chainCell 5 aheadHdr []) chsMaySend) = 2 := by decide +kernel

end Sys2Proof.Machine

open Sys2Proof Sys2Proof.Machine in
/-- Refutes O40: a cell out of sequence has an effect beside NAK. Where its header returns a CHAIN credit, cores go on as if the cell had
been accepted, and a CHS that waited for a port to come UP sends its word. -/
theorem not_rideCells : ¬ Obligations.RideCells := by
  unfold Obligations.RideCells
  intro claim
  obtain ⟨live, noProof, idle⟩ := chsMaySend_serves
  obtain ⟨isChain, ahead⟩ := aheadHdr_outOfSequence
  obtain ⟨outOfSequence, -⟩ := claim chsMaySend 5 aheadHdr [] live (by decide) noProof idle
  have discarded : exec (.chainCell 5 aheadHdr []) chsMaySend = .next (nakOnly chsMaySend 5) :=
    outOfSequence _ (by simp) (.inl ⟨isChain, rfl⟩) ahead
  have same := congrArg chsProgress discarded
  rw [chainCell_ahead_sendsWord, nakOnly_sendsNoWord] at same
  exact absurd same (by decide)
end

section
/-! PROOFS. Queue commands (R214, R227, R228, R249, R252, R329 to R332, R340 to R343): what a command's effect leaves alone, its completion,
and what its reads and writes of the canopy meet. -/

namespace Sys2Proof.Machine

/-! ### From a command's start to its completion record -/

/-- What a command's effect leaves alone until its completion record: the queues, the cores, the movers, the ride ports and the host
port's HOLD. The complex still serves, nothing has become cached, and no error has been detected. -/
structure EffectOnly (b u : State) : Prop where
  calm : uncached u
  qsu : u.qsu = b.qsu
  cores : u.cores = b.cores
  movers : u.movers = b.movers
  ride : u.ride = b.ride
  hold : u.host.hold = b.host.hold
  serves : frozen u = frozen b
  errs : u.errs = b.errs
  pending : u.pending = b.pending

theorem EffectOnly.refl {s : State} (calm : uncached s) : EffectOnly s s := ⟨calm, rfl, rfl, rfl, rfl, rfl, rfl, rfl, rfl⟩

theorem EffectOnly.trans {s t u : State} (a : EffectOnly s t) (b : EffectOnly t u) : EffectOnly s u :=
  ⟨b.calm, b.qsu.trans a.qsu, b.cores.trans a.cores, b.movers.trans a.movers, b.ride.trans a.ride, b.hold.trans a.hold,
    b.serves.trans a.serves, b.errs.trans a.errs, b.pending.trans a.pending⟩

theorem justSends.effectOnly {s t : State} (h : justSends s t) (calm : uncached s) : EffectOnly s t := by
  obtain ⟨only, tiers, host⟩ := h
  exact ⟨⟨(congrArg State.coh only :).trans calm.1, by rw [tiers]; exact calm.2⟩, (congrArg State.qsu only :), (congrArg State.cores only :),
    (congrArg State.movers only :), (congrArg State.ride only :), (congrArg HostPort.hold host :),
    (congrArg frozen only :), (congrArg State.errs only :), (congrArg State.pending only :)⟩

theorem readNotes_effectOnly {s : State} (calm : uncached s) (pa n : Nat) : EffectOnly s (readNotes s pa n) :=
  (readNotes_sent s pa n).effectOnly calm

/-- What the completion record of a command leaves alone (R336, R339): the memory below the floor, and all that `sameBut` keeps. -/
structure RecordOnly (u t : State) : Prop where
  but : sameBut u t
  bytes : ∀ a n, a + n ≤ 2 ^ 45 → tabBytes t.tiers.bytes a n = tabBytes u.tiers.bytes a n
  enc : ∀ line, line < 2 ^ 39 → tabGet (fun _ => 0) t.tiers.enc line = tabGet (fun _ => 0) u.tiers.enc line

namespace RecordOnly
variable {u t : State} (h : RecordOnly u t)
include h

theorem calm : uncached t := h.but.1
theorem xlt : t.xlt = u.xlt := (congrArg State.xlt h.but.2.1 :)
theorem errs : t.errs = u.errs := (congrArg State.errs h.but.2.1 :)
theorem pending : t.pending = u.pending := (congrArg State.pending h.but.2.1 :)
theorem cores : t.cores = u.cores := (congrArg State.cores h.but.2.1 :)
theorem ride : t.ride = u.ride := (congrArg State.ride h.but.2.1 :)
theorem winBase : t.tiers.winBase = u.tiers.winBase := (congrArg Tiers.winBase h.but.2.2.1 :)
theorem winSel : t.tiers.winSel = u.tiers.winSel := (congrArg Tiers.winSel h.but.2.2.1 :)
theorem bias : t.tiers.bias = u.tiers.bias := (congrArg Tiers.bias h.but.2.2.1 :)

theorem reg {a : Nat} (apart : a < 0x71000) : regGet t a = regGet u a := by
  obtain ⟨-, -, -, -, -, regs⟩ := h.but
  exact regs a (.inl apart)

end RecordOnly

/-- The complex with a queue's one command started, its phase, its value and its energy as given; `begunState` is the start (R332). -/
def startedAs (s : State) (q : Nat) (d : List Byte) (phase val fj : Nat) : State :=
  queueSet s q { begun (queueGet s q) d with run := [⟨(queueGet s q).started, d, phase, val, fj⟩] }

section Turn
variable {s : State} {q : Nat} {d : List Byte} (turn : queueTurn s q d)
include turn

theorem queueTurn_calm : uncached s := by
  obtain ⟨-, -, -, -, -, calm, -⟩ := turn
  exact calm

theorem begunState_calm : uncached (begunState s q d) := queueTurn_calm (s := s) turn

/-- The completion of a queue's one command, after an effect that leaves the queues alone. -/
theorem finish_startedAs {u : State} {phase val fj : Nat} (effect : EffectOnly (startedAs s q d phase val fj) u) (status d0 d1 : Nat) :
    completes s (finish u [] q (queueGet s q).started status d0 d1) q d status d0 d1 ∧
    RecordOnly u (finish u [] q (queueGet s q).started status d0 d1) ∧
    (finish u [] q (queueGet s q).started status d0 d1).qsu.queues =
      tabSet (fun _ => queue0) s.qsu.queues q { begun (queueGet s q) d with run := [], completed := (queueGet s q).completed + 1 } := by
  obtain ⟨live, -, -, hold, -⟩ := id turn
  have queue : queueGet u q = { begun (queueGet s q) d with run := [⟨(queueGet s q).started, d, phase, val, fj⟩] } := by
    rw [queueGet_queues _ _ q (congrArg Qsu.queues effect.qsu)]
    exact queueGet_queueSet_same s q _
  obtain ⟨done, but, queues, bytes, enc⟩ := finish_lone s u q d turn effect.calm (effect.hold.trans hold) (by rw [queue])
    (by rw [queue]) effect.cores effect.movers (congrArg Qsu.launches effect.qsu :) (effect.serves.trans live.1) status d0 d1
  refine ⟨done, ⟨but, bytes, enc⟩, queues.trans ?_⟩
  rw [effect.qsu]
  exact tabSet_tabSet _ _ _ _ _

/-- A queue command that completes as it runs: `u` is what its effect leaves, and its record follows. -/
theorem queueRuns_completes {i : Instr} {accepts : Nat → Bool} {own : State → List Byte → Bool} {run : Started → State}
    (arm : exec i s = withUnit 1024 q (runLive s (fun s => startCmd s q accepts own run))) (accepted : accepts (dCmd d) = true)
    (free : own s d = true) {u : State} {status d0 d1 : Nat}
    (ends : run ⟨(queueGet s q).started, d, begunState s q d⟩ = finish u [] q (queueGet s q).started status d0 d1)
    (effect : EffectOnly (begunState s q d) u) {P : State → Prop} (after : ∀ t, RecordOnly u t → P t) :
    queueRuns i s q (fun t => completes s t q d status d0 d1 ∧ P t) := by
  obtain ⟨done, record, -⟩ := finish_startedAs turn (phase := 0) (val := 0) (fj := 0) effect status d0 d1
  refine ⟨_, arm.trans (queue_runs q s d turn accepts accepted own free run _ ends record.calm ?_ ?_), done, after _ record⟩
  · exact record.errs.trans effect.errs
  · exact record.pending.trans effect.pending

end Turn

/-! ### The first checks (R331) -/

theorem bodyOk_length {d : List Byte} (body : bodyOk d = true) : d.length = 128 := by
  simp only [bodyOk, Bool.and_eq_true, decide_eq_true_eq] at body
  exact body.1.2

/-- An XLT_SYNC names one of the 256 roots (R214). -/
theorem bodyOk_root {d : List Byte} (body : bodyOk d = true) (cmd : dCmd d = 9) : dWord d 1 < 256 := by
  simp only [bodyOk, cmd, Bool.and_eq_true, decide_eq_true_eq] at body
  exact body.2.1

/-- A command whose body is well formed, on a queue with the privilege it needs, passes the first checks. -/
theorem firstChecks_begunState {s : State} {q : Nat} {d : List Byte} (body : bodyOk d = true)
    (priv : needsPriv (queueGet s q) d = true → (queueGet s q).priv = true) : firstChecks (begunState s q d) q d true = 0 := by
  have needs : needsPriv (begun (queueGet s q) d) d = needsPriv (queueGet s q) d := rfl
  unfold firstChecks
  dsimp only
  rw [queueGet_begunState, needs, body]
  by_cases need : needsPriv (queueGet s q) d = true
  · simp [begun, priv need]
  · simp [need]

/-! ### Reads where nothing is cached -/

theorem memRead_congr {s t : State} (tiers : t.tiers = s.tiers) (sel line : Nat) : memRead t sel line = memRead s sel line := by
  unfold memRead rawLine selEmpty pairOf
  rw [tiers]

/-- Where nothing is cached, a coherent read is of the tiers alone. -/
theorem paRead_congr {s t : State} (calm : uncached s) (coh : t.coh = s.coh) (tiers : t.tiers = s.tiers) (sel pa n : Nat) :
    paRead t sel pa n = paRead s sel pa n := by
  have fuel : ∀ f pa n, cohGet t sel pa f n = cohGet s sel pa f n := by
    intro f
    induction f with
    | zero => intro _ _; rfl
    | succ f ih =>
      intro pa n
      simp only [cohGet, ih, cohReadCur_uncached _ _ _ calm.1, cohReadCur_uncached _ _ _ (coh.trans calm.1), memRead_congr tiers]
  exact fuel _ pa n

theorem paRead_begunState {s : State} (calm : uncached s) (q : Nat) (d : List Byte) (sel pa n : Nat) :
    paRead (begunState s q d) sel pa n = paRead s sel pa n :=
  paRead_congr (t := begunState s q d) calm rfl rfl sel pa n

/-- What the complex sends the host leaves every read as it was. -/
theorem justSends.paRead {s t : State} (h : justSends s t) (calm : uncached s) (sel pa n : Nat) : paRead t sel pa n = paRead s sel pa n :=
  paRead_congr (t := t) calm (congrArg State.coh h.1 :) h.2.1 sel pa n

/-- An aligned word lies in one line. -/
theorem paRead_word {s : State} (calm : uncached s) {pa : Nat} (aligned : pa % 8 = 0) :
    paRead s 0 pa 8 = (((memRead s 0 (pa / 64)).1.drop (pa % 64)).take 8, false) := by
  have whole : min (64 - pa % 64) 8 = 8 := by omega
  simp only [paRead, cohGet, whole, cohReadCur_uncached s 0 _ calm.1, memRead_clean s _ calm.2]
  simp

/-- What a canopy line reads as in plaintext. -/
theorem memRead_canopy {s : State} (calm : uncached s) {line : Nat} (canopy : lineTier line = 0) :
    memRead s 0 line = (rekey (tabGet (fun _ => 0) s.tiers.enc line) 0 line (rawLine s line), false) := by
  simp [memRead, canopy, selEmpty, pairOf, calm.2]

/-- A completion record leaves what a canopy line reads as. -/
theorem RecordOnly.paRead_canopy {u t : State} (h : RecordOnly u t) (calm : uncached u) {pa : Nat} (aligned : pa % 8 = 0) (low : pa < 2 ^ 44) :
    paRead t 0 pa 8 = paRead u 0 pa 8 := by
  have canopy : lineTier (pa / 64) = 0 := by unfold lineTier; omega
  have raw : rawLine t (pa / 64) = rawLine u (pa / 64) := h.bytes _ _ (by omega)
  rw [paRead_word h.calm aligned, paRead_word calm aligned, memRead_canopy h.calm canopy, memRead_canopy calm canopy, raw, h.enc _ (by omega)]

/-! ### Plaintext writes where nothing is cached -/

theorem sameWork.effectOnly {s t : State} (work : sameWork s t) (qsu : t.qsu = s.qsu) (serves : frozen t = frozen s) : EffectOnly s t := by
  obtain ⟨calm, only, -, -, hold⟩ := work
  exact ⟨calm, qsu, (congrArg State.cores only :), (congrArg State.movers only :), (congrArg State.ride only :), hold, serves,
    (congrArg State.errs only :), (congrArg State.pending only :)⟩

/-- What a plaintext write leaves beside what `sameWork` keeps: the queue engines, whether the complex serves, and the bias table. -/
def PlainWriteKeeps (s t : State) : Prop := t.qsu = s.qsu ∧ frozen t = frozen s ∧ t.tiers.bias = s.tiers.bias

theorem PlainWriteKeeps.trans {s t u : State} (a : PlainWriteKeeps s t) (b : PlainWriteKeeps t u) : PlainWriteKeeps s u :=
  ⟨b.1.trans a.1, b.2.1.trans a.2.1, b.2.2.trans a.2.2⟩

theorem justSends.plainWriteKeeps {s t : State} (h : justSends s t) : PlainWriteKeeps s t :=
  ⟨(congrArg State.qsu h.1 :), (congrArg frozen h.1 :), by rw [h.2.1]⟩

theorem injTaken_keeps (s : State) (line : Nat) : PlainWriteKeeps s (injTaken s line) := by
  refine ⟨?_, ?_, by rw [injTaken_bytes]⟩ <;> unfold injTaken <;> dsimp only
  · split
    · exact regSet_qsu ..
    · rfl
  · have apart : 0x20008 ≠ 0x100030 + 0x100 * ctlRecord line := by omega
    generalize 0x100030 + 0x100 * ctlRecord line = o at apart ⊢
    split
    · exact frozen_regPut s o _ apart
    · rfl

theorem memWrite_plain_keeps (s : State) (line mask : Nat) (data : List Byte) : PlainWriteKeeps s (memWrite s 0 line mask data false) := by
  unfold memWrite
  rw [if_neg (by simp [selEmpty])]
  split
  · exact ⟨rfl, rfl, rfl⟩
  · obtain ⟨qsu, serves, bias⟩ := injTaken_keeps s line
    exact ⟨qsu, serves, bias⟩

theorem memWrite_plain_effectOnly {s : State} (calm : uncached s) (line mask : Nat) (data : List Byte) :
    EffectOnly s (memWrite s 0 line mask data false) := by
  obtain ⟨qsu, serves, -⟩ := memWrite_plain_keeps s line mask data
  exact (memWrite_same s line mask data calm).effectOnly qsu serves

/-- Plaintext bytes written where nothing is cached. -/
theorem cohPut_keeps {s : State} (calm : uncached s) (f pa : Nat) (l : List Byte) : PlainWriteKeeps s (cohPut s 0 pa f l) := by
  induction f generalizing s pa l with
  | zero => exact ⟨rfl, rfl, rfl⟩
  | succ f ih =>
    simp only [cohPut]
    split
    · exact ⟨rfl, rfl, rfl⟩
    · simp only [cohPutLine, cohWrite_uncached s _ _ _ _ _ calm.1]
      have note := writeNote_sent s (pa / 64) ((2 ^ (l.take (min (64 - pa % 64) l.length)).length - 1) * 2 ^ (pa % 64))
      have noted := note.same calm
      exact (note.plainWriteKeeps.trans (memWrite_plain_keeps _ _ _ _)).trans (ih (memWrite_same _ _ _ _ noted.1).1 _ _)

theorem paWrite_effectOnly {s : State} (calm : uncached s) (pa : Nat) (l : List Byte) : EffectOnly s (paWrite s 0 pa l) := by
  obtain ⟨qsu, serves, -⟩ := cohPut_keeps calm (l.length / 64 + 2) pa l
  exact (cohPut_same s _ pa l calm).effectOnly qsu serves

theorem paWrite_bias {s : State} (calm : uncached s) (pa : Nat) (l : List Byte) : (paWrite s 0 pa l).tiers.bias = s.tiers.bias := by
  obtain ⟨-, -, bias⟩ := cohPut_keeps calm (l.length / 64 + 2) pa l
  exact bias

end Sys2Proof.Machine
end

section
/-! PROOFS. Queue commands that complete as they run (R214, R252, R329, R340, R341, R343). -/

namespace Sys2Proof.Machine

theorem leNat_lt (l : List Byte) : leNat l < 256 ^ l.length := by
  induction l with
  | nil => decide
  | cons b l ih =>
    have byte : b.toNat < 256 := b.isLt
    simp only [leNat, List.length_cons, Nat.pow_succ]
    omega

theorem dWord_lt (d : List Byte) (i : Nat) : dWord d i < 2 ^ 64 := by
  have word := leNat_lt ((d.drop (8 * i)).take 8)
  have len : ((d.drop (8 * i)).take 8).length ≤ 8 := by simp
  exact lt_of_lt_of_le word ((Nat.pow_le_pow_right (by decide) len).trans (by decide))

/-! ### NOP and WINDOW_MOVE (R252, R329) -/

theorem nopRun_begunState {s : State} {q : Nat} {d : List Byte} (body : bodyOk d = true) (cmd : dCmd d = 0) :
    nopRun q ⟨(queueGet s q).started, d, begunState s q d⟩ = finish (begunState s q d) [] q (queueGet s q).started 0 0 0 := by
  have checks : firstChecks (begunState s q d) q d true = 0 := firstChecks_begunState body (by simp [needsPriv, cmd])
  simp [nopRun, finishAt, bodyOk_length body, checks]

/-- The complex with its window moved (R252). -/
def windowAt (s : State) (base sel : Nat) : State := { s with tiers := { s.tiers with winBase := base, winSel := sel } }

theorem windowAt_effectOnly {s : State} (calm : uncached s) (base sel : Nat) : EffectOnly s (windowAt s base sel) :=
  ⟨calm, rfl, rfl, rfl, rfl, rfl, rfl, rfl, rfl⟩

theorem windowRun_begunState {s : State} {q : Nat} {d : List Byte} (body : bodyOk d = true) (priv : (queueGet s q).priv = true) :
    windowRun q ⟨(queueGet s q).started, d, begunState s q d⟩ =
      if winValid s (dWord d 1) (dWord d 2) then finish (windowAt (begunState s q d) (dWord d 1) (dWord d 2)) [] q (queueGet s q).started 0 0 0
      else finish (begunState s q d) [] q (queueGet s q).started 0x25 0 0 := by
  have valid : winValid (begunState s q d) (dWord d 1) (dWord d 2) = winValid s (dWord d 1) (dWord d 2) := rfl
  simp only [windowRun, finishAt, firstChecks_begunState body (fun _ => priv), valid, ne_eq, not_true_eq_false, if_false]
  cases winValid s (dWord d 1) (dWord d 2) <;> rfl

/-! ### XLT_SYNC (R214) -/

/-- The complex once a root's table and generation have been latched (R214). -/
def synced (s : State) (root gen table : Nat) : State :=
  regPut (xltPut s (fun x => { x with l1 := tabSet (fun _ => 0) x.l1 root (table + 1) })) (0x42000 + 8 * root) gen

theorem synced_l1 (s : State) (root gen table : Nat) : tabGet (fun _ => 0) (synced s root gen table).xlt.l1 root = table + 1 :=
  tabGet_tabSet_same (fun _ => 0) s.xlt.l1 root (table + 1)

theorem synced_cache (s : State) (root gen table : Nat) : (synced s root gen table).xlt.cache = s.xlt.cache := rfl

theorem synced_reg (s : State) (root table : Nat) {gen : Nat} (fits : gen < 2 ^ 64) : regGet (synced s root gen table) (0x42000 + 8 * root) = gen := by
  rw [synced, regGet_regPut_same, Nat.mod_eq_of_lt fits]

theorem synced_effectOnly {s : State} (calm : uncached s) (root gen table : Nat) : EffectOnly s (synced s root gen table) :=
  ⟨calm, rfl, rfl, rfl, rfl, rfl, frozen_regPut _ _ _ (by omega), rfl, rfl⟩

/-- The complex once a started XLT_SYNC has read its root's header (R211, R284). -/
def headerRead (s : State) (q : Nat) (d : List Byte) : State := readNotes (begunState s q d) (rootHdr s (dWord d 1)) 64

theorem headerRead_effectOnly {s : State} {q : Nat} {d : List Byte} (calm : uncached s) : EffectOnly (begunState s q d) (headerRead s q d) :=
  readNotes_effectOnly (s := begunState s q d) calm _ _

theorem headerRead_xlt (s : State) (q : Nat) (d : List Byte) : (headerRead s q d).xlt = s.xlt :=
  (congrArg State.xlt (readNotes_sent (begunState s q d) (rootHdr s (dWord d 1)) 64).1 :)

theorem headerRead_reg (s : State) (q : Nat) (d : List Byte) (a : Nat) : regGet (headerRead s q d) a = regGet s a :=
  (congrArg (regGet · a) (readNotes_sent (begunState s q d) (rootHdr s (dWord d 1)) 64).1 :)

/-- XLT_SYNC of the queue's own root, or on a privileged queue, passes the first checks (R329, R331). -/
theorem syncChecks {s : State} {q : Nat} {d : List Byte} (body : bodyOk d = true) (cmd : dCmd d = 9)
    (own : dWord d 1 = (queueGet s q).root ∨ (queueGet s q).priv = true) : firstChecks (begunState s q d) q d true = 0 := by
  refine firstChecks_begunState body fun needs => own.resolve_left fun same => ?_
  simp only [needsPriv, cmd, Nat.mod_eq_of_lt (bodyOk_root body cmd), bne_iff_ne] at needs
  exact needs same

/-- What XLT_SYNC answers for an enabled root: its header's table, then its generation, are judged. -/
theorem syncRun_enabled {s : State} {q : Nat} {d hdr : List Byte} (turn : queueTurn s q d) (body : bodyOk d = true) (cmd : dCmd d = 9)
    (own : dWord d 1 = (queueGet s q).root ∨ (queueGet s q).priv = true) (enabled : regField s (0x41000 + 8 * dWord d 1) 63 63 = 1)
    (header : (paRead s 0 (rootHdr s (dWord d 1)) 64).1 = hdr) :
    syncRun q ⟨(queueGet s q).started, d, begunState s q d⟩ =
      if l1Ok (fieldAt hdr 8 8) = false then
        finish (headerRead s q d) [] q (queueGet s q).started 0x27 (regGet s (0x42000 + 8 * dWord d 1)) 0
      else if fieldAt hdr 0 8 ≠ dWord d 2 ∨ fieldAt hdr 0 8 ≤ regGet s (0x42000 + 8 * dWord d 1) then
        finish (headerRead s q d) [] q (queueGet s q).started 0x24 (regGet s (0x42000 + 8 * dWord d 1)) 0
      else finish (synced (headerRead s q d) (dWord d 1) (fieldAt hdr 0 8) (fieldAt hdr 8 8)) [] q (queueGet s q).started 0 (fieldAt hdr 0 8) 0 := by
  have calm := queueTurn_calm turn
  have checks := syncChecks body cmd own
  have read : paRead (begunState s q d) 0 (rootHdr (begunState s q d) (dWord d 1)) 64 = (hdr, false) := by
    rw [← header, ← cohGet_clean s (64 / 64 + 2) (rootHdr s (dWord d 1)) 64 calm]
    exact paRead_begunState calm q d 0 _ 64
  have on : ¬ regField (begunState s q d) (0x41000 + 8 * dWord d 1) 63 63 = 0 := by
    rw [show regField (begunState s q d) (0x41000 + 8 * dWord d 1) 63 63 = 1 from enabled]; decide
  simp only [syncRun, checks, read, on, finishAt, ne_eq, not_true_eq_false, if_false, Bool.false_or]
  cases l1Ok (fieldAt hdr 8 8) <;> rfl

/-- XLT_SYNC of a root that is not enabled. -/
theorem syncRun_disabled {s : State} {q : Nat} {d : List Byte} (body : bodyOk d = true) (cmd : dCmd d = 9)
    (own : dWord d 1 = (queueGet s q).root ∨ (queueGet s q).priv = true) (disabled : regField s (0x41000 + 8 * dWord d 1) 63 63 = 0) :
    syncRun q ⟨(queueGet s q).started, d, begunState s q d⟩ =
      finish (begunState s q d) [] q (queueGet s q).started 0x27 (regGet s (0x42000 + 8 * dWord d 1)) 0 := by
  have checks := syncChecks body cmd own
  have off : regField (begunState s q d) (0x41000 + 8 * dWord d 1) 63 63 = 0 := disabled
  exact (if_neg (not_not.mpr checks)).trans (if_pos off)

/-! ### Fences in the canopy (R340, R341, R343) -/

/-- A command's fence lies in the canopy, readable in plaintext through a cached leaf, and nothing holds its line (R340, R343). -/
structure CanopyFence (s : State) (root va : Nat) (lf : Leaf) : Prop where
  cached : cachedAt s root va lf
  readable : eR lf.ent = true
  plain : eSel lf.ent = 0
  canopy : paTier (leafPA lf va) = 0
  aligned : leafPA lf va % 8 = 0
  low : leafPA lf va < 2 ^ 44
  free : rangeHeld s qsuSrc 0 (leafPA lf va) 8 false = false

theorem translate_cached {s : State} {root va : Nat} {lf : Leaf} (cached : cachedAt s root va lf) : translate s root va = (.leaf lf, s) := by
  obtain ⟨range, found⟩ := cached
  unfold translate
  rw [if_neg (Nat.not_le.mpr range), found]

/-- Starting a command, which is no BIAS_SET that holds its pages yet, makes no access wait. -/
theorem rangeHeld_begunState {s : State} {src sel a n : Nat} {wr : Bool} (q : Nat) (d : List Byte) (free : rangeHeld s src sel a n wr = false) :
    rangeHeld (begunState s q d) src sel a n wr = false := by
  have bias : ∀ line, biasHeld (begunState s q d) line = true → biasHeld s line = true := by
    intro line held
    simp only [biasHeld, Bool.and_eq_true, List.any_eq_true] at held ⊢
    obtain ⟨device, p, listed, r, running, holds⟩ := held
    refine ⟨device, p, ?_, r, running, holds⟩
    rcases mem_tabSet (show p ∈ tabSet (fun _ => queue0) s.qsu.queues q (begun (queueGet s q) d) from listed) with rfl | ⟨-, old⟩
    · obtain rfl := List.mem_singleton.mp running
      simp at holds
    · exact old
  have waits : ∀ line, agentWaits (begunState s q d) src sel line wr = true → agentWaits s src sel line wr = true := by
    intro line wait
    by_cases held : biasHeld s line = true
    · simp [agentWaits, lineHeld, held]
    · have same : agentWaits (begunState s q d) src sel line wr = agentWaits s src sel line wr := by
        unfold agentWaits lineHeld
        rw [Bool.eq_false_of_not_eq_true held, Bool.eq_false_of_not_eq_true (held ∘ bias line)]
        rfl
      rwa [same] at wait
  simp only [rangeHeld, List.any_eq_false] at free ⊢
  exact fun line listed held => free line listed (waits line held)

/-- Where nothing is cached no agent has a request refused or a line reserved. -/
theorem rangeTake_uncached {s : State} (calm : uncached s) (src a n : Nat) : rangeTake s src a n = s := by
  refine List.foldlRecOn (motive := fun t => t = s) _ _ rfl ?_
  rintro t rfl line _
  simp [mshrOf, calm.1, coh0]

/-- A WAIT's read of its fence (R343): its command completes at or above its target, and goes on waiting below. -/
theorem waitRead_canopy {s : State} {q : Nat} {d : List Byte} {lf : Leaf} (calm : uncached s)
    (fence : CanopyFence s (queueGet s q).root (dWord d 1) lf) :
    let pa := leafPA lf (dWord d 1)
    let cur := leNat (paRead s 0 pa 8).1
    waitRead (begunState s q d) q ⟨(queueGet s q).started, d, 0, 0, 0⟩ =
      if dWord d 2 ≤ cur then finish (readNotes (begunState s q d) pa 8) [] q (queueGet s q).started 0 cur 0
      else readNotes (begunState s q d) pa 8 := by
  obtain ⟨cached, readable, plain, canopy, aligned, low, free⟩ := fence
  have leaf : translate (begunState s q d) (begun (queueGet s q) d).root (dWord d 1) = (.leaf lf, begunState s q d) :=
    translate_cached (s := begunState s q d) cached
  have take := rangeTake_uncached (s := begunState s q d) calm qsuSrc (leafPA lf (dWord d 1)) 8
  have read : paRead (readNotes (begunState s q d) (leafPA lf (dWord d 1)) 8) 0 (leafPA lf (dWord d 1)) 8 = paRead s 0 (leafPA lf (dWord d 1)) 8 :=
    ((readNotes_sent _ _ _).paRead (s := begunState s q d) calm 0 _ 8).trans (paRead_begunState calm q d 0 _ 8)
  intro pa cur
  unfold waitRead
  dsimp only
  rw [queueGet_begunState, leaf]
  dsimp only
  rw [plain, rangeHeld_begunState q d free, take, read, canopy]
  simp [readable, finish, pa, cur]

theorem waitRun_begunState {s : State} {q : Nat} {d : List Byte} (body : bodyOk d = true) (cmd : dCmd d = 4) :
    waitRun q ⟨(queueGet s q).started, d, begunState s q d⟩ = waitRead (begunState s q d) q ⟨(queueGet s q).started, d, 0, 0, 0⟩ := by
  have checks : firstChecks (begunState s q d) q d true = 0 := firstChecks_begunState body (by simp [needsPriv, cmd])
  simp only [waitRun, checks, ne_eq, not_true_eq_false, if_false]

/-- FENCE_POLL reads the fence of a queue's one command, a WAIT (R343). -/
theorem exec_fencePoll_begunState {s t : State} {q : Nat} {d : List Byte} (turn : queueTurn s q d) (cmd : dCmd d = 4)
    (reads : waitRead (begunState s q d) q ⟨(queueGet s q).started, d, 0, 0, 0⟩ = t) (errs : t.errs = s.errs) (pending : t.pending = s.pending) :
    exec (.fencePoll q) (begunState s q d) = .next t := by
  obtain ⟨live, hq, -⟩ := id turn
  have waits : waitsOf (begunState s q d) q = [⟨(queueGet s q).started, d, 0, 0, 0⟩] := by
    simp [waitsOf, queueGet_begunState, begun, cmd]
  exact withUnit_calm 1024 q (begunState s q d) t _ hq live (by rw [waits]; exact reads) errs pending

/-! ### SIGNAL (R341) -/

theorem testBit_wordMask {o i : Nat} (h : i < 8) : ((2 ^ 8 - 1) * 2 ^ o).testBit (o + i) = true := by
  rw [Nat.testBit_mul_two_pow, Nat.testBit_two_pow_sub_one]
  simp [h]

/-- The eight bytes of a line that a masked word replaces. -/
theorem mergeBytes_word {o : Nat} (within : o + 8 ≤ 64) (word old : List Byte) (len : word.length = 8) :
    ((mergeBytes ((2 ^ 8 - 1) * 2 ^ o) (List.replicate o 0 ++ word) old).drop o).take 8 = word := by
  apply List.ext_getElem
  · simp [mergeBytes, len]; omega
  · intro i _ h
    have bit : (255 * 2 ^ o).testBit (o + i) = true := testBit_wordMask (by omega)
    simp [mergeBytes, bit, byteAt, h]

/-- A canopy line reads back as it was written in plaintext. -/
theorem memRead_memWrite_canopy {s : State} (calm : uncached s) {line : Nat} (canopy : lineTier line = 0) (mask : Nat) (data : List Byte) :
    memRead (memWrite s 0 line mask data false) 0 line = (mergeBytes mask data (memRead s 0 line).1, false) := by
  have after := memWrite_same s line mask data calm
  have tiers := injTaken_bytes s line
  have read : memRead (injTaken s line) 0 line = memRead s 0 line := memRead_congr tiers 0 line
  have len : (mergeBytes mask data (memRead s 0 line).1).length = 64 := by simp [mergeBytes]
  have raw := tabBytes_tabPut_same s.tiers.bytes (64 * line) (mergeBytes mask data (memRead s 0 line).1)
  rw [len] at raw
  rw [memRead_canopy after.1 canopy]
  unfold memWrite memStore
  simp [selEmpty, canopy, rawLine, read, tiers, raw, rekey, pairOf]

/-- The complex with a canopy word written where nothing is cached, its host copy resolved first (R284, R341). -/
def fenceWritten (s : State) (pa v : Nat) : State :=
  memWrite (biasSnoop s 2 (pa / 64)) 0 (pa / 64) ((2 ^ 8 - 1) * 2 ^ (pa % 64)) (List.replicate (pa % 64) 0 ++ leBytes 8 v) false

theorem fenceWritten_effectOnly {s : State} (calm : uncached s) (pa v : Nat) : EffectOnly s (fenceWritten s pa v) := by
  have sent := (biasSnoop_sent s 2 (pa / 64)).effectOnly calm
  exact sent.trans (memWrite_plain_effectOnly sent.calm _ _ _)

theorem paRead_fenceWritten {s : State} (calm : uncached s) {pa : Nat} (aligned : pa % 8 = 0) (low : pa < 2 ^ 44) (v : Nat) :
    paRead (fenceWritten s pa v) 0 pa 8 = (leBytes 8 v, false) := by
  have canopy : lineTier (pa / 64) = 0 := by unfold lineTier; omega
  have sent := (biasSnoop_sent s 2 (pa / 64)).effectOnly calm
  rw [paRead_word (fenceWritten_effectOnly calm pa v).calm aligned, fenceWritten, memRead_memWrite_canopy sent.calm canopy,
    mergeBytes_word (by omega) _ _ (length_leBytes 8 v)]

/-- The atomic maximum on a canopy fence, for a value that is not below it and does not raise it to the largest (R341). -/
theorem fenceMax_canopy {s : State} (calm : uncached s) {pa v : Nat} (low : pa < 2 ^ 44) (reaches : leNat (paRead s 0 pa 8).1 ≤ v)
    (room : leNat (paRead s 0 pa 8).1 < v → v < 2 ^ 64 - 1) :
    fenceMax s 0 pa v = (0, leNat (paRead s 0 pa 8).1,
      if leNat (paRead s 0 pa 8).1 < v then fenceWritten s pa v else biasSnoop s 2 (pa / 64)) := by
  have device : lineTier (pa / 64) ≠ 2 := by unfold lineTier; omega
  have write := cohWriteCore_uncached (biasSnoop s 2 (pa / 64)) 0 (pa / 64) ((2 ^ 8 - 1) * 2 ^ (pa % 64))
    (List.replicate (pa % 64) 0 ++ leBytes 8 v) false ((biasSnoop_coh s 2 _).trans calm.1)
  simp only [fenceMax, device, decide_false, Bool.false_eq_true, if_false, write, Bool.false_and, fenceWritten]
  split
  · next raises =>
    rw [if_neg (room raises).ne]
  · have equal : v = leNat (paRead s 0 pa 8).1 := by omega
    simp [← equal]

/-- A sweep of the fence's WAITs reads none where no command runs (R343). -/
theorem waitSweep_none {t : State} (pa : Nat) (none_ : ∀ p ∈ t.qsu.queues, (queueGet t p.1).run = []) : waitSweep t pa = t := by
  refine List.foldlRecOn (motive := fun u => u = t) _ _ rfl ?_
  rintro u rfl p listed
  simp [waitsOf, none_ p listed]

/-- Once the queue's own command has completed, no command runs where no other queue runs one. -/
theorem nothingRuns {s t : State} {q : Nat} {k : Queue} (queues : t.qsu.queues = tabSet (fun _ => queue0) s.qsu.queues q k) (own : k.run = [])
    (others : ∀ p ∈ s.qsu.queues, p.1 = q ∨ p.2.run = []) (j : Nat) : (queueGet t j).run = [] := by
  rw [queueGet, queues, tabGet_tabSet]
  split
  · exact own
  · next other =>
    rcases tabGet_mem_or_default (fun _ => queue0) s.qsu.queues j with listed | absent
    · exact (others _ listed).resolve_left other
    · rw [absent]; rfl

/-- SIGNAL on a canopy fence, for a value it does not pass (R341): the maximum is made, and its record shows the value met. -/
theorem signalRun_canopy {s : State} {q : Nat} {d : List Byte} {lf : Leaf} (turn : queueTurn s q d) (body : bodyOk d = true) (cmd : dCmd d = 3)
    (fence : CanopyFence s (queueGet s q).root (dWord d 1) lf) (writable : eW lf.ent = true)
    (others : ∀ p ∈ s.qsu.queues, p.1 = q ∨ p.2.run = []) :
    let pa := leafPA lf (dWord d 1)
    let cur := leNat (paRead s 0 pa 8).1
    cur ≤ dWord d 2 → (cur < dWord d 2 → dWord d 2 < 2 ^ 64 - 1) →
    signalRun q ⟨(queueGet s q).started, d, begunState s q d⟩ =
      finish (if cur < dWord d 2 then fenceWritten (begunState s q d) pa (dWord d 2) else biasSnoop (begunState s q d) 2 (pa / 64)) [] q
        (queueGet s q).started 0 cur 0 := by
  obtain ⟨cached, readable, plain, canopy, aligned, low, free⟩ := fence
  intro pa cur reaches room
  have calm : uncached (begunState s q d) := begunState_calm turn
  have checks : firstChecks (begunState s q d) q d true = 0 := firstChecks_begunState body (by simp [needsPriv, cmd])
  have leaf : translate (begunState s q d) (begun (queueGet s q) d).root (dWord d 1) = (.leaf lf, begunState s q d) :=
    translate_cached (s := begunState s q d) cached
  have found : fenceFind (begunState s q d) (begun (queueGet s q) d).root (dWord d 1) true = (1, pa, 0) := by
    simp [fenceFind, leaf, readable, writable, canopy, plain, pa]
  have read : paRead (begunState s q d) 0 pa 8 = paRead s 0 pa 8 := paRead_begunState (queueTurn_calm turn) q d 0 _ 8
  have maximum := fenceMax_canopy (pa := pa) (v := dWord d 2) calm low (by rw [read]; exact reaches) (by rw [read]; exact room)
  rw [read] at maximum
  have effect : EffectOnly (begunState s q d)
      (if cur < dWord d 2 then fenceWritten (begunState s q d) pa (dWord d 2) else biasSnoop (begunState s q d) 2 (pa / 64)) := by
    split
    · exact fenceWritten_effectOnly calm pa _
    · exact (biasSnoop_sent _ 2 _).effectOnly calm
  obtain ⟨-, -, queues⟩ := finish_startedAs turn (phase := 0) (val := 0) (fj := 0) effect 0 cur 0
  unfold signalRun
  simp only [checks, queueGet_begunState, found, leaf, maximum, finishAt]
  exact waitSweep_none pa fun p _ => nothingRuns queues rfl others p.1

/-! ### The commands, from start to record -/

section Commands
variable {s : State} {q : Nat} {d : List Byte} (turn : queueTurn s q d) (body : bodyOk d = true)
include turn body

theorem nopCmd_completes (cmd : dCmd d = 0) : queueRuns (.nopCmd q) s q (fun t => completes s t q d 0 0 0 ∧
    t.xlt = s.xlt ∧ t.tiers.winBase = s.tiers.winBase ∧ t.tiers.bias = s.tiers.bias) :=
  queueRuns_completes turn rfl (by simp [cmd]) rfl (nopRun_begunState body cmd) (.refl (begunState_calm turn))
    fun _ record => ⟨record.xlt, record.winBase, record.bias⟩

theorem windowMove_moves (cmd : dCmd d = 12) (priv : (queueGet s q).priv = true) (valid : winValid s (dWord d 1) (dWord d 2) = true) :
    queueRuns (.windowMove q) s q (fun t => completes s t q d 0 0 0 ∧ t.tiers.winBase = dWord d 1 ∧ t.tiers.winSel = dWord d 2) :=
  queueRuns_completes turn rfl (by simp [cmd]) rfl ((windowRun_begunState body priv).trans (if_pos valid))
    (windowAt_effectOnly (begunState_calm turn) _ _) fun _ record => ⟨record.winBase, record.winSel⟩

theorem windowMove_refuses (cmd : dCmd d = 12) (priv : (queueGet s q).priv = true) (invalid : winValid s (dWord d 1) (dWord d 2) = false) :
    queueRuns (.windowMove q) s q (fun t => completes s t q d 0x25 0 0 ∧
      t.tiers.winBase = s.tiers.winBase ∧ t.tiers.winSel = s.tiers.winSel) :=
  queueRuns_completes turn rfl (by simp [cmd]) rfl ((windowRun_begunState body priv).trans (if_neg (Bool.eq_false_iff.mp invalid)))
    (.refl (begunState_calm turn)) fun _ record => ⟨record.winBase, record.winSel⟩

section Sync
variable (cmd : dCmd d = 9) (own : dWord d 1 = (queueGet s q).root ∨ (queueGet s q).priv = true)
include cmd own

omit own in
/-- An XLT_SYNC that latches nothing, once it has read the header. -/
theorem xltSync_keeps {status : Nat} (ends : syncRun q ⟨(queueGet s q).started, d, begunState s q d⟩ =
      finish (headerRead s q d) [] q (queueGet s q).started status (regGet s (0x42000 + 8 * dWord d 1)) 0) :
    queueRuns (.xltSync q) s q (fun t => completes s t q d status (regGet s (0x42000 + 8 * dWord d 1)) 0 ∧
      t.xlt = s.xlt ∧ regGet t (0x42000 + 8 * dWord d 1) = regGet s (0x42000 + 8 * dWord d 1)) := by
  have root := bodyOk_root body cmd
  exact queueRuns_completes turn rfl (by simp [cmd]) rfl ends (headerRead_effectOnly (queueTurn_calm turn)) fun t record =>
    ⟨record.xlt.trans (headerRead_xlt s q d), (record.reg (by omega)).trans (headerRead_reg s q d _)⟩

theorem xltSync_noTable (noTable : regField s (0x41000 + 8 * dWord d 1) 63 63 = 0 ∨
      l1Ok (fieldAt (paRead s 0 (rootHdr s (dWord d 1)) 64).1 8 8) = false) :
    queueRuns (.xltSync q) s q (fun t => completes s t q d 0x27 (regGet s (0x42000 + 8 * dWord d 1)) 0 ∧
      t.xlt = s.xlt ∧ regGet t (0x42000 + 8 * dWord d 1) = regGet s (0x42000 + 8 * dWord d 1)) := by
  have root := bodyOk_root body cmd
  by_cases disabled : regField s (0x41000 + 8 * dWord d 1) 63 63 = 0
  · exact queueRuns_completes turn rfl (by simp [cmd]) rfl (syncRun_disabled body cmd own disabled) (.refl (begunState_calm turn))
      fun t record => ⟨record.xlt, record.reg (by omega)⟩
  · have bit : regField s (0x41000 + 8 * dWord d 1) 63 63 < 2 := Nat.mod_lt _ (by decide)
    have enabled : regField s (0x41000 + 8 * dWord d 1) 63 63 = 1 := by omega
    exact xltSync_keeps turn body cmd
      ((syncRun_enabled turn body cmd own enabled rfl).trans (if_pos (noTable.resolve_left disabled)))

variable (enabled : regField s (0x41000 + 8 * dWord d 1) 63 63 = 1)
  (table : l1Ok (fieldAt (paRead s 0 (rootHdr s (dWord d 1)) 64).1 8 8) = true)
include enabled table

theorem xltSync_stale (stale : fieldAt (paRead s 0 (rootHdr s (dWord d 1)) 64).1 0 8 ≠ dWord d 2 ∨
      fieldAt (paRead s 0 (rootHdr s (dWord d 1)) 64).1 0 8 ≤ regGet s (0x42000 + 8 * dWord d 1)) :
    queueRuns (.xltSync q) s q (fun t => completes s t q d 0x24 (regGet s (0x42000 + 8 * dWord d 1)) 0 ∧
      t.xlt = s.xlt ∧ regGet t (0x42000 + 8 * dWord d 1) = regGet s (0x42000 + 8 * dWord d 1)) :=
  xltSync_keeps turn body cmd
    ((syncRun_enabled turn body cmd own enabled rfl).trans ((if_neg (by simp [table])).trans (if_pos stale)))

theorem xltSync_latches (gen : fieldAt (paRead s 0 (rootHdr s (dWord d 1)) 64).1 0 8 = dWord d 2)
    (newer : regGet s (0x42000 + 8 * dWord d 1) < dWord d 2) :
    queueRuns (.xltSync q) s q (fun t => completes s t q d 0 (dWord d 2) 0 ∧
      tabGet (fun _ => 0) t.xlt.l1 (dWord d 1) = fieldAt (paRead s 0 (rootHdr s (dWord d 1)) 64).1 8 8 + 1 ∧
      regGet t (0x42000 + 8 * dWord d 1) = dWord d 2 ∧ t.xlt.cache = s.xlt.cache) := by
  have root := bodyOk_root body cmd
  have ends := (syncRun_enabled turn body cmd own enabled rfl).trans ((if_neg (by simp [table])).trans (if_neg (by omega)))
  rw [gen] at ends
  have noted := headerRead_effectOnly (q := q) (d := d) (queueTurn_calm turn)
  refine queueRuns_completes turn rfl (by simp [cmd]) rfl ends (noted.trans (synced_effectOnly noted.calm _ _ _)) fun t record => ⟨?_, ?_, ?_⟩
  · rw [record.xlt, synced_l1]
  · rw [record.reg (by omega), synced_reg _ _ _ (dWord_lt d 2)]
  · rw [record.xlt, synced_cache, headerRead_xlt]

end Sync

section Fence
variable {lf : Leaf} (fence : CanopyFence s (queueGet s q).root (dWord d 1) lf)
include fence

section Signal
variable (cmd : dCmd d = 3) (writable : eW lf.ent = true) (unheld : rangeHeld s qsuSrc 0 (leafPA lf (dWord d 1)) 8 true = false)
  (others : ∀ p ∈ s.qsu.queues, p.1 = q ∨ p.2.run = [])
include cmd writable unheld others

omit turn body cmd others in
/-- A local fence whose line is free lets its SIGNAL start (R341). -/
theorem fenceOwn_canopy : fenceOwn q true s d = true := by
  obtain ⟨cached, readable, plain, canopy, -, -, -⟩ := fence
  simp [fenceOwn, fenceFind, translate_cached cached, readable, writable, canopy, plain, unheld]

theorem signal_raises (below : leNat (paRead s 0 (leafPA lf (dWord d 1)) 8).1 < dWord d 2) (room : dWord d 2 < 2 ^ 64 - 1) :
    queueRuns (.signalCmd q) s q (fun t => completes s t q d 0 (leNat (paRead s 0 (leafPA lf (dWord d 1)) 8).1) 0 ∧
      paRead t 0 (leafPA lf (dWord d 1)) 8 = (leBytes 8 (dWord d 2), false)) := by
  have calm : uncached (begunState s q d) := begunState_calm turn
  have ends := signalRun_canopy turn body cmd fence writable others below.le (fun _ => room)
  rw [if_pos below] at ends
  have effect := fenceWritten_effectOnly calm (leafPA lf (dWord d 1)) (dWord d 2)
  refine queueRuns_completes turn rfl (by simp [cmd]) (fenceOwn_canopy fence writable unheld) ends effect fun t record => ?_
  rw [record.paRead_canopy effect.calm fence.aligned fence.low, paRead_fenceWritten calm fence.aligned fence.low]

theorem signal_meets (equal : leNat (paRead s 0 (leafPA lf (dWord d 1)) 8).1 = dWord d 2) :
    queueRuns (.signalCmd q) s q (fun t => completes s t q d 0 (leNat (paRead s 0 (leafPA lf (dWord d 1)) 8).1) 0 ∧
      paRead t 0 (leafPA lf (dWord d 1)) 8 = paRead s 0 (leafPA lf (dWord d 1)) 8) := by
  have calm : uncached (begunState s q d) := begunState_calm turn
  have ends := signalRun_canopy turn body cmd fence writable others equal.le (fun raises => absurd equal raises.ne)
  rw [if_neg (by omega)] at ends
  have sent := biasSnoop_sent (begunState s q d) 2 (leafPA lf (dWord d 1) / 64)
  refine queueRuns_completes turn rfl (by simp [cmd]) (fenceOwn_canopy fence writable unheld) ends (sent.effectOnly calm) fun t record => ?_
  rw [record.paRead_canopy (sent.effectOnly calm).calm fence.aligned fence.low, sent.paRead calm,
    paRead_begunState (queueTurn_calm turn)]

end Signal

section Wait
variable (cmd : dCmd d = 4)
include cmd

theorem waitCmd_completes (reached : dWord d 2 ≤ leNat (paRead s 0 (leafPA lf (dWord d 1)) 8).1) :
    queueRuns (.waitCmd q) s q (fun t => completes s t q d 0 (leNat (paRead s 0 (leafPA lf (dWord d 1)) 8).1) 0 ∧
      paRead t 0 (leafPA lf (dWord d 1)) 8 = paRead s 0 (leafPA lf (dWord d 1)) 8) := by
  have calm := queueTurn_calm turn
  have ends := (waitRun_begunState body cmd).trans ((waitRead_canopy calm fence).trans (if_pos reached))
  have noted := readNotes_effectOnly (begunState_calm turn) (leafPA lf (dWord d 1)) 8
  refine queueRuns_completes turn rfl (by simp [cmd]) rfl ends noted fun t record => ?_
  rw [record.paRead_canopy noted.calm fence.aligned fence.low, (readNotes_sent _ _ _).paRead (begunState_calm turn),
    paRead_begunState calm]

theorem waitCmd_waits (below : leNat (paRead s 0 (leafPA lf (dWord d 1)) 8).1 < dWord d 2) :
    queueRuns (.waitCmd q) s q (fun t => t = readNotes (begunState s q d) (leafPA lf (dWord d 1)) 8) := by
  have noted := readNotes_effectOnly (begunState_calm turn) (leafPA lf (dWord d 1)) 8
  have waits := (waitRun_begunState body cmd).trans ((waitRead_canopy (queueTurn_calm turn) fence).trans (if_neg (by omega)))
  exact ⟨_, queue_runs q s d turn (· == 4) (by simp [cmd]) (fun _ _ => true) rfl (waitRun q) _ waits noted.calm noted.errs noted.pending, rfl⟩

omit body in
theorem fencePoll_completes (reached : dWord d 2 ≤ leNat (paRead s 0 (leafPA lf (dWord d 1)) 8).1) :
    ∃ t, exec (.fencePoll q) (begunState s q d) = .next t ∧
      completes s t q d 0 (leNat (paRead s 0 (leafPA lf (dWord d 1)) 8).1) 0 := by
  have noted := readNotes_effectOnly (begunState_calm turn) (leafPA lf (dWord d 1)) 8
  obtain ⟨done, record, -⟩ := finish_startedAs turn (phase := 0) (val := 0) (fj := 0) noted 0 (leNat (paRead s 0 (leafPA lf (dWord d 1)) 8).1) 0
  have reads := (waitRead_canopy (queueTurn_calm turn) fence).trans (if_pos reached)
  exact ⟨_, exec_fencePoll_begunState turn cmd reads (record.errs.trans noted.errs) (record.pending.trans noted.pending), done⟩

omit body in
theorem fencePoll_waits (below : leNat (paRead s 0 (leafPA lf (dWord d 1)) 8).1 < dWord d 2) :
    exec (.fencePoll q) (begunState s q d) = .next (readNotes (begunState s q d) (leafPA lf (dWord d 1)) 8) := by
  have noted := readNotes_effectOnly (begunState_calm turn) (leafPA lf (dWord d 1)) 8
  have reads := (waitRead_canopy (queueTurn_calm turn) fence).trans (if_neg (by omega))
  exact exec_fencePoll_begunState turn cmd reads noted.errs noted.pending

end Wait
end Fence
end Commands

end Sys2Proof.Machine

open Sys2Proof Sys2Proof.Machine in
/-- Settles O25: each command passes the first checks, has its one effect beside the queues, and completes; a WAIT below its target stays. -/
theorem queueCommandsComplete : Obligations.QueueCommandsComplete := by
  unfold Obligations.QueueCommandsComplete
  intro q d s turn body k w does
  refine ⟨nopCmd_completes turn body, fun cmd priv => ⟨windowMove_moves turn body cmd priv, windowMove_refuses turn body cmd priv⟩, ?_, ?_⟩
  · intro cmd own act hdr
    exact ⟨xltSync_noTable turn body cmd own, fun enabled table =>
      ⟨xltSync_stale turn body cmd own enabled table, xltSync_latches turn body cmd own enabled table⟩⟩
  · intro lf cached readable plain canopy aligned low free pa cur
    have fence : CanopyFence s k.root (w 1) lf := ⟨cached, readable, plain, canopy, aligned, low, free⟩
    refine ⟨fun cmd writable unheld others => ?_, fun cmd => ?_⟩
    · exact ⟨signal_raises turn body fence cmd writable unheld others, signal_meets turn body fence cmd writable unheld others⟩
    · exact ⟨waitCmd_completes turn body fence cmd, waitCmd_waits turn body fence cmd, fencePoll_completes turn fence cmd,
        fencePoll_waits turn fence cmd⟩
end

section
/-! PROOFS. Queue commands that go on after they have run (R227, R228, R249). -/

namespace Sys2Proof.Machine

/-! ### A change made to every listed core -/

theorem coresMap_only (s : State) (f : Nat → Core → Core) : { coresMap s f with cores := s.cores } = s :=
  List.foldlRecOn (motive := fun t : State => { t with cores := s.cores } = s) _ _ rfl fun _ same _ _ => same

theorem moversMap_only (s : State) (f : Nat → Mover → Mover) : { moversMap s f with movers := s.movers } = s :=
  List.foldlRecOn (motive := fun t : State => { t with movers := s.movers } = s) _ _ rfl fun _ same _ _ => same

/-- What each change of a core keeps, the core has after every change. -/
theorem coreGet_coresMap_induct {f : Nat → Core → Core} (M : Core → Prop) (s : State) (c : Nat) (start : M (coreGet s c))
    (step : ∀ k, M k → M (f c k)) : M (coreGet (coresMap s f) c) := by
  refine List.foldlRecOn (motive := fun t : State => M (coreGet t c)) _ _ start fun t kept p _ => ?_
  by_cases same : c = p.1
  · rw [← same, coreGet_coreMap_same]; exact step _ kept
  · rw [coreGet_coreMap_ne t _ same]; exact kept

/-- What each change of a core keeps, every listed core has after it. -/
theorem cores_coresMap_induct {f : Nat → Core → Core} (M : Core → Prop) (s : State) (fresh : M core0) (start : ∀ p ∈ s.cores, M p.2)
    (step : ∀ c k, M k → M (f c k)) : ∀ p ∈ (coresMap s f).cores, M p.2 := by
  refine List.foldlRecOn (motive := fun t : State => ∀ p ∈ t.cores, M p.2) _ _ start fun t kept p _ r listed => ?_
  rcases mem_tabSet (show r ∈ tabSet (fun _ => core0) t.cores p.1 (f p.1 (coreGet t p.1)) from listed) with rfl | ⟨-, old⟩
  · refine step _ _ ?_
    rcases tabGet_mem_or_default (fun _ => core0) t.cores p.1 with there | absent
    · exact kept _ there
    · rw [coreGet, absent]; exact fresh
  · exact kept r old

/-- A change that, made again, changes no more and that leaves a core as it is after reset reaches every core. -/
theorem coreGet_coresMap {f : Nat → Core → Core} (s : State) (c : Nat) (again : ∀ k, f c (f c k) = f c k) (fresh : f c core0 = core0) :
    coreGet (coresMap s f) c = f c (coreGet s c) := by
  have fold : ∀ (l : List (Nat × Core)) (t : State), coreGet (l.foldl (fun t p => coreMap t p.1 (f p.1)) t) c =
      if c ∈ l.map (·.1) then f c (coreGet t c) else coreGet t c := by
    intro l
    induction l with
    | nil => intro t; rfl
    | cons p l ih =>
      intro t
      rw [List.foldl_cons, ih]
      by_cases same : p.1 = c
      · simp [same, again]
      · rw [coreGet_coreMap_ne t _ (Ne.symm same)]
        exact if_congr (show c ∈ l.map (·.1) ↔ c ∈ (p :: l).map (·.1) by simp [Ne.symm same]) rfl rfl
  rw [coresMap, fold]
  split
  · rfl
  · next unlisted =>
    have absent : coreGet s c = core0 :=
      (tabGet_mem_or_default (fun _ => core0) s.cores c).resolve_left fun listed => unlisted (List.mem_map.mpr ⟨_, listed, rfl⟩)
    rw [absent, fresh]

/-! ### XLT_INVAL (R227, R228) -/

/-- A core whose translation buffer has lost the leaves that an invalidation matches. -/
def lessLeaves (p : Leaf → Bool) (k : Core) : Core := { k with tbuf := k.tbuf.filter (fun l => !p l) }

/-- The complex whose central cache has lost them. -/
def cacheLess (s : State) (p : Leaf → Bool) : State := { s with xlt := { s.xlt with cache := s.xlt.cache.filter (fun l => !p l) } }

/-- A mover whose prefetch buffer has lost them. -/
def lessPrefetch (p : Leaf → Bool) (m : Mover) : Mover := { m with cur := m.cur.map (fun st => { st with pfb := st.pfb.filter (fun l => !p l) }) }

theorem invalLeaves_eq (s : State) (p : Leaf → Bool) :
    invalLeaves s p = moversMap (coresMap (cacheLess s p) (fun _ => lessLeaves p)) (fun _ => lessPrefetch p) := rfl

theorem coreGet_invalLeaves (s : State) (p : Leaf → Bool) (c : Nat) : coreGet (invalLeaves s p) c = lessLeaves p (coreGet s c) := by
  rw [invalLeaves_eq]
  generalize after : coresMap (cacheLess s p) (fun _ => lessLeaves p) = t
  have cores : coreGet (moversMap t (fun _ => lessPrefetch p)) c = coreGet t c := (congrArg (coreGet · c) (moversMap_only t _) :)
  rw [cores, ← after]
  exact coreGet_coresMap (cacheLess s p) c (fun k => by simp [lessLeaves]) rfl

/-- Beside the cores' and the movers' buffers, an invalidation changes the central cache alone. -/
theorem invalLeaves_only (s : State) (p : Leaf → Bool) :
    { invalLeaves s p with cores := s.cores, movers := s.movers } = cacheLess s p := by
  have cores := coresMap_only (cacheLess s p) (fun _ => lessLeaves p)
  have movers := moversMap_only (coresMap (cacheLess s p) (fun _ => lessLeaves p)) (fun _ => lessPrefetch p)
  exact (congrArg (fun x : State => { x with cores := s.cores, movers := s.movers }) movers).trans
    (congrArg (fun x : State => { x with movers := s.movers }) cores)

/-- What the descriptor of an XLT_INVAL names (R227). -/
def invalNamed (d : List Byte) (l : Leaf) : Bool := invalHit l (dWord d 1 % 256) (bitOf (dWord d 1) 8) (dWord d 2) (dWord d 3)

/-- The complex once a started XLT_INVAL has made its removals, begun the next epoch and left its drain (R227, R228). -/
def invalidated (s : State) (q : Nat) (d : List Byte) : State :=
  xltPut (invalLeaves (begunState s q d) (invalNamed d))
    (fun x => { x with epoch := x.epoch + 1, drains := x.drains ++ [⟨q, (queueGet s q).started, x.epoch⟩] })

theorem invalRun_begunState {s : State} {q : Nat} {d : List Byte} (body : bodyOk d = true) (cmd : dCmd d = 10)
    (own : dWord d 1 % 256 = (queueGet s q).root ∨ (queueGet s q).priv = true) :
    invalRun q ⟨(queueGet s q).started, d, begunState s q d⟩ = invalidated s q d := by
  have checks : firstChecks (begunState s q d) q d true = 0 := firstChecks_begunState body fun needs => own.resolve_left fun same => by
    simp [needsPriv, cmd, same] at needs
  exact if_neg (not_not.mpr checks)

/-- All of the complex but its translations, its cores and its movers is as when the command started. -/
theorem invalidated_only (s : State) (q : Nat) (d : List Byte) :
    { invalidated s q d with xlt := s.xlt, cores := s.cores, movers := s.movers } = begunState s q d :=
  (congrArg (fun x : State => { x with xlt := s.xlt }) (invalLeaves_only (begunState s q d) (invalNamed d)) :)

theorem invalidated_xlt (s : State) (q : Nat) (d : List Byte) : (invalidated s q d).xlt =
    { s.xlt with cache := s.xlt.cache.filter (fun l => !invalNamed d l), epoch := s.xlt.epoch + 1
                 drains := s.xlt.drains ++ [⟨q, (queueGet s q).started, s.xlt.epoch⟩] } := by
  have xlt : (invalLeaves (begunState s q d) (invalNamed d)).xlt = (cacheLess (begunState s q d) (invalNamed d)).xlt :=
    (congrArg State.xlt (invalLeaves_only (begunState s q d) (invalNamed d)) :)
  exact (congrArg (fun x : Xlt => { x with
    epoch := x.epoch + 1, drains := x.drains ++ [(⟨q, (queueGet s q).started, x.epoch⟩ : Drain)] }) xlt :)

theorem xltInval_runs {s : State} {q : Nat} {d : List Byte} (turn : queueTurn s q d) (body : bodyOk d = true) (cmd : dCmd d = 10)
    (own : dWord d 1 % 256 = (queueGet s q).root ∨ (queueGet s q).priv = true) (room : s.xlt.drains.length < 3) :
    queueRuns (.xltInval q) s q (· = invalidated s q d) := by
  have only := invalidated_only s q d
  have calm := begunState_calm turn
  exact ⟨_, queue_runs q s d turn (· == 10) (by simp [cmd]) invalOwn (by simp [invalOwn, room]) (invalRun q) _ (invalRun_begunState body cmd own)
    ⟨(congrArg State.coh only :).trans calm.1, (congrArg (fun x : State => x.tiers.poison) only).trans calm.2⟩
    (congrArg State.errs only :) (congrArg State.pending only :), rfl⟩

/-- The complex in which a queue's one command is an XLT_INVAL whose drain, of epoch `e`, is the only one (R228). -/
def draining (s : State) (q : Nat) (d : List Byte) (e : Nat) : State :=
  { begunState s q d with xlt := { s.xlt with drains := [⟨q, (queueGet s q).started, e⟩] } }

/-- The complex whose drain has ended, its command about to complete. -/
def drainEnded (s : State) (q : Nat) (d : List Byte) : State := { begunState s q d with xlt := { s.xlt with drains := [] } }

theorem drainEnded_effectOnly {s : State} (calm : uncached s) (q : Nat) (d : List Byte) : EffectOnly (begunState s q d) (drainEnded s q d) :=
  ⟨calm, rfl, rfl, rfl, rfl, rfl, rfl, rfl, rfl⟩

theorem exec_drainDone_idle {s : State} {q : Nat} {d : List Byte} (turn : queueTurn s q d) {e : Nat} (idle : epochBusy s e = false) :
    ∃ t, exec .xltInvalDrainDone (draining s q d e) = .next t ∧ completes s t q d 0 0 0 ∧ t.xlt.drains = [] := by
  obtain ⟨live, -⟩ := id turn
  have effect := drainEnded_effectOnly (queueTurn_calm turn) q d
  obtain ⟨done, record, -⟩ := finish_startedAs turn (phase := 0) (val := 0) (fj := 0) effect 0 0 0
  have ends : invalDone (draining s q d e) = finish (drainEnded s q d) [] q (queueGet s q).started 0 0 0 :=
    if_neg (Bool.eq_false_iff.mp idle)
  exact ⟨_, runLive_next (draining s q d e) _ invalDone live ends (record.errs.trans effect.errs) (record.pending.trans effect.pending), done,
    congrArg Xlt.drains record.xlt⟩

theorem exec_drainDone_busy {s : State} {q : Nat} {d : List Byte} (turn : queueTurn s q d) {e : Nat} (busy : epochBusy s e = true) :
    exec .xltInvalDrainDone (draining s q d e) = .next (draining s q d e) := by
  obtain ⟨live, -⟩ := id turn
  exact runLive_next (draining s q d e) _ invalDone live (if_pos busy) rfl rfl

/-! ### BIAS_SET (R249) -/

/-- The complex whose started BIAS_SET holds its pages and writes them back (R249 steps 1 and 2). -/
def writingBack (s : State) (q : Nat) (d : List Byte) : State := startedAs s q d 1 0 0

theorem biasRun_begunState {s : State} {q : Nat} {d : List Byte} (body : bodyOk d = true) (priv : (queueGet s q).priv = true) :
    biasRun q ⟨(queueGet s q).started, d, begunState s q d⟩ =
      if dWord d 1 + dWord d 2 ≤ 67584 then writingBack s q d else finish (begunState s q d) [] q (queueGet s q).started 0x26 0 0 := by
  have phase : runPut (begunState s q d) q (queueGet s q).started (fun r => { r with phase := 1 }) = writingBack s q d := by
    simp [runPut, begunState, begun, writingBack, startedAs]
  simp only [biasRun, firstChecks_begunState body (fun _ => priv), finishAt, phase, biasRangeOk, ne_eq, not_true_eq_false, if_false]
  by_cases range : dWord d 1 + dWord d 2 ≤ 67584 <;> simp [range]

theorem biasSet_refuses {s : State} {q : Nat} {d : List Byte} (turn : queueTurn s q d) (body : bodyOk d = true) (cmd : dCmd d = 11)
    (priv : (queueGet s q).priv = true) (beyond : 67584 < dWord d 1 + dWord d 2) :
    queueRuns (.biasSet q) s q (fun t => completes s t q d 0x26 0 0 ∧ t.tiers.bias = s.tiers.bias) :=
  queueRuns_completes turn rfl (by simp [cmd]) rfl ((biasRun_begunState body priv).trans (if_neg (by omega)))
    (.refl (begunState_calm turn)) fun _ record => record.bias

theorem biasSet_holds {s : State} {q : Nat} {d : List Byte} (turn : queueTurn s q d) (body : bodyOk d = true) (cmd : dCmd d = 11)
    (priv : (queueGet s q).priv = true) (range : dWord d 1 + dWord d 2 ≤ 67584) :
    queueRuns (.biasSet q) s q (· = writingBack s q d) :=
  ⟨_, queue_runs q s d turn (· == 11) (by simp [cmd]) (fun _ _ => true) rfl (biasRun q) _
    ((biasRun_begunState body priv).trans (if_pos range)) (queueTurn_calm (s := s) turn) rfl rfl, rfl⟩

/-- A BIAS_SET that writes back holds every access to a canopy line of its pages. -/
theorem lineHeld_writingBack {s : State} {q : Nat} {d : List Byte} (turn : queueTurn s q d) (cmd : dCmd d = 11) {line : Nat}
    (canopy : lineTier line = 0) (first : dWord d 1 ≤ line / 2 ^ 20) (last : line / 2 ^ 20 < dWord d 1 + dWord d 2) :
    lineHeld (writingBack s q d) 0 line false = true := by
  obtain ⟨-, -, -, -, -, -, -, enabled, -⟩ := turn
  have queue : queueGet (writingBack s q d) q = { begun (queueGet s q) d with run := [⟨(queueGet s q).started, d, 1, 0, 0⟩] } :=
    queueGet_queueSet_same s q _
  have listed : (q, queueGet (writingBack s q d) q) ∈ (writingBack s q d).qsu.queues := by
    refine (tabGet_mem_or_default (fun _ => queue0) (writingBack s q d).qsu.queues q).resolve_right fun absent => ?_
    have en : (queueGet (writingBack s q d) q).en = false := by rw [queueGet, absent]; rfl
    rw [queue] at en
    exact absurd enabled (Bool.eq_false_iff.mp en)
  have page : lineOff line / 2 ^ 26 = line / 2 ^ 20 := by
    unfold lineTier at canopy
    unfold lineOff
    omega
  have held : biasHeld (writingBack s q d) line = true := by
    simp only [biasHeld, canopy, if_true, page, Bool.and_eq_true, List.any_eq_true]
    exact ⟨by decide, _, listed, ⟨(queueGet s q).started, d, 1, 0, 0⟩, by rw [queue]; exact List.mem_singleton.mpr rfl,
      by simp only [cmd, first, last, decide_true, beq_self_eq_true, and_self]⟩
  simp [lineHeld, held]

/-! ### BIAS_WRITEBACK_DONE (R249) -/

theorem mem_setAdd {n p : Nat} {l : NatSet} : p ∈ setAdd n l ↔ p = n ∨ p ∈ l := by
  induction l with
  | nil => simp [setAdd]
  | cons m r ih =>
    unfold setAdd
    split
    · simp
    · split
      · next same => simp [same]
      · simp only [List.mem_cons, ih, or_left_comm]

theorem mem_setDel {n p : Nat} {l : NatSet} : p ∈ setDel n l ↔ p ≠ n ∧ p ∈ l := by
  induction l with
  | nil => simp [setDel]
  | cons m r ih =>
    unfold setDel
    split
    · next same => rw [ih, List.mem_cons, same]; tauto
    · next other =>
      rw [List.mem_cons, List.mem_cons, ih]
      constructor
      · rintro (rfl | ⟨apart, old⟩)
        · exact ⟨other, .inl rfl⟩
        · exact ⟨apart, .inr old⟩
      · exact fun ⟨apart, old⟩ => old.imp_right fun old => ⟨apart, old⟩

/-- The pages of a list take one bit, and the others keep theirs. -/
theorem mem_setPages (pages : List Nat) (v p : Nat) (b : NatSet) :
    p ∈ pages.foldl (fun b x => if v = 1 then setAdd x b else setDel x b) b ↔ if p ∈ pages then v = 1 else p ∈ b := by
  induction pages generalizing b with
  | nil => rfl
  | cons x pages ih =>
    rw [List.foldl_cons, ih]
    by_cases later : p ∈ pages
    · simp [later]
    · have first : p ∈ (if v = 1 then setAdd x b else setDel x b) ↔ if p = x then v = 1 else p ∈ b := by
        split
        · next set => by_cases here : p = x <;> simp [mem_setAdd, here, set]
        · next clear => by_cases here : p = x <;> simp [mem_setDel, here, clear]
      simp only [later, if_false, first, List.mem_cons, or_false]

/-- The complex with the bits of a range set as one in the table's cache (R249 step 3). -/
def biasBits (s : State) (p n v : Nat) : State := { s with tiers := { s.tiers with
  bias := ((List.range n).map (fun i => p + i)).foldl (fun b x => if v = 1 then setAdd x b else setDel x b) s.tiers.bias } }

theorem biasBits_effectOnly {s : State} (calm : uncached s) (p n v : Nat) : EffectOnly s (biasBits s p n v) :=
  ⟨calm, rfl, rfl, rfl, rfl, rfl, rfl, rfl, rfl⟩

theorem biasBits_contains (s : State) (p n v page : Nat) :
    (biasBits s p n v).tiers.bias.contains page = if p ≤ page ∧ page < p + n then v == 1 else s.tiers.bias.contains page := by
  have within : page ∈ (List.range n).map (fun i => p + i) ↔ p ≤ page ∧ page < p + n := by
    rw [List.mem_map]
    constructor
    · rintro ⟨i, listed, rfl⟩
      have := List.mem_range.mp listed
      omega
    · exact fun within => ⟨page - p, List.mem_range.mpr (by omega), by omega⟩
  rw [Bool.eq_iff_iff, List.contains_iff_mem, biasBits, mem_setPages]
  simp only [within]
  split <;> simp

/-- The table in memory follows its cache (R249 step 3): the bits of the range are written where nothing is cached. -/
theorem biasFlip_uncached {s : State} (calm : uncached s) (p n v : Nat) :
    EffectOnly s (biasFlip s p n v) ∧
      ∀ page, (biasFlip s p n v).tiers.bias.contains page = if p ≤ page ∧ page < p + n then v == 1 else s.tiers.bias.contains page := by
  have bits := biasBits_effectOnly calm p n v
  refine ⟨bits.trans (paWrite_effectOnly bits.calm _ _), fun page => ?_⟩
  rw [← biasBits_contains]
  exact congrArg (List.contains · page) (paWrite_bias bits.calm _ _)

/-- What the write-back of a BIAS_SET does to the L1s (R249 step 2): on a change to host bias, its pages' sectors go. -/
def pagesLeaveL1 (s : State) (d : List Byte) : State :=
  if dWord d 3 = 1 then coresMap s (fun _ k => l1Clear (biasLine (dWord d 1) (dWord d 2)) k) else s

theorem lessL1_l1Clear (p : Nat → Bool) (k : Core) : lessL1 (l1Clear p k) = lessL1 k := rfl

theorem coreGet_pagesLeaveL1 (s : State) (d : List Byte) (c : Nat) : lessL1 (coreGet (pagesLeaveL1 s d) c) = lessL1 (coreGet s c) := by
  unfold pagesLeaveL1
  split
  · exact coreGet_coresMap_induct (fun k => lessL1 k = lessL1 (coreGet s c)) s c rfl fun k same => (lessL1_l1Clear _ k).trans same
  · rfl

theorem pagesLeaveL1_only (s : State) (d : List Byte) : { s with cores := (pagesLeaveL1 s d).cores } = pagesLeaveL1 s d := by
  have only := coresMap_only s (fun _ k => l1Clear (biasLine (dWord d 1) (dWord d 2)) k)
  unfold pagesLeaveL1
  split
  · exact (congrArg (fun x : State => { x with cores := (coresMap s fun _ k => l1Clear (biasLine (dWord d 1) (dWord d 2)) k).cores }) only).symm
  · rfl

theorem resting_congr {s t : State} (cores : t.cores = s.cores) (ride : t.ride = s.ride) (rest : resting s) : resting t := by
  unfold resting portGet
  rw [cores, ride]
  exact rest

theorem resting_pagesLeaveL1 {s : State} (d : List Byte) (rest : resting s) : resting (pagesLeaveL1 s d) := by
  obtain ⟨cores, lands, held⟩ := rest
  unfold pagesLeaveL1
  split
  · have only := coresMap_only s (fun _ k => l1Clear (biasLine (dWord d 1) (dWord d 2)) k)
    refine ⟨?_, (congrArg (fun x : State => x.ride.lands) only).trans lands, fun i hi => ?_⟩
    · exact cores_coresMap_induct (fun k => k.st ≠ .running ∧ k.st ≠ .stopping ∧ k.st ≠ .loading ∧ k.tq = []) s
        ⟨by decide, by decide, by decide, rfl⟩ cores fun _ _ idle => idle
    · exact (congrArg (fun x : State => (portGet x i).held) only).trans (held i hi)
  · exact ⟨cores, lands, held⟩

/-- BIAS_WRITEBACK_DONE where nothing is cached: no slice holds a line to write back. -/
theorem biasDone_writingBack {s : State} {q : Nat} {d : List Byte} (turn : queueTurn s q d) (cmd : dCmd d = 11) :
    biasDone (writingBack s q d) q = goOn (finish (biasFlip (pagesLeaveL1 (writingBack s q d) d) (dWord d 1) (dWord d 2) (dWord d 3)) [] q
      (queueGet s q).started 0 0 0) := by
  have running : biasOf (writingBack s q d) q = some ⟨(queueGet s q).started, d, 1, 0, 0⟩ := by
    simp [biasOf, writingBack, startedAs, cmd]
  have coh : (writingBack s q d).coh = coh0 := (queueTurn_calm turn).1
  have flushed : ∀ p, flushLines (writingBack s q d) p = writingBack s q d := fun p => by simp [flushLines, coh, coh0]
  unfold biasDone
  rw [running]
  dsimp only
  rw [coh, flushed]
  rfl

/-- The completion of a queue's one command after an effect that has changed cores besides. -/
theorem finish_coresChanged {s u : State} {q phase val fj : Nat} {d : List Byte} (turn : queueTurn s q d) {cores : Tab Core}
    (effect : EffectOnly { startedAs s q d phase val fj with cores := cores } u) (status d0 d1 : Nat) :
    recorded s (finish u [] q (queueGet s q).started status d0 d1) q d status d0 d1 ∧
    RecordOnly u (finish u [] q (queueGet s q).started status d0 d1) := by
  have turn' : queueTurn { s with cores := cores } q d := turn
  obtain ⟨⟨record, -⟩, after, -⟩ := finish_startedAs turn' effect status d0 d1
  exact ⟨record, after⟩

/-- A BIAS_SET completes once its write-back is done (R249 steps 2 to 4): its pages' bits change, and cores lose sectors of their L1s
at most. -/
theorem biasWritebackDone_completes {s : State} {q : Nat} {d : List Byte} (turn : queueTurn s q d) (cmd : dCmd d = 11) (rest : resting s) :
    ∃ t, exec (.biasWritebackDone q) (writingBack s q d) = .next t ∧ recorded s t q d 0 0 0 ∧
      (∀ c, coreGet t c = { coreGet s c with l1 := (coreGet t c).l1 }) ∧
      ∀ p, t.tiers.bias.contains p = if dWord d 1 ≤ p ∧ p < dWord d 1 + dWord d 2 then dWord d 3 == 1 else s.tiers.bias.contains p := by
  obtain ⟨live, hq, -⟩ := id turn
  have done := biasDone_writingBack turn cmd
  have kept := coreGet_pagesLeaveL1 (writingBack s q d) d
  have rested := resting_pagesLeaveL1 (s := writingBack s q d) d rest
  have only := pagesLeaveL1_only (writingBack s q d) d
  generalize pagesLeaveL1 (writingBack s q d) d = x at done kept rested only
  have calm : uncached x := by rw [← only]; exact queueTurn_calm (s := s) turn
  obtain ⟨effect, bits⟩ := biasFlip_uncached calm (dWord d 1) (dWord d 2) (dWord d 3)
  generalize biasFlip x (dWord d 1) (dWord d 2) (dWord d 3) = u at done effect bits
  obtain ⟨record, after⟩ := finish_coresChanged turn (only.symm ▸ effect) 0 0 0
  generalize finish u [] q (queueGet s q).started 0 0 0 = t at done record after
  have cores := after.cores.trans effect.cores
  rw [goOn_resting (resting_congr cores (after.ride.trans effect.ride) rested)] at done
  have errs : t.errs = s.errs := (after.errs.trans effect.errs).trans (congrArg State.errs only :).symm
  have pending : t.pending = s.pending := (after.pending.trans effect.pending).trans (congrArg State.pending only :).symm
  have bias : x.tiers.bias = s.tiers.bias := (congrArg (fun y : State => y.tiers.bias) only :).symm
  refine ⟨t, withUnit_calm 1024 q (writingBack s q d) t (biasDone · q) hq live done errs pending, record, fun c => ?_, fun p => ?_⟩
  · have same : lessL1 (coreGet t c) = lessL1 (coreGet s c) := by
      rw [coreGet, cores]
      exact kept c
    exact (congrArg (fun k : Core => { k with l1 := (coreGet t c).l1 }) same :)
  · rw [after.bias, bits p, bias]

end Sys2Proof.Machine

open Sys2Proof Sys2Proof.Machine in
/-- Settles O26: XLT_INVAL leaves a drain, which ends with its epoch; BIAS_SET holds its pages until their write-back is done. -/
theorem queueCommandsThatGoOn : Obligations.QueueCommandsThatGoOn := by
  unfold Obligations.QueueCommandsThatGoOn
  intro q d s turn body k w keeps drained writing
  refine ⟨fun cmd own room => ⟨?_, fun e => exec_drainDone_idle turn, fun e => exec_drainDone_busy turn⟩, fun cmd priv => ⟨?_, ?_, ?_⟩⟩
  · obtain ⟨t, runs, rfl⟩ := xltInval_runs turn body cmd own room
    have only := invalidated_only s q d
    refine ⟨_, runs, ?_, invalidated_xlt s q d, fun c => ?_, (congrArg State.tiers only :), (congrArg State.regs only :)⟩
    · exact (congrArg (queueGet · q) only :).trans (queueGet_begunState s q d)
    · exact coreGet_invalLeaves (begunState s q d) (invalNamed d) c
  · exact biasSet_refuses turn body cmd priv
  · intro range
    obtain ⟨t, runs, rfl⟩ := biasSet_holds turn body cmd priv range
    exact ⟨_, runs, rfl, fun line => lineHeld_writingBack turn cmd⟩
  · exact biasWritebackDone_completes turn cmd
end


section
/-! PROOFS. A key command whose slot a waiting write names (R244, R256). -/

namespace Sys2Proof.Machine

/-- A KEY_ERASE of slot 5 is under way, and a write under that slot waits for the overwrite of its understory page. -/
def eraseAwaitsWrite : State :=
  { State.reset with tiers := { tiers0 with
    slots := [(5, 7)], keyCmd := some ⟨false, 5, 7⟩, wErased := true, owHeld := [⟨2 ^ 38, 5, fullMask, List.replicate 64 1, false⟩] } }

theorem eraseAwaitsWrite_serves : Live eraseAwaitsWrite ∧ uncached eraseAwaitsWrite ∧ resting eraseAwaitsWrite := by
  unfold Live uncached resting
  decide +kernel

/-- The key command in progress in the state a command leaves. -/
def keyCmdAfter (o : Host.Outcome State Fault Refusal) : Option KeyCmd :=
  match o with
  | .next t => t.tiers.keyCmd
  | _ => none

/-- The write is still on its way under the slot, so the key command goes on waiting (R244). -/
theorem eraseAwaitsWrite_waits : keyCmdAfter (exec .keyCmdDone eraseAwaitsWrite) = some ⟨false, 5, 7⟩ := by
  decide +kernel

end Sys2Proof.Machine

open Sys2Proof Sys2Proof.Machine in
/-- Refutes O32: a key command does not always end at KEY_CMD_DONE. While a write under its slot waits for the overwrite of its understory
page (R256), a line of the slot is still on its way, and the command goes on (R244). -/
theorem not_memoryIsGuarded : ¬ Obligations.MemoryIsGuarded := by
  unfold Obligations.MemoryIsGuarded
  intro claim
  obtain ⟨live, calm, rest⟩ := eraseAwaitsWrite_serves
  obtain ⟨-, -, ends, -⟩ := claim eraseAwaitsWrite live calm
  obtain ⟨t, runs, -, tiers, -⟩ := ends ⟨false, 5, 7⟩ rest rfl
  have waits := eraseAwaitsWrite_waits
  rw [runs, keyCmdAfter, tiers] at waits
  cases waits
end

section
/-! PROOFS. The window's write and an armed injection (R239, R251, R452). -/

namespace Sys2Proof.Machine

/-- FR_INJECT of the canopy's controller 0 (R452). -/
def injectOff : Nat := 0x100030 + 0x100 * 0xA50

/-- The complex in RUN with link 0 trained, its decoder committed, read-ahead off, and an inversion of the check bits armed at the
controller of the window's first line. -/
def armedWindow : State :=
  { regPut (regSet (regSet State.reset 0x20008 18 16 3) 0xB0000 19 16 0) injectOff (2 ^ 63) with
    host := { hostPort0 with links := [(0, { link0 with trained := true })], hdm := [(0, 2)] } }

/-- The line that the host writes. -/
def hostLine : List Byte := List.replicate 64 7

theorem armedWindow_serves : Live armedWindow ∧ resting armedWindow ∧ uncached armedWindow := by
  unfold Live resting uncached
  decide +kernel

/-- The window's first line is served, uncached canopy that nothing holds. -/
theorem armedWindow_open :
    let w := hostOffset armedWindow 0 0 / 64 * 64
    hostSees armedWindow 0 = true ∧ windowStopped armedWindow = false ∧ hdmDone armedWindow = true ∧ w < winSize ∧ winServes armedWindow = true ∧
      (winCur armedWindow).2 = 0 ∧ lineTier (winLine armedWindow w) = 0 ∧ winHeld armedWindow w true = false ∧
      winHeld armedWindow w false = false ∧ inStash armedWindow w = false ∧ armedWindow.host.ra = [] ∧ regField armedWindow 0xB0000 19 16 = 0 := by
  decide +kernel

/-- A write of the window's first line, and the read of it. -/
def writtenAndRead (s : State) : Host.Outcome State Fault Refusal :=
  match exec (.memWr 0 0 (2 ^ 64 - 1) 0 hostLine) s with
  | .next t => exec (.memRd 0 0) t
  | stop => stop

/-- FR_INJECT.ARM of that controller in the state a command leaves. -/
def armAfter (o : Host.Outcome State Fault Refusal) : Nat :=
  match o with
  | .next t => regField t injectOff 63 63
  | _ => 1

theorem armedWindow_armed : regField armedWindow injectOff 63 63 = 1 := by decide +kernel

/-- The write takes the armed inversion, and ARM clears (R452). -/
theorem armedWindow_disarms : armAfter (writtenAndRead armedWindow) = 0 := by decide +kernel

end Sys2Proof.Machine

open Sys2Proof Sys2Proof.Machine in
/-- Refutes O56: a write through the window does not leave every register as it was. Where an inversion of check bits is armed at the line's
controller, the write takes it, and FR_INJECT.ARM clears (R452). -/
theorem not_windowReadsBack : ¬ Obligations.WindowReadsBack := by
  unfold Obligations.WindowReadsBack
  intro claim
  obtain ⟨live, rest, calm⟩ := armedWindow_serves
  obtain ⟨sees, going, committed, inside, serves, plain, canopy, writable, readable, noStash, noAhead, aheadOff⟩ := armedWindow_open
  obtain ⟨t, u, writes, reads, -, -, -, regs⟩ := claim armedWindow 0 0 hostLine live rest calm (by decide) sees going committed inside serves
    plain canopy writable readable noStash noAhead aheadOff List.length_replicate
  have both : writtenAndRead armedWindow = .next u := by rw [writtenAndRead, writes, ← reads]
  have kept : armAfter (writtenAndRead armedWindow) = regField armedWindow injectOff 63 63 := by
    simp only [both, armAfter, regField, regGet, regs]
  rw [armedWindow_disarms, armedWindow_armed] at kept
  cases kept
end

section
/-! PROOFS. Cells that arrive at a port with nothing in flight (R384 to R387). -/

namespace Sys2Proof.Machine

/-- The next cell in sequence on a port with nothing in flight is accepted: it brings no credit that the port lacks, and acknowledges no
cell. -/
theorem cellAccept_idle {s : State} {i hdr m ty : Nat} (idle : portIdle s i m) (next : nextCell s i hdr ty) : cellAccept s i hdr = tookCell s i := by
  obtain ⟨-, -, replay, waitq, -, cred, -, -⟩ := idle
  obtain ⟨-, seq, noNak, -⟩ := next
  have full : (List.range 6).map (fun k => min (port0.cred.getD k 0) (port0.cred.getD k 0 + bitsOf hdr (79 - 8 * k) (72 - 8 * k))) = port0.cred := by
    simp only [Nat.min_eq_left (Nat.le_add_right _ _)]
    decide
  unfold cellAccept takeHeader tookCell
  generalize portGet s i = p at replay waitq cred seq ⊢
  obtain ⟨st, lanes, lockTimer, nport, nmode, nserial, tx, rx, ackd, nak, bad, _, _, _, owed, held⟩ := p
  subst replay waitq cred
  simp only [portGet_portSet_same, portSet_portSet, noNak, seq, full, List.findIdx?_nil, Bool.false_eq_true, if_false]
  exact portPump_none _ i (by rw [portGet_portSet_same])

/-- A cell that is the next in sequence takes effect, and what no other cell has reported goes out after it. -/
theorem cellArrive_next {s : State} {i hdr m ty : Nat} (idle : portIdle s i m) (next : nextCell s i hdr ty) (f : State → State) :
    cellArrive s i hdr ty m f = idleOut (commitTry (f (tookCell s i))) i := by
  have accepts := cellAccept_idle idle next
  obtain ⟨up, inMode, replay, -⟩ := idle
  obtain ⟨isType, seq, -, -⟩ := next
  have inSequence : cellNext s i hdr = true := by simp [cellNext, up, seq]
  have noReplay : replayCheck (tookCell s i) i = tookCell s i := by simp [replayCheck, tookCell, replay]
  simp [cellArrive, up, inMode, isType, inSequence, accepts, noReplay]

theorem idleOut_errs (s : State) (i : Nat) : (idleOut s i).errs = s.errs := by
  unfold idleOut
  dsimp only
  split <;> rfl

theorem idleOut_pending (s : State) (i : Nat) : (idleOut s i).pending = s.pending := by
  unfold idleOut
  dsimp only
  split <;> rfl

end Sys2Proof.Machine
end

section
/-! PROOFS. The proof reserve (R253): what its reads depend on, and what its writes leave alone. -/

namespace Sys2Proof.Machine

/-- An owner's copy of a line is the caches' alone. -/
theorem ownerData_congr {s t : State} (coh : t.coh = s.coh) (line : Nat) : ownerData t line = ownerData s line := by
  have dir : dirGet t line = dirGet s line := by rw [dirGet, dirGet, coh]
  have ev : ∀ g, evFind t g line = evFind s g line := fun g => by rw [evFind, evFind, coh]
  have way : ∀ g w, l2get t g line w = l2get s g line w := fun g w => by rw [l2get, l2get, coh]
  have find : ∀ g, l2find t g line = l2find s g line := fun g => by simp only [l2find, way]
  have copy : ∀ g, (snoop t .snpCur g line).2.1 = (snoop s .snpCur g line).2.1 := by
    intro g
    unfold snoop
    rw [ev, find]
    split
    · rfl
    · split
      · rfl
      · simp only [way]
        split <;> rfl
  simp only [ownerData, dir, copy]

theorem resRead_congr {s t : State} (coh : t.coh = s.coh) (tiers : t.tiers = s.tiers) (pa n : Nat) : resRead t pa n = resRead s pa n := by
  simp only [resRead, ownerData_congr coh, rawLine, tiers]

/-- With no write waiting for its page, a page brought forward is overwritten, and nothing else. -/
theorem bringForward_kept {s : State} (held : s.tiers.owHeld = []) (p : Nat) :
    KeptByWrite s (bringForward s p) ∧ (bringForward s p).tiers.owHeld = [] := by
  unfold bringForward
  split
  · exact ⟨.refl s, held⟩
  · rw [held]
    exact ⟨.of_cores rfl rfl, congrArg (List.filter _) held⟩

/-- With no write waiting for its page, the proof engine's write changes the tiers, the caches and the cores' L1s at most. -/
theorem resWrite_kept {s : State} (held : s.tiers.owHeld = []) (pa : Nat) (b : List Byte) : KeptByWrite s (resWrite s pa b) := by
  refine (List.foldlRecOn (motive := fun t : State => KeptByWrite s t ∧ t.tiers.owHeld = []) _ _ ⟨.refl s, held⟩ ?_).1
  rintro t ⟨kept, none_⟩ line -
  obtain ⟨brought, still⟩ := bringForward_kept none_ (underPage line)
  generalize bringForward t (underPage line) = u at brought still
  have stored := dropAll_kept u line
  have tiers := dropAll_tiers u line
  generalize dropAll u line = v at stored tiers
  exact ⟨((kept.trans brought).trans stored).trans (.of_cores rfl rfl), (congrArg Tiers.owHeld tiers).trans still⟩

namespace KeptByWrite
variable {s t : State} (kept : KeptByWrite s t)
include kept

theorem prf : t.prf = s.prf := (congrArg State.prf kept.rest :)
theorem qsu : t.qsu = s.qsu := (congrArg State.qsu kept.rest :)
theorem ride : t.ride = s.ride := (congrArg State.ride kept.rest :)
theorem regs : t.regs = s.regs := (congrArg State.regs kept.rest :)
theorem errs : t.errs = s.errs := (congrArg State.errs kept.rest :)
theorem pending : t.pending = s.pending := (congrArg State.pending kept.rest :)

end KeptByWrite

end Sys2Proof.Machine
end

section
/-! PROOFS. Cells of the proof partner (R473, R476, R479, R482 to R485, R527). -/

namespace Sys2Proof.Machine

/-- The complex once a PROOF cell has been taken and its credit freed (R386). -/
def proofTook (s : State) (i : Nat) : State := freeCredit (tookCell s i) i 10

/-- Without a proof of its own a complex sends no COMMIT. -/
theorem commitTry_none {s : State} (run : s.prf.run = none) : commitTry s = s := by rw [commitTry, run]

/-- What runs sends no COMMIT where it does not stream an image. -/
theorem commitTry_notStreaming {s : State} {r : PrfRun} (run : s.prf.run = some r) (other : r.cmd = 6 → r.phase ≠ 2) : commitTry s = s := by
  unfold commitTry
  rw [run]
  exact if_neg fun h => other h.1 h.2.1

/-! ### What a PROOF cell does (R479, R482) -/

section Cell
variable {s : State} {i hdr : Nat} {d : List Byte} (idle : portIdle s i 3) (next : nextCell s i hdr 10)
include idle next

/-- A PROOF cell of the partner, and of the command's own kind, has that kind's effect. -/
theorem pairArrive_partner {kind : Nat} (partner : fromPartner s i = true) (is : pcKind d = kind) (f : State → State) :
    pairArrive s i hdr kind d f = idleOut (commitTry (f (proofTook s i))) i := by
  have facing : fromPartner (proofTook s i) i = true := by
    simpa [fromPartner, proofTook, freeCredit, tookCell] using partner
  exact (cellArrive_next idle next _).trans (congrArg (fun u => idleOut (commitTry u) i) (if_pos ⟨is, facing⟩))

/-- A PROOF cell of any other serial has no effect. -/
theorem pairArrive_stranger {kind : Nat} (stranger : fromPartner s i = false) (f : State → State) :
    pairArrive s i hdr kind d f = idleOut (commitTry (proofTook s i)) i := by
  have facing : fromPartner (proofTook s i) i = false := by
    simpa [fromPartner, proofTook, freeCredit, tookCell] using stranger
  exact (cellArrive_next idle next _).trans
    (congrArg (fun u => idleOut (commitTry u) i) (if_neg fun both => absurd both.2 (Bool.eq_false_iff.mp facing)))

variable (live : Live s) (port : i < 24)
include live port

/-- A PROOF cell whose effect detects no error and leaves no COMMIT to send. -/
theorem exec_proofCell {c : Instr} {kind : Nat} {f : State → State} {u : State} (partner : fromPartner s i = true) (is : pcKind d = kind)
    (arm : exec c s = withUnit 24 i (runLive s (fun s => pairArrive s i hdr kind d f))) (does : f (proofTook s i) = u)
    (settled : commitTry u = u) (errs : u.errs = s.errs) (pending : u.pending = s.pending) : exec c s = .next (idleOut u i) := by
  refine arm.trans (withUnit_calm 24 i s _ _ port live ?_ ((idleOut_errs u i).trans errs) ((idleOut_pending u i).trans pending))
  rw [pairArrive_partner idle next partner is, does, settled]

theorem exec_proofCell_stranger {c : Instr} {kind : Nat} {f : State → State} (stranger : fromPartner s i = false) (run : s.prf.run = none)
    (arm : exec c s = withUnit 24 i (runLive s (fun s => pairArrive s i hdr kind d f))) : exec c s = .next (idleOut (proofTook s i) i) := by
  refine arm.trans (withUnit_calm 24 i s _ _ port live ?_ (idleOut_errs _ i) (idleOut_pending _ i))
  rw [pairArrive_stranger idle next stranger, commitTry_none (s := proofTook s i) run]

end Cell

/-! ### Cells to the partner (R386, R479) -/

theorem pairUp_congr {s t : State} (modes : ∀ j, j < 24 → portMode t j = portMode s j) (ports : ∀ j, (portGet t j).st = (portGet s j).st) :
    pairUp t = pairUp s := by
  unfold pairUp below
  exact List.filter_congr fun j listed => by simp only [portUp, modes j (List.mem_range.mp listed), ports]

theorem pairMask_congr {s t : State} (modes : ∀ j, j < 24 → portMode t j = portMode s j) : pairMask t = pairMask s :=
  List.foldl_ext _ _ _ fun _ j listed => by rw [modes j (List.mem_range.mp listed)]

/-- A cell for the partner leaves over the one PAIR port that is UP. -/
theorem pairSend_sole {s : State} {i : Nat} (up : pairUp s = [i]) (ready : portReady (portGet s i) 10) (data : List Byte) :
    pairSend s 0 data = sendsCell s i 10 data (pairMask s) := by
  simp only [pairSend, up, List.length_singleton, Nat.mod_one, List.getElem?_cons_zero]
  exact portSend_ready s i 10 data _ ready

/-- A port with nothing in flight can send a PROOF cell. -/
theorem portReady_idle {s : State} {i : Nat} (idle : portIdle s i 3) : portReady (portGet s i) 10 := by
  obtain ⟨up, -, replay, waitq, -, cred, -, -⟩ := idle
  exact ⟨up, waitq, by rw [cred]; decide, by rw [replay]; decide⟩

/-- The port is ready to answer once the cell has been taken. -/
theorem portReady_proofTook {s : State} {i : Nat} (idle : portIdle s i 3) : portReady (portGet (proofTook s i) i) 10 := by
  obtain ⟨up, waitq, cred, replay⟩ := portReady_idle idle
  simp only [proofTook, freeCredit, tookCell, portGet_portSet_same]
  exact ⟨up, waitq, cred, replay⟩

theorem st_proofTook (s : State) (i j : Nat) : (portGet (proofTook s i) j).st = (portGet s j).st := by
  by_cases same : j = i
  · simp [same, proofTook, freeCredit, tookCell]
  · rw [proofTook, freeCredit, portGet_portSet_ne _ _ same, tookCell, portGet_portSet_ne _ _ same]

/-- An effect that leaves the ports and their modes answers the partner with a cell over the port that faces it. -/
theorem pairSend_answers {s u : State} {i : Nat} (idle : portIdle s i 3) (up : pairUp s = [i]) (ride : u.ride = (proofTook s i).ride)
    (modes : ∀ j, j < 24 → portMode u j = portMode s j) (data : List Byte) : pairSend u 0 data = sendsCell u i 10 data (pairMask s) := by
  have ports : ∀ j, portGet u j = portGet (proofTook s i) j := fun j => by rw [portGet, portGet, ride]
  rw [← pairMask_congr modes]
  exact pairSend_sole ((pairUp_congr modes fun j => by rw [ports, st_proofTook]).trans up) (by rw [ports]; exact portReady_proofTook idle) data

end Sys2Proof.Machine
end

section
/-! PROOFS. The kinds of PROOF cell, each with its effect (R473, R476, R479, R482 to R487), and the loss of the pair (R485, R527). -/

namespace Sys2Proof.Machine

/-- With no event ring in use, an event reaches nothing (R346). -/
theorem writeEvent_off {s : State} (off : s.qsu.evOn = false) (code a0 a1 a2 : Nat) : writeEvent s code a0 a1 a2 = s := by
  simp [writeEvent, writeEventQ, off]

/-! ### What the partner sends for a proof of its own (R476) -/

/-- BEGIN opens the slot that does not hold the partner's newest proof (R475, R476 step 1). -/
theorem takeBegin_opens {s : State} {d : List Byte} (held : s.tiers.owHeld = []) (room : 0 < slotGib s) :
    takeBegin s d = { resWrite s (slotBase s (ownOpen s)) (slotHeader 1 (pcGen d) (regGet s 0x90008) 0 []) with
      prf := { s.prf with recv := some ⟨pcGen d, ownOpen s, [], []⟩ } } := by
  have kept := resWrite_kept held (slotBase s (ownOpen s)) (slotHeader 1 (pcGen d) (regGet s 0x90008) 0 [])
  simp only [takeBegin, room.ne', if_false, kept.prf]

section Receiving
variable {s : State} {d : List Byte} {r : RecvRun} (receiving : s.prf.recv = some r)
include receiving

/-- A piece of the image is placed by its offset (R476 step 2). -/
theorem takeData_places (held : s.tiers.owHeld = []) (same : pcGen d = r.gen) (some_ : 0 < (pcData d).length)
    (within : 4096 + pcOff d + (pcData d).length ≤ slotGib s * gib) :
    takeData s d = { resWrite s (slotBase s r.slot + 4096 + pcOff d) (pcData d) with
      prf := { s.prf with
        recv := some { r with got := (pcOff d, (pcData d).length) :: r.got, img := tabPut r.img (pcOff d) (pcData d) } } } := by
  have kept := resWrite_kept held (slotBase s r.slot + 4096 + pcOff d) (pcData d)
  simp only [takeData, receiving, same, some_.ne', Nat.not_lt.mpr within, ne_eq, not_true_eq_false, or_self, if_false, kept.prf]

/-- A piece of another proof, or one that would leave the slot, is not written. -/
theorem takeData_refuses (bad : pcGen d ≠ r.gen ∨ slotGib s * gib < 4096 + pcOff d + (pcData d).length) : takeData s d = s := by
  have refused : pcGen d ≠ r.gen ∨ (pcData d).length = 0 ∨ slotGib s * gib < 4096 + pcOff d + (pcData d).length := bad.imp_right .inr
  simp only [takeData, receiving, refused, if_true]

end Receiving

/-- The complex once what it received has ended or has been dropped. -/
def unreceiving (s : State) : State := { s with prf := { s.prf with recv := none } }

/-- The complex whose slot's header says COMMITTED, and which shows the partner's new generation (R476 step 4). -/
def slotCommitted (s : State) (slot gen n : Nat) (dig : List Byte) : State :=
  regSet (resWrite (unreceiving s) (slotBase s slot) (slotHeader 2 gen (regGet s 0x90008) n dig)) 0x90050 63 32 gen

theorem slotCommitted_kept {s : State} (held : s.tiers.owHeld = []) (slot gen n : Nat) (dig : List Byte) :
    KeptByWrite (unreceiving s) (resWrite (unreceiving s) (slotBase s slot) (slotHeader 2 gen (regGet s 0x90008) n dig)) :=
  resWrite_kept (s := unreceiving s) held _ _

/-- A COMMIT with no proof being received is answered with a failure. -/
theorem takeCommit_none {s : State} {d : List Byte} (recv : s.prf.recv = none) :
    takeCommit s d = pairSend s 0 (prfCell 3 (pcGen d) 0 0 0 1 []) := by
  simp only [takeCommit, recv]

/-- A COMMIT of another proof, of an image with a piece missing, or of another digest is answered with a failure. -/
theorem takeCommit_fails {s : State} {d : List Byte} {r : RecvRun} (receiving : s.prf.recv = some r)
    (bad : pcGen d ≠ r.gen ∨ covers r.got 0 (fieldAt (pcData d) 0 8) = false ∨
      digestBytes (tabBytes r.img 0 (fieldAt (pcData d) 0 8)) ≠ ((pcData d).drop 8).take 48) :
    takeCommit s d = pairSend (unreceiving s) 0 (prfCell 3 (pcGen d) r.slot 0 0 1 []) := by
  have refused : ¬(pcGen d = r.gen ∧ covers r.got 0 (fieldAt (pcData d) 0 8) = true ∧
      digestBytes (tabBytes r.img 0 (fieldAt (pcData d) 0 8)) = ((pcData d).drop 8).take 48) := by
    rintro ⟨same, whole, digest⟩
    rcases bad with other | missing | wrong
    · exact other same
    · exact absurd (whole.symm.trans missing) (by decide)
    · exact wrong digest
  simp only [takeCommit, receiving, refused, if_false, unreceiving]

/-- A COMMIT of the proof being received, every byte there and the digests equal, commits it and is answered OK. -/
theorem takeCommit_commits {s : State} {d : List Byte} {r : RecvRun} (receiving : s.prf.recv = some r) (held : s.tiers.owHeld = [])
    (off : s.qsu.evOn = false) (same : pcGen d = r.gen) (whole : covers r.got 0 (fieldAt (pcData d) 0 8) = true)
    (digest : digestBytes (tabBytes r.img 0 (fieldAt (pcData d) 0 8)) = ((pcData d).drop 8).take 48) :
    takeCommit s d = pairSend (slotCommitted s r.slot (pcGen d) (fieldAt (pcData d) 0 8) (((pcData d).drop 8).take 48)) 0
      (prfCell 3 (pcGen d) r.slot 0 0 0 []) := by
  have kept := slotCommitted_kept held r.slot (pcGen d) (fieldAt (pcData d) 0 8) (((pcData d).drop 8).take 48)
  simp only [takeCommit, receiving, same, whole, digest, and_self, if_true, slotCommitted]
  rw [same] at kept
  generalize written : resWrite (unreceiving s) (slotBase s r.slot) _ = x at kept ⊢
  rw [unreceiving] at written
  rw [written, writeEvent_off]
  rw [regSet_qsu, kept.qsu]
  exact off

/-- ABORT drops the proof being received, where it names its generation (R479). -/
theorem takeAbort_drops {s : State} {d : List Byte} {r : RecvRun} (run : s.prf.run = none) (receiving : s.prf.recv = some r) :
    takeAbort s d = if pcGen d = r.gen then unreceiving s else s := by
  by_cases same : pcGen d = r.gen <;> simp only [takeAbort, receiving, same, run, unreceiving, if_true, if_false]

/-! ### What the partner asks of the reserve (R479, R486) -/

theorem pcLen_pos (d : List Byte) : 0 < pcLen d := by
  simp only [pcLen]
  split <;> omega

section ReadReq
variable {s : State} {d : List Byte} (image : pcOff d < hdrOff)
include image

/-- A request for bytes beyond the slot, or for a poisoned line, is answered with ABORT. -/
theorem takeReadReq_aborts (bad : slotGib s * gib < 4096 + pcOff d + pcLen d ∨
      (resRead s (slotBase s (pcSlot d) + (4096 + pcOff d)) (pcLen d)).2 = true) :
    takeReadReq s d = pairSend s 0 (prfCell 7 (pcGen d) (pcSlot d) 0 0 0 []) := by
  simp only [takeReadReq, Nat.not_le.mpr image, if_false]
  split
  · rfl
  · next within => rw [if_pos (bad.resolve_left within)]

/-- A request for at most a cell's data within the slot is served with one READ_DATA cell. -/
theorem takeReadReq_serves (small : pcLen d ≤ 1024) (within : 4096 + pcOff d + pcLen d ≤ slotGib s * gib)
    (clean : (resRead s (slotBase s (pcSlot d) + (4096 + pcOff d)) (pcLen d)).2 = false)
    (len : (resRead s (slotBase s (pcSlot d) + (4096 + pcOff d)) (pcLen d)).1.length = pcLen d) :
    takeReadReq s d = pairSend s 0
      (prfCell 5 (pcGen d) (pcSlot d) (pcOff d) 0 0 (resRead s (slotBase s (pcSlot d) + (4096 + pcOff d)) (pcLen d)).1) := by
  have pos := pcLen_pos d
  have one : cdiv (pcLen d) 1024 = 1 := by unfold cdiv; omega
  simp only [takeReadReq, Nat.not_le.mpr image, if_false, Nat.not_lt.mpr within, clean, Bool.false_eq_true, prfPieces, len, one, pairCells,
    List.range_one, List.map_cons, List.map_nil, List.length_singleton, List.zip_cons_cons, List.zip_nil_right, List.foldl_cons, List.foldl_nil,
    Nat.mul_zero, Nat.add_zero, List.drop_zero]
  rw [List.take_of_length_le (by omega)]

end ReadReq

/-! ### Heartbeats (R482 to R485) -/

/-- The pair's state once the partner's heartbeat has come. -/
def beaten (s : State) (d : List Byte) : Prf :=
  { s.prf with strap := bitsOf (fieldAt (pcData d) 8 8) 19 16, risk := bitsOf (fieldAt (pcData d) 8 8) 7 0, beat := true }

/-- A heartbeat of another serial has no effect (R485). -/
theorem takeBeat_stranger {s : State} {d : List Byte} (other : fieldAt (pcData d) 0 8 ≠ regGet s 0x90008) : takeBeat s d = s := by
  simp only [takeBeat, other, ne_eq, not_false_eq_true, if_true]

section Beat
variable {s : State} {d : List Byte} (own : fieldAt (pcData d) 0 8 = regGet s 0x90008)
include own

/-- A formed pair stays, and shows the partner's generation. -/
theorem takeBeat_formed (formed : s.prf.pair = 2 ∨ s.prf.pair = 3) :
    takeBeat s d = regSet { s with prf := beaten s d } 0x90050 31 0 (fieldAt (pcData d) 16 4) := by
  have notLost : (s.prf.pair == 4) = false := by rcases formed with h | h <;> rw [h] <;> rfl
  have notNone : s.prf.pair ≠ 0 := by omega
  simp only [takeBeat, own, beaten, ne_eq, not_true_eq_false, if_false, notLost, notNone, false_and, Bool.false_and, Bool.false_eq_true, formed,
    if_true]

/-- A heartbeat while there is no pair begins the pair's check, where pairing is enabled. -/
theorem takeBeat_unpaired (none_ : s.prf.pair = 0) :
    takeBeat s d = { s with prf := if regField s 0x90000 16 16 = 1 then { beaten s d with pair := 1 } else beaten s d } := by
  have enable : ∀ p, regField { s with prf := p } 0x90000 16 16 = regField s 0x90000 16 16 := fun _ => rfl
  simp only [takeBeat, own, ne_eq, not_true_eq_false, if_false, none_, true_and, Bool.false_and, Bool.false_eq_true, Nat.reduceBEq, enable]
  split <;> simp [beaten, none_]

/-- The partner of a lost pair is back: the pair is formed again, and a generation that has fallen asks for a proof at the next clearing. -/
theorem takeBeat_back (lost : s.prf.pair = 4) (off : s.qsu.evOn = false) :
    takeBeat s d = regSet { s with prf := { beaten s d with
      pair := if regField s 0x90000 11 8 = regField s 0x90000 3 0 then 3 else 2, lost := false
      autoNext := s.prf.autoNext || decide (fieldAt (pcData d) 16 4 < regField s 0x90050 31 0) } } 0x90050 31 0 (fieldAt (pcData d) 16 4) := by
  have strap : ∀ p, regField { s with prf := p } 0x90000 3 0 = regField s 0x90000 3 0 := fun _ => rfl
  have partner : ∀ p, regField { s with prf := p } 0x90000 11 8 = regField s 0x90000 11 8 := fun _ => rfl
  simp only [takeBeat, own, ne_eq, not_true_eq_false, if_false, lost, beq_self_eq_true, if_true, Bool.true_and, pairFormed, strap, partner,
    writeEvent_off, off, beaten]
  by_cases fallen : fieldAt (pcData d) 16 4 < regField s 0x90050 31 0 <;> simp [fallen]

end Beat

/-- A heartbeat goes out over the one PAIR port that is UP (R482). -/
theorem beatSend_sole {s : State} {i : Nat} (idle : portIdle s i 3) (up : pairUp s = [i]) :
    beatSend s = sendsCell s i 10 (prfCell 6 0 0 0 0 0 (beatBytes s)) (2 ^ i) := by
  rw [beatSend, up]
  exact portSend_ready s i 10 _ _ (portReady_idle idle)

/-! ### A proof or a restore of this complex (R473, R476, R487) -/

/-- The complex once its running proof has ended with a status, which PRF_STATUS shows. -/
def proofEnded (s : State) (status : Nat) : State := regSet { s with prf := { s.prf with run := none } } 0x90048 39 32 status

theorem proofEnded_noteErr (s : State) (rec src synd addr status : Nat) :
    proofEnded (noteErr s rec src synd addr) status = noteErr (proofEnded s status) rec src synd addr := rfl

/-- An automatic proof ends: no queue command waits for it (R493). -/
theorem proofEnd_auto {s : State} {r : PrfRun} (run : s.prf.run = some r) (auto : r.auto = true) (off : s.qsu.evOn = false) (status d0 d1 : Nat) :
    proofEnd s status d0 d1 = proofEnded s status := by
  have still : (proofEnded s status).qsu.evOn = false := off
  simp only [proofEnd, run, auto, Bool.true_or, if_true]
  split
  · exact writeEvent_off still _ _ _ _
  · rfl

/-- An automatic proof with neither fence nor wear area, committed at every target it was asked for, ends with success (R473). -/
theorem proofCommitted_auto {s : State} {r : PrfRun} (run : s.prf.run = some r) (proof : r.cmd = 6) (all : r.want &&& r.ok = r.want)
    (auto : r.auto = true) (here : r.gone = false) (noWear : dWord r.body 6 = 0) (noFence : dWord r.body 7 = 0) (off : s.qsu.evOn = false) :
    proofCommitted s = proofEnded { s with prf := { s.prf with gen := max s.prf.gen r.gen } } 0 := by
  have fence : ∀ x : State, commitFence x r = x := fun x => by simp only [commitFence, noFence, if_true]
  have wear : ∀ x : State, wearWriteVa x r.root (dWord r.body 6) = x := fun x => by simp only [wearWriteVa, noWear, true_or, if_true]
  have going : ¬(r.cmd ≠ 6 ∨ (r.want &&& r.ok) ≠ r.want) := by simp [proof, all]
  simp only [proofCommitted, run, going, if_false, here, auto, Bool.or_true, if_true, fence, wear, writeEvent_off, off, Bool.false_eq_true]
  simpa only [run] using proofEnd_auto (s := { s with prf := { s.prf with gen := max s.prf.gen r.gen } }) run auto off 0 (proofD0 r) r.bytes

theorem pcGen_lt (d : List Byte) : pcGen d < 2 ^ 32 := bitsOf_lt _ 123 92

section Ack
variable {s : State} {d : List Byte} {r : PrfRun} (run : s.prf.run = some r) (proof : r.cmd = 6) (sent : r.phase = 3) (same : pcGen d = r.gen)
  (want : r.want = 1) (asked : r.ok = 0) (auto : r.auto = true) (off : s.qsu.evOn = false)
include run proof sent same want asked auto off

omit want auto off in
/-- An ACK of the running proof is not ignored (R476 step 5). -/
theorem takeAck_taken : takeAck s d = if pcRes d = 1 then targetFail (noteErr s 0xA95 1 0 0) 0x36 else
    proofCommitted (runSet (regSet { s with prf := { s.prf with pslot := pcSlot d } } 0x90050 31 0 r.gen) (fun r => { r with ok := r.ok ||| 1 })) := by
  have gen : pcGen d = r.gen % 2 ^ 32 := by rw [← same, Nat.mod_eq_of_lt (pcGen_lt d)]
  have unasked : bitOf r.ok 0 = false := by rw [asked]; decide
  have taken : ¬(r.cmd ≠ 6 ∨ r.phase ≠ 3 ∨ pcGen d ≠ r.gen % 2 ^ 32 ∨ bitOf r.ok 0 = true) := by
    simp only [proof, sent, ← gen, unasked, ne_eq, not_true_eq_false, Bool.false_eq_true, or_self, not_false_eq_true]
  simp only [takeAck, run, taken, if_false]

/-- The partner has committed the one proof it was asked for: the proof ends with success. -/
theorem takeAck_commits (here : r.gone = false) (ok : pcRes d ≠ 1) (noWear : dWord r.body 6 = 0) (noFence : dWord r.body 7 = 0) :
    takeAck s d = proofEnded { regSet s 0x90050 31 0 r.gen with
      prf := { s.prf with run := some { r with ok := r.ok ||| 1 }, pslot := pcSlot d, gen := max s.prf.gen r.gen } } 0 := by
  have taken := takeAck_taken run proof sent same asked
  rw [if_neg ok] at taken
  rw [taken]
  have now : (runSet (regSet { s with prf := { s.prf with pslot := pcSlot d } } 0x90050 31 0 r.gen) (fun r => { r with ok := r.ok ||| 1 })).prf.run =
      some { r with ok := r.ok ||| 1 } := congrArg (Option.map _) run
  rw [proofCommitted_auto now proof (by simp [want, asked]) auto here noWear noFence off]
  simp only [runSet, regSet_prf, run, Option.map_some]
  rfl

/-- The partner has failed the proof: the PROOF record notes it, and the proof ends with PROOF_INTEGRITY. -/
theorem takeAck_fails (bad : pcRes d = 1) : takeAck s d = noteErr (proofEnded s 0x36) 0xA95 1 0 0 := by
  have taken := takeAck_taken run proof sent same asked
  rw [if_pos bad] at taken
  rw [taken]
  have still : (noteErr s 0xA95 1 0 0).prf.run = some r := run
  simp only [targetFail, proofFail, still, proof, want, Nat.reduceEqDiff, and_false, if_false]
  exact (proofEnd_auto still auto off _ _ _).trans (proofEnded_noteErr _ _ _ _ _ _)

end Ack

/-- A header's piece reaches a RESTORE, and more of the header is still to come (R487 step 1). -/
theorem restoreData_waits {s : State} {r : PrfRun} (run : s.prf.run = some r) (restore : r.cmd = 7) (want : r.want = 1) (phase : r.phase = 1)
    (slot : r.slot = 0) (at_ off : Nat) (data : List Byte) (more : covers ((off + 4096 * at_, data.length) :: r.have_) (hdrAt 0) 4096 = false) :
    restoreData s at_ off data = { s with prf := { s.prf with
      run := some { r with img := tabPut r.img (off + 4096 * at_) data, have_ := (off + 4096 * at_, data.length) :: r.have_ } } } := by
  have partner : bitOf r.want 1 = false := by rw [want]; decide
  have taken : ¬(r.cmd ≠ 7 ∨ bitOf r.want 1 = true) := by simp [restore, partner]
  simp [restoreData, run, taken, phase, slot, more, runSet]

/-! ### The loss of the pair (R485, R527) -/

/-- The complex whose pair is lost. -/
def pairGone (s : State) : State := { s with prf := { s.prf with pair := 4, lost := true, risk := 0 } }

theorem pairLose_unpaired {s : State} (two : s.prf.pair ≠ 2) (three : s.prf.pair ≠ 3) : pairLose s = s := by simp [pairLose, two, three]

theorem pairLose_notes {s : State} (run : s.prf.run = none) (formed : s.prf.pair = 2 ∨ s.prf.pair = 3) (off : s.qsu.evOn = false) :
    pairLose s = noteErr (pairGone s) 0xA95 0 0 0 := by
  have still : (noteErr (pairGone s) 0xA95 0 0 0).qsu.evOn = false := off
  have none_ : (noteErr (pairGone s) 0xA95 0 0 0).prf.run = none := run
  rw [pairLose, if_pos formed]
  dsimp only
  rw [← pairGone, writeEvent_off still, none_]

end Sys2Proof.Machine
end

section
/-! PROOFS. The proof partner's cells, from arrival to answer (R253, R473, R475, R476, R479, R482 to R485). -/

namespace Sys2Proof.Machine

/-! ### The complex that has taken a cell differs from the one before in its ports alone -/

section Took
variable (s : State) (i : Nat)

@[simp] theorem proofTook_prf : (proofTook s i).prf = s.prf := rfl
@[simp] theorem proofTook_tiers : (proofTook s i).tiers = s.tiers := rfl
@[simp] theorem proofTook_qsu : (proofTook s i).qsu = s.qsu := rfl
@[simp] theorem proofTook_regs : (proofTook s i).regs = s.regs := rfl
@[simp] theorem proofTook_cores : (proofTook s i).cores = s.cores := rfl
@[simp] theorem proofTook_errs : (proofTook s i).errs = s.errs := rfl
@[simp] theorem proofTook_pending : (proofTook s i).pending = s.pending := rfl

@[simp] theorem regGet_proofTook (a : Nat) : regGet (proofTook s i) a = regGet s a := by rw [regGet, proofTook_regs, regGet]
@[simp] theorem regField_proofTook (a hi lo : Nat) : regField (proofTook s i) a hi lo = regField s a hi lo := by
  rw [regField, regGet_proofTook, regField]
@[simp] theorem slotGib_proofTook : slotGib (proofTook s i) = slotGib s := by rw [slotGib, regField_proofTook, slotGib]
@[simp] theorem slotBase_proofTook (k : Nat) : slotBase (proofTook s i) k = slotBase s k := by rw [slotBase, slotGib_proofTook, slotBase]
@[simp] theorem resRead_proofTook (pa n : Nat) : resRead (proofTook s i) pa n = resRead s pa n :=
  resRead_congr (s := s) (t := proofTook s i) rfl rfl pa n

end Took

/-- The open slot rests on the headers in the reserve and on the partner's serial (R475). The definition is rewritten as a function,
never at a state: at a state the kernel would compare its two sides by running the reads. -/
theorem ownOpen_congr {s t : State} (reads : resRead t = resRead s) (bases : slotBase t = slotBase s) (regs : regGet t = regGet s) :
    ownOpen t = ownOpen s := by
  generalize slots : ownOpen = f
  delta ownOpen at slots
  rw [← slots]
  beta_reduce
  rw [reads, bases, regs]

@[simp] theorem ownOpen_proofTook (s : State) (i : Nat) : ownOpen (proofTook s i) = ownOpen s :=
  ownOpen_congr (funext fun _ => funext (resRead_proofTook s i _)) (funext (slotBase_proofTook s i)) (funext (regGet_proofTook s i))

theorem portMode_congr {s t : State} {j : Nat} (regs : regGet t (0x80000 + 0x800 * j) = regGet s (0x80000 + 0x800 * j)) :
    portMode t j = portMode s j := by
  rw [portMode, regField, regs, portMode, regField]

theorem proofTook_written {s : State} (held : s.tiers.owHeld = []) (i pa : Nat) (b : List Byte) :
    KeptByWrite (proofTook s i) (resWrite (proofTook s i) pa b) := resWrite_kept (s := proofTook s i) held pa b

theorem portMode_proofTook (s : State) (i j : Nat) : portMode (proofTook s i) j = portMode s j := portMode_congr (regGet_proofTook s i _)

theorem beaten_proofTook (s : State) (i : Nat) (d : List Byte) : beaten (proofTook s i) d = beaten s d := by
  rw [beaten, proofTook_prf, beaten]

/-! ### The partner's cells while no proof of this complex runs -/

section Partner
variable {s : State} {i hdr : Nat} {d : List Byte} (live : Live s) (port : i < 24) (idle : portIdle s i 3) (next : nextCell s i hdr 10)
  (partner : fromPartner s i = true)
include live port idle next partner

/-- A PROOF cell that writes the reserve and changes what the pair knows. -/
theorem exec_proofWrite {c : Instr} {kind : Nat} {f : State → State} {x : State} {p : Prf} (is : pcKind d = kind)
    (arm : exec c s = withUnit 24 i (runLive s (fun s => pairArrive s i hdr kind d f))) (kept : KeptByWrite (proofTook s i) x)
    (does : f (proofTook s i) = { x with prf := p }) (run : p.run = none) : exec c s = .next (idleOut { x with prf := p } i) :=
  exec_proofCell idle next live port partner is arm does (commitTry_none run) (kept.errs.trans (proofTook_errs s i))
    (kept.pending.trans (proofTook_pending s i))

/-- A PROOF cell that is answered with one, over the port that faces the partner. -/
theorem exec_proofAnswer {c : Instr} {kind : Nat} {f : State → State} {u : State} {data : List Byte} (is : pcKind d = kind)
    (arm : exec c s = withUnit 24 i (runLive s (fun s => pairArrive s i hdr kind d f))) (up : pairUp s = [i])
    (does : f (proofTook s i) = pairSend u 0 data) (ride : u.ride = (proofTook s i).ride) (modes : ∀ j, j < 24 → portMode u j = portMode s j)
    (run : u.prf.run = none) (errs : u.errs = s.errs) (pending : u.pending = s.pending) :
    exec c s = .next (idleOut (sendsCell u i 10 data (pairMask s)) i) :=
  exec_proofCell idle next live port partner is arm (does.trans (pairSend_answers idle up ride modes data))
    (commitTry_none (s := sendsCell u i 10 data (pairMask s)) run) errs pending

theorem exec_proofBegin (run : s.prf.run = none) (held : s.tiers.owHeld = []) (is : pcKind d = 1) (room : 0 < slotGib s) :
    exec (.proofBegin i hdr d) s = .next (idleOut { resWrite (proofTook s i) (slotBase s (ownOpen s))
      (slotHeader 1 (pcGen d) (regGet s 0x90008) 0 []) with prf := { s.prf with recv := some ⟨pcGen d, ownOpen s, [], []⟩ } } i) := by
  have opens := takeBegin_opens (s := proofTook s i) (d := d) held (by rwa [slotGib_proofTook])
  simp only [ownOpen_proofTook, slotBase_proofTook, regGet_proofTook, proofTook_prf] at opens
  exact exec_proofWrite live port idle next partner is rfl (proofTook_written held i _ _) opens run

section Data
variable {r : RecvRun} (run : s.prf.run = none) (is : pcKind d = 0) (receiving : s.prf.recv = some r)
include run is receiving

theorem exec_proofData_places (held : s.tiers.owHeld = []) (same : pcGen d = r.gen) (some_ : 0 < (pcData d).length)
    (within : 4096 + pcOff d + (pcData d).length ≤ slotGib s * gib) :
    exec (.proofData i hdr d) s = .next (idleOut { resWrite (proofTook s i) (slotBase s r.slot + 4096 + pcOff d) (pcData d) with
      prf := { s.prf with
        recv := some { r with got := (pcOff d, (pcData d).length) :: r.got, img := tabPut r.img (pcOff d) (pcData d) } } } i) := by
  have places := takeData_places (s := proofTook s i) receiving held same some_ (by rwa [slotGib_proofTook])
  simp only [slotBase_proofTook, proofTook_prf] at places
  exact exec_proofWrite live port idle next partner is rfl (proofTook_written held i _ _) places run

theorem exec_proofData_refuses (bad : pcGen d ≠ r.gen ∨ slotGib s * gib < 4096 + pcOff d + (pcData d).length) :
    exec (.proofData i hdr d) s = .next (idleOut (proofTook s i) i) :=
  exec_proofCell idle next live port partner is rfl (takeData_refuses (s := proofTook s i) receiving (by rwa [slotGib_proofTook]))
    (commitTry_none (s := proofTook s i) run) (proofTook_errs s i) (proofTook_pending s i)

end Data

section Commit
variable (run : s.prf.run = none) (is : pcKind d = 2) (up : pairUp s = [i])
include run is up

theorem exec_proofCommit_none (recv : s.prf.recv = none) : exec (.proofCommit i hdr d) s =
    .next (idleOut (sendsCell (proofTook s i) i 10 (prfCell 3 (pcGen d) 0 0 0 1 []) (pairMask s)) i) :=
  exec_proofAnswer live port idle next partner is rfl up (takeCommit_none (s := proofTook s i) recv) rfl
    (fun j _ => portMode_proofTook s i j) run (proofTook_errs s i) (proofTook_pending s i)

section Received
variable {r : RecvRun} (receiving : s.prf.recv = some r)
include receiving

theorem exec_proofCommit_fails (bad : pcGen d ≠ r.gen ∨ covers r.got 0 (fieldAt (pcData d) 0 8) = false ∨
      digestBytes (tabBytes r.img 0 (fieldAt (pcData d) 0 8)) ≠ ((pcData d).drop 8).take 48) : exec (.proofCommit i hdr d) s =
    .next (idleOut (sendsCell (unreceiving (proofTook s i)) i 10 (prfCell 3 (pcGen d) r.slot 0 0 1 []) (pairMask s)) i) :=
  exec_proofAnswer live port idle next partner is rfl up (takeCommit_fails (s := proofTook s i) receiving bad) rfl
    (fun j _ => portMode_proofTook s i j) run (proofTook_errs s i) (proofTook_pending s i)

theorem exec_proofCommit_commits (held : s.tiers.owHeld = []) (off : s.qsu.evOn = false) (same : pcGen d = r.gen)
    (whole : covers r.got 0 (fieldAt (pcData d) 0 8) = true)
    (digest : digestBytes (tabBytes r.img 0 (fieldAt (pcData d) 0 8)) = ((pcData d).drop 8).take 48) : exec (.proofCommit i hdr d) s =
    .next (idleOut (sendsCell (slotCommitted (proofTook s i) r.slot (pcGen d) (fieldAt (pcData d) 0 8) (((pcData d).drop 8).take 48)) i 10
      (prfCell 3 (pcGen d) r.slot 0 0 0 []) (pairMask s)) i) := by
  have commits := takeCommit_commits (s := proofTook s i) receiving held off same whole digest
  have kept := slotCommitted_kept (s := proofTook s i) held r.slot (pcGen d) (fieldAt (pcData d) 0 8) (((pcData d).drop 8).take 48)
  rw [slotCommitted] at commits ⊢
  generalize resWrite (unreceiving (proofTook s i)) _ _ = x at commits kept ⊢
  refine exec_proofAnswer live port idle next partner is rfl up commits ((regSet_ride ..).trans kept.ride) (fun j below => ?_)
    ((congrArg Prf.run ((regSet_prf ..).trans kept.prf)).trans run) ((regSet_errs ..).trans kept.errs) ((regSet_pending ..).trans kept.pending)
  refine portMode_congr ?_
  rw [regGet_regSet_ne _ _ _ _ (by omega), regGet, kept.regs]
  exact regGet_proofTook s i _

end Received
end Commit

theorem exec_proofAck_none (run : s.prf.run = none) (is : pcKind d = 3) :
    exec (.proofAck i hdr d) s = .next (idleOut (proofTook s i) i) :=
  exec_proofCell idle next live port partner is rfl (by rw [takeAck, proofTook_prf, run]) (commitTry_none (s := proofTook s i) run)
    (proofTook_errs s i) (proofTook_pending s i)

section ReadReq
variable (run : s.prf.run = none) (is : pcKind d = 4) (up : pairUp s = [i]) (image : pcOff d < hdrOff)
include run is up image

theorem exec_readReq_aborts (bad : slotGib s * gib < 4096 + pcOff d + pcLen d ∨
      (resRead s (slotBase s (pcSlot d) + (4096 + pcOff d)) (pcLen d)).2 = true) : exec (.readReq i hdr d) s =
    .next (idleOut (sendsCell (proofTook s i) i 10 (prfCell 7 (pcGen d) (pcSlot d) 0 0 0 []) (pairMask s)) i) := by
  have aborts := takeReadReq_aborts (s := proofTook s i) image
  simp only [slotGib_proofTook, slotBase_proofTook, resRead_proofTook] at aborts
  exact exec_proofAnswer live port idle next partner is rfl up (aborts bad) rfl (fun j _ => portMode_proofTook s i j) run
    (proofTook_errs s i) (proofTook_pending s i)

theorem exec_readReq_serves (small : pcLen d ≤ 1024) (within : 4096 + pcOff d + pcLen d ≤ slotGib s * gib)
    (clean : (resRead s (slotBase s (pcSlot d) + (4096 + pcOff d)) (pcLen d)).2 = false)
    (len : (resRead s (slotBase s (pcSlot d) + (4096 + pcOff d)) (pcLen d)).1.length = pcLen d) : exec (.readReq i hdr d) s =
    .next (idleOut (sendsCell (proofTook s i) i 10
      (prfCell 5 (pcGen d) (pcSlot d) (pcOff d) 0 0 (resRead s (slotBase s (pcSlot d) + (4096 + pcOff d)) (pcLen d)).1) (pairMask s)) i) := by
  have serves := takeReadReq_serves (s := proofTook s i) image small
  simp only [slotGib_proofTook, slotBase_proofTook, resRead_proofTook] at serves
  exact exec_proofAnswer live port idle next partner is rfl up (serves within clean len) rfl (fun j _ => portMode_proofTook s i j) run
    (proofTook_errs s i) (proofTook_pending s i)

end ReadReq

theorem exec_readData_none (run : s.prf.run = none) (is : pcKind d = 5) :
    exec (.readData i hdr d) s = .next (idleOut (proofTook s i) i) :=
  exec_proofCell idle next live port partner is rfl (by rw [restoreData, proofTook_prf, run]) (commitTry_none (s := proofTook s i) run)
    (proofTook_errs s i) (proofTook_pending s i)

theorem exec_proofAbort_drops {r : RecvRun} (run : s.prf.run = none) (is : pcKind d = 7) (receiving : s.prf.recv = some r) :
    exec (.proofAbort i hdr d) s = .next (idleOut (if pcGen d = r.gen then unreceiving (proofTook s i) else proofTook s i) i) := by
  have drops := takeAbort_drops (s := proofTook s i) (d := d) run receiving
  split at drops <;> rename_i gen <;> simp only [gen, if_true, if_false]
  · exact exec_proofCell idle next live port partner is rfl drops (commitTry_none (s := unreceiving (proofTook s i)) run)
      (proofTook_errs s i) (proofTook_pending s i)
  · exact exec_proofCell idle next live port partner is rfl drops (commitTry_none (s := proofTook s i) run)
      (proofTook_errs s i) (proofTook_pending s i)

section Beat
variable (run : s.prf.run = none) (is : pcKind d = 6)
include run is

theorem exec_heartbeat_stranger (other : fieldAt (pcData d) 0 8 ≠ regGet s 0x90008) :
    exec (.heartbeat i hdr d) s = .next (idleOut (proofTook s i) i) :=
  exec_proofCell idle next live port partner is rfl (takeBeat_stranger (s := proofTook s i) (by rwa [regGet_proofTook]))
    (commitTry_none (s := proofTook s i) run) (proofTook_errs s i) (proofTook_pending s i)

variable (own : fieldAt (pcData d) 0 8 = regGet s 0x90008)
include own

theorem exec_heartbeat_formed (formed : s.prf.pair = 2 ∨ s.prf.pair = 3) : exec (.heartbeat i hdr d) s =
    .next (idleOut (regSet { proofTook s i with prf := beaten s d } 0x90050 31 0 (fieldAt (pcData d) 16 4)) i) := by
  have beats := takeBeat_formed (s := proofTook s i) (d := d) (by rwa [regGet_proofTook]) formed
  rw [beaten_proofTook] at beats
  exact exec_proofCell idle next live port partner is rfl beats (commitTry_none run) (proofTook_errs s i) (proofTook_pending s i)

theorem exec_heartbeat_unpaired (none_ : s.prf.pair = 0) : exec (.heartbeat i hdr d) s =
    .next (idleOut { proofTook s i with prf := if regField s 0x90000 16 16 = 1 then { beaten s d with pair := 1 } else beaten s d } i) := by
  have beats := takeBeat_unpaired (s := proofTook s i) (d := d) (by rwa [regGet_proofTook]) none_
  rw [beaten_proofTook, regField_proofTook] at beats
  refine exec_proofCell idle next live port partner is rfl beats (commitTry_none ?_) (proofTook_errs s i) (proofTook_pending s i)
  dsimp only
  split <;> exact run

theorem exec_heartbeat_back (lost : s.prf.pair = 4) (off : s.qsu.evOn = false) : exec (.heartbeat i hdr d) s =
    .next (idleOut (regSet { proofTook s i with prf := { beaten s d with
      pair := if regField s 0x90000 11 8 = regField s 0x90000 3 0 then 3 else 2, lost := false
      autoNext := s.prf.autoNext || decide (fieldAt (pcData d) 16 4 < regField s 0x90050 31 0) } } 0x90050 31 0 (fieldAt (pcData d) 16 4)) i) := by
  have beats := takeBeat_back (s := proofTook s i) (d := d) (by rwa [regGet_proofTook]) lost off
  simp only [beaten_proofTook, regField_proofTook, proofTook_prf] at beats
  exact exec_proofCell idle next live port partner is rfl beats (commitTry_none run) (proofTook_errs s i) (proofTook_pending s i)

end Beat

/-! ### The partner's cells while a proof or a restore of this complex runs -/

section Ack
variable {r : PrfRun} (run : s.prf.run = some r) (is : pcKind d = 3) (proof : r.cmd = 6) (sent : r.phase = 3) (same : pcGen d = r.gen)
  (want : r.want = 1) (asked : r.ok = 0) (auto : r.auto = true) (off : s.qsu.evOn = false)
include run is proof sent same want asked auto off

theorem exec_proofAck_commits (here : r.gone = false) (ok : pcRes d ≠ 1) (noWear : dWord r.body 6 = 0) (noFence : dWord r.body 7 = 0) :
    exec (.proofAck i hdr d) s = .next (idleOut (proofEnded { regSet (proofTook s i) 0x90050 31 0 r.gen with
      prf := { s.prf with run := some { r with ok := r.ok ||| 1 }, pslot := pcSlot d, gen := max s.prf.gen r.gen } } 0) i) :=
  exec_proofCell idle next live port partner is rfl
    (takeAck_commits (s := proofTook s i) run proof sent same want asked auto off here ok noWear noFence)
    (commitTry_none rfl) (proofTook_errs s i) (proofTook_pending s i)

end Ack

end Partner

end Sys2Proof.Machine
end

section
/-! PROOFS. What follows a PROOF cell: the idle cell, and the record of an error (R387, R439, R485). -/

namespace Sys2Proof.Machine

/-- What no other cell reports goes out over the port, and nothing else changes. -/
theorem idleOut_ports (s : State) (i : Nat) : ∃ ride out, idleOut s i = { s with ride := ride, out := out } := by
  unfold idleOut
  dsimp only
  split
  · exact ⟨_, _, rfl⟩
  · exact ⟨_, _, rfl⟩

theorem idleOut_kept {α : Type} (s : State) (i : Nat) (part : State → α) (quiet : ∀ s ride out, part { s with ride := ride, out := out } = part s) :
    part (idleOut s i) = part s := by
  obtain ⟨ride, out, still⟩ := idleOut_ports s i
  rw [still, quiet]

theorem regGet_idleOut (s : State) (i a : Nat) : regGet (idleOut s i) a = regGet s a :=
  idleOut_kept s i (regGet · a) fun _ _ _ => rfl

theorem regGet_proofEnded_ne (s : State) (status : Nat) {a : Nat} (other : a ≠ 0x90048) : regGet (proofEnded s status) a = regGet s a :=
  regGet_regSet_ne _ _ _ _ other

theorem idleOut_prf (s : State) (i : Nat) : (idleOut s i).prf = s.prf := idleOut_kept s i State.prf fun _ _ _ => rfl
theorem idleOut_tiers (s : State) (i : Nat) : (idleOut s i).tiers = s.tiers := idleOut_kept s i State.tiers fun _ _ _ => rfl
theorem idleOut_cores (s : State) (i : Nat) : (idleOut s i).cores = s.cores := idleOut_kept s i State.cores fun _ _ _ => rfl

theorem proofEnded_prf (s : State) (status : Nat) : (proofEnded s status).prf = { s.prf with run := none } := rfl
theorem proofEnded_tiers (s : State) (status : Nat) : (proofEnded s status).tiers = s.tiers := rfl
theorem proofEnded_cores (s : State) (status : Nat) : (proofEnded s status).cores = s.cores := rfl

theorem idleOut_noteErr (s : State) (i rec src synd addr : Nat) :
    idleOut (noteErr s rec src synd addr) i = noteErr (idleOut s i) rec src synd addr := by
  have port : portGet (noteErr s rec src synd addr) i = portGet s i := rfl
  unfold idleOut
  rw [port]
  dsimp only
  split <;> rfl

/-- Whether an error only logs rests on its record's registers. -/
theorem logsOnly_congr {s u : State} {rec src : Nat} (regs : ∀ a, frOff rec ≤ a → regGet u a = regGet s a) (logs : logsOnly s rec src) :
    logsOnly u rec src := by
  simpa only [logsOnly, frState, regField, regs (frOff rec) le_rfl, regs (frOff rec + 0x20) (Nat.le_add_right _ _)] using logs

theorem frozen_congr {s u : State} (regs : regGet u 0x20008 = regGet s 0x20008) (life : u.life = s.life) : frozen u = frozen s := by
  simp only [frozen, mode, regField, regs, life]

section
variable {s : State} {i hdr : Nat} {d : List Byte} (live : Live s) (port : i < 24) (idle : portIdle s i 3) (next : nextCell s i hdr 10)
  (partner : fromPartner s i = true)
include live port idle next partner

/-- The partner answers that a proof has failed: the PROOF record logs it, and the proof has ended (R476 step 5). -/
theorem exec_proofAck_fails {r : PrfRun} (run : s.prf.run = some r) (is : pcKind d = 3) (proof : r.cmd = 6) (sent : r.phase = 3)
    (same : pcGen d = r.gen) (want : r.want = 1) (asked : r.ok = 0) (auto : r.auto = true) (off : s.qsu.evOn = false) (bad : pcRes d = 1)
    (logs : logsOnly s 0xA95 1) :
    ∃ t, exec (.proofAck i hdr d) s = .next t ∧ logged (idleOut (proofEnded (proofTook s i) 0x36) i) t 0xA95 1 0 0 := by
  have fails := takeAck_fails (s := proofTook s i) run proof sent same want asked auto off bad
  have none_ : (noteErr (proofEnded (proofTook s i) 0x36) 0xA95 1 0 0).prf.run = none := rfl
  have effect : pairArrive s i hdr 3 d (fun s => takeAck s d) = noteErr (idleOut (proofEnded (proofTook s i) 0x36) i) 0xA95 1 0 0 := by
    rw [pairArrive_partner idle next partner is, fails, commitTry_none none_, idleOut_noteErr]
  have regs : ∀ a, a ≠ 0x90048 → regGet (idleOut (proofEnded (proofTook s i) 0x36) i) a = regGet s a := fun a other => by
    rw [regGet_idleOut, regGet_proofEnded_ne _ _ other, regGet_proofTook]
  have life : (idleOut (proofEnded (proofTook s i) 0x36) i).life = s.life := idleOut_kept _ i State.life fun _ _ _ => rfl
  refine (runLive_logs s _ _ 0xA95 1 0 0 live.1 effect (logsOnly_congr (fun a above => regs a ?_) logs)
    ((frozen_congr (regs _ (by decide)) life).trans live.1) ((idleOut_errs _ i).trans live.2) (idleOut_pending _ i)).imp
    fun t both => ⟨(withUnit_in _ port).trans both.1, both.2⟩
  have : frOff 0xA95 = 0x1A9500 := by decide
  omega

/-- The partner answers that it has committed a proof: the proof has ended with success, and its generation is known (R476 step 5). -/
theorem exec_proofAck_succeeds {r : PrfRun} (run : s.prf.run = some r) (is : pcKind d = 3) (proof : r.cmd = 6) (sent : r.phase = 3)
    (same : pcGen d = r.gen) (want : r.want = 1) (asked : r.ok = 0) (auto : r.auto = true) (off : s.qsu.evOn = false) (here : r.gone = false)
    (ok : pcRes d = 0) (noWear : dWord r.body 6 = 0) (noFence : dWord r.body 7 = 0) :
    ∃ t, exec (.proofAck i hdr d) s = .next t ∧
      t.prf = { s.prf with run := none, pslot := pcSlot d, gen := max s.prf.gen r.gen } ∧
      regField t 0x90050 31 0 = r.gen ∧ regField t 0x90048 39 32 = 0 ∧ t.tiers = s.tiers ∧ t.cores = s.cores := by
  refine ⟨_, exec_proofAck_commits live port idle next partner run is proof sent same want asked auto off here (by omega) noWear noFence,
    ?_, ?_, ?_, ?_, ?_⟩
  · rw [idleOut_prf, proofEnded_prf]
  · rw [regField, regGet_idleOut, regGet_proofEnded_ne _ _ (by decide), ← regField]
    exact (regField_regSet_same _ _ _ _ _ (by decide)).trans (Nat.mod_eq_of_lt (same ▸ pcGen_lt d))
  · rw [regField, regGet_idleOut, ← regField]
    exact regField_regSet_same _ _ _ _ _ (by decide)
  · rw [idleOut_tiers, proofEnded_tiers, regSet_tiers, proofTook_tiers]
  · rw [idleOut_cores, proofEnded_cores, regSet_cores, proofTook_cores]

/-- A piece of the header reaches a RESTORE from the partner (R487 step 1). -/
theorem exec_readData_waits {r : PrfRun} (run : s.prf.run = some r) (is : pcKind d = 5) (restore : r.cmd = 7) (want : r.want = 1)
    (phase : r.phase = 1) (slot : r.slot = 0)
    (more : covers ((pcOff d + 4096 * pcSlot d, (pcData d).length) :: r.have_) (hdrAt 0) 4096 = false) :
    exec (.readData i hdr d) s = .next (idleOut { proofTook s i with prf := { s.prf with run := some { r with
      img := tabPut r.img (pcOff d + 4096 * pcSlot d) (pcData d)
      have_ := (pcOff d + 4096 * pcSlot d, (pcData d).length) :: r.have_ } } } i) :=
  exec_proofCell idle next live port partner is rfl (restoreData_waits (s := proofTook s i) run restore want phase slot _ _ _ more)
    (commitTry_notStreaming rfl fun proof => absurd (restore.symm.trans proof) (by decide)) (proofTook_errs s i) (proofTook_pending s i)

end

/-- The loss of the pair, whatever reports it (R485, R527). -/
theorem pairLose_logs {s : State} (live : Live s) (run : s.prf.run = none) (formed : s.prf.pair = 2 ∨ s.prf.pair = 3)
    (off : s.qsu.evOn = false) (logs : logsOnly s 0xA95 0) : ∃ t, runLive s pairLose = .next t ∧ logged (pairGone s) t 0xA95 0 0 0 :=
  runLive_logs s _ _ 0xA95 0 0 0 live.1 (pairLose_notes run formed off) logs live.1 live.2 rfl

theorem exec_pairLoss {c : Instr} (loss : c = .pairLost ∨ c = .pairSenseLow) (s : State) : exec c s = runLive s pairLose := by
  rcases loss with rfl | rfl <;> rfl

theorem exec_heartbeatSend_sole {s : State} {i : Nat} (live : Live s) (idle : portIdle s i 3) (up : pairUp s = [i]) :
    exec .heartbeatSend s = .next (sendsCell s i 10 (prfCell 6 0 0 0 0 0 (beatBytes s)) (2 ^ i)) :=
  runLive_next s _ _ live (beatSend_sole idle up) rfl rfl

end Sys2Proof.Machine
end

section
/-! PROOFS. The proof partner. -/

open Sys2Proof Sys2Proof.Machine in
/-- Settles O42: a cell of another serial changes its port alone; each kind of the partner's has its effect and its answer. -/
theorem proofPartner : Obligations.ProofPartner := by
  unfold Obligations.ProofPartner
  intro s i hdr d live port idle next held
  have took : freeCredit (tookCell s i) i 10 = proofTook s i := rfl
  rw [took]
  dsimp only
  refine ⟨?_, ?_, ?_, exec_heartbeatSend_sole live idle, ?_⟩
  · intro run stranger c listed
    have arrives := fun (c : Instr) (kind : Nat) f => exec_proofCell_stranger (d := d) (c := c) (kind := kind) (f := f) idle next live port stranger run
    simp only [List.mem_cons, List.not_mem_nil, or_false] at listed
    rcases listed with rfl | rfl | rfl | rfl | rfl | rfl | rfl | rfl
    · exact arrives _ 1 _ rfl
    · exact arrives _ 0 _ rfl
    · exact arrives _ 2 _ rfl
    · exact arrives _ 3 _ rfl
    · exact arrives _ 4 _ rfl
    · exact arrives _ 5 _ rfl
    · exact arrives _ 7 _ rfl
    · exact arrives _ 6 _ rfl
  · intro partner run
    refine ⟨exec_proofBegin live port idle next partner run held, ?_, ?_, exec_proofAck_none live port idle next partner run, ?_,
      exec_readData_none live port idle next partner run, ?_, exec_heartbeat_stranger live port idle next partner run, ?_⟩
    · exact fun r is receiving => ⟨exec_proofData_places live port idle next partner run is receiving held,
        exec_proofData_refuses live port idle next partner run is receiving⟩
    · refine fun is up off => ⟨exec_proofCommit_none live port idle next partner run is up, fun r receiving => ⟨?_, ?_⟩⟩
      · exact exec_proofCommit_fails live port idle next partner run is up receiving
      · intro same whole digest
        have commits := exec_proofCommit_commits live port idle next partner run is up receiving held off same whole digest
        rw [slotCommitted, slotBase_proofTook, regGet_proofTook, unreceiving, proofTook_prf] at commits
        exact commits
    · exact fun is up image small => ⟨exec_readReq_aborts live port idle next partner run is up image,
        exec_readReq_serves live port idle next partner run is up image small⟩
    · intro r is receiving
      exact exec_proofAbort_drops live port idle next partner run is receiving
    · exact fun is own => ⟨exec_heartbeat_formed live port idle next partner run is own,
        exec_heartbeat_unpaired live port idle next partner run is own, exec_heartbeat_back live port idle next partner run is own⟩
  · intro r partner run off
    refine ⟨fun is proof sent same want asked here auto => ⟨fun ok noWear noFence => ?_, fun bad logs => ?_⟩, ?_⟩
    · exact exec_proofAck_succeeds live port idle next partner run is proof sent same want asked auto off here ok noWear noFence
    · exact exec_proofAck_fails live port idle next partner run is proof sent same want asked auto off bad logs
    · exact exec_readData_waits live port idle next partner run
  · intro c loss run
    rw [exec_pairLoss loss]
    exact ⟨fun two three => runLive_next s s _ live (pairLose_unpaired two three) rfl rfl, fun formed => pairLose_logs live run formed⟩

end

section
/-! PROOFS. The window where nothing is cached (R251, R287, R369, R370): what its questions rest on, its reads and its writes. -/

namespace Sys2Proof.Machine

/-! ### A request that wakes its link (R374, R379) leaves what the window asks about -/

/-- Waking a link changes its power state, and not whether it has trained. -/
theorem linkWake_eq (s : State) (n : Nat) : ∃ links, linkWake s n = { s with host := { s.host with links := links } } ∧
    ∀ j, (tabGet (fun _ => link0) links j).trained = (linkGet s j).trained := by
  unfold linkWake
  dsimp only
  split
  · refine ⟨_, rfl, fun j => ?_⟩
    rw [tabGet_tabSet]
    split
    · next same => rw [same, linkGet]
    · rfl
  · exact ⟨_, rfl, fun _ => rfl⟩

section Woken
variable (s : State) (n : Nat)

/-- What does not read the links is as it was. -/
theorem linkWake_kept {α : Type} (part : State → α) (blind : ∀ links, part { s with host := { s.host with links := links } } = part s) :
    part (linkWake s n) = part s := by
  obtain ⟨links, woken, -⟩ := linkWake_eq s n
  rw [woken, blind]

@[simp] theorem linkWake_tiers : (linkWake s n).tiers = s.tiers := linkWake_kept s n State.tiers fun _ => rfl
@[simp] theorem linkWake_regs : (linkWake s n).regs = s.regs := linkWake_kept s n State.regs fun _ => rfl
@[simp] theorem linkWake_errs : (linkWake s n).errs = s.errs := linkWake_kept s n State.errs fun _ => rfl
@[simp] theorem linkWake_pending : (linkWake s n).pending = s.pending := linkWake_kept s n State.pending fun _ => rfl
@[simp] theorem linkWake_free : (linkWake s n).free = s.free := linkWake_kept s n State.free fun _ => rfl
@[simp] theorem linkWake_ra : (linkWake s n).host.ra = s.host.ra := linkWake_kept s n (·.host.ra) fun _ => rfl
@[simp] theorem linkWake_lastRd : (linkWake s n).host.lastRd = s.host.lastRd := linkWake_kept s n (·.host.lastRd) fun _ => rfl
@[simp] theorem queueGet_linkWake (q : Nat) : queueGet (linkWake s n) q = queueGet s q := linkWake_kept s n (queueGet · q) fun _ => rfl
@[simp] theorem regField_linkWake (o hi lo : Nat) : regField (linkWake s n) o hi lo = regField s o hi lo :=
  linkWake_kept s n (regField · o hi lo) fun _ => rfl
@[simp] theorem hostOffset_linkWake (link dpa : Nat) : hostOffset (linkWake s n) link dpa = hostOffset s link dpa :=
  linkWake_kept s n (hostOffset · link dpa) fun _ => rfl
@[simp] theorem winCur_linkWake : winCur (linkWake s n) = winCur s := linkWake_kept s n winCur fun _ => rfl
@[simp] theorem winLine_linkWake (w : Nat) : winLine (linkWake s n) w = winLine s w := by simp only [winLine, winCur_linkWake]
@[simp] theorem winServes_linkWake : winServes (linkWake s n) = winServes s := linkWake_kept s n winServes fun _ => rfl
@[simp] theorem winHeld_linkWake (w : Nat) (wr : Bool) : winHeld (linkWake s n) w wr = winHeld s w wr :=
  linkWake_kept s n (winHeld · w wr) fun _ => rfl
@[simp] theorem inStash_linkWake (w : Nat) : inStash (linkWake s n) w = inStash s w := linkWake_kept s n (inStash · w) fun _ => rfl
@[simp] theorem groveFenced_linkWake (g : Nat) : groveFenced (linkWake s n) g = groveFenced s g :=
  linkWake_kept s n (groveFenced · g) fun _ => rfl
@[simp] theorem memRead_linkWake (sel line : Nat) : memRead (linkWake s n) sel line = memRead s sel line :=
  memRead_congr (linkWake_tiers s n) sel line

@[simp] theorem hdmDone_linkWake : hdmDone (linkWake s n) = hdmDone s := by
  obtain ⟨links, woken, trained⟩ := linkWake_eq s n
  have same : trainedLinks { s with host := { s.host with links := links } } = trainedLinks s :=
    List.filter_congr fun j _ => trained j
  rw [woken]
  simp only [hdmDone, same]

theorem linkWake_resting {s : State} (rest : resting s) : resting (linkWake s n) := linkWake_kept s n resting (fun _ => rfl) ▸ rest

end Woken

/-! ### Reads and writes of the window -/

section Uncached
variable {s : State} (none_ : s.coh = coh0)
include none_

theorem rangeTake_noRequest (src a n : Nat) : rangeTake s src a n = s := by
  refine List.foldlRecOn (motive := fun t => t = s) _ _ rfl ?_
  rintro t rfl line _
  simp [mshrOf, none_, coh0]

theorem selFlush_uncached (line sel : Nat) : selFlush s line sel = s := by
  rw [selFlush, flushLines, none_]
  rfl

theorem winFetch_uncached (w : Nat) : winFetch s w = (memRead s (winCur s).2 (winLine s w), s) := by
  rw [winFetch, selFlush_uncached none_]
  exact Prod.ext (cohReadCur_uncached s _ _ none_) rfl

omit none_ in
/-- A read of the line that the read-ahead buffer holds takes it from there (R370). -/
theorem winRead_hit {w : Nat} {d : List Byte} {p : Bool} (ahead : s.host.ra = [⟨w, winLine s w, (winCur s).2, d, p⟩]) (apart : s.host.lastRd ≠ w) :
    winRead s w = { emit s (.read d p) with host := { s.host with ra := [], lastRd := w + 64 } } := by
  have hit : raHit s w ⟨w, winLine s w, (winCur s).2, d, p⟩ = true := by simp [raHit]
  simp [winRead, ahead, hit, apart.symm, emit]

/-- A read of a line that does not follow the last one read is of the memory (R369). -/
theorem winRead_plain {w : Nat} (empty : s.host.ra = []) (apart : s.host.lastRd ≠ w) :
    winRead s w = { emit s (.read (memRead s (winCur s).2 (winLine s w)).1 (memRead s (winCur s).2 (winLine s w)).2) with
      host := { s.host with lastRd := w + 64 } } := by
  simp [winRead, empty, rangeTake_noRequest none_, winFetch_uncached none_, apart.symm, emit]

/-- A line that nothing holds is read ahead (R370). -/
theorem raAdd_first {w : Nat} (empty : s.host.ra = []) (inside : w < winSize) (free : winHeld s w false = false) :
    raAdd s w = { s with host := { s.host with
      ra := [⟨w, winLine s w, (winCur s).2, (memRead s (winCur s).2 (winLine s w)).1, (memRead s (winCur s).2 (winLine s w)).2⟩] } } := by
  simp [raAdd, empty, free, Nat.not_le.mpr inside, winFetch_uncached none_]

/-- A read of the line after the last one read starts read-ahead, here of one line (R370). -/
theorem winRead_ahead {w : Nat} (empty : s.host.ra = []) (follows : s.host.lastRd = w) (pos : 0 < w) (one : regField s 0xB0000 19 16 = 1)
    (inside : w + 64 < winSize) (free : winHeld s (w + 64) false = false) :
    winRead s w = { emit s (.read (memRead s (winCur s).2 (winLine s w)).1 (memRead s (winCur s).2 (winLine s w)).2) with
      host := { s.host with lastRd := w + 64, ra := [⟨w + 64, winLine s (w + 64), (winCur s).2,
        (memRead s (winCur s).2 (winLine s (w + 64))).1, (memRead s (winCur s).2 (winLine s (w + 64))).2⟩] } } := by
  have read : winRead s w = raAdd { emit s (.read (memRead s (winCur s).2 (winLine s w)).1 (memRead s (winCur s).2 (winLine s w)).2) with
      host := { s.host with lastRd := w + 64 } } (w + 64) := by
    have depth : ∀ h : HostPort, ∀ o, regField { s with host := h, out := o } 0xB0000 19 16 = 1 := fun _ _ => one
    simp [winRead, empty, rangeTake_noRequest none_, winFetch_uncached none_, follows, pos, emit, depth, List.range_one]
  refine read.trans ?_
  exact raAdd_first (s := { emit s (.read (memRead s (winCur s).2 (winLine s w)).1 (memRead s (winCur s).2 (winLine s w)).2) with
      host := { s.host with lastRd := w + 64 } }) none_ empty inside free

end Uncached

/-! ### The stash (R271, R290, R291) -/

theorem firstBelow_only {n w : Nat} {p : Nat → Bool} (below : w < n) (holds : p w = true) (only : ∀ v, p v = true → v = w) :
    firstBelow n p = some w := by
  have found : (firstBelow n p).isSome := List.find?_isSome.mpr ⟨w, List.mem_range.mpr below, holds⟩
  obtain ⟨v, is⟩ := Option.isSome_iff_exists.mp found
  rw [is, only v (List.find?_some is)]

section NoWays
variable {s : State} (empty : s.coh.l2 = [])
include empty

theorem l2get_empty (g line w : Nat) : l2get s g line w = l2way0 := by rw [l2get, empty]; rfl

theorem l2tagged_empty (g line : Nat) : l2tagged s g line = none := by
  simp [l2tagged, l2get_empty empty, l2way0, firstBelow]

/-- Where no way holds a line, a fill finds one as soon as its class's mask allows any. -/
theorem victim_empty {cls : Nat} (ways : wayMask s cls ≠ 0) (g line : Nat) : ∃ w, w < 16 ∧ victim s g line cls = some w := by
  have small : wayMask s cls < 2 ^ 16 := lt_of_lt_of_le (bitsOf_lt _ _ _) (Nat.pow_le_pow_right (by decide) (by omega))
  obtain ⟨w, allowed⟩ := Nat.exists_testBit_of_ne_zero ways
  have below : w < 16 := by
    by_contra high
    rw [Nat.testBit_lt_two_pow (lt_of_lt_of_le small (Nat.pow_le_pow_right (by decide) (Nat.le_of_not_lt high)))] at allowed
    cases allowed
  have found : (firstBelow 16 (fun w => (wayMask s cls).testBit w)).isSome := List.find?_isSome.mpr ⟨w, List.mem_range.mpr below, allowed⟩
  obtain ⟨v, is⟩ := Option.isSome_iff_exists.mp found
  refine ⟨v, List.mem_range.mp (List.mem_of_find?_eq_some is), ?_⟩
  simp [victim, l2get_empty empty, l2way0, is]

end NoWays

/-- A slice whose way `w` has taken a line, which its home's directory names as the owner. -/
def stashed (s : State) (g line w : Nat) (v : L2Way) : State := l2touch (l2put (dirPut s line ⟨2, g, 0⟩) g line w v) g line w

theorem stashed_rest (s : State) (g line w : Nat) (v : L2Way) : { stashed s g line w v with coh := s.coh } = s := rfl

theorem l2get_stashed (s : State) (g line w : Nat) (v : L2Way) : l2get (stashed s g line w v) g line w = v :=
  tabGet_tabSet_same _ _ _ _

theorem l2find_stashed {s : State} (none_ : s.coh = coh0) (g line : Nat) {w : Nat} (below : w < 16) {v : L2Way} (tag : v.tag = line / 4096)
    (valid : v.st ≠ 0) : l2find (stashed s g line w v) g line = some w := by
  refine firstBelow_only below (by simp [l2get_stashed, tag, valid]) fun x holds => ?_
  by_contra other
  have key : l2key g line x ≠ l2key g line w := by unfold l2key; omega
  have away : l2get (stashed s g line w v) g line x = l2way0 := by
    refine (tabGet_tabSet_ne _ _ _ key).trans ?_
    rw [show (dirPut s line ⟨2, g, 0⟩).coh.l2 = [] from congrArg Coh.l2 none_]
    rfl
  rw [away] at holds
  simp [l2way0] at holds

/-- A write hinted at a slice that can take its line is placed there in M, over what memory holds (R283, R290). -/
theorem cohHintCore_stashes {s : State} (none_ : s.coh = coh0) (clean : s.tiers.poison = []) {g line : Nat} (canopy : lineTier line = 0)
    (slice : g < 48) (serves : groveFenced s g = false) (ways : wayMask s 2 ≠ 0) (mask : Nat) (data : List Byte) (poison : Bool) :
    ∃ w, w < 16 ∧ cohHintCore s g 0 line mask data poison =
      stashed s g line w ⟨line / 4096, 2, true, poison, 0, false, 0, mergeBytes mask data (memRead s 0 line).1⟩ := by
  have empty : s.coh.l2 = [] := congrArg Coh.l2 none_
  have fits : hintOk s g line = true := by
    obtain ⟨w, -, victim⟩ := victim_empty empty ways g line
    simp [hintOk, slice, serves, victim]
  have room : dirRoom s line = s := by
    have load : dirLoad s (homeOf line) = 0 := by simp [dirLoad, none_, coh0]
    have cap : 0 < dirCap (homeOf line) := by unfold dirCap; split_ifs <;> decide
    simp [dirRoom, load, cap]
  have empty' : (dirPut s line ⟨2, g, 0⟩).coh.l2 = [] := empty
  obtain ⟨w, below, victim⟩ := victim_empty (s := dirPut s line ⟨2, g, 0⟩) empty' (cls := 2) ways g line
  have vacant : evict (dirPut s line ⟨2, g, 0⟩) g line w = dirPut s line ⟨2, g, 0⟩ := by
    simp [evict, l2get_empty empty', l2way0]
  refine ⟨w, below, ?_⟩
  simp [cohHintCore, fits, room, hintPlace, ownerData_uncached s line none_, dropAll_uncached s line none_, canopy, memRead_clean s line clean,
    l2fill, l2tagged_empty empty', victim, vacant, stashed]

end Sys2Proof.Machine
end

section
/-! PROOFS. The host's memory requests (R250, R251, R291, R351, R368 to R370): which of them the complex serves, and with what. -/

namespace Sys2Proof.Machine

theorem uncommitted_emit_errs (s : State) (o : Out) : (uncommitted (emit s o)).errs = s.errs := by
  rw [uncommitted, regCount, regSet_errs, emit]
theorem uncommitted_emit_pending (s : State) (o : Out) : (uncommitted (emit s o)).pending = s.pending := by
  rw [uncommitted, regCount, regSet_pending, emit]

theorem uncommitted_counts (s : State) : regField (uncommitted s) 0xB0040 63 48 = satAdd 16 (regField s 0xB0040 63 48) 1 := by
  rw [uncommitted, regCount, regField_regSet_same _ _ _ _ _ (by decide)]
  exact Nat.mod_eq_of_lt (satAdd_lt _ _ _)

/-- A read of a flush word discards the read-ahead buffer and shows COMPLETED (R351). -/
theorem flushRead_eq (s : State) (q n : Nat) : flushRead s q n =
    { emit s (.read (leBytes 8 ((queueGet s q).completed % 2 ^ 64) ++ (freeBytes s n).1) false) with
      host := { s.host with ra := [] }, free := s.free + n } := rfl

/-! ### The three requests, as far as the window is not asked -/

section Requests
variable {s : State} {link : Nat} (live : Live s) (port : link < 4)
include live port

theorem exec_memRd {dpa : Nat} {t : State} (does : memRd s link dpa = t) (errs : t.errs = s.errs) (pending : t.pending = s.pending) :
    exec (.memRd link dpa) s = .next t := withUnit_calm 4 link s t _ port live does errs pending

theorem exec_memWr {dpa mask p : Nat} {data : List Byte} {t : State} (does : memWr s link dpa mask p data = t) (errs : t.errs = s.errs)
    (pending : t.pending = s.pending) : exec (.memWr link dpa mask p data) s = .next t :=
  withUnit_calm 4 link s t _ port live does errs pending

/-- What MEM_INV does (R369). -/
theorem exec_memInv {dpa : Nat} {t : State} (does : (if !hostSees s link || windowStopped s then s
      else if hdmDone (emit (linkWake s link) (.cmp link)) then emit (linkWake s link) (.cmp link)
        else uncommitted (emit (linkWake s link) (.cmp link))) = t) (errs : t.errs = s.errs) (pending : t.pending = s.pending) :
    exec (.memInv link dpa) s = .next t := withUnit_calm 4 link s t _ port live does errs pending

/-- A link whose function the host does not see, or a window that is stopped, serves nothing (R257, R360, R378). -/
theorem exec_unserved (shut : hostSees s link = false ∨ windowStopped s = true) (dpa : Nat) :
    exec (.memRd link dpa) s = .next s ∧ exec (.memInv link dpa) s = .next s ∧
      ∀ mask p data, exec (.memWr link dpa mask p data) s = .next s := by
  have closed : (!hostSees s link || windowStopped s) = true := by
    rcases shut with unseen | stopped
    · rw [unseen]; rfl
    · rw [stopped, Bool.or_true]
  refine ⟨exec_memRd live port ?_ rfl rfl, exec_memInv live port ?_ rfl rfl, fun mask p data => exec_memWr live port ?_ rfl rfl⟩
  · rw [memRd, if_pos closed]
  · rw [if_pos closed]
  · rw [memWr, if_pos closed]

variable (sees : hostSees s link = true) (serving : windowStopped s = false)
include sees serving

/-- Before the decoders are committed every request is answered with zeros, discarded and counted (R368). -/
theorem exec_undecoded (dpa : Nat) (undone : hdmDone s = false) :
    exec (.memRd link dpa) s = .next (uncommitted (emit (linkWake s link) (.read (List.replicate 64 0) false))) ∧
    exec (.memInv link dpa) s = .next (uncommitted (emit (linkWake s link) (.cmp link))) ∧
    ∀ mask p data, exec (.memWr link dpa mask p data) s = .next (uncommitted (emit (linkWake s link) (.cmp link))) := by
  have undone' : hdmDone (emit (linkWake s link) (.cmp link)) = false := (hdmDone_linkWake s link).trans undone
  refine ⟨exec_memRd live port ?_ ?_ ?_, exec_memInv live port ?_ ?_ ?_, fun mask p data => exec_memWr live port ?_ ?_ ?_⟩
  · simp [memRd, sees, serving, undone]
  · exact (uncommitted_emit_errs _ _).trans (linkWake_errs s link)
  · exact (uncommitted_emit_pending _ _).trans (linkWake_pending s link)
  · simp [sees, serving, undone']
  · exact (uncommitted_emit_errs _ _).trans (linkWake_errs s link)
  · exact (uncommitted_emit_pending _ _).trans (linkWake_pending s link)
  · simp [memWr, sees, serving, undone]
  · exact (uncommitted_emit_errs _ _).trans (linkWake_errs s link)
  · exact (uncommitted_emit_pending _ _).trans (linkWake_pending s link)

variable (decoded : hdmDone s = true)
include decoded

/-- MEM_INV is completed and has no effect (R369). -/
theorem exec_memInv_decoded (dpa : Nat) : exec (.memInv link dpa) s = .next (emit (linkWake s link) (.cmp link)) := by
  have done : hdmDone (emit (linkWake s link) (.cmp link)) = true := (hdmDone_linkWake s link).trans decoded
  exact exec_memInv live port (by simp [sees, serving, done]) (linkWake_errs s link) (linkWake_pending s link)

variable {dpa w : Nat} (at_ : hostOffset s link dpa / 64 * 64 = w)
include at_

omit live port in
/-- Once the decoders are committed, a read goes where its offset lies: the window, the flush page, or beyond (R251, R351, R368). -/
theorem memRd_decoded : memRd s link dpa =
    if w < winSize then
      (if !winServes s then emit (linkWake s link) (.read (List.replicate 64 0) false)
       else if winHeld s w false then rangeAsk (linkWake s link) winSrc (64 * winLine s w) 64 false else winRead (linkWake s link) w)
    else if w < winSize + 65536 then flushRead (linkWake s link) ((w - winSize) / 64) 56
    else emit (linkWake s link) (.read (List.replicate 64 0) false) := by
  simp [memRd, sees, serving, decoded, at_]

omit live port in
/-- A write outside a window that serves is completed and discarded (R251, R368). -/
theorem memWr_discarded (out : winSize ≤ w ∨ winServes s = false) (mask p : Nat) (data : List Byte) :
    memWr s link dpa mask p data = emit (linkWake s link) (.cmp link) := by
  have gone : (decide (winSize ≤ w) || !winServes s) = true := by
    rcases out with beyond | shut
    · rw [decide_eq_true beyond, Bool.true_or]
    · rw [shut, Bool.not_false, Bool.or_true]
  simp only [memWr, sees, serving, decoded, at_, hdmDone_linkWake, hostOffset_linkWake, winServes_linkWake, gone, Bool.not_true, Bool.or_self,
    Bool.false_eq_true, if_false, if_true]

/-- A window that does not serve reads as zero and drops writes (R251). -/
theorem exec_mem_shut (inside : w < winSize) (shut : winServes s = false) :
    exec (.memRd link dpa) s = .next (emit (linkWake s link) (.read (List.replicate 64 0) false)) ∧
      ∀ mask p data, exec (.memWr link dpa mask p data) s = .next (emit (linkWake s link) (.cmp link)) := by
  refine ⟨exec_memRd live port ?_ ?_ ?_, fun mask p data =>
    exec_memWr live port (memWr_discarded sees serving decoded at_ (.inr shut) mask p data) (linkWake_errs s link) (linkWake_pending s link)⟩
  · simp [memRd_decoded sees serving decoded at_, inside, shut]
  · exact linkWake_errs s link
  · exact linkWake_pending s link

/-- What lies beyond the window and the flush page reads as zero and drops writes (R351, R368). -/
theorem exec_mem_beyond (beyond : winSize + 65536 ≤ w) :
    exec (.memRd link dpa) s = .next (emit (linkWake s link) (.read (List.replicate 64 0) false)) ∧
      ∀ mask p data, exec (.memWr link dpa mask p data) s = .next (emit (linkWake s link) (.cmp link)) := by
  have past : winSize ≤ w := le_trans (Nat.le_add_right _ _) beyond
  refine ⟨exec_memRd live port ?_ ?_ ?_, fun mask p data =>
    exec_memWr live port (memWr_discarded sees serving decoded at_ (.inl past) mask p data) (linkWake_errs s link) (linkWake_pending s link)⟩
  · rw [memRd_decoded sees serving decoded at_, if_neg (Nat.not_lt.mpr past), if_neg (Nat.not_lt.mpr beyond)]
  · exact linkWake_errs s link
  · exact linkWake_pending s link

/-- A flush word's line: the read-ahead buffer is discarded and COMPLETED comes back, with bytes that nothing fixes after it (R351). -/
theorem exec_memRd_flush {q : Nat} (page : w = winSize + 64 * q) (queue : q < 1024) :
    ∃ rest, rest.length = 56 ∧ exec (.memRd link dpa) s =
      .next { emit (linkWake s link) (.read (leBytes 8 ((queueGet s q).completed % 2 ^ 64) ++ rest) false) with
        host := { (linkWake s link).host with ra := [] }, free := s.free + 56 } := by
  have word : (w - winSize) / 64 = q := by omega
  refine ⟨(freeBytes (linkWake s link) 56).1, by rw [freeBytes, List.length_map, List.length_range], exec_memRd live port ?_ ?_ ?_⟩
  · rw [memRd_decoded sees serving decoded at_, if_neg (by omega), if_pos (by omega), word]
    rw [flushRead_eq, queueGet_linkWake, linkWake_free]
  · exact linkWake_errs s link
  · exact linkWake_pending s link

end Requests

end Sys2Proof.Machine
end

section
/-! PROOFS. The window's own reads and writes by the host (R251, R291, R369, R370). -/

namespace Sys2Proof.Machine

/-- A write takes an armed inversion from its register, and changes nothing else with it (R452). -/
theorem injTaken_rest (s : State) (line : Nat) : { injTaken s line with regs := s.regs } = s := by
  unfold injTaken
  dsimp only
  generalize 0x100030 + 0x100 * ctlRecord line = o
  split
  · unfold regSet regPut
    generalize tabSet regReset s.regs o _ = regs
    rfl
  · rfl

/-- A plaintext write of the canopy reaches its memory, and changes no more than a register with it (R240, R452). -/
theorem memWrite_canopy_rest (s : State) {line : Nat} (canopy : lineTier line = 0) (mask : Nat) (data : List Byte) (poison : Bool) :
    { memWrite s 0 line mask data poison with tiers := s.tiers, regs := s.regs } = s := by
  unfold memWrite
  rw [if_neg (by simp [selEmpty]), if_neg (by simp [canopy])]
  unfold memStore
  exact congrArg (fun t : State => { t with tiers := s.tiers }) (injTaken_rest s line)

section Window
variable {s : State} {link dpa w : Nat} (live : Live s) (port : link < 4) (sees : hostSees s link = true) (serving : windowStopped s = false)
  (decoded : hdmDone s = true) (at_ : hostOffset s link dpa / 64 * 64 = w) (inside : w < winSize) (serves : winServes s = true)
include live port sees serving decoded at_ inside serves

/-- A read of a line that nothing holds is the window's. -/
theorem exec_memRd_window (free : winHeld s w false = false) {t : State} (reads : winRead (linkWake s link) w = t)
    (errs : t.errs = (linkWake s link).errs) (pending : t.pending = (linkWake s link).pending) : exec (.memRd link dpa) s = .next t := by
  refine exec_memRd live port ?_ (errs.trans (linkWake_errs s link)) (pending.trans (linkWake_pending s link))
  rw [memRd_decoded sees serving decoded at_, if_pos inside, serves, free]
  exact reads

section Reads
variable (free : winHeld s w false = false)
include free

theorem exec_memRd_hit {d : List Byte} {p : Bool} (ahead : s.host.ra = [⟨w, winLine s w, (winCur s).2, d, p⟩]) (apart : s.host.lastRd ≠ w) :
    exec (.memRd link dpa) s = .next { emit (linkWake s link) (.read d p) with
      host := { (linkWake s link).host with ra := [], lastRd := w + 64 } } :=
  exec_memRd_window live port sees serving decoded at_ inside serves free
    (winRead_hit (by simpa using ahead) (by simpa using apart)) rfl rfl

variable (none_ : s.coh = coh0) (empty : s.host.ra = [])
include none_ empty

theorem exec_memRd_plain (apart : s.host.lastRd ≠ w) : exec (.memRd link dpa) s =
    .next { emit (linkWake s link) (.read (memRead s (winCur s).2 (winLine s w)).1 (memRead s (winCur s).2 (winLine s w)).2) with
      host := { (linkWake s link).host with lastRd := w + 64 } } := by
  have reads := winRead_plain (s := linkWake s link) (w := w) ((linkWake_coh s link).trans none_) (by simpa using empty) (by simpa using apart)
  rw [memRead_linkWake, winCur_linkWake, winLine_linkWake] at reads
  exact exec_memRd_window live port sees serving decoded at_ inside serves free reads rfl rfl

theorem exec_memRd_ahead (follows : s.host.lastRd = w) (pos : 0 < w) (one : regField s 0xB0000 19 16 = 1) (next : w + 64 < winSize)
    (freeNext : winHeld s (w + 64) false = false) : exec (.memRd link dpa) s =
    .next { emit (linkWake s link) (.read (memRead s (winCur s).2 (winLine s w)).1 (memRead s (winCur s).2 (winLine s w)).2) with
      host := { (linkWake s link).host with lastRd := w + 64, ra := [⟨w + 64, winLine s (w + 64), (winCur s).2,
        (memRead s (winCur s).2 (winLine s (w + 64))).1, (memRead s (winCur s).2 (winLine s (w + 64))).2⟩] } } := by
  have reads := winRead_ahead (s := linkWake s link) (w := w) ((linkWake_coh s link).trans none_) (by simpa using empty)
    (by simpa using follows) pos (by simpa using one) next (by simpa using freeNext)
  simp only [memRead_linkWake, winCur_linkWake, winLine_linkWake] at reads
  exact exec_memRd_window live port sees serving decoded at_ inside serves free reads rfl rfl

end Reads

section Writes
variable (free : winHeld s w true = false) (rest : resting s) (none_ : s.coh = coh0) (empty : s.host.ra = []) (plain : (winCur s).2 = 0)
include free rest none_ empty plain

omit live port rest in
/-- A write of a line that nothing holds reaches its home, or the slice that its region names (R283, R291), and Cmp completes it. -/
theorem memWr_window (mask p : Nat) (data : List Byte) : memWr s link dpa mask p data =
    goOn (emit (if inStash s w then cohHintCore (linkWake s link) (regField s 0x60028 61 56) 0 (winLine s w) (mask % 2 ^ 64) data (p != 0)
      else cohWriteCore (linkWake s link) 0 (winLine s w) (mask % 2 ^ 64) data (p != 0)) (.cmp link)) := by
  have none' : (linkWake s link).coh = coh0 := (linkWake_coh s link).trans none_
  have ra : (linkWake s link).host.ra = [] := (linkWake_ra s link).trans empty
  have dropped : { linkWake s link with host := { (linkWake s link).host with
      ra := (linkWake s link).host.ra.filter (fun x => x.line != winLine s w) } } = linkWake s link := by
    rw [ra, List.filter_nil, ← ra]
  have into : (decide (winSize ≤ w) || !winServes s) = false := by rw [serves, decide_eq_false (Nat.not_le.mpr inside)]; rfl
  simp only [memWr, sees, serving, decoded, at_, hdmDone_linkWake, hostOffset_linkWake, winServes_linkWake, into, winHeld_linkWake, free,
    winLine_linkWake, winCur_linkWake, plain, rangeTake_noRequest none', selFlush_uncached none', dropped, inStash_linkWake,
    regField_linkWake, Bool.not_true, Bool.or_self, Bool.false_eq_true, if_false]

variable (canopy : lineTier (winLine s w) = 0)
include canopy

theorem exec_memWr_memory (outside : inStash s w = false) (mask p : Nat) (data : List Byte) : exec (.memWr link dpa mask p data) s =
    .next (emit (memWrite (linkWake s link) 0 (winLine s w) (mask % 2 ^ 64) data (p != 0)) (.cmp link)) := by
  have writes := memWr_window sees serving decoded at_ inside serves free none_ empty plain mask p data
  rw [outside, if_neg Bool.false_ne_true, cohWriteCore_uncached _ _ _ _ _ _ ((linkWake_coh s link).trans none_)] at writes
  have only := memWrite_canopy_rest (linkWake s link) canopy (mask % 2 ^ 64) data (p != 0)
  generalize memWrite (linkWake s link) 0 (winLine s w) (mask % 2 ^ 64) data (p != 0) = x at writes only ⊢
  have still : resting (emit x (.cmp link)) :=
    resting_congr (s := linkWake s link) (congrArg State.cores only :) (congrArg State.ride only :) (linkWake_resting link rest)
  rw [goOn_resting still] at writes
  exact exec_memWr live port writes ((congrArg State.errs only :).trans (linkWake_errs s link))
    ((congrArg State.pending only :).trans (linkWake_pending s link))

theorem exec_memWr_stash {g : Nat} (stash : inStash s w = true) (names : regField s 0x60028 61 56 = g) (slice : g < 48)
    (unfenced : groveFenced s g = false) (ways : wayMask s 2 ≠ 0) (clean : s.tiers.poison = []) (mask p : Nat) (data : List Byte) :
    ∃ t v, exec (.memWr link dpa mask p data) s = .next t ∧ l2find t g (winLine s w) = some v ∧
      l2get t g (winLine s w) v = ⟨winLine s w / 4096, 2, true, p != 0, 0, false, 0, mergeBytes (mask % 2 ^ 64) data (memRead s 0 (winLine s w)).1⟩ ∧
      t.coh.dir = [(winLine s w, ⟨2, g, 0⟩)] ∧ t.tiers = s.tiers ∧ t.regs = s.regs := by
  have writes := memWr_window sees serving decoded at_ inside serves free none_ empty plain mask p data
  have none' : (linkWake s link).coh = coh0 := (linkWake_coh s link).trans none_
  have ways' : wayMask (linkWake s link) 2 ≠ 0 := by rwa [wayMask, regField_linkWake, ← wayMask]
  obtain ⟨v, below, placed⟩ := cohHintCore_stashes none' (by simpa using clean) canopy slice (by simpa using unfenced) ways'
    (mask % 2 ^ 64) data (p != 0)
  rw [memRead_linkWake] at placed
  rw [stash, if_pos rfl, names, placed] at writes
  generalize way : (⟨winLine s w / 4096, 2, true, p != 0, 0, false, 0, mergeBytes (mask % 2 ^ 64) data (memRead s 0 (winLine s w)).1⟩ : L2Way) = x
    at writes ⊢
  have only := stashed_rest (linkWake s link) g (winLine s w) v x
  have dir : (stashed (linkWake s link) g (winLine s w) v x).coh.dir = [(winLine s w, ⟨2, g, 0⟩)] := by
    simp [stashed, l2touch, l2put, dirPut, none', coh0, tabSet, tabDel, tabIns, dir0]
  have found := l2find_stashed none' g (winLine s w) below (v := x) (by rw [← way]) (by rw [← way]; exact Nat.succ_ne_zero 1)
  have got := l2get_stashed (linkWake s link) g (winLine s w) v x
  generalize stashed (linkWake s link) g (winLine s w) v x = y at writes only dir found got
  have still : resting (emit y (.cmp link)) :=
    resting_congr (s := linkWake s link) (congrArg State.cores only :) (congrArg State.ride only :) (linkWake_resting link rest)
  rw [goOn_resting still] at writes
  exact ⟨emit y (.cmp link), v, exec_memWr live port writes ((congrArg State.errs only :).trans (linkWake_errs s link))
    ((congrArg State.pending only :).trans (linkWake_pending s link)), found, got, dir,
    (congrArg State.tiers only :).trans (linkWake_tiers s link), (congrArg State.regs only :).trans (linkWake_regs s link)⟩

end Writes

end Window

end Sys2Proof.Machine
end

section
/-! PROOFS. The host port's other commands (R351, R367, R368, R370, R372): flush words, decoders, messages and zero-length reads. -/

namespace Sys2Proof.Machine

/-! ### Flush words and decoders (R351, R368) -/

section FlushWord
variable {s : State} {q : Nat} (live : Live s) (queue : q < 1024) (serving : windowStopped s = false)
include live queue serving

theorem exec_flushWordRead (decoded : hdmDone s = true) : exec (.flushWordRead q) s =
    .next { emit s (.read (leBytes 8 ((queueGet s q).completed % 2 ^ 64)) false) with host := { s.host with ra := [] } } := by
  refine withUnit_calm 1024 q s _ _ queue live ?_ rfl rfl
  rw [serving, if_neg Bool.false_ne_true, if_pos decoded, flushRead_eq]
  simp [freeBytes, emit]

theorem exec_flushWordRead_undecoded (undone : hdmDone s = false) : exec (.flushWordRead q) s =
    .next (uncommitted (emit s (.read (List.replicate 8 0) false))) := by
  refine withUnit_calm 1024 q s _ _ queue live ?_ (uncommitted_emit_errs s _) (uncommitted_emit_pending s _)
  rw [serving, if_neg Bool.false_ne_true, undone, if_neg Bool.false_ne_true]

end FlushWord

theorem exec_readAheadExpiry {s : State} (live : Live s) (off : Nat) : exec (.readAheadExpiry off) s =
    .next { s with host := { s.host with ra := s.host.ra.filter (fun x => x.off != off) } } := 
  runLive_next s _ (fun s => { s with host := { s.host with ra := s.host.ra.filter (fun x => x.off != off) } }) live rfl rfl rfl

theorem exec_hdmCommit {s : State} {link ways : Nat} (live : Live s) (port : link < 4) (sees : hostSees s link = true)
    (known : ways = 1 ∨ ways = 2 ∨ ways = 4) (pos : Nat) : exec (.hdmCommit link ⟨ways, pos⟩) s =
    .next { s with host := { s.host with
      hdm := tabSet (fun _ => 0) s.host.hdm link (ways + 1), hpos := tabSet (fun _ => 0) s.host.hpos link (pos % ways)
      again := setDel link s.host.again } } := by
  have taken : (hostSees s link && (ways == 1 || ways == 2 || ways == 4)) = true := by
    rcases known with rfl | rfl | rfl <;> simp [sees]
  exact withUnit_calm 4 link s _ _ port live (if_pos taken) rfl rfl

/-! ### A pending message (R367) -/

/-- The host port once MSI-X enable, the function mask and a vector's mask have been written. -/
def msixWritten (s : State) (vec mask en fmask : Nat) : State :=
  { s with host := { s.host with
    msixEn := en != 0, fmask := fmask != 0, msix := tabSet (fun _ => msix0) s.host.msix vec { msixGet s vec with mask := mask != 0 } } }

theorem sendMsix_goes {s : State} {v : Nat} (known : v < 2048) (up : s.host.hold = false) (on : s.host.msixEn = true)
    (open_ : s.host.fmask = false) (unmasked : (msixGet s v).mask = false) :
    sendMsix s v = emit (linkWake s 0) (.msix v (msixGet s v).addr (msixGet s v).data) := by
  simp only [sendMsix, up, on, open_, unmasked, Nat.mod_eq_of_lt known, Bool.false_eq_true, Bool.not_false, Bool.and_self, if_false, if_true]

section Message
variable {s : State} {vec : Nat} (known : vec < 2048) (up : s.host.hold = false) (one : s.host.pba = [vec]) (mask en fmask : Nat)
include known

theorem msixGet_written : msixGet (msixWritten s vec mask en fmask) vec = { msixGet s vec with mask := mask != 0 } := by
  rw [msixGet, Nat.mod_eq_of_lt known]
  exact tabGet_tabSet_same _ _ _ _

theorem msixSet_drains : msixSet s vec mask en fmask = msixDrain (msixWritten s vec mask en fmask) := by
  rw [msixSet, Nat.mod_eq_of_lt known]
  rfl

include up one

/-- The one pending message goes out once nothing masks it. -/
theorem msixSet_sends (unmasked : mask = 0) (enabled : en ≠ 0) (open_ : fmask = 0) : msixSet s vec mask en fmask =
    emit (linkWake { msixWritten s vec mask en fmask with host := { (msixWritten s vec mask en fmask).host with pba := [] } } 0)
      (.msix vec (msixGet s vec).addr (msixGet s vec).data) := by
  have entry := msixGet_written (s := s) known mask en fmask
  have pending : (msixWritten s vec mask en fmask).host.pba = [vec] := one
  have on : (msixWritten s vec mask en fmask).host.msixEn = true := bne_iff_ne.mpr enabled
  have all : (msixWritten s vec mask en fmask).host.fmask = false := by subst open_; rfl
  have reach : (msixWritten s vec mask en fmask).host.hold = false := up
  rw [msixSet_drains known]
  generalize msixWritten s vec mask en fmask = t at entry pending on all reach ⊢
  have entry' : msixGet { t with host := { t.host with pba := [] } } vec = { msixGet s vec with mask := mask != 0 } := entry
  have unmasked' : (msixGet t vec).mask = false := by rw [entry, unmasked]; rfl
  have drains : msixDrain t = sendMsix { t with host := { t.host with pba := [] } } vec := by
    unfold msixDrain
    rw [reach, on, all, if_neg (by decide), pending, List.foldl_cons, List.foldl_nil, unmasked', if_neg Bool.false_ne_true, pending]
    simp [setDel]
  rw [drains, sendMsix_goes (s := { t with host := { t.host with pba := [] } }) known reach on all (by rw [entry', unmasked]; rfl), entry']

omit up in
/-- While anything masks it the message stays pending. -/
theorem msixSet_waits (masked : mask ≠ 0 ∨ en = 0 ∨ fmask ≠ 0) : msixSet s vec mask en fmask = msixWritten s vec mask en fmask := by
  have entry := msixGet_written (s := s) known mask en fmask
  have pending : (msixWritten s vec mask en fmask).host.pba = [vec] := one
  rw [msixSet_drains known, msixDrain]
  split
  · rfl
  · next open_ =>
    have byMask : mask ≠ 0 := by
      rcases masked with m | e | f
      · exact m
      · exact absurd (by simp [msixWritten, e]) open_
      · exact absurd (by simp [msixWritten, f]) open_
    simp [pending, entry, byMask]

end Message

theorem exec_msixUnmask {s t : State} {vec mask en fmask : Nat} (live : Live s) (does : msixSet s vec mask en fmask = t)
    (errs : t.errs = s.errs) (pending : t.pending = s.pending) : exec (.msixUnmask vec mask en fmask) s = .next t :=
  runLive_next s t (fun s => msixSet s vec mask en fmask) live does errs pending

/-! ### Zero-length reads (R372) -/

section ZeroLength
variable {s : State} {link q : Nat} {r : RunCmd} {st d0 d1 : Nat}

theorem zlrDone_waits {l : Nat} (deferred : s.host.defer = [⟨[link, l], q, r.idx, st, d0, d1⟩]) :
    zlrDone s link = { s with host := { s.host with defer := [⟨[l], q, r.idx, st, d0, d1⟩] } } := by
  simp [zlrDone, deferred]

theorem zlrDone_ends (deferred : s.host.defer = [⟨[link], q, r.idx, st, d0, d1⟩]) :
    zlrDone s link = finishNow { s with host := { s.host with defer := [] } } q r.idx st d0 d1 := by
  simp [zlrDone, deferred]

end ZeroLength

/-- A completion record leaves the completions that wait for zero-length reads. -/
theorem recordStore_defer {s : State} (calm : uncached s) (q : Nat) {rec : List Byte} (irq : Bool) (len : rec.length = 64)
    (aligned : (queueGet s q).cpl % 64 = 0) (low : (queueGet s q).cpl + 64 * 2 ^ (queueGet s q).clog ≤ 2 ^ 44) :
    (recordStore s q rec irq).host.defer = s.host.defer := by
  have lt : (queueGet s q).completed % 2 ^ (queueGet s q).clog < 2 ^ (queueGet s q).clog := Nat.mod_lt _ (Nat.two_pow_pos _)
  unfold recordStore
  dsimp only
  split
  · rfl
  · generalize queueGet s q = k at aligned low lt ⊢
    have line := floorWrite_line s (k.cpl + 64 * (k.completed % 2 ^ k.clog)) rec (by omega) (by omega) len calm
    have sent := d2h_sent s 4 (floorPA (k.cpl + 64 * (k.completed % 2 ^ k.clog)) / 64)
    have written : (floorWrite s (k.cpl + 64 * (k.completed % 2 ^ k.clog)) rec).host.defer = s.host.defer := by
      rw [line]
      exact (congrArg HostPort.defer sent.2.2 :)
    generalize floorWrite s (k.cpl + 64 * (k.completed % 2 ^ k.clog)) rec = t at written ⊢
    have told : (sendMsix t k.vec).host.defer = t.host.defer := by
      unfold sendMsix
      dsimp only
      split
      · rfl
      · split
        · exact linkWake_kept t 0 (·.host.defer) fun _ => rfl
        · rfl
    split
    · exact told.trans written
    · exact written

theorem writeRecord_defer {s : State} (calm : uncached s) (q status cmd seq ctx : Nat) (irq : Bool) (d0 d1 e : Nat) (known : q < 1024)
    (aligned : (queueGet s q).cpl % 64 = 0) (low : (queueGet s q).cpl + 64 * 2 ^ (queueGet s q).clog ≤ 2 ^ 44) :
    (writeRecord s q status cmd seq ctx irq d0 d1 e).host.defer = s.host.defer := by
  unfold writeRecord
  dsimp only
  generalize bytes : words _ = rec
  have len : rec.length = 64 := by rw [← bytes, words_length]; rfl
  have drawn : uncached (drawFree s).2 := calm
  obtain ⟨but, -, qsu⟩ := chargeQueue_but (drawFree s).2 q e drawn known
  have charged : (chargeQueue (drawFree s).2 q e).host = s.host := by unfold chargeQueue; dsimp only; split <;> rfl
  generalize chargeQueue (drawFree s).2 q e = t at but qsu charged ⊢
  have queue : queueGet t q = queueGet s q := queueGet_queues s t q (congrArg Qsu.queues qsu)
  exact (recordStore_defer but.1 q irq len (by rwa [queue]) (by rwa [queue])).trans (congrArg HostPort.defer charged)

/-- The one command that a queue runs completes (R336, R339): its record stands in the ring, and COMPLETED has risen. -/
theorem finishNow_alone {s : State} (calm : uncached s) (serves : frozen s = false) (up : s.host.hold = false) {q : Nat} (known : q < 1024)
    {r : RunCmd} (run : (queueGet s q).run = [r]) (aligned : (queueGet s q).cpl % 64 = 0)
    (low : (queueGet s q).cpl + 64 * 2 ^ (queueGet s q).clog ≤ 2 ^ 44) (st d0 d1 : Nat) :
    ∃ t el en, finishNow s q r.idx st d0 d1 = t ∧ t.host.defer = s.host.defer ∧
      hostBytes t ((queueGet s q).cpl + 64 * ((queueGet s q).completed % 2 ^ (queueGet s q).clog)) 64 =
        words [phaseOf (queueGet s q).completed (queueGet s q).clog * 2 ^ 63 + st * 2 ^ 55 + q * 2 ^ 45 + dSeq r.desc * 2 ^ 30 +
          dCmd r.desc * 2 ^ 25 + dCtx r.desc, el, en, d0, d1, 0, 0, 0] ∧
      queueGet t q = { queueGet s q with run := [], completed := (queueGet s q).completed + 1 } ∧
      t.cores = s.cores ∧ t.movers = s.movers ∧ t.errs = s.errs ∧ t.pending = s.pending := by
  have found : runOf s q r.idx = some r := by simp [runOf, run]
  have ends : finishNow s q r.idx st d0 d1 = writeRecord (queueSet s q { queueGet s q with run := [] }) q st (dCmd r.desc) (dSeq r.desc)
      (dCtx r.desc) (bitOf (dHead r.desc) 40) d0 d1 (r.fj / fjPerUj) := by
    simp [finishNow, found, run]
  have queue := queueGet_queueSet_same s q { queueGet s q with run := [] }
  obtain ⟨⟨el, en, record⟩, queues, ⟨-, only, -⟩, -, -⟩ := writeRecord_line (queueSet s q { queueGet s q with run := [] }) q st (dCmd r.desc)
    (dSeq r.desc) (dCtx r.desc) (bitOf (dHead r.desc) 40) d0 d1 (r.fj / fjPerUj) calm known up serves (by rw [queue]; exact aligned)
    (by rw [queue]; exact low)
  have waits := writeRecord_defer (s := queueSet s q { queueGet s q with run := [] }) calm q st (dCmd r.desc) (dSeq r.desc) (dCtx r.desc)
    (bitOf (dHead r.desc) 40) d0 d1 (r.fj / fjPerUj) known (by rw [queue]; exact aligned) (by rw [queue]; exact low)
  rw [queue] at record queues
  generalize writeRecord _ _ _ _ _ _ _ _ _ _ = t at ends record queues only waits
  refine ⟨t, el, en, ends, waits, record, ?_, (congrArg State.cores only :), (congrArg State.movers only :), (congrArg State.errs only :),
    (congrArg State.pending only :)⟩
  rw [queueGet, queues]
  exact tabGet_tabSet_same _ _ _ _

section Completion
variable {s : State} {link q : Nat} {r : RunCmd} {st d0 d1 : Nat} (live : Live s) (port : link < 4) (up : s.host.hold = false)
include live port up

theorem exec_zeroLengthRead_waits {l : Nat} (deferred : s.host.defer = [⟨[link, l], q, r.idx, st, d0, d1⟩]) :
    exec (.zeroLengthReadCompletion link) s = .next { s with host := { s.host with defer := [⟨[l], q, r.idx, st, d0, d1⟩] } } := by
  refine withUnit_calm 4 link s _ _ port live ?_ rfl rfl
  rw [up, if_neg Bool.false_ne_true]
  exact zlrDone_waits deferred

/-- The last zero-length read lets its completion go (R372). -/
theorem exec_zeroLengthRead_ends (none_ : s.coh = coh0)
    (deferred : s.host.defer = [⟨[link], q, r.idx, st, d0, d1⟩]) (known : q < 1024) (clean : s.tiers.poison = []) (run : (queueGet s q).run = [r])
    (aligned : (queueGet s q).cpl % 64 = 0) (low : (queueGet s q).cpl + 64 * 2 ^ (queueGet s q).clog ≤ 2 ^ 44) :
    ∃ t el en, exec (.zeroLengthReadCompletion link) s = .next t ∧ t.host.defer = [] ∧
      hostBytes t ((queueGet s q).cpl + 64 * ((queueGet s q).completed % 2 ^ (queueGet s q).clog)) 64 =
        words [phaseOf (queueGet s q).completed (queueGet s q).clog * 2 ^ 63 + st * 2 ^ 55 + q * 2 ^ 45 + dSeq r.desc * 2 ^ 30 +
          dCmd r.desc * 2 ^ 25 + dCtx r.desc, el, en, d0, d1, 0, 0, 0] ∧
      queueGet t q = { queueGet s q with run := [], completed := (queueGet s q).completed + 1 } ∧ t.cores = s.cores ∧
      t.movers = s.movers := by
  obtain ⟨t, el, en, ends, waits, record, queue, cores, movers, errs, pending⟩ :=
    finishNow_alone (s := { s with host := { s.host with defer := [] } }) ⟨none_, clean⟩ live.1 up known run aligned low st d0 d1
  refine ⟨t, el, en, withUnit_calm 4 link s t _ port live ?_ errs pending, waits, record, queue, cores, movers⟩
  rw [up, if_neg Bool.false_ne_true, zlrDone_ends deferred]
  exact ends

end Completion

end Sys2Proof.Machine
end

section
/-! PROOFS. The host port's memory requests and messages. -/

open Sys2Proof Sys2Proof.Machine in
/-- Settles O37: each request by where its offset lies, and each message and completion by what it still waits for. -/
theorem hostMemory : Obligations.HostMemory := by
  unfold Obligations.HostMemory
  intro s link dpa live rest none_ port
  dsimp only
  refine ⟨⟨fun shut => exec_unserved live port shut dpa, fun sees serving undone => ?_⟩, fun sees serving decoded => ?_,
    fun q queue serving => ⟨exec_flushWordRead live queue serving, exec_flushWordRead_undecoded live queue serving⟩, exec_readAheadExpiry live,
    fun ways pos sees known => exec_hdmCommit live port sees known pos, ?_, ?_⟩
  · obtain ⟨read, inv, write⟩ := exec_undecoded live port sees serving dpa undone
    exact ⟨read, inv, write, uncommitted_counts⟩
  · generalize at_ : hostOffset s link dpa / 64 * 64 = w
    refine ⟨exec_memInv_decoded live port sees serving decoded dpa, exec_mem_shut live port sees serving decoded at_,
      fun inside serves free => ⟨fun d p => ?_, fun empty => ?_, fun empty => ?_⟩,
      fun q => exec_memRd_flush live port sees serving decoded at_, exec_mem_beyond live port sees serving decoded at_,
      fun mask p data inside serves free empty plain canopy => ⟨fun outside => ?_, fun g stash names slice unfenced ways clean => ?_⟩⟩
    · exact exec_memRd_hit live port sees serving decoded at_ inside serves free
    · exact exec_memRd_plain live port sees serving decoded at_ inside serves free none_ empty
    · exact exec_memRd_ahead live port sees serving decoded at_ inside serves free none_ empty
    · exact exec_memWr_memory live port sees serving decoded at_ inside serves free rest none_ empty plain canopy outside mask p data
    · rw [plain]
      exact exec_memWr_stash live port sees serving decoded at_ inside serves free rest none_ empty plain canopy stash names slice unfenced ways
        clean mask p data
  · refine fun vec mask en fmask known up one => ⟨fun unmasked enabled open_ => ?_, fun masked => ?_⟩
    · exact exec_msixUnmask live (msixSet_sends known up one mask en fmask unmasked enabled open_) (linkWake_errs _ 0) (linkWake_pending _ 0)
    · exact exec_msixUnmask live (msixSet_waits known one mask en fmask masked) rfl rfl
  · exact fun q r st d0 d1 up => ⟨fun l _ => exec_zeroLengthRead_waits live port up, exec_zeroLengthRead_ends live port up none_⟩

end

section
/-! PROOFS. Coherence where little is in flight (R269 to R283): the complex with its caches and homes as given, what the shared operations make of
them, and a slice or a home that has one message to take. -/

namespace Sys2Proof.Machine

/-! ### The complex with given caches and homes -/

/-- The complex with its caches, homes and messages replaced. -/
def withCoh (s : State) (c : Coh) : State := { s with coh := c }

section Given
variable (s : State) (c : Coh)

@[simp] theorem withCoh_coh : (withCoh s c).coh = c := rfl
@[simp] theorem withCoh_withCoh (d : Coh) : withCoh (withCoh s c) d = withCoh s d := rfl
@[simp] theorem with_withCoh (d : Coh) : { withCoh s c with coh := d } = withCoh s d := rfl
@[simp] theorem withCoh_hold : (withCoh s c).host.hold = s.host.hold := rfl
@[simp] theorem memRead_withCoh (sel line : Nat) : memRead (withCoh s c) sel line = memRead s sel line := rfl
@[simp] theorem lineHeld_withCoh (sel line : Nat) (wr : Bool) : lineHeld (withCoh s c) sel line wr = lineHeld s sel line wr := rfl
@[simp] theorem hostBias_withCoh (line : Nat) : hostBias (withCoh s c) line = hostBias s line := rfl
@[simp] theorem groveFenced_withCoh (g : Nat) : groveFenced (withCoh s c) g = groveFenced s g := rfl
@[simp] theorem mx1_withCoh : mx1 (withCoh s c) = mx1 s := rfl
@[simp] theorem wayMask_withCoh (cls : Nat) : wayMask (withCoh s c) cls = wayMask s cls := rfl
@[simp] theorem dirGet_withCoh (line : Nat) : dirGet (withCoh s c) line = tabGet (fun _ => dir0) c.dir line := rfl
@[simp] theorem hostSt_withCoh (line : Nat) : hostSt (withCoh s c) line = tabGet (fun _ => 0) c.hostSt line := rfl
@[simp] theorem busyOf_withCoh (line : Nat) : busyOf (withCoh s c) line = c.busy.find? (fun b => b.line == line) := rfl
@[simp] theorem mshrOf_withCoh (g line : Nat) : mshrOf (withCoh s c) g line = c.mshr.find? (fun m => m.slice == g && m.line == line) := rfl
@[simp] theorem emit_withCoh (o : Out) : emit (withCoh s c) o = withCoh (emit s o) c := rfl
@[simp] theorem dirPut_withCoh (line : Nat) (d : DirE) : dirPut (withCoh s c) line d = withCoh s { c with dir := tabSet (fun _ => dir0) c.dir line d } := rfl
@[simp] theorem busyPut_withCoh (line : Nat) (f : Busy → Busy) : busyPut (withCoh s c) line f =
    withCoh s { c with busy := c.busy.map (fun b => if b.line = line then f b else b) } := rfl
@[simp] theorem busyDel_withCoh (line : Nat) : busyDel (withCoh s c) line = withCoh s { c with busy := c.busy.filter (fun b => b.line != line) } := rfl
@[simp] theorem mshrPut_withCoh (g line : Nat) (f : Mshr → Mshr) : mshrPut (withCoh s c) g line f =
    withCoh s { c with mshr := c.mshr.map (fun m => if m.slice = g ∧ m.line = line then f m else m) } := rfl
@[simp] theorem mshrDel_withCoh (g line : Nat) : mshrDel (withCoh s c) g line =
    withCoh s { c with mshr := c.mshr.filter (fun m => !(m.slice == g && m.line == line)) } := rfl
@[simp] theorem hostStPut_withCoh (line v : Nat) : hostStPut (withCoh s c) line v =
    withCoh s { c with hostSt := tabSet (fun _ => 0) c.hostSt line v } := rfl

theorem injTaken_withCoh (line : Nat) : injTaken (withCoh s c) line = withCoh (injTaken s line) c := by
  unfold injTaken
  dsimp only
  generalize 0x100030 + 0x100 * ctlRecord line = o
  rw [apply_ite (withCoh · c)]
  rfl

/-- A write of memory does not look at the caches. -/
@[simp] theorem memWrite_withCoh (sel line mask : Nat) (data : List Byte) (poison : Bool) :
    memWrite (withCoh s c) sel line mask data poison = withCoh (memWrite s sel line mask data poison) c := by
  unfold memWrite memStore
  rw [injTaken_withCoh, apply_ite (withCoh · c), apply_ite (withCoh · c)]
  rfl

end Given

/-- A table with its first entry. -/
theorem tabSet_nil {α : Type} [DecidableEq α] {d : Nat → α} {k : Nat} {v : α} (listed : v ≠ d k) : tabSet d [] k v = [(k, v)] := by
  simp [tabSet, listed, tabDel, tabIns]

/-- A write over a table's one entry. -/
theorem tabSet_only {α : Type} [DecidableEq α] {d : Nat → α} {k : Nat} (u : α) {v : α} (listed : v ≠ d k) : tabSet d [(k, u)] k v = [(k, v)] := by
  simp [tabSet, listed, tabDel, tabIns]

theorem tabSet_nil_default {α : Type} [DecidableEq α] (d : Nat → α) (k : Nat) : tabSet d [] k (d k) = [] := by simp [tabSet, tabDel]

/-- A table whose one entry goes. -/
theorem tabSet_gone {α : Type} [DecidableEq α] (d : Nat → α) (k : Nat) (u : α) : tabSet d [(k, u)] k (d k) = [] := by
  simp [tabSet, tabDel]

/-! ### Messages (R279, R280) -/

section Messages
variable {s : State} {c : Coh}

/-- A message whose class holds fewer than two credits of its destination's input is sent. -/
theorem send_room {m : Msg} (none_ : c.stall = []) (room : inputLoad (withCoh s c) (msgTo m) m.k.cls < 2) :
    send (withCoh s c) m = withCoh s { c with net := c.net ++ [m] } := by
  simp [send, inputRoom, room, none_]

/-- With fewer than two messages in flight there is a credit for every message. -/
theorem send_few (m : Msg) (none_ : c.stall = []) (few : c.net.length < 2) :
    send (withCoh s c) m = withCoh s { c with net := c.net ++ [m] } :=
  send_room none_ (lt_of_le_of_lt (List.length_filter_le _ _) few)

/-- The oldest message in flight is taken. -/
theorem takeMsg_head {p : Msg → Bool} {m : Msg} {rest : List Msg} (none_ : c.stall = []) (net : c.net = m :: rest) (hit : p m = true) :
    takeMsg (withCoh s c) p = some (m, withCoh s { c with net := rest }) := by
  simp [takeMsg, net, hit, unstall, none_]

theorem takeMsg_none {p : Msg → Bool} (net : c.net = []) : takeMsg (withCoh s c) p = none := by
  simp [takeMsg, net]

end Messages

/-! ### One way of a slice -/

theorem firstBelow_zero {n : Nat} {p : Nat → Bool} (hit : p 0 = true) : firstBelow (n + 1) p = some 0 := by
  simp [firstBelow, List.range_succ_eq_map, hit]

section OneWay
variable {s : State} {c : Coh} {g line : Nat} {w : L2Way} (only : c.l2 = [(l2key g line 0, w)])
include only

theorem l2get_only : l2get (withCoh s c) g line 0 = w := by simp [l2get, only, tabGet]

theorem l2put_only (v : L2Way) (listed : v ≠ l2way0) : l2put (withCoh s c) g line 0 v = withCoh s { c with l2 := [(l2key g line 0, v)] } := by
  simp only [l2put, withCoh_coh, only, tabSet_only (d := fun _ => l2way0) w listed]
  rfl

theorem l2put_only_gone : l2put (withCoh s c) g line 0 l2way0 = withCoh s { c with l2 := [] } := by
  simp only [l2put, withCoh_coh, only, tabSet_gone (fun _ => l2way0)]
  rfl

/-- No other slice holds a line. -/
theorem l2find_elsewhere {h : Nat} (other : h ≠ g) : l2find (withCoh s c) h line = none := by
  refine List.find?_eq_none.mpr fun x below => ?_
  have key : l2key g line 0 ≠ l2key h line x := by
    have := List.mem_range.mp below
    unfold l2key
    omega
  simp [l2get, only, tabGet, key, l2way0]

variable (tag : w.tag = line / 4096) (valid : w.st ≠ 0)
include tag valid

theorem l2find_only : l2find (withCoh s c) g line = some 0 := firstBelow_zero (by simp [l2get_only only, tag, valid])

theorem l2tagged_only : l2tagged (withCoh s c) g line = some 0 := firstBelow_zero (by simp [l2get_only only, tag, valid])

theorem l2st_only : l2st (withCoh s c) g line = w.st := by simp only [l2st, l2find_only only tag valid, l2get_only only]

end OneWay

section NoWay
variable {s : State} {c : Coh} (empty : c.l2 = []) (g line : Nat)
include empty

theorem l2find_nothing : l2find (withCoh s c) g line = none := by
  refine List.find?_eq_none.mpr fun x _ => ?_
  simp [l2get_empty (s := withCoh s c) empty, l2way0]

theorem l2st_nothing : l2st (withCoh s c) g line = 0 := by simp only [l2st, l2find_nothing empty]

end NoWay

/-! ### A slice takes a line (R271) -/

/-- A slice whose way `w` has taken a line. -/
def filled (s : State) (g line w : Nat) (v : L2Way) : State := l2touch (l2put s g line w v) g line w

theorem l2get_filled (s : State) (g line w : Nat) (v : L2Way) : l2get (filled s g line w v) g line w = v := tabGet_tabSet_same _ _ _ _

section Fills
variable {s : State} {g line : Nat} (empty : s.coh.l2 = [])
include empty

theorem l2find_filled {w : Nat} (below : w < 16) {v : L2Way} (tag : v.tag = line / 4096) (valid : v.st ≠ 0) :
    l2find (filled s g line w v) g line = some w := by
  refine firstBelow_only below (by simp [l2get_filled, tag, valid]) fun x holds => ?_
  by_contra other
  have key : l2key g line x ≠ l2key g line w := by unfold l2key; omega
  have away : l2get (filled s g line w v) g line x = l2way0 := (tabGet_tabSet_ne _ _ _ key).trans (by rw [empty]; rfl)
  rw [away] at holds
  simp [l2way0] at holds

/-- Where no way holds a line, a fill takes one as soon as its class's mask allows any. -/
theorem l2fill_empty {cls : Nat} (ways : wayMask s cls ≠ 0) (st : Nat) (written : Bool) (sel : Nat) (data : List Byte) (poison : Bool) :
    ∃ w, w < 16 ∧ l2fill s g line cls st written sel data poison =
      filled s g line w ⟨line / 4096, st, written, poison, sel, false, 0, data⟩ := by
  obtain ⟨w, below, victim⟩ := victim_empty empty ways g line
  refine ⟨w, below, ?_⟩
  simp [l2fill, l2tagged_empty empty, victim, evict, l2get_empty empty, l2way0, filled]

end Fills

end Sys2Proof.Machine
end

section
/-! PROOFS. Requests at a home (R276, R279, R281, R283, R287 to R290) for a line in device bias with nothing else of it in flight. -/

namespace Sys2Proof.Machine

/-! ### From a slice or an agent to the home (R281, R287, R288) -/

/-- No message, request, eviction or reservation is in flight. -/
structure Quiet (c : Coh) : Prop where
  net : c.net = []
  stall : c.stall = []
  mshr : c.mshr = []
  ev : c.ev = []
  resv : c.resv = []

/-- What a slice that has asked for a line keeps of its request (R281). -/
def asked (g line : Nat) (k : MK) (cls : Nat) (store : Bool) : Mshr := ⟨g, line, k, cls, 0, false, 0, store⟩

/-- The transaction that a request opens at its home (R276). -/
def opened (m : Msg) : Busy := ⟨m.line, m, [], false, none, false, false⟩

section Arrives
variable {s : State} {c : Coh} {g line : Nat} {k : MK}

theorem request_sends (quiet : Quiet c) (cls : Nat) (store : Bool) : request (withCoh s c) g line k cls 0 store =
    withCoh s { c with mshr := [asked g line k cls store], net := [msg0 k line g 100] } := by
  unfold request
  rw [if_neg (by simp [quiet.mshr, quiet.ev])]
  refine (send_few (c := { c with mshr := c.mshr ++ [asked g line k cls store] }) _ quiet.stall (by simp [quiet.net])).trans ?_
  simp [quiet.mshr, quiet.net, msg0]

/-- A request held for a write alone does not hold a read. -/
theorem lineHeld_free (free : lineHeld s 0 line true = false) (wr : Bool) : lineHeld s 0 line wr = false := by
  cases wr
  · simp_all [lineHeld]
  · exact free

/-- A slice's request for a line that it holds as the request expects reaches the home. -/
theorem reqArrive_meets (quiet : Quiet c) (fits : l2st (withCoh s c) g line = if k = .upg then 1 else 0) (unfenced : groveFenced s g = false)
    (canopy : lineTier line = 0) (free : lineHeld s 0 line true = false) : reqArrive (withCoh s c) k g line =
    homeMeet (withCoh s { c with mshr := [asked g line k 0 (k != .rdS)] }) (msg0 k line g 100) := by
  unfold reqArrive
  dsimp only
  rw [if_pos ?fitting, request_sends quiet, takeMsg_head (by exact quiet.stall) (by rfl) (by simp [msg0])]
  case fitting =>
    simp only [withCoh_coh, quiet.net, List.find?_nil, Option.isNone_none, mshrOf_withCoh, quiet.mshr, groveFenced_withCoh, unfenced, canopy]
    split
    · simp [fits]
    · next other => simpa [fits] using other
  simp [msg0, lineHeld_free free, canopy, quiet.net]

/-- The message of an agent without a cache reaches the home (R283, R289). -/
theorem agentArrive_meets {m : Msg} (plain : m.sel = 0) (canopy : lineTier m.line = 0) (free : lineHeld s 0 m.line true = false) :
    agentArrive s m = homeMeet s m := by
  simp [agentArrive, owWantLine, owWaits, plain, canopy, lineHeld_free free]

/-- A requester that has met no refusal and holds no reservation is accepted as it stands (R287, R288). -/
theorem homeAccept_fresh {src : Nat} (unreserved : c.resv = []) (fresh : ∀ r ∈ c.mshr, src < 48 ∧ r.nacks = 0) :
    homeAccept (withCoh s c) src line = withCoh s c := by
  have erased : c.resv.erase (line, src) = c.resv := by rw [unreserved]; rfl
  unfold homeAccept
  dsimp only
  rw [withCoh_coh, erased]
  split
  · next agent =>
    have nobody : c.mshr = [] := List.eq_nil_iff_forall_not_mem.mpr fun r mem => Nat.not_lt.mpr agent (fresh r mem).1
    have none_ : c.mshr.filter (fun m => !(m.slice == src && m.line == line)) = c.mshr := by rw [nobody]; rfl
    exact (mshrDel_withCoh s c src line).trans (by rw [none_])
  · have same : c.mshr.map (fun m => if m.slice = src ∧ m.line = line then { m with nacks := 0 } else m) = c.mshr := by
      refine (List.map_congr_left fun r mem => ?_).trans (List.map_id _)
      obtain ⟨-, none_⟩ := fresh r mem
      cases r
      simp_all
    exact (mshrPut_withCoh s c src line _).trans (by rw [same])

/-- A home whose directory is not full makes no room (R276). -/
theorem dirRoom_few (few : c.dir.length < 131072) : dirRoom (withCoh s c) line = withCoh s c := by
  have load : dirLoad (withCoh s c) (homeOf line) ≤ c.dir.length := List.length_filter_le _ _
  have cap : 131072 ≤ dirCap (homeOf line) := by unfold dirCap; split_ifs <;> decide
  exact if_pos (.inl (by omega))

/-- A home at which nothing is in flight accepts a request (R276, R287). -/
theorem homeMeet_begins {m : Msg} (canopy : lineTier m.line = 0) (device : hostBias s m.line = false) (idle : c.busy = [])
    (unreserved : c.resv = []) (fresh : ∀ r ∈ c.mshr, m.src < 48 ∧ r.nacks = 0) (few : c.dir.length < 131072) :
    homeMeet (withCoh s c) m = homeSnoop (withCoh s { c with busy := [opened m] }) (opened m) := by
  have accepts : homeRefuses (withCoh s c) m.src m.line = false := by simp [homeRefuses, lineBusy, resvHead, idle, unreserved]
  unfold homeMeet
  rw [accepts, homeAccept_fresh unreserved fresh, dirRoom_few few]
  simp [homeBegin, canopy, device, idle, opened]

end Arrives

/-! ### The home's answer (R283) -/

/-- What the caches become when the home answers the requester of a transaction and writes its line's directory entry. -/
def answered (c : Coh) (b : Busy) (m : Msg) (d : DirE) : Coh := { c with net := [m], busy := [{ b with done := true }], dir := [(b.line, d)] }

section Answers
variable {s : State} {c : Coh} {g line : Nat}

/-- A line that no slice holds needs no snoop. -/
theorem homeSnoop_unlisted {b : Busy} (unlisted : c.dir = []) : homeSnoop (withCoh s c) b = homeReply (withCoh s c) b := by
  have need : sharersOf (withCoh s c) b.line b.req.src b.req.k = [] := by simp [sharersOf, unlisted, tabGet, dir0]
  simp [homeSnoop, need]

/-- The first message is sent. -/
theorem send_first (net : c.net = []) (none_ : c.stall = []) (m : Msg) : send (withCoh s c) m = withCoh s { c with net := [m] } := by
  rw [send_few m none_ (by simp [net]), net, List.nil_append]

section Slices
variable {k : MK} (net : c.net = []) (none_ : c.stall = []) (busy : c.busy = [opened (msg0 k line g 100)]) (clean : s.tiers.poison = [])
include net none_ busy clean

/-- RD_S of a line that no slice holds: the line in S, or in M where the host has granted it so. -/
theorem homeReply_rdS (is : k = .rdS) (unlisted : c.dir = []) {st : Nat}
    (granted : (if lineTier line = 2 ∧ hostSt (withCoh s c) line = 2 then 2 else 1) = st) :
    homeReply (withCoh s c) (opened (msg0 k line g 100)) = withCoh s (answered c (opened (msg0 k line g 100))
      { msg0 .data line 100 g with data := (memRead s 0 line).1, tgt := st } (if st = 2 then ⟨2, g, 0⟩ else ⟨1, 0, 2 ^ g⟩)) := by
  subst is
  have joins : sharedWith (withCoh s c) line g = ⟨1, 0, 2 ^ g⟩ := by simp [sharedWith, unlisted, tabGet, dir0]
  split at granted <;> subst granted
  · next owned =>
    have listed := tabSet_nil (d := fun _ => dir0) (k := line) (v := ⟨2, g, 0⟩) (by simp [dir0])
    rw [hostSt_withCoh] at owned
    simp [homeReply, send_first net none_, memRead_clean s line clean, busy, opened, msg0, answered, unlisted, listed, owned]
  · next unowned =>
    have listed := tabSet_nil (d := fun _ => dir0) (k := line) (v := ⟨1, 0, 2 ^ g⟩) (by simp [dir0])
    rw [hostSt_withCoh] at unowned
    simp [homeReply, send_first net none_, memRead_clean s line clean, busy, opened, msg0, answered, unlisted, listed, unowned, joins]

/-- RD_M of a line that no slice holds: the line in M. -/
theorem homeReply_rdM (is : k = .rdM) (unlisted : c.dir = []) :
    homeReply (withCoh s c) (opened (msg0 k line g 100)) = withCoh s (answered c (opened (msg0 k line g 100))
      { msg0 .data line 100 g with data := (memRead s 0 line).1, tgt := 2 } ⟨2, g, 0⟩) := by
  subst is
  have listed := tabSet_nil (d := fun _ => dir0) (k := line) (v := ⟨2, g, 0⟩) (by simp [dir0])
  simp [homeReply, send_first net none_, memRead_clean s line clean, busy, opened, msg0, answered, unlisted, listed]

/-- OWN of a line that no slice holds: a grant that carries the line's old bytes (R296). -/
theorem homeReply_own (is : k = .own) (unlisted : c.dir = []) :
    homeReply (withCoh s c) (opened (msg0 k line g 100)) = withCoh s (answered c (opened (msg0 k line g 100))
      { msg0 .gnt line 100 g with data := (memRead s 0 line).1 } ⟨2, g, 0⟩) := by
  subst is
  have listed := tabSet_nil (d := fun _ => dir0) (k := line) (v := ⟨2, g, 0⟩) (by simp [dir0])
  simp [homeReply, send_first net none_, memRead_clean s line clean, busy, opened, msg0, answered, unlisted, listed]

omit clean in
/-- UPG of a line that is still shared: a grant without data. -/
theorem homeReply_upg (is : k = .upg) {sharers : Nat} (shared : c.dir = [(line, ⟨1, 0, sharers⟩)]) :
    homeReply (withCoh s c) (opened (msg0 k line g 100)) = withCoh s (answered c (opened (msg0 k line g 100))
      (msg0 .gnt line 100 g) ⟨2, g, 0⟩) := by
  subst is
  have listed := tabSet_only (d := fun _ => dir0) (k := line) ⟨1, 0, sharers⟩ (v := ⟨2, g, 0⟩) (by simp [dir0])
  simp [homeReply, send_first net none_, busy, opened, msg0, answered, shared, tabGet, listed]

end Slices

section Agents
variable {b : Busy} (busy : c.busy = [b]) (plain : b.req.sel = 0)
include busy plain

/-- RD_CUR is answered with memory's bytes where no owner has sent its own. -/
theorem homeReply_rdCur (is : b.req.k = .rdCur) (clean : s.tiers.poison = []) (got : b.got = none) :
    homeReply (withCoh s c) b = withCoh (emit s (.read (memRead s 0 b.line).1 false)) { c with busy := [] } := by
  simp [homeReply, is, got, plain, busy, memRead_clean s b.line clean]

omit plain in
theorem homeReply_rdCur_owner (is : b.req.k = .rdCur) {o : Own} (got : b.got = some o) :
    homeReply (withCoh s c) b = withCoh (emit s (.read o.data o.poison)) { c with busy := [] } := by
  simp [homeReply, is, got, busy]

/-- WR_INV of a line that no slice holds reaches its memory. -/
theorem homeReply_wrInv (is : b.req.k = .wrInv) (canopy : lineTier b.line = 0) (unlisted : c.dir = []) (got : b.got = none) : homeReply (withCoh s c) b =
    withCoh (memWrite s 0 b.line b.req.mask b.req.data b.req.poison) { c with busy := [] } := by
  have unset := tabSet_nil_default (fun _ => dir0) b.line
  simp [homeReply, is, got, plain, busy, canopy, writeOver, unlisted, unset]

omit busy plain in
theorem busyDel_filled (s : State) (c : Coh) (g line w : Nat) (v : L2Way) : busyDel (filled (withCoh s c) g line w v) line =
    filled (withCoh s { c with busy := c.busy.filter (fun b => b.line != line) }) g line w v := rfl

/-- WR_HINT of a line that no slice holds is placed in the slice it names, over memory's bytes (R290). -/
theorem homeReply_wrHint (is : b.req.k = .wrHint) (canopy : lineTier b.line = 0) (unlisted : c.dir = []) (got : b.got = none)
    (clean : s.tiers.poison = []) (sound : b.req.poison = false) (empty : c.l2 = []) (slice : b.req.tgt < 48) (unfenced : groveFenced s b.req.tgt = false) (ways : wayMask s 2 ≠ 0) :
    ∃ w, w < 16 ∧ homeReply (withCoh s c) b = filled (withCoh s { c with dir := [(b.line, ⟨2, b.req.tgt, 0⟩)], busy := [] })
      b.req.tgt b.line w ⟨b.line / 4096, 2, true, false, 0, false, 0, mergeBytes b.req.mask b.req.data (memRead s 0 b.line).1⟩ := by
  have fits : hintOk (withCoh s c) b.req.tgt b.line = true := by
    obtain ⟨w, -, victim⟩ := victim_empty (s := withCoh s c) empty ways b.req.tgt b.line
    simp [hintOk, slice, unfenced, victim]
  have listed := tabSet_nil (d := fun _ => dir0) (k := b.line) (v := ⟨2, b.req.tgt, 0⟩) (by simp [dir0])
  obtain ⟨w, below, fills⟩ := l2fill_empty (s := withCoh s { c with dir := [(b.line, ⟨2, b.req.tgt, 0⟩)] }) (g := b.req.tgt) (line := b.line) empty
    (cls := 2) ways 2 true 0 (mergeBytes b.req.mask b.req.data (memRead s 0 b.line).1) false
  rw [busy] at fills
  refine ⟨w, below, ?_⟩
  simp [homeReply, is, got, plain, canopy, fits, hintPlace, sound, memRead_clean s b.line clean, unlisted, listed, fills, busyDel_filled, busy]

end Agents

/-! ### Snoops of the other slices (R277, R278) -/

/-- A message to each of several slices that nothing is on its way to. -/
theorem sends_each {k : MK} {l : List Nat} (distinct : l.Nodup) (slices : ∀ h ∈ l, h < 48) (none_ : c.stall = [])
    (away : ∀ m ∈ c.net, ∀ h ∈ l, msgTo m ≠ h) : l.foldl (fun s h => send s (msg0 k line 100 h)) (withCoh s c) =
    withCoh s { c with net := c.net ++ l.map (fun h => msg0 k line 100 h) } := by
  induction l generalizing c with
  | nil => simp
  | cons h l ih =>
    rw [List.nodup_cons] at distinct
    have into : ∀ i, i ∈ h :: l → msgTo (msg0 k line 100 i) = i := fun i mem => if_neg (show i ≠ 100 by have := slices i mem; omega)
    have room : inputLoad (withCoh s c) (msgTo (msg0 k line 100 h)) k.cls = 0 := by
      rw [into h (by simp), inputLoad, List.length_eq_zero_iff, List.filter_eq_nil_iff]
      exact fun m mem => by simp [away m mem h (by simp)]
    rw [List.foldl_cons, send_room none_ (by rw [show (msg0 k line 100 h).k = k from rfl, room]; decide)]
    rw [ih (c := { c with net := c.net ++ [msg0 k line 100 h] }) distinct.2 (fun i mem => slices i (by simp [mem])) none_ ?_]
    · simp
    · intro m mem i there
      rcases List.mem_append.mp mem with old | new
      · exact away m old i (by simp [there])
      · rw [List.mem_singleton.mp new, into h (by simp)]
        rintro rfl
        exact distinct.1 there

theorem mem_otherSlices {h : Nat} : h ∈ otherSlices g ↔ h < 48 ∧ h ≠ g := by simp [otherSlices]

/-- UPG of a shared line in MX-1 mode, where the list names the requester alone: nothing is snooped. -/
theorem homeSnoop_upg_sole {m : Msg} (is : m.k = .upg) (listed : mx1 s = true) (shared : c.dir = [(m.line, ⟨1, 0, 2 ^ m.src⟩)]) :
    homeSnoop (withCoh s c) (opened m) = homeReply (withCoh s c) (opened m) := by
  have none_ : (otherSlices m.src).filter (fun h => (2 ^ m.src).testBit h) = [] := by
    refine List.filter_eq_nil_iff.mpr fun h mem => ?_
    rw [Nat.testBit_two_pow_of_ne (mem_otherSlices.mp mem).2.symm]
    decide
  have need : sharersOf (withCoh s c) m.line m.src .upg = [] := by simp [sharersOf, shared, tabGet, listed, none_]
  simp [homeSnoop, opened, is, need]

/-- UPG of a shared line in native mode snoops every other slice. -/
theorem homeSnoop_upg_all (net : c.net = []) (none_ : c.stall = []) {m : Msg} (is : m.k = .upg) (native : mx1 s = false)
    {sharers : Nat} (shared : c.dir = [(m.line, ⟨1, 0, sharers⟩)]) (busy : c.busy = [opened m]) : homeSnoop (withCoh s c) (opened m) = withCoh s { c with
      net := (otherSlices m.src).map (fun h => msg0 .snpI m.line 100 h), busy := [{ opened m with wait := otherSlices m.src }] } := by
  have need : sharersOf (withCoh s c) m.line m.src .upg = otherSlices m.src := by simp [sharersOf, shared, tabGet, native]
  have some_ : otherSlices m.src ≠ [] := by
    refine List.ne_nil_of_mem (a := if m.src = 0 then 1 else 0) (mem_otherSlices.mpr ?_)
    split <;> omega
  have all := sends_each (s := s) (c := { c with busy := [{ opened m with wait := otherSlices m.src }] }) (line := m.line) (k := .snpI) (l := otherSlices m.src)
    (List.nodup_range.filter _) (fun h mem => (mem_otherSlices.mp mem).1) none_ (by simp [net])
  simpa [homeSnoop, opened, is, need, some_, busy, snoopKind, net] using all

end Answers

/-! ### Refusals (R287, R288) -/

section Refusals
variable {s : State} {c : Coh} {g line : Nat} {k : MK}

/-- A requester that has not been refused before is counted in COH_STATS alone. -/
theorem nackCount_first (slice : g < 48) {r : Mshr} (one : c.mshr = [r]) (of : r.slice = g) (its : r.line = line) (first : r.nacks = 0) :
    nackCount (withCoh s c) g line k = withCoh (regCount s 0x60040 31 0 1) c := by
  have count : regCount (withCoh s c) 0x60040 31 0 1 = withCoh (regCount s 0x60040 31 0 1) c := rfl
  unfold nackCount
  rw [count]
  simp [Nat.not_le.mpr slice, one, of, its, first]

/-- A request for a line with a transaction is refused with a NACK. -/
theorem homeMeet_refuses (slice : g < 48) {r : Mshr} (one : c.mshr = [r]) (of : r.slice = g) (its : r.line = line) (first : r.nacks = 0)
    (net : c.net = []) (none_ : c.stall = []) {b : Busy} (busy : c.busy = [b]) (on : b.line = line) :
    homeMeet (withCoh s c) (msg0 k line g 100) = withCoh (regCount s 0x60040 31 0 1) { c with net := [msg0 .nack line 100 g] } := by
  have refuses : homeRefuses (withCoh s c) g line = true := by simp [homeRefuses, lineBusy, busy, on]
  simp only [homeMeet, homeNack, msg0, refuses, if_true, nackCount_first slice one of its first]
  rw [if_neg (Nat.not_le.mpr slice)]
  exact send_first net none_ _

theorem nackArrive_retries {r : Mshr} (of : r.slice = g) (its : r.line = line) :
    nackArrive (withCoh s { coh0 with net := [msg0 .nack line 100 g], mshr := [r] }) g line =
      withCoh s { coh0 with mshr := [{ r with nacks := r.nacks + 1, retry := true }] } := by
  unfold nackArrive
  rw [takeMsg_head (by rfl) (by rfl) (by simp [msg0])]
  simp [of, its, coh0]

theorem nackRetry_sends {r : Mshr} (of : r.slice = g) (its : r.line = line) (waits : r.retry = true) (keeps : r.k ≠ .upg) :
    nackRetry (withCoh s { coh0 with mshr := [r] }) g line =
      withCoh s { coh0 with mshr := [{ r with retry := false }], net := [{ msg0 r.k line g 100 with sel := r.sel }] } := by
  have sent := send_first (s := s) (c := { coh0 with mshr := [{ r with retry := false }] }) rfl rfl { msg0 r.k line g 100 with sel := r.sel }
  simpa [nackRetry, of, its, waits, keeps] using sent

theorem resvLapse_counts : resvLapse (withCoh s { coh0 with resv := [(line, g)] }) g line = withCoh (regCount s 0x60048 31 0 1) coh0 := by
  have head : resvHead (withCoh s { coh0 with resv := [(line, g)] }) line = some g := by simp [resvHead]
  have erased : [(line, g)].erase (line, g) = [] := List.erase_cons_head _ _
  unfold resvLapse
  rw [if_pos head]
  simp only [withCoh_coh, erased]
  rfl

/-- A counter of 32 bits rises by one, and nothing else changes (R348, R440). -/
theorem regField_regCount (o : Nat) : regField (regCount s o 31 0 1) o 31 0 = satAdd 32 (regField s o 31 0) 1 :=
  (regField_regSet_same s o 31 0 _ (by decide)).trans (Nat.mod_eq_of_lt (satAdd_lt _ _ _))

end Refusals

/-! ### The commands (R281, R283, R287 to R290) -/

theorem quiet_coh0 : Quiet coh0 := ⟨rfl, rfl, rfl, rfl, rfl⟩

/-- A command on a slice that changes the caches alone. -/
theorem slice_runs {s : State} (live : Live s) {g : Nat} {c d : Coh} {f : State → State} (slice : g < 48)
    (makes : f (withCoh s c) = withCoh s d) : withUnit 48 g (runLive (withCoh s c) f) = .next (withCoh s d) :=
  withUnit_calm 48 g _ _ f slice live makes rfl rfl

section Slice
variable {s : State} {g line : Nat} (live : Live s) (slice : g < 48) (clean : s.tiers.poison = []) (canopy : lineTier line = 0)
  (device : hostBias s line = false) (free : lineHeld s 0 line true = false) (unfenced : groveFenced s g = false)
include slice canopy free unfenced

section Begins
include device

/-- A slice's request begins a transaction at a home where nothing else is in flight. -/
theorem reqArrive_begins {c : Coh} {k : MK} (quiet : Quiet c) (idle : c.busy = []) (few : c.dir.length < 131072)
    (fits : l2st (withCoh s c) g line = if k = .upg then 1 else 0) : reqArrive (withCoh s c) k g line =
    homeSnoop (withCoh s { c with mshr := [asked g line k 0 (k != .rdS)], busy := [opened (msg0 k line g 100)] }) (opened (msg0 k line g 100)) := by
  rw [reqArrive_meets quiet fits unfenced canopy free]
  exact homeMeet_begins (c := { c with mshr := [asked g line k 0 (k != .rdS)] }) canopy device idle quiet.resv (by simp [asked, msg0, slice]) few

/-- The caches in which a slice's request of a line that no slice holds is open at its home. -/
def begun0 (g line : Nat) (k : MK) : Coh := { coh0 with mshr := [asked g line k 0 (k != .rdS)], busy := [opened (msg0 k line g 100)] }

theorem reqArrive_uncached {k : MK} (reads : k ≠ .upg) :
    reqArrive (withCoh s coh0) k g line = homeReply (withCoh s (begun0 g line k)) (opened (msg0 k line g 100)) := by
  rw [reqArrive_begins slice canopy device free unfenced quiet_coh0 rfl (by decide) (by rw [l2st_nothing rfl, if_neg reads])]
  exact homeSnoop_unlisted (c := begun0 g line k) rfl

section Uncached
include live clean

theorem exec_rdS_uncached : exec (.rdS g line) (withCoh s coh0) = .next (withCoh s (answered (begun0 g line .rdS) (opened (msg0 .rdS line g 100))
    { msg0 .data line 100 g with data := (memRead s 0 line).1, tgt := 1 } ⟨1, 0, 2 ^ g⟩)) := by
  refine slice_runs (f := fun s => reqArrive s .rdS g line) live slice ?_
  exact (reqArrive_uncached slice canopy device free unfenced (by decide)).trans
    (homeReply_rdS rfl rfl rfl clean rfl rfl (by simp [canopy]))

theorem exec_rdM_uncached : exec (.rdM g line) (withCoh s coh0) = .next (withCoh s (answered (begun0 g line .rdM) (opened (msg0 .rdM line g 100))
    { msg0 .data line 100 g with data := (memRead s 0 line).1, tgt := 2 } ⟨2, g, 0⟩)) := by
  refine slice_runs (f := fun s => reqArrive s .rdM g line) live slice ?_
  exact (reqArrive_uncached slice canopy device free unfenced (by decide)).trans (homeReply_rdM rfl rfl rfl clean rfl rfl)

theorem exec_own_uncached : exec (.own g line) (withCoh s coh0) = .next (withCoh s (answered (begun0 g line .own) (opened (msg0 .own line g 100))
    { msg0 .gnt line 100 g with data := (memRead s 0 line).1 } ⟨2, g, 0⟩)) := by
  refine slice_runs (f := fun s => reqArrive s .own g line) live slice ?_
  exact (reqArrive_uncached slice canopy device free unfenced (by decide)).trans (homeReply_own rfl rfl rfl clean rfl rfl)

end Uncached

section Shared
variable {w : L2Way} (tag : w.tag = line / 4096) (shared : w.st = 1)
include tag shared

/-- The caches in which slice `g` alone holds a line in S. -/
def sharedBy (g line : Nat) (w : L2Way) : Coh := { coh0 with l2 := [(l2key g line 0, w)], dir := [(line, ⟨1, 0, 2 ^ g⟩)] }

theorem upg_begins : reqArrive (withCoh s (sharedBy g line w)) .upg g line = homeSnoop (withCoh s { sharedBy g line w with
    mshr := [asked g line .upg 0 true], busy := [opened (msg0 .upg line g 100)] }) (opened (msg0 .upg line g 100)) :=
  reqArrive_begins slice canopy device free unfenced ⟨rfl, rfl, rfl, rfl, rfl⟩ rfl (by simp [sharedBy])
    ((l2st_only rfl tag (by rw [shared]; decide)).trans shared)

include live in
theorem exec_upg_sole (listed : mx1 s = true) : exec (.upg g line) (withCoh s (sharedBy g line w)) = .next (withCoh s (answered
    { sharedBy g line w with mshr := [asked g line .upg 0 true] } (opened (msg0 .upg line g 100)) (msg0 .gnt line 100 g) ⟨2, g, 0⟩)) := by
  refine slice_runs (f := fun s => reqArrive s .upg g line) live slice ?_
  exact (upg_begins slice canopy device free unfenced tag shared).trans ((homeSnoop_upg_sole rfl listed rfl).trans
    (homeReply_upg rfl rfl rfl rfl rfl))

include live in
theorem exec_upg_snoops (native : mx1 s = false) : exec (.upg g line) (withCoh s (sharedBy g line w)) = .next (withCoh s { sharedBy g line w with
    net := (otherSlices g).map (fun h => msg0 .snpI line 100 h), mshr := [asked g line .upg 0 true]
    busy := [{ opened (msg0 .upg line g 100) with wait := otherSlices g }] }) := by
  refine slice_runs (f := fun s => reqArrive s .upg g line) live slice ?_
  exact (upg_begins slice canopy device free unfenced tag shared).trans (homeSnoop_upg_all rfl rfl rfl native rfl rfl)

end Shared
end Begins

include live in
theorem exec_rdS_busy {b : Busy} (on : b.line = line) : exec (.rdS g line) (withCoh s { coh0 with busy := [b] }) =
    .next (withCoh (regCount s 0x60040 31 0 1) { coh0 with
      busy := [b], mshr := [asked g line .rdS 0 false], net := [msg0 .nack line 100 g] }) := by
  refine withUnit_calm 48 g _ _ (fun s => reqArrive s .rdS g line) slice live ?_ rfl rfl
  exact (reqArrive_meets ⟨rfl, rfl, rfl, rfl, rfl⟩ (l2st_nothing rfl g line) unfenced canopy free).trans
    (homeMeet_refuses slice rfl rfl rfl rfl rfl rfl rfl on)

end Slice

/-- A plaintext write of the canopy detects no error. -/
theorem memWrite_canopy_quiet {s : State} {line : Nat} (canopy : lineTier line = 0) (mask : Nat) (data : List Byte) (poison : Bool) :
    (memWrite s 0 line mask data poison).errs = s.errs ∧
    (memWrite s 0 line mask data poison).pending = s.pending ∧ (memWrite s 0 line mask data poison).cores = s.cores := by
  have rest := memWrite_canopy_rest s canopy mask data poison
  exact ⟨(congrArg State.errs rest :), (congrArg State.pending rest :), (congrArg State.cores rest :)⟩

section Agent
variable {s : State} {line : Nat} (live : Live s) (clean : s.tiers.poison = []) (canopy : lineTier line = 0)
  (device : hostBias s line = false) (free : lineHeld s 0 line true = false)
include live canopy device free

omit live in
/-- An agent's message begins a transaction at a home where nothing else is in flight, and meets no slice. -/
theorem agentArrive_begins (k : MK) (mask tgt : Nat) (data : List Byte) : agentArrive (withCoh s coh0) (agentMsg k line 0 mask tgt data) =
    homeReply (withCoh s { coh0 with busy := [opened (agentMsg k line 0 mask tgt data)] }) (opened (agentMsg k line 0 mask tgt data)) := by
  rw [agentArrive_meets (s := withCoh s coh0) (m := agentMsg k line 0 mask tgt data) rfl canopy free,
    homeMeet_begins (m := agentMsg k line 0 mask tgt data) canopy device rfl rfl (by simp [coh0]) (by decide)]
  exact homeSnoop_unlisted rfl

include clean in
theorem exec_rdCur_uncached : exec (.rdCur line 0) (withCoh s coh0) = .next (withCoh (emit s (.read (memRead s 0 line).1 false)) coh0) :=
  runLive_next _ _ (fun s => agentArrive s (agentMsg .rdCur line 0 0 0 [])) live
    ((agentArrive_begins canopy device free .rdCur 0 0 []).trans (homeReply_rdCur rfl rfl rfl clean rfl)) rfl rfl

theorem exec_wrInv_uncached (mask : Nat) (data : List Byte) : exec (.wrInv line 0 mask data) (withCoh s coh0) =
    .next (withCoh (memWrite s 0 line (mask % 2 ^ 64) data false) coh0) := by
  obtain ⟨errs, pending, -⟩ := memWrite_canopy_quiet (s := s) canopy (mask % 2 ^ 64) data false
  exact runLive_next _ _ (fun s => agentArrive s (agentMsg .wrInv line 0 (mask % 2 ^ 64) 0 data)) live
    ((agentArrive_begins canopy device free .wrInv _ 0 data).trans (homeReply_wrInv rfl rfl rfl canopy rfl rfl)) errs pending

include clean in
theorem exec_wrHint_uncached {g : Nat} (slice : g < 48) (unfenced : groveFenced s g = false) (ways : wayMask s 2 ≠ 0) (mask : Nat)
    (data : List Byte) : ∃ w, w < 16 ∧ exec (.wrHint line 0 mask g data) (withCoh s coh0) =
      .next (filled (withCoh s { coh0 with dir := [(line, ⟨2, g, 0⟩)] }) g line w
        ⟨line / 4096, 2, true, false, 0, false, 0, mergeBytes (mask % 2 ^ 64) data (memRead s 0 line).1⟩) := by
  obtain ⟨w, below, places⟩ := homeReply_wrHint (s := s) (c := { coh0 with busy := [opened (agentMsg .wrHint line 0 (mask % 2 ^ 64) g data)] })
    (b := opened (agentMsg .wrHint line 0 (mask % 2 ^ 64) g data)) rfl rfl rfl canopy rfl rfl clean rfl rfl slice unfenced ways
  exact ⟨w, below, withUnit_calm 48 g _ _ (fun s => agentArrive s (agentMsg .wrHint line 0 (mask % 2 ^ 64) g data)) slice live
    ((agentArrive_begins canopy device free .wrHint _ g data).trans places) rfl rfl⟩

end Agent

end Sys2Proof.Machine
end

section
/-! PROOFS. Requests at a home. -/

open Sys2Proof Sys2Proof.Machine in
/-- Settles O33: each request from its slice or agent to the home, and there by what the directory and the line's transactions say. -/
theorem requestsReachTheirHome : Obligations.RequestsReachTheirHome := by
  unfold Obligations.RequestsReachTheirHome
  intro s g line live slice clean canopy device free unfenced up
  dsimp only
  refine ⟨exec_rdS_uncached live slice clean canopy device free unfenced, exec_rdM_uncached live slice clean canopy device free unfenced,
    exec_own_uncached live slice clean canopy device free unfenced,
    fun w tag shared => ⟨exec_upg_sole live slice canopy device free unfenced tag shared,
      exec_upg_snoops live slice canopy device free unfenced tag shared⟩,
    fun b on => ⟨_, exec_rdS_busy live slice canopy free unfenced on, rfl, regField_regCount 0x60040, rfl, rfl⟩,
    fun r of its => ⟨slice_runs (f := fun s => nackArrive s g line) live slice (nackArrive_retries of its), fun waits keeps =>
      slice_runs (f := fun s => nackRetry s g line) live slice (nackRetry_sends of its waits keeps)⟩,
    ⟨_, withUnit_calm 700 g _ _ (fun s => resvLapse s g line) (by omega) live resvLapse_counts rfl rfl, rfl, regField_regCount 0x60048, rfl, rfl⟩,
    exec_rdCur_uncached live clean canopy device free, fun mask data => ?_, fun mask data ways => ?_⟩
  · exact (exec_wrInv_uncached live canopy device free mask data).trans (congrArg _ (memWrite_withCoh s coh0 0 line _ data false).symm)
  · obtain ⟨w, below, runs⟩ := exec_wrHint_uncached live clean canopy device free slice unfenced ways mask data
    refine ⟨_, w, runs, l2find_filled rfl below rfl (by simp), l2get_filled _ _ _ _ _, rfl, rfl, rfl, rfl, rfl⟩

end

section
/-! PROOFS. Snoops of a slice and their answers at the home (R270, R276, R278, R281 to R283), where one message of the line is in flight. -/

namespace Sys2Proof.Machine

/-! ### What a snoop finds in a slice (R282) -/

/-- A slice's copy of a line that it owns. -/
def ownCopy (g : Nat) (w : L2Way) : Own := ⟨g, w.data, w.poison, w.written, w.sel⟩

section Snoops
variable {s : State} {c : Coh} {g line : Nat} (quiet : c.ev = [])
include quiet

theorem evFind_nothing : evFind (withCoh s c) g line = none := by simp [evFind, quiet]

/-- A slice without the line answers that it holds nothing. -/
theorem snoop_nothing (k : MK) (absent : l2find (withCoh s c) g line = none) : snoop (withCoh s c) k g line = (.ackI, none, withCoh s c) := by
  simp only [snoop, evFind_nothing quiet, absent]

variable {w : L2Way} (only : c.l2 = [(l2key g line 0, w)]) (tag : w.tag = line / 4096)
include only tag

section Inval
variable (unpinned : w.pinned = false) (unseen : w.pres = 0)

omit quiet in
include unseen in
/-- A line that no L1 holds is invalidated in none. -/
theorem backInval_only (valid : w.st ≠ 0) : backInval (withCoh s c) g line = withCoh s c := by
  have same : { w with pres := 0 } = w := by cases w; simp_all
  have listed : w ≠ l2way0 := fun is => valid (congrArg L2Way.st is)
  have none_ : (groveCores g).foldl (fun s c => if w.pres.testBit (posOf c / 5) then coreMap s c (fun k => l1drop k line) else s)
      (withCoh s c) = withCoh s c := by
    simp [unseen]
  simp only [backInval, l2tagged_only only tag valid, l2get_only only, none_, same]
  rw [l2put_only only w listed, ← only]

omit quiet in
include unpinned in
/-- A line of a way that is not pinned is dropped with the way's tag. -/
theorem l2drop_only (valid : w.st ≠ 0) : l2drop (withCoh s c) g line = withCoh s { c with l2 := [] } := by
  simp [l2drop, l2find_only only tag valid, l2get_only only, unpinned, l2put_only_gone only]

include unpinned unseen in
theorem snoop_shared_inval (shared : w.st = 1) : snoop (withCoh s c) .snpI g line = (.ackI, none, withCoh s { c with l2 := [] }) := by
  have valid : w.st ≠ 0 := by rw [shared]; decide
  simp [snoop, evFind_nothing quiet, l2find_only only tag valid, l2get_only only, shared, backInval_only only tag unseen valid,
    l2drop_only only tag unpinned valid]

include unpinned unseen in
theorem snoop_owned_inval (owned : w.st = 2) :
    snoop (withCoh s c) .snpI g line = (.ackFwd, some (ownCopy g w), withCoh s { c with l2 := [] }) := by
  have valid : w.st ≠ 0 := by rw [owned]; decide
  simp [snoop, evFind_nothing quiet, l2find_only only tag valid, l2get_only only, owned, backInval_only only tag unseen valid,
    l2drop_only only tag unpinned valid, ownCopy]

include unseen in
theorem snoop_owned_share (owned : w.st = 2) : snoop (withCoh s c) .snpS g line =
    (.ackFwd, some (ownCopy g w), withCoh s { c with l2 := [(l2key g line 0, { w with st := 1, written := false })] }) := by
  have valid : w.st ≠ 0 := by rw [owned]; decide
  have listed : { w with st := 1, written := false } ≠ l2way0 := fun is => absurd (congrArg L2Way.st is) (by simp [l2way0])
  simp [snoop, evFind_nothing quiet, l2find_only only tag valid, l2get_only only, owned, backInval_only only tag unseen valid,
    l2put_only only _ listed, ownCopy]

end Inval

theorem snoop_shared_keeps {k : MK} (reads : k ≠ .snpI) (shared : w.st = 1) : snoop (withCoh s c) k g line = (.ackS, none, withCoh s c) := by
  have valid : w.st ≠ 0 := by rw [shared]; decide
  cases k <;> simp_all [snoop, evFind_nothing quiet, l2find_only only tag valid, l2get_only only]

theorem snoop_owned_cur (owned : w.st = 2) : snoop (withCoh s c) .snpCur g line = (.ackFwd, some (ownCopy g w), withCoh s c) := by
  have valid : w.st ≠ 0 := by rw [owned]; decide
  simp [snoop, evFind_nothing quiet, l2find_only only tag valid, l2get_only only, owned, ownCopy]

end Snoops

/-! ### A snoop that reaches a slice (R282, R283) -/

section Arrives
variable {s : State} {c d : Coh} {k a : MK} {g line : Nat} (none_ : c.stall = []) (unfenced : groveFenced s g = false)
  (net' : d.net = []) (none_' : d.stall = [])
include none_ unfenced net' none_'

/-- A slice that owns nothing of the line sends its answer to the home. -/
theorem snoopArrive_plain (finds : snoop (withCoh s { c with net := [] }) k g line = (a, none, withCoh s d)) :
    snoopArrive (withCoh s { c with net := [msg0 k line 100 g] }) k g line = withCoh s { d with net := [msg0 a line g 100] } := by
  unfold snoopArrive
  rw [takeMsg_head (by exact none_) (by rfl) (by simp [msg0])]
  simp only [groveFenced_withCoh, unfenced, Bool.false_eq_true, if_false, finds]
  exact send_first net' none_' _

variable {x : Own} (finds : snoop (withCoh s { c with net := [] }) k g line = (a, some x, withCoh s d)) {b : Busy} (busy : d.busy = [b])
  (on : b.line = line)
include finds busy on

omit none_ unfenced net' none_' finds in
theorem busyOf_sole : busyOf (withCoh s d) line = some b := by simp [busy, on]

/-- An owner's copy stays with the transaction of an agent without a cache, and of an OWN. -/
theorem snoopArrive_got (kept : 48 ≤ b.req.src ∨ b.req.k = .own) : snoopArrive (withCoh s { c with net := [msg0 k line 100 g] }) k g line =
    withCoh s { d with net := [msg0 a line g 100], busy := [{ b with got := some x }] } := by
  have put : busyPut (withCoh s d) line (fun y => { y with got := some x }) = withCoh s { d with busy := [{ b with got := some x }] } := by
    simp [busy, on]
  unfold snoopArrive
  rw [takeMsg_head (by exact none_) (by rfl) (by simp [msg0])]
  simp only [groveFenced_withCoh, unfenced, Bool.false_eq_true, if_false, finds, busyOf_sole busy on, kept, if_true, put]
  exact send_first (c := { d with busy := [{ b with got := some x }] }) net' none_' _

/-- An owner hands its line to the slice that asks for M. -/
theorem snoopArrive_owner (slice : b.req.src < 48) (asks : b.req.k = .rdM) :
    snoopArrive (withCoh s { c with net := [msg0 k line 100 g] }) k g line = withCoh s { d with
      net := [{ msg0 .data line g b.req.src with data := x.data, poison := x.poison, sel := x.sel, tgt := 2, wr := x.wr }, msg0 a line g 100] } := by
  unfold snoopArrive
  rw [takeMsg_head (by exact none_) (by rfl) (by simp [msg0])]
  simp only [groveFenced_withCoh, unfenced, Bool.false_eq_true, if_false, finds, busyOf_sole busy on, asks, Nat.not_le.mpr slice, false_or,
    reduceCtorEq, send_first net' none_']
  exact send_few (c := { d with net := [_] }) _ none_' (by simp)

/-- An owner shares its line with the slice that asks for S, and writes it back. -/
theorem snoopArrive_sharer (slice : b.req.src < 48) (asks : b.req.k = .rdS) (canopy : lineTier line = 0) (acks : a.cls = 2) :
    snoopArrive (withCoh s { c with net := [msg0 k line 100 g] }) k g line = withCoh s { d with
      net := [{ msg0 .data line g b.req.src with data := x.data, poison := x.poison, sel := x.sel, tgt := 1 },
        { msg0 .data line g 100 with data := x.data, poison := x.poison, sel := x.sel, tgt := 0 }, msg0 a line g 100] } := by
  have data : MK.data.cls = 3 := rfl
  unfold snoopArrive
  rw [takeMsg_head (by exact none_) (by rfl) (by simp [msg0])]
  simp only [groveFenced_withCoh, unfenced, Bool.false_eq_true, if_false, finds, busyOf_sole busy on, asks, Nat.not_le.mpr slice, false_or,
    reduceCtorEq, canopy, OfNat.zero_ne_ofNat, send_first net' none_']
  rw [send_few _ (by exact none_') (by simp), send_room (by exact none_') (by simp [inputLoad, msg0, acks, data])]
  rfl

end Arrives

/-! ### What lets nothing go on: a complex at rest without loads -/

section Rests
variable {s t : State} (rest : resting s)
include rest

theorem heldPumpAll_rests (ride : t.ride = s.ride) : heldPumpAll t = t := by
  obtain ⟨-, lands, held⟩ := rest
  refine heldPumpAll_resting (by rw [ride]; exact lands) fun i below => ?_
  rw [portGet, ride]
  exact held i below

variable (loads : ∀ c, (coreGet s c).loads = [])
include loads

/-- A line that comes to a slice whose cores rest feeds nobody. -/
theorem lineCame_rests (cores : t.cores = s.cores) (g line : Nat) (d : Option (List Byte × Bool)) : lineCame t g line d = t := by
  have same : ∀ c, coreGet t c = coreGet s c := fun c => by rw [coreGet, cores]; rfl
  have fed : feedLine t g line d = t := by
    unfold feedLine
    refine List.foldlRecOn (motive := fun u => u = t) _ _ rfl ?_
    rintro u rfl c -
    simp [same, loads]
  have idle : (groveCores g).filter (fun c => decide ((coreGet t c).st = .running) || decide ((coreGet t c).st = .stopping)) = [] := by
    refine List.filter_eq_nil_iff.mpr fun c _ => ?_
    obtain ⟨notRunning, notStopping, -⟩ := resting_core rest c
    simp [same, notRunning, notStopping]
  rw [lineCame, fed, idle]
  rfl

end Rests

/-! ### The home takes an answer (R282, R283) -/

section Acks
variable {s : State} {g line : Nat}

/-- The last answer that a transaction awaits lets the home answer its requester. -/
theorem ackArrive_last {c : Coh} (none_ : c.stall = []) {k : MK} {b : Busy} (busy : c.busy = [b]) (on : b.line = line)
    (wait : b.wait = [g]) (host : b.host = false) : ackArrive (withCoh s { c with net := [msg0 k line g 100] }) k g line =
    heldPumpAll (homeReply (withCoh s { c with net := [], busy := [{ b with wait := [], fwd := b.fwd || (k == .ackFwd) }] })
      { b with wait := [], fwd := b.fwd || (k == .ackFwd) }) := by
  unfold ackArrive
  rw [takeMsg_head (by exact none_) (by rfl) (by simp [msg0])]
  simp [homeAck, busy, on, wait, host]

end Acks

end Sys2Proof.Machine
end

section
/-! PROOFS. Grants, data, completions and evictions of a line (R269 to R271, R276, R278, R281 to R283), where one message of it is in flight. -/

namespace Sys2Proof.Machine

/-! ### A line's data or grant reaches its slice (R271, R281) -/

section Comes
variable {s : State} {c : Coh} {g line : Nat}

theorem sendCmp_only (net : c.net = []) (none_ : c.stall = []) {r : Mshr} (asks : c.mshr = [r]) (of : r.slice = g) (its : r.line = line) :
    sendCmp (withCoh s c) g line = withCoh s { c with mshr := [], net := [msg0 .cmp line g 100] } := by
  have del : mshrDel (withCoh s c) g line = withCoh s { c with mshr := [] } := by simp [asks, of, its]
  rw [sendCmp, del]
  exact send_first (c := { c with mshr := [] }) net none_ _

/-- A line that finds a way is kept. -/
theorem fillOrReturn_empty {t : State} (empty : t.coh.l2 = []) {cls st : Nat} (ways : wayMask t cls ≠ 0) (valid : st ≠ 0) (wr : Bool) (m : Msg) :
    ∃ w, w < 16 ∧ fillOrReturn t g line cls st wr m = filled t g line w ⟨line / 4096, st, wr, m.poison, m.sel, false, 0, m.data⟩ := by
  obtain ⟨w, below, fills⟩ := l2fill_empty (g := g) (line := line) empty ways st wr m.sel m.data m.poison
  refine ⟨w, below, ?_⟩
  simp [fillOrReturn, fills, l2find_filled empty below (v := ⟨line / 4096, st, wr, m.poison, m.sel, false, 0, m.data⟩) rfl valid]

variable (rest : resting s) (loads : ∀ c, (coreGet s c).loads = [])
include rest loads

/-- A grant of UPG makes the shared line M, WRITTEN where a store asked (R281). -/
theorem grantArrive_upg {r : Mshr} {w : L2Way} (of : r.slice = g) (its : r.line = line) (is : r.k = .upg) (tag : w.tag = line / 4096) (shared : w.st = 1) :
    grantArrive (withCoh s { coh0 with l2 := [(l2key g line 0, w)], mshr := [r], net := [msg0 .gnt line 100 g] }) g line =
      withCoh s { coh0 with l2 := [(l2key g line 0, { w with st := 2, written := r.store })], net := [msg0 .cmp line g 100] } := by
  have valid : w.st ≠ 0 := by rw [shared]; decide
  have listed : { w with st := 2, written := r.store } ≠ l2way0 := fun is => absurd (congrArg L2Way.st is) (by simp [l2way0])
  unfold grantArrive
  rw [takeMsg_head (by rfl) (by rfl) (by simp [msg0])]
  simp only [mshrOf_withCoh, List.find?_cons, of, its, beq_self_eq_true, Bool.and_self, is]
  rw [sendCmp_only (by rfl) (by rfl) (by rfl) of its, l2find_only (by rfl) tag valid]
  dsimp only
  rw [l2get_only (by rfl), l2put_only (by rfl) _ listed]
  exact lineCame_rests rest loads (by rfl) g line none

/-- A grant of OWN brings the line that the store will write, in M (R296). -/
theorem grantArrive_own {r : Mshr} {m : Msg} (of : r.slice = g) (its : r.line = line) (is : r.k = .own) (grant : m.k = .gnt) (to_ : m.dst = g)
    (on : m.line = line) (ways : wayMask s r.cls ≠ 0) : ∃ w, w < 16 ∧ grantArrive (withCoh s { coh0 with mshr := [r], net := [m] }) g line =
      filled (withCoh s { coh0 with net := [msg0 .cmp line g 100] }) g line w ⟨line / 4096, 2, true, m.poison, m.sel, false, 0, m.data⟩ := by
  obtain ⟨w, below, fills⟩ := fillOrReturn_empty (t := withCoh s { coh0 with net := [msg0 .cmp line g 100] }) (g := g) (line := line) rfl ways
    (by decide : 2 ≠ 0) true m
  refine ⟨w, below, ?_⟩
  unfold grantArrive
  rw [takeMsg_head (by rfl) (by rfl) (by simp [grant, to_, on])]
  simp only [mshrOf_withCoh, List.find?_cons, of, its, beq_self_eq_true, Bool.and_self, is]
  rw [sendCmp_only (by rfl) (by rfl) (by rfl) of its]
  exact (congrArg (lineCame · g line none) fills).trans (lineCame_rests rest loads (by rfl) g line none)

/-- DATA brings the line in the state that it names (R281). -/
theorem dataArrive_fills {r : Mshr} {m : Msg} (of : r.slice = g) (its : r.line = line) (data : m.k = .data) (to_ : m.dst = g) (on : m.line = line)
    (valid : m.tgt ≠ 0) (ways : wayMask s r.cls ≠ 0) : ∃ w, w < 16 ∧ dataArrive (withCoh s { coh0 with mshr := [r], net := [m] }) g line =
      filled (withCoh s { coh0 with net := [msg0 .cmp line g 100] }) g line w
        ⟨line / 4096, m.tgt, m.wr || (r.store && m.tgt == 2), m.poison, m.sel, false, 0, m.data⟩ := by
  obtain ⟨w, below, fills⟩ := fillOrReturn_empty (t := withCoh s { coh0 with mshr := [r] }) (g := g) (line := line) rfl ways valid
    (m.wr || (r.store && m.tgt == 2)) m
  refine ⟨w, below, ?_⟩
  unfold dataArrive
  rw [takeMsg_head (by rfl) (by rfl) (by simp [data, to_, on])]
  simp only [mshrOf_withCoh, List.find?_cons, of, its, beq_self_eq_true, Bool.and_self]
  have told := sendCmp_only (s := s) (c := (filled (withCoh s { coh0 with mshr := [r] }) g line w
    ⟨line / 4096, m.tgt, m.wr || (r.store && m.tgt == 2), m.poison, m.sel, false, 0, m.data⟩).coh) rfl rfl rfl of its
  exact (congrArg (fun t => lineCame (watchDone (sendCmp t g line) g line) g line (some (m.data, m.poison))) fills).trans
    ((congrArg (fun t => lineCame (watchDone t g line) g line (some (m.data, m.poison))) told).trans
      (lineCame_rests rest loads (by rfl) g line (some (m.data, m.poison))))

end Comes

/-! ### Data on its way to the home (R281, R282) -/

section Home
variable {s : State} {g line : Nat}

/-- A canopy line reads back as it was written whole, where no line is poisoned. -/
theorem memRead_written (clean : s.tiers.poison = []) (canopy : lineTier line = 0) {data : List Byte} (whole : data.length = 64) :
    memRead (memWrite s 0 line fullMask data false) 0 line = (data, false) := by
  have calm : uncached (withCoh s coh0) := ⟨rfl, clean⟩
  have read := memRead_memWrite_canopy calm canopy fullMask data
  rw [memWrite_withCoh, memRead_withCoh, mergeBytes_full data _ whole] at read
  exact read

/-- The copy of a line that stops being Modified is written, and nothing answers it (R282). -/
theorem homeData_copy {m : Msg} (data : m.k = .data) (home : m.dst = 100) (on : m.line = line) (copy : m.tgt ≠ 1) (plain : m.sel = 0)
    (sound : m.poison = false) : homeData (withCoh s { coh0 with net := [m] }) line =
      withCoh (memWrite s 0 line fullMask m.data false) coh0 := by
  unfold homeData
  rw [takeMsg_head (by rfl) (by rfl) (by simp [homeTakes, data, home, on, copy])]
  simp only [copy, if_false, plain, sound, memWrite_withCoh]
  rfl

/-- An eviction whose transaction is open ends with its line's data: memory is written, the entry goes, and EVA_ACK answers (R281). -/
theorem homeData_eviction {c : Coh} (none_ : c.stall = []) {b : Busy} (busy : c.busy = [b]) (on : b.line = line) (evicts : b.req.k = .evaDirty)
    (from_ : b.req.src = g) {d : DirE} (owned : c.dir = [(line, d)]) (canopy : lineTier line = 0) (data : List Byte) :
    homeData (withCoh s { c with net := [{ msg0 .data line g 100 with data := data, tgt := 1 }] }) line =
      withCoh (memWrite s 0 line fullMask data false) { c with dir := [], busy := [], net := [msg0 .evaAck line 100 g] } := by
  have gone := tabSet_gone (fun _ => dir0) line d
  have acks := send_first (s := memWrite s 0 line fullMask data false) (c := { c with dir := [], busy := [], net := [] }) rfl none_
    (msg0 .evaAck line 100 g)
  unfold homeData
  rw [takeMsg_head (by exact none_) (by rfl) (by simp [homeTakes, busy, on, evicts, from_, msg0])]
  simpa [canopy, busy, on, owned, gone, msg0] using acks

/-- CMP frees its line (R276). -/
theorem cmpArrive_frees {b : Busy} (on : b.line = line) : cmpArrive (withCoh s { coh0 with busy := [b], net := [msg0 .cmp line g 100] }) g line =
    heldPumpAll (withCoh s coh0) := by
  unfold cmpArrive
  rw [takeMsg_head (by rfl) (by rfl) (by simp [msg0])]
  have done : busyDel (homeData (withCoh s { coh0 with busy := [b] }) line) line = withCoh s coh0 := by
    have waits : homeData (withCoh s { coh0 with busy := [b] }) line = withCoh s { coh0 with busy := [b] } := by
      unfold homeData
      rw [takeMsg_none (by rfl)]
    rw [waits]
    simp [on, coh0]
  have exact_ : dirExact (withCoh s coh0) line = withCoh s coh0 := by simp [dirExact, coh0, tabGet, dir0]
  exact congrArg heldPumpAll ((congrArg (dirExact · line) done).trans exact_)

/-! ### Evictions (R278, R281) -/

theorem evaClean_owner : evaClean (withCoh s { coh0 with dir := [(line, ⟨2, g, 0⟩)], net := [msg0 .evaClean line g 100] }) g line = withCoh s coh0 := by
  unfold evaClean
  rw [takeMsg_head (by rfl) (by rfl) (by simp [msg0])]
  simp [tabGet, tabSet_gone (fun _ => dir0), coh0]

theorem evaClean_sharer :
    evaClean (withCoh s { coh0 with dir := [(line, ⟨1, 0, 2 ^ g⟩)], net := [msg0 .evaClean line g 100] }) g line = withCoh s coh0 := by
  unfold evaClean
  rw [takeMsg_head (by rfl) (by rfl) (by simp [msg0])]
  simp [tabGet, tabSet_gone (fun _ => dir0), coh0]

/-- An eviction by the line's owner opens a transaction, which the line's data then ends. -/
theorem evaDirty_owner {e : EvLine} (of : e.slice = g) (its : e.line = line) (alive : e.dead = false) (m : Msg) :
    evaDirty (withCoh s { coh0 with dir := [(line, ⟨2, g, 0⟩)], ev := [e], net := [msg0 .evaDirty line g 100, m] }) g line =
      withCoh s { coh0 with dir := [(line, ⟨2, g, 0⟩)], ev := [e], busy := [opened (msg0 .evaDirty line g 100)], net := [m] } := by
  have free : lineBusy (withCoh s { coh0 with dir := [(line, ⟨2, g, 0⟩)], ev := [e], net := [msg0 .evaDirty line g 100, m] }) line = false := rfl
  unfold evaDirty
  rw [free, takeMsg_head (by rfl) (by rfl) (by simp [msg0])]
  simp [tabGet, evFind, of, its, alive, opened, msg0, coh0]

/-- An eviction by a slice that no longer owns the line is acknowledged, and its data discarded. -/
theorem evaDirty_lost {o : Nat} (lost : o ≠ g) (data : List Byte) :
    evaDirty (withCoh s { coh0 with dir := [(line, ⟨2, o, 0⟩)], net := [msg0 .evaDirty line g 100, { msg0 .data line g 100 with data := data, tgt := 1 }] })
      g line = withCoh s { coh0 with dir := [(line, ⟨2, o, 0⟩)], net := [msg0 .evaAck line 100 g] } := by
  have acks := send_first (s := s) (c := { coh0 with dir := [(line, ⟨2, o, 0⟩)] }) rfl rfl (msg0 .evaAck line 100 g)
  have free : lineBusy (withCoh s { coh0 with dir := [(line, ⟨2, o, 0⟩)], net := [msg0 .evaDirty line g 100, { msg0 .data line g 100 with
    data := data, tgt := 1 }] }) line = false := rfl
  unfold evaDirty
  rw [free, takeMsg_head (by rfl) (by rfl) (by simp [msg0])]
  simpa [tabGet, lost, msg0, coh0] using acks

/-- EVA_ACK frees the eviction buffer's entry. -/
theorem evaAck_frees (rest : resting s) (loads : ∀ c, (coreGet s c).loads = []) {e : EvLine} (of : e.slice = g) (its : e.line = line) :
    evaAck (withCoh s { coh0 with ev := [e], net := [msg0 .evaAck line 100 g] }) g line = withCoh s coh0 := by
  unfold evaAck
  rw [takeMsg_head (by rfl) (by rfl) (by simp [msg0])]
  simp only [withCoh_coh, List.find?_cons, of, its, beq_self_eq_true, Bool.and_self, List.erase_cons_head, with_withCoh]
  exact lineCame_rests rest loads (by rfl) g line none

end Home

end Sys2Proof.Machine
end

section
/-! PROOFS. Slices and the home. -/

namespace Sys2Proof.Machine

section Commands
variable {s : State} {g line : Nat} (live : Live s) (slice : g < 48) (unfenced : groveFenced s g = false)
include live slice

section Snoops
include unfenced

/-- A snoop of a slice without the line. -/
theorem exec_snoops_absent :
    exec (.snpS g line) (withCoh s { coh0 with net := [msg0 .snpS line 100 g] }) = .next (withCoh s { coh0 with net := [msg0 .ackI line g 100] }) ∧
    exec (.snpI g line) (withCoh s { coh0 with net := [msg0 .snpI line 100 g] }) = .next (withCoh s { coh0 with net := [msg0 .ackI line g 100] }) ∧
    exec (.snpCur g line) (withCoh s { coh0 with net := [msg0 .snpCur line 100 g] }) =
      .next (withCoh s { coh0 with net := [msg0 .ackI line g 100] }) := by
  have answers : ∀ k, snoopArrive (withCoh s { coh0 with net := [msg0 k line 100 g] }) k g line =
      withCoh s { coh0 with net := [msg0 .ackI line g 100] } := fun k =>
    snoopArrive_plain (c := coh0) (d := coh0) rfl unfenced rfl rfl (snoop_nothing (c := coh0) rfl k (l2find_nothing rfl g line))
  exact ⟨slice_runs (f := fun s => snoopArrive s .snpS g line) live slice (answers _),
    slice_runs (f := fun s => snoopArrive s .snpI g line) live slice (answers _),
    slice_runs (f := fun s => snoopArrive s .snpCur g line) live slice (answers _)⟩

variable {w : L2Way} (tag : w.tag = line / 4096)
include tag

/-- A snoop of a slice with the line in S. -/
theorem exec_snoops_shared (unpinned : w.pinned = false) (unseen : w.pres = 0) (shared : w.st = 1) :
    exec (.snpS g line) (withCoh s { coh0 with l2 := [(l2key g line 0, w)], net := [msg0 .snpS line 100 g] }) =
      .next (withCoh s { coh0 with l2 := [(l2key g line 0, w)], net := [msg0 .ackS line g 100] }) ∧
    exec (.snpI g line) (withCoh s { coh0 with l2 := [(l2key g line 0, w)], net := [msg0 .snpI line 100 g] }) =
      .next (withCoh s { coh0 with net := [msg0 .ackI line g 100] }) ∧
    exec (.snpCur g line) (withCoh s { coh0 with l2 := [(l2key g line 0, w)], net := [msg0 .snpCur line 100 g] }) =
      .next (withCoh s { coh0 with l2 := [(l2key g line 0, w)], net := [msg0 .ackS line g 100] }) := by
  refine ⟨slice_runs (f := fun s => snoopArrive s .snpS g line) live slice ?_, slice_runs (f := fun s => snoopArrive s .snpI g line) live slice ?_,
    slice_runs (f := fun s => snoopArrive s .snpCur g line) live slice ?_⟩
  · exact snoopArrive_plain (c := { coh0 with l2 := [(l2key g line 0, w)] }) (d := { coh0 with l2 := [(l2key g line 0, w)] }) rfl unfenced rfl rfl
      (snoop_shared_keeps rfl rfl tag (by decide) shared)
  · exact snoopArrive_plain (c := { coh0 with l2 := [(l2key g line 0, w)] }) (d := coh0) rfl unfenced rfl rfl
      (snoop_shared_inval rfl rfl tag unpinned unseen shared)
  · exact snoopArrive_plain (c := { coh0 with l2 := [(l2key g line 0, w)] }) (d := { coh0 with l2 := [(l2key g line 0, w)] }) rfl unfenced rfl rfl
      (snoop_shared_keeps rfl rfl tag (by decide) shared)

variable (owned : w.st = 2) {b : Busy} (on : b.line = line)
include owned on

/-- A snoop for RD_S of a slice with the line in M: it keeps S, and its data goes to the requester and home. -/
theorem exec_snpS_owned (unseen : w.pres = 0) (canopy : lineTier line = 0) (from_ : b.req.src < 48) (asks : b.req.k = .rdS) :
    exec (.snpS g line) (withCoh s { coh0 with l2 := [(l2key g line 0, w)], busy := [b], net := [msg0 .snpS line 100 g] }) = .next (withCoh s { coh0 with
      l2 := [(l2key g line 0, { w with st := 1, written := false })], busy := [b]
      net := [{ msg0 .data line g b.req.src with data := w.data, poison := w.poison, sel := w.sel, tgt := 1 },
        { msg0 .data line g 100 with data := w.data, poison := w.poison, sel := w.sel, tgt := 0 }, msg0 .ackFwd line g 100] }) :=
  slice_runs (f := fun s => snoopArrive s .snpS g line) live slice
    (snoopArrive_sharer (c := { coh0 with l2 := [(l2key g line 0, w)], busy := [b] })
      (d := { coh0 with l2 := [(l2key g line 0, { w with st := 1, written := false })], busy := [b] }) rfl unfenced rfl rfl
      (snoop_owned_share rfl rfl tag unseen owned) rfl on from_ asks canopy rfl)

section Inval
variable (unpinned : w.pinned = false) (unseen : w.pres = 0)
include unpinned unseen

/-- A snoop for RD_M of a slice with the line in M: its data goes to the requester. -/
theorem exec_snpI_owned (from_ : b.req.src < 48) (asks : b.req.k = .rdM) :
    exec (.snpI g line) (withCoh s { coh0 with l2 := [(l2key g line 0, w)], busy := [b], net := [msg0 .snpI line 100 g] }) = .next (withCoh s { coh0 with
      busy := [b]
      net := [{ msg0 .data line g b.req.src with data := w.data, poison := w.poison, sel := w.sel, tgt := 2, wr := w.written },
        msg0 .ackFwd line g 100] }) :=
  slice_runs (f := fun s => snoopArrive s .snpI g line) live slice
    (snoopArrive_owner (c := { coh0 with l2 := [(l2key g line 0, w)], busy := [b] }) (d := { coh0 with busy := [b] }) rfl unfenced rfl rfl
      (snoop_owned_inval rfl rfl tag unpinned unseen owned) rfl on from_ asks)

/-- A snoop for OWN of a slice with the line in M: its data stays with the home's transaction. -/
theorem exec_snpI_own (asks : b.req.k = .own) :
    exec (.snpI g line) (withCoh s { coh0 with l2 := [(l2key g line 0, w)], busy := [b], net := [msg0 .snpI line 100 g] }) = .next (withCoh s { coh0 with
      busy := [{ b with got := some (ownCopy g w) }], net := [msg0 .ackFwd line g 100] }) :=
  slice_runs (f := fun s => snoopArrive s .snpI g line) live slice
    (snoopArrive_got (c := { coh0 with l2 := [(l2key g line 0, w)], busy := [b] }) (d := { coh0 with busy := [b] }) rfl unfenced rfl rfl
      (snoop_owned_inval rfl rfl tag unpinned unseen owned) rfl on (.inr asks))

end Inval

/-- A snoop for an agent without a cache leaves the line in M. -/
theorem exec_snpCur_owned (from_ : 48 ≤ b.req.src) :
    exec (.snpCur g line) (withCoh s { coh0 with l2 := [(l2key g line 0, w)], busy := [b], net := [msg0 .snpCur line 100 g] }) =
      .next (withCoh s { coh0 with
        l2 := [(l2key g line 0, w)], busy := [{ b with got := some (ownCopy g w) }], net := [msg0 .ackFwd line g 100] }) :=
  slice_runs (f := fun s => snoopArrive s .snpCur g line) live slice
    (snoopArrive_got (c := { coh0 with l2 := [(l2key g line 0, w)], busy := [b] }) (d := { coh0 with l2 := [(l2key g line 0, w)], busy := [b] })
      rfl unfenced rfl rfl (snoop_owned_cur rfl rfl tag owned) rfl on (.inl from_))

end Snoops

section Answers
variable (rest : resting s)
include rest

/-- The home's transaction for an RD_CUR that awaits slice `g`. -/
def curWaits (g line : Nat) (got : Option Own) : Busy := ⟨line, msg0 .rdCur line 200 100, [g], false, got, false, false⟩

/-- The last slice's answer to an RD_CUR's snoop lets the home answer its requester with `v`. -/
theorem ackArrive_rdCur {k : MK} {got : Option Own} {v : List Byte × Bool}
    (replies : homeReply (withCoh s { coh0 with busy := [{ curWaits g line got with wait := [], fwd := k == .ackFwd }] })
      { curWaits g line got with wait := [], fwd := k == .ackFwd } = withCoh (emit s (.read v.1 v.2)) coh0) :
    withUnit 48 g (runLive (withCoh s { coh0 with busy := [curWaits g line got], net := [msg0 k line g 100] }) (fun s => ackArrive s k g line)) =
      .next (withCoh (emit s (.read v.1 v.2)) coh0) := by
  refine withUnit_calm 48 g _ _ _ slice live ?_ rfl rfl
  refine (ackArrive_last (c := { coh0 with busy := [curWaits g line got] }) (b := curWaits g line got) rfl rfl rfl rfl rfl).trans ?_
  exact (congrArg heldPumpAll replies).trans (heldPumpAll_rests (s := s) rest rfl)

theorem exec_acks_rdCur (clean : s.tiers.poison = []) :
    exec (.ackI g line) (withCoh s { coh0 with busy := [curWaits g line none], net := [msg0 .ackI line g 100] }) =
      .next (withCoh (emit s (.read (memRead s 0 line).1 false)) coh0) ∧
    exec (.ackS g line) (withCoh s { coh0 with busy := [curWaits g line none], net := [msg0 .ackS line g 100] }) =
      .next (withCoh (emit s (.read (memRead s 0 line).1 false)) coh0) ∧
    ∀ o, exec (.ackFwd g line) (withCoh s { coh0 with busy := [curWaits g line (some o)], net := [msg0 .ackFwd line g 100] }) =
      .next (withCoh (emit s (.read o.data o.poison)) coh0) :=
  ⟨ackArrive_rdCur (v := ((memRead s 0 line).1, false)) live slice rest (homeReply_rdCur rfl rfl rfl clean rfl),
    ackArrive_rdCur (v := ((memRead s 0 line).1, false)) live slice rest (homeReply_rdCur rfl rfl rfl clean rfl),
    fun o => ackArrive_rdCur (v := (o.data, o.poison)) live slice rest (homeReply_rdCur_owner rfl rfl rfl)⟩

theorem exec_cmp_frees {b : Busy} (on : b.line = line) :
    exec (.cmp g line) (withCoh s { coh0 with busy := [b], net := [msg0 .cmp line g 100] }) = .next (withCoh s coh0) :=
  slice_runs (f := fun s => cmpArrive s g line) live slice ((cmpArrive_frees on).trans (heldPumpAll_rests (s := s) rest rfl))

omit slice

/-- Data that reaches its home and is written there. -/
theorem exec_dataHome {c d : Coh} {data : List Byte} (canopy : lineTier line = 0)
    (writes : homeData (withCoh s c) line = withCoh (memWrite s 0 line fullMask data false) d) :
    exec (.dataMsg 100 line) (withCoh s c) = .next (withCoh (memWrite s 0 line fullMask data false) d) := by
  obtain ⟨errs, pending, -⟩ := memWrite_canopy_quiet (s := s) canopy fullMask data false
  have ride : (memWrite s 0 line fullMask data false).ride = s.ride := (congrArg State.ride (memWrite_canopy_rest s canopy fullMask data false) :)
  refine runLive_next _ _ (fun s => if 100 = 100 then heldPumpAll (homeData s line) else dataArrive s 100 line) live ?_ errs pending
  exact (congrArg heldPumpAll writes).trans (heldPumpAll_rests (s := s) rest ride)

end Answers

section Comes
variable (rest : resting s) (loads : ∀ c, (coreGet s c).loads = [])
include rest loads

theorem exec_gnt_fills {r : Mshr} {m : Msg} (of : r.slice = g) (its : r.line = line) (is : r.k = .own) (grant : m.k = .gnt) (to_ : m.dst = g)
    (on : m.line = line) (ways : wayMask s r.cls ≠ 0) : ∃ w, w < 16 ∧ exec (.gnt g line) (withCoh s { coh0 with mshr := [r], net := [m] }) =
      .next (filled (withCoh s { coh0 with net := [msg0 .cmp line g 100] }) g line w ⟨line / 4096, 2, true, m.poison, m.sel, false, 0, m.data⟩) := by
  obtain ⟨w, below, fills⟩ := grantArrive_own rest loads of its is grant to_ on ways
  exact ⟨w, below, withUnit_calm 48 g _ _ (fun s => grantArrive s g line) slice live fills rfl rfl⟩

theorem exec_data_fills {r : Mshr} {m : Msg} (of : r.slice = g) (its : r.line = line) (data : m.k = .data) (to_ : m.dst = g) (on : m.line = line)
    (valid : m.tgt ≠ 0) (ways : wayMask s r.cls ≠ 0) : ∃ w, w < 16 ∧ exec (.dataMsg g line) (withCoh s { coh0 with mshr := [r], net := [m] }) =
      .next (filled (withCoh s { coh0 with net := [msg0 .cmp line g 100] }) g line w
        ⟨line / 4096, m.tgt, m.wr || (r.store && m.tgt == 2), m.poison, m.sel, false, 0, m.data⟩) := by
  obtain ⟨w, below, fills⟩ := dataArrive_fills rest loads of its data to_ on valid ways
  refine ⟨w, below, runLive_next _ _ (fun s => if g = 100 then heldPumpAll (homeData s line) else dataArrive s g line) live ?_ rfl rfl⟩
  exact (if_neg (by omega)).trans fills

end Comes
end Commands

end Sys2Proof.Machine

open Sys2Proof Sys2Proof.Machine in
/-- Settles O34: each message from its arrival to what its slice or home answers. -/
theorem slicesAnswer : Obligations.SlicesAnswer := by
  unfold Obligations.SlicesAnswer
  intro s g line live rest loads slice clean canopy unfenced
  dsimp only
  refine ⟨exec_snoops_absent live slice unfenced, fun w tag unpinned unseen => ⟨exec_snoops_shared live slice unfenced tag unpinned unseen,
      fun b owned on => ⟨exec_snpS_owned live slice unfenced tag owned on unseen canopy,
        exec_snpI_owned live slice unfenced tag owned on unpinned unseen, fun _ => exec_snpI_own live slice unfenced tag owned on unpinned unseen,
        exec_snpCur_owned live slice unfenced tag owned on⟩⟩,
    fun b is => ?_, fun r w of its is tag shared => ?_, fun r m of its is grant to_ on ways => ?_, fun r m of its data to_ on valid ways => ?_,
    fun m data home on copy plain sound whole => ?_, fun b on => exec_cmp_frees live slice rest on, ⟨?_, ?_⟩,
    fun data whole => ⟨fun e of its alive => ⟨?_, ?_⟩, fun o lost => ?_⟩, fun e of its => ?_⟩
  · subst is
    exact exec_acks_rdCur live slice rest clean
  · exact slice_runs (f := fun s => grantArrive s g line) live slice (grantArrive_upg rest loads of its is tag shared)
  · obtain ⟨w, below, fills⟩ := exec_gnt_fills live slice rest loads of its is grant to_ on ways
    exact ⟨_, w, fills, l2find_filled rfl below rfl (by simp), l2get_filled _ _ _ _ _, rfl, rfl, rfl, rfl⟩
  · obtain ⟨w, below, fills⟩ := exec_data_fills live slice rest loads of its data to_ on valid ways
    exact ⟨_, w, fills, l2find_filled rfl below rfl valid, l2get_filled _ _ _ _ _, rfl, rfl, rfl, rfl⟩
  · exact ⟨_, exec_dataHome live rest canopy (homeData_copy data home on copy plain sound), memRead_written clean canopy whole, rfl,
      (memWrite_canopy_quiet canopy _ _ _).2.2⟩
  · exact slice_runs (f := fun s => evaClean s g line) live slice evaClean_owner
  · exact slice_runs (f := fun s => evaClean s g line) live slice evaClean_sharer
  · exact slice_runs (f := fun s => evaDirty s g line) live slice (evaDirty_owner of its alive _)
  · exact ⟨_, exec_dataHome live rest canopy (homeData_eviction (g := g) (c := { coh0 with dir := [(line, ⟨2, g, 0⟩)], ev := [e], busy :=
      [opened (msg0 .evaDirty line g 100)] }) rfl rfl rfl rfl rfl rfl canopy data), memRead_written clean canopy whole, rfl,
      (memWrite_canopy_quiet canopy _ _ _).2.2⟩
  · exact slice_runs (f := fun s => evaDirty s g line) live slice (evaDirty_lost lost data)
  · exact slice_runs (f := fun s => evaAck s g line) live slice (evaAck_frees rest loads of its)

end

section
/-! PROOFS. The host's snoops of the floor (R274, R284 to R286): what the complex holds of a line, what it answers, and what it then keeps. -/

namespace Sys2Proof.Machine

/-! ### Every copy of a line in the complex (R283) -/

section Copies
variable {s : State} {c : Coh} {g line : Nat} (quiet : c.ev = [])
include quiet

/-- Where no slice holds a line, invalidating every copy changes nothing. -/
theorem dropAll_nothing (empty : c.l2 = []) : dropAll (withCoh s c) line = withCoh s c := by
  refine List.foldlRecOn (motive := fun t => t = withCoh s c) _ _ rfl ?_
  rintro t rfl h -
  rw [snoop_nothing quiet .snpI (l2find_nothing empty h line)]

section Owner
variable {w : L2Way} (only : c.l2 = [(l2key g line 0, w)]) (tag : w.tag = line / 4096) (owned : w.st = 2)
include only tag owned

section Inval
variable (unpinned : w.pinned = false) (unseen : w.pres = 0)
include unpinned unseen

/-- Invalidating the copies of the slices in `l` drops the owner's if it is among them. -/
theorem foldl_snoopI (l : List Nat) : l.foldl (fun s h => (snoop s .snpI h line).2.2) (withCoh s c) =
    withCoh s { c with l2 := if g ∈ l then [] else c.l2 } := by
  induction l with
  | nil => rfl
  | cons h l ih =>
    rw [List.foldl_cons]
    by_cases here : h = g
    · subst here
      rw [snoop_owned_inval quiet only tag unpinned unseen owned, if_pos List.mem_cons_self]
      refine List.foldlRecOn (motive := fun t => t = withCoh s { c with l2 := [] }) _ _ rfl ?_
      rintro t rfl i -
      rw [snoop_nothing (by exact quiet) .snpI (l2find_nothing (by rfl) i line)]
    · rw [snoop_nothing quiet .snpI (l2find_elsewhere only here), ih]
      simp [Ne.symm here]

theorem dropAll_owner (slice : g < 48) : dropAll (withCoh s c) line = withCoh s { c with l2 := [] } := by
  rw [dropAll, foldl_snoopI quiet only tag owned unpinned unseen, if_pos (List.mem_range.mpr slice)]

end Inval

theorem ownerData_owner (listed : c.dir = [(line, ⟨2, g, 0⟩)]) : ownerData (withCoh s c) line = some (ownCopy g w) := by
  have entry : dirGet (withCoh s c) line = ⟨2, g, 0⟩ := by simp [listed, tabGet]
  simp [ownerData, entry, snoop_owned_cur quiet only tag owned]

end Owner
end Copies

section NoOwner
variable {s : State} {c : Coh} {g line : Nat}

theorem ownerData_unowned (unowned : (dirGet (withCoh s c) line).st ≠ 2) : ownerData (withCoh s c) line = none := if_neg unowned

/-- A sum over the one grove that a property singles out. -/
theorem foldl_add_only {p : Nat → Bool} (hit : ∀ h, p h = true ↔ h = g) (f : Nat → Nat) {l : List Nat} (distinct : l.Nodup) (a : Nat) :
    l.foldl (fun a h => if p h then a + f h else a) a = if g ∈ l then a + f g else a := by
  induction l generalizing a with
  | nil => rfl
  | cons h l ih =>
    rw [List.nodup_cons] at distinct
    rw [List.foldl_cons, ih distinct.2]
    by_cases here : h = g
    · subst here
      simp [(hit h).mpr rfl, distinct.1]
    · simp [mt (hit h).mp here, Ne.symm here]

/-- A sharer list that names the one slice with the line stays as it is (R278). -/
theorem dirExact_sole {w : L2Way} (only : c.l2 = [(l2key g line 0, w)]) (tag : w.tag = line / 4096) (valid : w.st ≠ 0) (slice : g < 48)
    (listed : c.dir = [(line, ⟨1, 0, 2 ^ g⟩)]) : dirExact (withCoh s c) line = withCoh s c := by
  have entry : dirGet (withCoh s c) line = ⟨1, 0, 2 ^ g⟩ := by simp [listed, tabGet]
  have hit : ∀ h, ((2 ^ g).testBit h && l2st (withCoh s c) h line != 0) = true ↔ h = g := by
    intro h
    rw [Nat.testBit_two_pow]
    constructor
    · intro both
      simp_all
    · rintro rfl
      simp [l2st_only only tag valid, valid]
  have list := foldl_add_only hit (2 ^ ·) List.nodup_range 0 (l := List.range 48)
  rw [if_pos (List.mem_range.mpr slice), Nat.zero_add] at list
  have same := tabSet_only (d := fun _ => dir0) (k := line) ⟨1, 0, 2 ^ g⟩ (v := ⟨1, 0, 2 ^ g⟩) (by simp [dir0])
  unfold dirExact
  dsimp only
  split
  · rw [entry, list, if_neg (by positivity), dirPut_withCoh, listed, same, ← listed]
  · rfl

end NoOwner

/-! ### The host's memory (R235) -/

section Floor
variable {s : State} {line : Nat} (floor : lineTier line = 2) {data : List Byte} (whole : data.length = 64) (clean : s.tiers.poison = [])
include floor whole clean

theorem memRead_floor_written : memRead (memWrite s 0 line fullMask data false) 0 line = (data, false) := by
  have raw := tabBytes_tabPut_same s.tiers.bytes (64 * line) data
  rw [whole] at raw
  rw [memWrite_floor s line data floor whole clean]
  simp [memRead, floor, rawLine, raw, clean]

theorem memWrite_floor_quiet : (memWrite s 0 line fullMask data false).errs = s.errs ∧ (memWrite s 0 line fullMask data false).pending = s.pending ∧
    (memWrite s 0 line fullMask data false).cores = s.cores ∧ (memWrite s 0 line fullMask data false).out = s.out := by
  rw [memWrite_floor s line data floor whole clean]
  exact ⟨rfl, rfl, rfl, rfl⟩

end Floor

theorem memStore_floor {s : State} {sel line mask : Nat} (floor : lineTier line = 2) (data : List Byte) (poison : Bool) :
    memStore s sel line mask data poison = memWrite s sel line mask data poison := by
  simp [memWrite, floor]

/-! ### The host's snoops (R286) -/

section HostSnoops
variable {s : State} {c : Coh} {g line : Nat} (floor : lineTier line = 2) (up : s.host.hold = false) (idle : c.busy = [])
include floor up idle

theorem snoopable_idle : snoopable (withCoh s c) line = true := by simp [snoopable, floor, lineBusy, idle, up]

section Unowned
variable (unowned : (dirGet (withCoh s c) line).st ≠ 2)
include unowned

theorem hostSnpData_unowned :
    hostSnpData (withCoh s c) line = withCoh (emit s (.snpRsp (if hostSt (withCoh s c) line = 1 then 1 else 0) line [])) c := by
  simp only [hostSnpData, snoopable_idle floor up idle, ownerData_unowned unowned]
  rfl

theorem hostSnpCur_unowned :
    hostSnpCur (withCoh s c) line = withCoh (emit s (.snpRsp (if hostSt (withCoh s c) line = 1 then 1 else 0) line [])) c := by
  simp only [hostSnpCur, snoopable_idle floor up idle, ownerData_unowned unowned]
  rfl

/-- SnpInv of a line that no slice owns: its directory entry and its host-level state go, and what the host then stores is written. -/
theorem hostSnpInv_unowned (quiet : c.ev = []) (empty : c.l2 = []) (data : List Byte) : hostSnpInv (withCoh s c) line data =
    watchHit (withCoh (if data.length = 64 then memWrite (emit s (.snpRsp (if hostSt (withCoh s c) line = 1 then 2 else 0) line [])) 0 line fullMask data false
      else emit s (.snpRsp (if hostSt (withCoh s c) line = 1 then 2 else 0) line []))
      { c with dir := tabSet (fun _ => dir0) c.dir line dir0, hostSt := tabSet (fun _ => 0) c.hostSt line 0 }) line := by
  by_cases whole : data.length = 64 <;>
    simp [hostSnpInv, snoopable_idle floor up idle, ownerData_unowned unowned, dropAll_nothing quiet empty, memStore_floor floor, whole]

end Unowned

section Owned
variable {w : L2Way} (quiet : c.ev = []) (only : c.l2 = [(l2key g line 0, w)]) (tag : w.tag = line / 4096) (owned : w.st = 2)
  (listed : c.dir = [(line, ⟨2, g, 0⟩)])
include quiet only tag owned listed

theorem hostSnpCur_owned : hostSnpCur (withCoh s c) line = withCoh (emit s (.snpRsp 5 line w.data)) c := by
  simp only [hostSnpCur, snoopable_idle floor up idle, ownerData_owner quiet only tag owned listed, ownCopy]
  rfl

variable (unseen : w.pres = 0) (slice : g < 48) {h : Nat} (held : c.hostSt = [(line, h)])
include unseen slice held

/-- SnpData of a line that a slice owns: the slice keeps S, and the line is written to the host. -/
theorem hostSnpData_owned (sound : w.poison = false) : hostSnpData (withCoh s c) line =
    withCoh (emit (memWrite s 0 line fullMask w.data false) (.snpRsp 3 line w.data))
      { c with l2 := [(l2key g line 0, { w with st := 1, written := false })], dir := [(line, ⟨1, 0, 2 ^ g⟩)], hostSt := [(line, 1)] } := by
  have entry := tabSet_only (d := fun _ => dir0) (k := line) ⟨2, g, 0⟩ (v := ⟨1, 0, 2 ^ g⟩) (by simp [dir0])
  have state := tabSet_only (d := fun _ => 0) (k := line) h (v := 1) (by decide)
  have exact_ := dirExact_sole (s := memWrite s 0 line fullMask w.data w.poison) (c := { c with
    l2 := [(l2key g line 0, { w with st := 1, written := false })], dir := [(line, ⟨1, 0, 2 ^ g⟩)], hostSt := [(line, 1)] })
    (w := { w with st := 1, written := false }) rfl tag (by simp) slice rfl
  simp only [hostSnpData, snoopable_idle floor up idle, ownerData_owner quiet only tag owned listed, ownCopy,
    snoop_owned_share quiet only tag unseen owned, dirPut_withCoh, hostStPut_withCoh, memWrite_withCoh, listed, held, entry, state, exact_]
  rw [sound]
  rfl

/-- SnpInv of a line that a slice owns: every copy goes, and its bytes go to the host where they were written. -/
theorem hostSnpInv_owned (unpinned : w.pinned = false) (sound : w.poison = false) : hostSnpInv (withCoh s c) line [] =
    watchHit (withCoh (if w.written then emit (memWrite s 0 line fullMask w.data false) (.snpRsp 4 line w.data) else emit s (.snpRsp 4 line []))
      { c with l2 := [], dir := [], hostSt := [] }) line := by
  have entry := tabSet_gone (fun _ => dir0) line ⟨2, g, 0⟩
  have state := tabSet_gone (fun _ => 0) line h
  cases written : w.written <;>
    simp [hostSnpInv, snoopable_idle floor up idle, ownerData_owner quiet only tag owned listed, ownCopy,
      dropAll_owner quiet only tag owned unpinned unseen slice, listed, held, entry, state, sound, written]

end Owned

end HostSnoops

theorem watchHit_unwatched {s : State} {c : Coh} {line : Nat} (unwatched : c.watch = []) : watchHit (withCoh s c) line = withCoh s c := by
  simp [watchHit, unwatched]

end Sys2Proof.Machine
end

section
/-! PROOFS. The host's snoops and answers as commands (R284 to R286). -/

namespace Sys2Proof.Machine

/-! ### The host's snoops -/

section Snoops
variable {s : State} {g line : Nat} (live : Live s) (floor : lineTier line = 2) (up : s.host.hold = false)
include live floor up

theorem exec_hostSnpData_unowned {c : Coh} (idle : c.busy = []) (unowned : (dirGet (withCoh s c) line).st ≠ 2) {r : Nat}
    (answer : (if hostSt (withCoh s c) line = 1 then 1 else 0) = r) :
    exec (.hostSnpData line) (withCoh s c) = .next (withCoh (emit s (.snpRsp r line [])) c) := by
  subst answer
  exact runLive_next _ _ (fun s => hostSnpData s line) live (hostSnpData_unowned floor up idle unowned) rfl rfl

theorem exec_hostSnpCur_unowned {c : Coh} (idle : c.busy = []) (unowned : (dirGet (withCoh s c) line).st ≠ 2) {r : Nat}
    (answer : (if hostSt (withCoh s c) line = 1 then 1 else 0) = r) :
    exec (.hostSnpCur line) (withCoh s c) = .next (withCoh (emit s (.snpRsp r line [])) c) := by
  subst answer
  exact runLive_next _ _ (fun s => hostSnpCur s line) live (hostSnpCur_unowned floor up idle unowned) rfl rfl

omit live in
/-- SnpInv of a line that the complex does not hold: it is answered, and what the host then stores is written. -/
theorem hostSnpInv_uncached (data : List Byte) : hostSnpInv (withCoh s coh0) line data =
    withCoh (if data.length = 64 then memWrite (emit s (.snpRsp 0 line [])) 0 line fullMask data false else emit s (.snpRsp 0 line [])) coh0 := by
  have entry := tabSet_nil_default (fun _ => dir0) line
  have state := tabSet_nil_default (fun _ => 0) line
  rw [hostSnpInv_unowned floor up rfl (by simp [coh0, tabGet, dir0]) rfl rfl data, watchHit_unwatched rfl]
  simp only [coh0, entry, state]
  rfl

theorem exec_hostSnpInv_uncached : exec (.hostSnpInv line []) (withCoh s coh0) = .next (withCoh (emit s (.snpRsp 0 line [])) coh0) :=
  runLive_next _ _ (fun s => hostSnpInv s line []) live (hostSnpInv_uncached floor up []) rfl rfl

/-- A host that stores into a line after its SnpInv. -/
theorem exec_hostSnpInv_stores {data : List Byte} (whole : data.length = 64) (clean : s.tiers.poison = []) :
    exec (.hostSnpInv line data) (withCoh s coh0) =
      .next (withCoh (memWrite (emit s (.snpRsp 0 line [])) 0 line fullMask data false) coh0) := by
  obtain ⟨errs, pending, -⟩ := memWrite_floor_quiet (s := emit s (.snpRsp 0 line [])) floor whole clean
  refine runLive_next _ _ (fun s => hostSnpInv s line data) live ?_ errs pending
  rw [hostSnpInv_uncached floor up, if_pos whole]

theorem exec_hostSnpInv_shared (sh : Nat) :
    exec (.hostSnpInv line []) (withCoh s { coh0 with hostSt := [(line, 1)], dir := [(line, ⟨1, 0, sh⟩)] }) =
      .next (withCoh (emit s (.snpRsp 2 line [])) coh0) := by
  have entry := tabSet_gone (fun _ => dir0) line ⟨1, 0, sh⟩
  have state := tabSet_gone (fun _ => 0) line 1
  refine runLive_next _ _ (fun s => hostSnpInv s line []) live ?_ rfl rfl
  dsimp only
  rw [hostSnpInv_unowned floor up rfl (by simp [tabGet]) rfl rfl [], watchHit_unwatched rfl]
  simp only [entry, state]
  simp [tabGet, coh0]

section Owned
variable {w : L2Way} (tag : w.tag = line / 4096) (owned : w.st = 2)
include tag owned

/-- The caches in which slice `g` alone holds a floor line, in M. -/
def ownedBy (g line : Nat) (w : L2Way) : Coh := { coh0 with l2 := [(l2key g line 0, w)], hostSt := [(line, 2)], dir := [(line, ⟨2, g, 0⟩)] }

theorem exec_hostSnpCur_owned :
    exec (.hostSnpCur line) (withCoh s (ownedBy g line w)) = .next (withCoh (emit s (.snpRsp 5 line w.data)) (ownedBy g line w)) :=
  runLive_next _ _ (fun s => hostSnpCur s line) live (hostSnpCur_owned floor up rfl rfl rfl tag owned rfl) rfl rfl

variable (slice : g < 48) (unseen : w.pres = 0) (sound : w.poison = false) (whole : w.data.length = 64) (clean : s.tiers.poison = [])
include slice unseen sound

section Writes
include whole clean

theorem exec_hostSnpData_owned : exec (.hostSnpData line) (withCoh s (ownedBy g line w)) =
    .next (withCoh (emit (memWrite s 0 line fullMask w.data false) (.snpRsp 3 line w.data))
      { coh0 with l2 := [(l2key g line 0, { w with st := 1, written := false })], dir := [(line, ⟨1, 0, 2 ^ g⟩)], hostSt := [(line, 1)] }) := by
  obtain ⟨errs, pending, -⟩ := memWrite_floor_quiet (s := s) floor whole clean
  exact runLive_next _ _ (fun s => hostSnpData s line) live
    (hostSnpData_owned floor up rfl rfl rfl tag owned rfl unseen slice rfl sound) errs pending

theorem exec_hostSnpInv_written (unpinned : w.pinned = false) (written : w.written = true) :
    exec (.hostSnpInv line []) (withCoh s (ownedBy g line w)) =
      .next (withCoh (emit (memWrite s 0 line fullMask w.data false) (.snpRsp 4 line w.data)) coh0) := by
  obtain ⟨errs, pending, -⟩ := memWrite_floor_quiet (s := s) floor whole clean
  refine runLive_next _ _ (fun s => hostSnpInv s line []) live ?_ errs pending
  rw [hostSnpInv_owned floor up rfl rfl rfl tag owned rfl unseen slice rfl unpinned sound, if_pos written, watchHit_unwatched rfl]
  rfl

end Writes

theorem exec_hostSnpInv_unwritten (unpinned : w.pinned = false) (unwritten : w.written = false) :
    exec (.hostSnpInv line []) (withCoh s (ownedBy g line w)) = .next (withCoh (emit s (.snpRsp 4 line [])) coh0) := by
  refine runLive_next _ _ (fun s => hostSnpInv s line []) live ?_ rfl rfl
  rw [hostSnpInv_owned floor up rfl rfl rfl tag owned rfl unseen slice rfl unpinned sound, if_neg (by simp [unwritten]), watchHit_unwatched rfl]
  rfl

end Owned
end Snoops

/-! ### The host's answers (R284, R285) -/

section Answers
variable {s : State} {g line : Nat} (live : Live s) (rest : resting s) (clean : s.tiers.poison = [])

/-- A slice's transaction that awaits the host. -/
def hostWaits (k : MK) (g line : Nat) : Busy := { opened (msg0 k line g 100) with host := true }

/-- The caches in which the host has answered a slice's transaction with `h`. -/
def hostGave (k : MK) (g line h : Nat) : Coh := { coh0 with busy := [opened (msg0 k line g 100)], hostSt := [(line, h)] }

/-- The home goes on once the host has given the state that a read wants. -/
theorem hostAnswer_gives (floor : lineTier line = 2) (up : s.host.hold = false) {k : MK} {st h : Nat} (gives : h ≠ 0)
    (wants : k = .rdS ∧ h = (if st = 2 then 2 else 1) ∨ k = .rdM ∧ h = 2) :
    hostAnswer (withCoh s { coh0 with busy := [hostWaits k g line] }) line st =
      heldPumpAll (homeReply (withCoh s (hostGave k g line h)) (opened (msg0 k line g 100))) := by
  have state := tabSet_nil (d := fun _ => 0) (k := line) gives
  have reply := homeSnoop_unlisted (s := s) (c := hostGave k g line h) (b := opened (msg0 k line g 100)) rfl
  rw [← reply]
  unfold hostAnswer
  rw [if_neg (by simp [up]), if_neg (by simp [coh0])]
  rcases wants with ⟨rfl, rfl⟩ | ⟨rfl, rfl⟩ <;>
    simp [hostWaits, opened, msg0, floor, floorNeed, tabGet, coh0, state, hostGave]

include live rest in
theorem exec_hostCacheResponse_writeBack (up : s.host.hold = false) (st : Nat) :
    exec (.hostCacheResponse line st) (withCoh s { coh0 with wb := [line] }) = .next (withCoh s coh0) := by
  refine runLive_next _ _ (fun s => hostAnswer s line st) live ?_ rfl rfl
  have gone : [line].erase line = [] := List.erase_cons_head _ _
  simp only [hostAnswer, withCoh_hold, up, withCoh_coh, gone, List.contains_cons, beq_self_eq_true, Bool.true_or, if_true, Bool.false_eq_true, if_false]
  exact goOn_resting rest

section Reads
include live rest clean

theorem exec_hostCacheResponse_rdS (floor : lineTier line = 2) (up : s.host.hold = false) {st : Nat} (grants : st = 1 ∨ st = 2) :
    exec (.hostCacheResponse line st) (withCoh s { coh0 with busy := [hostWaits .rdS g line] }) =
      .next (withCoh s (answered (hostGave .rdS g line st) (opened (msg0 .rdS line g 100))
        { msg0 .data line 100 g with data := (memRead s 0 line).1, tgt := st } (if st = 2 then ⟨2, g, 0⟩ else ⟨1, 0, 2 ^ g⟩))) := by
  refine runLive_next _ _ (fun s => hostAnswer s line st) live ?_ rfl rfl
  have is : st = if st = 2 then 2 else 1 := by rcases grants with rfl | rfl <;> rfl
  have gives : st ≠ 0 := by rcases grants with rfl | rfl <;> decide
  have replies := homeReply_rdS (s := s) (c := hostGave .rdS g line st) rfl rfl rfl clean rfl rfl (st := st) (by
    rcases grants with rfl | rfl <;> simp [floor, hostGave, tabGet])
  dsimp only
  rw [hostAnswer_gives floor up gives (.inl ⟨rfl, is⟩), replies]
  exact heldPumpAll_rests (s := s) rest rfl

theorem exec_hostCacheResponse_rdM (floor : lineTier line = 2) (up : s.host.hold = false) (st : Nat) :
    exec (.hostCacheResponse line st) (withCoh s { coh0 with busy := [hostWaits .rdM g line] }) =
      .next (withCoh s (answered (hostGave .rdM g line 2) (opened (msg0 .rdM line g 100))
        { msg0 .data line 100 g with data := (memRead s 0 line).1, tgt := 2 } ⟨2, g, 0⟩)) := by
  refine runLive_next _ _ (fun s => hostAnswer s line st) live ?_ rfl rfl
  dsimp only
  rw [hostAnswer_gives floor up (by decide) (.inr ⟨rfl, rfl⟩), homeReply_rdM (c := hostGave .rdM g line 2) rfl rfl rfl clean rfl rfl]
  exact heldPumpAll_rests (s := s) rest rfl

theorem exec_birsp_rdS (canopy : lineTier line = 0) :
    exec (.birsp line) (withCoh s { coh0 with busy := [hostWaits .rdS g line] }) =
      .next (withCoh s (answered { coh0 with busy := [opened (msg0 .rdS line g 100)] } (opened (msg0 .rdS line g 100))
        { msg0 .data line 100 g with data := (memRead s 0 line).1, tgt := 1 } ⟨1, 0, 2 ^ g⟩)) := by
  refine runLive_next _ _ (fun s => biAnswer s line) live ?_ rfl rfl
  have replies := (homeSnoop_unlisted (s := s) (c := { coh0 with busy := [opened (msg0 .rdS line g 100)] })
    (b := opened (msg0 .rdS line g 100)) rfl).trans (homeReply_rdS rfl rfl rfl clean rfl rfl (st := 1) (by simp [canopy]))
  have goes : biAnswer (withCoh s { coh0 with busy := [hostWaits .rdS g line] }) line = heldPumpAll
      (homeSnoop (withCoh s { coh0 with busy := [opened (msg0 .rdS line g 100)] }) (opened (msg0 .rdS line g 100))) := by
    simp [biAnswer, hostWaits, opened, msg0, canopy]
  rw [goes, replies]
  exact heldPumpAll_rests (s := s) rest rfl

end Reads

include live in
theorem exec_birsp_idle : exec (.birsp line) (withCoh s coh0) = .next (withCoh s coh0) :=
  runLive_next _ _ (fun s => biAnswer s line) live (by simp [biAnswer, coh0]) rfl rfl

end Answers

end Sys2Proof.Machine
end

section
/-! PROOFS. A watched line that the host has invalidated (R274, R323): the line is read again and the queues whose slots it holds are woken. -/

namespace Sys2Proof.Machine

/-! ### What a wake leaves of the registers -/

/-- A fetch changes no register. -/
theorem fetchLoop_regs (n : Nat) (s : State) (q : Nat) : (fetchLoop n s q).regs = s.regs := by
  induction n generalizing s with
  | zero => rfl
  | succ n ih =>
    have note : (descNote s (queueGet s q) (queueGet s q).fetched).regs = s.regs := (congrArg State.regs (readNotes_sent s _ _).1 :)
    unfold fetchLoop
    dsimp only
    split
    · rfl
    · split
      · exact (ih _).trans note
      · split
        · exact (ih _).trans note
        · exact note

section Wakes
variable {a : Nat} (beside : a ≠ 0x30020 ∧ a ≠ 0x30028) (s : State)
include beside

theorem regGet_parkOverrun (q tail head : Nat) : regGet (parkOverrun s q tail head) a = regGet s a :=
  (writeEventQ_keeps _ 0x02 0 q 0 0 tail (queueGet s q).fetched head).regs a beside.1 beside.2

/-- A wake leaves every register but the event ring's two. -/
theorem regGet_queueWake (q : Nat) : regGet (queueWake s q) a = regGet s a := by
  unfold queueWake
  dsimp only
  split
  · rfl
  split
  · rfl
  split
  · rfl
  split
  · exact regGet_parkOverrun beside _ q _ 0
  split
  · exact regGet_parkOverrun beside _ q _ _
  have fetches : ∀ t, regGet (fetchLoop 9 t q) a = regGet t a := fun t => by rw [regGet, fetchLoop_regs]; rfl
  split
  · exact (regGet_queueSet _ _ _ _).trans (fetches _)
  · exact fetches _

theorem regGet_queueWakes (l : List Nat) : regGet (l.foldl queueWake s) a = regGet s a :=
  List.foldlRecOn (motive := fun t => regGet t a = regGet s a) l _ rfl fun t kept q _ => (regGet_queueWake beside t q).trans kept

end Wakes

/-! ### The invalidation of a watched line -/

section Watched
variable {s : State} {c : Coh} {line : Nat} {w : Watch} (of : w.line = line) (unread : w.refetch = false)
include of unread

/-- The invalidation of a watched line owes a wake and asks for the line again. -/
theorem watchHit_asks (watches : c.watch = [w]) (quiet : Quiet c) : watchHit (withCoh s c) line = withCoh s { c with
    watch := [{ w with refetch := true, wake := true }], mshr := [asked w.slice line .rdS 3 false], net := [msg0 .rdS line w.slice 100] } := by
  have finds : c.watch.find? (fun x => x.line == line) = some w := by simp [watches, of]
  have owes : c.watch.map (fun x => if x = w then { x with refetch := true, wake := true } else x) = [{ w with refetch := true, wake := true }] := by
    simp [watches]
  unfold watchHit
  rw [withCoh_coh, finds]
  dsimp only
  rw [owes, if_neg (by simp [unread])]
  exact request_sends (c := { c with watch := [{ w with refetch := true, wake := true }] })
    ⟨quiet.net, quiet.stall, quiet.mshr, quiet.ev, quiet.resv⟩ 3 false

/-- The caches after the host's invalidation of a watched line that no slice holds, with the wake owed or given. -/
def hostTook (line : Nat) (w : Watch) (owed : Bool) : Coh := { coh0 with
  watch := [{ w with refetch := true, wake := owed }], mshr := [asked w.slice line .rdS 3 false], net := [msg0 .rdS line w.slice 100] }

theorem hostSnpInv_watched (floor : lineTier line = 2) (up : s.host.hold = false) :
    hostSnpInv (withCoh s { coh0 with watch := [w] }) line [] = withCoh (emit s (.snpRsp 0 line [])) (hostTook line w true) := by
  have entry := tabSet_nil_default (fun _ => dir0) line
  have state := tabSet_nil_default (fun _ => 0) line
  rw [hostSnpInv_unowned floor up rfl (by simp [coh0, tabGet, dir0]) rfl rfl [], watchHit_asks of unread rfl ⟨rfl, rfl, rfl, rfl, rfl⟩]
  simp only [coh0, entry, state]
  rfl

/-- WATCH_WAKE of a line that holds doorbell slots alone: the queues that own them are woken. -/
theorem watchWake_wakes (floor : lineTier line = 2) (up : s.host.hold = false) (unowed : w.wake = false)
    (beside : floorPA (regField s 0x40020 42 6 * 64) / 64 ≠ line) : watchWake (withCoh s { coh0 with watch := [w] }) line =
      (lineQueues s line).foldl queueWake (withCoh (emit s (.snpRsp 0 line [])) (hostTook line w false)) := by
  have head : regField ((lineQueues s line).foldl queueWake (withCoh (emit s (.snpRsp 0 line [])) (hostTook line w false))) 0x40020 42 6 =
      regField s 0x40020 42 6 := congrArg (bitsOf · 42 6) (regGet_queueWakes (by decide) _ (lineQueues s line))
  have snoops : snoopable (withCoh s { coh0 with watch := [w] }) line = true := snoopable_idle floor up rfl
  have owed : ({ coh0 with watch := [w] } : Coh).watch.find? (fun x => x.line == line) = some w := by simp [of]
  have owes : (hostTook line w true).watch.find? (fun x => x.line == line) = some { w with refetch := true, wake := true } := by simp [hostTook, of]
  have gives : (hostTook line w true).watch.map (fun x => if x = { w with refetch := true, wake := true } then { x with wake := false } else x) =
    (hostTook line w false).watch := by simp [hostTook]
  unfold watchWake
  rw [withCoh_coh, owed]
  dsimp only
  rw [if_pos (by simp [unowed, unread, snoops]), hostSnpInv_watched of unread floor up, withCoh_coh, owes]
  dsimp only
  rw [gives, if_pos rfl]
  exact if_neg fun there => beside (head ▸ there)

theorem exec_watchWake_wakes (live : Live s) (floor : lineTier line = 2) (up : s.host.hold = false) (unowed : w.wake = false)
    (beside : floorPA (regField s 0x40020 42 6 * 64) / 64 ≠ line) {v : State}
    (wakes : (lineQueues s line).foldl queueWake (withCoh (emit s (.snpRsp 0 line [])) (hostTook line w false)) = v) (calm : v.errs = []) :
    exec (.watchWake line) (withCoh s { coh0 with watch := [w] }) = .next { v with pending := s.pending } := by
  have runs : frozen (withCoh s { coh0 with watch := [w] }) = false := live.1
  change runLive _ (fun s => watchWake s line) = _
  unfold runLive
  dsimp only
  rw [runs, watchWake_wakes of unread floor up unowed beside, wakes, settle_calm v calm]
  rfl

end Watched

end Sys2Proof.Machine
end

section
/-! PROOFS. The host and the lines it can see. -/

open Sys2Proof Sys2Proof.Machine in
/-- Settles O36: each snoop by what the complex holds of the line, and each answer by what it lets the line's home do. -/
theorem hostSnoops : Obligations.HostSnoops := by
  unfold Obligations.HostSnoops
  intro s g line live rest slice clean up
  dsimp only
  refine ⟨fun floor => ⟨⟨?_, ?_, ?_⟩, fun data whole => ?_, fun sh => ⟨?_, ?_, ?_⟩, fun w tag owned unpinned unseen whole sound => ⟨?_, ?_, ?_, ?_⟩,
    fun st grants => ⟨?_, ?_, ?_⟩, fun w of unread unowed beside calm => ?_⟩, fun canopy => ⟨?_, ?_⟩⟩
  · exact exec_hostSnpData_unowned live floor up rfl (by simp [coh0, tabGet, dir0]) rfl
  · exact exec_hostSnpInv_uncached live floor up
  · exact exec_hostSnpCur_unowned live floor up rfl (by simp [coh0, tabGet, dir0]) rfl
  · obtain ⟨-, -, cores, out⟩ := memWrite_floor_quiet (s := emit s (.snpRsp 0 line [])) floor whole clean
    exact ⟨_, exec_hostSnpInv_stores live floor up whole clean, memRead_floor_written (s := emit s _) floor whole clean, rfl, out, cores⟩
  · exact exec_hostSnpData_unowned live floor up rfl (by simp [tabGet]) (by simp [tabGet])
  · exact exec_hostSnpInv_shared live floor up sh
  · exact exec_hostSnpCur_unowned live floor up rfl (by simp [tabGet]) (by simp [tabGet])
  · exact exec_hostSnpCur_owned live floor up tag owned
  · obtain ⟨-, -, cores, out⟩ := memWrite_floor_quiet (s := s) floor whole clean
    exact ⟨_, exec_hostSnpData_owned live floor up tag owned slice unseen sound whole clean, congrArg (· ++ _) out,
      memRead_floor_written floor whole clean, rfl, cores⟩
  · exact exec_hostSnpInv_unwritten live floor up tag owned slice unseen sound unpinned
  · intro written
    obtain ⟨-, -, cores, out⟩ := memWrite_floor_quiet (s := s) floor whole clean
    exact ⟨_, exec_hostSnpInv_written live floor up tag owned slice unseen sound whole clean unpinned written, congrArg (· ++ _) out,
      memRead_floor_written floor whole clean, rfl, cores⟩
  · exact exec_hostCacheResponse_rdS live rest clean floor up grants
  · exact exec_hostCacheResponse_rdM live rest clean floor up st
  · exact exec_hostCacheResponse_writeBack live rest up st
  · have given : (⟨w.line, w.slice, w.way, true, false⟩ : Watch) = { w with refetch := true } := by rw [← unowed]
    have took : hostTook line w false = { coh0 with
      watch := [{ w with refetch := true }], mshr := [asked w.slice line .rdS 3 false], net := [msg0 .rdS line w.slice 100] } := by
      rw [hostTook, given]
    exact exec_watchWake_wakes of unread live floor up unowed beside (by rw [took]; rfl) calm
  · exact exec_birsp_rdS live rest clean canopy
  · exact exec_birsp_idle live

end

section
/-! PROOFS. The coherence registers (R266 to R268, R293): presence bits that go with an L1, the enable bits, and the directory probe. -/

namespace Sys2Proof.Machine

/-! ### Presence bits (R262, R267, R268) -/

/-- A table of ways in which no L1 of grove `g` holds a line of its slice: each presence bit of its ways in `l` goes. -/
def presCleared (g : Nat) (l t : Tab L2Way) : Tab L2Way :=
  l.foldl (fun t p => if p.1 / 65536 = g ∧ p.2.pres ≠ 0 then tabSet (fun _ => l2way0) t p.1 { p.2 with pres := 0 } else t) t

theorem presCleared_cons (g : Nat) (p : Nat × L2Way) (l t : Tab L2Way) : presCleared g (p :: l) t =
    presCleared g l (if p.1 / 65536 = g ∧ p.2.pres ≠ 0 then tabSet (fun _ => l2way0) t p.1 { p.2 with pres := 0 } else t) := rfl

/-- The ways of other slices keep what they hold. -/
theorem tabGet_presCleared {g k : Nat} (other : k / 65536 ≠ g) (l t : Tab L2Way) :
    tabGet (fun _ => l2way0) (presCleared g l t) k = tabGet (fun _ => l2way0) t k := by
  induction l generalizing t with
  | nil => rfl
  | cons p l ih =>
    rw [presCleared_cons, ih]
    split
    · next hit => exact tabGet_tabSet_ne _ _ _ fun same => other (same ▸ hit.1)
    · rfl

/-- An entry that clearing leaves was there before, or has no presence bit. -/
theorem mem_presCleared {g : Nat} {p : Nat × L2Way} {l t : Tab L2Way} (h : p ∈ presCleared g l t) : p ∈ t ∨ p.2.pres = 0 := by
  induction l generalizing t with
  | nil => exact .inl h
  | cons q l ih =>
    rw [presCleared_cons] at h
    rcases ih h with there | zero
    · split at there
      · rcases mem_tabSet there with rfl | ⟨-, old⟩
        · exact .inr rfl
        · exact .inl old
      · exact .inl there
    · exact .inr zero

/-- What clearing has yet to come to is all that may still have a presence bit. -/
theorem presCleared_zero {g : Nat} {l t : Tab L2Way} (rest : ∀ p ∈ t, p.1 / 65536 = g → p.2.pres = 0 ∨ p ∈ l) :
    ∀ p ∈ presCleared g l t, p.1 / 65536 = g → p.2.pres = 0 := by
  induction l generalizing t with
  | nil => exact fun p mem slice => (rest p mem slice).resolve_right (List.not_mem_nil)
  | cons q l ih =>
    rw [presCleared_cons]
    refine ih fun p mem slice => ?_
    split at mem
    · rcases mem_tabSet mem with rfl | ⟨other, old⟩
      · exact .inl rfl
      · exact (rest p old slice).imp_right fun later => (List.mem_cons.mp later).resolve_left fun same => other (same ▸ rfl)
    · next keeps =>
      rcases rest p mem slice with zero | later
      · exact .inl zero
      · rcases List.mem_cons.mp later with rfl | later
        · exact .inl (by_contra fun bits => keeps ⟨slice, bits⟩)
        · exact .inr later

/-- A slice's ways without their presence bits. -/
def presGone (g : Nat) (t : Tab L2Way) : Tab L2Way := presCleared g t t

theorem presGone_zero {g : Nat} {t : Tab L2Way} : ∀ p ∈ presGone g t, p.1 / 65536 = g → p.2.pres = 0 :=
  presCleared_zero fun _ mem _ => .inr mem

/-- A way's key names its slice. -/
theorem l2key_slice (g line : Nat) {w : Nat} (way : w < 16) : l2key g line w / 65536 = g := by unfold l2key; omega

/-! ### The invalidation of a grove's L1s (R267) -/

/-- A core with its L1 emptied. -/
def l1Emptied (s : State) (c : Nat) : State := if (coreGet s c).l1.isEmpty then s else coreMap s c (fun k => { k with l1 := [] })

theorem lessL1_eq {k : Core} (empty : k.l1 = []) : lessL1 k = k := by cases k; simp_all [lessL1]

theorem coreGet_l1Emptied (s : State) (c d : Nat) : coreGet (l1Emptied s c) d = if d = c then lessL1 (coreGet s d) else coreGet s d := by
  unfold l1Emptied
  by_cases here : d = c
  · subst here
    split
    · next empty => rw [if_pos rfl, lessL1_eq (List.isEmpty_iff.mp empty)]
    · rw [if_pos rfl, coreGet_coreMap_same, lessL1]
  · rw [if_neg here]
    split
    · rfl
    · exact coreGet_coreMap_ne _ _ here

theorem l1Emptied_rest (s : State) (c : Nat) : { l1Emptied s c with cores := s.cores } = s := by
  unfold l1Emptied
  split <;> rfl

theorem l1sEmptied_rest (s : State) (l : List Nat) : { l.foldl l1Emptied s with cores := s.cores } = s := by
  induction l generalizing s with
  | nil => rfl
  | cons c l ih => exact (congrArg (fun t : State => { t with cores := s.cores }) (ih (l1Emptied s c))).trans (l1Emptied_rest s c)

theorem l1sEmptied_coh (s : State) (l : List Nat) : (l.foldl l1Emptied s).coh = s.coh := (congrArg State.coh (l1sEmptied_rest s l) :)

theorem coreGet_l1sEmptied (s : State) (l : List Nat) (d : Nat) :
    coreGet (l.foldl l1Emptied s) d = if d ∈ l then lessL1 (coreGet s d) else coreGet s d := by
  induction l generalizing s with
  | nil => rfl
  | cons c l ih =>
    rw [List.foldl_cons, ih, coreGet_l1Emptied]
    by_cases here : d = c <;> by_cases later : d ∈ l <;> simp [here, later, lessL1]

theorem mem_groveCores {g c : Nat} : c ∈ groveCores g ↔ groveOf c = g := by
  simp only [groveCores, groveOf, List.mem_map, List.mem_range]
  constructor
  · rintro ⟨p, below, rfl⟩
    omega
  · rintro rfl
    exact ⟨c % 50, by omega, by omega⟩

/-- Clearing presence bits step by step in the state clears them in its table of ways. -/
theorem foldl_presCleared (g : Nat) (l : Tab L2Way) (s : State) :
    l.foldl (fun s p => if p.1 / 65536 = g ∧ p.2.pres ≠ 0 then
      { s with coh := { s.coh with l2 := tabSet (fun _ => l2way0) s.coh.l2 p.1 { p.2 with pres := 0 } } } else s) s =
    { s with coh := { s.coh with l2 := presCleared g l s.coh.l2 } } := by
  induction l generalizing s with
  | nil => rfl
  | cons p l ih =>
    rw [List.foldl_cons, ih, presCleared_cons]
    split <;> rfl

/-- The caches once the L1s of a grove have been invalidated. -/
def cohL1Less (c : Coh) (g : Nat) : Coh := { c with l2 := presGone g c.l2, stale := setDel g c.stale, l1clean := setAdd g c.l1clean }

theorem l1InvalGrove_eq (s : State) (g : Nat) :
    l1InvalGrove s g = { (groveCores g).foldl l1Emptied s with coh := cohL1Less s.coh g } := by
  unfold l1InvalGrove
  generalize groveCores g = l
  refine (congrArg (fun u : State => { u with coh := { u.coh with stale := setDel g u.coh.stale, l1clean := setAdd g u.coh.l1clean } })
    (foldl_presCleared g (l.foldl l1Emptied s).coh.l2 (l.foldl l1Emptied s))).trans ?_
  rw [l1sEmptied_coh]
  rfl

/-- What the invalidation of the L1s of the groves in `l` does, and all it does (R267). -/
structure L1sInvalidated (l : List Nat) (s t : State) : Prop where
  cores : ∀ c, coreGet t c = if groveOf c ∈ l then lessL1 (coreGet s c) else coreGet s c
  gone : ∀ p ∈ t.coh.l2, p.1 / 65536 ∈ l → p.2.pres = 0
  entries : ∀ p ∈ t.coh.l2, p ∈ s.coh.l2 ∨ p.2.pres = 0
  ways : ∀ k, k / 65536 ∉ l → tabGet (fun _ => l2way0) t.coh.l2 k = tabGet (fun _ => l2way0) s.coh.l2 k
  stale : ∀ g, g ∈ t.coh.stale ↔ g ∈ s.coh.stale ∧ g ∉ l
  only : { t with cores := s.cores, coh := { t.coh with l2 := s.coh.l2, stale := s.coh.stale, l1clean := s.coh.l1clean } } = s

/-- Emptying the L1s of a grove's cores `l`, with what its slice and its bits then hold, invalidates the grove. -/
theorem l1sEmptied_invalidates (s : State) {g : Nat} {l : List Nat} (cores : ∀ c, c ∈ l ↔ groveOf c = g) :
    L1sInvalidated [g] s { l.foldl l1Emptied s with coh := cohL1Less s.coh g } where
  cores c := (coreGet_l1sEmptied s l c).trans (by simp only [cores, List.mem_singleton])
  gone p mem slice := presGone_zero p mem (List.mem_singleton.mp slice)
  entries p mem := mem_presCleared mem
  ways k other := tabGet_presCleared (by simpa using other) _ _
  stale h := by rw [cohL1Less, mem_setDel, List.mem_singleton, and_comm]
  only := (congrArg (fun t : State => { t with coh := s.coh }) (l1sEmptied_rest s l) :)

theorem l1InvalGrove_invalidates (s : State) (g : Nat) : L1sInvalidated [g] s (l1InvalGrove s g) := by
  rw [l1InvalGrove_eq]
  exact l1sEmptied_invalidates s fun _ => mem_groveCores

/-- The groves of a list are invalidated one after another. -/
theorem L1sInvalidated.cons {g : Nat} {l : List Nat} {s t u : State} (first : L1sInvalidated [g] s t) (later : L1sInvalidated l t u) :
    L1sInvalidated (g :: l) s u where
  cores c := by
    rw [later.cores, first.cores]
    by_cases here : groveOf c = g <;> by_cases there : groveOf c ∈ l <;> simp [here, there, lessL1]
  gone p mem slice := by
    rcases List.mem_cons.mp slice with here | there
    · exact (later.entries p mem).elim (fun old => first.gone p old (List.mem_singleton.mpr here)) id
    · exact later.gone p mem there
  entries p mem := (later.entries p mem).elim (first.entries p) .inr
  ways k other := by
    rw [List.mem_cons, not_or] at other
    rw [later.ways k other.2, first.ways k (by simpa using other.1)]
  stale h := by rw [later.stale, first.stale, List.mem_singleton, List.mem_cons, not_or, and_assoc]
  only := (congrArg (fun t : State => { t with
    cores := s.cores, coh := { t.coh with l2 := s.coh.l2, stale := s.coh.stale, l1clean := s.coh.l1clean } }) later.only).trans first.only

theorem l1InvalGroves_invalidate (s : State) (l : List Nat) : L1sInvalidated l s (l.foldl l1InvalGrove s) := by
  induction l generalizing s with
  | nil =>
    exact { cores := fun _ => rfl, gone := fun _ _ h => absurd h List.not_mem_nil, entries := fun _ => .inl, ways := fun _ _ => rfl
            stale := fun _ => by simp, only := rfl }
  | cons g l ih =>
    rw [List.foldl_cons]
    exact (l1InvalGrove_invalidates s g).cons (ih _)

/-! ### The enable bits (R266, R268) -/

/-- What a write of COH_L1_EN makes of one grove (R266, R268): one that goes off loses its presence bits, one that goes on without an
invalidation since is STALE. -/
def l1EnTurn (old new : Nat) (s : State) (g : Nat) : State :=
  if old.testBit g && !new.testBit g then
    { s with coh := { s.coh with l1clean := setDel g s.coh.l1clean, l2 := presGone g s.coh.l2 } }
  else if !old.testBit g && new.testBit g && !s.coh.l1clean.contains g then { s with coh := { s.coh with stale := setAdd g s.coh.stale } }
  else s

theorem l1EnWrite_eq (s : State) (v : Nat) :
    l1EnWrite s v = (List.range 48).foldl (l1EnTurn (regGet s 0x60010) v) (regPut s 0x60010 (v % 2 ^ 48)) := rfl

/-- What the turns of the groves in `l` have done to the caches. -/
structure L1sSwitched (old new : Nat) (l : List Nat) (s t : State) : Prop where
  gone : ∀ g ∈ l, old.testBit g = true → new.testBit g = false → ∀ p ∈ t.coh.l2, p.1 / 65536 = g → p.2.pres = 0
  entries : ∀ p ∈ t.coh.l2, p ∈ s.coh.l2 ∨ p.2.pres = 0
  clean : ∀ g, g ∉ l → (g ∈ t.coh.l1clean ↔ g ∈ s.coh.l1clean)
  stale : ∀ g, g ∈ t.coh.stale ↔ g ∈ s.coh.stale ∨ g ∈ l ∧ old.testBit g = false ∧ new.testBit g = true ∧ g ∉ s.coh.l1clean
  only : { t with coh := { t.coh with l2 := s.coh.l2, stale := s.coh.stale, l1clean := s.coh.l1clean } } = s

theorem l1EnTurn_switches (old new : Nat) (s : State) (g : Nat) : L1sSwitched old new [g] s (l1EnTurn old new s g) := by
  unfold l1EnTurn
  split
  · next off =>
    simp only [Bool.and_eq_true, Bool.not_eq_true'] at off
    exact
      { gone := fun h here _ _ p mem slice => presGone_zero p mem (slice.trans (List.mem_singleton.mp here))
        entries := fun p mem => mem_presCleared mem
        clean := fun h other => by rw [mem_setDel]; exact and_iff_right fun same => other (List.mem_singleton.mpr same)
        stale := fun h => ⟨.inl, fun after => after.elim id fun ⟨here, was, _⟩ => by
          rw [List.mem_singleton.mp here, off.1] at was
          cases was⟩
        only := rfl }
  · next stays =>
    have gone : ∀ h ∈ [g], old.testBit h = true → new.testBit h = false → ∀ p ∈ s.coh.l2, p.1 / 65536 = h → p.2.pres = 0 := by
      intro h here on off
      rw [List.mem_singleton.mp here] at on off
      simp [on, off] at stays
    split
    · next on =>
      simp only [Bool.and_eq_true, Bool.not_eq_true', ← Bool.not_eq_true, List.contains_iff_mem] at on
      exact { gone := gone, entries := fun _ => .inl, clean := fun _ _ => .rfl, only := rfl
              stale := fun h => by simp only [mem_setAdd, List.mem_singleton]; by_cases same : h = g <;> simp_all }
    · next quiet =>
      exact { gone := gone, entries := fun _ => .inl, clean := fun _ _ => .rfl, only := rfl
              stale := fun h => by by_cases same : h = g <;> simp_all }

/-- The groves of a list have their turns one after another. -/
theorem L1sSwitched.cons {old new g : Nat} {l : List Nat} {s t u : State} (apart : g ∉ l) (first : L1sSwitched old new [g] s t)
    (later : L1sSwitched old new l t u) : L1sSwitched old new (g :: l) s u where
  gone h here on off p mem slice := by
    rcases List.mem_cons.mp here with rfl | there
    · exact (later.entries p mem).elim (fun kept => first.gone h (List.mem_singleton.mpr rfl) on off p kept slice) id
    · exact later.gone h there on off p mem slice
  entries p mem := (later.entries p mem).elim (first.entries p) .inr
  clean h other := by
    rw [List.mem_cons, not_or] at other
    rw [later.clean h other.2, first.clean h (by simpa using other.1)]
  stale h := by
    rw [later.stale, first.stale]
    by_cases same : h = g
    · subst same; simp [apart]
    · simp [same, first.clean h (by simpa using same)]
  only := (congrArg (fun t : State => { t with
    coh := { t.coh with l2 := s.coh.l2, stale := s.coh.stale, l1clean := s.coh.l1clean } }) later.only).trans first.only

theorem l1EnTurns_switch (old new : Nat) (s : State) {l : List Nat} (distinct : l.Nodup) :
    L1sSwitched old new l s (l.foldl (l1EnTurn old new) s) := by
  induction l generalizing s with
  | nil =>
    exact { gone := fun _ h => absurd h List.not_mem_nil, entries := fun _ => .inl, clean := fun _ _ => .rfl
            stale := fun _ => by simp, only := rfl }
  | cons g l ih =>
    rw [List.nodup_cons] at distinct
    exact (l1EnTurn_switches old new s g).cons distinct.1 (ih _ distinct.2)

/-! ### The commands (R267, R268, R293) -/

theorem exec_cohL1InvalWrite_names {s : State} (live : Live s) (v : Nat) : exec (.cohL1InvalWrite v) s = .next (if s.coh.l1busy then s else
    { s with coh := { s.coh with l1busy := true, l1inv := below 48 (fun g => v.testBit g) } }) := by
  refine runLive_next s _ (fun s => l1InvalWrite s v) live rfl ?_ ?_ <;> split <;> rfl

theorem exec_l1InvalDone_empties {s : State} (live : Live s) (busy : s.coh.l1busy = true) : ∃ u, L1sInvalidated s.coh.l1inv s u ∧
    exec .l1InvalDone s = .next { u with coh := { u.coh with l1busy := false, l1inv := [] } } := by
  have done := l1InvalGroves_invalidate s s.coh.l1inv
  refine ⟨_, done, runLive_next s _ _ live ?_ (congrArg State.errs done.only :) (congrArg State.pending done.only :)⟩
  simp only [busy, if_true]

theorem exec_cohL1EnWrite_switches {s : State} (live : Live s) (v : Nat) : ∃ t,
    L1sSwitched (regGet s 0x60010) v (List.range 48) (regPut s 0x60010 (v % 2 ^ 48)) t ∧ exec (.cohL1EnWrite v) s = .next t := by
  have done := l1EnTurns_switch (regGet s 0x60010) v (regPut s 0x60010 (v % 2 ^ 48)) (List.nodup_range (n := 48))
  rw [← l1EnWrite_eq] at done
  exact ⟨_, done, runLive_next s _ (fun s => l1EnWrite s v) live rfl (congrArg State.errs done.only :) (congrArg State.pending done.only :)⟩

/-- The line address of a probe is bits 45 to 6 of what is written (R293). -/
theorem and_lineMask (v : Nat) : v &&& 0x3FFFFFFFFFC0 = 2 ^ 6 * bitsOf v 45 6 := by
  apply Nat.eq_of_testBit_eq
  intro i
  have mask : (0x3FFFFFFFFFC0 : Nat) = 2 ^ 6 * (2 ^ 40 - 1) := by decide
  rw [mask, Nat.testBit_and, Nat.testBit_two_pow_mul, Nat.testBit_two_pow_mul, Nat.testBit_two_pow_sub_one, bitsOf, Nat.testBit_mod_two_pow,
    Nat.testBit_shiftRight]
  by_cases above : 6 ≤ i
  · simp [above, Bool.and_comm]
  · simp [above]

theorem exec_cohProbeAddrWrite_starts {s : State} (live : Live s) (v : Nat) : exec (.cohProbeAddrWrite v) s =
    .next { regPut s 0x60030 (2 ^ 6 * bitsOf v 45 6) with coh := { s.coh with probeRun := true } } :=
  runLive_next s _ (fun s => probeWrite s v) live (by rw [probeWrite, and_lineMask]; rfl) rfl rfl

theorem mx1_iff (s : State) : mx1 s = true ↔ regField s 0x60000 0 0 = 1 := by
  rw [mx1, bitOf, regField, bitsOf, Nat.shiftRight_zero, Nat.testBit_zero]
  simp

/-- What a probe shows of a line: busy, owned, shared or nothing (R278, R293). -/
def probeShows (s : State) (line : Nat) : Nat :=
  if lineBusy s line then 3 * 2 ^ 61
  else if (dirGet s line).st = 2 then 2 * 2 ^ 61 + (dirGet s line).owner * 2 ^ 48
  else if (dirGet s line).st = 1 then 2 ^ 61 + (if mx1 s then (dirGet s line).sharers else 2 ^ 48 - 1)
  else 0

theorem exec_probeLookupDone_shows {s : State} (live : Live s) (run : s.coh.probeRun = true) : exec .probeLookupDone s =
    .next { s with coh := { s.coh with probeRun := false, probe := 2 ^ 63 + probeShows s (regField s 0x60030 45 6) } } := by
  refine runLive_next s _ _ live ?_ rfl rfl
  simp only [run, if_true]
  rfl

end Sys2Proof.Machine
end

section
/-! PROOFS. The coherence registers. -/

open Sys2Proof Sys2Proof.Machine in
/-- Settles O35: an invalidation and a change of the enable bits grove by grove, and the probe by what its line's home holds. -/
theorem coherenceRegisters : Obligations.CoherenceRegisters := by
  unfold Obligations.CoherenceRegisters
  intro s live
  refine ⟨exec_cohL1InvalWrite_names live, fun busy => ?_, fun v => ?_, exec_cohProbeAddrWrite_starts live, fun run => ?_⟩
  · obtain ⟨u, done, runs⟩ := exec_l1InvalDone_empties live busy
    refine ⟨_, runs, rfl, rfl, fun c => ?_, fun p mem slice => done.gone p mem (List.contains_iff_mem.mp slice), fun g line w other way => ?_,
      fun g => ?_, (congrArg (fun t : State => t.coh.dir) done.only :), (congrArg State.tiers done.only :), (congrArg State.regs done.only :)⟩
    · simp only [List.contains_iff_mem]
      exact done.cores c
    · exact done.ways _ (by rw [l2key_slice g line way]; simpa using other)
    · rw [Bool.eq_iff_iff]
      simpa using done.stale g
  · obtain ⟨t, done, runs⟩ := exec_cohL1EnWrite_switches live v
    have regs : t.regs = (regPut s 0x60010 (v % 2 ^ 48)).regs := (congrArg State.regs done.only :)
    refine ⟨t, runs, fun g slice => ?_, fun a other => ?_, fun g slice on off => done.gone g (List.mem_range.mpr slice) on off, fun g slice => ?_,
      (congrArg (fun t : State => t.coh.dir) done.only :), (congrArg State.tiers done.only :), (congrArg State.cores done.only :)⟩
    · have read : regGet t 0x60010 = v % 2 ^ 48 := by
        rw [regGet, regs]
        exact (regGet_regPut_same s _ _).trans (by omega)
      rw [l1On, read, bitOf, Nat.testBit_mod_two_pow]
      simp [slice]
    · rw [regGet, regs]
      exact regGet_regPut_ne s _ other
    · rw [Bool.eq_iff_iff]
      simpa [l1On, bitOf, slice, and_assoc] using done.stale g
  · dsimp only
    rw [exec_probeLookupDone_shows live run]
    unfold probeShows
    refine ⟨fun busy => by simp [busy], fun free => ⟨fun owned => by simp [free, owned], fun shared listed => ?_, fun shared broad => ?_,
      fun none_ => by simp [free, none_]⟩⟩
    · simp [free, shared, (mx1_iff s).mpr listed]
    · have native : mx1 s = false := by rw [← Bool.not_eq_true, mx1_iff, broad]; decide
      simp [free, shared, native]

end

section
/-! PROOFS. The first checks of queue commands (R331, R357): each command judges its body and its queue's privilege before it acts. -/

namespace Sys2Proof.Machine

/-! ### The status of the first check that fails -/

/-- The status of R331's first two checks for a command of a queue: DESC_MALFORMED before NOT_PERMITTED, and 0 where it passes both. -/
def refusal (k : Queue) (d : List Byte) : Nat := if !bodyOk d then 0x01 else if needsPriv k d && !k.priv then 0x02 else 0

theorem refusal_malformed (k : Queue) {d : List Byte} (body : bodyOk d = false) : refusal k d = 0x01 := by simp [refusal, body]

theorem refusal_unprivileged {k : Queue} {d : List Byte} (body : bodyOk d = true) (needs : needsPriv k d = true) (plain : k.priv = false) :
    refusal k d = 0x02 := by simp [refusal, body, needs, plain]

/-- A command's start changes neither its queue's root nor its privilege. -/
theorem refusal_begun (k : Queue) (d : List Byte) : refusal (begun k d) d = refusal k d := rfl

/-- The first two checks come before the third, whatever engines the command finds. -/
theorem firstChecks_refused {s : State} {q : Nat} {d : List Byte} (fails : refusal (queueGet s q) d ≠ 0) (eng : Bool) :
    firstChecks s q d eng = refusal (queueGet s q) d := by
  cases body : bodyOk d
  · simp [firstChecks, refusal, body]
  · have unprivileged : (needsPriv (queueGet s q) d && !(queueGet s q).priv) = true := by
      by_contra passes
      exact fails (by rw [refusal, body, if_neg (by decide), if_neg passes])
    simp only [firstChecks, refusal, body, unprivileged, Bool.not_true, Bool.false_eq_true, if_false, if_true]

/-! ### What each command does once a check has failed -/

/-- A command that fails one of the first two checks completes with its status, after an effect on no more than a compartment's being
at a clearing (R469). -/
def Refuses (q : Nat) (run : Started → State) : Prop :=
  ∀ t, uncached t.s → t.d.length = 128 → refusal (queueGet t.s q) t.d ≠ 0 →
    ∃ u, EffectOnly t.s u ∧ run t = finish u [] q t.idx (refusal (queueGet t.s q) t.d) 0 0

/-- A command that completes with the status of its checks where they fail, from a state that differs from its start in the
compartments at a clearing alone. -/
theorem Refuses.of_checks {q : Nat} {run : Started → State} (start : Started → State) (eng : Started → Bool)
    (ends : ∀ t, t.d.length = 128 → firstChecks (start t) q t.d (eng t) ≠ 0 →
      run t = finish (start t) [] q t.idx (firstChecks (start t) q t.d (eng t)) 0 0)
    (effect : ∀ t, uncached t.s → EffectOnly t.s (start t)) : Refuses q run := by
  intro t calm whole fails
  have keeps := effect t calm
  have queue : queueGet (start t) q = queueGet t.s q := queueGet_queues _ _ q (congrArg Qsu.queues keeps.qsu)
  have checks := firstChecks_refused (s := start t) (q := q) (d := t.d) (by rwa [queue]) (eng t)
  rw [queue] at checks
  exact ⟨start t, keeps, checks ▸ ends t whole (checks ▸ fails)⟩

/-- The same from the command's start itself. -/
theorem Refuses.at_start {q : Nat} {run : Started → State} (eng : Started → Bool)
    (ends : ∀ t, t.d.length = 128 → firstChecks t.s q t.d (eng t) ≠ 0 → run t = finish t.s [] q t.idx (firstChecks t.s q t.d (eng t)) 0 0) :
    Refuses q run :=
  .of_checks (fun t => t.s) eng ends fun _ calm => .refl calm

theorem leaveClear_effectOnly {s : State} (calm : uncached s) (comp : Nat) : EffectOnly s (leaveClear s comp) :=
  ⟨calm, rfl, rfl, rfl, rfl, rfl, rfl, rfl, rfl⟩

theorem nopRun_refuses (q : Nat) : Refuses q (nopRun q) :=
  .at_start (fun _ => true) fun t whole _ => by rw [nopRun, if_neg (by omega)]; rfl

theorem moveRun_refuses (q : Nat) : Refuses q (moveRun q) :=
  .of_checks (fun t => leaveClear t.s (queueGet t.s q).comp)
    (fun t => (moveSel (leaveClear t.s (queueGet t.s q).comp) (queueGet t.s q) t.d).isSome) (fun _ _ fails => if_pos fails)
    fun _ calm => leaveClear_effectOnly calm _

theorem launchRun_refuses (q : Nat) : Refuses q (launchRun q) :=
  .of_checks (fun t => leaveClear t.s (queueGet t.s q).comp)
    (fun t => hasComp (queueGet t.s q) && !(compCores (leaveClear t.s (queueGet t.s q).comp) (queueGet t.s q).comp).isEmpty)
    (fun _ _ fails => if_pos fails) fun _ calm => leaveClear_effectOnly calm _

theorem signalRun_refuses (q : Nat) : Refuses q (signalRun q) := .at_start (fun _ => true) fun _ _ fails => if_pos fails

theorem waitRun_refuses (q : Nat) : Refuses q (waitRun q) := .at_start (fun _ => true) fun _ _ fails => if_pos fails

theorem clearRun_refuses (q : Nat) : Refuses q (clearRun q) :=
  .at_start (fun t => bitOf (dWord t.d 1) 0 || hasComp (queueGet t.s q)) fun _ _ fails => if_pos fails

theorem prfRun_refuses (q : Nat) (f : State → Nat → Nat → List Byte → State) : Refuses q (prfRun q f) :=
  .at_start (fun _ => true) fun _ _ fails => if_pos fails

theorem syncRun_refuses (q : Nat) : Refuses q (syncRun q) := .at_start (fun _ => true) fun _ _ fails => if_pos fails

theorem invalRun_refuses (q : Nat) : Refuses q (invalRun q) := .at_start (fun _ => true) fun _ _ fails => if_pos fails

theorem biasRun_refuses (q : Nat) : Refuses q (biasRun q) := .at_start (fun _ => true) fun _ _ fails => if_pos fails

theorem windowRun_refuses (q : Nat) : Refuses q (windowRun q) := .at_start (fun _ => true) fun _ _ fails => if_pos fails

/-! ### The commands, from start to record -/

/-- A command's row answers a well-sized command of the queue that fails one of the first two checks with that check's status. -/
def AnswersRefusal (i : Instr) (s : State) (q : Nat) (d : List Byte) : Prop :=
  d.length = 128 → refusal (queueGet s q) d ≠ 0 → queueRuns i s q (fun t => completes s t q d (refusal (queueGet s q) d) 0 0)

section Turn
variable {s : State} {q : Nat} {d : List Byte} (turn : queueTurn s q d)
include turn

/-- A row whose command refuses so, and may start, answers so. -/
theorem answersRefusal_of_refuses {i : Instr} {accepts : Nat → Bool} {own : State → List Byte → Bool} {run : Started → State}
    (refuses : Refuses q run) (arm : exec i s = withUnit 1024 q (runLive s (fun s => startCmd s q accepts own run)))
    (accepted : accepts (dCmd d) = true) (free : own s d = true) : AnswersRefusal i s q d := by
  intro whole fails
  have same : refusal (queueGet (begunState s q d) q) d = refusal (queueGet s q) d := by rw [queueGet_begunState, refusal_begun]
  obtain ⟨u, effect, ends⟩ := refuses ⟨(queueGet s q).started, d, begunState s q d⟩ (begunState_calm turn) whole (by rwa [same])
  obtain ⟨t, runs, done, -⟩ :=
    queueRuns_completes turn arm accepted free (ends.trans (by rw [same])) effect (P := fun _ => True) fun _ _ => trivial
  exact ⟨t, runs, done⟩

/-- PROOF, RESTORE and RESLICE may start where the ranger serves and no proof runs (R461, R474). -/
theorem prfOwn_serves (serves : rangerUp s = true) : prfOwn s d = true := by
  obtain ⟨-, -, -, -, -, -, noProof, -⟩ := turn
  simp [prfOwn, noProof, serves]

/-- A poisoned descriptor completes as a NOP with ARG_UNREADABLE (R357). -/
theorem nopCmd_poisoned (cmd : dCmd d = 0) (short : d.length < 128) : queueRuns (.nopCmd q) s q (fun t => completes s t q d 0x03 0 0) := by
  have ends : nopRun q ⟨(queueGet s q).started, d, begunState s q d⟩ = finish (begunState s q d) [] q (queueGet s q).started 0x03 0 0 := by
    rw [nopRun, if_pos short]; rfl
  obtain ⟨t, runs, done, -⟩ :=
    queueRuns_completes turn (i := .nopCmd q) (accepts := fun c => c == 0 || decide (13 ≤ c)) (own := fun _ _ => true) rfl
      (by simp [cmd]) rfl ends (.refl (begunState_calm turn)) (P := fun _ => True) fun _ _ => trivial
  exact ⟨t, runs, done⟩

end Turn

end Sys2Proof.Machine

open Sys2Proof Sys2Proof.Machine in
/-- Settles O24: whatever row a command is given by, it fails one of the first two checks as every command does; a poisoned descriptor is
a NOP's. -/
theorem queueCommandsAreChecked : Obligations.QueueCommandsAreChecked := by
  unfold Obligations.QueueCommandsAreChecked
  intro q d s turn k answers commands p listed cmd move launch signal ranger inval
  have answersRefusal : AnswersRefusal p.2 s q d := by
    simp only [commands, List.mem_cons, List.not_mem_nil, or_false] at listed
    have row := @answersRefusal_of_refuses s q d turn
    rcases listed with rfl | rfl | rfl | rfl | rfl | rfl | rfl | rfl | rfl | rfl | rfl | rfl | rfl
    · exact row (nopRun_refuses q) rfl (by simp [cmd]) rfl
    · exact row (moveRun_refuses q) rfl (by simp [cmd]) (move rfl)
    · exact row (launchRun_refuses q) rfl (by simp [cmd]) (launch rfl)
    · exact row (signalRun_refuses q) rfl (by simp [cmd]) (signal rfl)
    · exact row (waitRun_refuses q) rfl (by simp [cmd]) rfl
    · obtain ⟨-, -, -, -, noClear, -⟩ := id turn
      exact row (clearRun_refuses q) rfl (by simp [cmd]) (by simp [clearOwn, noClear])
    · exact row (prfRun_refuses q _) rfl (by simp [cmd]) (prfOwn_serves turn (ranger (by simp)))
    · exact row (prfRun_refuses q _) rfl (by simp [cmd]) (prfOwn_serves turn (ranger (by simp)))
    · exact row (prfRun_refuses q _) rfl (by simp [cmd]) (prfOwn_serves turn (ranger (by simp)))
    · exact row (syncRun_refuses q) rfl (by simp [cmd]) rfl
    · exact row (invalRun_refuses q) rfl (by simp [cmd]) (by simpa [invalOwn] using inval rfl)
    · exact row (biasRun_refuses q) rfl (by simp [cmd]) rfl
    · exact row (windowRun_refuses q) rfl (by simp [cmd]) rfl
  refine ⟨fun whole malformed => ?_, fun body needs plain => ?_, fun nop short => ?_⟩
  · have status := refusal_malformed k malformed
    have done := answersRefusal whole (by rw [status]; decide)
    rwa [status] at done
  · have status := refusal_unprivileged body needs plain
    have done := answersRefusal (bodyOk_length body) (by rw [status]; decide)
    rwa [status] at done
  · obtain ⟨code, i⟩ := p
    obtain rfl : code = 0 := nop
    obtain rfl : i = .nopCmd q := by simpa [commands] using listed
    exact nopCmd_poisoned turn cmd short

end

section
/-! PROOFS. A queue engine's search for work (R322 to R327, R358) where nothing is cached: its reads of host memory, its fetches of one
descriptor, the overrun that parks it, and the ways in which it is woken. -/

namespace Sys2Proof.Machine

/-! ### A search's reads and the queues do not meet -/

theorem descRead_queueSet {s : State} (calm : uncached s) (q : Nat) (v k : Queue) (i : Nat) : descRead (queueSet s q v) k i = descRead s k i :=
  paRead_congr (t := queueSet s q v) calm rfl rfl 0 _ 128

/-- Where nothing is cached and no line is poisoned, no descriptor comes poisoned. -/
theorem descRead_clean {s : State} (calm : uncached s) (k : Queue) (i : Nat) : (descRead s k i).2 = false := cohGet_clean s _ _ _ calm

theorem linkWake_queueSet (s : State) (q : Nat) (v : Queue) (n : Nat) : linkWake (queueSet s q v) n = queueSet (linkWake s n) q v := by
  unfold linkWake
  dsimp only
  rw [apply_ite (queueSet · q v)]
  rfl

theorem d2h_queueSet (s : State) (q : Nat) (v : Queue) (kind line : Nat) : d2h (queueSet s q v) kind line = queueSet (d2h s kind line) q v :=
  congrArg (emit · _) (linkWake_queueSet s q v (cacheLink s line))

theorem biasSnoop_queueSet (s : State) (q : Nat) (v : Queue) (kind line : Nat) :
    biasSnoop (queueSet s q v) kind line = queueSet (biasSnoop s kind line) q v := by
  have sends : emit (linkWake (queueSet s q v) (cacheLink s line)) (.bisnp kind line) =
      queueSet (emit (linkWake s (cacheLink s line)) (.bisnp kind line)) q v :=
    congrArg (emit · _) (linkWake_queueSet s q v (cacheLink s line))
  exact (congrArg (if hostBias s line && hostUp s then · else queueSet s q v) sends).trans (apply_ite (queueSet · q v) _ _ _).symm

theorem readNote_queueSet (s : State) (q : Nat) (v : Queue) (line : Nat) : readNote (queueSet s q v) line = queueSet (readNote s line) q v := by
  unfold readNote
  rw [biasSnoop_queueSet, d2h_queueSet]
  split
  · exact (apply_ite (queueSet · q v) _ _ _).symm
  · rfl

theorem descNote_queueSet (s : State) (q : Nat) (v k : Queue) (i : Nat) : descNote (queueSet s q v) k i = queueSet (descNote s k i) q v := by
  unfold descNote readNotes
  generalize List.range _ = l
  induction l generalizing s with
  | nil => rfl
  | cons j l ih => rw [List.foldl_cons, List.foldl_cons, readNote_queueSet, ih]

theorem descNote_same {s : State} (calm : uncached s) (k : Queue) (i : Nat) : sameWork s (descNote s k i) := (readNotes_sent s _ _).same calm

/-! ### Fetches (R323, R324, R328) -/

/-- A queue that has fetched all that its TAIL announced is idle. -/
theorem fetchLoop_done (n : Nat) (s : State) (q : Nat) {k : Queue} (done : k.tail = k.fetched) :
    fetchLoop (n + 1) (queueSet s q k) q = queueSet s q { k with st := .idle } := by
  simp [fetchLoop, qSettle, done]

section Fetch
variable {s : State} (calm : uncached s) (n q : Nat) {k : Queue} (more : k.fetched < k.tail) (room : k.buf = [])
include calm more room

/-- A descriptor that carries its check words enters the buffer. -/
theorem fetchLoop_takes (ok : descOk (descRead s k k.fetched).1 k.fetched k.rlog = true) :
    fetchLoop (n + 1) (queueSet s q k) q =
      fetchLoop n (queueSet (descNote s k k.fetched) q { k with buf := [(descRead s k k.fetched).1], fetched := k.fetched + 1 }) q := by
  simp only [fetchLoop, queueGet_queueSet_same, descRead_queueSet calm, descRead_clean calm, descNote_queueSet, queueSet_queueSet, ok, room]
  simp [Nat.not_le.mpr more]

/-- One that does not is put under check. -/
theorem fetchLoop_checks (bad : descOk (descRead s k k.fetched).1 k.fetched k.rlog = false) :
    fetchLoop (n + 1) (queueSet s q k) q = queueSet (descNote s k k.fetched) q { k with tries := 1, st := .active } := by
  simp only [fetchLoop, queueGet_queueSet_same, descRead_queueSet calm, descRead_clean calm, descNote_queueSet, queueSet_queueSet, bad]
  simp [room, qSettle, Nat.not_le.mpr more, more.ne']

end Fetch

/-- The ring's one new descriptor, which carries its check words, is fetched, and the queue is idle. -/
theorem fetchLoop_one {s : State} (calm : uncached s) (n q : Nat) {k : Queue} (one : k.tail = k.fetched + 1) (room : k.buf = [])
    (ok : descOk (descRead s k k.fetched).1 k.fetched k.rlog = true) :
    fetchLoop (n + 2) (queueSet s q k) q = queueSet (descNote s k k.fetched) q
      { k with buf := [(descRead s k k.fetched).1], fetched := k.fetched + 1, st := .idle } := by
  rw [fetchLoop_takes calm (n + 1) q (by omega) room ok, fetchLoop_done n _ q (k := { k with buf := _, fetched := k.fetched + 1 }) one]

/-! ### What an event and a wake leave of the queue engines -/

theorem queueGet_writeEventQ (s : State) (code noq queue seq ctx a0 a1 a2 q : Nat) :
    queueGet (writeEventQ s code noq queue seq ctx a0 a1 a2) q = queueGet s q :=
  queueGet_queues _ _ q (congrArg (fun t : State => t.qsu.queues) (writeEventQ_leaves s code noq queue seq ctx a0 a1 a2).rest :)

theorem writeEventQ_evOn (s : State) (code noq queue seq ctx a0 a1 a2 : Nat) :
    (writeEventQ s code noq queue seq ctx a0 a1 a2).qsu.evOn = s.qsu.evOn :=
  (congrArg (fun t : State => t.qsu.evOn) (writeEventQ_leaves s code noq queue seq ctx a0 a1 a2).rest :)

theorem sameWork.cores {s t : State} (work : sameWork s t) : t.cores = s.cores := (congrArg State.cores work.2.1 :)
theorem sameWork.movers {s t : State} (work : sameWork s t) : t.movers = s.movers := (congrArg State.movers work.2.1 :)
theorem sameWork.errs {s t : State} (work : sameWork s t) : t.errs = s.errs := (congrArg State.errs work.2.1 :)
theorem sameWork.pending {s t : State} (work : sameWork s t) : t.pending = s.pending := (congrArg State.pending work.2.1 :)

theorem fetchLoop_evOn (n : Nat) (s : State) (q : Nat) : (fetchLoop n s q).qsu.evOn = s.qsu.evOn := by
  induction n generalizing s with
  | zero => rfl
  | succ n ih =>
    have note : (descNote s (queueGet s q) (queueGet s q).fetched).qsu.evOn = s.qsu.evOn :=
      (congrArg (fun t : State => t.qsu.evOn) (readNotes_sent s _ _).1 :)
    unfold fetchLoop
    dsimp only
    split
    · rfl
    split
    · exact (ih _).trans note
    split
    · exact (ih _).trans note
    · exact note

/-- A wake does not turn the event ring on or off. -/
theorem queueWake_evOn (s : State) (q : Nat) : (queueWake s q).qsu.evOn = s.qsu.evOn := by
  unfold queueWake
  dsimp only
  split
  · rfl
  split
  · rfl
  split
  · rfl
  split
  · exact writeEventQ_evOn ..
  split
  · exact writeEventQ_evOn ..
  split
  · exact fetchLoop_evOn 9 _ q
  · exact fetchLoop_evOn 9 _ q

/-! ### A wake (R323 to R327) -/

/-- The queue once its slot's line has been read (R323). -/
def lineSeen (s : State) (k : Queue) : Queue := { k with seen := slotLine s k }

/-- TAIL of the slot. -/
def slotTail (s : State) (k : Queue) : Nat := fieldAt (slotLine s k) (k.slot % 64) 8

/-- HEAD of the slot. -/
def slotHead (s : State) (k : Queue) : Nat := fieldAt (slotLine s k) (k.slot % 64 + 8) 8

/-- Descriptors that the slot's TAIL announces beyond those fetched. -/
def tailAhead (s : State) (k : Queue) : Nat := (slotTail s k + 2 ^ 64 - k.fetched % 2 ^ 64) % 2 ^ 64

/-- Completion records beyond the slot's HEAD. -/
def headBehind (s : State) (k : Queue) : Nat := (k.completed + 2 ^ 64 - slotHead s k) % 2 ^ 64

theorem tailAhead_zero {s : State} {k : Queue} (tail : slotTail s k = k.fetched % 2 ^ 64) : tailAhead s k = 0 := by
  unfold tailAhead; omega

theorem tailAhead_one {s : State} {k : Queue} (tail : slotTail s k = (k.fetched + 1) % 2 ^ 64) : tailAhead s k = 1 := by
  unfold tailAhead; omega

/-- An overrun parks its queue and writes an event, beside the cores and the movers (R326, R327). -/
theorem parkOverrun_parks {s : State} (calm : uncached s) (q : Nat) (k : Queue) (tail head : Nat) :
    let t := parkOverrun (queueSet s q k) q tail head
    sameWork s t ∧ queueGet t q = { k with st := .overrun } := by
  have parked := queueSet_same (queueSet s q k) q { k with st := .overrun } calm
  refine ⟨?_, ?_⟩
  · unfold parkOverrun
    rw [queueGet_queueSet_same]
    exact (queueSet_same s q k calm).trans (parked.trans (writeEventQ_same _ _ _ _ _ _ _ _ _ parked.1))
  · unfold parkOverrun
    rw [queueGet_writeEventQ, queueGet_queueSet_same, queueGet_queueSet_same]

/-- An enabled queue whose engines work, with no clearing under way, is served. -/
theorem engineServes {t : State} {k : Queue} (live : qLive t = true) (clears : t.qsu.clears = []) (on : k.en = true) (q : Nat) :
    (!k.en || !qLive t || clearCovers t q) = false := by
  simp [on, live, clearCovers, clears]

section Engine
variable {s : State} {q : Nat} (fetches : queueFetches s q)
include fetches

theorem queueFetches_calm : uncached s := by
  obtain ⟨-, -, -, -, -, calm, -⟩ := fetches
  exact calm

/-- Its complex's engines work, no clearing is under way, and the queue is enabled. -/
theorem queueFetches_works : qLive s = true ∧ s.qsu.clears = [] ∧ (queueGet s q).en = true := by
  obtain ⟨-, -, run, hold, clears, -, on, -⟩ := fetches
  exact ⟨by simp [qLive, inRun, run, hold], clears, on⟩

/-- The engine serves its queue with a descriptor under check as without. -/
theorem engineServes_checking (n : Nat) :
    (!(queueGet s q).en || !qLive (queueSet s q { queueGet s q with tries := n }) ||
      clearCovers (queueSet s q { queueGet s q with tries := n }) q) = false := by
  obtain ⟨live, clears, on⟩ := queueFetches_works fetches
  exact engineServes (t := queueSet s q { queueGet s q with tries := n }) live clears on q

/-- A command on the queue that works on no more than the queue engines' own is its operation. -/
theorem exec_onQueue {i : Instr} {f : State → State} (v : Queue) {t : State}
    (arm : exec i (queueSet s q v) = withUnit 1024 q (runLive (queueSet s q v) f)) (runs : f (queueSet s q v) = t) (work : sameWork s t) :
    exec i (queueSet s q v) = .next t := by
  obtain ⟨live, hq, -⟩ := fetches
  exact arm.trans (withUnit_calm 1024 q (queueSet s q v) t f hq live runs work.errs work.pending)

/-- What a wake comes to: an overrun of TAIL, one of HEAD, or a search. -/
theorem queueWake_judges : queueWake s q =
    let k := queueGet s q
    if 2 ^ k.rlog < tailAhead s k then parkOverrun (queueSet s q (lineSeen s k)) q (slotTail s k) 0
    else if 2 ^ k.clog < headBehind s k then parkOverrun (queueSet s q (lineSeen s k)) q (slotTail s k) (slotHead s k)
    else
      let t := fetchLoop 9 (queueSet s q { lineSeen s k with tail := k.fetched + tailAhead s k, cplHead := slotHead s k }) q
      if k.st = .cplFull ∧ cplRoom (queueGet t q) = false ∧ !(queueGet t q).buf.isEmpty then queueSet t q { queueGet t q with st := .cplFull }
      else t := by
  obtain ⟨live, clears, on⟩ := queueFetches_works fetches
  have serves := engineServes live clears on q
  obtain ⟨-, -, -, -, -, -, -, still, ready, within, -⟩ := fetches
  unfold queueWake
  dsimp only
  rw [if_neg (by simp [serves]), if_neg (by simp [still]), if_neg (by simp [ready, within])]
  rfl

theorem exec_queueWake : exec (.queueWake q) s = .next (queueWake s q) := by
  have work := queueWake_same s q (queueFetches_calm fetches)
  obtain ⟨live, hq, -⟩ := fetches
  exact withUnit_calm 1024 q s _ _ hq live rfl work.errs work.pending

/-- A search with both counts in range, which finds the completion ring no fuller than before. -/
theorem exec_queueWake_searches {t : State} (tail : tailAhead s (queueGet s q) ≤ 2 ^ (queueGet s q).rlog)
    (head : headBehind s (queueGet s q) ≤ 2 ^ (queueGet s q).clog)
    (found : fetchLoop 9 (queueSet s q { lineSeen s (queueGet s q) with
      tail := (queueGet s q).fetched + tailAhead s (queueGet s q), cplHead := slotHead s (queueGet s q) }) q = t)
    (open_ : (queueGet s q).st ≠ .cplFull ∨ (queueGet t q).buf = []) : exec (.queueWake q) s = .next t := by
  rw [exec_queueWake fetches, queueWake_judges fetches]
  dsimp only
  rw [if_neg (by omega), if_neg (by omega), found, if_neg (by rcases open_ with h | h <;> simp [h])]

/-- An overrun found by a wake parks the queue. -/
theorem exec_queueWake_parks {tail head : Nat} (parks : queueWake s q = parkOverrun (queueSet s q (lineSeen s (queueGet s q))) q tail head) :
    ∃ t, exec (.queueWake q) s = .next t ∧ queueGet t q = { lineSeen s (queueGet s q) with st := .overrun } ∧
      t.cores = s.cores ∧ t.movers = s.movers := by
  obtain ⟨work, parked⟩ := parkOverrun_parks (queueFetches_calm fetches) q (lineSeen s (queueGet s q)) tail head
  exact ⟨_, (exec_queueWake fetches).trans (congrArg _ parks), parked, work.cores, work.movers⟩

/-- A wake that comes while a descriptor is under check is kept (R323). -/
theorem exec_queueWake_kept {n : Nat} (checking : 0 < n) : exec (.queueWake q) (queueSet s q { queueGet s q with tries := n }) =
    .next (queueSet s q { queueGet s q with tries := n, kept := true }) := by
  refine exec_onQueue fetches _ (f := (queueWake · q)) rfl ?_ (queueSet_same s q _ (queueFetches_calm fetches))
  have serves := engineServes_checking fetches n
  unfold queueWake
  rw [queueGet_queueSet_same]
  dsimp only
  rw [serves, if_neg (by decide), if_pos (by omega), queueSet_queueSet]

/-! ### The descriptor under check (R324) -/

/-- The queue with its descriptor under check no more. -/
theorem queueFetches_unchecked : { queueGet s q with tries := 0 } = queueGet s q := by
  obtain ⟨-, -, -, -, -, -, -, still, -⟩ := fetches
  rw [← still]

/-- A re-read, by the count of the reads that have failed. -/
theorem descReread_judges {n : Nat} (checking : 0 < n) : descReread (queueSet s q { queueGet s q with tries := n }) q =
    let k := queueGet s q
    let t := descNote s k k.fetched
    if descOk (descRead s k k.fetched).1 k.fetched k.rlog then queueWake (fetchLoop 9 (queueSet s q { k with tries := 0, kept := false }) q) q
    else if n < 8 then queueSet t q { k with tries := n + 1 }
    else keptWake (writeEventQ (queueSet t q { k with tries := 0, st := .notReady }) 0x01 0 q (k.fetched % 2 ^ 15) 0 k.fetched 0 0) q := by
  have calm := queueFetches_calm fetches
  have serves := engineServes_checking fetches n
  have under : (n == 0) = false := by simp; omega
  have ring (i : Nat) : descRead (queueSet s q { queueGet s q with tries := n }) { queueGet s q with tries := n } i = descRead s (queueGet s q) i :=
    descRead_queueSet calm q _ _ i
  have note (i : Nat) : descNote (queueSet s q { queueGet s q with tries := n }) { queueGet s q with tries := n } i =
      queueSet (descNote s (queueGet s q) i) q { queueGet s q with tries := n } := descNote_queueSet s q _ _ i
  unfold descReread
  rw [queueGet_queueSet_same]
  dsimp only
  rw [serves, under, ring, note, descRead_clean calm]
  simp only [queueSet_queueSet, Bool.false_or, Bool.false_eq_true, if_false]

/-- A re-read whose descriptor does not carry its check words leaves it under check (R324). -/
theorem exec_descReread_again {n : Nat} (checking : 0 < n) (few : n < 8)
    (bad : descOk (descRead s (queueGet s q) (queueGet s q).fetched).1 (queueGet s q).fetched (queueGet s q).rlog = false) :
    exec (.descReread q) (queueSet s q { queueGet s q with tries := n }) =
      .next (queueSet (descNote s (queueGet s q) (queueGet s q).fetched) q { queueGet s q with tries := n + 1 }) := by
  have note := descNote_same (queueFetches_calm fetches) (queueGet s q) (queueGet s q).fetched
  refine exec_onQueue fetches _ (f := (descReread · q)) rfl ?_ (note.trans (queueSet_same _ q _ note.1))
  rw [descReread_judges fetches checking]
  dsimp only
  rw [if_neg (by simp [bad]), if_pos few]

/-- The ninth failed read parks the queue (R324). -/
theorem exec_descReread_parks (unwoken : (queueGet s q).kept = false)
    (bad : descOk (descRead s (queueGet s q) (queueGet s q).fetched).1 (queueGet s q).fetched (queueGet s q).rlog = false) :
    ∃ t, exec (.descReread q) (queueSet s q { queueGet s q with tries := 8 }) = .next t ∧
      queueGet t q = { queueGet s q with st := .notReady } ∧ t.cores = s.cores ∧ t.movers = s.movers := by
  have note := descNote_same (queueFetches_calm fetches) (queueGet s q) (queueGet s q).fetched
  generalize after : descNote s (queueGet s q) (queueGet s q).fetched = u at note
  have parked := note.trans (queueSet_same u q { queueGet s q with tries := 0, st := .notReady } note.1)
  generalize event : writeEventQ (queueSet u q { queueGet s q with tries := 0, st := .notReady }) 0x01 0 q
    ((queueGet s q).fetched % 2 ^ 15) 0 (queueGet s q).fetched 0 0 = t
  have work : sameWork s t := event ▸ parked.trans (writeEventQ_same _ _ _ _ _ _ _ _ _ parked.1)
  have queue : queueGet t q = { queueGet s q with tries := 0, st := .notReady } := by
    rw [← event, queueGet_writeEventQ, queueGet_queueSet_same]
  refine ⟨t, exec_onQueue fetches _ (f := (descReread · q)) rfl ?_ work, ?_, work.cores, work.movers⟩
  · rw [descReread_judges fetches (by decide)]
    dsimp only
    rw [if_neg (by simp [bad]), if_neg (by decide), after, event, keptWake, queue]
    simp [unwoken]
  · rw [queue]
    exact congrArg (fun k : Queue => { k with st := .notReady }) (queueFetches_unchecked fetches)

/-- A re-read that finds the ring's one new descriptor fetches it, and the queue looks for more work. -/
theorem exec_descReread_takes (one : (queueGet s q).tail = (queueGet s q).fetched + 1)
    (ok : descOk (descRead s (queueGet s q) (queueGet s q).fetched).1 (queueGet s q).fetched (queueGet s q).rlog = true) :
    exec (.descReread q) (queueSet s q { queueGet s q with tries := 1 }) =
      .next (queueWake (queueSet (descNote s (queueGet s q) (queueGet s q).fetched) q { queueGet s q with
        fetched := (queueGet s q).fetched + 1, buf := [(descRead s (queueGet s q) (queueGet s q).fetched).1], st := .idle, kept := false }) q) := by
  have calm := queueFetches_calm fetches
  have note := descNote_same calm (queueGet s q) (queueGet s q).fetched
  have taken := note.trans (queueSet_same _ q { queueGet s q with
    fetched := (queueGet s q).fetched + 1, buf := [(descRead s (queueGet s q) (queueGet s q).fetched).1], st := .idle, kept := false } note.1)
  refine exec_onQueue fetches _ (f := (descReread · q)) rfl ?_ (taken.trans (queueWake_same _ q taken.1))
  have unchecked : { queueGet s q with tries := 0, kept := false } = { queueGet s q with kept := false } :=
    congrArg (fun k : Queue => { k with kept := false }) (queueFetches_unchecked fetches)
  rw [descReread_judges fetches (by decide)]
  dsimp only
  rw [if_pos ok, unchecked]
  obtain ⟨-, -, -, -, -, -, -, -, -, -, room⟩ := fetches
  exact congrArg (queueWake · q) (fetchLoop_one (k := { queueGet s q with kept := false }) calm 7 q one room ok)

/-! ### The fallback poll (R323) -/

/-- With the event ring off, the poll wakes the queues alone: the one queue, where its slot's line has changed. -/
theorem exec_fallbackPoll_one (period : regField s 0x30000 15 0 ≠ 0) (off : s.qsu.evOn = false) (only : s.qsu.queues = [(q, queueGet s q)]) :
    exec .fallbackPoll s = .next (if slotLine s (queueGet s q) ≠ (queueGet s q).seen then queueWake s q else s) := by
  have calm := queueFetches_calm fetches
  obtain ⟨live, -, -, hold, -, -, on, -⟩ := fetches
  have woken := queueWake_same s q calm
  have polled (t : State) (off : t.qsu.evOn = false) : headUpdate t = t := by simp [headUpdate, off]
  have poll : fallbackPoll s = headUpdate (if slotLine s (queueGet s q) ≠ (queueGet s q).seen then queueWake s q else s) := by
    simp [fallbackPoll, period, hold, only, on]
  refine runLive_next s _ _ live (poll.trans (polled _ ?_)) ?_ ?_
  · split
    · exact (queueWake_evOn s q).trans off
    · exact off
  · split
    · exact woken.errs
    · rfl
  · split
    · exact woken.pending
    · rfl

end Engine

end Sys2Proof.Machine

open Sys2Proof Sys2Proof.Machine in
/-- Settles O28: a wake by the counts of its queue's slot, a re-read by its descriptor's check words, and the poll by its queue's line. -/
theorem queuesFetch : Obligations.QueuesFetch := by
  unfold Obligations.QueuesFetch
  intro q s fetches k line tail head seen headOk d under
  have calm := queueFetches_calm fetches
  have room : k.buf = [] := by
    obtain ⟨-, -, -, -, -, -, -, -, -, -, room⟩ := id fetches
    exact room
  refine ⟨fun same within => ?_, fun one within notFull ok => ?_, fun one within notFull bad => ?_, fun far => ?_, fun far same => ?_,
    fun n checking few bad => exec_descReread_again fetches checking few bad, fun n checking => exec_queueWake_kept fetches checking,
    fun bad unwoken => exec_descReread_parks fetches unwoken bad, fun ok one => exec_descReread_takes fetches one ok,
    fun period off only => ?_⟩
  · have ahead : tailAhead s k = 0 := tailAhead_zero same
    refine exec_queueWake_searches fetches (by rw [ahead]; exact Nat.zero_le _) within ?_ (.inr (by rw [queueGet_queueSet_same]; exact room))
    rw [ahead]
    exact fetchLoop_done 8 s q (k := { seen with tail := k.fetched }) rfl
  · have ahead : tailAhead s k = 1 := tailAhead_one one
    refine exec_queueWake_searches fetches (by rw [ahead]; exact Nat.one_le_two_pow) within ?_ (.inl notFull)
    rw [ahead]
    exact fetchLoop_one (k := { seen with tail := k.fetched + 1 }) calm 7 q rfl room ok
  · have ahead : tailAhead s k = 1 := tailAhead_one one
    refine exec_queueWake_searches fetches (by rw [ahead]; exact Nat.one_le_two_pow) within ?_ (.inl notFull)
    rw [ahead]
    exact fetchLoop_checks (k := { seen with tail := k.fetched + 1 }) calm 8 q (Nat.lt_succ_self _) room bad
  · exact exec_queueWake_parks fetches ((queueWake_judges fetches).trans (if_pos far))
  · have ahead : tailAhead s k = 0 := tailAhead_zero same
    exact exec_queueWake_parks fetches ((queueWake_judges fetches).trans ((if_neg (by rw [ahead]; exact Nat.not_lt_zero _)).trans (if_pos far)))
  · rw [exec_fallbackPoll_one fetches period off only]
    exact ⟨fun changed => by rw [if_pos changed], fun unchanged => by rw [if_neg (not_not.mpr unchanged)]⟩

end

section
/-! PROOFS. The host port's links (R360 to R362, R373 to R375, R378, R379): how a link trains, what an event changes of a trained link, and that a
link that has not trained meets none. -/

namespace Sys2Proof.Machine

/-! ### Training (R360, R361, R378) -/

/-- The complex with link `n` up in a mode: IDE, its key and its containment mode stay where the link was up before. -/
def linkUp (s : State) (n width rate flit neg : Nat) : State :=
  linkPut s n (fun l =>
    ⟨true, l.ide && l.trained, width, width, rate, flit, 0, if l.trained then l.key else 0, l.skid && l.trained, neg != 0⟩)

section Training
variable {s : State} {width rate flit : Nat} (n neg : Nat)

theorem linkTrain_paired (released : s.life.released = true) (lanes : width ≤ 4) (slow : 1 ≤ rate) (fast : rate ≤ 6) (flits : 1 ≤ flit)
    (known : flit ≤ 3) (pairs : rate = 6 ↔ 2 ≤ flit) : linkTrain s n width rate flit neg = linkUp s n width rate flit neg := by
  have mode : (fun l : Link => ({ (if l.trained then l else link0) with
        trained := true, width := width, l0p := width, rate := rate, flit := flit, pm := 0, neg := neg != 0 } : Link)) =
      (fun l => ⟨true, l.ide && l.trained, width, width, rate, flit, 0, if l.trained then l.key else 0, l.skid && l.trained, neg != 0⟩) := by
    funext l
    cases trained : l.trained <;> simp [link0]
  have meets : (s.life.released && decide (width ≤ 4) && decide (1 ≤ rate) && decide (rate ≤ 6) && decide (1 ≤ flit) && decide (flit ≤ 3) &&
      (decide (rate = 6) == decide (2 ≤ flit))) = true := by
    simp [released, lanes, slow, fast, flits, known, pairs]
  rw [linkTrain, if_pos meets, mode, linkUp]

/-- A rate and a flit that R361 does not pair leave the link as it was. -/
theorem linkTrain_unpaired (apart : ¬(rate = 6 ↔ 2 ≤ flit)) : linkTrain s n width rate flit neg = s := by
  have fails : (decide (rate = 6) == decide (2 ≤ flit)) = false := by simpa using apart
  rw [linkTrain, fails, Bool.and_false, if_neg Bool.false_ne_true]

end Training

section Commands
variable {s : State} {n : Nat} (live : Live s) (port : n < 4)
include live port

theorem exec_linkTrained {width rate flit neg : Nat} (reach : s.host.hold = false)
    (trains : linkTrain s n width rate flit neg = linkUp s n width rate flit neg) :
    exec (.linkTrained n width rate ⟨flit, neg⟩) s = .next (linkUp s n width rate flit neg) :=
  withUnit_calm 4 n s _ _ port live ((if_neg (by simp [reach])).trans trains) rfl rfl

/-- No link trains in HOLD, and none in a mode that leaves the complex as it was. -/
theorem exec_linkTrained_not {width rate flit neg : Nat} (stays : linkTrain s n width rate flit neg = s) :
    exec (.linkTrained n width rate ⟨flit, neg⟩) s = .next s :=
  withUnit_calm 4 n s s _ port live (by dsimp only; rw [stays, ite_self]) rfl rfl

theorem exec_linkUpAfterLoss {width rate flit neg : Nat} (untrained : (linkGet s n).trained = false)
    (trains : linkTrain (linkConfigReset s n) n width rate flit neg = linkUp (linkConfigReset s n) n width rate flit neg) :
    exec (.linkUpAfterLoss n width rate ⟨flit, neg⟩) s = .next (linkUp (linkConfigReset s n) n width rate flit neg) :=
  withUnit_calm 4 n s _ _ port live ((if_neg (by simp [untrained])).trans trains) rfl rfl

/-! ### Events on a link -/

/-- An event that a trained link meets changes that link alone. -/
theorem linkWhen_meets {p : Link → Bool} {f : Link → Link} (trained : (linkGet s n).trained = true) (meets : p (linkGet s n) = true) :
    withUnit 4 n (runLive s (fun s => linkWhen s n p f)) = .next (linkPut s n (fun _ => f (linkGet s n))) :=
  withUnit_calm 4 n s _ _ port live (if_pos (by rw [trained, meets]; rfl)) rfl rfl

/-- A link that has not trained meets no event. -/
theorem exec_untrained (untrained : (linkGet s n).trained = false) {key skid : Nat} {i : Instr}
    (event : i ∈ [Instr.ideKeyProgram ⟨n, key, skid⟩, .recoveryEntry n, .linkRecoveryReturn n 0, .l0pNarrow n, .l0pWiden n, .aspmL1Entry n,
      .aspmL1Exit n, .dlDown n, .recoveryTimeout n, .viral n]) : exec i s = .next s := by
  have down : ¬((linkGet s n).trained = true) := by simp [untrained]
  have past : ¬(((linkGet s n).trained && (linkGet s n).pm == 3) = true) := by simp [untrained]
  have still {f : State → State} (same : f s = s) : withUnit 4 n (runLive s f) = .next s := withUnit_calm 4 n s s f port live same rfl rfl
  have unmet {p : Link → Bool} {f : Link → Link} : withUnit 4 n (runLive s (fun s => linkWhen s n p f)) = .next s :=
    still (if_neg (by simp [untrained]))
  simp only [List.mem_cons, List.not_mem_nil, or_false] at event
  rcases event with rfl | rfl | rfl | rfl | rfl | rfl | rfl | rfl | rfl | rfl
  exacts [unmet, unmet, still (if_neg past), unmet, unmet, unmet, unmet, still (if_neg down), still (if_neg past), still (if_neg down)]

end Commands

/-! ### Recovery (R379) -/

/-- A link goes on in L0, or in L0p where it is narrowed. -/
theorem pmUp_eq (l : Link) : pmUp l = if l.l0p < l.width then 1 else 0 := by
  simp [pmUp, bnat]

/-- A link back from Recovery, in L0 or narrowed, the return and its replays counted. -/
def recovered (s : State) (n replays : Nat) : State :=
  regCount (regCount (linkPut s n (fun l => { l with pm := pmUp l })) 0xB0040 47 32 1) 0xB0040 31 0 replays

theorem exec_linkRecoveryReturn {s : State} {n : Nat} (live : Live s) (port : n < 4) (trained : (linkGet s n).trained = true)
    (recovering : (linkGet s n).pm = 3) (replays : Nat) : exec (.linkRecoveryReturn n replays) s = .next (recovered s n replays) :=
  withUnit_calm 4 n s _ _ port live (if_pos (by simp [trained, recovering])) rfl rfl

/-- A count that stays at its largest value. -/
theorem regField_regCount_same (s : State) (o : Nat) {hi : Nat} (lo k : Nat) (fits : hi < 64) :
    regField (regCount s o hi lo k) o hi lo = satAdd (hi + 1 - lo) (regField s o hi lo) k :=
  (regField_regSet_same s o hi lo _ fits).trans (Nat.mod_eq_of_lt (satAdd_lt _ _ _))

section Recovered
variable (s : State) (n r : Nat)

theorem linkGet_recovered : linkGet (recovered s n r) n =
    { linkGet s n with pm := if (linkGet s n).l0p < (linkGet s n).width then 1 else 0 } := by
  rw [← pmUp_eq]
  exact tabGet_tabSet_same _ _ _ _

theorem recovered_recoveries : regField (recovered s n r) 0xB0040 47 32 = satAdd 16 (regField s 0xB0040 47 32) 1 :=
  (regField_regSet_bits _ _ _ _ _ _ _ (by decide) (by decide) (by decide)).trans (regField_regCount_same _ _ _ _ (by decide))

theorem recovered_replays : regField (recovered s n r) 0xB0040 31 0 = satAdd 32 (regField s 0xB0040 31 0) r := by
  have before : regField (regCount (linkPut s n (fun l => { l with pm := pmUp l })) 0xB0040 47 32 1) 0xB0040 31 0 = regField s 0xB0040 31 0 :=
    regField_regSet_bits _ _ _ _ _ _ _ (by decide) (by decide) (by decide)
  rw [recovered, regField_regCount_same _ _ _ _ (by decide), before]

theorem recovered_uncommitted : regField (recovered s n r) 0xB0040 63 48 = regField s 0xB0040 63 48 :=
  (regField_regSet_bits _ _ _ _ _ _ _ (by decide) (by decide) (by decide)).trans
    (regField_regSet_bits _ _ _ _ _ _ _ (by decide) (by decide) (by decide))

theorem regGet_recovered_ne {a : Nat} (other : a ≠ 0xB0040) : regGet (recovered s n r) a = regGet s a :=
  (regGet_regSet_ne _ _ _ _ other).trans (regGet_regSet_ne _ _ _ _ other)

end Recovered

end Sys2Proof.Machine
end

section
/-! PROOFS. The loss of the host link (R315, R375, R376): HOLD, the floor lines that go, and the end of what needs the host. -/

namespace Sys2Proof.Machine

/-! ### Floor lines leave the slices (R292, R376) -/

section Drop
variable {s : State} (quiet : s.coh.ev = [])
include quiet

/-- The one line of the slices, in the floor, written and in no L1, goes with its directory entry and the host's state of it. -/
theorem floorDrop_only {g line : Nat} {w : L2Way} (only : s.coh.l2 = [(l2key g line 0, w)]) (floor : lineTier line = 2)
    (tag : w.tag = line / 4096) (unpinned : w.pinned = false) (valid : w.st ≠ 0) (unseen : w.pres = 0) :
    floorDrop s = withCoh s { s.coh with l2 := [], dir := s.coh.dir.filter (fun p => lineTier p.1 != 2), hostSt := [] } := by
  have slice : l2key g line 0 / 65536 = g := l2key_slice g line (by decide)
  have named : w.tag * 4096 + l2key g line 0 / 16 % 4096 = line := by rw [tag]; unfold l2key; omega
  have goes : w.st ≠ 0 ∧ lineTier line = 2 := ⟨valid, floor⟩
  have gone : l2drop (backInval s g line) g line = withCoh s { s.coh with l2 := [] } := by
    have unseen_ : backInval s g line = s := backInval_only (s := s) (c := s.coh) only tag unseen valid
    rw [unseen_]
    exact l2drop_only (s := s) (c := s.coh) only tag unpinned valid
  simp only [floorDrop, only, List.foldl_cons, List.foldl_nil, slice, named, if_pos goes, gone, withCoh_coh, with_withCoh, quiet, List.filter_nil]

/-- Slices and homes that hold nothing lose nothing. -/
theorem floorDrop_nothing (slices : s.coh.l2 = []) (dir : s.coh.dir = []) (host : s.coh.hostSt = []) : floorDrop s = s := by
  simp only [floorDrop, slices, List.foldl_nil, quiet, dir, List.filter_nil]
  rw [← quiet, ← slices, ← dir, ← host]

end Drop

/-! ### The declaration (R375, R376) -/

/-- In HOLD a change of the topology page is counted and reported to no one. -/
theorem topoChange_hold {s : State} (hold : s.host.hold = true) :
    topoChange s = { s with qsu := { s.qsu with topoGen := (s.qsu.topoGen + 2) % 2 ^ 64 } } := by
  simp [topoChange, writeEvent, writeEventQ, hold]

/-- The complex in HOLD from RUN, with no floor line left in its slices. -/
def inHold (s : State) (n cause : Nat) : State :=
  { s with
    coh := coh0
    host := { s.host with
      links := tabSet (fun _ => link0) s.host.links n link0, hdm := tabSet (fun _ => 0) s.host.hdm n 0
      hpos := tabSet (fun _ => 0) s.host.hpos n 0, fns := tabSet (fun _ => fnCfg0) s.host.fns n fnCfg0, again := List.range 4
      msixEn := if n = 0 then false else s.host.msixEn, fmask := if n = 0 then false else s.host.fmask
      hold := true, cause := cause, link := n, ra := [], lastRd := 0 }
    qsu := { s.qsu with
      queues := s.qsu.queues.map (fun p => (p.1, if p.2.en then { p.2 with st := .hold } else p.2))
      topoGen := (s.qsu.topoGen + 2) % 2 ^ 64 } }

/-- What a link's loss resets, the primary function's interrupts among it (R378). -/
theorem linkConfigReset_eq (s : State) (n : Nat) : linkConfigReset s n = { s with host := { s.host with
    hdm := tabSet (fun _ => 0) s.host.hdm n 0, hpos := tabSet (fun _ => 0) s.host.hpos n 0, fns := tabSet (fun _ => fnCfg0) s.host.fns n fnCfg0
    msixEn := if n = 0 then false else s.host.msixEn, fmask := if n = 0 then false else s.host.fmask } } := by
  unfold linkConfigReset
  by_cases primary : n = 0 <;> simp [primary]

section Declared
variable {s : State} {n g line : Nat} {w : L2Way}

/-- From RUN the loss of a link is noted as an error of its record, and the complex is in HOLD. -/
theorem linkLose_run (cause : Nat) (run : mode s = 3) (reach : s.host.hold = false) (floor : lineTier line = 2) (tag : w.tag = line / 4096)
    (unpinned : w.pinned = false) (owned : w.st = 2) (unseen : w.pres = 0)
    (coh : s.coh = { coh0 with l2 := [(l2key g line 0, w)], dir := [(line, ⟨2, g, 0⟩)], hostSt := [(line, 2)] }) :
    linkLose s n cause = noteErr (inHold s n cause) (0xA88 + n) 3 0 0 := by
  have valid : w.st ≠ 0 := by rw [owned]; decide
  have drops (u : State) (same : u.coh = s.coh) : floorDrop u = withCoh u coh0 := by
    rw [floorDrop_only (by rw [same, coh]; rfl) (by rw [same, coh]) floor tag unpinned valid unseen, same, coh]
    simp [floor, coh0]
  have enters : ¬(((mode s != 3 && mode s != 4) || s.host.hold) = true) := by simp [run, reach]
  unfold linkLose
  dsimp only
  rw [linkConfigReset_eq]
  refine (if_neg enters).trans ?_
  rw [topoChange_hold rfl]
  exact drops _ rfl

theorem runLive_linkLose (live : Live s) (logs : logsOnly s (0xA88 + n) 3) {cause : Nat} {f : State → State}
    (does : f s = noteErr (inHold s n cause) (0xA88 + n) 3 0 0) :
    ∃ t, runLive s f = .next t ∧ logged (inHold s n cause) t (0xA88 + n) 3 0 0 :=
  runLive_logs s (inHold s n cause) f _ _ _ _ live.1 does logs live.1 live.2 rfl

/-- Each of the three events declares the loss with its own cause (R375). -/
theorem exec_declares (live : Live s) (port : n < 4) (trained : (linkGet s n).trained = true) (logs : logsOnly s (0xA88 + n) 3) {i : Instr}
    {cause : Nat} (event : i = .dlDown n ∧ cause = 1 ∨ i = .recoveryTimeout n ∧ cause = 2 ∧ (linkGet s n).pm = 3 ∨ i = .viral n ∧ cause = 3)
    (lost : linkLose s n cause = noteErr (inHold s n cause) (0xA88 + n) 3 0 0) :
    ∃ t, exec i s = .next t ∧ logged (inHold s n cause) t (0xA88 + n) 3 0 0 := by
  have declares {f : State → State} (does : f s = linkLose s n cause) :
      ∃ t, withUnit 4 n (runLive s f) = .next t ∧ logged (inHold s n cause) t (0xA88 + n) 3 0 0 := by
    rw [withUnit_in _ port]
    exact runLive_linkLose live logs (does.trans lost)
  rcases event with ⟨rfl, rfl⟩ | ⟨rfl, rfl, recovering⟩ | ⟨rfl, rfl⟩
  · exact declares (if_pos trained)
  · exact declares (if_pos (by simp [trained, recovering]))
  · exact declares (if_pos trained)

end Declared

/-! ### The end of what needs the host (R376) -/

/-- Homes, slices and messages once the requests for floor lines have ended. -/
def floorless (c : Coh) : Coh :=
  { c with
    mshr := c.mshr.filter (fun m => lineTier m.line != 2)
    net := c.net.filter (fun m => lineTier m.line != 2)
    stall := c.stall.filter (fun m => lineTier m.line != 2)
    wb := []
    busy := c.busy.filter (fun b => lineTier b.line != 2)
    resv := c.resv.filter (fun p => lineTier p.1 != 2) }

/-- Transactions that wait for the host alone go on (R292, R376). -/
def homesLost (s : State) : State :=
  (s.coh.busy.filter (fun b => b.host)).foldl (fun s b =>
      homeSnoop (busyPut s b.line (fun x => { x with host := false })) { b with host := false }) s

/-- What ends after the streams: LAUNCHes and WAITs that need the floor, and completions that wait for a link. -/
def commandsLost (s : State) : State :=
  let s := s.qsu.launches.foldl launchLost s
  let s := (s.qsu.queues.map (·.1)).foldl waitLost s
  let d := s.host.defer
  let s := { s with host := { s.host with defer := [] } }
  let s := d.foldl (fun s x => finishNow s x.q x.idx x.status x.d0 x.d1) s
  goOn s

theorem commandsLost_none {s : State} (rest : resting s) (defer : s.host.defer = []) (queues : s.qsu.queues = []) (launches : s.qsu.launches = []) :
    commandsLost s = s := by
  have same : { s with host := { s.host with defer := [] } } = s := by rw [← defer]
  simp only [commandsLost, launches, queues, defer, List.map_nil, List.foldl_nil, same, goOn_resting rest]

section Lost
variable {s : State}

/-- In HOLD floor lines go, then what cores ask for, then requests, streams and commands end, in that order. -/
theorem lostComplete_hold (hold : s.host.hold = true) :
    lostComplete s =
      (let s := floorDrop s
       let s := (s.cores.map (·.1)).foldl coreLost s
       let s := coresMap s (fun _ k => { k with flines := [], fover := false })
       let s := { s with coh := floorless s.coh }
       let s := homesLost s
       let s := (s.movers.map (·.1)).foldl streamLost s
       commandsLost s) := by
  unfold lostComplete commandsLost floorless homesLost
  rw [if_neg (by simp [hold])]

/-- Without cores, and with no transaction but for the floor. -/
theorem lostComplete_coreless (hold : s.host.hold = true) (cores : s.cores = []) (drop : floorDrop s = s) (busy : (floorless s.coh).busy = []) :
    lostComplete s = commandsLost ((s.movers.map (·.1)).foldl streamLost (withCoh s (floorless s.coh))) := by
  have asked : (s.cores.map (·.1)).foldl coreLost s = s := by rw [cores]; rfl
  have alone (f : Nat → Core → Core) : coresMap s f = s := by simp [coresMap, cores]
  have requests : homesLost { s with coh := floorless s.coh } = withCoh s (floorless s.coh) := by simp [homesLost, busy, withCoh]
  have movers : (withCoh s (floorless s.coh)).movers = s.movers := rfl
  rw [lostComplete_hold hold, drop]
  simp only [asked, alone, requests, movers]

theorem exec_linkLostTimeout_reached (live : Live s) (reach : s.host.hold = false) : exec .linkLostTimeout s = .next s :=
  runLive_next s s lostComplete live (if_pos (by simp [reach])) rfl rfl

/-- A request for a floor line goes with its transaction; beside it only streams may end. -/
theorem exec_linkLostTimeout_request {line slice : Nat} {k : MK} {b : Busy} {movers : Tab Mover} (live : Live s) (floor : lineTier line = 2)
    (hold : s.host.hold = true) (rest : resting s) (defer : s.host.defer = []) (queues : s.qsu.queues = []) (launches : s.qsu.launches = [])
    (cores : s.cores = [])
    (coh : s.coh = { coh0 with mshr := [⟨slice, line, k, 0, 0, false, 0, false⟩], net := [msg0 k line slice 100], busy := [b] })
    (ofLine : b.line = line) (streams : (s.movers.map (·.1)).foldl streamLost (withCoh s coh0) = { withCoh s coh0 with movers := movers }) :
    exec .linkLostTimeout s = .next { s with coh := coh0, movers := movers } := by
  refine runLive_next s _ lostComplete live ?_ rfl rfl
  have drop : floorDrop s = s := floorDrop_nothing (by rw [coh]; rfl) (by rw [coh]; rfl) (by rw [coh]; rfl) (by rw [coh]; rfl)
  have ends : floorless s.coh = coh0 := by
    have asked : lineTier (msg0 k line slice 100).line = 2 := floor
    simp [floorless, coh, floor, asked, ofLine, coh0]
  rw [lostComplete_coreless hold cores drop (by rw [ends]; rfl), ends, streams]
  exact commandsLost_none rest defer queues launches

/-- A running stream that reads the floor for its one transaction ends aborted. -/
theorem streamLost_reads {m : Nat} {st : Stream} {v : MvTxn} (one : s.movers = [(m, ⟨some st, []⟩)]) (running : st.st = .running)
    (txns : st.txns = [v]) (reads : dsOp st.desc = 0) (source : paTier v.src = 2) :
    streamLost s m = { s with movers := [(m, ⟨some { st with txns := [], st := .done, aborted := true }, []⟩)] } := by
  have runs : moverGet s m = ⟨some st, []⟩ := by simp [moverGet, one, tabGet]
  simp [streamLost, runs, running, txns, reads, source, streamPut, moverSet, one, tabSet_only, mover0]

end Lost

end Sys2Proof.Machine
end

section
/-! PROOFS. The host port's links. -/

open Sys2Proof Sys2Proof.Machine in
/-- Settles O38: a link by what it negotiated and whether it is up, the loss from RUN by its event, and its end by what the one request concerned. -/
theorem hostLinks : Obligations.HostLinks := by
  unfold Obligations.HostLinks
  intro s n live port
  dsimp only
  refine ⟨fun width rate flit neg released lanes slow fast flits known => ⟨fun pairs => ⟨fun reach => ?_, fun untrained => ?_⟩, fun apart => ?_⟩,
    fun untrained key skid i => exec_untrained live port untrained, fun trained => ⟨fun key skid => ?_, ?_, fun r recovering => ?_,
      fun negotiated up wide => ?_, fun narrowed => ?_, fun up enabled => ?_, fun asleep => ?_, ?_⟩,
    exec_linkLostTimeout_reached live, ?_⟩
  · exact exec_linkTrained live port reach (linkTrain_paired n neg released lanes slow fast flits known pairs)
  · exact exec_linkUpAfterLoss live port untrained
      (linkTrain_paired (s := linkConfigReset s n) n neg released lanes slow fast flits known pairs)
  · exact exec_linkTrained_not live port (linkTrain_unpaired n neg apart)
  · exact linkWhen_meets live port trained rfl
  · exact linkWhen_meets live port trained rfl
  · exact ⟨_, exec_linkRecoveryReturn live port trained recovering r, linkGet_recovered s n r, recovered_recoveries s n r, recovered_replays s n r,
      recovered_uncommitted s n r, fun _ other => regGet_recovered_ne s n r other, rfl⟩
  · exact linkWhen_meets live port trained (by simp [negotiated, up, wide])
  · exact linkWhen_meets live port trained (by simp [narrowed])
  · exact linkWhen_meets live port trained (by simp [up, enabled])
  · rw [← pmUp_eq]
    exact linkWhen_meets live port trained (by simp [asleep])
  · intro i cause g line w event run reach logs _ floor tag unpinned owned unseen coh
    exact exec_declares live port trained logs event (linkLose_run cause run reach floor tag unpinned owned unseen coh)
  · intro line slice k b v floor hold rest defer queues launches cores coh ofLine
    refine ⟨fun none_ => ?_, fun m st one running txns reads source => ?_⟩
    · have streams : (s.movers.map (·.1)).foldl streamLost (withCoh s coh0) = withCoh s coh0 := by rw [none_]; rfl
      exact exec_linkLostTimeout_request live floor hold rest defer queues launches cores coh ofLine (movers := s.movers) streams
    · refine exec_linkLostTimeout_request live floor hold rest defer queues launches cores coh ofLine ?_
      rw [one]
      exact streamLost_reads (s := withCoh s coh0) one running txns reads source

end

section
/-! PROOFS. What a command does at all (R423, R425): but for the four that a complex without power obeys, it runs on a complex that serves, and
a complex that is FROZEN or off ignores it. -/

namespace Sys2Proof.Machine

/-- A command that acts on a complex that serves, and on no other. -/
def Runs (i : Instr) : Prop := ∃ f : State → State, ∀ s, exec i s = runLive s f

/-- A core instruction is given to its core. -/
theorem runs_slot {i : Instr} {h : Hdr} {kind : SlotKind} {v : Nat} (slot : slotOf i = some (h, kind, v)) (core : decide (h.core < 2400) = true) :
    Runs i :=
  ⟨fun s => giveSlot s h kind v, fun s => (exec_slot i s h kind v slot).trans (withUnit_in _ (of_decide_eq_true core))⟩

/-- Every command with its operands in range runs, but for the resets, the loss of power and the last writes of a freeze. -/
theorem exec_runs {i : Instr} (w : wellFormed i = true) (other : i ∉ obeyedFrozen) : Runs i := by
  cases i
  case nop | alu | addi | andi | ori | xori | shli | shri | sari | li | lih | pcmp | pcmpi | plog | br | brdec | jal | jr | ldp | stp | ldm |
      ldmAcq | ldmNc | stm | stmRel | bar | waitp | waitm | nflr | nflc | spk | spc | spr | trap | endK | vnop | fadd | fsub | fmul | ffma |
      fmin | fmax | fabs | fneg | fcmp | sel | exp2 | log2 | rcp | rsqrt | tanh | cvtOut | cvtIn | ftoi | itof | iadd | isub | imul | iand |
      ior | ixor | ishl | ishr | isar | icmp | perm | vred | bcst | vext | gath | scat | twin | twout | twadd | spd | tnop | wld | wldF |
      wldFv | mma | mmaF | acz | drn | tlz | tlv | tlr | tlm | chs | chr | cha | mvi | srp | srr | srt => exact (runs_slot rfl w)
  case powerOn | resetPin | powerLoss | feedLossWritesSent => simp [obeyedFrozen] at other
  case tensorComplete | exceptionReport | loadDataReturn | sbEntryTimeout | storePerformed | waitpReread | waitmReread | coreClockGate |
      hintWrite | chainWordArrival | chainCellCloseTimeout | nopCmd | moveCmd | launchCmd | launchImageLoaded | launchComplete | signalCmd |
      waitCmd | fencePoll | clearCmd | clearingStepDone | proofCmd | restoreCmd | resliceCmd | xltSync | xltInval | biasSet |
      biasWritebackDone | windowMove | queueWake | descReread | moverAccept | tileCheck | tableWalkDone | moverTransactionDone |
      streamComplete | memRd | memInv | flushWordRead | hdmCommit | ideKeyProgram | linkTrained | dlDown | recoveryTimeout | viral |
      linkRecoveryReturn | linkUpAfterLoss | l0pNarrow | l0pWiden | aspmL1Entry | aspmL1Exit | portTrained | ident | idleCell | chainCell |
      tileCell | tileAck | fenceCell | fenceAck | winRd | winWr | winRsp | cellReplayTimeout | laneLockLost | portRetrain | rdmaWrite |
      rdmaRead | ecnMarkedPacket | cnp | proofBegin | proofData | proofCommit | proofAck | readReq | readData | proofAbort | heartbeat |
      zeroLengthReadCompletion | recoveryEntry | blockLockLoss | badCell => exact ⟨_, fun s => withUnit_in _ (of_decide_eq_true w)⟩
  case rdS | rdM | upg | own | snpS | snpI | snpCur | ackI | ackS | ackFwd | nack | nackRetry | reservationLapse | gnt | cmp | evaAck |
      evaClean | evaDirty | rideModeWrite => exact ⟨_, fun s => withUnit_in _ (of_decide_eq_true (Bool.and_eq_true_iff.1 w).1)⟩
  case proofCaptureDone | proofPageCopy | xltInvalDrainDone | fallbackPoll | faultRecordWrite | fqHeadUpdate | scrubPatrol | keyLoad |
      keyErase | keyCmdDone | wipePlatesCaches | underCryptoErase | canopyWipeDone | underOverwritePage | cohL1InvalWrite | l1InvalDone |
      cohL1EnWrite | cohProbeAddrWrite | probeLookupDone | rdCur | wrInv | dataMsg | watchWake | hostSnpData | hostSnpInv | hostSnpCur |
      hostCacheResponse | birsp | readAheadExpiry | msixUnmask | linkLostTimeout | rdmaResponse | heartbeatSend | pairLost | pairSenseLow |
      cappingInterval | vfStepSettled | kUpdate | estDiverge | measImplausible | capUnreachable | capReached | sagEnd | rippleWindow |
      feedLoss | pwrGoodLow | throttleInAssert | throttleInDeassert | feedAlertAssert | feedAlertDeassert | pinStuck | pinChatterEnd |
      pldmGrant | sensorRefresh | pwrCapWrite | thermalCheck | errorDetected | blockResetEnd | quietPeriodExpiry | frForce | frInjectArm |
      frStatusClear | fltPinClear | delayMonitor | wearFit | lookoutUpdate | rangerLoadCheck | watchdog | softwareReset | resetRelease |
      rampComplete | fuseCheckDone | selfTestDone | configReady | fwLoad | firmwareVerified | wearLoad | enableCmd | enableCheckDone |
      disableCmd | shutdown | disableEnd | deploy | decommission | readFaultLog | readDisturbanceLog | mbxRequestDone | rcRead |
      registerWrite | rdmaRetryTimeout | overwriteBroughtForward => exact ⟨_, fun _ => rfl⟩
  case memWr =>
    obtain ⟨⟨link, -⟩, -⟩ := (Bool.and_eq_true_iff.trans (and_congr_left' Bool.and_eq_true_iff)).1 w
    exact ⟨_, fun s => withUnit_in _ (of_decide_eq_true link)⟩
  case wrHint =>
    obtain ⟨⟨-, slice⟩, -⟩ := (Bool.and_eq_true_iff.trans (and_congr_left' Bool.and_eq_true_iff)).1 w
    exact ⟨_, fun s => withUnit_in _ (of_decide_eq_true slice)⟩

/-- A complex that is FROZEN or off ignores a command that runs. -/
theorem Runs.frozen {i : Instr} (runs : Runs i) {s : State} (off : frozen s = true) : exec i s = .next s := by
  obtain ⟨f, runs⟩ := runs
  rw [runs, runLive_frozen s f off]

/-- A command that runs answers a next state, and leaves the commands waiting as they are. -/
theorem Runs.next {i : Instr} (runs : Runs i) (s : State) : ∃ t, exec i s = .next t ∧ t.pending = s.pending := by
  obtain ⟨f, runs⟩ := runs
  exact ⟨_, runs s, runLive_pending s _ f rfl⟩

/-- The four commands that a complex without power obeys answer a next state, and leave the commands waiting as they are. -/
theorem obeyedFrozen_next {i : Instr} (obeyed : i ∈ obeyedFrozen) (s : State) : ∃ t, exec i s = .next t ∧ t.pending = s.pending := by
  simp only [obeyedFrozen, List.mem_cons, List.not_mem_nil, or_false] at obeyed
  obtain rfl | rfl | rfl | rfl := obeyed
  · refine ⟨_, rfl, ?_⟩
    split <;> rfl
  · refine ⟨_, rfl, ?_⟩
    unfold powerUp
    split <;> rfl
  · exact ⟨_, rfl, rfl⟩
  · refine ⟨_, rfl, ?_⟩
    split <;> rfl

/-- Every command with its operands in range answers a next state, and leaves the commands waiting as they are. -/
theorem exec_next {i : Instr} (w : wellFormed i = true) (s : State) : ∃ t, exec i s = .next t ∧ t.pending = s.pending := by
  by_cases obeyed : i ∈ obeyedFrozen
  · exact obeyedFrozen_next obeyed s
  · exact (exec_runs w obeyed).next s

/-- The links' going down does not bring a complex back (R422, R423). -/
theorem frozen_freezeLinks (s : State) : frozen (freezeLinks s) = frozen s := rfl

/-- A complex whose feed has gone is off (R425). -/
theorem frozen_powerGone (s : State) : frozen (powerGone s) = true := by simp [frozen, powerGone]

/-- A step takes the front command. -/
theorem step_cons {s : State} {c : Instr} {rest : List Instr} (front : s.pending = c :: rest) : step s = exec c { s with pending := rest } := by
  simp only [step, front]

/-- A complex with no command waiting idles. -/
theorem step_idle {s : State} (empty : s.pending = []) : step s = .next s := by simp only [step, empty]

/-- A queue of commands that name units of the complex takes a step, and the rest of the queue stays as it is. -/
theorem queueOk_step {s : State} (ok : queueOk s) : ∃ t, step s = .next t ∧ t.pending = s.pending.tail := by
  cases front : s.pending with
  | nil => exact ⟨s, step_idle front, front⟩
  | cons c rest =>
    obtain ⟨t, next, pending⟩ := exec_next (ok c (by simp [front])) { s with pending := rest }
    exact ⟨t, (step_cons front).trans next, pending⟩

end Sys2Proof.Machine

open Sys2Proof Sys2Proof.Machine in
/-- Settles O1, by the two cases of the queue. -/
theorem stepTakesTheFrontCommand : Obligations.StepTakesTheFrontCommand :=
  ⟨fun _ _ _ => step_cons rfl, fun _ => step_idle⟩

open Sys2Proof Sys2Proof.Machine in
/-- Settles O54: such a command runs on a complex that serves only. -/
theorem frozenComplexIgnores : Obligations.FrozenComplexIgnores :=
  fun _ _ off w other => (exec_runs w other).frozen off

open Sys2Proof Sys2Proof.Machine in
/-- Settles O57: a command that runs leaves the complex as it is, a further loss of power leaves it off, and the last writes of a freeze
take its links alone. -/
theorem frozenUntilReset : Obligations.FrozenUntilReset := by
  intro i s t off w pin on next
  by_cases obeyed : i ∈ obeyedFrozen
  · simp only [obeyedFrozen, List.mem_cons, List.not_mem_nil, pin, on, or_false, false_or] at obeyed
    obtain rfl | rfl := obeyed
    · obtain rfl : powerGone s = t := Host.Outcome.next.inj next
      exact frozen_powerGone s
    · obtain rfl : (if frozen s then freezeLinks s else s) = t := Host.Outcome.next.inj next
      rwa [if_pos off, frozen_freezeLinks]
  · obtain rfl : s = t := Host.Outcome.next.inj (((exec_runs w obeyed).frozen off).symm.trans next)
    exact off

open Sys2Proof Sys2Proof.Machine in
/-- Settles O53: the front command answers a next state, and the queue's rest, which it leaves alone, is well formed with the queue. -/
theorem wellFormedQueuesRun : Obligations.WellFormedQueuesRun := by
  intro s ok
  obtain ⟨t, next, rest⟩ := queueOk_step ok
  refine ⟨⟨t, next, rest⟩, fun u other c mem => ?_, fun r refused => ?_, fun f faulted => ?_⟩
  · obtain rfl : t = u := Host.Outcome.next.inj (next.symm.trans other)
    rw [rest] at mem
    exact ok c (List.mem_of_mem_tail mem)
  · exact absurd (next.symm.trans refused) (by simp)
  · exact absurd (next.symm.trans faulted) (by simp)
end

section
/-! PROOFS. The window before the canopy is wiped (R251, R499), and the ranger mailbox (R519 to R521). -/

namespace Sys2Proof.Machine

/-- Before enable the window waits for the canopy's wipe. -/
theorem winServes_unwiped {s : State} (early : mode s < 3) (dirty : s.tiers.wCanopy = false) : winServes s = false := by
  rw [winServes, if_pos early, dirty, Bool.false_and]

/-- Before enable the window is the one of MEM_WIN. -/
theorem winCur_early {s : State} (early : mode s < 3) : winCur s = (regField s 0x50010 45 30, regField s 0x50010 63 58) := by
  rw [winCur, if_pos early]

/-! ### The mailbox -/

/-- The value of the bytes of a number that fits in them. -/
theorem leNat_leBytes_fits (n x : Nat) (fits : x < 256 ^ n) : leNat (leBytes n x) = x := by
  induction n generalizing x with
  | zero =>
    rw [pow_zero] at fits
    exact (Nat.lt_one_iff.1 fits).symm
  | succ n ih =>
    rw [pow_succ] at fits
    rw [leBytes, leNat, ih _ (by omega), BitVec.toNat_ofNat]
    omega

/-- A word of a list written out in bytes. -/
theorem fieldAt_words {l : List Nat} {i v : Nat} (at_ : l[i]? = some v) : fieldAt (words l) (8 * i) 8 = v % 2 ^ 64 := by
  induction l generalizing i with
  | nil => cases at_
  | cons w l ih =>
    have front : words (w :: l) = leBytes 8 (w % 2 ^ 64) ++ words l := rfl
    have value : leNat (leBytes 8 (w % 2 ^ 64)) = w % 2 ^ 64 := leNat_leBytes_fits 8 _ (Nat.mod_lt w (by decide))
    have long : (leBytes 8 (w % 2 ^ 64)).length = 8 := length_leBytes _ _
    cases i with
    | zero =>
      obtain rfl : w = v := by simpa using at_
      rw [front, fieldAt, Nat.mul_zero, List.drop_zero, List.take_left' long, value]
    | succ i =>
      rw [← ih (i := i) (by simpa using at_), front, fieldAt, fieldAt, show 8 * (i + 1) = 8 + 8 * i by omega, ← List.drop_drop,
        List.drop_left' long]

/-- A log entry's four words (R520). -/
def entryWords (e : LogEntry) : List Nat := [e.w0, e.w1, e.w2, e.seq]

/-- A response is the words of its entries. -/
theorem flatMap_words (l : List LogEntry) : l.flatMap (fun e => words [e.w0, e.w1, e.w2, e.seq]) = words (l.flatMap entryWords) := by
  rw [words, List.flatMap_assoc]
  rfl

theorem length_entryWords (l : List LogEntry) : (l.flatMap entryWords).length = 4 * l.length := by
  induction l with
  | nil => rfl
  | cons e l ih =>
    rw [List.flatMap_cons, List.length_append, ih, List.length_cons]
    exact (by omega : 4 + 4 * l.length = 4 * (l.length + 1))

/-- A word of an entry stands among the words of its log. -/
theorem getElem?_entryWords {l : List LogEntry} {i k : Nat} {e : LogEntry} (at_ : l[i]? = some e) (within : k < 4) :
    (l.flatMap entryWords)[4 * i + k]? = (entryWords e)[k]? := by
  induction l generalizing i with
  | nil => cases at_
  | cons x l ih =>
    have four : (entryWords x).length = 4 := rfl
    rw [List.flatMap_cons]
    cases i with
    | zero =>
      obtain rfl : x = e := by simpa using at_
      rw [Nat.mul_zero, Nat.zero_add, List.getElem?_append_left (by omega)]
    | succ i =>
      rw [List.getElem?_append_right (by omega), ← ih (i := i) (by simpa using at_)]
      exact congrArg _ (by omega)

/-- A response changes the registers alone. -/
theorem rspPut_only (s : State) (b : List Byte) : { rspPut s b with regs := s.regs } = s := by
  suffices keeps : ∀ (l : List Nat) (t : State), { t with regs := s.regs } = s →
      { l.foldl (fun t i => regPut t (0xA2000 + 8 * i) (fieldAt b (8 * i) 8)) t with regs := s.regs } = s from keeps _ s rfl
  intro l
  induction l with
  | nil => exact fun t same => same
  | cons i l ih => exact fun t same => ih _ same

/-- The first words of a response, once written, and no register outside them. -/
theorem regGet_rspFold (s : State) (b : List Byte) (n : Nat) :
    (∀ a, a < 0xA2000 → regGet ((List.range n).foldl (fun s i => regPut s (0xA2000 + 8 * i) (fieldAt b (8 * i) 8)) s) a = regGet s a) ∧
    ∀ i, i < n → regGet ((List.range n).foldl (fun s i => regPut s (0xA2000 + 8 * i) (fieldAt b (8 * i) 8)) s) (0xA2000 + 8 * i) =
      fieldAt b (8 * i) 8 % 2 ^ 64 := by
  induction n with
  | zero => exact ⟨fun _ _ => rfl, fun i none_ => absurd none_ (Nat.not_lt_zero i)⟩
  | succ n ih =>
    obtain ⟨below, done⟩ := ih
    simp only [List.range_succ, List.foldl_append, List.foldl_cons, List.foldl_nil]
    refine ⟨fun a low => ?_, fun i within => ?_⟩
    · rw [regGet_regPut_ne _ _ (by omega), below a low]
    · by_cases last : i = n
      · rw [last, regGet_regPut_same]
      · rw [regGet_regPut_ne _ _ (by omega), done i (by omega)]

/-- The response's words, in MBX_RSP. -/
theorem regGet_rspPut {l : List Nat} {i v : Nat} (s : State) (at_ : l[i]? = some v) : regGet (rspPut s (words l)) (0xA2000 + 8 * i) = v % 2 ^ 64 := by
  obtain ⟨within, -⟩ := List.getElem?_eq_some_iff.1 at_
  rw [rspPut, (regGet_rspFold s (words l) _).2 i (by rw [words_length, Nat.mul_div_cancel_left _ (by decide)]; exact within), fieldAt_words at_,
    Nat.mod_mod]

/-- What the end of a request leaves (R520). -/
def mailEnded (s t : State) (tag len result : Nat) : Prop :=
  t.life = { s.life with mbx := none } ∧ regGet t 0xA0008 = tag % 65536 * 2 ^ 48 + len % 65536 * 2 ^ 32 + result * 256 + 2 ∧
    t.cores = s.cores ∧ t.tiers = s.tiers ∧ t.qsu = s.qsu ∧ t.errs = s.errs ∧ t.pending = s.pending

/-- The status of a request that has ended (R520). -/
def mailStatus (tag len result : Nat) : Nat := tag % 65536 * 2 ^ 48 + len % 65536 * 2 ^ 32 + result * 256 + 2

/-- The mailbox is free again, and shows the status of the request that has ended. -/
def mailFreed (s : State) (tag len result : Nat) : State :=
  regPut { s with life := { s.life with mbx := none } } 0xA0008 (mailStatus tag len result)

/-- A request ends with the mailbox free, and with a message if one is asked for. -/
theorem mbxEnd_cases (s : State) (tag len result : Nat) :
    mbxEnd s tag len result = mailFreed s tag len result ∨ ∃ v, mbxEnd s tag len result = sendMsix (mailFreed s tag len result) v := by
  have unfolds : mbxEnd s tag len result = if regField (mailFreed s tag len result) 0xA0010 8 8 = 1 then
      sendMsix (mailFreed s tag len result) (regField (mailFreed s tag len result) 0xA0010 26 16) else mailFreed s tag len result := rfl
  rw [unfolds]
  split
  · exact .inr ⟨_, rfl⟩
  · exact .inl rfl

theorem mbxEnd_only (s : State) (tag len result : Nat) :
    { mbxEnd s tag len result with host := s.host, out := s.out } = mailFreed s tag len result := by
  obtain quiet | ⟨v, signals⟩ := mbxEnd_cases s tag len result
  · rw [quiet]
    rfl
  · rw [signals]
    exact sendMsix_host (mailFreed s tag len result) v

/-- What a complex shows whose mailbox is free again, whatever went to the host. -/
theorem mailFreed_ended {s t : State} {tag len result : Nat} (only : { t with host := s.host, out := s.out } = mailFreed s tag len result)
    (small : result ≤ 2) : mailEnded s t tag len result ∧ ∀ a, a ≠ 0xA0008 → regGet t a = regGet s a := by
  have regs : t.regs = (mailFreed s tag len result).regs := (congrArg State.regs only :)
  have reads : ∀ a, regGet t a = regGet (mailFreed s tag len result) a := fun a => by simp only [regGet, regs]
  refine ⟨⟨(congrArg State.life only :), ?_, (congrArg State.cores only :), (congrArg State.tiers only :), (congrArg State.qsu only :),
    (congrArg State.errs only :), (congrArg State.pending only :)⟩, fun a other => ?_⟩
  · have fits : mailStatus tag len result < 2 ^ 64 := by
      unfold mailStatus
      omega
    rw [reads, mailFreed, regGet_regPut_same, Nat.mod_eq_of_lt fits, mailStatus]
  · rw [reads, mailFreed, regGet_regPut_ne _ _ other]
    rfl

/-- A request that ends shows its status, and leaves the response's registers. -/
theorem mbxEnd_ends (s : State) (tag len result : Nat) (small : result ≤ 2) : mailEnded s (mbxEnd s tag len result) tag len result ∧
    ∀ a, a ≠ 0xA0008 → regGet (mbxEnd s tag len result) a = regGet s a :=
  mailFreed_ended (mbxEnd_only s tag len result) small

/-- A request that ends while the complex serves. -/
theorem exec_mbxRequestDone {s t : State} (live : Live s) (does : mbxDone s = t) {tag len result : Nat} (ended : mailEnded s t tag len result) :
    exec .mbxRequestDone s = .next t := by
  obtain ⟨-, -, -, -, -, errs, pending⟩ := ended
  exact runLive_next s t _ live does errs pending

/-- The entries that a request reads: those from a sequence number on, at most 128 (R521). -/
def entriesFrom (l : List LogEntry) (first : Nat) : List LogEntry := (l.filter (fun e => decide (first ≤ e.seq))).take 128

theorem logBytes_eq (l : List LogEntry) (first : Nat) : logBytes l first = words ((entriesFrom l first).flatMap entryWords) := flatMap_words _

theorem logBytes_length (l : List LogEntry) (first : Nat) : (logBytes l first).length = 32 * (entriesFrom l first).length := by
  rw [logBytes_eq, words_length, length_entryWords]
  omega

/-- A read of a log ends with the entries in MBX_RSP. -/
theorem mbxEnd_rspPut {s t : State} {tag : Nat} {log : List LogEntry} {first : Nat}
    (ends : mbxEnd (rspPut s (logBytes log first)) tag (logBytes log first).length 0 = t) : mailEnded s t tag (32 * (entriesFrom log first).length) 0 ∧
      ∀ i e, (entriesFrom log first)[i]? = some e → regGet t (0xA2000 + 32 * i) = e.w0 % 2 ^ 64 ∧ regGet t (0xA2008 + 32 * i) = e.w1 % 2 ^ 64 ∧
        regGet t (0xA2010 + 32 * i) = e.w2 % 2 ^ 64 ∧ regGet t (0xA2018 + 32 * i) = e.seq % 2 ^ 64 := by
  have only := rspPut_only s (logBytes log first)
  obtain ⟨⟨life, shown, cores, tiers, qsu, errs, pending⟩, others⟩ :=
    ends ▸ mbxEnd_ends (rspPut s (logBytes log first)) tag (logBytes log first).length 0 (by decide)
  refine ⟨⟨?_, ?_, cores.trans (congrArg State.cores only :), tiers.trans (congrArg State.tiers only :), qsu.trans (congrArg State.qsu only :),
    errs.trans (congrArg State.errs only :), pending.trans (congrArg State.pending only :)⟩, fun i e at_ => ?_⟩
  · rw [life, show (rspPut s (logBytes log first)).life = s.life from (congrArg State.life only :)]
  · rw [shown, logBytes_length]
  · have word : ∀ k a v, k < 4 → (entryWords e)[k]? = some v → a = 0xA2000 + 8 * (4 * i + k) →
        regGet t a = v % 2 ^ 64 := by
      intro k a v within kth place
      rw [others _ (by omega), place, logBytes_eq]
      exact regGet_rspPut s ((getElem?_entryWords at_ within).trans kth)
    exact ⟨word 0 _ _ (by decide) rfl (by omega), word 1 _ _ (by decide) rfl (by omega), word 2 _ _ (by decide) rfl (by omega),
      word 3 _ _ (by decide) rfl (by omega)⟩

/-- A request that is known reads its log. -/
theorem mbxDone_reads {s : State} {op tag len : Nat} (some_ : s.life.mbx = some (op, tag, len)) (up : rangerUp s = true)
    (busy : shedLevel s ≠ 3) (good : op = 1 ∨ op = 2) (whole : len = 8) :
    mbxDone s = mbxEnd (rspPut s (logBytes (if op = 1 then s.flt.log else s.pwr.log) (regGet s 0xA1000))) tag
      (logBytes (if op = 1 then s.flt.log else s.pwr.log) (regGet s 0xA1000)).length 0 := by
  have known : ¬ ((op ≠ 1 ∧ op ≠ 2) ∨ len ≠ 8) := by omega
  simp only [mbxDone, some_, up, Bool.not_true, Bool.false_eq_true, if_false, if_neg busy, if_neg known]

end Sys2Proof.Machine

open Sys2Proof Sys2Proof.Machine in
/-- Settles O60: a window that does not serve reads as zero and drops writes. -/
theorem windowBeforeTheWipe : Obligations.WindowBeforeTheWipe := by
  intro s link dpa live port sees serving decoded early
  refine ⟨fun dirty inside => ?_, fun wiped valid => ?_⟩
  · exact exec_mem_shut live port sees serving decoded rfl inside (winServes_unwiped early dirty)
  · rw [winServes, if_pos early, winCur_early early, wiped, Bool.true_and]
    exact valid

open Sys2Proof Sys2Proof.Machine in
/-- Settles O51: a request reaches a free mailbox, and its end shows its status over what it wrote to MBX_RSP. -/
theorem mailboxReadsTheLogs : Obligations.MailboxReadsTheLogs := by
  intro s live done
  have ends : ∀ (tag len result : Nat) (t : State), mailEnded s t tag len result → done t tag len result :=
    fun _ _ _ _ ⟨life, shown, cores, tiers, qsu, _, _⟩ => ⟨life, shown, cores, tiers, qsu⟩
  refine ⟨fun tag len closed => ?_, fun tag len reach free tagFits lenFits => ?_, fun none_ => ?_, fun op tag len some_ => ⟨fun down => ?_,
    fun up shed => ?_, fun up busy bad => ?_, fun up busy good whole => ?_⟩⟩
  · have stays : ∀ op, (if barReach s then mbxStart s op tag len else s) = s := by
      intro op
      obtain unreached | taken := closed
      · simp [unreached]
      · simp [mbxStart, Option.isSome_iff_ne_none.2 taken]
    exact ⟨runLive_next s s _ live (stays 1) rfl rfl, runLive_next s s _ live (stays 2) rfl rfl⟩
  · have starts : ∀ op, op < 256 → (if barReach s then mbxStart s op tag len else s) =
        { regSet s 0xA0008 0 0 1 with life := { s.life with mbx := some (op, tag, len) } } := by
      intro op opFits
      simp [reach, mbxStart, free, Nat.mod_eq_of_lt opFits, Nat.mod_eq_of_lt tagFits, Nat.mod_eq_of_lt lenFits]
    exact ⟨runLive_next s _ _ live (starts 1 (by decide)) rfl rfl, runLive_next s _ _ live (starts 2 (by decide)) rfl rfl⟩
  · exact runLive_next s s _ live (by rw [mbxDone, none_]) rfl rfl
  · have ended := (mbxEnd_ends s tag 0 2 (by decide)).1
    exact ⟨_, exec_mbxRequestDone live (by simp [mbxDone, some_, down]) ended, ends _ _ _ _ ended⟩
  · exact runLive_next s s _ live (by simp [mbxDone, some_, up, shed]) rfl rfl
  · have ended := (mbxEnd_ends s tag 0 1 (by decide)).1
    exact ⟨_, exec_mbxRequestDone live (by simp [mbxDone, some_, up, busy, bad]) ended, ends _ _ _ _ ended⟩
  · obtain ⟨t, does⟩ : ∃ t, mbxDone s = t := ⟨_, rfl⟩
    obtain ⟨ended, rows⟩ := mbxEnd_rspPut ((mbxDone_reads some_ up busy good whole).symm.trans does)
    have finished := ends _ _ _ _ ended
    exact ⟨t, exec_mbxRequestDone live does ended, finished, rows⟩
end

section
/-! PROOFS. A port that fails by its own replay while a core waits for an answer over it (R313, R387, R444). -/

namespace Sys2Proof.Machine

/-- A port that is UP, whose one cell has been resent 8 times. -/
def tiredPort : Port := { port0 with st := 2, replay := [⟨4, 0, [], 0, 8, false, false⟩] }

/-- Core 0's window load waits for an answer over port 0, and a window access lost at that port (source 4) calls for DEVICE_RESET. -/
def waitsOverTiredPort : State :=
  { State.reset with
    ride := { ride0 with ports := [(0, tiredPort)], waits := [⟨0, 0, 0, 0, 0⟩] }
    regs := [(0x20030, 1), (frOff (rideRec 0) + 0x20, BitVec.ofNat 64 (4 * 2 ^ 16))] }

theorem waitsOverTiredPort_serves : Live waitsOverTiredPort ∧ logsOnly waitsOverTiredPort (rideRec 0) 1 := by
  unfold Live logsOnly
  decide +kernel

theorem waitsOverTiredPort_waitq (j : Nat) : (portGet waitsOverTiredPort j).waitq = [] := by
  by_cases zero : j = 0
  · rw [zero]
    decide +kernel
  · have other : portGet waitsOverTiredPort j = port0 := by simp [portGet, waitsOverTiredPort, tabGet, Ne.symm zero]
    rw [other, port0]

/-- The state of port 0 after a command. -/
def portStAfter (o : Host.Outcome State Fault Refusal) : Nat :=
  match o with
  | .next t => (portGet t 0).st
  | _ => 0

/-- The access that failed with the port is an error of its own, and its reaction resets the complex (R444, R496). -/
theorem cellReplayTimeout_resets : portStAfter (exec (.cellReplayTimeout 0) waitsOverTiredPort) = 0 := by decide +kernel

end Sys2Proof.Machine

open Sys2Proof Sys2Proof.Machine in
/-- Refutes O39: a port whose cell has been resent 8 times does not always end FAILED with an empty replay buffer. A core's window access that
waits over it fails with it (R313, R388), and where the reaction to that error is DEVICE_RESET the port ends as a reset leaves it. -/
theorem not_rideLinks : ¬ Obligations.RideLinks := by
  unfold Obligations.RideLinks
  intro claim
  obtain ⟨live, logs⟩ := waitsOverTiredPort_serves
  obtain ⟨-, -, -, -, -, -, -, -, -, -, -, tired, -⟩ := claim waitsOverTiredPort 0 live (by omega) rfl waitsOverTiredPort_waitq
  obtain ⟨t, runs, failed, -⟩ := tired ⟨4, 0, [], 0, 8, false, false⟩ rfl rfl (le_refl 8) rfl logs
  have reset := cellReplayTimeout_resets
  rw [runs, portStAfter, failed] at reset
  cases reset
end

section
/-! PROOFS. Resets and the loss of power (R423, R425, R495 to R497, R508). -/

namespace Sys2Proof.Machine

/-- What a table keeps of the keys that pass a test. -/
theorem tabGet_filter {α : Type} (d : Nat → α) (p : Nat → Bool) (t : Tab α) (k : Nat) :
    tabGet d (t.filter (fun e => p e.1)) k = if p k = true then tabGet d t k else d k := by
  induction t with
  | nil => simp [tabGet]
  | cons e t ih =>
    obtain ⟨j, v⟩ := e
    by_cases kept : p j = true
    · rw [List.filter_cons_of_pos (p := fun e : Nat × α => p e.1) kept, tabGet, tabGet, ih]
      by_cases here : j = k
      · rw [if_pos here, if_pos here, ← here, if_pos kept]
      · rw [if_neg here, if_neg here]
    · rw [List.filter_cons_of_neg (p := fun e : Nat × α => p e.1) kept, ih, tabGet]
      by_cases here : j = k
      · rw [← here, if_neg kept, if_neg kept]
      · rw [if_neg here]

/-- The loss of power leaves the floor's bytes alone (R425). -/
theorem bytes_powerGone (s : State) (a : Nat) : tabGet (fun _ => 0) (powerGone s).tiers.bytes a =
    if a / 2 ^ 44 = 2 then tabGet (fun _ => 0) s.tiers.bytes a else 0 := by
  have filtered := tabGet_filter (fun _ => (0 : Byte)) (fun j => j / 2 ^ 44 == 2) s.tiers.bytes a
  simp only [beq_iff_eq] at filtered
  exact filtered

/-! ### A reset -/

/-- DEV_RESET_CAUSE after a reset that is no DEVICE_RESET: the cause, and AFTER_FREEZE (R497, R538). -/
theorem resetRegs_cause (s : State) {cause : Nat} (rec : Nat) (plain : cause ≠ 4) :
    ∃ after : Bool, resetRegs s cause rec = tabSet regReset [] 0x20030 (BitVec.ofNat 64 (cause + bnat after * 256)) := by
  refine ⟨cause != 1 && (mode s == 5 || (!s.life.released && regField s 0x20030 8 8 == 1)), ?_⟩
  simp only [resetRegs, if_neg plain, Nat.add_zero]

/-- A register other than DEV_RESET_CAUSE takes its reset value. -/
theorem complexReset_regs (s : State) {cause : Nat} (rec : Nat) (plain : cause ≠ 4) {a : Nat} (other : a ≠ 0x20030) :
    tabGet regReset (complexReset s cause rec).regs a = regReset a := by
  obtain ⟨after, regs⟩ := resetRegs_cause s rec plain
  rw [show (complexReset s cause rec).regs = _ from regs, tabGet_tabSet_ne _ _ _ other]
  rfl

/-- The mode is BRINGUP (R495). -/
theorem mode_complexReset (s : State) {cause : Nat} (rec : Nat) (plain : cause ≠ 4) : mode (complexReset s cause rec) = 0 := by
  have value : regGet (complexReset s cause rec) 0x20008 = (regReset 0x20008).toNat :=
    congrArg BitVec.toNat (complexReset_regs s rec plain (by decide))
  rw [mode, regField, value]
  decide

/-- A reset brings the complex back. -/
theorem frozen_complexReset (s : State) {cause : Nat} (rec : Nat) (plain : cause ≠ 4) : frozen (complexReset s cause rec) = false := by
  rw [frozen, mode_complexReset s rec plain]
  rfl

/-- The cause shows (R497). -/
theorem complexReset_cause (s : State) {cause : Nat} (rec : Nat) (plain : cause ≠ 4) (small : cause < 256) :
    regField (complexReset s cause rec) 0x20030 7 0 = cause := by
  obtain ⟨after, regs⟩ := resetRegs_cause s rec plain
  rw [regField, regGet, show (complexReset s cause rec).regs = _ from regs, tabGet_tabSet_same]
  cases after <;> simp [bitsOf, bnat] <;> omega

/-- A core after a reset is at its reset state but for what its plate holds (R255). -/
theorem complexReset_cores (s : State) (cause rec : Nat) :
    ∀ p ∈ (complexReset s cause rec).cores, p.2 = { core0 with a := { arch0 with plate := p.2.a.plate } } := by
  suffices keeps : ∀ (l t : Tab Core), (∀ p ∈ t, p.2 = { core0 with a := { arch0 with plate := p.2.a.plate } }) →
      ∀ p ∈ l.foldl (fun t p => tabSet (fun _ => core0) t p.1 { core0 with a := { arch0 with plate := p.2.a.plate } }) t,
        p.2 = { core0 with a := { arch0 with plate := p.2.a.plate } } from keeps s.cores [] (fun _ none_ => absurd none_ List.not_mem_nil)
  intro l
  induction l with
  | nil => exact fun t all => all
  | cons c l ih =>
    refine fun t all => ih _ fun p mem => ?_
    obtain new | ⟨-, old⟩ := mem_tabSet mem
    · rw [new]
    · exact all p old

/-- A reset leaves its reset state (R496). -/
theorem complexReset_after (s : State) {cause : Nat} (rec : Nat) (plain : cause ≠ 4) (small : cause < 256) :
    afterReset s (complexReset s cause rec) cause :=
  ⟨frozen_complexReset s rec plain, mode_complexReset s rec plain, complexReset_cause s rec plain small,
    fun _ => complexReset_regs s rec plain, complexReset_cores s cause rec, rfl, rfl, rfl, rfl, rfl, rfl, rfl, rfl, rfl, rfl⟩

/-- A command that resets a complex that serves. -/
theorem runLive_resets {s : State} (live : Live s) {f : State → State} {z : State} {cause : Nat} (does : f s = complexReset z cause 0)
    (queue : z.pending = s.pending) : runLive s f = .next (complexReset z cause 0) :=
  runLive_next s _ _ live does live.2.symm queue

/-! ### The life cycle (R508) -/

theorem lifeCycle_late {s : State} (late : 1 < mode s) (op : Nat) : lifeCycle s op = s := by
  rw [lifeCycle, if_pos (.inl (by omega))]

theorem lifeCycle_held {s : State} (held : s.life.released = false) (op : Nat) : lifeCycle s op = s := by
  rw [lifeCycle, if_pos (.inr held)]

/-- A life-cycle command of a complex in BRINGUP or RECOVERY whose reset is released. -/
theorem lifeCycle_early {s : State} (early : mode s ≤ 1) (released : s.life.released = true) (op : Nat) : lifeCycle s op =
    if op = 1 ∧ s.life.lc = 1 then complexReset { s with life := { s.life with lc := 2 } } 5 0
    else if op = 2 ∧ (s.life.lc = 1 ∨ s.life.lc = 2) then complexReset { s with life := { s.life with lc := 3 } } 5 0
    else s := by
  have serves : ¬((mode s ≠ 0 ∧ mode s ≠ 1) ∨ s.life.released = false) := by
    rw [released]
    simp only [Bool.true_eq_false, or_false]
    omega
  rw [lifeCycle, if_neg serves]

/-- A life-cycle command that has no effect. -/
theorem runLive_lifeCycle_idle {s : State} (live : Live s) {op : Nat} (does : lifeCycle s op = s) :
    runLive s (fun s => lifeCycle s op) = .next s := runLive_next s s _ live does rfl rfl

end Sys2Proof.Machine

open Sys2Proof Sys2Proof.Machine in
/-- Settles O47: each reset ends in `complexReset`, whose state is said once. -/
theorem resets : Obligations.Resets := by
  intro s
  refine ⟨⟨fun on stuck => ?_, fun back => ?_⟩, ?_, fun off => ?_, fun on => ?_, fun live => ⟨fun held => ?_, fun released => ⟨?_, fun late => ?_,
    fun early => ⟨fun dev => ?_, fun other => ?_, fun known => ?_, fun young old => ?_⟩⟩⟩⟩
  · exact congrArg Host.Outcome.next (if_pos (by simp [on, stuck]))
  · have comes : (s.life.on && mode s == 5) = false := by
      rcases back with off | mode5
      · simp [off]
      · simp [mode5]
    have does : exec .powerOn s = .next (complexReset (powerGone s) 1 0) := congrArg Host.Outcome.next (if_neg (by simp [comes]))
    exact ⟨_, does, complexReset_cause _ 0 (by decide) (by decide), mode_complexReset _ 0 (by decide), frozen_complexReset _ 0 (by decide),
      rfl, rfl, rfl, rfl, rfl, rfl, rfl, bytes_powerGone s⟩
  · exact ⟨powerGone s, rfl, frozen_powerGone s, rfl, rfl, rfl, rfl, rfl, rfl, rfl, rfl, bytes_powerGone s⟩
  · exact congrArg Host.Outcome.next (if_neg (by simp [off]))
  · exact ⟨_, congrArg Host.Outcome.next (if_pos on), complexReset_after s 0 (by decide) (by decide)⟩
  · exact ⟨runLive_next s s _ live (by rw [held]; rfl) rfl rfl, runLive_lifeCycle_idle live (lifeCycle_held held 1),
      runLive_lifeCycle_idle live (lifeCycle_held held 2)⟩
  · exact ⟨_, runLive_resets live (by rw [released]; rfl) rfl, complexReset_after s 0 (by decide) (by decide)⟩
  · exact ⟨runLive_lifeCycle_idle live (lifeCycle_late late 1), runLive_lifeCycle_idle live (lifeCycle_late late 2)⟩
  · exact ⟨_, runLive_resets (f := fun s => lifeCycle s 1) live ((lifeCycle_early early released 1).trans (if_pos ⟨rfl, dev⟩)) rfl,
      complexReset_after _ 0 (by decide) (by decide)⟩
  · exact runLive_lifeCycle_idle (op := 1) live (by rw [lifeCycle_early early released, if_neg (by tauto), if_neg (by omega)])
  · exact ⟨_, runLive_resets (f := fun s => lifeCycle s 2) (z := { s with life := { s.life with lc := 3 } }) (cause := 5) live
      (by rw [lifeCycle_early early released, if_neg (by omega), if_pos ⟨rfl, known⟩]) rfl, complexReset_after _ 0 (by decide) (by decide)⟩
  · exact runLive_lifeCycle_idle (op := 2) live (by rw [lifeCycle_early early released, if_neg (by omega), if_neg (by tauto)])
end

section
/-! PROOFS. Disturbances, the loss of the feed and the power inputs (R404, R417, R418, R420 to R423, R425 to R427, R525). -/

namespace Sys2Proof.Machine

/-! ### What an event leaves -/

theorem LeftByEvent.pwr {s t : State} (left : LeftByEvent s t) : t.pwr = s.pwr := (congrArg State.pwr left.rest :)
theorem LeftByEvent.movers {s t : State} (left : LeftByEvent s t) : t.movers = s.movers := (congrArg State.movers left.rest :)
theorem LeftByEvent.errs {s t : State} (left : LeftByEvent s t) : t.errs = s.errs := (congrArg State.errs left.rest :)
theorem LeftByEvent.pending {s t : State} (left : LeftByEvent s t) : t.pending = s.pending := (congrArg State.pending left.rest :)

theorem LeftByEvent.field {s t : State} (left : LeftByEvent s t) {a : Nat} (hi lo : Nat) (one : a ≠ 0x30020) (two : a ≠ 0x30028) :
    regField t a hi lo = regField s a hi lo := by rw [regField, left.regs a one two, regField]

theorem LeftByEvent.flag {s t : State} (left : LeftByEvent s t) (i : Nat) : pwrFlag t i = pwrFlag s i := by
  rw [pwrFlag, left.field _ _ (by decide) (by decide), pwrFlag]

/-- A command that reports a change of its own, which notes no error. -/
theorem runLive_event {s u t : State} {f : State → State} (live : Live s) (does : f s = t) (left : LeftByEvent u t) (errs : u.errs = s.errs)
    (pending : u.pending = s.pending) : runLive s f = .next t :=
  runLive_next s t f live does (left.errs.trans errs) (left.pending.trans pending)

theorem pwrFlag_set (s : State) (i : Nat) (b : Bool) (small : i < 64) : pwrFlag (pwrFlagSet s i b) i = b := by
  rw [pwrFlag, pwrFlagSet, regField_regSet_same _ _ _ _ _ small, Nat.add_sub_cancel_left]
  cases b <;> rfl

/-! ### The measurement (R417, R418) -/

/-- The measurement is taken for implausible (R418). -/
def spoiled (s : State) : State := { regSet s 0x70030 5 5 1 with pwr := { s.pwr with plaus := 0, spoil := true } }

/-- A cause that does not hold, or a measurement that is implausible already, changes nothing. -/
theorem implausibleDo_idle {s : State} {cause : Nat} (idle : pwrFlag s 5 = true ∨
    cause = 1 ∧ 2000 ≤ regField s 0x70040 47 32 ∧ regField s 0x70040 47 32 ≤ 7000) : implausibleDo s cause = s := by
  rcases idle with shown | ⟨rfl, above, below⟩
  · simp [implausibleDo, shown]
  · simp [implausibleDo, Nat.not_lt.2 above, Nat.not_lt.2 below]

/-- A cause that holds. -/
theorem implausibleDo_holds {s : State} {cause : Nat} (off : s.qsu.evOn = false) (shown : pwrFlag s 5 = false)
    (holds : cause = 1 ∧ (regField s 0x70040 47 32 < 2000 ∨ 7000 < regField s 0x70040 47 32) ∨
      cause = 2 ∧ inBounds 5000 (regField s 0x70040 15 0) = false ∨ cause = 3 ∨ cause = 4) :
    implausibleDo s cause = if cause = 4 then noteErr (spoiled s) 0xA93 0 0 0 else spoiled s := by
  have quiet_ : ∀ c a0 a1 a2, writeEvent (spoiled s) c a0 a1 a2 = spoiled s := writeEvent_off off
  have reports : implausibleDo s cause = if cause = 4 then noteErr (writeEvent (spoiled s) 0x22 cause 0 0) 0xA93 0 0 0
      else writeEvent (spoiled s) 0x22 cause 0 0 := by
    rcases holds with ⟨rfl, out⟩ | ⟨rfl, out⟩ | rfl | rfl
    · have out' : (decide (regField s 0x70040 47 32 < 2000) || decide (7000 < regField s 0x70040 47 32)) = true := by simpa using out
      simp only [implausibleDo, shown, out', Bool.not_true, Bool.or_self, Bool.false_eq_true, if_false]
      rfl
    · simp only [implausibleDo, shown, out, Bool.not_false, Bool.not_true, Bool.or_self, Bool.false_eq_true, if_false]
      rfl
    · simp only [implausibleDo, shown, Bool.not_true, Bool.or_self, Bool.false_eq_true, if_false]
      rfl
    · simp only [implausibleDo, shown, Bool.not_true, Bool.or_self, Bool.false_eq_true, if_false]
      rfl
  rw [reports, quiet_]

/-- A failed self-check is an error of the FEED record as well (R441). -/
theorem implausible_logs {s : State} (live : Live s) (off : s.qsu.evOn = false) (shown : pwrFlag s 5 = false) (logs : logsOnly s 0xA93 0) :
    ∃ t, exec (.measImplausible 4) s = .next t ∧ logged (spoiled s) t 0xA93 0 0 0 := by
  have others : ∀ a, a ≠ 0x70030 → regGet (spoiled s) a = regGet s a := fun a other => regGet_regSet_ne s _ _ _ other
  have logs' : logsOnly (spoiled s) 0xA93 0 := logsOnly_congr (fun a above => others a (by unfold frOff at above; omega)) logs
  exact runLive_logs s (spoiled s) (fun s => implausibleDo s 4) 0xA93 0 0 0 live.1
    ((implausibleDo_holds off shown (.inr (.inr (.inr rfl)))).trans (if_pos rfl)) logs'
    ((frozen_congr (others _ (by decide)) rfl).trans live.1) live.2 rfl

/-- An estimate that diverges shows. -/
theorem divergeDo_shows {s : State} (off : s.qsu.evOn = false) (apart : pwrFlag s 4 = false) (sound : pwrFlag s 5 = false) (long : 500 ≤ s.pwr.agree) :
    divergeDo s = { regSet s 0x70030 4 4 1 with pwr := { s.pwr with agree := 0 } } := by
  have late : decide (s.pwr.agree < 500) = false := decide_eq_false (Nat.not_lt.2 long)
  simp only [divergeDo, apart, sound, late, Bool.or_self, Bool.false_eq_true, if_false]
  refine (writeEvent_off ?_ _ _ _ _).trans rfl
  exact off

/-! ### The cap (R420) -/

/-- A domain at its floor: P15 at 1/8, M3. -/
def floored (d : Nat) (v : Dom) : Dom :=
  { v with point := domFloor d, target := domFloor d, fit := 0, duty := if d < 4 then 0 else v.duty,
           step := if v.point = domFloor d ∧ v.step ≠ 2 then v.step else 1 }

theorem toFloors_eq (s : State) : toFloors s = (List.range 5).foldl (fun s d => domSet s d (floored d (domGet s d))) s := rfl

/-- Domains changed one after another: each once, and nothing else. -/
theorem domSets_done (f : Nat → Dom → Dom) (s : State) (n : Nat) :
    let t := (List.range n).foldl (fun s d => domSet s d (f d (domGet s d))) s
    (∃ doms, t = { s with pwr := { s.pwr with doms := doms } }) ∧ (∀ d, d < n → domGet t d = f d (domGet s d)) ∧
      ∀ d, n ≤ d → domGet t d = domGet s d := by
  induction n with
  | zero => exact ⟨⟨_, rfl⟩, fun d none_ => absurd none_ (Nat.not_lt_zero d), fun _ _ => rfl⟩
  | succ n ih =>
    obtain ⟨⟨doms, only⟩, done, left⟩ := ih
    simp only [List.range_succ, List.foldl_append, List.foldl_cons, List.foldl_nil]
    refine ⟨⟨_, by rw [only]; rfl⟩, fun d below => ?_, fun d above => ?_⟩
    · by_cases last : d = n
      · rw [last, domGet_domSet_same, left n le_rfl]
      · rw [domGet_domSet_ne _ _ last, done d (by omega)]
    · rw [domGet_domSet_ne _ _ (by omega), left d (by omega)]

/-- The cap is unreachable: every domain at its floor. -/
theorem unreachableDo_floors {s : State} (clear : pwrFlag s 3 = false) (long : 10 ≤ s.pwr.aboveN) :
    ∃ u, LeftByEvent u (unreachableDo s) ∧ u.errs = s.errs ∧ u.pending = s.pending ∧ pwrFlag u 3 = true ∧
      (∀ d, d < 5 → domGet u d = floored d (domGet s d)) ∧ u.coh = s.coh ∧ u.qsu = s.qsu ∧ u.cores = s.cores ∧ u.movers = s.movers := by
  have late : decide (s.pwr.aboveN < 10) = false := decide_eq_false (Nat.not_lt.2 long)
  obtain ⟨z, lowered⟩ : ∃ z, z = toFloors (pwrFlagSet s 3 true) := ⟨_, rfl⟩
  obtain ⟨⟨doms, only⟩, done, -⟩ := domSets_done floored (pwrFlagSet s 3 true) 5
  rw [← toFloors_eq, ← lowered] at only done
  have flag : pwrFlag z 3 = true := by rw [only]; exact pwrFlag_set s 3 true (by decide)
  have does : unreachableDo s = writeEvent (if rangerUp z then emit z (.pldm 6 [effCap z, regField z 0x70048 15 0]) else z) 0x20 (effCap z)
      (regField z 0x70048 15 0) 0 := by
    simp only [unreachableDo, clear, late, Bool.or_self, Bool.false_eq_true, if_false, ← lowered]
  rw [does]
  refine ⟨_, writeEvent_leaves _ _ _ _ _, ?_⟩
  have kept : z.errs = s.errs ∧ z.pending = s.pending ∧ z.coh = s.coh ∧ z.qsu = s.qsu ∧ z.cores = s.cores ∧ z.movers = s.movers := by
    rw [only]
    exact ⟨rfl, rfl, rfl, rfl, rfl, rfl⟩
  obtain ⟨errs, pending, coh, qsu, cores, movers⟩ := kept
  split
  · exact ⟨errs, pending, flag, done, coh, qsu, cores, movers⟩
  · exact ⟨errs, pending, flag, done, coh, qsu, cores, movers⟩

/-! ### The disturbance log (R404, R521) -/

/-- A disturbance's entry, while the ranger runs and the log has room. -/
theorem disturb_pwr {s : State} (kind code a0 a1 : Nat) (awake : regField s 0x1F1010 10 10 = 0) (room : s.pwr.log.length < 256) :
    (disturb s kind code a0 a1).pwr =
      { s.pwr with log := s.pwr.log ++ [⟨s.pwr.logSeq, kind, a0, a1⟩], logSeq := s.pwr.logSeq + 1 } := by
  obtain ⟨e, entry⟩ : ∃ e : LogEntry, e = ⟨s.pwr.logSeq, kind, a0, a1⟩ := ⟨_, rfl⟩
  obtain ⟨p, logs⟩ : ∃ p, p = { s.pwr with log := s.pwr.log ++ [e], logSeq := s.pwr.logSeq + 1 } := ⟨_, rfl⟩
  have all : (s.pwr.log ++ [e]).drop ((s.pwr.log ++ [e]).length - 256) = s.pwr.log ++ [e] := by
    have short : (s.pwr.log ++ [e]).length - 256 = 0 := by
      rw [List.length_append, List.length_singleton]
      omega
    rw [short, List.drop_zero]
  have halted : ¬ regField s 0x1F1010 10 10 = 1 := by omega
  have reported : ∀ t : State, t.pwr = p → (if code = 0 then t else writeEvent t code a0 a1 0).pwr = p := by
    intro t shown
    split
    · exact shown
    · exact (writeEvent_leaves t code a0 a1 0).pwr.trans shown
  simp only [disturb, if_neg halted, ← entry, all, ← logs]
  refine reported _ ?_
  split <;> rfl

/-- What a disturbance's report leaves beside power: the errors, the queue, the movers and the life cycle. -/
theorem LeftBySample.rests {s t : State} (left : LeftBySample s t) :
    t.errs = s.errs ∧ t.pending = s.pending ∧ t.movers = s.movers ∧ t.life = s.life :=
  ⟨(congrArg State.errs left.rest :), (congrArg State.pending left.rest :), (congrArg State.movers left.rest :), (congrArg State.life left.rest :)⟩

/-- A disturbance that no event reports leaves the cores and the caches too. -/
theorem disturb_unreported (s : State) (kind a0 a1 : Nat) : ∃ p o, disturb s kind 0 a0 a1 = { s with pwr := p, out := o } := by
  have told : ∀ t : State, (∃ p, t = { s with pwr := p }) →
      ∃ p o, (if rangerUp t then emit t (.pldm kind [a0, a1]) else t) = { s with pwr := p, out := o } := by
    rintro t ⟨p, rfl⟩
    split
    · exact ⟨p, _, rfl⟩
    · exact ⟨p, _, rfl⟩
  rw [disturb]
  refine told _ ?_
  split
  · exact ⟨_, rfl⟩
  · exact ⟨_, rfl⟩

/-! ### The loss of the feed (R422, R423, R425) -/

/-- FEED_LOSS makes the complex FROZEN, and logs the voltage. -/
theorem declareLoss_freezes (s : State) : mode (declareLoss s) = 5 ∧ frozen (declareLoss s) = true ∧
    ((declareLoss s).cores = s.cores ∧ (declareLoss s).movers = s.movers ∧ (declareLoss s).coh = s.coh) ∧
    (∀ a, a ≠ 0x20008 → regGet (declareLoss s) a = regGet s a) ∧
    (declareLoss s).errs = s.errs ∧ (declareLoss s).pending = s.pending ∧
    (regField s 0x1F1010 10 10 = 0 → s.pwr.log.length < 256 →
      (declareLoss s).pwr.log = s.pwr.log ++ [⟨s.pwr.logSeq, 5, regField s 0x70040 47 32, 0⟩]) := by
  obtain ⟨p, o, only⟩ := disturb_unreported s 5 (regField s 0x70040 47 32) 0
  have stuck : mode (declareLoss s) = 5 := regField_regSet_same _ _ _ _ _ (by decide)
  have lost : declareLoss s = regSet { s with pwr := p, out := o } 0x20008 18 16 5 := congrArg (fun x => regSet x 0x20008 18 16 5) only
  refine ⟨stuck, by simp [frozen, stuck], ?_⟩
  have pwr : p = (disturb s 5 0 (regField s 0x70040 47 32) 0).pwr := by rw [only]
  rw [lost]
  refine ⟨⟨rfl, rfl, rfl⟩, fun a other => regGet_regSet_ne _ _ _ _ other, rfl, rfl, fun awake room => ?_⟩
  rw [regSet_pwr, pwr, disturb_pwr 5 0 _ _ awake room]

/-- Once the last writes have gone the links are down (R423). -/
theorem freezeLinks_downs (s : State) : (freezeLinks s).host.links = [] ∧ ∀ i, (portGet (freezeLinks s) i).lanes = 0 := by
  refine ⟨rfl, fun i => ?_⟩
  have maps : ∀ l : Tab Port, (tabGet (fun _ => port0) (l.map (fun p => (p.1, { p.2 with lanes := 0 }))) i).lanes = 0 := by
    intro l
    induction l with
    | nil => rfl
    | cons p l ih =>
      rw [List.map_cons, tabGet]
      split
      · rfl
      · exact ih
  exact maps s.ride.ports

/-! ### The power inputs (R426, R427, R525) -/

/-- A pin put shows itself, and leaves everything but PWR_STATUS and the pins. -/
theorem pinPut_shows {s : State} {i : Nat} (known : i < 2) (p : Pin) :
    pinGet (pinPut s i p) i = p ∧ pwrFlag (pinPut s i p) i = p.on ∧ (pinPut s i p).pwr.doms = s.pwr.doms ∧ (pinPut s i p).cores = s.cores ∧
      (pinPut s i p).coh = s.coh ∧ (pinPut s i p).qsu = s.qsu ∧ (pinPut s i p).errs = s.errs ∧ (pinPut s i p).pending = s.pending := by
  have flag := pwrFlag_set s i p.on (by omega)
  obtain rfl | rfl : i = 0 ∨ i = 1 := by omega
  · exact ⟨rfl, flag, rfl, rfl, rfl, rfl, rfl, rfl⟩
  · exact ⟨rfl, flag, rfl, rfl, rfl, rfl, rfl, rfl⟩

/-- What an input's assertion shows before the ceilings: the pin, and the chatter it begins. -/
def pinShown (s : State) (i gap : Nat) : State :=
  if decide (gap < 100) && !(pinGet s i).chat then
    writeEvent (regSet (pinPut s i ⟨true, true, (pinGet s i).chat || decide (gap < 100)⟩) 0x70038 (2 * i + 1) (2 * i + 1) 1) 0x29 i 0 0
  else pinPut s i ⟨true, true, (pinGet s i).chat || decide (gap < 100)⟩

theorem pinAssert_eq (s : State) (i gap : Nat) : pinAssert s i gap = if i = 1 then applyCeilings (pinShown s i gap) else pinShown s i gap := rfl

theorem pinShown_facts {s : State} {i : Nat} (known : i < 2) (gap : Nat) :
    let t := pinShown s i gap
    pinGet t i = ⟨true, true, (pinGet s i).chat || decide (gap < 100)⟩ ∧ pwrFlag t i = true ∧ t.pwr.doms = s.pwr.doms ∧
      (gap < 100 → (pinGet s i).chat = false → regField t 0x70038 (2 * i + 1) (2 * i + 1) = 1) ∧
      (quiet s → t.cores = s.cores) ∧ t.errs = s.errs ∧ t.pending = s.pending := by
  obtain ⟨pin, flag, doms, cores, coh, qsu, errs, pending⟩ := pinPut_shows (s := s) known ⟨true, true, (pinGet s i).chat || decide (gap < 100)⟩
  unfold pinShown
  split
  · obtain ⟨u, put⟩ : ∃ u, u = regSet (pinPut s i ⟨true, true, (pinGet s i).chat || decide (gap < 100)⟩) 0x70038 (2 * i + 1) (2 * i + 1) 1 := ⟨_, rfl⟩
    rw [← put]
    have left := writeEvent_leaves u 0x29 i 0 0
    have same : u.pwr = (pinPut s i ⟨true, true, (pinGet s i).chat || decide (gap < 100)⟩).pwr := by rw [put, regSet_pwr]
    have flag' : pwrFlag u i = true := by
      rw [put, pwrFlag, regField_regSet_ne _ _ _ _ _ _ (by decide)]
      exact flag
    refine ⟨?_, (left.flag i).trans flag', ?_, fun _ _ => ?_, fun calm => ?_, ?_, ?_⟩
    · rw [pinGet, left.pwr, same]
      exact pin
    · rw [left.pwr, same, doms]
    · rw [left.field _ _ (by decide) (by decide), put, regField_regSet_same _ _ _ _ _ (by omega), Nat.add_sub_cancel_left]
      rfl
    · have calm' : quiet u := by
        rw [quiet, put, regSet_coh, regSet_qsu, coh, qsu]
        exact calm
      rw [(left.still calm').2, put, regSet_cores, cores]
    · rw [left.errs, put, regSet_errs, errs]
    · rw [left.pending, put, regSet_pending, pending]
  · next steady =>
    refine ⟨pin, flag, doms, fun short fresh => ?_, fun _ => cores, errs, pending⟩
    simp [short, fresh] at steady

/-- An alert holds every stand at P8 or lower (R426). -/
theorem ceiling_alert {s : State} (alert : s.pwr.alert.on = true) {d : Nat} (stand : d < 4) : 8 ≤ (ceiling s d).1 := by
  rw [ceiling, if_pos stand, alert]
  split
  · exact (by decide : 8 ≤ 15)
  · simp

/-- An input's assertion (R426, R427). -/
theorem pinAssert_facts {s : State} {i : Nat} (known : i < 2) (gap : Nat) :
    let t := pinAssert s i gap
    pwrFlag t i = true ∧ pinGet t i = ⟨true, true, (pinGet s i).chat || decide (gap < 100)⟩ ∧
      (gap < 100 → (pinGet s i).chat = false → regField t 0x70038 (2 * i + 1) (2 * i + 1) = 1) ∧
      (i = 1 → ∀ d, d < 4 → 8 ≤ (domGet t d).point) ∧ (i = 0 → t.pwr.doms = s.pwr.doms) ∧ (quiet s → t.cores = s.cores) ∧
      t.errs = s.errs ∧ t.pending = s.pending := by
  obtain ⟨pin, flag, doms, chatter, cores, errs, pending⟩ := pinShown_facts (s := s) known gap
  rw [pinAssert_eq]
  by_cases alert : i = 1
  · subst alert
    rw [if_pos rfl]
    have on : (pinShown s 1 gap).pwr.alert.on = true := congrArg Pin.on pin
    have within : ∀ d, d < 4 → 8 ≤ (domGet (applyCeilings (pinShown s 1 gap)) d).point := fun d stand =>
      (ceiling_alert on stand).trans (applyCeilings_within (pinShown s 1 gap) (Nat.lt_succ_of_lt stand)).1
    obtain ⟨doms', only⟩ := applyCeilings_doms (pinShown s 1 gap)
    refine ⟨?_, ?_, fun short fresh => ?_, fun _ => within, fun other => absurd other (by decide), fun calm => ?_, ?_, ?_⟩
    · rw [only]; exact flag
    · rw [only]; exact pin
    · rw [only]; exact chatter short fresh
    · rw [only]; exact cores calm
    · rw [only]; exact errs
    · rw [only]; exact pending
  · rw [if_neg alert]
    exact ⟨flag, pin, chatter, fun one => absurd one alert, fun _ => doms, cores, errs, pending⟩

end Sys2Proof.Machine

namespace Sys2Proof.Machine

/-! ### The commands, case by case -/

section Commands
variable {s : State} (live : Live s)
include live

/-- EST_DIVERGE (R417). -/
theorem exec_estDiverge :
    (pwrFlag s 4 = true ∨ pwrFlag s 5 = true ∨ s.pwr.agree < 500 → exec .estDiverge s = .next s) ∧
    (pwrFlag s 4 = false → pwrFlag s 5 = false → 500 ≤ s.pwr.agree → s.qsu.evOn = false →
      exec .estDiverge s = .next { regSet s 0x70030 4 4 1 with pwr := { s.pwr with agree := 0 } }) := by
  refine ⟨fun idle => runLive_next s s divergeDo live ?_ rfl rfl, fun apart sound long off =>
    runLive_next s _ divergeDo live (divergeDo_shows off apart sound long) rfl rfl⟩
  rcases idle with shown | bad | short
  · simp [divergeDo, shown]
  · simp [divergeDo, bad]
  · simp [divergeDo, short]

/-- MEAS_IMPLAUSIBLE whose cause holds and is no failed self-check (R418). -/
theorem exec_measImplausible {c : Nat} (shown : pwrFlag s 5 = false) (off : s.qsu.evOn = false)
    (holds : c = 1 ∧ (regField s 0x70040 47 32 < 2000 ∨ 7000 < regField s 0x70040 47 32) ∨
      c = 2 ∧ inBounds 5000 (regField s 0x70040 15 0) = false ∨ c = 3) : exec (.measImplausible c) s = .next (spoiled s) := by
  have other : c ≠ 4 := by omega
  have does := implausibleDo_holds (cause := c) off shown (by tauto)
  rw [if_neg other] at does
  exact runLive_next s _ (fun s => implausibleDo s c) live does rfl rfl

/-- CAP_UNREACHABLE (R420). -/
theorem exec_capUnreachable (clear : pwrFlag s 3 = false) (long : 10 ≤ s.pwr.aboveN) :
    ∃ t, exec .capUnreachable s = .next t ∧ pwrFlag t 3 = true ∧
      (∀ d, d < 5 → (domGet t d).point = domFloor d ∧ (d < 4 → (domGet t d).duty = 0)) ∧ (quiet s → t.cores = s.cores) ∧ t.movers = s.movers := by
  obtain ⟨u, left, errs, pending, flag, floors, coh, qsu, cores, movers⟩ := unreachableDo_floors clear long
  refine ⟨_, runLive_event live rfl left errs pending, (left.flag 3).trans flag, fun d known => ?_, fun calm => ?_, left.movers.trans movers⟩
  · rw [domGet_congr (congrArg Pwr.doms left.pwr), floors d known]
    exact ⟨rfl, fun stand => if_pos stand⟩
  · have calm' : quiet u := by rwa [quiet, coh, qsu]
    exact (left.still calm').2.trans cores

/-- CAP_REACHED (R420). -/
theorem exec_capReached :
    (pwrFlag s 3 = false ∨ s.pwr.under < 500 → exec .capReached s = .next s) ∧
    (pwrFlag s 3 = true → 500 ≤ s.pwr.under →
      ∃ t, exec .capReached s = .next t ∧ pwrFlag t 3 = false ∧ t.pwr = s.pwr ∧ (quiet s → t.cores = s.cores)) := by
  refine ⟨fun idle => runLive_next s s reachedDo live ?_ rfl rfl, fun shown long => ?_⟩
  · rcases idle with clear | short
    · simp [reachedDo, clear]
    · simp [reachedDo, short]
  · have late : decide (s.pwr.under < 500) = false := decide_eq_false (Nat.not_lt.2 long)
    have does : reachedDo s = writeEvent (pwrFlagSet s 3 false) 0x2A (effCap s) (regField s 0x70048 15 0) 0 := by
      simp only [reachedDo, shown, late, Bool.not_true, Bool.or_self, Bool.false_eq_true, if_false]
    have left := writeEvent_leaves (pwrFlagSet s 3 false) 0x2A (effCap s) (regField s 0x70048 15 0) 0
    exact ⟨_, runLive_event live does left rfl rfl, (left.flag 3).trans (pwrFlag_set s 3 false (by decide)), left.pwr, fun calm => (left.still calm).2⟩

/-- SAG_END (R404). -/
theorem exec_sagEnd (low dur : Nat) :
    (pwrFlag s 2 = false ∨ regField s 0x70040 47 32 < 4400 ∨ pwrFlag s 5 = true → exec (.sagEnd low dur) s = .next s) ∧
    (pwrFlag s 2 = true → 4400 ≤ regField s 0x70040 47 32 → pwrFlag s 5 = false → regField s 0x1F1010 10 10 = 0 → s.pwr.log.length < 256 →
      ∃ t, exec (.sagEnd low dur) s = .next t ∧ pwrFlag t 2 = false ∧
        t.pwr = { s.pwr with log := s.pwr.log ++ [⟨s.pwr.logSeq, 1, low, dur⟩], logSeq := s.pwr.logSeq + 1 } ∧ (quiet s → t.cores = s.cores)) := by
  refine ⟨fun idle => runLive_next s s (fun s => sagEndDo s low dur) live ?_ rfl rfl, fun sag high sound awake room => ?_⟩
  · rcases idle with clear | deep | bad
    · simp [sagEndDo, clear]
    · simp [sagEndDo, deep]
    · simp [sagEndDo, bad]
  · have above : decide (regField s 0x70040 47 32 < 4400) = false := decide_eq_false (Nat.not_lt.2 high)
    have does : sagEndDo s low dur = disturb (pwrFlagSet s 2 false) 1 0x23 low dur := by
      simp only [sagEndDo, sag, above, sound, Bool.not_true, Bool.or_self, Bool.false_eq_true, if_false]
    have left := disturb_leaves (pwrFlagSet s 2 false) 1 0x23 low dur
    obtain ⟨errs, pending, -, -⟩ := left.rests
    have awake' : regField (pwrFlagSet s 2 false) 0x1F1010 10 10 = 0 := (regField_regSet_ne _ _ _ _ _ _ (by decide)).trans awake
    refine ⟨_, runLive_next s _ (fun s => sagEndDo s low dur) live does errs pending, ?_, disturb_pwr 1 0x23 low dur awake' room,
      fun calm => (left.still calm).2⟩
    rw [pwrFlag, regField, left.regs _ (by decide) (by decide)]
    exact pwrFlag_set s 2 false (by decide)

/-- RIPPLE_WINDOW (R404). -/
theorem exec_rippleWindow (pp : Nat) {lim n : Nat} (limit : lim = regField s 0x70028 15 0) (gap : n = min 1000 (s.pwr.ripGap + 1)) :
    (lim < pp → exec (.rippleWindow pp) s =
      .next { s with pwr := { s.pwr with ripGap := n, ripple := true, ripplePp := if s.pwr.ripple then max s.pwr.ripplePp pp else pp } }) ∧
    (pp ≤ lim → s.pwr.ripple = false → exec (.rippleWindow pp) s = .next { s with pwr := { s.pwr with ripGap := n } }) ∧
    (pp ≤ lim → s.pwr.ripple = true → n < 1000 → exec (.rippleWindow pp) s = .next { s with pwr := { s.pwr with ripGap := n, ripple := false } }) ∧
    (pp ≤ lim → s.pwr.ripple = true → n = 1000 → regField s 0x1F1010 10 10 = 0 → s.pwr.log.length < 256 →
      ∃ t, exec (.rippleWindow pp) s = .next t ∧
        t.pwr = { s.pwr with ripGap := 0, ripple := false, log := s.pwr.log ++ [⟨s.pwr.logSeq, 4, s.pwr.ripplePp, 0⟩], logSeq := s.pwr.logSeq + 1 }) := by
  refine ⟨fun above => ?_, fun within calm => ?_, fun within active short => ?_, fun within active long awake room => ?_⟩
  · exact runLive_next s _ (fun s => rippleDo s pp) live (by simp only [rippleDo, ← limit, if_pos above, ← gap]) rfl rfl
  · exact runLive_next s _ (fun s => rippleDo s pp) live
      (by simp only [rippleDo, ← limit, if_neg (Nat.not_lt.2 within), ← gap, calm, Bool.false_eq_true, if_false]) rfl rfl
  · exact runLive_next s _ (fun s => rippleDo s pp) live
      (by simp only [rippleDo, ← limit, if_neg (Nat.not_lt.2 within), ← gap, active, if_true, if_neg (Nat.ne_of_lt short)]) rfl rfl
  · have does : rippleDo s pp = disturb { s with pwr := { s.pwr with ripGap := 0, ripple := false } } 4 0x26 s.pwr.ripplePp 0 := by
      simp only [rippleDo, ← limit, if_neg (Nat.not_lt.2 within), ← gap, active, if_true, if_pos long]
    obtain ⟨errs, pending, -, -⟩ := (disturb_leaves { s with pwr := { s.pwr with ripGap := 0, ripple := false } } 4 0x26 s.pwr.ripplePp 0).rests
    exact ⟨_, runLive_next s _ (fun s => rippleDo s pp) live does errs pending,
      disturb_pwr (s := { s with pwr := { s.pwr with ripGap := 0, ripple := false } }) 4 0x26 s.pwr.ripplePp 0 awake room⟩

/-- FEED_LOSS where it has been declared, and PWR_GOOD_LOW (R418, R422, R525). -/
theorem exec_declareLoss {c : Instr} (declared : c = .feedLoss ∧ (10 ≤ s.pwr.low ∨ pwrFlag s 5 = true) ∨ c = .pwrGoodLow) :
    exec c s = .next (declareLoss s) := by
  obtain ⟨-, -, -, -, errs, pending, -⟩ := declareLoss_freezes s
  rcases declared with ⟨rfl, low⟩ | rfl
  · refine runLive_next s _ (fun s => if decide (10 ≤ s.pwr.low) || pwrFlag s 5 then declareLoss s else s) live (if_pos ?_) errs pending
    simpa using low
  · exact runLive_next s _ declareLoss live rfl errs pending

/-- An input asserted for 100 ms (R427). -/
theorem exec_pinStuck {i : Nat} (known : i < 2) :
    ((pinGet s i).on = false → exec (.pinStuck i) s = .next s) ∧
    ((pinGet s i).on = true → ∃ t, exec (.pinStuck i) s = .next t ∧ regField t 0x70038 (2 * i) (2 * i) = 1 ∧ t.pwr = s.pwr ∧
      (quiet s → t.cores = s.cores)) := by
  obtain ⟨f, stuck⟩ : ∃ f : State → State, f = fun s => if i < 2 ∧ (pinGet s i).on = true then
    writeEvent (regSet s 0x70038 (2 * i) (2 * i) 1) 0x28 i 0 0 else s := ⟨_, rfl⟩
  have runs : exec (.pinStuck i) s = runLive s f := by rw [stuck]; rfl
  refine ⟨fun free => ?_, fun on => ?_⟩
  · rw [runs]
    exact runLive_next s s f live (by rw [stuck]; exact if_neg (by simp [free])) rfl rfl
  · have left := writeEvent_leaves (regSet s 0x70038 (2 * i) (2 * i) 1) 0x28 i 0 0
    refine ⟨_, runs.trans (runLive_event live (by rw [stuck]; exact if_pos ⟨known, on⟩) left rfl rfl), ?_, left.pwr, fun calm => (left.still calm).2⟩
    rw [left.field _ _ (by decide) (by decide), regField_regSet_same _ _ _ _ _ (by omega), Nat.add_sub_cancel_left]
    rfl

/-- A chatter episode's end (R427). -/
theorem exec_pinChatterEnd {i : Nat} (known : i < 2) :
    ((pinGet s i).chat = false ∨ (pinGet s i).raw = true → exec (.pinChatterEnd i) s = .next s) ∧
    ((pinGet s i).chat = true → (pinGet s i).raw = false → exec (.pinChatterEnd i) s = .next (pinPut s i pin0)) := by
  obtain ⟨-, -, -, -, -, -, errs, pending⟩ := pinPut_shows (s := s) known pin0
  refine ⟨fun idle => ?_, fun chat low => ?_⟩
  · refine runLive_next s s (fun s => if i < 2 ∧ (pinGet s i).chat = true ∧ (pinGet s i).raw = false then pinPut s i pin0 else s) live
      (if_neg ?_) rfl rfl
    rcases idle with steady | high
    · simp [steady]
    · simp [high]
  · exact runLive_next s _ (fun s => if i < 2 ∧ (pinGet s i).chat = true ∧ (pinGet s i).raw = false then pinPut s i pin0 else s) live
      (if_pos ⟨known, chat, low⟩) errs pending

/-- The assertion of an input (R426, R427). -/
theorem exec_pinAssert {i : Nat} (known : i < 2) (gap : Nat) :
    exec (if i = 0 then Instr.throttleInAssert gap else .feedAlertAssert gap) s = .next (pinAssert s i gap) := by
  obtain ⟨-, -, -, -, -, -, errs, pending⟩ := pinAssert_facts (s := s) known gap
  obtain rfl | rfl : i = 0 ∨ i = 1 := by omega
  · exact runLive_next s _ (fun s => pinAssert s 0 gap) live rfl errs pending
  · exact runLive_next s _ (fun s => pinAssert s 1 gap) live rfl errs pending

/-- The deassertion of an input (R426). -/
theorem exec_pinDeassert {i : Nat} (known : i < 2) :
    exec (if i = 0 then Instr.throttleInDeassert else .feedAlertDeassert) s =
      .next (pinPut s i { pinGet s i with raw := false, on := (pinGet s i).chat }) := by
  obtain ⟨-, -, -, -, -, -, errs, pending⟩ := pinPut_shows (s := s) known { pinGet s i with raw := false, on := (pinGet s i).chat }
  obtain rfl | rfl : i = 0 ∨ i = 1 := by omega
  · exact runLive_next s _ (fun s => pinDeassert s 0) live rfl errs pending
  · exact runLive_next s _ (fun s => pinDeassert s 1) live rfl errs pending

end Commands

end Sys2Proof.Machine

open Sys2Proof Sys2Proof.Machine in
/-- Settles O44, command by command. -/
theorem powerEvents : Obligations.PowerEvents := by
  intro s live v does same
  have idle : ∀ c, (pwrFlag s 5 = true ∨ c = 1 ∧ 2000 ≤ regField s 0x70040 47 32 ∧ regField s 0x70040 47 32 ≤ 7000) →
      exec (.measImplausible c) s = .next s :=
    fun c still => runLive_next s s (fun s => implausibleDo s c) live (implausibleDo_idle still) rfl rfl
  refine ⟨exec_estDiverge live, ⟨fun out off shown => exec_measImplausible live shown off (.inl ⟨rfl, out⟩),
    fun out off shown => exec_measImplausible live shown off (.inr (.inl ⟨rfl, out⟩)),
    fun off shown => exec_measImplausible live shown off (.inr (.inr rfl)), fun c shown => idle c (.inl shown),
    fun above below => idle 1 (.inr ⟨rfl, above, below⟩), fun off shown logs => implausible_logs live off shown logs⟩,
    ⟨fun still => ?_, exec_capUnreachable live⟩, exec_capReached live, exec_sagEnd live, fun pp => exec_rippleWindow live pp rfl rfl,
    ⟨fun high sound => ?_, fun c declared => ?_⟩, ?_, fun z off => ?_, fun i known => ?_⟩
  · refine runLive_next s s unreachableDo live ?_ rfl rfl
    rcases still with shown | short
    · simp [unreachableDo, shown]
    · simp [unreachableDo, short]
  · exact runLive_next s s (fun s => if decide (10 ≤ s.pwr.low) || pwrFlag s 5 then declareLoss s else s) live
      (if_neg (by simp [sound, high])) rfl rfl
  · obtain ⟨stuck, off, kept, regs, -, -, log⟩ := declareLoss_freezes s
    exact ⟨_, exec_declareLoss live declared, stuck, off, kept, regs, log⟩
  · exact congrArg Host.Outcome.next (if_neg (by rw [live.1]; decide))
  · obtain ⟨links, lanes⟩ := freezeLinks_downs z
    exact ⟨_, congrArg Host.Outcome.next (if_pos off), links, lanes, rfl, rfl, rfl⟩
  · obtain ⟨stuckIdle, stuck⟩ := exec_pinStuck live known
    obtain ⟨steady, ends⟩ := exec_pinChatterEnd live known
    refine ⟨fun gap => ?_, ?_, stuckIdle, stuck, steady, fun chat low => ?_⟩
    · obtain ⟨flag, pin, chatter, points, doms, cores, -, -⟩ := pinAssert_facts (s := s) known gap
      exact ⟨_, exec_pinAssert live known gap, flag, pin, chatter, points, doms, cores⟩
    · obtain ⟨pin, flag, doms, cores, -⟩ := pinPut_shows (s := s) known { pinGet s i with raw := false, on := (pinGet s i).chat }
      exact ⟨_, exec_pinDeassert live known, pin, flag, doms, fun _ => cores⟩
    · obtain ⟨pin, flag, doms, cores, -⟩ := pinPut_shows (s := s) known pin0
      exact ⟨_, ends chat low, pin, flag, doms, fun _ => cores⟩
end

section
/-! PROOFS. The ranger: firmware, wear fit, lookout, load shedding and watchdog (R456, R458 to R461). -/

namespace Sys2Proof.Machine

/-- Whether an error only logs rests on two registers of its record. -/
theorem logsOnly_of_record {s u : State} {rec src : Nat} (status : regGet u (frOff rec) = regGet s (frOff rec))
    (react : regGet u (frOff rec + 0x20) = regGet s (frOff rec + 0x20)) (logs : logsOnly s rec src) : logsOnly u rec src := by
  simpa only [logsOnly, frState, regField, status, react] using logs

/-- A field of a sum of fields. -/
theorem bitsOf_field {x above v below lo hi : Nat} (sum : x = above * 2 ^ (hi + 1) + v * 2 ^ lo + below) (small : below < 2 ^ lo)
    (fits : v < 2 ^ (hi + 1 - lo)) (order : lo ≤ hi) : bitsOf x hi lo = v := by
  have split_ : above * 2 ^ (hi + 1) + v * 2 ^ lo + below = below + 2 ^ lo * (v + 2 ^ (hi + 1 - lo) * above) := by
    rw [show hi + 1 = lo + (hi + 1 - lo) by omega, Nat.pow_add, Nat.add_sub_cancel_left]
    ring
  rw [bitsOf, Nat.shiftRight_eq_div_pow, sum, split_, Nat.add_mul_div_left _ _ (Nat.two_pow_pos lo), Nat.div_eq_of_lt small, Nat.zero_add,
    Nat.add_mul_mod_self_left, Nat.mod_eq_of_lt fits]

/-! ### The wear fit (R456) -/

/-- What a fit finds. -/
def fitted (f : Flt) (days core d0 d1 d2 d3 : Nat) : Flt :=
  { f with eol := days % 65536, eolCore := core % 4096,
           standEol := [(0, d0), (1, d1), (2, d2), (3, d3)].foldl (fun t p => tabSet (fun _ => 0xFFFF) t p.1 (p.2 % 65536)) f.standEol }

/-- A stand's prediction, once fitted. -/
theorem fitted_stand (f : Flt) (days core d0 d1 d2 d3 : Nat) {i : Nat} (stand : i < 4) :
    tabGet (fun _ => 0xFFFF) (fitted f days core d0 d1 d2 d3).standEol i = [d0, d1, d2, d3].getD i 0 % 65536 := by
  simp only [fitted, List.foldl_cons, List.foldl_nil]
  obtain rfl | rfl | rfl | rfl : i = 0 ∨ i = 1 ∨ i = 2 ∨ i = 3 := by omega
  · rw [tabGet_tabSet_ne _ _ _ (by decide), tabGet_tabSet_ne _ _ _ (by decide), tabGet_tabSet_ne _ _ _ (by decide), tabGet_tabSet_same]
    rfl
  · rw [tabGet_tabSet_ne _ _ _ (by decide), tabGet_tabSet_ne _ _ _ (by decide), tabGet_tabSet_same]
    rfl
  · rw [tabGet_tabSet_ne _ _ _ (by decide), tabGet_tabSet_same]
    rfl
  · rw [tabGet_tabSet_same]
    rfl

/-- The first word of the page's health part (R354): the complex's prediction and its limiting core. -/
theorem topoWord_eol (s : State) : topoWord s 0x2000 = s.flt.eolCore * 2 ^ 16 + s.flt.eol := by
  simp [topoWord, healthWord]

/-- A stand's word of the page's health part. -/
theorem topoWord_stand (s : State) {i : Nat} (stand : i < 4) : ∃ low high, low < 2 ^ 16 ∧
    topoWord s (0x2010 + 8 * i) = high * 2 ^ 32 + tabGet (fun _ => 0xFFFF) s.flt.standEol i * 2 ^ 16 + low := by
  refine ⟨_, bitsOf (regGet s (0x100000 + 0x100 * (0xA8C + i) + 0x80)) 63 32,
    bitsOf_lt (regGet s (0x100000 + 0x100 * (0xA8C + i) + 0x80)) 31 16, ?_⟩
  have page : topoWord s (0x2010 + 8 * i) = healthWord s (0x10 + 8 * i) := by
    simp only [topoWord]
    rw [if_neg (by omega), if_neg (by omega), if_neg (by omega), if_neg (by omega), if_neg (by omega), if_neg (by omega), if_pos (by omega)]
    exact congrArg (healthWord s) (by omega)
  rw [page, healthWord, if_neg (by omega), if_neg (by omega), if_pos (by omega), show (0x10 + 8 * i - 0x10) / 8 = i by omega]

/-- The page moves with what a fit finds. -/
def wearShown (s : State) (f : Flt) : State :=
  if f = s.flt then s else { s with flt := f, qsu := { s.qsu with topoGen := (s.qsu.topoGen + 2) % 2 ^ 64 } }

/-- A change of the topology page, while no event ring is in use. -/
theorem topoChange_off {s : State} (off : s.qsu.evOn = false) :
    topoChange s = { s with qsu := { s.qsu with topoGen := (s.qsu.topoGen + 2) % 2 ^ 64 } } := by
  rw [topoChange]
  exact writeEvent_off (s := { s with qsu := { s.qsu with topoGen := (s.qsu.topoGen + 2) % 2 ^ 64 } }) off _ _ _ _

theorem wearShown_silent {s : State} (off : s.qsu.evOn = false) (f : Flt) : (wearShown s f).qsu.evOn = false := by
  unfold wearShown
  split
  · exact off
  · exact off

theorem wearShown_eq {s : State} (off : s.qsu.evOn = false) (f : Flt) : (if f = s.flt then s else topoChange { s with flt := f }) = wearShown s f := by
  rw [topoChange_off (s := { s with flt := f }) off, wearShown]

theorem wearFit_shows {s : State} {days core d0 d1 d2 d3 : Nat} (up : rangerUp s = true) (calm : shedLevel s = 0) (known : s.flt.restored = true)
    (off : s.qsu.evOn = false) : wearFit s days core d0 d1 d2 d3 = wearShown s (fitted s.flt days core d0 d1 d2 d3) := by
  have serves : ¬ (rangerUp s = false ∨ shedLevel s ≠ 0 ∨ s.flt.restored = false) := by simp [up, calm, known]
  have shown := wearShown_eq off (fitted s.flt days core d0 d1 d2 d3)
  have silent := writeEvent_off (wearShown_silent off (fitted s.flt days core d0 d1 d2 d3))
  rw [wearFit, if_neg serves]
  unfold fitted at shown silent ⊢
  simp only [shown, silent, ite_self]

/-- What a fit shows and leaves. -/
theorem wearShown_facts (s : State) (f : Flt) : (wearShown s f).flt = f ∧ ((wearShown s f).flt = s.flt → wearShown s f = s) ∧
    ((wearShown s f).flt ≠ s.flt → (wearShown s f).qsu.topoGen = (s.qsu.topoGen + 2) % 2 ^ 64) ∧
    (wearShown s f).cores = s.cores ∧ (wearShown s f).tiers = s.tiers ∧ (wearShown s f).regs = s.regs ∧
    (wearShown s f).errs = s.errs ∧ (wearShown s f).pending = s.pending := by
  unfold wearShown
  by_cases same : f = s.flt
  · rw [if_pos same]
    exact ⟨same.symm, fun _ => rfl, fun moved => absurd rfl moved, rfl, rfl, rfl, rfl, rfl⟩
  · rw [if_neg same]
    exact ⟨rfl, fun still => absurd still same, fun _ => rfl, rfl, rfl, rfl, rfl, rfl⟩

/-- A fit shows its predictions in the topology page. -/
theorem fitted_page {t : State} {f : Flt} {days core d0 d1 d2 d3 : Nat} (shown : t.flt = fitted f days core d0 d1 d2 d3) (known : core < 2400) :
    bitsOf (topoWord t 0x2000) 15 0 = days % 65536 ∧ bitsOf (topoWord t 0x2000) 27 16 = core ∧
      ∀ i, i < 4 → bitsOf (topoWord t (0x2010 + 8 * i)) 31 16 = [d0, d1, d2, d3].getD i 0 % 65536 := by
  have first : topoWord t 0x2000 = core * 2 ^ 16 + days % 65536 := by
    rw [topoWord_eol, shown]
    exact congrArg (· * 2 ^ 16 + days % 65536) (Nat.mod_eq_of_lt (by omega))
  refine ⟨?_, ?_, fun i stand => ?_⟩
  · exact bitsOf_field (above := core) (below := 0) (by rw [first]; omega) (by decide) (Nat.mod_lt _ (by decide)) (by decide)
  · exact bitsOf_field (above := 0) (below := days % 65536) (by rw [first]; omega) (Nat.mod_lt _ (by decide)) (by omega) (by decide)
  · obtain ⟨low, high, small, word⟩ := topoWord_stand t stand
    rw [shown, fitted_stand _ _ _ _ _ _ _ stand] at word
    exact bitsOf_field word small (Nat.mod_lt _ (by decide)) (by decide)

/-! ### The lookout (R458, R459) -/

/-- The word of FLT_RISK_STATUS (R458). -/
def riskWord (partner temp feed age ce r : Nat) (above paired : Bool) : Nat :=
  bnat paired * 2 ^ 49 + bnat above * 2 ^ 48 + partner * 2 ^ 40 + temp * 2 ^ 32 + feed * 2 ^ 24 + age * 2 ^ 16 + ce * 2 ^ 8 + r

theorem bnat_le (b : Bool) : bnat b ≤ 1 := by cases b <;> decide

theorem bnat_one (b : Bool) : bnat b = 1 ↔ b = true := by cases b <;> decide

/-- The fields of FLT_RISK_STATUS. -/
theorem riskWord_fields {partner temp feed age ce r : Nat} (above paired : Bool) (hp : partner < 256) (ht : temp < 256) (hf : feed < 256)
    (ha : age < 256) (hc : ce < 256) (hr : r < 256) {w : Nat} (word : w = riskWord partner temp feed age ce r above paired) :
    bitsOf w 7 0 = r ∧ bitsOf w 15 8 = ce ∧ bitsOf w 23 16 = age ∧ bitsOf w 31 24 = feed ∧ bitsOf w 39 32 = temp ∧ bitsOf w 47 40 = partner ∧
      bitsOf w 48 48 = bnat above ∧ bitsOf w 49 49 = bnat paired ∧ w < 2 ^ 64 := by
  have one := bnat_le above
  have two := bnat_le paired
  unfold riskWord at word
  generalize bnat above = a at *
  generalize bnat paired = p at *
  refine ⟨?_, ?_, ?_, ?_, ?_, ?_, ?_, ?_, ?_⟩
  · exact bitsOf_field (above := p * 2 ^ 41 + a * 2 ^ 40 + partner * 2 ^ 32 + temp * 2 ^ 24 + feed * 2 ^ 16 + age * 2 ^ 8 + ce) (below := 0)
      (by rw [word]; ring) (by decide) hr (by decide)
  · exact bitsOf_field (above := p * 2 ^ 33 + a * 2 ^ 32 + partner * 2 ^ 24 + temp * 2 ^ 16 + feed * 2 ^ 8 + age) (below := r)
      (by rw [word]; ring) hr hc (by decide)
  · exact bitsOf_field (above := p * 2 ^ 25 + a * 2 ^ 24 + partner * 2 ^ 16 + temp * 2 ^ 8 + feed) (below := ce * 2 ^ 8 + r)
      (by rw [word]; ring) (by omega) ha (by decide)
  · exact bitsOf_field (above := p * 2 ^ 17 + a * 2 ^ 16 + partner * 2 ^ 8 + temp) (below := age * 2 ^ 16 + ce * 2 ^ 8 + r)
      (by rw [word]; ring) (by omega) hf (by decide)
  · exact bitsOf_field (above := p * 2 ^ 9 + a * 2 ^ 8 + partner) (below := feed * 2 ^ 24 + age * 2 ^ 16 + ce * 2 ^ 8 + r)
      (by rw [word]; ring) (by omega) ht (by decide)
  · exact bitsOf_field (above := p * 2 + a) (below := temp * 2 ^ 32 + feed * 2 ^ 24 + age * 2 ^ 16 + ce * 2 ^ 8 + r)
      (by rw [word]; ring) (by omega) hp (by decide)
  · exact bitsOf_field (above := p) (below := partner * 2 ^ 40 + temp * 2 ^ 32 + feed * 2 ^ 24 + age * 2 ^ 16 + ce * 2 ^ 8 + r)
      (by rw [word]; ring) (by omega) (by omega) (by decide)
  · exact bitsOf_field (above := 0) (below := a * 2 ^ 48 + partner * 2 ^ 40 + temp * 2 ^ 32 + feed * 2 ^ 24 + age * 2 ^ 16 + ce * 2 ^ 8 + r)
      (by rw [word]; ring) (by omega) (by omega) (by decide)
  · omega

/-- The terms are bytes. -/
theorem age_small (e : Nat) : (if 365 ≤ e then 0 else 64 * (365 - e) / 365) < 256 := by
  split <;> omega

/-- The lookout's state once its estimate `r` is found against the threshold (R459). -/
def lookedOut (s : State) (word r th : Nat) : State :=
  let rise := decide (th ≤ r) && !s.flt.above && s.flt.armed
  let rearm := if th < 16 then decide (r = 0) else decide (r < th - 16)
  { regPut s 0x1F1008 word with
    flt := { s.flt with above := decide (th ≤ r), armed := (s.flt.armed && !rise) || rearm }
    prf := { s.prf with autoPend := s.prf.autoPend || (rise && regField s 0x1F1000 16 16 == 1) } }

/-- A rise asks for a proof of its own where the register lets it (R459), whatever event reports it. -/
theorem riseAsks {z : State} (off : z.qsu.evOn = false) (rise : Bool) (r x w : Nat) :
    (if rise = true then
      writeEvent (if regField z 0x1F1000 16 16 = 1 then { z with prf := { z.prf with autoPend := true } } else z) 0x43 r x w else z) =
    { z with prf := { z.prf with autoPend := z.prf.autoPend || (rise && regField z 0x1F1000 16 16 == 1) } } := by
  cases rise
  · simp
  · by_cases asked : regField z 0x1F1000 16 16 = 1
    · rw [if_pos rfl, if_pos asked, writeEvent_off (s := { z with prf := { z.prf with autoPend := true } }) off]
      simp [asked]
    · rw [if_pos rfl, if_neg asked, writeEvent_off off, beq_false_of_ne asked]
      simp

/-- What the lookout does once its terms have made a word and an estimate (R458, R459). -/
def lookTail (s : State) (w r th : Nat) : State :=
  let s := regPut s 0x1F1008 w
  let rise := decide (th ≤ r) && !s.flt.above && s.flt.armed
  let rearm := if th < 16 then decide (r = 0) else decide (r < th - 16)
  let s := { s with flt := { s.flt with above := decide (th ≤ r), armed := (s.flt.armed && !rise) || rearm } }
  if rise = true then
    writeEvent (if regField s 0x1F1000 16 16 = 1 then { s with prf := { s.prf with autoPend := true } } else s) 0x43 r
      (regField (if regField s 0x1F1000 16 16 = 1 then { s with prf := { s.prf with autoPend := true } } else s) 0x1F1000 7 0) w
  else s

/-- What the lookout does, while no event ring is in use. -/
theorem lookTail_eq {s : State} (off : s.qsu.evOn = false) (w r th : Nat) : lookTail s w r th = lookedOut s w r th := by
  have asked : ∀ f, regField { regPut s 0x1F1008 w with flt := f } 0x1F1000 16 16 = regField s 0x1F1000 16 16 :=
    fun _ => regField_regPut_ne s w 16 16 (by decide)
  unfold lookTail
  refine (riseAsks ?_ _ _ _ _).trans ?_
  · exact off
  · unfold lookedOut
    rw [asked]
    rfl

/-- Running firmware looks out. -/
theorem lookout_tail {s : State} (ces sags : Nat) (up : rangerUp s = true) : lookout s ces sags =
    lookTail s (riskWord ((riskTerms s ces sags).getD 4 0) ((riskTerms s ces sags).getD 3 0) ((riskTerms s ces sags).getD 2 0)
      ((riskTerms s ces sags).getD 1 0) ((riskTerms s ces sags).getD 0 0) (riskOf s (riskTerms s ces sags))
      (decide (max 1 (regField s 0x1F1000 7 0) ≤ riskOf s (riskTerms s ces sags))) (decide (s.prf.pair = 3)))
      (riskOf s (riskTerms s ces sags)) (max 1 (regField s 0x1F1000 7 0)) := by
  have awake : ¬ rangerUp s = false := by simp [up]
  rw [lookout, if_neg awake]
  rfl

theorem lookout_eq {s : State} {ces sags partner temp feed age ce r th : Nat} (up : rangerUp s = true) (off : s.qsu.evOn = false)
    (terms : riskTerms s ces sags = [ce, age, feed, temp, partner]) (risk : r = riskOf s [ce, age, feed, temp, partner])
    (least : th = max 1 (regField s 0x1F1000 7 0)) :
    lookout s ces sags = lookedOut s (riskWord partner temp feed age ce r (decide (th ≤ r)) (decide (s.prf.pair = 3))) r th := by
  rw [lookout_tail ces sags up, terms, ← risk, ← least, lookTail_eq off]
  rfl

/-- What the lookout shows and leaves. -/
theorem lookedOut_facts (s : State) (w : Nat) {r th : Nat} (least : 1 ≤ th) :
    let rises := th ≤ r ∧ s.flt.above = false ∧ s.flt.armed = true
    let t := lookedOut s w r th
    ((t.prf.autoPend = true ↔ s.prf.autoPend = true ∨ (rises ∧ regField s 0x1F1000 16 16 = 1)) ∧
      (rises → t.flt.armed = false) ∧ (16 ≤ th → r < th - 16 → t.flt.armed = true) ∧ (th < 16 → r = 0 → t.flt.armed = true)) ∧
    (∀ a, regGet t a = regGet (regPut s 0x1F1008 w) a) ∧ t.cores = s.cores ∧ t.tiers = s.tiers ∧ t.qsu = s.qsu ∧
    t.errs = s.errs ∧ t.pending = s.pending := by
  refine ⟨⟨?_, fun ⟨over_, below, armed⟩ => ?_, fun high low => ?_, fun small none_ => ?_⟩, fun _ => rfl, rfl, rfl, rfl, rfl, rfl⟩
  · simp [lookedOut, and_assoc]
  · have far : ¬ r < th - 16 := by omega
    have some_ : ¬ r = 0 := by omega
    simp [lookedOut, over_, below, armed, far, some_]
  · have large : ¬ th < 16 := by omega
    simp [lookedOut, large, low]
  · simp [lookedOut, small, none_]

/-- An estimate and its terms are bytes (R458). -/
theorem riskOf_small (s : State) (terms : List Nat) : riskOf s terms < 256 := by
  have floor : regField s 0x1F1000 15 8 < 256 := bitsOf_lt _ 15 8
  have sum : min 255 (terms.foldl (· + ·) 0) ≤ 255 := Nat.min_le_left _ _
  rw [riskOf]
  split
  · exact max_lt (by omega) floor
  · omega

/-- The term of the feed is a byte. -/
theorem feed_small (alert : Bool) (sags : Nat) : (if alert = true then 48 else min 48 (16 * sags)) < 256 := by
  have sag : min 48 (16 * sags) ≤ 48 := Nat.min_le_left _ _
  split <;> omega

/-- The term of the partner is a byte. -/
theorem partner_small (s : State) (bounded : s.prf.risk < 256) : (if s.prf.pair = 2 ∨ s.prf.pair = 3 then s.prf.risk / 4 else 0) < 256 := by
  split <;> omega

/-! ### The load and the watchdog (R460, R461) -/

/-- The load shown, and the counts of busy and idle milliseconds (R460). -/
def loadShown (s : State) (load hi lo : Nat) : State := { regSet s 0x1F1010 7 0 load with life := { s.life with hi := hi, lo := lo } }

/-- What a load check counts. -/
theorem loadCheck_eq {s : State} {load : Nat} (up : rangerUp s = true) (byte : load < 256) :
    loadCheck s load =
      let hi := if 2304 < load * 10 then s.life.hi + 1 else 0
      let lo := if load * 10 < 1792 then s.life.lo + 1 else 0
      let z := loadShown s load (if hi = 10 then 0 else hi) (if lo = 100 then 0 else lo)
      if hi = 10 ∧ shedLevel s < 3 then shedPut z (shedLevel s + 1) load
      else if lo = 100 ∧ 0 < shedLevel s then shedPut z (shedLevel s - 1) load else z := by
  have level : shedLevel (regSet s 0x1F1010 7 0 load) = shedLevel s :=
    regField_regSet_bits s 0x1F1010 7 0 load 9 8 (by decide) (by decide) (.inl (by decide))
  have awake : ¬ rangerUp s = false := by simp [up]
  rw [loadCheck, if_neg awake]
  simp only [Nat.mod_eq_of_lt byte, level]
  rfl

/-- A change of the shed level is an error of the OVERLOAD source, which only logs. -/
theorem shedPut_logs {s z : State} {f : State → State} {lvl load : Nat} (live : Live s) (off : z.qsu.evOn = false) (logs : logsOnly s 0xA94 3)
    (does : f s = shedPut z lvl load) (regs : ∀ a, a ≠ 0x1F1010 → regGet z a = regGet s a) (life : z.life.on = s.life.on) (errs : z.errs = s.errs)
    (pending : z.pending = s.pending) : ∃ t, runLive s f = .next t ∧ logged (regSet z 0x1F1010 9 8 lvl) t 0xA94 3 0 0 := by
  have kept : ∀ a, a ≠ 0x1F1010 → regGet (regSet z 0x1F1010 9 8 lvl) a = regGet s a :=
    fun a other => (regGet_regSet_ne z _ _ _ other).trans (regs a other)
  have silent : writeEvent (regSet z 0x1F1010 9 8 lvl) 0x44 load lvl 0 = regSet z 0x1F1010 9 8 lvl :=
    writeEvent_off (s := regSet z 0x1F1010 9 8 lvl) off _ _ _ _
  have frozen' : frozen (regSet z 0x1F1010 9 8 lvl) = frozen s := by
    simp only [frozen, mode, regField, kept 0x20008 (by decide), regSet_life, life]
  exact runLive_logs s (regSet z 0x1F1010 9 8 lvl) f 0xA94 3 0 0 live.1 (by rw [does, shedPut, silent])
    (logsOnly_of_record (kept _ (by decide)) (kept _ (by decide)) logs) (frozen'.trans live.1)
    (errs.trans live.2) pending

/-- The watchdog halts the firmware. -/
def rangerHalted (s : State) : State := regSet (regSet s 0x20020 3 0 6) 0x1F1010 10 10 1

theorem rangerHalted_regs (s : State) {a : Nat} (one : a ≠ 0x20020) (two : a ≠ 0x1F1010) : regGet (rangerHalted s) a = regGet s a := by
  rw [rangerHalted, regGet_regSet_ne _ _ _ _ two, regGet_regSet_ne _ _ _ _ one]

theorem rangerHalted_rest (s : State) :
    (rangerHalted s).life = s.life ∧ (rangerHalted s).errs = s.errs ∧ (rangerHalted s).pending = s.pending := by
  simp only [rangerHalted, regSet_life, regSet_errs, regSet_pending, and_self]

/-- A halted ranger is down, whatever its record logs. -/
theorem rangerHalted_down {s t : State} (log : logged (rangerHalted s) t 0xA94 2 0 0) : rangerUp t = false := by
  obtain ⟨-, -, -, -, -, -, others, -⟩ := log
  have state : regField t 0x20020 3 0 = 6 := by
    rw [regField, others _ (.inl (by decide)), rangerHalted, regGet_regSet_ne _ _ _ _ (by decide)]
    exact regField_regSet_same s 0x20020 3 0 6 (by decide)
  rw [rangerUp, state]
  rfl

end Sys2Proof.Machine

open Sys2Proof Sys2Proof.Machine in
/-- Settles O46, command by command. -/
theorem rangerWorks : Obligations.RangerWorks := by
  intro s live
  refine ⟨fun down c which => ?_, fun up => ⟨fun days core d0 d1 d2 d3 known off => ⟨fun idle => ?_, fun calm restored => ?_⟩,
    fun ces sags off bounded => ?_, fun load byte => ⟨fun high low => ?_, fun busy few => ?_, fun busy ten room off logs => ?_,
    fun idle few => ?_, fun idle hundred shed off logs => ?_⟩, fun logs => ?_⟩⟩
  · rcases which with ⟨a, b, d, rfl⟩ | ⟨a, b, rfl⟩ | ⟨a, rfl⟩ | rfl
    · exact runLive_next s s (fun s => wearFit s a b d d d d) live (if_pos (.inl down)) rfl rfl
    · exact runLive_next s s (fun s => lookout s a b) live (if_pos down) rfl rfl
    · exact runLive_next s s (fun s => loadCheck s a) live (if_pos down) rfl rfl
    · exact runLive_next s s watchdogDo live (if_pos down) rfl rfl
  · exact runLive_next s s (fun s => wearFit s days core d0 d1 d2 d3) live (if_pos (.inr idle)) rfl rfl
  · obtain ⟨flt, still, moves, cores, tiers, regs, errs, pending⟩ := wearShown_facts s (fitted s.flt days core d0 d1 d2 d3)
    obtain ⟨whole, limiting, stands⟩ := fitted_page flt known
    exact ⟨_, runLive_next s _ (fun s => wearFit s days core d0 d1 d2 d3) live (wearFit_shows up calm restored off) errs pending,
      whole, limiting, stands, still, moves, cores, tiers, regs⟩
  · intro e hot ce age feed temp partner sum r th rises
    have risk : r = riskOf s [ce, age, feed, temp, partner] := by simp [r, sum, riskOf]
    have does := lookout_eq up off (show riskTerms s ces sags = [ce, age, feed, temp, partner] from rfl) risk rfl
    obtain ⟨w, word⟩ : ∃ w, w = riskWord partner temp feed age ce r (decide (th ≤ r)) (decide (s.prf.pair = 3)) := ⟨_, rfl⟩
    rw [← word] at does
    obtain ⟨fr, fc, fa, ff, ft, fp, fabove, fpair, fits⟩ := riskWord_fields (decide (th ≤ r)) (decide (s.prf.pair = 3)) (partner_small s bounded)
      (Nat.lt_of_le_of_lt (Nat.min_le_left 48 _) (by decide)) (feed_small _ _) (age_small e)
      (Nat.lt_of_le_of_lt (Nat.min_le_left 96 _) (by decide)) (risk ▸ riskOf_small s _) word
    obtain ⟨acts, regs, cores, tiers, qsu, errs, pending⟩ := lookedOut_facts s w (r := r) (th := th) (Nat.le_max_left _ _)
    obtain ⟨auto, disarms, rearms, rearms0⟩ := acts
    have field : ∀ hi lo, regField (lookedOut s w r th) 0x1F1008 hi lo = bitsOf w hi lo := fun hi lo => by
      rw [regField, regs, regGet_regPut_same, Nat.mod_eq_of_lt fits]
    refine ⟨_, runLive_next s _ (fun s => lookout s ces sags) live does errs pending, fun a other => (regs a).trans (regGet_regPut_ne s w other),
      (field 7 0).trans fr, (field 15 8).trans fc, (field 23 16).trans fa, (field 31 24).trans ff, (field 39 32).trans ft,
      (field 47 40).trans fp, ?_, ?_, auto, disarms, rearms, rearms0, cores, tiers, qsu⟩
    · rw [field, fabove, bnat_one, decide_eq_true_iff]
    · rw [field, fpair, bnat_one, decide_eq_true_iff]
  · have busy : ¬ 2304 < load * 10 := Nat.not_lt.2 high
    have idle : ¬ load * 10 < 1792 := Nat.not_lt.2 low
    refine runLive_next s (loadShown s load 0 0) (fun s => loadCheck s load) live ?_ rfl rfl
    simp [loadCheck_eq up byte, busy, idle]
  · have idle : ¬ load * 10 < 1792 := by omega
    have ten : ¬ s.life.hi + 1 = 10 := by omega
    refine runLive_next s (loadShown s load (s.life.hi + 1) 0) (fun s => loadCheck s load) live ?_ rfl rfl
    simp [loadCheck_eq up byte, busy, idle, ten]
  · have idle : ¬ load * 10 < 1792 := by omega
    refine shedPut_logs (z := loadShown s load 0 0) (f := fun s => loadCheck s load) (load := load) live off logs ?_
      (fun a other => regGet_regSet_ne s _ _ _ other) rfl rfl rfl
    simp [loadCheck_eq up byte, busy, idle, ten, room]
  · have busy : ¬ 2304 < load * 10 := by omega
    have hundred : ¬ s.life.lo + 1 = 100 := by omega
    refine runLive_next s (loadShown s load 0 (s.life.lo + 1)) (fun s => loadCheck s load) live ?_ rfl rfl
    simp [loadCheck_eq up byte, busy, idle, hundred]
  · have busy : ¬ 2304 < load * 10 := by omega
    refine shedPut_logs (z := loadShown s load 0 0) (f := fun s => loadCheck s load) (load := load) live off logs ?_
      (fun a other => regGet_regSet_ne s _ _ _ other) rfl rfl rfl
    simp [loadCheck_eq up byte, busy, idle, hundred, shed]
  · have awake : ¬ rangerUp s = false := by simp [up]
    obtain ⟨t, runs, log⟩ := runLive_logs s (rangerHalted s) watchdogDo 0xA94 2 0 0 live.1 (if_neg awake)
      (logsOnly_of_record (rangerHalted_regs s (by decide) (by decide)) (rangerHalted_regs s (by decide) (by decide)) logs)
      ((frozen_congr (rangerHalted_regs s (by decide) (by decide)) (rangerHalted_rest s).1).trans live.1) ((rangerHalted_rest s).2.1.trans live.2) (rangerHalted_rest s).2.2
    exact ⟨t, runs, rangerHalted_down log, log⟩
end

section
/-! PROOFS. The start-up sequence (R495, R498, R500, R501, R502, R504, R505). -/

namespace Sys2Proof.Machine

/-! ### The steps up to the self-test -/

theorem regsOnly_refl (s : State) : regsOnly s s := rfl

/-- RESET_RELEASE samples the straps and sets the mode the reset ends in (R495, R528). -/
theorem release_facts {s : State} (held : s.life.released = false) (strap : Nat) :
    let t := release s strap
    t.life = { s.life with released := true } ∧ regField t 0x90000 3 0 = strap % 16 ∧
      mode t = (if s.life.lc = 0 then 2 else if regField s 0x20030 7 0 = 4 then 1 else 0) ∧
      (∀ a, a ≠ 0x90000 → a ≠ 0x20008 → regGet t a = regGet s a) ∧ t.cores = s.cores ∧ t.tiers = s.tiers ∧
      t.errs = s.errs ∧ t.pending = s.pending := by
  obtain ⟨m, ends⟩ : ∃ m, m = if s.life.lc = 0 then 2 else if regField s 0x20030 7 0 = 4 then 1 else 0 := ⟨_, rfl⟩
  have small : m < 8 := by
    rw [ends]
    split
    · decide
    · split <;> decide
  obtain ⟨z, sampled⟩ : ∃ z, z = regSet (regSet s 0x90000 3 0 strap) 0x20008 18 16 m := ⟨_, rfl⟩
  have does : release s strap = { z with life := { z.life with released := true } } := by
    rw [release, if_neg (by simp [held])]
    simp only [← ends, ← sampled]
  have fields : regField z 0x90000 3 0 = strap % 16 ∧ mode z = m ∧ ∀ a, a ≠ 0x90000 → a ≠ 0x20008 → regGet z a = regGet s a := by
    rw [sampled]
    refine ⟨?_, ?_, fun a one two => ?_⟩
    · exact (regField_regSet_ne _ _ _ _ _ _ (by decide)).trans (regField_regSet_same s 0x90000 3 0 strap (by decide))
    · exact (regField_regSet_same _ 0x20008 18 16 m (by decide)).trans (Nat.mod_eq_of_lt small)
    · exact (regGet_regSet_ne _ _ _ _ two).trans (regGet_regSet_ne s _ _ _ one)
  have kept : regsOnly s z := sampled ▸ ((regsOnly_refl s).regSet _ _ _ _).regSet _ _ _ _
  obtain ⟨r, only⟩ : ∃ r, z = { s with regs := r } := ⟨_, kept⟩
  obtain ⟨straps, mode_, others⟩ := fields
  rw [does, ← ends]
  refine ⟨?_, straps, mode_, others, ?_⟩
  · rw [only]
  · rw [only]
    exact ⟨rfl, rfl, rfl, rfl⟩

/-- A domain at its lowest point (R498 step 1). -/
def lowest (d : Nat) : Dom := ⟨domFloor d, if d < 4 then 0 else 7, 0, domFloor d, 0⟩

/-- Domains put one after another. -/
theorem domPuts_done (f : Nat → Dom) (s : State) (n : Nat) :
    (∃ doms, (List.range n).foldl (fun s d => domSet s d (f d)) s = { s with pwr := { s.pwr with doms := doms } }) ∧
      ∀ d, d < n → domGet ((List.range n).foldl (fun s d => domSet s d (f d)) s) d = f d := by
  induction n with
  | zero => exact ⟨⟨_, rfl⟩, fun d none_ => absurd none_ (Nat.not_lt_zero d)⟩
  | succ n ih =>
    obtain ⟨⟨doms, only⟩, done⟩ := ih
    simp only [List.range_succ, List.foldl_append, List.foldl_cons, List.foldl_nil]
    refine ⟨⟨_, by rw [only]; rfl⟩, fun d below => ?_⟩
    by_cases last : d = n
    · rw [last, domGet_domSet_same]
    · rw [domGet_domSet_ne _ _ last, done d (by omega)]

/-- The ramp ends with every domain at its lowest point. -/
theorem rampDone_facts {s : State} (released : s.life.released = true) (first : s.life.ramped = false) :
    let t := rampDone s
    t.life = { s.life with ramped := true } ∧ (∀ d, d < 5 → (domGet t d).point = if d < 4 then 15 else 3) ∧ t.cores = s.cores ∧
      t.tiers = s.tiers ∧ t.regs = s.regs ∧ t.errs = s.errs ∧ t.pending = s.pending := by
  obtain ⟨⟨doms, only⟩, done⟩ := domPuts_done lowest s 5
  have points := fun d known => congrArg Dom.point (done d known)
  rw [only] at points
  have does : rampDone s = { s with pwr := { s.pwr with doms := doms }, life := { s.life with ramped := true } } := by
    have put : (List.range 5).foldl (fun s d => domSet s d ⟨domFloor d, if d < 4 then 0 else 7, 0, domFloor d, 0⟩) s =
      { s with pwr := { s.pwr with doms := doms } } := only
    rw [rampDone, released, first, put]
    rfl
  rw [does]
  exact ⟨rfl, points, rfl, rfl, rfl, rfl, rfl⟩

/-- The self-test has been made (R500). -/
def testMade (s : State) : State := { s with life := { s.life with tested := true } }

/-- Whether the self-test counts a failed source (R500): one its class has, and in RECOVERY not the causing record's. -/
def testCounts (s : State) (x : Nat) : Bool :=
  (match frClass (x % 4096) with
    | some k => decide (x / 4096 < srcCount k)
    | none => false) && !(mode s == 1 && regField s 0x20030 23 12 == x % 4096)

/-- What a failed source does (R500): its unit is marked for fencing, or the ROM holds firmware back. -/
def testMark (s : State) (x : Nat) : State :=
  match frClass (x % 4096) with
  | none => s
  | some k =>
    if canFence k then { s with life := { s.life with marked := setAdd (x % 4096) s.life.marked } }
    else raisePin (regSet s 0x20008 1 1 1) (x % 4096)

/-- The count of failures shown, with the first one's record. -/
def testShown (s : State) (l : List Nat) : State := regPut (testMade s) 0x20038 ((l.headD 0) % 4096 * 2 ^ 32 + l.length)

theorem selfTest_eq {s : State} (fused : s.life.fused = true) (first : s.life.tested = false) (mode0 : mode s = 0) (failed : List Nat) :
    selfTest s failed = (failed.filter (testCounts (testMade s))).foldl testMark (testShown s (failed.filter (testCounts (testMade s)))) := by
  have early : ¬ (mode (testMade s) ≠ 0 ∧ mode (testMade s) ≠ 1) := fun h => h.1 mode0
  have does : selfTest s failed = if mode (testMade s) ≠ 0 ∧ mode (testMade s) ≠ 1 then testMade s
      else (failed.filter (testCounts (testMade s))).foldl testMark (testShown s (failed.filter (testCounts (testMade s)))) := by
    rw [selfTest, if_neg (by simp [fused, first])]
    rfl
  rw [does, if_neg early]

/-- Records are numbered below 2,710 (R437). -/
theorem frClass_small {r : Nat} (some_ : frClass r ≠ none) : r < 0xA96 := by
  by_contra large
  refine some_ ?_
  rw [frClass, if_neg (by omega), if_neg (by omega), if_neg (by omega), if_neg (by omega), if_neg (by omega), if_neg (by omega), if_neg (by omega),
    if_neg (by omega), if_neg (by omega), if_neg (by omega)]

/-- The self-test in BRINGUP, of one source that its class has. -/
theorem selfTest_one {s : State} (fused : s.life.fused = true) (first : s.life.tested = false) (mode0 : mode s = 0) {r k src : Nat}
    (class_ : frClass r = some k) (known : src < srcCount k) : selfTest s [r + 4096 * src] =
      if canFence k then { testShown s [r] with life := { s.life with tested := true, marked := setAdd r s.life.marked } }
      else raisePin (regSet (testShown s [r]) 0x20008 1 1 1) r := by
  have small := frClass_small (by rw [class_]; simp : frClass r ≠ none)
  have record : (r + 4096 * src) % 4096 = r := by omega
  have source : (r + 4096 * src) / 4096 = src := by omega
  have bringup : (mode (testMade s) == 1) = false := by rw [show mode (testMade s) = 0 from mode0]; rfl
  have counts : testCounts (testMade s) (r + 4096 * src) = true := by simp [testCounts, record, source, class_, known, bringup]
  have kept : [r + 4096 * src].filter (testCounts (testMade s)) = [r + 4096 * src] := by simp [List.filter, counts]
  have shown : testShown s [r + 4096 * src] = testShown s [r] := by
    simp only [testShown, List.headD_cons, record, Nat.mod_eq_of_lt (by omega : r < 4096), List.length_singleton]
  rw [selfTest_eq fused first mode0, kept, shown, List.foldl_cons, List.foldl_nil, testMark, record, class_]
  rfl

/-- The count of one failure. -/
theorem testShown_one {s : State} {r : Nat} (small : r < 0xA96) : regGet (testShown s [r]) 0x20038 = r * 2 ^ 32 + 1 := by
  rw [testShown, regGet_regPut_same, List.headD_cons, List.length_singleton, Nat.mod_eq_of_lt (by omega : r < 4096)]
  omega

/-- The pin asserted for a record (R463). -/
def pinRaised (s : State) (rec : Nat) : State :=
  regSet (regSet { s with flt := { s.flt with pinHeld := false } } 0x1F0800 31 31 1) 0x1F0800 11 0 rec

/-- The pin is raised, and no event ring is in use. -/
theorem raisePin_silent {s : State} (off : s.qsu.evOn = false) (rec : Nat) : raisePin s rec = pinRaised s rec := by
  have silent := writeEvent_off (s := pinRaised s rec) off
  unfold pinRaised at silent ⊢
  simp only [raisePin, silent, ite_self]

/-- What the pin shows. -/
theorem pinRaised_facts (s : State) {rec : Nat} (small : rec < 4096) :
    let t := pinRaised s rec
    regField t 0x1F0800 31 31 = 1 ∧ regField t 0x1F0800 11 0 = rec ∧ (∀ a, a ≠ 0x1F0800 → regGet t a = regGet s a) ∧
      t.flt = { s.flt with pinHeld := false } ∧ ∃ r f, t = { s with regs := r, flt := f } := by
  refine ⟨?_, ?_, fun a other => ?_, ?_, ⟨_, _, rfl⟩⟩
  · exact (regField_regSet_bits _ _ _ _ _ _ _ (by decide) (by decide) (by decide)).trans (regField_regSet_same _ 0x1F0800 31 31 1 (by decide))
  · exact (regField_regSet_same _ 0x1F0800 11 0 rec (by decide)).trans (Nat.mod_eq_of_lt small)
  · exact (regGet_regSet_ne _ _ _ _ other).trans (regGet_regSet_ne _ _ _ _ other)
  · rw [pinRaised, regSet_flt, regSet_flt]

/-! ### Firmware (R500 to R502, R508) -/

/-- FW_LOAD starts where nothing keeps it. -/
theorem fwLoad_eq (s : State) : fwLoad s =
    if (fwState s = 1 ∨ fwState s = 2 ∨ fwState s = 6) ∨ s.life.tested = false ∨
      ¬(s.tiers.wPlates = true ∧ s.tiers.wCaches = true ∧ s.tiers.wErased = true ∧ s.tiers.wCanopy = true) ∨ regField s 0x20008 1 1 = 1
    then s else regSet s 0x20020 3 0 1 := by
  rw [fwLoad]
  refine if_congr ?_ rfl rfl
  simp only [Bool.or_eq_true, beq_iff_eq, Bool.not_eq_true', Bool.and_eq_false_iff, not_and_or, Bool.not_eq_true, or_assoc]

/-- A signing key that a life-cycle state accepts (R508). -/
theorem keyAccepted_iff (lc key : Nat) : keyAccepted lc key = true ↔
    lc = 0 ∧ key = 2 ∨ lc = 1 ∧ (key = 1 ∨ key = 2) ∨ lc = 2 ∧ key = 1 := by
  unfold keyAccepted
  split
  · simp
  · simp
  · simp
  · next zero one two =>
    simp only [Bool.false_eq_true, false_iff, not_or, not_and]
    exact ⟨fun h => absurd h zero, fun h => absurd h one, fun h => absurd h two⟩

end Sys2Proof.Machine

namespace Sys2Proof.Machine

/-- Whether an image and its header lie in the canopy (R501). -/
def fwPlaced (pa body : Nat) : Prop := paTier pa = 0 ∧ pa + 4096 + body ≤ 1152 * gib

/-- Whether a header has its form, and the image fits the length given (R501, R502). -/
def fwFormed (s : State) (h : List Byte) (body : Nat) : Prop :=
  fieldAt h 0 4 = 0x57524D5A ∧ (∀ x ∈ h.drop 112, x = 0) ∧ 4096 + body ≤ regField s 0x20018 61 48 * 1024 ∧ 4096 + body ≤ 8 * 2 ^ 20

/-- Whether an image is signed with a key that the life-cycle state accepts (R502, R508). -/
def fwSigned (s : State) (h image : List Byte) (key : Nat) : Prop :=
  (s.life.lc = 0 ∧ key = 2 ∨ s.life.lc = 1 ∧ (key = 1 ∨ key = 2) ∨ s.life.lc = 2 ∧ key = 1) ∧
    Config.sigOk key (sha384 (h.take 16 ++ image)) (leNat ((h.drop 16).take 96)) = true

open Classical in
/-- The verdict on an image, refusal by refusal (R502). -/
theorem fwVerdict_eq (s : State) {pa body key : Nat} {h image : List Byte} (at_ : pa = regField s 0x20018 45 12 * 4096)
    (header : h = (paRead s 0 pa 4096).1) (long : body = fieldAt h 12 4) (rest : image = (paRead s 0 (pa + 4096) body).1)
    (signer : key = fieldAt h 10 2) : fwVerdict s =
      if ¬(fwPlaced pa body ∧ fwFormed s h body) then (3, h)
      else if ¬ fwSigned s h image key then (4, h)
      else if fieldAt h 8 2 < s.life.minSvn then (5, h)
      else (2, h) := by
  rw [fwVerdict]
  simp only [← at_, ← header, ← long, ← rest, ← signer]
  refine if_ctx_congr ?_ (fun _ => rfl) fun _ => if_ctx_congr ?_ (fun _ => rfl) fun _ => rfl
  · simp only [fwPlaced, fwFormed, Bool.or_eq_true, Bool.not_eq_true', bne_iff_ne, ne_eq, Bool.and_eq_false_iff, beq_eq_false_iff_ne,
      decide_eq_false_iff_not, decide_eq_true_iff, List.all_eq_false, beq_iff_eq, Nat.not_le, min_lt_iff]
    constructor
    · rintro ((((near | magic) | dirty) | short) | far) ⟨⟨tier, fits⟩, good, clean, len, max_⟩
      · rcases near with off | out
        · exact off tier
        · omega
      · exact magic good
      · obtain ⟨x, mem, nonzero⟩ := dirty
        exact nonzero (clean x mem)
      · omega
      · rcases far with off | out
        · exact off tier
        · omega
    · intro bad
      by_contra none_
      push Not at none_
      obtain ⟨⟨⟨⟨⟨tier, near⟩, good⟩, clean⟩, lens⟩, -, far⟩ := none_
      exact bad ⟨⟨tier, by omega⟩, good, clean, by omega, by omega⟩
  · simp only [fwSigned, Bool.or_eq_true, Bool.not_eq_true', ← keyAccepted_iff, not_and_or, Bool.not_eq_true]

/-- Firmware starts, and shows its version and its security number (R502). -/
def fwStarted (s : State) (version svn key : Nat) : State :=
  let z := regSet (regSet (regSet s 0x20020 3 0 2) 0x20020 63 32 version) 0x20020 31 16 svn
  { z with life := { z.life with fwKey := key } }

/-- An image that is accepted starts. -/
theorem fwVerified_starts {s : State} (verifying : fwState s = 1) {h : List Byte} (verdict : fwVerdict s = (2, h)) :
    fwVerified s = fwStarted s (fieldAt h 4 4) (fieldAt h 8 2) (fieldAt h 10 2) := by
  rw [fwVerified, if_neg (by simp [verifying])]
  simp only [verdict, if_true]
  rfl

/-- An image that is refused shows why. -/
theorem fwVerified_refuses {s : State} (verifying : fwState s = 1) {h : List Byte} {st : Nat} (verdict : fwVerdict s = (st, h)) (bad : st ≠ 2) :
    fwVerified s = regSet s 0x20020 3 0 st := by
  rw [fwVerified, if_neg (by simp [verifying])]
  simp only [verdict, if_neg bad]

theorem fieldAt_lt (l : List Byte) (o n : Nat) : fieldAt l o n < 256 ^ n :=
  (leNat_lt _).trans_le (Nat.pow_le_pow_right (by decide) (by rw [List.length_take]; exact Nat.min_le_left _ _))

/-- What firmware that starts shows and leaves. -/
theorem fwStarted_facts (s : State) (key : Nat) {version svn : Nat} (small : version < 2 ^ 32) (short : svn < 2 ^ 16) :
    let t := fwStarted s version svn key
    fwState t = 2 ∧ regField t 0x20020 63 32 = version ∧ regField t 0x20020 31 16 = svn ∧ t.life = { s.life with fwKey := key } ∧
      (∀ a, a ≠ 0x20020 → regGet t a = regGet s a) ∧ t.cores = s.cores ∧ t.tiers = s.tiers ∧ t.errs = s.errs ∧ t.pending = s.pending := by
  obtain ⟨z, does⟩ : ∃ z, z = regSet (regSet (regSet s 0x20020 3 0 2) 0x20020 63 32 version) 0x20020 31 16 svn := ⟨_, rfl⟩
  have kept : regsOnly s z := does ▸ (((regsOnly_refl s).regSet _ _ _ _).regSet _ _ _ _).regSet _ _ _ _
  obtain ⟨r, only⟩ : ∃ r, z = { s with regs := r } := ⟨_, kept⟩
  have others : ∀ a, a ≠ 0x20020 → regGet z a = regGet s a := fun a other => by
    rw [does, regGet_regSet_ne _ _ _ _ other, regGet_regSet_ne _ _ _ _ other, regGet_regSet_ne _ _ _ _ other]
  have started : fwStarted s version svn key = { z with life := { z.life with fwKey := key } } := by simp only [fwStarted, ← does]
  have reads : ∀ hi lo, regField (fwStarted s version svn key) 0x20020 hi lo = regField z 0x20020 hi lo := fun hi lo => by rw [started]; rfl
  refine ⟨?_, ?_, ?_, ?_⟩
  · rw [fwState, reads, does, regField_regSet_bits _ _ _ _ _ _ _ (by decide) (by decide) (by decide),
      regField_regSet_bits _ _ _ _ _ _ _ (by decide) (by decide) (by decide)]
    exact regField_regSet_same s 0x20020 3 0 2 (by decide)
  · rw [reads, does, regField_regSet_bits _ _ _ _ _ _ _ (by decide) (by decide) (by decide), regField_regSet_same _ _ _ _ _ (by decide)]
    exact Nat.mod_eq_of_lt small
  · rw [reads, does, regField_regSet_same _ _ _ _ _ (by decide)]
    exact Nat.mod_eq_of_lt short
  · rw [started]
    rw [only] at others ⊢
    exact ⟨rfl, others, rfl, rfl, rfl, rfl⟩

/-! ### The wear history (R462, R504, R505) -/

/-- A register rewritten from its own value. -/
def regUpd (place : Nat → Nat) (f : Nat → Nat → Nat) (s : State) (i : Nat) : State := regPut s (place i) (f i (regGet s (place i)))

/-- Registers rewritten one after another: each once, and no other. -/
theorem regUpds_done {place : Nat → Nat} (apart : Function.Injective place) (f : Nat → Nat → Nat) (l : List Nat) (once : l.Nodup) (s : State) :
    (∃ r, l.foldl (regUpd place f) s = { s with regs := r }) ∧
      (∀ i ∈ l, regGet (l.foldl (regUpd place f) s) (place i) = f i (regGet s (place i)) % 2 ^ 64) ∧
      ∀ a, (∀ i ∈ l, a ≠ place i) → regGet (l.foldl (regUpd place f) s) a = regGet s a := by
  induction l generalizing s with
  | nil => exact ⟨⟨_, rfl⟩, fun i none_ => absurd none_ List.not_mem_nil, fun _ _ => rfl⟩
  | cons i l ih =>
    obtain ⟨fresh, once⟩ := List.nodup_cons.1 once
    obtain ⟨⟨r, only⟩, done, left⟩ := ih once (regUpd place f s i)
    rw [List.foldl_cons]
    refine ⟨⟨r, only.trans rfl⟩, fun j mem => ?_, fun a others => ?_⟩
    · rcases List.mem_cons.1 mem with rfl | later
      · rw [left _ (fun k memk same => fresh (by rwa [apart same])), regUpd, regGet_regPut_same]
      · have distinct : place j ≠ place i := fun same => fresh (by rwa [← apart same])
        rw [done j later, regUpd, regGet_regPut_ne _ _ distinct]
    · rw [left a (fun k memk => others k (List.mem_cons_of_mem _ memk)), regUpd, regGet_regPut_ne _ _ (others i List.mem_cons_self)]

/-- The three parts of a wear area that are added: the cores' counts, the stands', and the records'. -/
def wearCores (b : List Byte) (c old : Nat) : Nat := putBits old 63 32 (bitsOf old 63 32 + fieldAt b (0x100 + 4 * c) 4)
def wearStands (b : List Byte) (i old : Nat) : Nat := putBits old 63 32 (bitsOf old 63 32 + fieldAt b (0x2700 + 4 * i) 4)
def wearRecords (b : List Byte) (r old : Nat) : Nat := putBits old 15 0 (satAdd 16 (bitsOf old 15 0) (fieldAt b (0x2800 + 2 * r) 2))

/-- The records that a class has. -/
def wearList : List Nat := (List.range 0xA96).filter (fun r => (frClass r).isSome)

theorem wearAdd_eq (s : State) (b : List Byte) : wearAdd s b = wearList.foldl (regUpd (fun r => frOff r + 0x40) (wearRecords b))
    ((List.range 4).foldl (regUpd (fun i => frOff (0xA8C + i) + 0x80) (wearStands b))
      ((List.range 2400).foldl (regUpd (fun c => frOff c + 0x80) (wearCores b)) s)) := rfl

theorem mem_wearList {r : Nat} (some_ : (frClass r).isSome = true) : r ∈ wearList := by
  have small := frClass_small (Option.isSome_iff_ne_none.1 some_)
  exact List.mem_filter.2 ⟨List.mem_range.2 small, some_⟩

theorem frOff_injective (o : Nat) : Function.Injective (fun r => frOff r + o) := fun a b same => by
  simp only [frOff] at same
  omega

/-- What the counts come to once a wear area has been added. -/
theorem wearAdd_facts (s : State) (b : List Byte) : (∃ r, wearAdd s b = { s with regs := r }) ∧
    (∀ c, c < 2400 → regField (wearAdd s b) (frOff c + 0x80) 63 32 = (regField s (frOff c + 0x80) 63 32 + fieldAt b (0x100 + 4 * c) 4) % 2 ^ 32) ∧
    (∀ r, (frClass r).isSome = true → regField (wearAdd s b) (frOff r + 0x40) 15 0 =
      satAdd 16 (regField s (frOff r + 0x40) 15 0) (fieldAt b (0x2800 + 2 * r) 2)) ∧
    ∀ a, a < 0x100000 → regGet (wearAdd s b) a = regGet s a := by
  obtain ⟨u, cored⟩ : ∃ u, u = (List.range 2400).foldl (regUpd (fun c => frOff c + 0x80) (wearCores b)) s := ⟨_, rfl⟩
  obtain ⟨v, standed⟩ : ∃ v, v = (List.range 4).foldl (regUpd (fun i => frOff (0xA8C + i) + 0x80) (wearStands b)) u := ⟨_, rfl⟩
  obtain ⟨⟨r1, only1⟩, done1, left1⟩ := regUpds_done (frOff_injective 0x80) (wearCores b) (List.range 2400) List.nodup_range s
  obtain ⟨⟨r2, only2⟩, -, left2⟩ := regUpds_done (fun i j same => Nat.add_left_cancel (frOff_injective 0x80 same)) (wearStands b) (List.range 4)
    List.nodup_range u (place := fun i => frOff (0xA8C + i) + 0x80)
  obtain ⟨⟨r3, only3⟩, done3, left3⟩ := regUpds_done (frOff_injective 0x40) (wearRecords b) wearList (List.nodup_range.filter _) v
  rw [← cored] at only1 done1 left1
  rw [← standed] at only2 left2
  rw [wearAdd_eq, ← cored, ← standed]
  refine ⟨?_, fun c known => ?_, fun r some_ => ?_, fun a low => ?_⟩
  · exact ⟨r3, by rw [only3, only2, only1]⟩
  · rw [regField, left3 _ (fun r _ same => by simp only [frOff] at same; omega), left2 _ (fun i mem same => by
      have := List.mem_range.1 mem
      simp only [frOff] at same
      omega), done1 c (List.mem_range.2 known), bitsOf_mod64 _ _ _ (by decide), wearCores, bitsOf_putBits_same]
    rfl
  · have before : regGet v (frOff r + 0x40) = regGet s (frOff r + 0x40) := by
      rw [left2 _ (fun i _ same => by simp only [frOff] at same; omega), left1 _ (fun c _ same => by simp only [frOff] at same; omega)]
    rw [regField, done3 r (mem_wearList some_), bitsOf_mod64 _ _ _ (by decide), before, wearRecords, bitsOf_putBits_same]
    exact Nat.mod_eq_of_lt (satAdd_lt _ _ _)
  · rw [left3 _ (fun r _ same => by simp only [frOff] at same; omega), left2 _ (fun i _ same => by simp only [frOff] at same; omega),
      left1 _ (fun c _ same => by simp only [frOff] at same; omega)]

/-- Whether firmware takes a wear area (R505). -/
theorem wearOk_iff (s : State) (b : List Byte) : wearOk s b = true ↔ rangerUp s = true ∧ s.flt.restored = false ∧ wearInCanopy s = true ∧
    fieldAt b 0 8 = 0x000152414557 ∧ fieldAt b 8 8 = Config.serial % 2 ^ 64 ∧ fieldAt b 0x20 4 = crc32 (listPut b 0x20 [0, 0, 0, 0]) := by
  simp only [wearOk, Bool.and_eq_true, Bool.not_eq_true', beq_iff_eq, and_assoc]

/-- The history restored (R505), before its event. -/
def wearRestored (s : State) (b : List Byte) : State :=
  let z := wearAdd { s with life := { s.life with wearPend := false } } b
  regSet { z with flt := { z.flt with restored := true, eol := fieldAt b 0x18 2 } } 0x20028 62 61 1

/-- WEAR_LOAD, outside a disable. -/
theorem wearLoad_eq {s : State} (free : mode s ≠ 4) {b : List Byte} (area : b = (paRead s 0 (wearPA s) 65536).1) : wearLoad s =
    if wearOk { s with life := { s.life with wearPend := false } } b = true then topoChange (wearRestored s b)
    else regSet { s with life := { s.life with wearPend := false } } 0x20028 62 61 2 := by
  rw [wearLoad, if_neg free]
  simp only [← area, wearRestored]

/-- What a history that is restored shows and leaves. -/
theorem wearRestored_facts (s : State) (b : List Byte) :
    let t := wearRestored s b
    regField t 0x20028 62 61 = 1 ∧ t.flt = { s.flt with restored := true, eol := fieldAt b 0x18 2 } ∧
      (∀ a, a ≠ 0x20028 → regGet t a = regGet (wearAdd { s with life := { s.life with wearPend := false } } b) a) ∧
      t.cores = s.cores ∧ t.tiers = s.tiers ∧ t.qsu = s.qsu ∧ t.errs = s.errs ∧ t.pending = s.pending := by
  obtain ⟨z, added⟩ : ∃ z, z = wearAdd { s with life := { s.life with wearPend := false } } b := ⟨_, rfl⟩
  obtain ⟨r, only⟩ := (wearAdd_facts { s with life := { s.life with wearPend := false } } b).1
  have does : wearRestored s b = regSet { z with flt := { z.flt with restored := true, eol := fieldAt b 0x18 2 } } 0x20028 62 61 1 := by
    simp only [wearRestored, ← added]
  rw [← added] at only ⊢
  rw [does]
  refine ⟨regField_regSet_same _ 0x20028 62 61 1 (by decide), ?_, fun a other => regGet_regSet_ne _ _ _ _ other, ?_⟩
  · rw [regSet_flt, only]
  · rw [regSet_cores, regSet_tiers, regSet_qsu, regSet_errs, regSet_pending, only]
    exact ⟨rfl, rfl, rfl, rfl, rfl⟩

/-! ### The commands, one by one -/

section Commands
variable {s : State} (live : Live s)
include live

/-- SELF_TEST_DONE with one failed source in BRINGUP (R500). -/
theorem exec_selfTestDone_one (fused : s.life.fused = true) (first : s.life.tested = false) (mode0 : mode s = 0) {r k src : Nat}
    (class_ : frClass r = some k) (known : src < srcCount k) :
    (canFence k = true → ∃ t, exec (.selfTestDone [r + 4096 * src]) s = .next t ∧ regGet t 0x20038 = r * 2 ^ 32 + 1 ∧
      t.life = { s.life with tested := true, marked := setAdd r s.life.marked } ∧ t.cores = s.cores ∧ t.tiers = s.tiers ∧
      ∀ a, a ≠ 0x20038 → regGet t a = regGet s a) ∧
    (canFence k = false → s.qsu.evOn = false → ∃ t, exec (.selfTestDone [r + 4096 * src]) s = .next t ∧ regGet t 0x20038 = r * 2 ^ 32 + 1 ∧
      regField t 0x20008 1 1 = 1 ∧ regField t 0x1F0800 31 31 = 1 ∧ regField t 0x1F0800 11 0 = r ∧
      t.life = { s.life with tested := true } ∧ t.cores = s.cores ∧ t.tiers = s.tiers) := by
  have small := frClass_small (by rw [class_]; simp : frClass r ≠ none)
  have does := selfTest_one fused first mode0 class_ known
  have counted := testShown_one (s := s) small
  obtain ⟨z, shown⟩ : ∃ z, z = testShown s [r] := ⟨_, rfl⟩
  have only : ∃ regs, z = { s with life := { s.life with tested := true }, regs := regs } := ⟨_, shown⟩
  have others : ∀ a, a ≠ 0x20038 → regGet z a = regGet s a := fun a other => shown ▸ regGet_regPut_ne _ _ other
  rw [← shown] at does counted
  refine ⟨fun can => ?_, fun cannot off => ?_⟩
  · rw [if_pos can] at does
    obtain ⟨regs, only⟩ := only
    rw [only] at does counted others
    exact ⟨_, runLive_next s _ (fun s => selfTest s [r + 4096 * src]) live does rfl rfl, counted, rfl, rfl, rfl, others⟩
  · have silent := raisePin_silent (s := regSet z 0x20008 1 1 1) (by rw [shown]; exact off) r
    obtain ⟨pin, named, others', -, regs, flt, only'⟩ := pinRaised_facts (regSet z 0x20008 1 1 1) (by omega : r < 4096)
    rw [if_neg (by simp [cannot]), silent] at does
    have rests : (pinRaised (regSet z 0x20008 1 1 1) r).errs = s.errs ∧ (pinRaised (regSet z 0x20008 1 1 1) r).pending = s.pending ∧
        (pinRaised (regSet z 0x20008 1 1 1) r).life = { s.life with tested := true } ∧
        (pinRaised (regSet z 0x20008 1 1 1) r).cores = s.cores ∧ (pinRaised (regSet z 0x20008 1 1 1) r).tiers = s.tiers := by
      rw [only']
      obtain ⟨regs, only⟩ := only
      simp only [regSet_errs, regSet_pending, regSet_life, regSet_cores, regSet_tiers, only, and_self]
    obtain ⟨errs, pending, tested, cores, tiers⟩ := rests
    refine ⟨_, runLive_next s _ (fun s => selfTest s [r + 4096 * src]) live does errs pending, ?_, ?_, pin, named, tested, cores, tiers⟩
    · rw [others' _ (by decide), regGet_regSet_ne _ _ _ _ (by decide), counted]
    · rw [regField, others' _ (by decide)]
      exact regField_regSet_same z 0x20008 1 1 1 (by decide)

/-- FIRMWARE_VERIFIED shows a refusal (R502). -/
theorem exec_firmwareVerified_refuses (verifying : fwState s = 1) {h : List Byte} {st : Nat} (verdict : fwVerdict s = (st, h)) (bad : st ≠ 2) :
    exec .firmwareVerified s = .next (regSet s 0x20020 3 0 st) :=
  runLive_next s _ fwVerified live (fwVerified_refuses verifying verdict bad) rfl rfl

/-- FIRMWARE_VERIFIED starts an image that is accepted (R502). -/
theorem exec_firmwareVerified_starts (verifying : fwState s = 1) {h : List Byte} (verdict : fwVerdict s = (2, h)) :
    ∃ t, exec .firmwareVerified s = .next t ∧ fwState t = 2 ∧ regField t 0x20020 63 32 = fieldAt h 4 4 ∧
      regField t 0x20020 31 16 = fieldAt h 8 2 ∧ t.life = { s.life with fwKey := fieldAt h 10 2 } ∧
      (∀ a, a ≠ 0x20020 → regGet t a = regGet s a) ∧ t.cores = s.cores ∧ t.tiers = s.tiers := by
  obtain ⟨runs, version, number, signer, others, cores, tiers, errs, pending⟩ := fwStarted_facts s (fieldAt h 10 2)
    (version := fieldAt h 4 4) (svn := fieldAt h 8 2) (fieldAt_lt h 4 4) (fieldAt_lt h 8 2)
  exact ⟨_, runLive_next s _ fwVerified live (fwVerified_starts verifying verdict) errs pending, runs, version, number, signer, others,
    cores, tiers⟩

/-- WEAR_LOAD takes an area that is good (R505). -/
theorem exec_wearLoad_takes (free : mode s ≠ 4) {b : List Byte} (area : b = (paRead s 0 (wearPA s) 65536).1)
    (ok : wearOk { s with life := { s.life with wearPend := false } } b = true) (off : s.qsu.evOn = false) :
    ∃ t, exec .wearLoad s = .next t ∧ regField t 0x20028 62 61 = 1 ∧ t.flt.restored = true ∧ t.flt.eol = fieldAt b 0x18 2 ∧
      (∀ c, c < 2400 → regField t (frOff c + 0x80) 63 32 = (regField s (frOff c + 0x80) 63 32 + fieldAt b (0x100 + 4 * c) 4) % 2 ^ 32) ∧
      (∀ r, (frClass r).isSome → regField t (frOff r + 0x40) 15 0 = satAdd 16 (regField s (frOff r + 0x40) 15 0) (fieldAt b (0x2800 + 2 * r) 2)) ∧
      t.cores = s.cores ∧ t.tiers = s.tiers := by
  have does := (wearLoad_eq free area).trans (if_pos ok)
  have same : ∀ a hi lo, regField { s with life := { s.life with wearPend := false } } a hi lo = regField s a hi lo := fun _ _ _ => rfl
  obtain ⟨-, counts, recovered, -⟩ := wearAdd_facts { s with life := { s.life with wearPend := false } } b
  simp only [same] at counts recovered
  obtain ⟨z, restored⟩ : ∃ z, z = wearRestored s b := ⟨_, rfl⟩
  have facts := wearRestored_facts s b
  rw [← restored] at does facts
  obtain ⟨shown, flt, others, cores, tiers, qsu, errs, pending⟩ := facts
  obtain ⟨g, silent⟩ : ∃ g, topoChange z = { z with qsu := { z.qsu with topoGen := g } } :=
    ⟨_, topoChange_off (s := z) ((congrArg Qsu.evOn qsu).trans off)⟩
  have reads : ∀ a hi lo, a ≠ 0x20028 → regField { z with qsu := { z.qsu with topoGen := g } } a hi lo =
      regField (wearAdd { s with life := { s.life with wearPend := false } } b) a hi lo := by
    intro a hi lo other
    rw [regField, regField, ← others a other]
    rfl
  rw [silent] at does
  refine ⟨_, runLive_next s _ wearLoad live does errs pending, shown, congrArg Flt.restored flt, congrArg Flt.eol flt, fun c known => ?_,
    fun r some_ => ?_, cores, tiers⟩
  · rw [reads _ _ _ (by unfold frOff; omega), counts c known]
  · rw [reads _ _ _ (by unfold frOff; omega), recovered r some_]

end Commands

end Sys2Proof.Machine

open Sys2Proof Sys2Proof.Machine in
/-- Settles O48, step by step. -/
theorem startUp : Obligations.StartUp := by
  intro s live life wiped
  refine ⟨fun strap => ⟨fun done => ?_, fun held => ?_⟩, fun idle => ?_, fun released first => ?_, fun early => ?_, fun ramped => ?_, fun held => ?_,
    fun released => ?_, fun failed idle => ?_, fun fused first mode0 => ⟨?_, fun r k src class_ known => ⟨fun fences => ?_, fun a b c d => ?_⟩⟩,
    ⟨fun kept => ?_, fun a b c tested all clear => ?_⟩, fun other => ?_, fun verifying => ?_, fun mode4 => ?_, fun free => ?_⟩
  · exact runLive_next s s (fun s => release s strap) live (if_pos done) rfl rfl
  · obtain ⟨released, straps, mode_, others, cores, tiers, errs, pending⟩ := release_facts held strap
    exact ⟨_, runLive_next s _ (fun s => release s strap) live rfl errs pending, released, straps, mode_, others, cores, tiers⟩
  · have still : ¬ (s.life.released && !s.life.ramped) = true := by
      rcases idle with held | ramped
      · simp [held]
      · simp [ramped]
    exact runLive_next s s rampDone live (if_neg still) rfl rfl
  · obtain ⟨ramped, points, cores, tiers, regs, errs, pending⟩ := rampDone_facts released first
    exact ⟨_, runLive_next s _ rampDone live rfl errs pending, ramped, points, cores, tiers, regs⟩
  · exact runLive_next s s _ live (if_neg (by simp [early])) rfl rfl
  · exact runLive_next s _ _ live (if_pos ramped) rfl rfl
  · exact runLive_next s s _ live (if_neg (by simp [held])) rfl rfl
  · exact runLive_next s _ _ live (if_pos released) rfl rfl
  · have still : (!s.life.fused || s.life.tested) = true := by
      rcases idle with unfused | tested
      · simp [unfused]
      · simp [tested]
    exact runLive_next s s (fun s => selfTest s failed) live (if_pos still) rfl rfl
  · exact runLive_next s (testShown s []) (fun s => selfTest s []) live (selfTest_eq fused first mode0 []) rfl rfl
  · refine (exec_selfTestDone_one live fused first mode0 class_ known).1 ?_
    rcases fences with rfl | rfl | rfl | rfl <;> rfl
  · exact (exec_selfTestDone_one live fused first mode0 class_ known).2 (by simp [canFence, a, b, c, d])
  · refine runLive_next s s fwLoad live ?_ rfl rfl
    rw [fwLoad_eq, if_pos (by tauto)]
  · refine runLive_next s _ fwLoad live ?_ rfl rfl
    rw [fwLoad_eq, if_neg]
    rintro ((x | x | x) | x | x | x)
    · exact a x
    · exact b x
    · exact c x
    · exact absurd (x.symm.trans tested) (by decide)
    · exact x all
    · exact absurd (x.symm.trans clear) (by decide)
  · exact runLive_next s s fwVerified live (if_pos other) rfl rfl
  · intro pa h body image key svn refused placed formed known signed
    have verdict := fwVerdict_eq s (pa := pa) (h := h) (body := body) (image := image) (key := key) rfl rfl rfl rfl rfl
    have whole : placed → formed → ¬¬(fwPlaced pa body ∧ fwFormed s h body) := fun a b => not_not.2 ⟨a, b⟩
    have checked : signed → ¬¬ fwSigned s h image key := not_not.2
    refine ⟨fun bad => ?_, fun a b bad => ?_, fun a b c old => ?_, fun a b c young => ?_⟩
    · exact exec_firmwareVerified_refuses live verifying (verdict.trans (if_pos bad)) (by decide)
    · exact exec_firmwareVerified_refuses live verifying (verdict.trans ((if_neg (whole a b)).trans (if_pos bad))) (by decide)
    · exact exec_firmwareVerified_refuses live verifying
        (verdict.trans ((if_neg (whole a b)).trans ((if_neg (checked c)).trans (if_pos old)))) (by decide)
    · exact exec_firmwareVerified_starts live verifying
        (verdict.trans ((if_neg (whole a b)).trans ((if_neg (checked c)).trans (if_neg (Nat.not_lt.2 young)))))
  · exact runLive_next s _ wearLoad live (if_pos mode4) rfl rfl
  · intro b good
    have fits : wearOk { s with life := { s.life with wearPend := false } } b = true ↔ good := wearOk_iff _ b
    exact ⟨fun bad => runLive_next s _ wearLoad live ((wearLoad_eq free rfl).trans (if_neg (fun ok => bad (fits.1 ok)))) rfl rfl,
      fun ok off => exec_wearLoad_takes live free rfl (fits.2 ok) off⟩
end

section
/-! PROOFS. Fault records (R437, R439, R440, R443, R444, R452 to R455, R463): what one error does to its record. -/

namespace Sys2Proof.Machine

/-! ### Settling one error -/

/-- A step that has detected one error, whose handling notes none, ends with that handling. -/
theorem settle_one {u : State} {e : ErrNote} (calm : u.errs = []) (ends : (handleErr u e).errs = []) :
    settle { u with errs := [e] } = handleErr u e := by
  have restored : { u with errs := [] } = u := by rw [← calm]
  have still : ∀ n (x : State), x.errs = [] → settleLoop (n + 1) x = x := by
    intro n x none_
    show (match nextErr x.errs with | none => _ | some e => _) = _
    rw [none_]
    rfl
  have first : settleLoop 4096 { u with errs := [e] } = settleLoop 4095 (handleErr { u with errs := [] } e) := by
    show (match nextErr [e] with
      | none => ({ u with errs := [e] } : State)
      | some x => settleLoop 4095 (handleErr { u with errs := [e].erase x } x)) = _
    simp only [nextErr, List.foldl_nil, List.erase_cons_head]
  rw [settle, if_neg (by simp), first, restored, still 4094 _ ends]

/-- A command that detects one error, whose handling notes none. -/
theorem runLive_one {s u t : State} {f : State → State} {e : ErrNote} (live : frozen s = false) (does : f s = { u with errs := [e] })
    (calm : u.errs = []) (handled : handleErr u e = t) (ends : t.errs = []) (pending : t.pending = s.pending) : runLive s f = .next t := by
  have settled : settle (f s) = t := by rw [does, settle_one calm (by rw [handled, ends]), handled]
  rw [runLive, live, if_neg (by simp), settled, ← pending]

/-! ### The latch and the counts (R439, R440) -/

/-- The first error is latched. -/
theorem frLatch_first {s : State} {e : ErrNote} {code o : Nat} (at_ : o = frOff e.recd) (fresh : regField s o 4 4 = 0) :
    let t := frLatch s e code
    regsOnly s t ∧ regField t o 2 0 = regField s o 2 0 ∧ regField t o 4 4 = 1 ∧ regField t o 23 19 = e.src % 32 ∧
      (e.forced = true → regField t o 8 8 = 1) ∧ regGet t (o + 8) = e.synd % 2 ^ 64 ∧ regGet t (o + 16) = e.addr % 2 ^ 64 ∧
      ∀ a, a ≠ o → a ≠ o + 8 → a ≠ o + 16 → regGet t a = regGet s a := by
  obtain ⟨x, coded⟩ : ∃ x, x = regSet (regSet (regSet s o 23 19 e.src) o 18 16 code) o 4 4 1 := ⟨_, rfl⟩
  obtain ⟨y, marked⟩ : ∃ y, y = if e.forced then regSet x o 8 8 1 else x := ⟨_, rfl⟩
  have latched : frLatch s e code = regPut (regPut y (o + 8) e.synd) (o + 16) e.addr := by
    rw [frLatch]
    simp only [← at_, fresh, Nat.zero_ne_one, if_false, ← coded, ← marked]
  have keptX : regsOnly s x := coded ▸ (((regsOnly_refl s).regSet _ _ _ _).regSet _ _ _ _).regSet _ _ _ _
  have keptY : regsOnly s y := by
    rw [marked]
    split
    · exact keptX.regSet _ _ _ _
    · exact keptX
  have fieldX : ∀ hi lo, hi < 64 → lo ≤ hi → hi < 4 ∨ 4 < lo ∧ hi < 16 ∨ 23 < lo → regField x o hi lo = regField s o hi lo := by
    intro hi lo top order apart
    rw [coded, regField_regSet_bits _ _ _ _ _ _ _ (by decide) top (by omega), regField_regSet_bits _ _ _ _ _ _ _ (by decide) top (by omega),
      regField_regSet_bits _ _ _ _ _ _ _ (by decide) top (by omega)]
  have fieldY : ∀ hi lo, hi < 64 → hi < 8 ∨ 8 < lo → regField y o hi lo = regField x o hi lo := by
    intro hi lo top apart
    rw [marked]
    split
    · rw [regField_regSet_bits _ _ _ _ _ _ _ (by decide) top (by omega)]
    · rfl
  have field : ∀ hi lo, regField (frLatch s e code) o hi lo = regField y o hi lo := by
    intro hi lo
    rw [latched, regField_regPut_ne _ _ _ _ (by omega), regField_regPut_ne _ _ _ _ (by omega)]
  refine ⟨latched ▸ (keptY.regPut _ _).regPut _ _, ?_, ?_, ?_, fun forced => ?_, ?_, ?_, fun a zero one two => ?_⟩
  · rw [field, fieldY _ _ (by decide) (.inl (by decide)), fieldX _ _ (by decide) (by decide) (.inl (by decide))]
  · rw [field, fieldY _ _ (by decide) (.inl (by decide)), coded]
    exact regField_regSet_same _ o 4 4 1 (by decide)
  · rw [field, fieldY _ _ (by decide) (.inr (by decide)), coded, regField_regSet_bits _ _ _ _ _ _ _ (by decide) (by decide) (by decide),
      regField_regSet_bits _ _ _ _ _ _ _ (by decide) (by decide) (by decide)]
    exact regField_regSet_same s o 23 19 e.src (by decide)
  · rw [field, marked, if_pos forced]
    exact regField_regSet_same x o 8 8 1 (by decide)
  · rw [latched, regGet_regPut_ne _ _ (by omega), regGet_regPut_same]
  · rw [latched, regGet_regPut_same]
  · have before : regGet x a = regGet s a := by
      rw [coded, regGet_regSet_ne _ _ _ _ zero, regGet_regSet_ne _ _ _ _ zero, regGet_regSet_ne _ _ _ _ zero]
    have mark : regGet y a = regGet x a := by
      rw [marked]
      split
      · exact regGet_regSet_ne _ _ _ _ zero
      · rfl
    rw [latched, regGet_regPut_ne _ _ two, regGet_regPut_ne _ _ one, mark, before]

/-- A further error only sets OVERFLOW. -/
theorem frLatch_further {s : State} {e : ErrNote} {code o : Nat} (at_ : o = frOff e.recd) (held : regField s o 4 4 = 1) :
    frLatch s e code = regSet s o 5 5 1 := by
  rw [frLatch]
  simp only [← at_, held, if_true]

/-- The counts rise. -/
theorem frCount_facts (s : State) (k : Nat) {e : ErrNote} {o : Nat} (at_ : o = frOff e.recd) :
    let t := frCount s k e
    regsOnly s t ∧ (if srcIsC k e.src then regField t (o + 0x18) 31 0 = satAdd 32 (regField s (o + 0x18) 31 0) 1
      else regField t (o + 0x18) 63 32 = satAdd 32 (regField s (o + 0x18) 63 32) 1) ∧
      ∀ a, a ≠ o + 0x18 → regGet t a = regGet s a := by
  have counts : frCount s k e = if srcIsC k e.src then regCount s (o + 0x18) 31 0 1 else regCount s (o + 0x18) 63 32 1 := by
    rw [frCount]
    simp only [← at_]
  rw [counts]
  by_cases minor : srcIsC k e.src = true
  · rw [if_pos minor]
    refine ⟨(regsOnly_refl s).regCount _ _ _ _, ?_, fun a other => regGet_regSet_ne _ _ _ _ other⟩
    rw [if_pos minor]
    exact (regField_regSet_same _ _ 31 0 _ (by decide)).trans (Nat.mod_eq_of_lt (satAdd_lt _ _ _))
  · rw [if_neg minor]
    refine ⟨(regsOnly_refl s).regCount _ _ _ _, ?_, fun a other => regGet_regSet_ne _ _ _ _ other⟩
    rw [if_neg minor]
    exact (regField_regSet_same _ _ 63 32 _ (by decide)).trans (Nat.mod_eq_of_lt (satAdd_lt _ _ _))

/-! ### What every reaction begins with -/

/-- An error latched and counted, with the actions its episode takes (R443). -/
def errTaken (s : State) (e : ErrNote) (k code acts : Nat) : State :=
  let z := frCount (frLatch s e code) k e
  episodePut z e.recd ((if frState z e.recd = 0 then 0 else episodeOf z e.recd) ||| acts)

/-- Its record is FAULTED. -/
def errFaulted (s : State) (e : ErrNote) (k code acts : Nat) : State :=
  if frState (errTaken s e k code acts) e.recd = 0 then regSet (errTaken s e k code acts) (frOff e.recd) 2 0 1 else errTaken s e k code acts

/-- The state of a complex but for its registers and an episode. -/
def recordOnly (s t : State) : Prop := ∃ r ep, t = { s with regs := r, flt := { s.flt with episode := ep } }

/-- What an error leaves that its record's latch was free for. -/
structure LatchedFirst (s t : State) (e : ErrNote) (k : Nat) : Prop where
  state : regField t (frOff e.recd) 2 0 = 1
  valid : regField t (frOff e.recd) 4 4 = 1
  source : regField t (frOff e.recd) 23 19 = e.src % 32
  mark : e.forced = true → regField t (frOff e.recd) 8 8 = 1
  synd : regGet t (frOff e.recd + 8) = e.synd % 2 ^ 64
  addr : regGet t (frOff e.recd + 16) = e.addr % 2 ^ 64
  count : if srcIsC k e.src then regField t (frOff e.recd + 0x18) 31 0 = satAdd 32 (regField s (frOff e.recd + 0x18) 31 0) 1
    else regField t (frOff e.recd + 0x18) 63 32 = satAdd 32 (regField s (frOff e.recd + 0x18) 63 32) 1
  others : ∀ a, a < frOff e.recd ∨ frOff e.recd + 0x20 ≤ a → regGet t a = regGet s a
  rest : recordOnly s t

theorem errFaulted_first {s : State} {e : ErrNote} {k code acts : Nat} (fresh : regField s (frOff e.recd) 4 4 = 0) (healthy : frState s e.recd = 0) :
    LatchedFirst s (errFaulted s e k code acts) e k := by
  obtain ⟨o, at_⟩ : ∃ o, o = frOff e.recd := ⟨_, rfl⟩
  obtain ⟨y, latched⟩ : ∃ y, y = frLatch s e code := ⟨_, rfl⟩
  obtain ⟨z, counted⟩ : ∃ z, z = frCount y k e := ⟨_, rfl⟩
  obtain ⟨ep, taken⟩ : ∃ ep, errTaken s e k code acts = { z with flt := { z.flt with episode := ep } } := by
    refine ⟨tabSet (fun _ => 0) z.flt.episode e.recd ((if frState z e.recd = 0 then 0 else episodeOf z e.recd) ||| acts), ?_⟩
    simp only [errTaken, ← latched, ← counted, episodePut]
  obtain ⟨w, took⟩ : ∃ w, w = errTaken s e k code acts := ⟨_, rfl⟩
  rw [← took] at taken
  rw [← at_] at fresh
  rw [frState, ← at_] at healthy
  have firsts := frLatch_first (code := code) at_ fresh
  have counts := frCount_facts y k at_
  rw [← latched] at firsts
  rw [← counted] at counts
  obtain ⟨keptY, stateY, validY, sourceY, markY, syndY, addrY, othersY⟩ := firsts
  obtain ⟨keptZ, countZ, othersZ⟩ := counts
  have regs : ∀ a, regGet w a = regGet z a := fun a => by rw [taken]; rfl
  have stateW : frState w e.recd = 0 := by
    rw [frState, ← at_, regField, regs, othersZ o (by omega)]
    exact stateY.trans healthy
  have faulted : errFaulted s e k code acts = regSet w o 2 0 1 := by
    rw [errFaulted, ← took, if_pos stateW, at_]
  have inStatus : ∀ hi lo, hi < 64 → 2 < lo → regField (regSet w o 2 0 1) o hi lo = regField y o hi lo := by
    intro hi lo top above
    rw [regField_regSet_bits _ _ _ _ _ _ _ (by decide) top (.inl above), regField, regs, othersZ o (by omega), regField]
  have outside : ∀ a, a ≠ o → regGet (regSet w o 2 0 1) a = regGet z a := fun a other => (regGet_regSet_ne _ _ _ _ other).trans (regs a)
  have whole : recordOnly s w := by
    obtain ⟨ry, onlyY⟩ : ∃ r, y = { s with regs := r } := ⟨_, keptY⟩
    obtain ⟨rz, onlyZ⟩ : ∃ r, z = { y with regs := r } := ⟨_, keptZ⟩
    rw [onlyZ, onlyY] at taken
    exact ⟨rz, ep, taken⟩
  rw [faulted]
  refine ⟨?_, ?_, ?_, fun forced => ?_, ?_, ?_, ?_, fun a out => ?_, ?_⟩
  · rw [← at_]; exact regField_regSet_same w o 2 0 1 (by decide)
  · rw [← at_, inStatus _ _ (by decide) (by decide), validY]
  · rw [← at_, inStatus _ _ (by decide) (by decide), sourceY]
  · rw [← at_, inStatus _ _ (by decide) (by decide), markY forced]
  · rw [← at_, outside _ (by omega), othersZ _ (by omega), syndY]
  · rw [← at_, outside _ (by omega), othersZ _ (by omega), addrY]
  · rw [← at_]
    have before : regGet y (o + 0x18) = regGet s (o + 0x18) := othersY _ (by omega) (by omega) (by omega)
    simp only [regField, outside _ (show o + 0x18 ≠ o by omega)] at countZ ⊢
    rw [before] at countZ
    exact countZ
  · rw [← at_] at out
    rw [outside _ (by omega), othersZ _ (by omega), othersY _ (by omega) (by omega) (by omega)]
  · obtain ⟨r, ep, only⟩ := whole
    rw [only]
    exact ⟨_, ep, rfl⟩

/-- What a further error leaves: OVERFLOW, and the latch as it was. -/
theorem errFaulted_further {s : State} {e : ErrNote} {k code acts o : Nat} (at_ : o = frOff e.recd) (held : regField s o 4 4 = 1)
    (faulty : regField s o 2 0 = 1) :
    let t := errFaulted s e k code acts
    regField t o 5 5 = 1 ∧ regField t o 4 0 = regField s o 4 0 ∧ regField t o 23 16 = regField s o 23 16 ∧
      regGet t (o + 8) = regGet s (o + 8) ∧ regGet t (o + 16) = regGet s (o + 16) ∧ recordOnly s t := by
  obtain ⟨y, latched⟩ : ∃ y, y = regSet s o 5 5 1 := ⟨_, rfl⟩
  obtain ⟨z, counted⟩ : ∃ z, z = frCount y k e := ⟨_, rfl⟩
  obtain ⟨w, took⟩ : ∃ w, w = errTaken s e k code acts := ⟨_, rfl⟩
  obtain ⟨ep, taken⟩ : ∃ ep, w = { z with flt := { z.flt with episode := ep } } := by
    refine ⟨tabSet (fun _ => 0) z.flt.episode e.recd ((if frState z e.recd = 0 then 0 else episodeOf z e.recd) ||| acts), took.trans ?_⟩
    simp only [errTaken, frLatch_further at_ held, ← latched, ← counted, episodePut]
  have counts := frCount_facts y k at_
  rw [← counted] at counts
  obtain ⟨keptZ, -, othersZ⟩ := counts
  have regs : ∀ a, regGet w a = regGet z a := fun a => by rw [taken]; rfl
  have fields : ∀ hi lo, regField w o hi lo = regField y o hi lo := fun hi lo => by rw [regField, regs, othersZ o (by omega), regField]
  have stateW : ¬ frState w e.recd = 0 := by
    rw [frState, ← at_, fields, latched, regField_regSet_bits _ _ _ _ _ _ _ (by decide) (by decide) (by decide), faulty]
    decide
  have faulted : errFaulted s e k code acts = w := by rw [errFaulted, ← took, if_neg stateW]
  have far : ∀ a, a ≠ o → a ≠ o + 0x18 → regGet w a = regGet s a := fun a one two => by
    rw [regs, othersZ a two, latched, regGet_regSet_ne _ _ _ _ one]
  rw [faulted]
  refine ⟨?_, ?_, ?_, far _ (by omega) (by omega), far _ (by omega) (by omega), ?_⟩
  · rw [fields, latched]; exact regField_regSet_same s o 5 5 1 (by decide)
  · rw [fields, latched, regField_regSet_bits _ _ _ _ _ _ _ (by decide) (by decide) (by decide)]
  · rw [fields, latched, regField_regSet_bits _ _ _ _ _ _ _ (by decide) (by decide) (by decide)]
  · have keptY : regsOnly s y := latched ▸ (regsOnly_refl s).regSet _ _ _ _
    obtain ⟨ry, onlyY⟩ : ∃ r, y = { s with regs := r } := ⟨_, keptY⟩
    obtain ⟨rz, onlyZ⟩ : ∃ r, z = { y with regs := r } := ⟨_, keptZ⟩
    rw [onlyZ, onlyY] at taken
    exact ⟨rz, ep, taken⟩

/-! ### The reactions -/

theorem act_zero (i : Nat) : act 0 i = false := Nat.zero_testBit i

/-- An error whose reaction is LOG does no more (R442). -/
theorem handleErr_only {s : State} {e : ErrNote} {k : Nat} (class_ : frClass e.recd = some k) (serves : frozen s = false)
    (log : regField s (frOff e.recd + 0x20) (4 * e.src + 2) (4 * e.src) = 0) : handleErr s e = errFaulted s e k 0 0 := by
  have acts : ∀ b, reactActs b k 0 = 0 := fun _ => rfl
  rw [handleErr, class_]
  simp only [serves, Bool.false_eq_true, if_false, log, acts, Nat.zero_sub, act_zero]
  rfl

end Sys2Proof.Machine

namespace Sys2Proof.Machine

/-- An error latched first, as its statement says it. -/
theorem LatchedFirst.logged {s t : State} {rec src synd addr k : Nat} {forced : Bool} (class_ : frClass rec = some k) (small : src < 9)
    (first : LatchedFirst s t ⟨rec, src, synd, addr, forced⟩ k) : Machine.logged s t rec src synd addr := by
  obtain ⟨state, valid, source, -, syndrome, address, count, others, r, ep, only⟩ := first
  have whole : src % 32 = src := Nat.mod_eq_of_lt (by omega)
  refine ⟨state, valid, source.trans whole, syndrome, address, fun k' class' => ?_, others, ?_⟩
  · obtain rfl : k = k' := Option.some.inj (class_.symm.trans class')
    exact count
  · rw [only]

theorem recordOnly.frame {s t : State} (rest : recordOnly s t) : t.cores = s.cores ∧ t.tiers = s.tiers ∧ t.movers = s.movers ∧
    t.errs = s.errs ∧ t.pending = s.pending ∧ t.qsu = s.qsu ∧ t.flt.log = s.flt.log ∧ t.flt.logSeq = s.flt.logSeq := by
  obtain ⟨r, ep, rfl⟩ := rest
  exact ⟨rfl, rfl, rfl, rfl, rfl, rfl, rfl, rfl⟩

/-- The first error of a record whose reaction traps and asserts the pin (R442, R463). -/
theorem handleErr_trapsAndPins {s : State} {e : ErrNote} {k : Nat} (class_ : frClass e.recd = some k) (serves : frozen s = false)
    (code : regField s (frOff e.recd + 0x20) (4 * e.src + 2) (4 * e.src) = 5) (fresh : regField s (frOff e.recd) 4 4 = 0)
    (healthy : frState s e.recd = 0) : ∃ a b c v, handleErr s e =
      raisePin (faultLog (sendMsix (writeEvent (errFaulted s e k 5 11) 0x40 a b c) v) e 5) e.recd := by
  have acts : ∀ b, reactActs b k 5 = 11 := fun _ => rfl
  have state : frState (frCount (frLatch s e 5) k e) e.recd = 0 := by
    obtain ⟨-, -, othersZ⟩ := frCount_facts (frLatch s e 5) k (e := e) rfl
    obtain ⟨-, stateY, -⟩ := frLatch_first (code := 5) rfl fresh
    rw [frState, regField, othersZ _ (by omega)]
    exact stateY.trans healthy
  have taken : errTaken s e k 5 11 = episodePut (frCount (frLatch s e 5) k e) e.recd (0 ||| 11) := by
    simp only [errTaken, state, if_true]
  have bits : act 11 0 = true ∧ act 11 1 = true ∧ act 11 2 = false ∧ act 11 3 = true ∧ act 11 4 = false := by decide
  obtain ⟨event, trap, unit, pin, reset⟩ := bits
  refine ⟨5 * 2 ^ 24 + e.src * 2 ^ 16 + e.recd, regGet (errFaulted s e k 5 11) (frOff e.recd + 8),
    regGet (errFaulted s e k 5 11) (frOff e.recd + 16), regField (errFaulted s e k 5 11) (0x1F0000 + 8 * k) 26 16, ?_⟩
  rw [handleErr, class_]
  simp only [serves, Bool.false_eq_true, if_false, code, acts, state, if_true, Nat.and_zero, Nat.sub_zero, event, trap, unit, pin, reset,
    errFaulted, taken]

/-- An entry of the ranger's fault log (R521). -/
theorem faultLog_last (s : State) (e : ErrNote) (code : Nat) : (faultLog s e code).flt.log.getLast? =
    some ⟨s.flt.logSeq, code * 2 ^ 24 + e.src * 2 ^ 16 + e.recd, regGet s (frOff e.recd + 8), regGet s (frOff e.recd + 16)⟩ := by
  obtain ⟨x, entry⟩ : ∃ x : LogEntry, x = ⟨s.flt.logSeq, code * 2 ^ 24 + e.src * 2 ^ 16 + e.recd, regGet s (frOff e.recd + 8),
    regGet s (frOff e.recd + 16)⟩ := ⟨_, rfl⟩
  simp only [faultLog, ← entry]
  have some_ : ¬ (s.flt.log ++ [x]).length ≤ (s.flt.log ++ [x]).length - 1024 := by simp
  rw [List.getLast?_drop, if_neg some_, List.getLast?_concat]

/-- What such an error leaves, while no event ring is in use. -/
theorem trapsAndPins_facts {s f t : State} {e : ErrNote} {k a b c v : Nat} (off : s.qsu.evOn = false) (first : LatchedFirst s f e k)
    (low : frOff e.recd + 0x20 ≤ 0x1F0800) (small : e.recd < 4096)
    (does : t = raisePin (faultLog (sendMsix (writeEvent f 0x40 a b c) v) e 5) e.recd) :
    frState t e.recd = 1 ∧ regField t 0x1F0800 31 31 = 1 ∧ regField t 0x1F0800 11 0 = e.recd ∧
      t.flt.log.getLast? = some ⟨s.flt.logSeq, 5 * 2 ^ 24 + e.src * 2 ^ 16 + e.recd, e.synd % 2 ^ 64, e.addr % 2 ^ 64⟩ ∧
      t.cores = s.cores ∧ t.tiers = s.tiers ∧ t.movers = s.movers ∧ t.errs = s.errs ∧ t.pending = s.pending := by
  obtain ⟨state, -, -, -, synd, addr, -, -, rest⟩ := first
  obtain ⟨cores, tiers, movers, errs, pending, qsu, -, seq⟩ := rest.frame
  have silent : writeEvent f 0x40 a b c = f := writeEvent_off ((congrArg Qsu.evOn qsu).trans off) _ _ _ _
  obtain ⟨m, messaged⟩ : ∃ m, m = sendMsix f v := ⟨_, rfl⟩
  have onlyM : ∃ h o, m = { f with host := h, out := o } := ⟨m.host, m.out, by
    have same := sendMsix_host f v
    rw [← messaged] at same
    rw [← same]⟩
  obtain ⟨l, trapped⟩ : ∃ l, l = faultLog m e 5 := ⟨_, rfl⟩
  have lastL := faultLog_last m e 5
  have onlyL : ∃ x, l = { m with flt := x } := ⟨_, trapped⟩
  rw [← trapped] at lastL
  obtain ⟨h, o, onlyM⟩ := onlyM
  obtain ⟨x, onlyL⟩ := onlyL
  have regs : ∀ a, regGet l a = regGet f a := fun a => by rw [onlyL, onlyM]; rfl
  have regsM : ∀ a, regGet m a = regGet f a := fun a => by rw [onlyM]; rfl
  rw [silent, ← messaged, ← trapped] at does
  have quiet_ : raisePin l e.recd = pinRaised l e.recd :=
    raisePin_silent (by rw [onlyL, onlyM]; exact (congrArg Qsu.evOn qsu).trans off) e.recd
  obtain ⟨pin, named, others, flt, r, y, only⟩ := pinRaised_facts l small
  rw [quiet_] at does
  rw [← does] at pin named others flt only
  refine ⟨?_, pin, named, ?_, ?_⟩
  · rw [frState, regField, others _ (by omega), regs]
    exact state
  · rw [flt, ← synd, ← addr]
    refine lastL.trans ?_
    rw [regsM, regsM, onlyM, seq]
  · rw [only, onlyL, onlyM]
    exact ⟨cores, tiers, movers, errs, pending⟩

/-! ### Detection (R439 to R443) -/

/-- Where nothing is armed, no error is spent. -/
theorem injSpent_unarmed {s : State} {rec : Nat} (unarmed : regField s (frOff rec + 0x30) 63 63 = 0) (src : Nat) : injSpent s rec src = s := by
  rw [injSpent]
  exact if_neg (by simp [unarmed])

/-- A unit of most classes only notes what it detects. -/
theorem detect_plain {s : State} {rec k src : Nat} (class_ : frClass rec = some k) (known : src < srcCount k) (plain : k = 2 ∨ (5 ≤ k ∧ k ≠ 9))
    (unarmed : regField s (frOff rec + 0x30) 63 63 = 0) (synd addr : Nat) : detect s rec src synd addr = noteErr s rec src synd addr := by
  have effect : errEffect s rec k src addr = s := by
    unfold errEffect
    split
    · omega
    · omega
    · omega
    · omega
    · omega
    · rfl
  rw [detect, class_]
  simp only [if_pos known, injSpent_unarmed unarmed, effect]

/-- A canopy controller's lost data poisons its line (R240). -/
theorem detect_poisons {s : State} {rec addr : Nat} (class_ : frClass rec = some 3) (clean : s.tiers.poison = []) (canopy : addr < 2 ^ 44)
    (own : ctlRecord (addr / 64) = rec) (valid : paValid addr = true) (unarmed : regField s (frOff rec + 0x30) 63 63 = 0) (synd : Nat) :
    detect s rec 1 synd addr = noteErr { s with tiers := { s.tiers with poison := [addr / 64] } } rec 1 synd addr := by
  have tier : lineTier (addr / 64) < 2 := by
    unfold lineTier
    omega
  have effect : errEffect s rec 3 1 addr = poisonLine s (addr / 64) := if_pos ⟨.inl rfl, tier, own, valid⟩
  have poisons : poisonLine s (addr / 64) = { s with tiers := { s.tiers with poison := [addr / 64] } } := by
    rw [poisonLine, clean]
    rfl
  rw [detect, class_]
  simp only [if_pos (show 1 < srcCount 3 by decide), injSpent_unarmed unarmed, effect, poisons]

theorem noteErr_calm {s : State} (calm : s.errs = []) (rec src synd addr : Nat) :
    noteErr s rec src synd addr = { s with errs := [⟨rec, src, synd, addr, false⟩] } := by
  rw [noteErr, calm]
  rfl

/-! ### Forced errors, injection, and quiet periods (R443, R452, R453) -/

/-- A write of one bit of FR_FORCE forces one source. -/
theorem force_one {s : State} {rec k n : Nat} (class_ : frClass rec = some k) (known : n < srcCount k) (early : mode s < 3) (calm : s.errs = []) :
    force s rec (2 ^ n) = { s with errs := [⟨rec, n, 0, 0, true⟩] } := by
  have only : below (srcCount k) (fun m => bitOf (2 ^ n) m) = [n] := by
    have same : ∀ m, bitOf (2 ^ n) m = decide (m = n) := fun m => by rw [bitOf, Nat.testBit_two_pow, decide_eq_decide, eq_comm]
    simp only [below, same]
    have fil : (List.range (srcCount k)).filter (fun m => decide (m = n)) = List.replicate ((List.range (srcCount k)).count n) n := by
      rw [← List.filter_eq]
    rw [fil, List.count_eq_one_of_mem List.nodup_range (List.mem_range.2 known)]
    rfl
  rw [force, class_]
  simp only [if_pos early, only, List.foldl_cons, List.foldl_nil, noteForced, calm, List.nil_append]

/-- A quiet period ends an episode, while no event ring is in use. -/
theorem quietEnd_recovers {s : State} {rec k : Nat} (class_ : frClass rec = some k) (faulty : frState s rec = 1) (off : s.qsu.evOn = false) :
    let t := quietEnd s rec
    frState t rec = 0 ∧ regField t (frOff rec + 0x40) 15 0 = satAdd 16 (regField s (frOff rec + 0x40) 15 0) 1 ∧
      regField t (frOff rec) 23 3 = regField s (frOff rec) 23 3 ∧
      (∀ a, a ≠ frOff rec → a ≠ frOff rec + 0x40 → regGet t a = regGet s a) ∧ recordOnly s t := by
  obtain ⟨y, healed⟩ : ∃ y, y = regSet s (frOff rec) 2 0 0 := ⟨_, rfl⟩
  obtain ⟨z, counted⟩ : ∃ z, z = regCount y (frOff rec + 0x40) 15 0 1 := ⟨_, rfl⟩
  have keptY : regsOnly s y := healed ▸ (regsOnly_refl s).regSet _ _ _ _
  have keptZ : regsOnly y z := counted ▸ (regsOnly_refl y).regCount _ _ _ _
  obtain ⟨ry, onlyY⟩ : ∃ r, y = { s with regs := r } := ⟨_, keptY⟩
  obtain ⟨rz, onlyZ⟩ : ∃ r, z = { y with regs := r } := ⟨_, keptZ⟩
  have silent : ∀ a b c d, writeEvent (episodePut z rec 0) a b c d = episodePut z rec 0 :=
    writeEvent_off (by rw [onlyZ, onlyY]; exact off)
  have does : quietEnd s rec = episodePut z rec 0 := by
    rw [quietEnd, class_]
    simp only [faulty, ne_eq, not_true_eq_false, if_false, ← healed, ← counted, silent, ite_self]
  have regs : ∀ a, regGet (episodePut z rec 0) a = regGet z a := fun _ => rfl
  have outside : ∀ a, a ≠ frOff rec + 0x40 → regGet z a = regGet y a := fun a other => counted ▸ regGet_regSet_ne _ _ _ _ other
  have status : ∀ hi lo, regField (episodePut z rec 0) (frOff rec) hi lo = regField y (frOff rec) hi lo := fun hi lo => by
    rw [regField, regs, outside _ (by omega), regField]
  rw [does]
  refine ⟨?_, ?_, ?_, fun a one two => ?_, ?_⟩
  · rw [frState, status, healed]
    exact regField_regSet_same s _ 2 0 0 (by decide)
  · rw [regField, regs, ← regField, counted, regField_regCount_same _ _ _ _ (by decide), healed, regField_regSet_ne _ _ _ _ _ _ (by omega)]
  · rw [status, healed, regField_regSet_bits _ _ _ _ _ _ _ (by decide) (by decide) (by decide)]
  · rw [regs, outside a two, healed, regGet_regSet_ne _ _ _ _ one]
  · rw [onlyZ, onlyY]
    exact ⟨rz, _, rfl⟩

/-- An injection armed, or not (R452). -/
theorem inject_facts {s : State} {rec k : Nat} (class_ : frClass rec = some k) (v : Nat) :
    let t := inject s rec v
    (hasCheck k (bitsOf v 35 32) = true → regField t (frOff rec + 0x30) 63 63 = bitsOf v 63 63 ∧
      regField t (frOff rec + 0x30) 35 32 = bitsOf v 35 32 ∧ regField t (frOff rec + 0x30) 15 0 = v % 65536) ∧
    (hasCheck k (bitsOf v 35 32) = false → regField t (frOff rec + 0x30) 63 63 = 0 ∧
      regField t (frOff rec + 0x30) 62 0 = regField s (frOff rec + 0x30) 62 0) ∧
    (∀ b, b ≠ frOff rec + 0x30 → regGet t b = regGet s b) ∧ regsOnly s t := by
  obtain ⟨o, at_⟩ : ∃ o, o = frOff rec + 0x30 := ⟨_, rfl⟩
  have does : inject s rec v = if hasCheck k (bitsOf v 35 32) then
      regSet (regSet (regSet s o 63 63 (bitsOf v 63 63)) o 35 32 (bitsOf v 35 32)) o 15 0 v else regSet s o 63 63 0 := by
    rw [inject, class_, at_]
  rw [← at_, does]
  by_cases checked : hasCheck k (bitsOf v 35 32) = true
  · rw [if_pos checked]
    refine ⟨fun _ => ⟨?_, ?_, ?_⟩, fun un => absurd (un.symm.trans checked) (by decide), fun b other => ?_, ?_⟩
    · rw [regField_regSet_bits _ _ _ _ _ _ _ (by decide) (by decide) (by decide),
        regField_regSet_bits _ _ _ _ _ _ _ (by decide) (by decide) (by decide), regField_regSet_same _ _ _ _ _ (by decide)]
      exact Nat.mod_eq_of_lt (bitsOf_lt v 63 63)
    · rw [regField_regSet_bits _ _ _ _ _ _ _ (by decide) (by decide) (by decide), regField_regSet_same _ _ _ _ _ (by decide)]
      exact Nat.mod_eq_of_lt (bitsOf_lt v 35 32)
    · exact regField_regSet_same _ o 15 0 v (by decide)
    · rw [regGet_regSet_ne _ _ _ _ other, regGet_regSet_ne _ _ _ _ other, regGet_regSet_ne _ _ _ _ other]
    · exact (((regsOnly_refl s).regSet _ _ _ _).regSet _ _ _ _).regSet _ _ _ _
  · rw [if_neg checked]
    refine ⟨fun yes => absurd yes checked, fun _ => ⟨?_, ?_⟩, fun b other => regGet_regSet_ne _ _ _ _ other, (regsOnly_refl s).regSet _ _ _ _⟩
    · exact regField_regSet_same s o 63 63 0 (by decide)
    · exact regField_regSet_bits s o 63 63 0 62 0 (by decide) (by decide) (by decide)

/-- The latch cleared (R439). -/
theorem latchClear_facts {s : State} {rec k : Nat} (class_ : frClass rec = some k) :
    let t := latchClear s rec
    regGet t (frOff rec) = regField s (frOff rec) 2 0 ∧ regGet t (frOff rec + 8) = 0 ∧ regGet t (frOff rec + 16) = 0 ∧
      (∀ a, a ≠ frOff rec → a ≠ frOff rec + 8 → a ≠ frOff rec + 16 → regGet t a = regGet s a) ∧ regsOnly s t := by
  obtain ⟨o, at_⟩ : ∃ o, o = frOff rec := ⟨_, rfl⟩
  have does : latchClear s rec = regPut (regPut (regPut s o (regField s o 2 0)) (o + 8) 0) (o + 16) 0 := by
    rw [latchClear, class_, at_]
  have small : regField s o 2 0 < 2 ^ 64 := (bitsOf_lt _ 2 0).trans (by decide)
  rw [← at_, does]
  refine ⟨?_, ?_, regGet_regPut_same _ _ 0, fun a zero one two => ?_, (((regsOnly_refl s).regPut _ _).regPut _ _).regPut _ _⟩
  · rw [regGet_regPut_ne _ _ (by omega), regGet_regPut_ne _ _ (by omega), regGet_regPut_same, Nat.mod_eq_of_lt small]
  · exact (regGet_regPut_ne _ _ (by omega)).trans (regGet_regPut_same _ _ 0)
  · rw [regGet_regPut_ne _ _ two, regGet_regPut_ne _ _ one, regGet_regPut_ne _ _ zero]

/-- The pin cleared (R463, R518). -/
theorem pinClear_facts (s : State) :
    let t := pinClear s
    regField t 0x1F0800 31 31 = 0 ∧ t.flt.pinHeld = false ∧ (s.flt.pinHeld = false → regField t 0x1F0800 30 0 = regField s 0x1F0800 30 0) ∧
      (s.flt.pinHeld = true → regField t 0x1F0800 11 0 = 0) ∧ (∀ a, a ≠ 0x1F0800 → regGet t a = regGet s a) ∧
      ∃ r f, t = { s with regs := r, flt := f } := by
  obtain ⟨y, low⟩ : ∃ y, y = regSet s 0x1F0800 31 31 0 := ⟨_, rfl⟩
  have does : pinClear s = if y.flt.pinHeld then regSet { y with flt := { y.flt with pinHeld := false } } 0x1F0800 11 0 0 else y := by
    rw [pinClear]
    simp only [← low]
  have keptY : regsOnly s y := low ▸ (regsOnly_refl s).regSet _ _ _ _
  obtain ⟨r, onlyY⟩ : ∃ r, y = { s with regs := r } := ⟨_, keptY⟩
  have held : y.flt.pinHeld = s.flt.pinHeld := by rw [onlyY]
  have down : regField y 0x1F0800 31 31 = 0 := low ▸ regField_regSet_same s 0x1F0800 31 31 0 (by decide)
  have others : ∀ a, a ≠ 0x1F0800 → regGet y a = regGet s a := fun a other => low ▸ regGet_regSet_ne _ _ _ _ other
  rw [does, held]
  by_cases names : s.flt.pinHeld = true
  · rw [if_pos names]
    refine ⟨?_, ?_, fun un => absurd (un.symm.trans names) (by decide), fun _ => regField_regSet_same _ 0x1F0800 11 0 0 (by decide),
      fun a other => (regGet_regSet_ne _ _ _ _ other).trans (others a other), ?_⟩
    · exact (regField_regSet_bits _ _ _ _ _ _ _ (by decide) (by decide) (by decide)).trans down
    · rw [regSet_flt]
    · rw [onlyY]
      exact ⟨_, _, rfl⟩
  · rw [if_neg names]
    refine ⟨down, by rw [held]; exact Bool.eq_false_iff.2 names, fun _ => ?_, fun yes => absurd yes names, others, ?_⟩
    · rw [low]
      exact regField_regSet_bits s 0x1F0800 31 31 0 30 0 (by decide) (by decide) (by decide)
    · rw [onlyY]
      exact ⟨r, s.flt, rfl⟩

/-! ### The commands -/

section Commands
variable {s : State} {rec k : Nat} (live : Live s) (class_ : frClass rec = some k)
include live class_

omit class_ in
/-- ERROR_DETECTED whose reaction is LOG. -/
theorem exec_errorDetected_logs {u : State} {src synd addr : Nat} (does : detect s rec src synd addr = noteErr u rec src synd addr)
    (logs : logsOnly u rec src) (serves : frozen u = false) (errs : u.errs = []) (pending : u.pending = s.pending) :
    ∃ t, exec (.errorDetected rec src synd addr) s = .next t ∧ logged u t rec src synd addr :=
  runLive_logs s u (fun s => detect s rec src synd addr) rec src synd addr live.1 does logs serves errs pending

/-- ERROR_DETECTED of a record whose latch holds an error (R439). -/
theorem exec_errorDetected_further {src synd addr : Nat} (does : detect s rec src synd addr = noteErr s rec src synd addr)
    (faulty : frState s rec = 1) (held : regField s (frOff rec) 4 4 = 1) (log : regField s (frOff rec + 0x20) (4 * src + 2) (4 * src) = 0) :
    ∃ t, exec (.errorDetected rec src synd addr) s = .next t ∧ regField t (frOff rec) 5 5 = 1 ∧
      regField t (frOff rec) 4 0 = regField s (frOff rec) 4 0 ∧ regField t (frOff rec) 23 16 = regField s (frOff rec) 23 16 ∧
      regGet t (frOff rec + 8) = regGet s (frOff rec + 8) ∧ regGet t (frOff rec + 16) = regGet s (frOff rec + 16) ∧
      t.cores = s.cores ∧ t.tiers = s.tiers ∧ t.movers = s.movers := by
  obtain ⟨over_, status, code, syndrome, address, rest⟩ :=
    errFaulted_further (s := s) (e := ⟨rec, src, synd, addr, false⟩) (k := k) (code := 0) (acts := 0) rfl held faulty
  obtain ⟨cores, tiers, movers, errs, pending, -⟩ := rest.frame
  have handled := handleErr_only (s := s) (e := ⟨rec, src, synd, addr, false⟩) class_ live.1 log
  exact ⟨_, runLive_one (f := fun s => detect s rec src synd addr) live.1 (does.trans (noteErr_calm live.2 ..)) live.2 handled (errs.trans live.2) pending, over_, status, code, syndrome,
    address, cores, tiers, movers⟩

/-- ERROR_DETECTED whose reaction traps and asserts the pin (R442, R463). -/
theorem exec_errorDetected_pins {src synd addr : Nat} (does : detect s rec src synd addr = noteErr s rec src synd addr)
    (code : regField s (frOff rec + 0x20) (4 * src + 2) (4 * src) = 5) (healthy : frState s rec = 0) (fresh : regField s (frOff rec) 4 4 = 0)
    (off : s.qsu.evOn = false) :
    ∃ t, exec (.errorDetected rec src synd addr) s = .next t ∧ frState t rec = 1 ∧ regField t 0x1F0800 31 31 = 1 ∧
      regField t 0x1F0800 11 0 = rec % 4096 ∧
      t.flt.log.getLast? = some ⟨s.flt.logSeq, 5 * 2 ^ 24 + src * 2 ^ 16 + rec, synd % 2 ^ 64, addr % 2 ^ 64⟩ ∧
      t.cores = s.cores ∧ t.tiers = s.tiers ∧ t.movers = s.movers := by
  have small := frClass_small (by rw [class_]; simp : frClass rec ≠ none)
  have first := errFaulted_first (k := k) (code := 5) (acts := 11) (e := ⟨rec, src, synd, addr, false⟩) fresh healthy
  obtain ⟨a, b, c, v, handled⟩ := handleErr_trapsAndPins (s := s) (e := ⟨rec, src, synd, addr, false⟩) class_ live.1 code fresh healthy
  obtain ⟨state, pin, named, log, cores, tiers, movers, errs, pending⟩ := trapsAndPins_facts off first
    (by simp only [frOff]; omega) (by simp only; omega) handled
  refine ⟨_, runLive_one (f := fun s => detect s rec src synd addr) live.1 (does.trans (noteErr_calm live.2 ..)) live.2 rfl (errs.trans live.2) pending, state, pin, ?_, log, cores,
    tiers, movers⟩
  rw [Nat.mod_eq_of_lt (by omega : rec < 4096)]
  exact named

/-- BLOCK_RESET_END (R444). -/
theorem exec_blockResetEnd : (frState s rec ≠ 2 → exec (.blockResetEnd rec) s = .next s) ∧
    (frState s rec = 2 → resting s → exec (.blockResetEnd rec) s = .next (regSet s (frOff rec) 2 0 1)) := by
  refine ⟨fun other => ?_, fun resets rest => ?_⟩
  · refine runLive_next s s (fun s => resetEnd s rec) live ?_ rfl rfl
    rw [resetEnd, class_]
    exact if_neg other
  · refine runLive_next s _ (fun s => resetEnd s rec) live ?_ rfl rfl
    rw [resetEnd, class_]
    exact (if_pos resets).trans (goOn_resting (resting_congr rfl rfl rest))

/-- QUIET_PERIOD_EXPIRY (R443). -/
theorem exec_quietPeriodExpiry : (frState s rec ≠ 1 → exec (.quietPeriodExpiry rec) s = .next s) ∧
    (frState s rec = 1 → s.qsu.evOn = false → exec (.quietPeriodExpiry rec) s = .next (quietEnd s rec)) := by
  refine ⟨fun other => ?_, fun faulty off => ?_⟩
  · refine runLive_next s s (fun s => quietEnd s rec) live ?_ rfl rfl
    rw [quietEnd, class_]
    exact if_pos other
  · obtain ⟨-, -, -, -, rest⟩ := quietEnd_recovers class_ faulty off
    obtain ⟨-, -, -, errs, pending, -⟩ := rest.frame
    exact runLive_next s _ (fun s => quietEnd s rec) live rfl errs pending

/-- FR_FORCE (R453). -/
theorem exec_frForce_class : (∀ v, 3 ≤ mode s → exec (.frForce rec v) s = .next s) ∧
    (∀ n, n < srcCount k → mode s < 3 → logsOnly s rec n → ∃ t, exec (.frForce rec (2 ^ n)) s = .next t ∧
      logged s t rec n 0 0 ∧ regField t (frOff rec) 8 8 = 1) := by
  refine ⟨fun v late => ?_, fun n known early logs => ?_⟩
  · refine runLive_next s s (fun s => force s rec v) live ?_ rfl rfl
    rw [force, class_]
    exact if_neg (Nat.not_lt.2 late)
  · obtain ⟨-, small, healthy, fresh, log⟩ := logs
    have first := errFaulted_first (k := k) (code := 0) (acts := 0) (e := ⟨rec, n, 0, 0, true⟩) fresh healthy
    obtain ⟨-, -, -, errs, pending, -⟩ := first.rest.frame
    have handled := handleErr_only (s := s) (e := ⟨rec, n, 0, 0, true⟩) class_ live.1 log
    exact ⟨_, runLive_one (f := fun s => force s rec (2 ^ n)) live.1 (force_one class_ known early live.2) live.2 handled (errs.trans live.2) pending,
      first.logged class_ small, first.mark rfl⟩

end Commands

section Growth
variable {s : State} {rec : Nat} (live : Live s)
include live

/-- The margin or the drift shown, with the rings grown (R454, R455). -/
def agedAs (s : State) (rec hi lo v rings : Nat) : State :=
  regSet (regSet s (frOff rec + 0x80) hi lo v) (frOff rec + 0x80) 63 32 (regField s (frOff rec + 0x80) 63 32 + rings)

omit live in
theorem agedAs_regs (s : State) (rec hi lo v rings : Nat) {a : Nat} (other : a ≠ frOff rec + 0x80) :
    regGet (agedAs s rec hi lo v rings) a = regGet s a :=
  (regGet_regSet_ne _ _ _ _ other).trans (regGet_regSet_ne _ _ _ _ other)

omit live in
theorem agedAs_only (s : State) (rec hi lo v rings : Nat) : regsOnly s (agedAs s rec hi lo v rings) :=
  ((regsOnly_refl s).regSet _ _ _ _).regSet _ _ _ _

/-- DELAY_MONITOR that only shows. -/
theorem exec_delayMonitor_shows {hi lo v rings : Nat} (does : delayReport s rec v rings = agedAs s rec hi lo v rings) :
    exec (.delayMonitor rec v rings) s = .next (agedAs s rec hi lo v rings) := by
  have only := agedAs_only s rec hi lo v rings
  exact runLive_next s _ (fun s => delayReport s rec v rings) live does (congrArg State.errs only :) (congrArg State.pending only :)

/-- DELAY_MONITOR that finds its limit passed. -/
theorem exec_delayMonitor_logs {hi lo v rings src : Nat} (does : delayReport s rec v rings = noteErr (agedAs s rec hi lo v rings) rec src 0 0)
    (logs : logsOnly s rec src) : ∃ t, exec (.delayMonitor rec v rings) s = .next t ∧ logged (agedAs s rec hi lo v rings) t rec src 0 0 := by
  obtain ⟨z, aged⟩ : ∃ z, z = agedAs s rec hi lo v rings := ⟨_, rfl⟩
  have only : regsOnly s z := aged ▸ agedAs_only s rec hi lo v rings
  have regs : ∀ a, a ≠ frOff rec + 0x80 → regGet z a = regGet s a := fun a other => aged ▸ agedAs_regs s rec hi lo v rings other
  rw [← aged] at does ⊢
  have life : z.life = s.life := by rw [only]
  have errs : z.errs = s.errs := by rw [only]
  have pending : z.pending = s.pending := by rw [only]
  exact runLive_logs s z (fun s => delayReport s rec v rings) rec src 0 0 live.1 does
    (logsOnly_of_record (regs _ (by omega)) (regs _ (by omega)) logs)
    ((frozen_congr (regs _ (by unfold frOff; omega)) life).trans live.1) (errs.trans live.2) pending

omit live in
/-- A core's margin (R454). -/
theorem delayReport_core (class_ : frClass rec = some 0) (v rings : Nat) : delayReport s rec v rings =
    if v % 65536 < 40 ∧ (regField s (frOff rec + 0x80) 15 0 = 0 ∨ 40 ≤ regField s (frOff rec + 0x80) 15 0)
    then noteErr (agedAs s rec 15 0 v rings) rec 7 0 0 else agedAs s rec 15 0 v rings := by
  rw [delayReport, class_]
  rfl

omit live in
/-- A stand's drift (R455). -/
theorem delayReport_stand (class_ : frClass rec = some 7) (v rings : Nat) : delayReport s rec v rings =
    if 300 < v % 65536 ∧ regField s (frOff rec + 0x80) 31 16 ≤ 300
    then noteErr (agedAs s rec 31 16 v rings) rec 2 0 0 else agedAs s rec 31 16 v rings := by
  rw [delayReport, class_]
  rfl

omit live in
/-- No other class reports growth. -/
theorem delayReport_other {k : Nat} (class_ : frClass rec = some k) (core : k ≠ 0) (stand : k ≠ 7) (v rings : Nat) :
    delayReport s rec v rings = s := by
  rw [delayReport, class_]
  split
  · next zero => exact absurd (Option.some.inj zero) core
  · next seven => exact absurd (Option.some.inj seven) stand
  · rfl

end Growth

end Sys2Proof.Machine

open Sys2Proof Sys2Proof.Machine in
/-- Settles O45, command by command. -/
theorem faultRecords : Obligations.FaultRecords := by
  intro s rec live o only
  refine ⟨fun absent c mem => ?_, fun k class_ => ⟨fun src synd addr unknown => ?_, fun src synd addr known plain unarmed => ?_,
    fun synd addr canopy clean low own valid unarmed logs => ?_, (exec_blockResetEnd live class_).1, (exec_blockResetEnd live class_).2,
    (exec_quietPeriodExpiry live class_).1, fun faulty off => ?_, (exec_frForce_class live class_).1, (exec_frForce_class live class_).2, fun v => ?_, ?_,
    fun v rings => ⟨fun core stand => ?_, fun core good => ?_, fun core low was logs => ?_, fun stand good => ?_,
      fun stand high was logs => ?_⟩⟩, ?_⟩
  · simp only [List.mem_cons, List.not_mem_nil, or_false] at mem
    obtain rfl | rfl | rfl | rfl | rfl | rfl | rfl := mem
    · exact runLive_next s s (fun s => detect s rec 0 0 0) live (by rw [detect, absent]) rfl rfl
    · exact runLive_next s s (fun s => resetEnd s rec) live (by rw [resetEnd, absent]) rfl rfl
    · exact runLive_next s s (fun s => quietEnd s rec) live (by rw [quietEnd, absent]) rfl rfl
    · exact runLive_next s s (fun s => force s rec 1) live (by rw [force, absent]) rfl rfl
    · exact runLive_next s s (fun s => inject s rec 1) live (by rw [inject, absent]) rfl rfl
    · exact runLive_next s s (fun s => latchClear s rec) live (by rw [latchClear, absent]) rfl rfl
    · exact runLive_next s s (fun s => delayReport s rec 0 0) live (by rw [delayReport, absent]) rfl rfl
  · refine runLive_next s s (fun s => detect s rec src synd addr) live ?_ rfl rfl
    rw [detect, class_]
    exact if_neg (Nat.not_lt.2 unknown)
  · have does := detect_plain class_ known plain unarmed synd addr
    exact ⟨fun logs => exec_errorDetected_logs live does logs live.1 live.2 rfl,
      fun faulty held log => exec_errorDetected_further live class_ does faulty held log,
      fun _ code healthy fresh off => exec_errorDetected_pins live class_ does code healthy fresh off⟩
  · subst canopy
    exact exec_errorDetected_logs live (detect_poisons class_ clean low own valid unarmed synd) logs live.1 live.2 rfl
  · obtain ⟨healed, counted, status, others, r, ep, rest⟩ := quietEnd_recovers class_ faulty off
    exact ⟨_, (exec_quietPeriodExpiry live class_).2 faulty off, healed, counted, status, others, by rw [rest]⟩
  · obtain ⟨arms, ignores, others, kept⟩ := inject_facts class_ v
    have errs : (inject s rec v).errs = s.errs := by rw [kept]
    have pending : (inject s rec v).pending = s.pending := by rw [kept]
    have runs : exec (.frInjectArm rec v) s = .next (inject s rec v) :=
      runLive_next s _ (fun s => inject s rec v) live rfl errs pending
    have rest : only (inject s rec v) (o + 0x30) := ⟨others, by rw [kept]⟩
    refine ⟨fun checked => ?_, fun unchecked => ?_⟩
    · obtain ⟨armed, source, bits⟩ := arms checked
      exact ⟨_, runs, armed, source, bits, rest⟩
    · obtain ⟨unarmed, bits⟩ := ignores unchecked
      exact ⟨_, runs, unarmed, bits, rest⟩
  · obtain ⟨status, syndrome, address, others, kept⟩ := latchClear_facts class_
    have errs : (latchClear s rec).errs = s.errs := by rw [kept]
    have pending : (latchClear s rec).pending = s.pending := by rw [kept]
    exact ⟨_, runLive_next s _ (fun s => latchClear s rec) live rfl errs pending, status, syndrome, address, others, by rw [kept]⟩
  · exact runLive_next s s (fun s => delayReport s rec v rings) live (delayReport_other class_ core stand v rings) rfl rfl
  · subst core
    exact exec_delayMonitor_shows live ((delayReport_core class_ v rings).trans (if_neg (by omega)))
  · subst core
    exact exec_delayMonitor_logs live ((delayReport_core class_ v rings).trans (if_pos ⟨low, .inr was⟩)) logs
  · subst stand
    exact exec_delayMonitor_shows live ((delayReport_stand class_ v rings).trans (if_neg (by omega)))
  · subst stand
    exact exec_delayMonitor_logs live ((delayReport_stand class_ v rings).trans (if_pos ⟨high, was⟩)) logs
  · obtain ⟨low, dropped, unheld, held, others, r, f, rest⟩ := pinClear_facts s
    have errs : (pinClear s).errs = s.errs := by rw [rest]
    have pending : (pinClear s).pending = s.pending := by rw [rest]
    exact ⟨_, runLive_next s _ pinClear live rfl errs pending, low, dropped, unheld, held, others, by rw [rest]⟩
end


section
/-! PROOFS. Ethernet requests and the storage target (R395 to R397, R477). -/

namespace Sys2Proof.Machine

/-! ### The pages of a request (R396) -/

theorem leafPA_mod (lf : Leaf) (va : Nat) : leafPA lf va % 64 = va % 64 := by
  unfold leafPA ePage
  split <;> omega

theorem rangeLines_within {a n : Nat} (some_ : 0 < n) (within : a % 64 + n ≤ 64) : rangeLines a n = [a / 64] := by
  have last : (a + n - 1) / 64 = a / 64 := by omega
  rw [rangeLines, if_neg (by omega), last]
  simp

/-- A request that a condition of R396 on its region refuses has no pieces. -/
theorem rdmaPieces_refused {s : State} {rkey va n : Nat} {wr : Bool}
    (bad : bitOf (ethRegion s (rkey % 4096) 0) 63 = false ∨ bitsOf (ethRegion s (rkey % 4096) 0) 51 32 ≠ rkey / 4096 % 2 ^ 20 ∨
      va < ethRegion s (rkey % 4096) 1 ∨ ethRegion s (rkey % 4096) 1 + ethRegion s (rkey % 4096) 2 < va + n ∨
      (if wr then bitOf (ethRegion s (rkey % 4096) 0) 62 else bitOf (ethRegion s (rkey % 4096) 0) 61) = false) :
    rdmaPieces s rkey va n wr = none := by
  unfold rdmaPieces
  refine if_neg fun all => ?_
  simp only [Bool.and_eq_true, decide_eq_true_eq, beq_iff_eq] at all
  obtain ⟨⟨⟨⟨valid, key⟩, right⟩, low⟩, high⟩ := all
  rcases bad with bad | bad | bad | bad | bad
  · exact absurd (valid.symm.trans bad) (by decide)
  · exact bad key
  · omega
  · omega
  · exact absurd (right.symm.trans bad) (by decide)

/-- A request within a line, which its region and its leaf allow, is one piece. -/
theorem rdmaPieces_line {s : State} {rkey va n : Nat} {wr : Bool} {lf : Leaf} (valid : bitOf (ethRegion s (rkey % 4096) 0) 63 = true)
    (key : bitsOf (ethRegion s (rkey % 4096) 0) 51 32 = rkey / 4096 % 2 ^ 20) (low : ethRegion s (rkey % 4096) 1 ≤ va)
    (high : va + n ≤ ethRegion s (rkey % 4096) 1 + ethRegion s (rkey % 4096) 2) (some_ : 0 < n) (within : va % 64 + n ≤ 64)
    (leaf : (translate s (bitsOf (ethRegion s (rkey % 4096) 0) 60 53) va).1 = .leaf lf) (canopy : paTier (ePage lf.ent) = 0)
    (right : (if wr then bitOf (ethRegion s (rkey % 4096) 0) 62 else bitOf (ethRegion s (rkey % 4096) 0) 61) = true)
    (may : (if wr then eW lf.ent else eR lf.ent) = true) :
    rdmaPieces s rkey va n wr = some [(leafPA lf va, eSel lf.ent, n)] := by
  have first : max va (64 * (va / 64)) = va := by omega
  have whole : min (va + n) (64 * (va / 64) + 64) - va = n := by omega
  unfold rdmaPieces
  dsimp only
  rw [if_pos (by simp [valid, key, right, low, high]), rangeLines_within some_ within]
  simp only [List.foldr_cons, List.foldr_nil, first, whole, leaf, may, canopy]
  rfl

/-! ### Bytes of one line -/

theorem paRead_within {s : State} (calm : uncached s) {pa n : Nat} (some_ : 0 < n) (within : pa % 64 + n ≤ 64) :
    paRead s 0 pa n = (((memRead s 0 (pa / 64)).1.drop (pa % 64)).take n, false) := by
  have whole : min (64 - pa % 64) n = n := by omega
  have positive : n ≠ 0 := by omega
  simp only [paRead, cohGet, whole, positive, if_false, cohReadCur_uncached s 0 _ calm.1, memRead_clean s _ calm.2, Nat.sub_self]
  cases n / 64 <;> simp

/-- The bytes of a line that a masked write replaces. -/
theorem mergeBytes_within {o : Nat} {data : List Byte} (within : o + data.length ≤ 64) (old : List Byte) :
    ((mergeBytes ((2 ^ data.length - 1) * 2 ^ o) (List.replicate o 0 ++ data) old).drop o).take data.length = data := by
  apply List.ext_getElem
  · simp [mergeBytes]; omega
  · intro i _ h
    have bit : ((2 ^ data.length - 1) * 2 ^ o).testBit (o + i) = true := by
      rw [Nat.testBit_mul_two_pow, Nat.testBit_two_pow_sub_one]
      simp [h]
    simp [mergeBytes, bit, byteAt, h]

/-- A plaintext write leaves what has been sent. -/
theorem memWrite_out (s : State) (line mask : Nat) (data : List Byte) : (memWrite s 0 line mask data false).out = s.out := by
  have armed : (injTaken s line).out = s.out := by
    unfold injTaken
    dsimp only
    generalize 0x100030 + 0x100 * ctlRecord line = o
    split
    · exact regSet_out ..
    · rfl
  unfold memWrite
  rw [if_neg (by simp [selEmpty])]
  split
  · rfl
  · exact armed

/-- The mask of a write of `n` bytes from offset `o` of a line. -/
def byteMask (o n : Nat) : Nat := (2 ^ n - 1) * 2 ^ o

/-- A write within a line where nothing is cached: what goes to the host for it, and the store. -/
theorem paWrite_within {s : State} (calm : uncached s) {pa : Nat} {data : List Byte} (some_ : 0 < data.length)
    (within : pa % 64 + data.length ≤ 64) :
    paWrite s 0 pa data = memWrite (writeNote s (pa / 64) (byteMask (pa % 64) data.length)) 0 (pa / 64) (byteMask (pa % 64) data.length)
      (List.replicate (pa % 64) 0 ++ data) false := by
  have whole : min (64 - pa % 64) data.length = data.length := by omega
  have filled : data.isEmpty = false := by simpa [List.length_pos_iff] using some_
  simp only [paWrite, cohPut, filled, Bool.false_eq_true, if_false, whole, List.take_length, List.drop_length, cohPutLine,
    cohWrite_uncached s _ _ _ _ _ calm.1, byteMask]
  cases data.length / 64 <;> simp

/-- Bytes written within a canopy line read back. -/
theorem paRead_paWrite_within {s : State} (calm : uncached s) {pa : Nat} {data : List Byte} (some_ : 0 < data.length)
    (within : pa % 64 + data.length ≤ 64) (canopy : lineTier (pa / 64) = 0) :
    paRead (paWrite s 0 pa data) 0 pa data.length = (data, false) := by
  have noted := ((writeNote_sent s (pa / 64) (byteMask (pa % 64) data.length)).effectOnly calm).calm
  rw [paRead_within (paWrite_effectOnly calm pa data).calm some_ within, paWrite_within calm some_ within,
    memRead_memWrite_canopy noted canopy, byteMask, mergeBytes_within within]

/-- A write within a canopy line that no host copy is resolved for sends nothing. -/
theorem paWrite_within_out {s : State} (calm : uncached s) {pa : Nat} {data : List Byte} (some_ : 0 < data.length)
    (within : pa % 64 + data.length ≤ 64) (canopy : lineTier (pa / 64) = 0) (device : hostBias s (pa / 64) = false) :
    (paWrite s 0 pa data).out = s.out := by
  have quiet : writeNote s (pa / 64) (byteMask (pa % 64) data.length) = s := by simp [writeNote, canopy, biasSnoop, device]
  rw [paWrite_within calm some_ within, quiet]
  exact memWrite_out ..

/-! ### Requests served and refused (R396) -/

section Served
variable {s : State} {i rkey va n : Nat} (up : portUp s i 2 = true)
include up

theorem rdmaWrite_refused {data : List Byte} (refused : rdmaPieces s rkey va data.length true = none) : rdmaWrite s i rkey va data = rdmaNak s i := by
  simp [rdmaWrite, up, refused]

theorem rdmaRead_refused (refused : rdmaPieces s rkey va n false = none) : rdmaRead s i rkey va n = rdmaNak s i := by
  simp [rdmaRead, up, refused]

theorem rdmaRead_line (calm : uncached s) {pa : Nat} (pieces : rdmaPieces s rkey va n false = some [(pa, 0, n)])
    (free : rangeHeld s (rideSrc i) 0 pa n false = false) :
    rdmaRead s i rkey va n = emit (readNotes s pa n) (.packet i 4 (paRead s 0 pa n).1) := by
  simp [rdmaRead, up, pieces, free, rangeTake_uncached calm, (readNotes_sent s pa n).paRead calm]

theorem rdmaWrite_line (calm : uncached s) {pa : Nat} {data : List Byte} (pieces : rdmaPieces s rkey va data.length true = some [(pa, 0, data.length)])
    (free : rangeHeld s (rideSrc i) 0 pa data.length true = false) (rest : resting s) :
    rdmaWrite s i rkey va data = emit (paWrite s 0 pa data) (.packet i 3 []) := by
  have effect := paWrite_effectOnly calm pa data
  have still : resting (emit (paWrite s 0 pa data) (.packet i 3 [])) := resting_congr effect.cores effect.ride rest
  simp [rdmaWrite, up, pieces, free, rangeTake_uncached calm, goOn_resting still]

end Served

section Exec
variable {s : State} (live : Live s)
include live

theorem exec_rdmaWrite {i rkey va : Nat} {data : List Byte} {t : State} (port : i < 24) (does : rdmaWrite s i rkey va data = t)
    (errs : t.errs = s.errs) (pending : t.pending = s.pending) : exec (.rdmaWrite i rkey va data) s = .next t :=
  withUnit_calm 24 i s t (fun s => rdmaWrite s i rkey va data) port live does errs pending

theorem exec_rdmaRead {i rkey va n : Nat} {t : State} (port : i < 24) (does : rdmaRead s i rkey va n = t)
    (errs : t.errs = s.errs) (pending : t.pending = s.pending) : exec (.rdmaRead i rkey va n) s = .next t :=
  withUnit_calm 24 i s t (fun s => rdmaRead s i rkey va n) port live does errs pending

/-- A write of R396 that passes: its bytes are in the canopy, and it is answered. -/
theorem exec_rdmaWrite_line {i rkey va : Nat} {data : List Byte} {pa : Nat} (port : i < 24) (up : portUp s i 2 = true) (calm : uncached s)
    (pieces : rdmaPieces s rkey va data.length true = some [(pa, 0, data.length)])
    (free : rangeHeld s (rideSrc i) 0 pa data.length true = false) (rest : resting s) (some_ : 0 < data.length)
    (within : pa % 64 + data.length ≤ 64) (canopy : lineTier (pa / 64) = 0) (device : hostBias s (pa / 64) = false) :
    ∃ t, exec (.rdmaWrite i rkey va data) s = .next t ∧ paRead t 0 pa data.length = (data, false) ∧
      t.out = s.out ++ [.packet i 3 []] ∧ t.coh = coh0 ∧ t.cores = s.cores ∧ t.ride = s.ride := by
  have effect := paWrite_effectOnly calm pa data
  have out := paWrite_within_out calm some_ within canopy device
  have read := paRead_congr (t := emit (paWrite s 0 pa data) (.packet i 3 [])) effect.calm rfl rfl 0 pa data.length
  refine ⟨_, exec_rdmaWrite live port (rdmaWrite_line up calm pieces free rest) effect.errs effect.pending,
    read.trans (paRead_paWrite_within calm some_ within canopy), ?_, effect.calm.1, effect.cores, effect.ride⟩
  exact congrArg (· ++ [Out.packet i 3 []]) out

end Exec

/-! ### The storage target (R397, R477) -/

/-- The complex with a proof engine's run as given. -/
def running (s : State) (x : PrfRun) : State := { s with prf := { s.prf with run := some x } }

theorem runSet_running (s : State) (x : PrfRun) (f : PrfRun → PrfRun) : runSet (running s x) f = running s (f x) := rfl

theorem runSet_run {s : State} {r : PrfRun} (run : s.prf.run = some r) (f : PrfRun → PrfRun) : runSet s f = running s (f r) := by
  simp [runSet, run, running]

/-- What the proof engine runs is no part of memory. -/
theorem paRead_running (s : State) (x : PrfRun) (sel pa n : Nat) : paRead (running s x) sel pa n = paRead s sel pa n := by
  have line : ∀ l, cohReadCur (running s x) sel l = cohReadCur s sel l := by
    intro l
    unfold cohReadCur
    rw [ownerData_congr (s := s) (t := running s x) rfl]
    split <;> rfl
  have fuel : ∀ f pa n, cohGet (running s x) sel pa f n = cohGet s sel pa f n := by
    intro f
    induction f with
    | zero => intro _ _; rfl
    | succ f ih =>
      intro pa n
      simp only [cohGet, ih, line]
  exact fuel _ pa n

theorem qpWord_running (s : State) (x : PrfRun) (q i : Nat) : qpWord (running s x) q i = qpWord s q i :=
  congrArg (fun b : List Byte × Bool => leNat b.1) (paRead_running s x 0 (qpAddr s q + 8 * i) 8)

/-- The storage request of a run's step is sent over its queue pair's port. -/
def stoSent (s : State) (x : PrfRun) : State :=
  emit (running s x) (.packet (bitsOf (qpWord s (storeQp s) 0) 60 56) (stoRequest s x).1 (stoRequest s x).2)

section Issue
variable {s : State} (ranger : rangerUp s = true) (ready : bitsOf (qpWord s (storeQp s) 0) 63 61 = 6)
  (up : portUp s (bitsOf (qpWord s (storeQp s) 0) 60 56) 2 = true)
include ranger ready up

/-- A queue pair that is ready to send, over a port that is UP, takes the request of the run's step. -/
theorem stoIssue_sent (x : PrfRun) : stoIssue (running s x) = stoSent s x := by
  have same : storeQp (running s x) = storeQp s := rfl
  have serves : rangerUp (running s x) = true := ranger
  have port : portUp (running s x) (bitsOf (qpWord s (storeQp s) 0) 60 56) 2 = true := up
  have request : stoRequest (running s x) x = stoRequest s x := rfl
  unfold stoIssue
  simp only [show (running s x).prf.run = some x from rfl]
  rw [same, qpWord_running, request, if_neg (by simp [serves]), if_pos ⟨ready, port⟩]
  rfl

theorem stoStep_sent (x : PrfRun) (n : Nat) : stoStep (running s x) n = stoSent s { x with sto := n, retry := 0 } := by
  rw [stoStep, runSet_running]
  exact stoIssue_sent ranger ready up _

variable {r : PrfRun} (run : s.prf.run = some r)
include run

theorem stoStep_run (n : Nat) : stoStep s n = stoSent s { r with sto := n, retry := 0 } := by
  rw [stoStep, runSet_run run]
  exact stoIssue_sent ranger ready up _

theorem stoResponse_firstHeader (step : r.sto = 1) (data : List Byte) :
    stoResponse s true data = stoSent s { r with img := tabPut r.img (hdrAt 0) (data.take 4096), sto := 2, retry := 0 } := by
  have takes : stoResponse s true data = stoStep (runSet s (fun r => { r with img := tabPut r.img (hdrAt 0) (data.take 4096) })) 2 := by
    simp [stoResponse, run, step]
  rw [takes, runSet_run run]
  exact stoStep_sent ranger ready up _ 2

theorem stoResponse_image (step : r.sto = 4) (data : List Byte) : stoResponse s true data = stoSent s { r with sto := 5, retry := 0 } := by
  rw [← stoStep_run ranger ready up run]
  simp only [stoResponse, run, step]
  rfl

theorem stoResponse_committed (step : r.sto = 5) (data : List Byte) : stoResponse s true data = stoSent s { r with sto := 6, retry := 0 } := by
  rw [← stoStep_run ranger ready up run]
  simp only [stoResponse, run, step]
  rfl

theorem stoTimeout_again (asks : r.sto ≠ 0) (waits : r.sto ≠ 9) (left : r.retry < qpWord s (storeQp s) 5 % 256) :
    stoTimeout s = stoSent s { r with retry := r.retry + 1 } := by
  simp only [stoTimeout, run, asks, waits, or_self, if_false, left, if_true, runSet_run run]
  exact stoIssue_sent ranger ready up _

end Issue

/-! ### A queue pair that fails (R397) -/

theorem injTaken_regs (s : State) (line : Nat) : ∃ r, injTaken s line = { s with regs := r } := by
  unfold injTaken
  dsimp only
  generalize 0x100030 + 0x100 * ctlRecord line = o
  split
  · exact ⟨_, rfl⟩
  · exact ⟨s.regs, rfl⟩

/-- A plaintext store changes memory, and an injection's arming. -/
theorem memWrite_stores (s : State) (line mask : Nat) (data : List Byte) :
    { memWrite s 0 line mask data false with tiers := s.tiers, regs := s.regs } = s := by
  obtain ⟨r, armed⟩ := injTaken_regs s line
  unfold memWrite
  rw [if_neg (by simp [selEmpty])]
  split
  · rfl
  · unfold memStore
    rw [armed]

/-- Plaintext bytes written where nothing is cached: memory, an injection's arming, and what goes to the host for it. -/
theorem cohPut_stores {s : State} (none_ : s.coh = coh0) (f pa : Nat) (l : List Byte) :
    { cohPut s 0 pa f l with tiers := s.tiers, regs := s.regs, out := s.out, host := s.host } = s := by
  induction f generalizing s pa l with
  | zero => rfl
  | succ f ih =>
    simp only [cohPut]
    split
    · rfl
    · simp only [cohPutLine, cohWrite_uncached s _ _ _ _ _ none_]
      obtain ⟨mask, _⟩ : ∃ m, m = (2 ^ (l.take (min (64 - pa % 64) l.length)).length - 1) * 2 ^ (pa % 64) := ⟨_, rfl⟩
      obtain ⟨data, _⟩ : ∃ m, m = List.replicate (pa % 64) 0 ++ l.take (min (64 - pa % 64) l.length) := ⟨_, rfl⟩
      simp only [← ‹mask = _›, ← ‹data = _›]
      have noted := (writeNote_sent s (pa / 64) mask).1
      have stored := memWrite_stores (writeNote s (pa / 64) mask) (pa / 64) mask data
      generalize writeNote s (pa / 64) mask = w at noted stored
      generalize memWrite w 0 (pa / 64) mask data false = m at stored
      have here : { m with tiers := s.tiers, regs := s.regs, out := s.out, host := s.host } = s :=
        (congrArg (fun x : State => { x with tiers := s.tiers, regs := s.regs, out := s.out, host := s.host }) stored).trans
          (congrArg (fun x : State => { x with tiers := s.tiers, regs := s.regs }) noted)
      have next := ih (s := m) ((congrArg State.coh here :).trans none_) (pa + min (64 - pa % 64) l.length) (l.drop (min (64 - pa % 64) l.length))
      exact (congrArg (fun x : State => { x with tiers := s.tiers, regs := s.regs, out := s.out, host := s.host }) next).trans here

theorem drawFree_stores {s z : State} (wrote : { z with tiers := s.tiers, regs := s.regs, out := s.out, host := s.host } = s) :
    { (drawFree z).2 with tiers := s.tiers, regs := s.regs, out := s.out, host := s.host, free := s.free } = s :=
  congrArg (fun x : State => { x with free := s.free }) wrote

/-- A queue pair that fails shows ERROR in its context, where no event ring is in use (R397); what the context's line asks of the host
goes out. -/
theorem qpFail_stores {s : State} (none_ : s.coh = coh0) (off : s.qsu.evOn = false) (q : Nat) :
    { qpFail s q with tiers := s.tiers, regs := s.regs, out := s.out, host := s.host, free := s.free } = s := by
  obtain ⟨l, word⟩ : ∃ l, l = leBytes 8 (putBits (qpWord s q 0) 62 61 3) := ⟨_, rfl⟩
  have wrote := cohPut_stores none_ (l.length / 64 + 2) (qpAddr s q) l
  obtain ⟨z, stored⟩ : ∃ z, z = cohPut s 0 (qpAddr s q) (l.length / 64 + 2) l := ⟨_, rfl⟩
  rw [← stored] at wrote
  have qsu : z.qsu = s.qsu := (congrArg State.qsu wrote :)
  have still : (drawFree z).2.qsu.evOn = false := (congrArg Qsu.evOn qsu).trans off
  have does : qpFail s q = (drawFree z).2 := by
    rw [qpFail, ← word, paWrite, ← stored]
    simp only [writeEvent_off still]
  rw [does]
  exact drawFree_stores wrote

/-- An automatic proof's target that its storage has lost fails (R477, R493). -/
theorem targetFail_auto {s : State} {r : PrfRun} (run : s.prf.run = some r) (auto : r.auto = true) (off : s.qsu.evOn = false) :
    targetFail s 0x33 = proofEnded s 0x33 := by
  have ends := proofEnd_auto run auto off 0x33 (if r.cmd = 6 then proofD0 r else r.gen) (if r.cmd = 6 then r.bytes else 0)
  rw [← ends]
  simp only [targetFail, run, ite_self, proofFail]

/-- What ends an automatic proof whose storage target's queue pair fails. -/
theorem exec_storeFails {s : State} {r : PrfRun} (live : Live s) (run : s.prf.run = some r) (auto : r.auto = true) (off : s.qsu.evOn = false)
    (none_ : s.coh = coh0) {i : Instr} {f : State → State} (arm : exec i s = runLive s f)
    (does : f s = targetFail (qpFail s (storeQp s)) 0x33) :
    ∃ t, exec i s = .next t ∧ t.prf = { s.prf with run := none } ∧ regField t 0x90048 39 32 = 0x33 ∧ t.cores = s.cores ∧ t.qsu = s.qsu := by
  have only := qpFail_stores none_ off (storeQp s)
  obtain ⟨z, failed⟩ : ∃ z, z = qpFail s (storeQp s) := ⟨_, rfl⟩
  rw [← failed] at only does
  have prf : z.prf = s.prf := (congrArg State.prf only :)
  have qsu : z.qsu = s.qsu := (congrArg State.qsu only :)
  have ends := targetFail_auto ((congrArg Prf.run prf).trans run) auto ((congrArg Qsu.evOn qsu).trans off)
  refine ⟨_, arm.trans (runLive_next s _ f live (does.trans ends) ((regSet_errs ..).trans (congrArg State.errs only :))
    ((regSet_pending ..).trans (congrArg State.pending only :))), ?_, regField_regSet_same _ _ _ _ _ (by decide),
    (regSet_cores ..).trans (congrArg State.cores only :), (regSet_qsu ..).trans qsu⟩
  rw [proofEnded, regSet_prf, prf]

section StorageClauses
variable {s : State} {r : PrfRun} (live : Live s) (run : s.prf.run = some r)
include live run

/-- With no request outstanding nothing answers and nothing times out. -/
theorem storage_idle (step : r.sto = 0) : (∀ ok data, exec (.rdmaResponse ok data) s = .next s) ∧ exec .rdmaRetryTimeout s = .next s := by
  refine ⟨fun ok data => runLive_next s s (fun s => stoResponse s (ok != 0) data) live ?_ rfl rfl, runLive_next s s stoTimeout live ?_ rfl rfl⟩
  · simp [stoResponse, run, step]
  · simp [stoTimeout, run, step]

/-- The write of the slot's WRITING header ends while capture goes on: the storage target waits for the image. -/
theorem storage_writing (proof : r.cmd = 6) (step : r.sto = 3) (capture : r.phase = 1) (data : List Byte) :
    exec (.rdmaResponse 1 data) s = .next (running s { r with sto := 9 }) := by
  refine runLive_next s _ (fun s => stoResponse s (1 != 0) data) live ?_ rfl rfl
  rw [← runSet_run run (fun r => { r with sto := 9 })]
  simp [stoResponse, run, step, proof, capture]

omit run in
theorem storage_goes {i : Instr} {f : State → State} {x : PrfRun} (arm : exec i s = runLive s f) (does : f s = stoSent s x) :
    exec i s = .next (stoSent s x) := arm.trans (runLive_next s _ f live does rfl rfl)

/-- The steps of R477 that a response or a time-out takes the storage target to. -/
theorem storage_steps (ranger : rangerUp s = true) (ready : bitsOf (qpWord s (storeQp s) 0) 63 61 = 6)
    (up : portUp s (bitsOf (qpWord s (storeQp s) 0) 60 56) 2 = true) :
    (∀ data, r.sto = 1 → exec (.rdmaResponse 1 data) s =
      .next (stoSent s { r with img := tabPut r.img (hdrAt 0) (data.take 4096), sto := 2, retry := 0 })) ∧
    (∀ data, r.sto = 4 → exec (.rdmaResponse 1 data) s = .next (stoSent s { r with sto := 5, retry := 0 })) ∧
    (∀ data, r.sto = 5 → exec (.rdmaResponse 1 data) s = .next (stoSent s { r with sto := 6, retry := 0 })) ∧
    (r.sto ≠ 0 → r.sto ≠ 9 → r.retry < qpWord s (storeQp s) 5 % 256 →
      exec .rdmaRetryTimeout s = .next (stoSent s { r with retry := r.retry + 1 })) :=
  ⟨fun data step => storage_goes live (f := fun s => stoResponse s (1 != 0) data) rfl (stoResponse_firstHeader ranger ready up run step data),
    fun data step => storage_goes live (f := fun s => stoResponse s (1 != 0) data) rfl (stoResponse_image ranger ready up run step data),
    fun data step => storage_goes live (f := fun s => stoResponse s (1 != 0) data) rfl (stoResponse_committed ranger ready up run step data),
    fun asks waits left => storage_goes live (f := stoTimeout) rfl (stoTimeout_again ranger ready up run asks waits left)⟩

/-- A refused request, or the last of a request's time-outs, fails an automatic proof's storage target. -/
theorem storage_fails {c : Instr} (bad : c = .rdmaResponse 0 [] ∨ c = .rdmaRetryTimeout ∧ qpWord s (storeQp s) 5 % 256 ≤ r.retry)
    (asks : r.sto ≠ 0) (waits : r.sto ≠ 9) (auto : r.auto = true) (off : s.qsu.evOn = false) (none_ : s.coh = coh0) :
    ∃ t, exec c s = .next t ∧ t.prf = { s.prf with run := none } ∧ regField t 0x90048 39 32 = 0x33 ∧ t.cores = s.cores ∧ t.qsu = s.qsu := by
  rcases bad with rfl | ⟨rfl, spent⟩
  · refine exec_storeFails live run auto off none_ (f := fun s => stoResponse s (0 != 0) []) rfl ?_
    simp [stoResponse, run, asks, waits]
  · refine exec_storeFails live run auto off none_ (f := stoTimeout) rfl ?_
    simp [stoTimeout, run, asks, waits, Nat.not_lt.mpr spent]

end StorageClauses

end Sys2Proof.Machine

open Sys2Proof Sys2Proof.Machine in
/-- Settles O41: a request is one piece of a line or none, and each answer of the storage target is the next step of R477. -/
theorem ethernetRequests : Obligations.EthernetRequests := by
  unfold Obligations.EthernetRequests
  intro s i live port
  refine ⟨?_, ?_, ?_⟩
  · intro up rkey va w base len
    refine ⟨?_, ?_⟩
    · intro n data size
      have refuseWrite : ∀ {P}, (P → rdmaPieces s rkey va data.length true = none) → P → exec (.rdmaWrite i rkey va data) s = .next (rdmaNak s i) :=
        fun refused p => exec_rdmaWrite live port (rdmaWrite_refused up (refused p)) rfl rfl
      have refuseRead : ∀ {P}, (P → rdmaPieces s rkey va n false = none) → P → exec (.rdmaRead i rkey va n) s = .next (rdmaNak s i) :=
        fun refused p => exec_rdmaRead live port (rdmaRead_refused up (refused p)) rfl rfl
      refine ⟨fun bad => ⟨?_, ?_⟩, fun bad => ?_, fun bad => ?_⟩
      · exact refuseWrite rdmaPieces_refused (by rw [size]; tauto)
      · exact refuseRead rdmaPieces_refused (by tauto)
      · exact refuseWrite rdmaPieces_refused (.inr (.inr (.inr (.inr bad))))
      · exact refuseRead rdmaPieces_refused (.inr (.inr (.inr (.inr bad))))
    · intro lf n valid key low high some_ within leaf canopy plain none_ clean pa
      have calm : uncached s := ⟨none_, clean⟩
      have inLine : pa % 64 + n ≤ 64 := by rw [leafPA_mod]; exact within
      refine ⟨fun right may free => ?_, fun data size right may free rest tier reach device => ?_⟩
      · have pieces := rdmaPieces_line (wr := false) valid key low high some_ within leaf canopy right may
        rw [plain] at pieces
        have effect := readNotes_effectOnly calm pa n
        exact exec_rdmaRead live port (rdmaRead_line up calm pieces free) effect.errs effect.pending
      · subst size
        have pieces := rdmaPieces_line (wr := true) valid key low high some_ within leaf canopy right may
        rw [plain] at pieces
        exact exec_rdmaWrite_line live port up calm pieces free rest some_ inLine (by unfold lineTier; omega)
          (device _ (by rw [rangeLines_within some_ inLine]; exact List.mem_singleton_self _))
  · intro qp gap up
    refine ⟨?_, { s with ride := { s.ride with rate := tabSet (fun _ => 0) s.ride.rate (qp % 4096) (tabGet (fun _ => 0) s.ride.rate (qp % 4096) + 1) } },
      ?_, fun q => ?_, rfl⟩
    · refine withUnit_calm 24 i s _ (fun s => if portUp s i 2 && decide (50 ≤ gap) then emit s (.packet i 6 (leBytes 4 qp)) else s) port live
        ?_ ?_ ?_
      · simp [up]
      · split <;> rfl
      · split <;> rfl
    · exact withUnit_calm 24 i s _ (fun s => if portUp s i 2 then _ else s) port live (if_pos up) rfl rfl
    · rw [tabGet_tabSet]
      split <;> simp_all
  · intro r run proof w goes
    exact ⟨storage_idle live run, fun data step capture => storage_writing live run proof step capture data,
      fun ranger ready up => storage_steps live run ranger ready up,
      fun c bad asks waits auto off none_ => storage_fails live run bad asks waits auto off none_⟩
end


section
/-! PROOFS. PROOF, RESTORE and RESLICE (R469 to R474, R477, R479, R486, R489). -/

namespace Sys2Proof.Machine

/-! ### What reads through a root change -/

/-- What reads alone change: the translation caches, a link's power state, and what has been sent. -/
structure ReadsOnly (s t : State) : Prop where
  only : { t with xlt := s.xlt, host := s.host, out := s.out } = s
  host : { t.host with links := s.host.links } = s.host

theorem ReadsOnly.refl (s : State) : ReadsOnly s s := ⟨rfl, rfl⟩

theorem justSends.readsOnly {s t : State} (sends : justSends s t) : ReadsOnly s t := by
  obtain ⟨only, -, host⟩ := sends
  exact ⟨(congrArg (fun x : State => { x with xlt := s.xlt }) only :), host⟩

namespace ReadsOnly
variable {s t u : State}

theorem trans (a : ReadsOnly s t) (b : ReadsOnly t u) : ReadsOnly s u :=
  ⟨(congrArg (fun x : State => { x with xlt := s.xlt, host := s.host, out := s.out }) b.only).trans a.only,
    (congrArg (fun x : HostPort => { x with links := s.host.links }) b.host).trans a.host⟩

variable (reads : ReadsOnly s t)
include reads

theorem regs : t.regs = s.regs := (congrArg State.regs reads.only :)
theorem prf : t.prf = s.prf := (congrArg State.prf reads.only :)
theorem coh : t.coh = s.coh := (congrArg State.coh reads.only :)
theorem tiers : t.tiers = s.tiers := (congrArg State.tiers reads.only :)
theorem cores : t.cores = s.cores := (congrArg State.cores reads.only :)
theorem ride : t.ride = s.ride := (congrArg State.ride reads.only :)
theorem qsu : t.qsu = s.qsu := (congrArg State.qsu reads.only :)
theorem errs : t.errs = s.errs := (congrArg State.errs reads.only :)
theorem pending : t.pending = s.pending := (congrArg State.pending reads.only :)

theorem calm (calm : uncached s) : uncached t := ⟨reads.coh.trans calm.1, by rw [reads.tiers]; exact calm.2⟩

theorem effectOnly (calm : uncached s) : EffectOnly s t :=
  ⟨reads.calm calm, reads.qsu, reads.cores, (congrArg State.movers reads.only :), reads.ride, (congrArg HostPort.hold reads.host :),
    (congrArg frozen reads.only :), reads.errs, reads.pending⟩

theorem reg (a : Nat) : regGet t a = regGet s a := by rw [regGet, reads.regs]; rfl

theorem field (a hi lo : Nat) : regField t a hi lo = regField s a hi lo := by rw [regField, reads.reg]; rfl

theorem portMode (i : Nat) : Machine.portMode t i = Machine.portMode s i := reads.field _ _ _

theorem pairUp : Machine.pairUp t = Machine.pairUp s :=
  pairUp_congr (fun j _ => reads.portMode j) fun j => by rw [portGet, reads.ride]; rfl

theorem pairMask : Machine.pairMask t = Machine.pairMask s := pairMask_congr fun j _ => reads.portMode j

theorem rangerUp : Machine.rangerUp t = Machine.rangerUp s := by
  simp only [Machine.rangerUp, reads.field]

end ReadsOnly

/-- Where no line is poisoned a walk meets no poison. -/
theorem walk_clean {s : State} (calm : uncached s) (root va level ent line : Nat) : walk s root va ≠ .poisoned level ent line := by
  have clean : ∀ pa, (readEntry s pa).2 = false := fun pa => cohGet_clean s _ pa 8 calm
  have branch : ∀ (p : Prop) [Decidable p] (x y : XRes), x ≠ .poisoned level ent line → y ≠ .poisoned level ent line →
      (if p then x else y) ≠ .poisoned level ent line := by
    intro p _ x y hx hy
    split
    · exact hx
    · exact hy
  simp only [walk, walkFrom, clean, Bool.false_eq_true, if_false]
  repeat' refine branch _ _ _ ?_ ?_
  all_goals exact nofun

theorem translate_reads {s : State} (calm : uncached s) (root va : Nat) : ReadsOnly s (translate s root va).2 := by
  have walked : ReadsOnly s ((walkLines s root va).foldl readNote s) :=
    List.foldlRecOn (motive := fun t => ReadsOnly s t) _ _ (.refl s) fun t reads line _ => reads.trans (readNote_sent t line).readsOnly
  unfold translate
  split
  · exact .refl s
  · split
    · exact .refl s
    · dsimp only
      split
      · refine walked.trans ?_
        unfold cacheLeaf
        split
        · exact .refl _
        · exact ⟨rfl, rfl⟩
      · next met => exact absurd met (walk_clean calm _ _ _ _ _)
      · exact walked

theorem argLeaf_reads {s : State} (calm : uncached s) (root va : Nat) : ReadsOnly s (argLeaf s root va).2 := by
  have reads := translate_reads calm root va
  unfold argLeaf
  split
  · next found =>
    rw [found] at reads
    split <;> exact reads
  · next found =>
    rw [found] at reads
    exact reads

theorem argBytes_reads {s : State} (calm : uncached s) (root f va n : Nat) : ReadsOnly s (argBytes s root f va n).2 := by
  induction f generalizing s va n with
  | zero => exact .refl s
  | succ f ih =>
    have leaf := argLeaf_reads calm root va
    simp only [argBytes]
    split
    · exact .refl s
    · split
      · next found => rwa [found] at leaf
      · next l u found =>
        rw [found] at leaf
        have noted := leaf.trans (readNotes_sent u (leafPA l va) (min (64 - va % 64) n)).readsOnly
        have rest := noted.trans (ih (noted.calm calm) (va + min (64 - va % 64) n) (n - min (64 - va % 64) n))
        split
        · exact noted
        · split
          · next more => rwa [more] at rest
          · next more => rwa [more] at rest

theorem readArg_reads {s : State} (calm : uncached s) (root va n : Nat) : ReadsOnly s (readArg s root va n).2 := argBytes_reads calm root _ va n

theorem mfRead_reads {s : State} (calm : uncached s) (root va comp staging gibs : Nat) : ReadsOnly s (mfRead s root va comp staging gibs).2 := by
  have reads := readArg_reads calm root va 0x5000
  unfold mfRead
  split
  · next found => rwa [found] at reads
  · next found =>
    rw [found] at reads
    split
    · split <;> exact reads
    · exact reads

theorem posNotes_reads {s : State} (calm : uncached s) (root : Nat) (m : List Byte) : ReadsOnly s (posNotes s root m) :=
  List.foldlRecOn (motive := fun t => ReadsOnly s t) _ _ (.refl s) fun _ reads va _ => reads.trans (readArg_reads (reads.calm calm) root va 8)

/-! ### A command that starts a run (R331, R474) -/

/-- The complex once PRF_STATUS shows a status and the queue command that has it completes. -/
def proofAnswers (v : State) (q idx st d0 : Nat) : State := finish (regSet v 0x90048 39 32 st) [] q idx st d0 0

theorem EffectOnly.shown {s v : State} (effect : EffectOnly s v) (st : Nat) : EffectOnly s (regSet v 0x90048 39 32 st) :=
  ⟨⟨(regSet_coh ..).trans effect.calm.1, by rw [regSet_tiers]; exact effect.calm.2⟩, (regSet_qsu ..).trans effect.qsu,
    (regSet_cores ..).trans effect.cores, (regSet_movers ..).trans effect.movers, (regSet_ride ..).trans effect.ride,
    (congrArg HostPort.hold (regSet_host ..)).trans effect.hold, (frozen_regPut _ _ _ (by decide)).trans effect.serves,
    (regSet_errs ..).trans effect.errs, (regSet_pending ..).trans effect.pending⟩

theorem EffectOnly.running {s v : State} (effect : EffectOnly s v) {x : PrfRun} : EffectOnly s (running v x) :=
  ⟨effect.calm, effect.qsu, effect.cores, effect.movers, effect.ride, effect.hold, effect.serves, effect.errs, effect.pending⟩

theorem EffectOnly.ended {s v : State} (effect : EffectOnly s v) (st : Nat) : EffectOnly s (proofEnded v st) :=
  EffectOnly.shown (v := { v with prf := { v.prf with run := none } })
    ⟨effect.calm, effect.qsu, effect.cores, effect.movers, effect.ride, effect.hold, effect.serves, effect.errs, effect.pending⟩ st

theorem paWrite_prf {s : State} (calm : uncached s) (pa : Nat) (l : List Byte) : (paWrite s 0 pa l).prf = s.prf := by
  obtain ⟨-, same, -⟩ := cohPut_same s (l.length / 64 + 2) pa l calm
  exact (congrArg State.prf same :)

section Turn
variable {s : State} {q : Nat} {d : List Byte} (turn : queueTurn s q d) (body : bodyOk d = true) (priv : (queueGet s q).priv = true)
  (ranger : rangerUp s = true) {i : Instr} {f : State → Nat → Nat → List Byte → State} {cmd : Nat}
  (arm : exec i s = withUnit 1024 q (runLive s (fun s => startCmd s q (· == cmd) prfOwn (prfRun q f)))) (named : dCmd d = cmd)
include turn body priv ranger arm named

omit arm named in
theorem prfOwn_turn : prfOwn s d = true ∧
    prfRun q f ⟨(queueGet s q).started, d, begunState s q d⟩ = f (begunState s q d) q (queueGet s q).started d := by
  obtain ⟨-, -, -, -, -, -, none_, -⟩ := turn
  refine ⟨by simp [prfOwn, none_, ranger], ?_⟩
  simp [prfRun, firstChecks_begunState body fun _ => priv]

/-- A command that its own checks refuse completes with their status, which PRF_STATUS shows. -/
theorem queueRuns_answers {v : State} {st d0 : Nat} (small : st < 2 ^ 8) (effect : EffectOnly (begunState s q d) v)
    (does : f (begunState s q d) q (queueGet s q).started d = proofAnswers v q (queueGet s q).started st d0) :
    queueRuns i s q (fun t => completes s t q d st d0 0 ∧ regField t 0x90048 39 32 = st) := by
  obtain ⟨own, runs⟩ := prfOwn_turn turn body priv ranger (f := f)
  refine queueRuns_completes turn arm (by simp [named]) own (runs.trans does) (effect.shown st) (fun t record => ?_)
  obtain ⟨-, -, -, -, -, regs⟩ := record.but
  have shown := regField_regSet_same v 0x90048 39 32 st (by decide)
  rw [Nat.mod_eq_of_lt small] at shown
  rw [regField, regs _ (.inr (by decide))]
  exact shown

/-- A command that goes on has the effect of its start. -/
theorem queueRuns_goes {t : State} (does : f (begunState s q d) q (queueGet s q).started d = t) (calm : uncached t) (errs : t.errs = s.errs)
    (pending : t.pending = s.pending) {P : State → Prop} (holds : P t) : queueRuns i s q P := by
  obtain ⟨own, runs⟩ := prfOwn_turn turn body priv ranger (f := f)
  exact ⟨t, arm.trans (queue_runs q s d turn _ (by simp [named]) _ own _ t (runs.trans does) calm errs pending), holds⟩

end Turn

/-! ### PROOF (R469 to R472) -/

/-- The run of a PROOF whose manifest has been read. -/
def proofBegun (v : State) (k : Queue) (q idx : Nat) (body m : List Byte) (pages : List (Nat × Nat)) : PrfRun where
  cmd := 6
  q := q
  idx := idx
  auto := false
  gone := false
  comp := k.comp
  root := k.root
  body := body
  phase := 1
  gen := max v.prf.gen (regField v 0x90050 31 0) + 1
  slot := 0
  bytes := imageBytes v k.comp m
  img := tabPut [] 4096 m
  have_ := []
  pages := (pages.zip (List.range pages.length)).map (fun p => (p.1.1, p.1.2, imageBytes v k.comp m - sumLen (mfMem m) + p.2 * 2 ^ 26))
  want := dWord body 3 % 4
  ok := 0
  sto := 0
  retry := 0
  entry := 0

section ProofStart
variable {s : State} {q idx : Nat} {body : List Byte}

theorem proofStart_unclear (unclear : s.prf.atClear.contains (queueGet s q).comp = false) :
    proofStart s q idx false body = proofAnswers s q idx 0x31 0 := by
  simp only [proofStart, unclear]
  rfl

variable (clear : s.prf.atClear.contains (queueGet s q).comp = true)
include clear

theorem proofStart_unread {v : State}
    (unread : mfRead s (queueGet s q).root (dWord body 1) (queueGet s q).comp (dWord body 4) (dWord body 5) = (none, v)) :
    proofStart s q idx false body = proofAnswers v q idx 0x32 0 := by
  simp only [proofStart, clear, unread]
  rfl

/-- A PROOF with its manifest read: its last two checks, then its capture (R471, R472). -/
theorem proofStart_read {v : State} {m : List Byte} {pages : List (Nat × Nat)}
    (read : mfRead s (queueGet s q).root (dWord body 1) (queueGet s q).comp (dWord body 4) (dWord body 5) = (some (m, pages), v)) :
    proofStart s q idx false body =
      if dWord body 3 % 4 = 0 || (bitOf (dWord body 3 % 4) 0 && !partnerUp v) || (bitOf (dWord body 3 % 4) 1 && !storeUp v) then
        proofAnswers v q idx 0x33 0
      else if (bitOf (dWord body 3 % 4) 0 && decide (Config.partnerSlot * gib < 4096 + imageBytes v (queueGet s q).comp m)) ||
          (bitOf (dWord body 3 % 4) 1 && decide (storeSlot v < 4096 + imageBytes v (queueGet s q).comp m)) then
        proofAnswers v q idx 0x30 0
      else if bitOf (dWord body 3 % 4) 1 then stoStep (running v (proofBegun v (queueGet s q) q idx body m pages)) 1
      else sendBegin (running v (proofBegun v (queueGet s q) q idx body m pages)) := by
  unfold proofStart
  dsimp only
  rw [if_neg (by rw [clear]; decide), read]
  rfl

end ProofStart

/-- A PROOF for the partner begins with its BEGIN over the one PAIR port that is UP (R476). -/
theorem sendBegin_sole {v : State} {i : Nat} {r : PrfRun} (partner : bitOf r.want 0 = true) (up : pairUp v = [i])
    (ready : portReady (portGet v i) 10) :
    sendBegin (running v r) = sendsCell (running v r) i 10 (prfCell 1 r.gen (openSlot v) 0 0 0 []) (pairMask v) := by
  have sent := pairSend_sole (s := running v r) up ready (prfCell 1 r.gen (openSlot v) 0 0 0 [])
  rw [sendBegin, show (running v r).prf.run = some r from rfl]
  simp only [partner, if_true]
  exact sent

theorem stoSent_header {v : State} {r : PrfRun} (step : r.sto = 1) :
    stoSent v r = emit (running v r) (.packet (bitsOf (qpWord v (storeQp v) 0) 60 56) 1 (leBytes 8 (storeAddr v 0) ++ leBytes 8 4096)) := by
  simp [stoSent, stoRequest, step]

/-! ### RESTORE (R486) -/

/-- The run of a RESTORE that has passed its checks. -/
def restoreBegun (k : Queue) (q idx : Nat) (body : List Byte) : PrfRun where
  cmd := 7
  q := q
  idx := idx
  auto := false
  gone := false
  comp := k.comp
  root := k.root
  body := body
  phase := 1
  gen := dWord body 2 % 2 ^ 32
  slot := 0
  bytes := 0
  img := []
  have_ := []
  pages := []
  want := 1 + dWord body 1 % 2
  ok := 0
  sto := 0
  retry := 0
  entry := 0

section RestoreStart
variable {s : State} {q idx : Nat} {body : List Byte}

theorem restoreStart_unclear (unclear : s.prf.atClear.contains (queueGet s q).comp = false) :
    restoreStart s q idx body = proofAnswers s q idx 0x31 0 := by
  simp only [restoreStart, unclear]
  rfl

variable (clear : s.prf.atClear.contains (queueGet s q).comp = true)
include clear

theorem restoreStart_lost (partner : dWord body 1 % 2 = 0) (lost : partnerUp s = false) :
    restoreStart s q idx body = proofAnswers s q idx 0x33 0 := by
  simp only [restoreStart, clear, partner, lost]
  rfl

theorem restoreStart_partner {i : Nat} (partner : dWord body 1 % 2 = 0) (there : partnerUp s = true) (up : pairUp s = [i])
    (ready : portReady (portGet s i) 10) :
    restoreStart s q idx body = sendsCell (running s (restoreBegun (queueGet s q) q idx body)) i 10
      (prfCell 4 (dWord body 2 % 2 ^ 32) 0 hdrOff 4096 0 []) (pairMask s) := by
  have sent := pairSend_sole (s := running s (restoreBegun (queueGet s q) q idx body)) up ready
    (prfCell 4 (dWord body 2 % 2 ^ 32) 0 hdrOff 4096 0 [])
  have asks : ∀ x : State, readReqs x (dWord body 2 % 2 ^ 32) 0 hdrOff 4096 = pairSend x 0 (prfCell 4 (dWord body 2 % 2 ^ 32) 0 hdrOff 4096 0 []) :=
    fun _ => rfl
  unfold restoreStart
  dsimp only
  rw [if_neg (by rw [clear]; decide), if_neg (by simp [partner, there]), if_neg (by rw [partner]; decide)]
  exact (asks _).trans sent

theorem restoreStart_store (store : dWord body 1 % 2 = 1) (there : storeUp s = true) :
    restoreStart s q idx body = stoStep (running s (restoreBegun (queueGet s q) q idx body)) 1 := by
  unfold restoreStart
  dsimp only
  rw [if_neg (by rw [clear]; decide), if_neg (by simp [store, there]), if_pos store]
  rfl

end RestoreStart

/-! ### RESLICE (R489) -/

theorem resRead_clean {s : State} (calm : uncached s) (pa n : Nat) : (resRead s pa n).2 = false := by
  refine List.foldlRecOn (motive := fun a : List Byte × Bool => a.2 = false) _ _ rfl fun a clean l _ => ?_
  rw [ownerData_uncached s l calm.1, clean]
  dsimp only
  split <;> simp [calm.2]

/-- The run of a RESLICE whose map has been read. -/
def resliceBegun (k : Queue) (q idx : Nat) (body : List Byte) (slot : Nat) : PrfRun where
  cmd := 8
  q := q
  idx := idx
  auto := false
  gone := false
  comp := k.comp
  root := k.root
  body := body
  phase := 0
  gen := dWord body 1 % 2 ^ 32
  slot := slot
  bytes := 0
  img := []
  have_ := []
  pages := []
  want := 0
  ok := 0
  sto := 0
  retry := 0
  entry := 0

section ResliceStart
variable {s : State} {q idx : Nat} {body : List Byte}

theorem resliceStart_reserveless (none_ : slotGib s = 0) :
    resliceStart s q idx body = proofAnswers s q idx 0x35 (if dWord body 1 % 2 ^ 32 = 0 then regField s 0x90050 63 32 else dWord body 1 % 2 ^ 32) := by
  simp only [resliceStart, none_, true_or, if_true]
  rfl

/-- A RESLICE with one piece, its map read and in order. -/
theorem resliceStart_piece {v : State} {j : Nat} {map : List Byte} (room : slotGib s ≠ 0) (asked : dWord body 1 % 2 ^ 32 ≠ 0)
    (pick : pickSlot (headerGen (resRead s (slotBase s 0) 80).1 (regGet s 0x90008)) (headerGen (resRead s (slotBase s 1) 80).1 (regGet s 0x90008))
      (dWord body 1 % 2 ^ 32) = some j)
    (one : dWord body 3 = 1) (read : readArg s (queueGet s q).root (dWord body 2) 32 = (some map, v))
    (ok : mapOk v (queueGet s q).root (fieldAt (resRead s (slotBase s j) 80).1 24 8) (mapEntry map 0) = true) :
    resliceStart s q idx body = resliceTry (reslicePiece (running v (resliceBegun (queueGet s q) q idx body j)) j 0 (mapEntry map 0)) := by
  simp only [resliceStart, room, asked, if_false, or_self, pick, one, Nat.mul_one, read, List.range_one, List.map_cons, List.map_nil, List.all_cons,
    List.all_nil, ok]
  rfl

end ResliceStart

/-- A map entry of one aligned line whose destination is a writable canopy page. -/
theorem mapOk_line {v : State} {root bytes off va : Nat} {lf : Leaf} (aligned : off % 64 = 0) (inside : off + 64 ≤ bytes)
    (cached : cachedAt v root va lf) (writable : eW lf.ent = true) (canopy : paTier (ePage lf.ent) = 0) : mapOk v root bytes (off, 64, va, 1) = true := by
  have leaf := translate_cached cached
  have once : List.range (cdiv 64 64) = [0] := rfl
  simp [mapOk, aligned, inside, once, leaf, writable, canopy]

theorem vaWrite_line {s : State} {root va : Nat} {lf : Leaf} {b : List Byte} (aligned : va % 64 = 0) (line : b.length = 64)
    (cached : cachedAt s root va lf) (writable : eW lf.ent = true) (canopy : paTier (ePage lf.ent) = 0) :
    vaWrite s root va b = paWrite s (eSel lf.ent) (leafPA lf va) b := by
  have one : rangeLines va 64 = [va / 64] := rangeLines_within (by decide) (by omega)
  have back : 64 * (va / 64) - va = 0 := by omega
  have leaf := translate_cached cached
  simp [vaWrite, line, one, aligned, back, leaf, writable, canopy, List.take_of_length_le]

/-- A piece that goes to memory is written there (R489). -/
theorem reslicePiece_memory {v : State} (calm : uncached v) {r : PrfRun} {slot i off n va : Nat} :
    reslicePiece (running v r) slot i (off, n, va, 1) =
      vaWrite (running v { r with bytes := r.bytes + n }) r.root va (resRead v (slotBase v slot + 4096 + off) n).1 := by
  have same : resRead (running v r) (slotBase (running v r) slot + 4096 + off) n = resRead v (slotBase v slot + 4096 + off) n :=
    resRead_congr (s := v) (t := running v r) rfl rfl _ _
  have clean := resRead_clean calm (slotBase v slot + 4096 + off) n
  simp only [reslicePiece, show (running v r).prf.run = some r from rfl, same, clean, Bool.false_eq_true, if_false, if_true]
  rfl

/-- A RESLICE with no tile outstanding completes with its generation and its bytes (R489). -/
theorem resliceTry_ends {z : State} {r : PrfRun} (run : z.prf.run = some r) (reslice : r.cmd = 8) (landed : z.ride.tiles = []) (asked : r.auto = false)
    (here : r.gone = false) : resliceTry z = finish (proofEnded z 0) [] r.q r.idx 0 r.gen r.bytes := by
  simp only [resliceTry, run, reslice, landed, List.any_nil, and_self, if_true, proofEnd, asked, here, Bool.or_self, Bool.false_eq_true, if_false]
  rfl

/-- A completion record leaves the canopy's bytes. -/
theorem RecordOnly.paRead_within {u t : State} (h : RecordOnly u t) (calm : uncached u) {pa n : Nat} (some_ : 0 < n) (within : pa % 64 + n ≤ 64)
    (low : pa < 2 ^ 44) : paRead t 0 pa n = paRead u 0 pa n := by
  have canopy : lineTier (pa / 64) = 0 := by unfold lineTier; omega
  have raw : rawLine t (pa / 64) = rawLine u (pa / 64) := h.bytes _ _ (by omega)
  rw [Machine.paRead_within h.calm some_ within, Machine.paRead_within calm some_ within, memRead_canopy h.calm canopy, memRead_canopy calm canopy,
    raw, h.enc _ (by omega)]

/-! ### Capture (R472) -/

theorem paRead_clean {s : State} (calm : uncached s) (pa n : Nat) : (paRead s 0 pa n).2 = false := cohGet_clean s _ pa n calm

/-- A page still to be read out is copied aside; nothing waits for it. -/
theorem pageCopy_takes {s : State} {r : PrfRun} {page off : Nat} (calm : uncached s) (run : s.prf.run = some r) (rest : resting s)
    (listed : r.pages.find? (fun p => p.1 == page) = some (page, 0, off)) :
    pageCopy s page = running (pageNotes s page) { r with img := tabPut r.img off (pageBytes s page 0).1, pages := r.pages.erase (page, 0, off) } := by
  have clean : ¬(pageBytes s page 0).2 = true := by
    rw [pageBytes, paRead_clean calm]
    decide
  have noted : ReadsOnly s (pageNotes s page) := (readNotes_sent s _ _).readsOnly
  obtain ⟨v, notes⟩ : ∃ v, v = pageNotes s page := ⟨_, rfl⟩
  obtain ⟨b, bytes⟩ : ∃ b, b = pageBytes s page 0 := ⟨_, rfl⟩
  rw [← notes] at noted ⊢
  rw [← bytes] at clean ⊢
  have still : ∀ x, resting (running v x) := fun x => resting_congr noted.cores noted.ride rest
  have there : v.prf.run = some r := (congrArg Prf.run noted.prf).trans run
  unfold pageCopy
  rw [run]
  dsimp only
  rw [listed]
  dsimp only
  rw [← bytes, ← notes, if_neg clean, runSet_run there]
  exact goOn_resting (still _)

/-- An image that is whole goes to the targets that take it (R473, R476, R477). -/
def imageGoes (s : State) (r whole : PrfRun) : State :=
  let s := if bitOf (dWord r.body 3) 8 then
      let s := wearWriteVa s r.root (dWord r.body 6)
      let s := if r.auto then s else finish s [] r.q r.idx 0 (proofD0 whole) whole.bytes
      runSet s (fun x => { x with gone := true })
    else s
  let s := if bitOf r.want 0 then pairCells s (prfPieces 0 r.gen (openSlot s) 0 (runImage whole)) else s
  let s := if bitOf r.want 1 && r.sto == 9 then stoStep s 4 else s
  goOn (commitTry s)

/-- The run of a proof with no page left to read out, once its image is whole. -/
def wholeRun (s : State) (r : PrfRun) : PrfRun := { r with img := tabPut r.img 0 (imageFront s r (runManifest r)), phase := 2 }

/-- Capture ends: the image takes its front, the data positions are read, and the staging area is left open (R472). -/
theorem captureDone_read {s : State} {r : PrfRun} (run : s.prf.run = some r) (proof : r.cmd = 6) (none_ : r.pages = []) (capture : r.phase = 1)
    (store : bitOf r.want 1 = true → 3 ≤ r.sto) (ranger : rangerUp s = true) :
    captureDone s = imageGoes (stagingScrap (posNotes (running s (wholeRun s r)) r.root (runManifest r)) r.root (dWord r.body 4)
      (dWord r.body 5 * gib)) r (wholeRun s r) := by
  have ready : ¬(r.cmd ≠ 6 ∨ r.phase ≠ 1 ∨ (bitOf r.want 1 = true ∧ r.sto < 3) ∨ rangerUp s = false) := by
    rintro (h | h | ⟨h, early⟩ | h)
    · exact h proof
    · exact h capture
    · exact absurd early (Nat.not_lt.mpr (store h))
    · exact absurd (h.symm.trans ranger) (by decide)
  have pages : readPages s r = (r.img, false) := by rw [readPages, none_]; rfl
  have noted : r.pages.foldl (fun s x => pageNotes s x.1) s = s := by rw [none_]; rfl
  have image : { r with img := tabPut r.img 0 (imageFront s r (runManifest r)), pages := [], phase := 2 } = wholeRun s r := by
    rw [wholeRun, ← none_]
  unfold captureDone
  rw [run]
  dsimp only
  rw [if_neg ready, pages, noted]
  dsimp only
  rw [if_neg (by decide), image]
  rfl

section Waits
variable {s : State} {r whole : PrfRun} (run : s.prf.run = some whole) (wanted : whole.want = 2)
include run wanted

theorem commitTry_storeOnly : commitTry s = s := by
  have partner : bitOf 2 0 = false := by decide
  simp [commitTry, run, wanted, partner]

/-- A storage target whose slot is not yet WRITING: its image waits for it. -/
theorem imageGoes_waits (late : bitOf (dWord r.body 3) 8 = false) (store : r.want = 2) (step : r.sto = 3) (rest : resting s) :
    imageGoes s r whole = s := by
  have partner : ¬bitOf r.want 0 = true := by rw [store]; decide
  have streams : ¬(bitOf r.want 1 && r.sto == 9) = true := by simp [step]
  unfold imageGoes
  dsimp only
  rw [if_neg streams, if_neg partner, if_neg (by rw [late]; decide), commitTry_storeOnly run wanted, goOn_resting rest]

end Waits

/-! ### The commands (R469 to R474, R486, R489) -/

theorem partnerUp_sole {s : State} {i : Nat} (pair : s.prf.pair = 2 ∨ s.prf.pair = 3) (up : pairUp s = [i]) : partnerUp s = true := by
  rcases pair with pair | pair <;> simp [partnerUp, pair, up]

theorem begunState_clear {s : State} {q : Nat} (d : List Byte) (clear : s.prf.atClear.contains (queueGet s q).comp = true) :
    (begunState s q d).prf.atClear.contains (queueGet (begunState s q d) q).comp = true := by
  rw [queueGet_begunState]
  exact clear

theorem mfRead_begunState {s v : State} {q : Nat} {d : List Byte} (turn : queueTurn s q d) {r : Option (List Byte × List (Nat × Nat))}
    (read : mfRead (begunState s q d) (queueGet s q).root (dWord d 1) (queueGet s q).comp (dWord d 4) (dWord d 5) = (r, v)) :
    ReadsOnly (begunState s q d) v ∧
      mfRead (begunState s q d) (queueGet (begunState s q d) q).root (dWord d 1) (queueGet (begunState s q d) q).comp (dWord d 4) (dWord d 5) =
        (r, v) := by
  have reads := mfRead_reads (begunState_calm turn) (queueGet s q).root (dWord d 1) (queueGet s q).comp (dWord d 4) (dWord d 5)
  rw [read] at reads
  rw [queueGet_begunState]
  exact ⟨reads, read⟩

theorem exec_proofCmd (q : Nat) (s : State) : exec (.proofCmd q) s =
    withUnit 1024 q (runLive s (fun s => startCmd s q (· == 6) prfOwn (prfRun q (fun s q i b => proofStart s q i false b)))) := rfl

theorem exec_restoreCmd (q : Nat) (s : State) : exec (.restoreCmd q) s =
    withUnit 1024 q (runLive s (fun s => startCmd s q (· == 7) prfOwn (prfRun q restoreStart))) := rfl

theorem exec_resliceCmd (q : Nat) (s : State) : exec (.resliceCmd q) s =
    withUnit 1024 q (runLive s (fun s => startCmd s q (· == 8) prfOwn (prfRun q resliceStart))) := rfl

section Commands
variable {s : State} {q : Nat} {d : List Byte} (turn : queueTurn s q d) (body : bodyOk d = true) (priv : (queueGet s q).priv = true)
  (ranger : rangerUp s = true)
include turn body priv ranger

/-- A command that its own checks refuse at once. -/
theorem queueRuns_refused {i : Instr} {f : State → Nat → Nat → List Byte → State} {cmd st d0 : Nat}
    (arm : exec i s = withUnit 1024 q (runLive s (fun s => startCmd s q (· == cmd) prfOwn (prfRun q f)))) (named : dCmd d = cmd)
    (small : st < 2 ^ 8)
    (does : f (begunState s q d) q (queueGet s q).started d = proofAnswers (begunState s q d) q (queueGet s q).started st d0) :
    queueRuns i s q (fun t => completes s t q d st d0 0 ∧ regField t 0x90048 39 32 = st) :=
  queueRuns_answers turn body priv ranger arm named small (.refl (begunState_calm turn)) does

section Proof
variable (named : dCmd d = 6)
include named

theorem proofCmd_unclear (unclear : s.prf.atClear.contains (queueGet s q).comp = false) :
    queueRuns (.proofCmd q) s q (fun t => completes s t q d 0x31 0 0 ∧ regField t 0x90048 39 32 = 0x31) :=
  queueRuns_refused turn body priv ranger (exec_proofCmd q s) named (by decide)
    (proofStart_unclear (s := begunState s q d) (by rw [queueGet_begunState]; exact unclear))

variable (clear : s.prf.atClear.contains (queueGet s q).comp = true)
include clear

theorem proofCmd_unread
    (unread : (mfRead (begunState s q d) (queueGet s q).root (dWord d 1) (queueGet s q).comp (dWord d 4) (dWord d 5)).1 = none) :
    queueRuns (.proofCmd q) s q (fun t => completes s t q d 0x32 0 0 ∧ regField t 0x90048 39 32 = 0x32) := by
  obtain ⟨reads, read⟩ := mfRead_begunState turn (Prod.ext unread rfl)
  exact queueRuns_answers turn body priv ranger (exec_proofCmd q s) named (by decide) (reads.effectOnly (begunState_calm turn))
    (proofStart_unread (begunState_clear d clear) read)

/-- What a PROOF that begins takes down (R472): the queue's command, the next generation, and the image's size and pages. -/
def ProofBegan (s : State) (q : Nat) (d : List Byte) (bytes pages : Nat) (r : PrfRun) : Prop :=
  r.cmd = 6 ∧ r.q = q ∧ r.idx = (queueGet s q).started ∧ r.comp = (queueGet s q).comp ∧ r.phase = 1 ∧
    r.gen = max s.prf.gen (regField s 0x90050 31 0) + 1 ∧ r.bytes = bytes ∧ r.pages.length = pages ∧ r.want = dWord d 3 % 4 ∧ r.ok = 0

section Read
variable {m : List Byte} {pages : List (Nat × Nat)} {v : State}
  (read : mfRead (begunState s q d) (queueGet s q).root (dWord d 1) (queueGet s q).comp (dWord d 4) (dWord d 5) = (some (m, pages), v))
include read

omit body priv ranger named clear in
theorem proofBegun_began : ProofBegan s q d (imageBytes v (queueGet s q).comp m) pages.length
    (proofBegun v (begun (queueGet s q) d) q (queueGet s q).started d m pages) := by
  obtain ⟨reads, -⟩ := mfRead_begunState turn read
  have gen : max v.prf.gen (regField v 0x90050 31 0) + 1 = max s.prf.gen (regField s 0x90050 31 0) + 1 := by
    rw [reads.prf, reads.field]
    rfl
  exact ⟨rfl, rfl, rfl, rfl, rfl, gen, rfl, by simp [proofBegun], rfl, rfl⟩

/-- A PROOF whose image does not fit its target. -/
theorem proofCmd_small (target : (dWord d 3 % 4 = 1 ∧ partnerUp v = true ∧ Config.partnerSlot * gib < 4096 + imageBytes v (queueGet s q).comp m) ∨
      (dWord d 3 % 4 = 2 ∧ storeUp v = true ∧ storeSlot v < 4096 + imageBytes v (queueGet s q).comp m)) :
    queueRuns (.proofCmd q) s q (fun t => completes s t q d 0x30 0 0 ∧ regField t 0x90048 39 32 = 0x30) := by
  obtain ⟨reads, read_⟩ := mfRead_begunState turn read
  refine queueRuns_answers turn body priv ranger (exec_proofCmd q s) named (by decide) (reads.effectOnly (begunState_calm turn)) ?_
  refine (proofStart_read (begunState_clear d clear) read_).trans ?_
  rw [queueGet_begunState]
  have first : bitOf 1 0 = true ∧ bitOf 1 1 = false := by decide
  have second : bitOf 2 0 = false ∧ bitOf 2 1 = true := by decide
  rcases target with ⟨one, up, small⟩ | ⟨two, up, small⟩
  · rw [one, if_neg (by simp [first, up]), if_pos (by simp [first, begun, small])]
  · rw [two, if_neg (by simp [second, up]), if_pos (by simp [second, begun, small])]

/-- A PROOF for the partner, whose slot has room, begins with its BEGIN. -/
theorem proofCmd_partner {i : Nat} (one : dWord d 3 % 4 = 1) (pair : s.prf.pair = 2 ∨ s.prf.pair = 3) (up : pairUp v = [i])
    (ready : portReady (portGet v i) 10) (fits : ¬Config.partnerSlot * gib < 4096 + imageBytes v (queueGet s q).comp m) :
    queueRuns (.proofCmd q) s q (fun t => queueGet t q = begun (queueGet s q) d ∧
      ∃ r, ProofBegan s q d (imageBytes v (queueGet s q).comp m) pages.length r ∧ r.sto = 0 ∧
        t = sendsCell (running v r) i 10 (prfCell 1 r.gen (openSlot s) 0 0 0 []) (pairMask v)) := by
  obtain ⟨reads, read_⟩ := mfRead_begunState turn read
  have there : partnerUp v = true := partnerUp_sole (by rw [reads.prf]; exact pair) up
  have first : bitOf 1 0 = true ∧ bitOf 1 1 = false := by decide
  have wants : bitOf (proofBegun v (begun (queueGet s q) d) q (queueGet s q).started d m pages).want 0 = true := by
    rw [show (proofBegun v (begun (queueGet s q) d) q (queueGet s q).started d m pages).want = dWord d 3 % 4 from rfl, one]
    exact first.1
  have slot : openSlot v = openSlot s := by
    rw [openSlot, openSlot, reads.prf]
    rfl
  have sends := sendBegin_sole wants up ready
  rw [slot] at sends
  have does : proofStart (begunState s q d) q (queueGet s q).started false d =
      sendsCell (running v (proofBegun v (begun (queueGet s q) d) q (queueGet s q).started d m pages)) i 10
        (prfCell 1 (proofBegun v (begun (queueGet s q) d) q (queueGet s q).started d m pages).gen (openSlot s) 0 0 0 []) (pairMask v) := by
    refine (proofStart_read (begunState_clear d clear) read_).trans ?_
    rw [queueGet_begunState, one, if_neg (by simp [first, there]), 
      if_neg (by rw [first.1, first.2, Bool.true_and, Bool.false_and, Bool.or_false]; exact fun small => fits (of_decide_eq_true small)), if_neg (by simp [first])]
    exact sends
  refine queueRuns_goes turn body priv ranger (exec_proofCmd q s) named does (reads.calm (begunState_calm turn)) reads.errs reads.pending
    ⟨?_, _, proofBegun_began turn read, rfl, rfl⟩
  exact (queueGet_queues _ _ q (congrArg Qsu.queues reads.qsu)).trans (queueGet_begunState s q d)

/-- A PROOF for the partner is refused where its slot is too small (R471). -/
theorem proofCmd_forPartner {i : Nat} (one : dWord d 3 % 4 = 1) (pair : s.prf.pair = 2 ∨ s.prf.pair = 3) (up : pairUp v = [i])
    (ready : portReady (portGet v i) 10) :
    (Config.partnerSlot * gib < 4096 + imageBytes v (queueGet s q).comp m →
      queueRuns (.proofCmd q) s q (fun t => completes s t q d 0x30 0 0 ∧ regField t 0x90048 39 32 = 0x30)) ∧
    (¬Config.partnerSlot * gib < 4096 + imageBytes v (queueGet s q).comp m →
      queueRuns (.proofCmd q) s q (fun t => queueGet t q = begun (queueGet s q) d ∧
        ∃ r, ProofBegan s q d (imageBytes v (queueGet s q).comp m) pages.length r ∧ r.sto = 0 ∧
          t = sendsCell (running v r) i 10 (prfCell 1 r.gen (openSlot s) 0 0 0 []) (pairMask v))) := by
  obtain ⟨reads, -⟩ := mfRead_begunState turn read
  have there : partnerUp v = true := partnerUp_sole (by rw [reads.prf]; exact pair) up
  exact ⟨fun small => proofCmd_small turn body priv ranger named clear read (.inl ⟨one, there, small⟩),
    fun fits => proofCmd_partner turn body priv ranger named clear read one pair up ready fits⟩

/-- A PROOF for a storage target whose slots have room asks for its first header (R477). -/
theorem proofCmd_store (two : dWord d 3 % 4 = 2) (up : storeUp v = true) (pairReady : bitsOf (qpWord v (storeQp v) 0) 63 61 = 6)
    (port : portUp v (bitsOf (qpWord v (storeQp v) 0) 60 56) 2 = true) (fits : 4096 + imageBytes v (queueGet s q).comp m ≤ storeSlot v) :
    queueRuns (.proofCmd q) s q (fun t => queueGet t q = begun (queueGet s q) d ∧
      ∃ r, ProofBegan s q d (imageBytes v (queueGet s q).comp m) pages.length r ∧ r.sto = 1 ∧
        t = emit (running v r) (.packet (bitsOf (qpWord v (storeQp v) 0) 60 56) 1 (leBytes 8 (storeAddr v 0) ++ leBytes 8 4096))) := by
  obtain ⟨reads, read_⟩ := mfRead_begunState turn read
  have second : bitOf 2 0 = false ∧ bitOf 2 1 = true := by decide
  have serves : rangerUp v = true := reads.rangerUp.trans ranger
  have does : proofStart (begunState s q d) q (queueGet s q).started false d =
      stoSent v { proofBegun v (begun (queueGet s q) d) q (queueGet s q).started d m pages with sto := 1, retry := 0 } := by
    refine (proofStart_read (begunState_clear d clear) read_).trans ?_
    rw [queueGet_begunState, two, if_neg (by simp [second, up]), 
      if_neg (by rw [second.1, second.2, Bool.false_and, Bool.true_and, Bool.false_or]; exact fun small => (of_decide_eq_true small).not_ge fits), if_pos second.2]
    exact stoStep_sent serves pairReady port _ 1
  refine queueRuns_goes turn body priv ranger (exec_proofCmd q s) named (does.trans (stoSent_header rfl)) (reads.calm (begunState_calm turn)) reads.errs
    reads.pending ⟨?_, { proofBegun v (begun (queueGet s q) d) q (queueGet s q).started d m pages with sto := 1, retry := 0 },
      proofBegun_began turn read, rfl, rfl⟩
  exact (queueGet_queues _ _ q (congrArg Qsu.queues reads.qsu)).trans (queueGet_begunState s q d)

end Read
end Proof

/-! RESTORE (R486). -/

section Restore
variable (named : dCmd d = 7)
include named

theorem restoreCmd_unclear (unclear : s.prf.atClear.contains (queueGet s q).comp = false) :
    queueRuns (.restoreCmd q) s q (fun t => completes s t q d 0x31 0 0 ∧ regField t 0x90048 39 32 = 0x31) :=
  queueRuns_refused turn body priv ranger (exec_restoreCmd q s) named (by decide)
    (restoreStart_unclear (s := begunState s q d) (by rw [queueGet_begunState]; exact unclear))

variable (clear : s.prf.atClear.contains (queueGet s q).comp = true)
include clear

theorem restoreCmd_lost (partner : dWord d 1 % 2 = 0) (lost : partnerUp s = false) :
    queueRuns (.restoreCmd q) s q (fun t => completes s t q d 0x33 0 0 ∧ regField t 0x90048 39 32 = 0x33) :=
  queueRuns_refused turn body priv ranger (exec_restoreCmd q s) named (by decide) (restoreStart_lost (begunState_clear d clear) partner lost)

/-- What a RESTORE that begins takes down (R486). -/
def RestoreBegan (s : State) (q : Nat) (d : List Byte) (want sto : Nat) (r : PrfRun) : Prop :=
  r.cmd = 7 ∧ r.q = q ∧ r.idx = (queueGet s q).started ∧ r.comp = (queueGet s q).comp ∧ r.phase = 1 ∧ r.gen = dWord d 2 % 2 ^ 32 ∧
    r.slot = 0 ∧ r.want = want ∧ r.sto = sto

/-- A RESTORE from the partner asks it for its first header. -/
theorem restoreCmd_partner {i : Nat} (partner : dWord d 1 % 2 = 0) (pair : s.prf.pair = 2 ∨ s.prf.pair = 3) (up : pairUp s = [i])
    (ready : portReady (portGet s i) 10) :
    queueRuns (.restoreCmd q) s q (fun t => queueGet t q = begun (queueGet s q) d ∧ ∃ r, RestoreBegan s q d 1 0 r ∧
      t = sendsCell (running (begunState s q d) r) i 10 (prfCell 4 r.gen 0 hdrOff 4096 0 []) (pairMask s)) := by
  have does := restoreStart_partner (s := begunState s q d) (idx := (queueGet s q).started) (body := d) (begunState_clear d clear) partner
    (partnerUp_sole (s := s) pair up) up ready
  rw [queueGet_begunState] at does
  have want : 1 + dWord d 1 % 2 = 1 := by rw [partner]
  exact queueRuns_goes turn body priv ranger (exec_restoreCmd q s) named does (begunState_calm turn : uncached (begunState s q d)) rfl rfl
    ⟨queueGet_begunState s q d, _, ⟨rfl, rfl, rfl, rfl, rfl, rfl, rfl, want, rfl⟩, rfl⟩

/-- A RESTORE from a storage target asks it for its first header. -/
theorem restoreCmd_store (store : dWord d 1 % 2 = 1) (up : storeUp s = true) (pairReady : bitsOf (qpWord s (storeQp s) 0) 63 61 = 6)
    (port : portUp s (bitsOf (qpWord s (storeQp s) 0) 60 56) 2 = true) :
    queueRuns (.restoreCmd q) s q (fun t => queueGet t q = begun (queueGet s q) d ∧ ∃ r, RestoreBegan s q d 2 1 r ∧
      t = emit (running (begunState s q d) r) (.packet (bitsOf (qpWord (begunState s q d) (storeQp (begunState s q d)) 0) 60 56) 1
        (leBytes 8 (storeAddr (begunState s q d) 0) ++ leBytes 8 4096))) := by
  have word : qpWord (begunState s q d) (storeQp (begunState s q d)) 0 = qpWord s (storeQp s) 0 :=
    congrArg (fun b : List Byte × Bool => leNat b.1) (paRead_begunState (queueTurn_calm turn) q d 0 (qpAddr s (storeQp s) + 8 * 0) 8)
  have starts := restoreStart_store (s := begunState s q d) (idx := (queueGet s q).started) (body := d) (begunState_clear d clear) store up
  rw [queueGet_begunState] at starts
  have asks := stoStep_sent (s := begunState s q d) ranger (by rw [word]; exact pairReady) (by rw [word]; exact port)
    (restoreBegun (begun (queueGet s q) d) q (queueGet s q).started d) 1
  have want : 1 + dWord d 1 % 2 = 2 := by rw [store]
  exact queueRuns_goes turn body priv ranger (exec_restoreCmd q s) named ((starts.trans asks).trans (stoSent_header rfl)) (begunState_calm turn : uncached (begunState s q d)) rfl rfl
    ⟨queueGet_begunState s q d, _, ⟨rfl, rfl, rfl, rfl, rfl, rfl, rfl, want, rfl⟩, rfl⟩

end Restore

/-! RESLICE (R489). -/

section Reslice
variable (named : dCmd d = 8)
include named

theorem resliceCmd_reserveless (none_ : slotGib s = 0) :
    queueRuns (.resliceCmd q) s q (fun t =>
      completes s t q d 0x35 (if dWord d 1 % 2 ^ 32 = 0 then regField s 0x90050 63 32 else dWord d 1 % 2 ^ 32) 0 ∧ regField t 0x90048 39 32 = 0x35) :=
  queueRuns_refused turn body priv ranger (exec_resliceCmd q s) named (by decide) (resliceStart_reserveless (s := begunState s q d) none_)

/-- A RESLICE with one piece, which goes to a canopy line, writes it and completes. -/
theorem resliceCmd_memory {v : State} {j off va : Nat} {map data : List Byte} {lf : Leaf} (room : slotGib s ≠ 0)
    (asked : dWord d 1 % 2 ^ 32 ≠ 0) (landed : s.ride.tiles = [])
    (pick : pickSlot (headerGen (resRead s (slotBase s 0) 80).1 (regGet s 0x90008)) (headerGen (resRead s (slotBase s 1) 80).1 (regGet s 0x90008))
      (dWord d 1 % 2 ^ 32) = some j)
    (one : dWord d 3 = 1) (read : readArg (begunState s q d) (queueGet s q).root (dWord d 2) 32 = (some map, v))
    (entry : mapEntry map 0 = (off, 64, va, 1)) (aligned : off % 64 = 0) (inside : off + 64 ≤ fieldAt (resRead s (slotBase s j) 80).1 24 8)
    (lined : va % 64 = 0) (cached : cachedAt v (queueGet s q).root va lf) (writable : eW lf.ent = true) (plain : eSel lf.ent = 0)
    (canopy : paTier (ePage lf.ent) = 0) (low : leafPA lf va < 2 ^ 44)
    (bytes : (resRead v (slotBase v j + 4096 + off) 64).1 = data) (line : data.length = 64) :
    queueRuns (.resliceCmd q) s q (fun t => completes s t q d 0 (dWord d 1 % 2 ^ 32) 64 ∧ t.prf.run = none ∧
      paRead t 0 (leafPA lf va) 64 = (data, false)) := by
  have reads : ReadsOnly (begunState s q d) v := by
    have reads := readArg_reads (begunState_calm turn) (queueGet s q).root (dWord d 2) 32
    rwa [read] at reads
  have calm := reads.calm (begunState_calm turn)
  have within : leafPA lf va % 64 + 64 ≤ 64 := by rw [leafPA_mod, lined]
  have same : ∀ pa n, resRead (begunState s q d) pa n = resRead s pa n := resRead_congr (s := s) (t := begunState s q d) rfl rfl
  have base : ∀ k, slotBase (begunState s q d) k = slotBase s k := fun _ => rfl
  obtain ⟨r, begun_⟩ : ∃ r, r = { resliceBegun (begun (queueGet s q) d) q (queueGet s q).started d j with bytes := 64 } := ⟨_, rfl⟩
  have calm_ : uncached (running v r) := calm
  have wrote := paWrite_effectOnly calm_ (leafPA lf va) data
  have kept := paWrite_prf calm_ (leafPA lf va) data
  have back := paRead_paWrite_within calm_ (pa := leafPA lf va) (data := data) (by omega) (by omega) (by unfold lineTier; omega)
  obtain ⟨z, written⟩ : ∃ z, z = paWrite (running v r) 0 (leafPA lf va) data := ⟨_, rfl⟩
  rw [← written] at wrote kept back
  have starts : resliceStart (begunState s q d) q (queueGet s q).started d = resliceTry z := by
    have starts := resliceStart_piece (s := begunState s q d) (idx := (queueGet s q).started) (v := v) (j := j) (map := map) room asked
      (by simp only [same, base]; exact pick) one (by rw [queueGet_begunState]; exact read)
      (by rw [queueGet_begunState, entry, same, base]; exact mapOk_line aligned inside cached writable canopy)
    rw [queueGet_begunState, entry, reslicePiece_memory calm, bytes] at starts
    refine starts.trans (congrArg resliceTry ?_)
    have put := vaWrite_line (s := running v r) (b := data) lined line cached writable canopy
    rw [plain, ← written] at put
    rw [← put, begun_]
    rfl
  have ends := resliceTry_ends (z := z) (r := r) (congrArg Prf.run kept) (by rw [begun_]; rfl)
    ((congrArg (fun p => p.tiles) wrote.ride).trans ((congrArg (fun p => p.tiles) reads.ride).trans landed)) (by rw [begun_]; rfl) (by rw [begun_]; rfl)
  have names : r.q = q ∧ r.idx = (queueGet s q).started ∧ r.gen = dWord d 1 % 2 ^ 32 ∧ r.bytes = 64 := by rw [begun_]; exact ⟨rfl, rfl, rfl, rfl⟩
  obtain ⟨hq, idx, gen, size⟩ := names
  rw [hq, idx, gen, size] at ends
  have effect : EffectOnly (begunState s q d) (proofEnded z 0) := ((reads.effectOnly (begunState_calm turn)).running.trans wrote).ended 0
  obtain ⟨own, runs⟩ := prfOwn_turn turn body priv ranger (f := resliceStart)
  refine queueRuns_completes turn (exec_resliceCmd q s) (by simp [named]) own (runs.trans (starts.trans ends)) effect
    (P := fun t => t.prf.run = none ∧ paRead t 0 (leafPA lf va) 64 = (data, false)) fun t record => ?_
  obtain ⟨-, only, -⟩ := record.but
  have left : t.prf = (proofEnded z 0).prf := (congrArg State.prf only :)
  have ended : (proofEnded z 0).prf.run = none := by rw [proofEnded, regSet_prf]
  have same_ : paRead (proofEnded z 0) 0 (leafPA lf va) 64 = paRead z 0 (leafPA lf va) 64 :=
    paRead_congr (s := z) (t := proofEnded z 0) wrote.calm (regSet_coh ..) (regSet_tiers ..) _ _ _
  rw [line] at back
  exact ⟨by rw [left, ended], (record.paRead_within effect.calm (by decide) within low).trans (same_.trans back)⟩

end Reslice
end Commands

theorem running_errs (s : State) (x : PrfRun) : (running s x).errs = s.errs := rfl
theorem running_pending (s : State) (x : PrfRun) : (running s x).pending = s.pending := rfl
theorem running_running (s : State) (x y : PrfRun) : running (running s x) y = running s y := rfl

section Rests
variable {s : State} {r : PrfRun} (live : Live s) (calm : uncached s) (rest : resting s)
include live calm rest

/-- Capture's end while the complex rests, for a storage target whose slot is not yet WRITING (R472). -/
theorem exec_proofCaptureDone (ranger : rangerUp s = true) (proof : r.cmd = 6) (none_ : r.pages = []) (capture : r.phase = 1) (store : r.want = 2)
    (step : r.sto = 3) (late : bitOf (dWord r.body 3) 8 = false)
    (scrap : stagingScrap (posNotes (running s (wholeRun (running s r) r)) r.root (runManifest r)) r.root (dWord r.body 4) (dWord r.body 5 * gib) =
      posNotes (running s (wholeRun (running s r) r)) r.root (runManifest r)) :
    exec .proofCaptureDone (running s r) = .next (posNotes (running s (wholeRun (running s r) r)) r.root (runManifest r)) := by
  have live_ : Live (running s r) := live
  have does := captureDone_read (s := running s r) (r := r) rfl proof none_ capture (fun _ => by rw [step]) ranger
  rw [running_running] at does
  obtain ⟨x, whole⟩ : ∃ x, x = wholeRun (running s r) r := ⟨_, rfl⟩
  have wanted : x.want = 2 := by rw [whole]; exact store
  rw [← whole] at does scrap ⊢
  have reads : ReadsOnly (running s x) (posNotes (running s x) r.root (runManifest r)) := posNotes_reads (s := running s x) calm _ _
  have run : (posNotes (running s x) r.root (runManifest r)).prf.run = some x := congrArg Prf.run reads.prf
  rw [scrap, imageGoes_waits run wanted late store step (resting_congr reads.cores reads.ride rest)] at does
  exact runLive_next (running s r) _ captureDone live_ does (reads.errs.trans (running_errs s x)) (reads.pending.trans (running_pending s x))

/-- The copying aside of a page while the complex rests (R472). -/
theorem exec_proofPageCopy {page off : Nat} (listed : r.pages.find? (fun p => p.1 == page) = some (page, 0, off)) :
    exec (.proofPageCopy page) (running s r) = .next (running (pageNotes (running s r) page)
      { r with img := tabPut r.img off (pageBytes s page 0).1, pages := r.pages.erase (page, 0, off) }) := by
  have live_ : Live (running s r) := live
  have noted : ReadsOnly (running s r) (pageNotes (running s r) page) := (readNotes_sent (running s r) _ _).readsOnly
  have does := pageCopy_takes (s := running s r) calm rfl rest listed
  rw [pageBytes, paRead_running, ← pageBytes] at does
  exact runLive_next (running s r) _ (fun s => pageCopy s page) live_ does ((running_errs ..).trans noted.errs) ((running_pending ..).trans noted.pending)

end Rests

end Sys2Proof.Machine

open Sys2Proof Sys2Proof.Machine in
/-- Settles O30: what a command reads before it starts changes no more than `ReadsOnly` allows, so each of its checks meets the complex as
it was. -/
theorem proofCommandsStart : Obligations.ProofCommandsStart := by
  unfold Obligations.ProofCommandsStart
  intro q d s turn body priv ranger k w b fails runs holds asksStore asked
  obtain ⟨live, -, -, -, -, calm, -⟩ := id turn
  refine ⟨fun unclear => ⟨fun named => proofCmd_unclear turn body priv ranger named unclear,
      fun named => restoreCmd_unclear turn body priv ranger named unclear⟩,
    fun clear => ⟨fun named unread => proofCmd_unread turn body priv ranger named clear unread, ?_⟩,
    fun clear => ⟨fun named partner lost => restoreCmd_lost turn body priv ranger named clear partner lost, ?_, ?_⟩,
    fun named none_ => resliceCmd_reserveless turn body priv ranger named none_, ?_, ?_, ?_⟩
  · intro m pages v named read began
    refine ⟨fun i one pair up ready => ?_, fun two ⟨up, _, _⟩ small => ?_, fun two ⟨up, pairReady, port⟩ fits => ?_⟩
    · have target := proofCmd_forPartner turn body priv ranger named clear read one pair up ready
      generalize Config.partnerSlot * gib = a at target ⊢
      split
      · next small => exact target.1 small
      · next fits => exact target.2 fits
    · exact proofCmd_small turn body priv ranger named clear read (.inr ⟨two, up, small⟩)
    · exact proofCmd_store turn body priv ranger named clear read two up pairReady port fits
  · intro i named partner pair up ready
    obtain ⟨t, runs_, begun_, r, ⟨cmd, rq, idx, comp, phase, gen, slot, want, -⟩, sent⟩ :=
      restoreCmd_partner turn body priv ranger named clear partner pair up ready
    exact ⟨t, runs_, begun_, r, cmd, rq, idx, comp, phase, gen, slot, want, sent⟩
  · intro named store ⟨up, pairReady, port⟩
    obtain ⟨t, runs_, begun_, r, ⟨cmd, rq, idx, comp, phase, gen, slot, want, sto⟩, sent⟩ :=
      restoreCmd_store turn body priv ranger named clear store up pairReady port
    exact ⟨t, runs_, begun_, r, cmd, rq, idx, comp, phase, gen, slot, want, sto, sent⟩
  · intro j map off va lf v named room asked_ landed head data pick one read entry aligned inside lined cached writable plain canopy _ _ low line
    exact resliceCmd_memory turn body priv ranger named room asked_ landed pick one read entry aligned inside lined cached writable plain canopy low
      rfl line
  · intro r captured proof none_ capture store step late rest scrap
    exact exec_proofCaptureDone live calm rest ranger proof none_ capture store step late scrap
  · intro r page off rest listed
    exact exec_proofPageCopy live calm rest listed
end


section
/-! PROOFS. Enable (R506, R507): what an accepted enable's steps set, one after the other. -/

namespace Sys2Proof.Machine

/-! ### Fences and cores in service (R15, R121, R122, R500) -/

theorem coreMap_foldl_only {f : Nat → Core → Core} (s : State) (l : List Nat) :
    { l.foldl (fun s c => coreMap s c (f c)) s with cores := s.cores } = s :=
  List.foldlRecOn (motive := fun t : State => { t with cores := s.cores } = s) _ _ rfl fun _ same _ _ => same

/-- A change of a list of cores, each listed once, is met by each of them and by no other. -/
theorem coreGet_coreMap_foldl {f : Nat → Core → Core} {l : List Nat} (once : l.Nodup) (s : State) (c : Nat) :
    coreGet (l.foldl (fun s c => coreMap s c (f c)) s) c = if c ∈ l then f c (coreGet s c) else coreGet s c := by
  induction l generalizing s with
  | nil => rfl
  | cons x l ih =>
    obtain ⟨fresh, rest⟩ := List.nodup_cons.mp once
    rw [List.foldl_cons, ih rest]
    by_cases same : c = x
    · subst same
      simp [fresh]
    · simp [same, coreGet_coreMap_ne s (f x) same]

theorem groveCores_nodup (g : Nat) : (groveCores g).Nodup :=
  List.nodup_range.map fun a b same => by omega

/-- Numbering a grove's cores afresh changes their logical indices alone (R15). -/
theorem renumber_numbers (s : State) (g : Nat) :
    { renumber s g with cores := s.cores } = s ∧ ∀ c, ∃ j, coreGet (renumber s g) c = { coreGet s c with logical := j } := by
  unfold renumber
  refine List.foldlRecOn (motive := fun t : State => { t with cores := s.cores } = s ∧ ∀ c, ∃ j, coreGet t c = { coreGet s c with logical := j })
    _ _ ⟨rfl, fun c => ⟨_, rfl⟩⟩ ?_
  rintro t ⟨only, numbers⟩ x -
  have mapped : ∀ j, { coreMap t x (fun k => { k with logical := j }) with cores := s.cores } = s ∧
      ∀ c, ∃ i, coreGet (coreMap t x (fun k => { k with logical := j })) c = { coreGet s c with logical := i } := by
    refine fun j => ⟨only, fun c => ?_⟩
    obtain ⟨i, number⟩ := numbers c
    by_cases same : c = x
    · subst same
      exact ⟨j, by rw [coreGet_coreMap_same, number]⟩
    · exact ⟨i, by rw [coreGet_coreMap_ne t _ same, number]⟩
  split
  · exact mapped _
  · split
    · exact ⟨only, numbers⟩
    · exact mapped 255

/-- What an accepted enable makes of a core: fenced, serving or in reserve, its streams and tags cleared (R121, R122). -/
def enabledCore (f on spare : Bool) (k : Core) : Core :=
  { k with st := if f then .fenced else if on then .idle else .unused, fenced := f, spareUse := spare, tbuf := [], a := { k.a with stip := [], tags := [] } }

/-- What the fences of an enable rest on: the registers of the cores, the marks and the spares. -/
def sameFences (s t : State) : Prop :=
  (∀ c, fenceAsked t c = fenceAsked s c) ∧ t.life.spares = s.life.spares ∧ t.life.marked = s.life.marked

theorem nextServing_congr {s t : State} (same : sameFences s t) (g : Nat) : nextServing t g = nextServing s g := by
  obtain ⟨asked, spares, marked⟩ := same
  have fences : fenceAsked t = fenceAsked s := funext asked
  simp only [nextServing, fences, spares, marked]

/-- What an accepted enable makes of core `c` of grove `g`. -/
def acceptCore (s : State) (g c : Nat) : Core → Core :=
  enabledCore (fenceAsked s c) ((nextServing s g).contains c) ((nextServing s g).contains c && s.life.spares.contains c)

theorem acceptCore_congr {s t : State} (same : sameFences s t) (g c : Nat) : acceptCore t g c = acceptCore s g c := by
  obtain ⟨asked, spares, -⟩ := id same
  rw [acceptCore, acceptCore, nextServing_congr same, asked, spares]

/-- A grove's part of an enable's fences. -/
def acceptGrove (s : State) (g : Nat) : State := renumber ((groveCores g).foldl (fun t c => coreMap t c (acceptCore s g c)) s) g

theorem acceptGrove_serves (s : State) (g : Nat) :
    { acceptGrove s g with cores := s.cores } = s ∧ ∀ c, ∃ j, coreGet (acceptGrove s g) c =
      { (if groveOf c = g then acceptCore s g c (coreGet s c) else coreGet s c) with logical := j } := by
  have only := coreMap_foldl_only (f := acceptCore s g) s (groveCores g)
  have met := coreGet_coreMap_foldl (f := acceptCore s g) (groveCores_nodup g) s
  unfold acceptGrove
  generalize (groveCores g).foldl (fun t c => coreMap t c (acceptCore s g c)) s = u at only met ⊢
  obtain ⟨beside, numbers⟩ := renumber_numbers u g
  refine ⟨(congrArg (fun x : State => { x with cores := s.cores }) beside).trans only, fun c => ?_⟩
  obtain ⟨j, number⟩ := numbers c
  refine ⟨j, ?_⟩
  rw [number, met]
  by_cases inside : groveOf c = g
  · rw [if_pos inside, if_pos (mem_groveCores.mpr inside)]
  · rw [if_neg inside, if_neg (inside ∘ mem_groveCores.mp)]

theorem sameFences_of_cores {s t : State} (only : { t with cores := s.cores } = s) : sameFences s t :=
  ⟨fun c => (congrArg (fun x : State => fenceAsked x c) only :), (congrArg (fun x : State => x.life.spares) only :),
    (congrArg (fun x : State => x.life.marked) only :)⟩

/-- A grove's cores, each judged as it is reached: the cores do not enter the judgement. -/
theorem acceptGrove_eq (s : State) (g : Nat) :
    renumber ((groveCores g).foldl (fun t c => coreMap t c (enabledCore (fenceAsked t c) ((nextServing s g).contains c)
      ((nextServing s g).contains c && t.life.spares.contains c))) s) g = acceptGrove s g := by
  have fold : ∀ (l : List Nat) (u : State), { u with cores := s.cores } = s →
      l.foldl (fun t c => coreMap t c (enabledCore (fenceAsked t c) ((nextServing s g).contains c)
        ((nextServing s g).contains c && t.life.spares.contains c))) u = l.foldl (fun t c => coreMap t c (acceptCore s g c)) u := by
    intro l
    induction l with
    | nil => intro _ _; rfl
    | cons c l ih =>
      intro u only
      obtain ⟨asked, spares, -⟩ := sameFences_of_cores only
      rw [List.foldl_cons, List.foldl_cons, asked, spares]
      exact ih _ only
  rw [fold _ s rfl, acceptGrove]

/-- The groves below `n` of an enable's fences. -/
theorem acceptGroves_serve (s : State) (n : Nat) :
    { (List.range n).foldl acceptGrove s with cores := s.cores } = s ∧ ∀ c, ∃ j, coreGet ((List.range n).foldl acceptGrove s) c =
      { (if groveOf c < n then acceptCore s (groveOf c) c (coreGet s c) else coreGet s c) with logical := j } := by
  induction n with
  | zero => exact ⟨rfl, fun c => ⟨_, rfl⟩⟩
  | succ n ih =>
    rw [List.range_succ, List.foldl_append, List.foldl_cons, List.foldl_nil]
    generalize (List.range n).foldl acceptGrove s = u at ih ⊢
    obtain ⟨only, served⟩ := ih
    obtain ⟨beside, grove⟩ := acceptGrove_serves u n
    generalize acceptGrove u n = v at beside grove ⊢
    refine ⟨(congrArg (fun x : State => { x with cores := s.cores }) beside).trans only, fun c => ?_⟩
    obtain ⟨i, before⟩ := served c
    obtain ⟨j, after⟩ := grove c
    refine ⟨j, ?_⟩
    rw [after, before, acceptCore_congr (sameFences_of_cores only)]
    by_cases here : groveOf c = n
    · subst here
      rw [if_pos rfl, if_neg (Nat.lt_irrefl _), if_pos (Nat.lt_succ_self _)]
      rfl
    · rw [if_neg here, if_congr (show groveOf c < n + 1 ↔ groveOf c < n by omega) rfl rfl]

/-- The fault fencings end (R121, R507). -/
def unfence (s : State) : State :=
  let s := { s with flt := { s.flt with fenced := s.life.marked.filter (fun r => decide (0x960 ≤ r)) } }
  ((List.range 0xA96).filter (fun r => frState s r == 3)).foldl (fun s r => episodePut (regSet s (frOff r) 2 0 0) r 0) s

theorem acceptFences_groves (s : State) : acceptFences s = (List.range 48).foldl acceptGrove (unfence s) := by
  unfold acceptFences unfence
  dsimp only
  exact List.foldl_ext _ _ _ fun t g _ => acceptGrove_eq t g

/-- The records' own registers. -/
def isRecordReg (a : Nat) : Prop := 0x100000 ≤ a ∧ a < 0x200000

theorem unfence_records (s : State) :
    { unfence s with regs := s.regs, flt := s.flt } = s ∧ (unfence s).flt.armed = s.flt.armed ∧
      ∀ a, ¬isRecordReg a → regGet (unfence s) a = regGet s a := by
  unfold unfence
  dsimp only
  refine List.foldlRecOn (motive := fun t : State => { t with regs := s.regs, flt := s.flt } = s ∧ t.flt.armed = s.flt.armed ∧
    ∀ a, ¬isRecordReg a → regGet t a = regGet s a) _ _ ⟨rfl, rfl, fun _ _ => rfl⟩ ?_
  rintro t ⟨only, armed, regs⟩ r listed
  have low : r < 0xA96 := List.mem_range.mp (List.mem_filter.mp listed).1
  refine ⟨only, armed, fun a other => (regGet_regSet_ne t _ _ _ fun same => other ?_).trans (regs a other)⟩
  unfold isRecordReg
  rw [same, frOff]
  omega

theorem sameFences_unfence (s : State) : sameFences s (unfence s) := by
  obtain ⟨only, -, regs⟩ := unfence_records s
  generalize unfence s = t at only regs ⊢
  have life : t.life = s.life := (congrArg State.life only :)
  refine ⟨fun c => ?_, by rw [life], by rw [life]⟩
  rw [fenceAsked, fenceAsked, life, regField, regs _ (by unfold isRecordReg; omega)]
  rfl

/-- What the fences of an enable leave, and what they make of each core. -/
structure FencesPut (s t : State) : Prop where
  only : { t with cores := s.cores, regs := s.regs, flt := s.flt } = s
  regs : ∀ a, ¬isRecordReg a → regGet t a = regGet s a
  cores : ∀ c, c < 2400 → ∃ j, coreGet t c = { acceptCore s (groveOf c) c (coreGet s c) with logical := j }

theorem FencesPut.of_groves {s u v : State} (ended : { u with regs := s.regs, flt := s.flt } = s) (regs : ∀ a, ¬isRecordReg a → regGet u a = regGet s a)
    (same : sameFences s u) (only : { v with cores := u.cores } = u)
    (served : ∀ c, ∃ j, coreGet v c = { (if groveOf c < 48 then acceptCore u (groveOf c) c (coreGet u c) else coreGet u c) with logical := j }) :
    FencesPut s v where
  only := (congrArg (fun x : State => { x with cores := s.cores, regs := s.regs, flt := s.flt }) only).trans
    (congrArg (fun x : State => { x with cores := s.cores }) ended :)
  regs a other := by
    have kept : v.regs = u.regs := (congrArg State.regs only :)
    rw [regGet, kept]
    exact regs a other
  cores c below := by
    obtain ⟨j, core⟩ := served c
    have before : coreGet u c = coreGet s c := (congrArg (fun x : State => coreGet x c) ended :)
    refine ⟨j, ?_⟩
    rw [core, if_pos (by unfold groveOf; omega), acceptCore_congr same, before]

theorem acceptFences_put (s : State) : FencesPut s (acceptFences s) := by
  obtain ⟨ended, -, regs⟩ := unfence_records s
  obtain ⟨only, served⟩ := acceptGroves_serve (unfence s) 48
  rw [acceptFences_groves]
  exact .of_groves ended regs (sameFences_unfence s) only served

end Sys2Proof.Machine
end


section
/-! PROOFS. Enable (R507): the tables an accepted enable copies, its watch set and its power. -/

namespace Sys2Proof.Machine

/-- The registers that an accepted enable's copies leave alone. -/
def isSetUpReg (a : Nat) : Prop := a < 0x42000 ∨ a = 0x50010

/-- What the copies of an accepted enable leave: all but the ride ports, the host port, what has been sent, the translation tables, the
bias table, and the registers that show a copy. -/
structure Copies (s t : State) : Prop where
  only : { t with regs := s.regs, ride := s.ride, host := s.host, out := s.out, xlt := s.xlt, tiers := { t.tiers with bias := s.tiers.bias } } = s
  regs : ∀ a, isSetUpReg a → regGet t a = regGet s a

theorem Copies.refl (s : State) : Copies s s := ⟨rfl, fun _ _ => rfl⟩

namespace Copies
variable {s t u : State}

theorem trans (a : Copies s t) (b : Copies t u) : Copies s u where
  only := by
    have here := congrArg (fun x : State => { x with
      regs := s.regs, ride := s.ride, host := s.host, out := s.out, xlt := s.xlt, tiers := { x.tiers with bias := s.tiers.bias } }) b.only
    exact here.trans a.only
  regs x setUp := (b.regs x setUp).trans (a.regs x setUp)

theorem of_sends (sends : justSends s t) : Copies s t where
  only := by
    obtain ⟨only, tiers, -⟩ := sends
    have here : { t with host := s.host, out := s.out } = s := only
    have bias : { t.tiers with bias := s.tiers.bias } = t.tiers := by rw [tiers]
    have regs : t.regs = s.regs := (congrArg State.regs only :)
    have ride : t.ride = s.ride := (congrArg State.ride only :)
    have xlt : t.xlt = s.xlt := (congrArg State.xlt only :)
    rw [bias, ← regs, ← ride, ← xlt]
    exact here
  regs x _ := by
    obtain ⟨only, -, -⟩ := sends
    have regs : t.regs = s.regs := (congrArg State.regs only :)
    rw [regGet, regs]
    rfl

variable (h : Copies s t)
include h

theorem coh : t.coh = s.coh := (congrArg State.coh h.only :)
theorem qsu : t.qsu = s.qsu := (congrArg State.qsu h.only :)
theorem tiers : { t.tiers with bias := s.tiers.bias } = s.tiers := (congrArg State.tiers h.only :)

theorem calm (calm : uncached s) : uncached t :=
  ⟨h.coh.trans calm.1, (congrArg Tiers.poison h.tiers :).trans calm.2⟩

theorem field {a : Nat} (setUp : isSetUpReg a) (hi lo : Nat) : regField t a hi lo = regField s a hi lo := by
  rw [regField, h.regs a setUp]
  rfl

end Copies

/-! ### Steps that change one part of the complex -/

theorem Copies.regPut {s t : State} (h : Copies s t) {o : Nat} (shown : ¬isSetUpReg o) (v : Nat) : Copies s (regPut t o v) where
  only := h.only
  regs x setUp := (regGet_regPut_ne t v fun same => shown (by rw [← same]; exact setUp)).trans (h.regs x setUp)

theorem Copies.regSet {s t : State} (h : Copies s t) {o : Nat} (shown : ¬isSetUpReg o) (hi lo v : Nat) : Copies s (regSet t o hi lo v) :=
  h.regPut shown _

theorem Copies.ride {s t : State} (h : Copies s t) (r : Ride) : Copies s { t with ride := r } := ⟨h.only, h.regs⟩
theorem Copies.xlt {s t : State} (h : Copies s t) (x : Xlt) : Copies s { t with xlt := x } := ⟨h.only, h.regs⟩
theorem Copies.bias {s t : State} (h : Copies s t) (b : List Nat) : Copies s { t with tiers := { t.tiers with bias := b } } := ⟨h.only, h.regs⟩
theorem Copies.reads {s t : State} (h : Copies s t) (pa n : Nat) : Copies s (readNotes t pa n) := h.trans (.of_sends (readNotes_sent t pa n))

theorem acceptPorts_copies (s : State) : Copies s (acceptPorts s) := by
  refine List.foldlRecOn (motive := fun t => Copies s t) _ _ (.refl s) fun t copies i _ => ?_
  split
  · exact copies.ride _
  · split
    · exact copies.ride _
    · exact copies

theorem copyLandings_copies (s : State) : Copies s (copyLandings s) := by
  have noted : Copies s (if landCount s = 0 then s else readNotes s (regField s 0x8C000 45 12 * 4096) (32 * landCount s)) := by
    split
    · exact .refl s
    · exact (Copies.refl s).reads _ _
  have shown : ¬isSetUpReg 0x8C018 := by unfold isSetUpReg; omega
  unfold copyLandings
  dsimp only
  exact (((noted.regSet shown _ _ _).regSet shown _ _ _).ride _)

theorem latchRoots_copies (s : State) : Copies s (latchRoots s) := by
  unfold latchRoots
  dsimp only
  refine Copies.xlt ?_ _
  refine List.foldlRecOn (motive := fun t => Copies s t) _ _ ((Copies.refl s).xlt _) fun t copies n listed => ?_
  have low := List.mem_range.mp listed
  split
  · exact ((copies.reads _ _).xlt _).regPut (by unfold isSetUpReg; omega) _
  · exact copies

theorem readBias_copies {s : State} (calm : uncached s) : Copies s (readBias s) := by
  unfold readBias
  dsimp only
  refine List.foldlRecOn (motive := fun t => Copies s t) _ _ ((Copies.refl s).bias _) fun t copies i _ => ?_
  rw [if_neg (by rw [paRead_clean (copies.calm calm)]; decide)]
  exact (copies.reads _ _).bias _

/-! ### The queue table (R318) -/

/-- What the queue table holds rests on its register and on memory. -/
theorem enabledEntries_congr {s t : State} (calm : uncached s) (coh : t.coh = s.coh) (table : regGet t 0x30008 = regGet s 0x30008)
    (memory : ∀ line, memRead t 0 line = memRead s 0 line) : enabledEntries t = enabledEntries s := by
  have fuel : ∀ f pa n, cohGet t 0 pa f n = cohGet s 0 pa f n := by
    intro f
    induction f with
    | zero => intro _ _; rfl
    | succ f ih =>
      intro pa n
      simp only [cohGet, ih, cohReadCur_uncached _ _ _ calm.1, cohReadCur_uncached _ _ _ (coh.trans calm.1), memory]
  have read : ∀ hpa n, floorRead t hpa n = floorRead s hpa n := fun hpa n => fuel _ _ _
  simp only [enabledEntries, tableEntries, regField, table, read]

/-- The bias table and the window are no part of what memory holds. -/
theorem memRead_biasWindow {s t : State} {b : List Nat} {base sel : Nat}
    (only : { t.tiers with bias := b, winBase := base, winSel := sel } = { s.tiers with bias := b, winBase := base, winSel := sel }) (line : Nat) :
    memRead t 0 line = memRead s 0 line := by
  have bytes : t.tiers.bytes = s.tiers.bytes := (congrArg Tiers.bytes only :)
  have poison : t.tiers.poison = s.tiers.poison := (congrArg Tiers.poison only :)
  have enc : t.tiers.enc = s.tiers.enc := (congrArg Tiers.enc only :)
  have reached : ∀ p, owReached t.tiers p = owReached s.tiers p := fun p => (congrArg (fun x => owReached x p) only :)
  simp only [memRead, rawLine, selEmpty, pairOf, bytes, poison, enc, reached, if_true, bne_self_eq_false, Bool.false_and]

/-- With no entry enabled no queue is in use (R318, R321). -/
theorem copyQueues_none {s : State} (none_ : enabledEntries s = []) : copyQueues s = { s with qsu := { s.qsu with
    queues := [], launches := [], clears := [], period := [], evT := 0, evP := 0, evOn := true } } := by
  simp only [copyQueues, none_, List.foldl_nil]

/-! ### The watch set (R273, R274) -/

theorem send_coh (s : State) (m : Msg) : ∃ c, send s m = { s with coh := c } := by
  unfold send
  split
  · exact ⟨_, rfl⟩
  · exact ⟨_, rfl⟩

theorem request_coh (s : State) (slice line : Nat) (k : MK) (cls sel : Nat) (store : Bool) : ∃ c, request s slice line k cls sel store = { s with coh := c } := by
  unfold request
  split
  · exact ⟨s.coh, rfl⟩
  · obtain ⟨c, sent⟩ := send_coh { s with coh := { s.coh with mshr := s.coh.mshr ++ [⟨slice, line, k, cls, 0, false, sel, store⟩] } }
      { msg0 k line slice 100 with sel := sel }
    exact ⟨c, sent⟩

/-- The ways of the old watch set are released. -/
def watchReleased (s : State) : State :=
  let s := s.coh.watch.foldl (fun s w =>
    match l2tagged s w.slice w.line with
    | some x => let v := l2get s w.slice w.line x; l2put s w.slice w.line x (if v.st = 0 then l2way0 else { v with pinned := false })
    | none => s) { s with coh := { s.coh with l2 := s.coh.l2 } }
  { s with coh := { s.coh with watch := [] } }

/-- One line is placed in its slice's set, pinned, and asked for. -/
def watchLine (s : State) (line : Nat) : State :=
  let g := line % 48
  if groveFenced s g then s
  else
    let s := flushLines s (fun l _ => l == line)
    match firstBelow 16 (fun w => (wayMask s 3).testBit w && !(l2get s g line w).pinned) with
    | none => s
    | some w =>
      let s := l2put (evict s g line w) g line w { l2way0 with tag := line / 4096, pinned := true }
      let s := { s with coh := { s.coh with watch := s.coh.watch ++ [⟨line, g, w, false, false⟩] } }
      request s g line .rdS 3 0 false

theorem placeWatch_eq (s : State) : placeWatch s = (watchLines (watchReleased s)).foldl watchLine (watchReleased s) := rfl

theorem watchReleased_uncached {s : State} (none_ : s.coh = coh0) : watchReleased s = s := by
  cases s
  dsimp only at none_
  subst none_
  rfl

theorem evict_uncached {s : State} (none_ : s.coh = coh0) (slice line way : Nat) : evict s slice line way = s := by
  simp [evict, l2get, none_, coh0, tabGet, l2way0]

theorem watchLine_coh {s : State} (none_ : s.coh = coh0) (line : Nat) : ∃ c, watchLine s line = { s with coh := c } := by
  have kept : flushLines s (fun l _ => l == line) = s := by simp [flushLines, none_, coh0]
  unfold watchLine
  dsimp only
  rw [kept]
  split
  · exact ⟨s.coh, rfl⟩
  · split
    · exact ⟨s.coh, rfl⟩
    · rw [evict_uncached none_]
      obtain ⟨c, asked⟩ := request_coh _ (line % 48) line .rdS 3 0 false
      exact ⟨c, asked⟩

/-- With no queue in use and nothing cached, the one watched line is asked for, and nothing beside the caches changes. -/
theorem placeWatch_coh {s : State} (none_ : s.coh = coh0) (queueless : enabledEntries s = []) : ∃ c, placeWatch s = { s with coh := c } := by
  have only : watchLines s = [floorPA (regField s 0x40020 42 6 * 64) / 64] := by simp [watchLines, queueless, dedup]
  rw [placeWatch_eq, watchReleased_uncached none_, only]
  exact watchLine_coh none_ _

/-! ### Power, security version and the pair (R381, R405, R483, R503) -/

/-- The registers that say in which mode the complex is, what its check found, and where its window lies. -/
def isModeReg (a : Nat) : Prop := a = 0x20000 ∨ a = 0x20008 ∨ a = 0x20010 ∨ a = 0x50010

theorem isModeReg.setUp {a : Nat} (h : isModeReg a) : isSetUpReg a := by
  unfold isSetUpReg
  rcases h with rfl | rfl | rfl | rfl <;> omega

/-- A change of registers other than those. -/
structure ModeKept (s t : State) : Prop where
  only : { t with regs := s.regs } = s
  regs : ∀ a, isModeReg a → regGet t a = regGet s a

theorem ModeKept.put {s t : State} (h : ModeKept s t) {o : Nat} (high : 0x70000 ≤ o) (v : Nat) : ModeKept s (regPut t o v) where
  only := h.only
  regs a isMode := by
    have low : a < 0x70000 := by rcases isMode with rfl | rfl | rfl | rfl <;> omega
    rw [regGet_regPut_ne _ _ (by omega), h.regs a isMode]

/-- What an accepted enable shows of its draw: the LINK allotment, and K = 1. -/
def drawShown (s : State) : State := regSet (regSet s 0x70018 12 0 (linkDraw s)) 0x70048 47 32 4096
/-- The compartments' energies count from zero. -/
def compEnergyZero (s : State) : State := (List.range 48).foldl (fun s k => regPut s (0x71000 + 8 * k) 0) s
/-- The queues' energies count from zero. -/
def queueEnergyZero (s : State) : State :=
  (s.regs.filter (fun p => decide (0x72000 ≤ p.1) && decide (p.1 < 0x74000))).foldl (fun s p => regPut s p.1 0) s

theorem drawShown_kept {s t : State} (h : ModeKept s t) : ModeKept s (drawShown t) :=
  (h.put (by decide) _).put (by decide) _

theorem compEnergyZero_kept {s t : State} (h : ModeKept s t) : ModeKept s (compEnergyZero t) :=
  List.foldlRecOn (motive := fun u => ModeKept s u) _ _ h fun _ kept k _ => kept.put (by omega) 0

theorem queueEnergyZero_kept {s t : State} (h : ModeKept s t) : ModeKept s (queueEnergyZero t) := by
  refine List.foldlRecOn (motive := fun u => ModeKept s u) _ _ h fun _ kept p listed => kept.put ?_ 0
  have high := (List.mem_filter.mp listed).2
  simp only [Bool.and_eq_true, decide_eq_true_eq] at high
  omega

theorem acceptPower_eq (s : State) : acceptPower s = { queueEnergyZero (compEnergyZero (drawShown s)) with
    pwr := { (queueEnergyZero (compEnergyZero (drawShown s))).pwr with energy := 0, taken := 0, sumM := 0, sumL := 0, sumD := 0, spoil := true } } := by
  unfold acceptPower queueEnergyZero compEnergyZero drawShown
  dsimp only

/-- What power takes at an accepted enable: registers that say nothing of the mode, and the draw's own state. -/
theorem acceptPower_kept (s : State) : ∃ u p, ModeKept s u ∧ acceptPower s = { u with pwr := p } :=
  ⟨_, _, queueEnergyZero_kept (compEnergyZero_kept (drawShown_kept ⟨rfl, fun _ _ => rfl⟩)), acceptPower_eq s⟩

theorem raiseSvn_life (s : State) : ∃ l, raiseSvn s = { s with life := l } := by
  unfold raiseSvn
  split
  · exact ⟨_, rfl⟩
  · exact ⟨s.life, rfl⟩

/-! ### The window behind an event -/

/-- Where the window lies. -/
def windowOf (s : State) : Nat × Nat := (s.tiers.winBase, s.tiers.winSel)

theorem windowOf_regSet (s : State) (o hi lo v : Nat) : windowOf (regSet s o hi lo v) = windowOf s := rfl

theorem windowOf_memWrite (s : State) (sel line mask : Nat) (data : List Byte) (poison : Bool) :
    windowOf (memWrite s sel line mask data poison) = windowOf s := by
  have armed := injTaken_bytes s line
  unfold memWrite
  split
  · rfl
  · split
    · rfl
    · unfold memStore windowOf
      dsimp only
      rw [armed]

theorem windowOf_cohWrite (s : State) (sel line mask : Nat) (data : List Byte) (poison : Bool) :
    windowOf (cohWrite s sel line mask data poison) = windowOf s := by
  have noted : windowOf (writeNote s line mask) = windowOf s := by
    obtain ⟨-, tiers, -⟩ := writeNote_sent s line mask
    rw [windowOf, tiers]
    rfl
  have dropped : windowOf (dropAll (writeNote s line mask) line) = windowOf s := by
    rw [windowOf, dropAll_tiers]
    exact noted
  have stored : ∀ (t : State) (o : Option Own), windowOf (writeOver t o sel line mask data poison) = windowOf t := by
    intro t o
    unfold writeOver
    split
    · split
      · exact windowOf_memWrite ..
      · refine (windowOf_memWrite ..).trans ?_
        split
        · exact windowOf_memWrite ..
        · rfl
    · exact windowOf_memWrite ..
  unfold cohWrite cohWriteCore
  dsimp only
  rw [stored]
  generalize dropAll (writeNote s line mask) line = u at dropped ⊢
  split
  · exact dropped
  · exact dropped

theorem windowOf_cohPut (s : State) (sel pa f : Nat) (l : List Byte) : windowOf (cohPut s sel pa f l) = windowOf s := by
  induction f generalizing s pa l with
  | zero => rfl
  | succ f ih =>
    simp only [cohPut]
    split
    · rfl
    · rw [ih, cohPutLine]
      exact windowOf_cohWrite ..

theorem windowOf_sendMsix (s : State) (v : Nat) : windowOf (sendMsix s v) = windowOf s := by
  have only := sendMsix_host s v
  exact (congrArg windowOf only :)

/-- What follows an event's record leaves the window. -/
theorem windowOf_recorded (z : State) (n : Nat) (full : Bool) :
    windowOf (let s := regSet { z with qsu := { z.qsu with evT := n } } 0x30020 32 32 1; if full then regSet s 0x30020 33 33 1 else s) = windowOf z := by
  dsimp only
  cases full
  · rw [if_neg (by decide), windowOf_regSet]
    rfl
  · rw [if_pos rfl, windowOf_regSet, windowOf_regSet]
    rfl

theorem windowOf_writeEvent (s : State) (code a0 a1 a2 : Nat) : windowOf (writeEvent s code a0 a1 a2) = windowOf s := by
  have put : ∀ hpa l, windowOf (floorWrite s hpa l) = windowOf s := fun hpa l => windowOf_cohPut s 0 _ _ l
  unfold writeEvent writeEventQ
  dsimp only
  split
  · rfl
  · split
    · rw [regCount, windowOf_regSet]
    · rw [windowOf_sendMsix]
      generalize words _ = l
      generalize regField s 0x30010 42 6 * 64 + _ = hpa
      have kept := put hpa l
      generalize floorWrite s hpa l = z at kept ⊢
      split
      · exact (windowOf_recorded z _ true).trans kept
      · exact (windowOf_recorded z _ false).trans kept

end Sys2Proof.Machine
end


section
/-! PROOFS. Enable (R506, R507): the whole of an accepted enable. -/

namespace Sys2Proof.Machine

/-- The registers of an accepted enable: no reason, the check over, ENABLE, and MODE RUN. -/
def entered (s : State) : State :=
  regSet (regSet (regSet (regPut s 0x20010 (noUnit * 2 ^ 16)) 0x20008 2 2 0) 0x20000 0 0 1) 0x20008 18 16 3

theorem regSet_lessRegs (s : State) (o hi lo v : Nat) (r : Tab W64) : { regSet s o hi lo v with regs := r } = { s with regs := r } := rfl

theorem entered_only (s : State) : { entered s with regs := s.regs } = s := by
  rw [entered, regSet_lessRegs, regSet_lessRegs, regSet_lessRegs]
  rfl

theorem regGet_entered (s : State) {a : Nat} (one : a ≠ 0x20010) (two : a ≠ 0x20008) (three : a ≠ 0x20000) : regGet (entered s) a = regGet s a := by
  rw [entered, regGet_regSet_ne _ _ _ _ two, regGet_regSet_ne _ _ _ _ three, regGet_regSet_ne _ _ _ _ two, regGet_regPut_ne _ _ one]

theorem entered_shows (s : State) : mode (entered s) = 3 ∧ regField (entered s) 0x20008 2 2 = 0 ∧ regField (entered s) 0x20000 0 0 = 1 ∧
    regGet (entered s) 0x20010 = 0xFFFF * 2 ^ 16 := by
  unfold entered mode
  refine ⟨?_, ?_, ?_, ?_⟩
  · exact regField_regSet_same _ _ _ _ _ (by decide)
  · rw [regField_regSet_bits _ _ _ _ _ _ _ (by decide) (by decide) (by decide), regField_regSet_ne _ _ _ _ _ _ (by decide),
      regField_regSet_same _ _ _ _ _ (by decide)]
    decide
  · rw [regField_regSet_ne _ _ _ _ _ _ (by decide), regField_regSet_same _ _ _ _ _ (by decide)]
    decide
  · rw [regGet_regSet_ne _ _ _ _ (by decide), regGet_regSet_ne _ _ _ _ (by decide), regGet_regSet_ne _ _ _ _ (by decide), regGet_regPut_same]
    decide

theorem sameFences_entered (s : State) : sameFences s (entered s) := by
  have life : (entered s).life = s.life := (congrArg State.life (entered_only s) :)
  refine ⟨fun c => ?_, by rw [life], by rw [life]⟩
  rw [fenceAsked, fenceAsked, life, regField, regGet_entered s (by omega) (by omega) (by omega)]
  rfl

/-- What core `c` is in an accepted enable, up to its logical index. -/
def servesAs (s : State) (c : Nat) (k : Core) : Prop := ∃ j, k = { acceptCore s (groveOf c) c (coreGet s c) with logical := j }

/-- What stands while an accepted enable copies its tables. -/
structure Underway (s t : State) : Prop where
  errs : t.errs = s.errs
  pending : t.pending = s.pending
  cores : ∀ c, c < 2400 → servesAs s c (coreGet t c)
  regs : ∀ a, isSetUpReg a → regGet t a = regGet (entered s) a
  calm : uncached t
  memory : ∀ line, memRead t 0 line = memRead s 0 line

theorem Underway.of_fences {s e t : State} (calm : uncached s) (before : { e with regs := s.regs } = s) (fences : sameFences s e)
    (shown : ∀ a, regGet e a = regGet (entered s) a) (put : FencesPut e t) : Underway s t := by
  obtain ⟨only, regs, cores⟩ := put
  have tiers : t.tiers = s.tiers := (congrArg State.tiers only :).trans (congrArg State.tiers before :)
  have coh : t.coh = s.coh := (congrArg State.coh only :).trans (congrArg State.coh before :)
  refine ⟨(congrArg State.errs only :).trans (congrArg State.errs before :),
    (congrArg State.pending only :).trans (congrArg State.pending before :), fun c below => ?_, fun a setUp => (regs a ?_).trans (shown a),
    ⟨coh.trans calm.1, by rw [tiers]; exact calm.2⟩, fun line => memRead_congr tiers 0 line⟩
  · obtain ⟨j, core⟩ := cores c below
    have same : coreGet e c = coreGet s c := (congrArg (fun x : State => coreGet x c) before :)
    rw [acceptCore_congr fences, same] at core
    exact ⟨j, core⟩
  · unfold isRecordReg
    rcases setUp with low | rfl <;> omega

namespace Underway
variable {s t : State} (h : Underway s t)
include h

theorem copies {u : State} (copies : Copies t u) : Underway s u where
  errs := (congrArg State.errs copies.only :).trans h.errs
  pending := (congrArg State.pending copies.only :).trans h.pending
  cores c below := by
    have same : coreGet u c = coreGet t c := (congrArg (fun x : State => coreGet x c) copies.only :)
    rw [same]
    exact h.cores c below
  regs a setUp := (copies.regs a setUp).trans (h.regs a setUp)
  calm := copies.calm h.calm
  memory line := by
    have only : { u.tiers with bias := t.tiers.bias, winBase := t.tiers.winBase, winSel := t.tiers.winSel } =
        { t.tiers with bias := t.tiers.bias, winBase := t.tiers.winBase, winSel := t.tiers.winSel } :=
      (congrArg (fun x : Tiers => { x with winBase := t.tiers.winBase, winSel := t.tiers.winSel }) copies.tiers :)
    exact (memRead_biasWindow only line).trans (h.memory line)

theorem qsu (q : Qsu) : Underway s { t with qsu := q } := ⟨h.errs, h.pending, h.cores, h.regs, h.calm, h.memory⟩

theorem window (base sel : Nat) : Underway s (windowAt t base sel) := ⟨h.errs, h.pending, h.cores, h.regs, h.calm, h.memory⟩

theorem entries (calm : uncached s) : enabledEntries t = enabledEntries s := by
  refine enabledEntries_congr calm (h.calm.1.trans calm.1.symm) ?_ h.memory
  rw [h.regs 0x30008 (.inl (by decide)), regGet_entered s (by decide) (by decide) (by decide)]

end Underway

/-! ### The copies, then the watch set -/

/-- The tables of an accepted enable, copied (R507). -/
def tablesCopied (s : State) : State :=
  readBias (latchRoots (copyLandings (copyQueues (acceptPorts (acceptFences (entered s))))))

/-- With no queue in use, the copies leave every queue out. -/
theorem tablesCopied_underway {s : State} (calm : uncached s) (queueless : enabledEntries s = []) :
    Underway s (tablesCopied s) ∧ (tablesCopied s).qsu.queues = [] ∧ (tablesCopied s).qsu.period = [] := by
  have ports : Underway s (acceptPorts (acceptFences (entered s))) :=
    (Underway.of_fences calm (entered_only s) (sameFences_entered s) (fun _ => rfl) (acceptFences_put (entered s))).copies (acceptPorts_copies _)
  unfold tablesCopied
  generalize acceptPorts (acceptFences (entered s)) = p at ports ⊢
  rw [copyQueues_none ((ports.entries calm).trans queueless)]
  have off := ports.qsu { p.qsu with queues := [], launches := [], clears := [], period := [], evT := 0, evP := 0, evOn := true }
  obtain ⟨q, empty⟩ : ∃ q : State, q = { p with qsu := { p.qsu with
    queues := [], launches := [], clears := [], period := [], evT := 0, evP := 0, evOn := true } } := ⟨_, rfl⟩
  have queues : q.qsu.queues = [] := by rw [empty]
  have period : q.qsu.period = [] := by rw [empty]
  rw [← empty] at off ⊢
  have roots := (copyLandings_copies q).trans (latchRoots_copies (copyLandings q))
  have copies := roots.trans (readBias_copies (roots.calm off.calm))
  exact ⟨off.copies copies, (congrArg Qsu.queues copies.qsu).trans queues, (congrArg Qsu.period copies.qsu).trans period⟩

/-- The complex with its window latched and its watch set placed. -/
def watchPlaced (s : State) : State :=
  placeWatch (windowAt (tablesCopied s) (regField (tablesCopied s) 0x50010 45 30) (regField (tablesCopied s) 0x50010 63 58))

/-- What stands when an accepted enable has no more than its events to write. -/
structure Ready (s t : State) : Prop where
  errs : t.errs = s.errs
  pending : t.pending = s.pending
  cores : ∀ c, c < 2400 → ∃ k, servesAs s c k ∧ lessL1 (coreGet t c) = lessL1 k
  regs : ∀ a, isModeReg a → regGet t a = regGet (entered s) a
  queues : t.qsu.queues = []
  period : t.qsu.period = []
  window : windowOf t = (regField s 0x50010 45 30, regField s 0x50010 63 58)

namespace Ready
variable {s t : State} (h : Ready s t)
include h

theorem coh (c : Coh) : Ready s { t with coh := c } := ⟨h.errs, h.pending, h.cores, h.regs, h.queues, h.period, h.window⟩
theorem life (l : Life) : Ready s { t with life := l } := ⟨h.errs, h.pending, h.cores, h.regs, h.queues, h.period, h.window⟩
theorem pwr (p : Pwr) : Ready s { t with pwr := p } := ⟨h.errs, h.pending, h.cores, h.regs, h.queues, h.period, h.window⟩
theorem prf (p : Prf) : Ready s { t with prf := p } := ⟨h.errs, h.pending, h.cores, h.regs, h.queues, h.period, h.window⟩
theorem flt (f : Flt) : Ready s { t with flt := f } := ⟨h.errs, h.pending, h.cores, h.regs, h.queues, h.period, h.window⟩
theorem topoGen (g : Nat) : Ready s { t with qsu := { t.qsu with topoGen := g } } :=
  ⟨h.errs, h.pending, h.cores, h.regs, h.queues, h.period, h.window⟩

theorem kept {u : State} (kept : ModeKept t u) : Ready s u where
  errs := (congrArg State.errs kept.only :).trans h.errs
  pending := (congrArg State.pending kept.only :).trans h.pending
  cores c below := by
    have same : coreGet u c = coreGet t c := (congrArg (fun x : State => coreGet x c) kept.only :)
    rw [same]
    exact h.cores c below
  regs a isMode := (kept.regs a isMode).trans (h.regs a isMode)
  queues := (congrArg (fun x : State => x.qsu.queues) kept.only :).trans h.queues
  period := (congrArg (fun x : State => x.qsu.period) kept.only :).trans h.period
  window := (congrArg windowOf kept.only :).trans h.window

theorem event (code a0 a1 a2 : Nat) : Ready s (writeEvent t code a0 a1 a2) where
  errs := (writeEvent_leaves t code a0 a1 a2).errs.trans h.errs
  pending := (writeEvent_leaves t code a0 a1 a2).pending.trans h.pending
  cores c below := by
    rw [(writeEvent_leaves t code a0 a1 a2).cores c]
    exact h.cores c below
  regs a isMode := by
    refine ((writeEvent_leaves t code a0 a1 a2).regs a ?_ ?_).trans (h.regs a isMode) <;> rcases isMode with rfl | rfl | rfl | rfl <;> decide
  queues := (congrArg (fun x : State => x.qsu.queues) (writeEvent_leaves t code a0 a1 a2).rest :).trans h.queues
  period := (congrArg (fun x : State => x.qsu.period) (writeEvent_leaves t code a0 a1 a2).rest :).trans h.period
  window := (windowOf_writeEvent t code a0 a1 a2).trans h.window

end Ready

theorem Ready.of_underway {s t : State} (h : Underway s t) (queues : t.qsu.queues = []) (period : t.qsu.period = []) :
    Ready s (windowAt t (regField t 0x50010 45 30) (regField t 0x50010 63 58)) where
  errs := h.errs
  pending := h.pending
  cores c below := ⟨_, h.cores c below, rfl⟩
  regs a isMode := h.regs a isMode.setUp
  queues := queues
  period := period
  window := by
    have place : regGet t 0x50010 = regGet s 0x50010 :=
      (h.regs 0x50010 (.inr rfl)).trans (regGet_entered s (by decide) (by decide) (by decide))
    rw [regField, regField, place]
    rfl

theorem watchPlaced_ready {s : State} (calm : uncached s) (queueless : enabledEntries s = []) : Ready s (watchPlaced s) := by
  obtain ⟨underway, queues, period⟩ := tablesCopied_underway calm queueless
  unfold watchPlaced
  generalize tablesCopied s = t at underway queues period ⊢
  have latched := underway.window (regField t 0x50010 45 30) (regField t 0x50010 63 58)
  obtain ⟨c, placed⟩ := placeWatch_coh latched.calm.1 ((latched.entries calm).trans queueless)
  rw [placed]
  exact (Ready.of_underway underway queues period).coh c

/-- What an accepted enable does last: it arms the sensors' protection, opens every compartment to a proof, and writes its events. -/
def acceptOpens (z : State) : State :=
  let s := { z with flt := { z.flt with armed := true }, prf := { z.prf with atClear := List.range 48 } }
  let s := acceptPair (topoChange s)
  (s.qsu.queues.map (·.1)).foldl queueWake s

theorem accept_eq (s : State) : accept s = acceptOpens (acceptPower (raiseSvn (watchPlaced s))) := by
  unfold accept acceptOpens watchPlaced tablesCopied entered windowAt
  rfl

/-- Every compartment is at a clearing, and the sensors protect. -/
def isOpened (t : State) : Prop := t.prf.atClear = List.range 48 ∧ t.flt.armed = true

theorem isOpened.event {t : State} (h : isOpened t) (code a0 a1 a2 : Nat) : isOpened (writeEvent t code a0 a1 a2) := by
  have rest := (writeEvent_leaves t code a0 a1 a2).rest
  exact ⟨(congrArg (fun x : State => x.prf.atClear) rest :).trans h.1, (congrArg (fun x : State => x.flt.armed) rest :).trans h.2⟩

theorem topoChange_ready {s t : State} (h : Ready s t) (o : isOpened t) : Ready s (topoChange t) ∧ isOpened (topoChange t) :=
  ⟨(h.topoGen _).event _ _ _ _, isOpened.event (t := { t with qsu := { t.qsu with topoGen := (t.qsu.topoGen + 2) % 2 ^ 64 } }) o _ _ _ _⟩

theorem acceptPair_ready {s t : State} (h : Ready s t) (o : isOpened t) : Ready s (acceptPair t) ∧ isOpened (acceptPair t) := by
  unfold acceptPair
  split
  · exact ⟨(h.prf _).event _ _ _ _, isOpened.event (t := { t with prf := { t.prf with pair := pairFormed t, lost := false } }) o _ _ _ _⟩
  · exact ⟨h.prf _, o⟩

theorem acceptOpens_ready {s t : State} (h : Ready s t) : Ready s (acceptOpens t) ∧ isOpened (acceptOpens t) := by
  have start := (h.flt { t.flt with armed := true }).prf { t.prf with atClear := List.range 48 }
  obtain ⟨u, armed⟩ : ∃ u : State, u = { t with flt := { t.flt with armed := true }, prf := { t.prf with atClear := List.range 48 } } := ⟨_, rfl⟩
  have opens : isOpened u := by rw [armed]; exact ⟨rfl, rfl⟩
  unfold acceptOpens
  dsimp only
  rw [← armed] at start ⊢
  obtain ⟨changed, still⟩ := topoChange_ready start opens
  obtain ⟨paired, last⟩ := acceptPair_ready changed still
  rw [paired.queues]
  exact ⟨paired, last⟩

/-- An accepted enable, with no queue in use and nothing cached. -/
theorem accept_ready {s : State} (calm : uncached s) (queueless : enabledEntries s = []) : Ready s (accept s) ∧ isOpened (accept s) := by
  have watched := watchPlaced_ready calm queueless
  obtain ⟨l, raised⟩ := raiseSvn_life (watchPlaced s)
  obtain ⟨u, p, kept, powered⟩ := acceptPower_kept (raiseSvn (watchPlaced s))
  have counted : Ready s (raiseSvn (watchPlaced s)) := by
    rw [raised]
    exact watched.life l
  rw [accept_eq, powered]
  exact acceptOpens_ready ((counted.kept kept).pwr p)

end Sys2Proof.Machine
end


section
/-! PROOFS. Enable and disable (R506, R507, R509, R515): the commands' effects, case by case. -/

namespace Sys2Proof.Machine

variable {s : State}

/-! ### The check starts, and ends -/

theorem exec_idle {f : State → State} (live : Live s) (idle : f s = s) : runLive s f = .next s := runLive_next s s f live idle rfl rfl

theorem enableStart_idle (h : 3 ≤ mode s ∨ regField s 0x20008 2 2 = 1 ∨ s.life.released = false) : enableStart s = s := if_pos h

theorem enableStart_starts (low : mode s < 3) (rests : regField s 0x20008 2 2 = 0) (released : s.life.released = true) :
    enableStart s = { regSet s 0x20008 2 2 1 with prf := { s.prf with beat := false } } := by
  unfold enableStart
  rw [if_neg]
  rintro (high | under | held)
  · omega
  · omega
  · rw [released] at held
    cases held

theorem enableDone_idle (h : regField s 0x20008 2 2 = 0 ∨ s.host.hold = true) : enableDone s = s := if_pos h

section Check
variable (under : regField s 0x20008 2 2 = 1) (serves : s.host.hold = false)
include under serves

theorem check_ends : ¬(regField s 0x20008 2 2 = 0 ∨ s.host.hold = true) := by simp [under, serves]

theorem enableDone_refuses {v : Nat × Nat} (verdict : checkVerdict s = some v) : enableDone s = refused s v := by
  simp only [enableDone, check_ends under serves, if_false, verdict]

theorem enableDone_accepts (verdict : checkVerdict s = none) : enableDone s = accept s := by
  simp only [enableDone, check_ends under serves, if_false, verdict]

end Check

/-! ### A refusal (R506) -/

/-- A refusal clears the check and ENABLE, and leaves all but the three registers it shows itself in. -/
theorem refused_shows (s : State) {code unit : Nat} (fits : code < 2 ^ 16) (named : unit < 2 ^ 16) :
    regField (refused s (code, unit)) 0x20008 2 2 = 0 ∧ mode (refused s (code, unit)) = mode s ∧
    regField (refused s (code, unit)) 0x20000 0 0 = 0 ∧ regGet (refused s (code, unit)) 0x20010 = unit * 2 ^ 16 + code := by
  have shown : ∀ {a : Nat} (u : State) (v hi lo : Nat), a ≠ 0x20010 → regField (regPut u 0x20010 v) a hi lo = regField u a hi lo := by
    intro a u v hi lo other
    rw [regField, regGet_regPut_ne u v other]
    rfl
  unfold refused mode
  refine ⟨?_, ?_, ?_, ?_⟩
  · rw [shown _ _ _ _ (by decide), regField_regSet_ne _ _ _ _ _ _ (by decide), regField_regSet_same _ _ _ _ _ (by decide)]
    exact Nat.zero_mod _
  · rw [shown _ _ _ _ (by decide), regField_regSet_ne _ _ _ _ _ _ (by decide),
      regField_regSet_bits _ _ _ _ _ _ _ (by decide) (by decide) (by decide)]
  · rw [shown _ _ _ _ (by decide), regField_regSet_same _ _ _ _ _ (by decide)]
    exact Nat.zero_mod _
  · rw [regGet_regPut_same]
    exact Nat.mod_eq_of_lt (by omega)

theorem regGet_refused (s : State) (v : Nat × Nat) {a : Nat} (one : a ≠ 0x20000) (two : a ≠ 0x20008) (three : a ≠ 0x20010) :
    regGet (refused s v) a = regGet s a := by
  rw [refused, regGet_regPut_ne _ _ three, regGet_regSet_ne _ _ _ _ one, regGet_regSet_ne _ _ _ _ two]

theorem regPut_lessRegs (s : State) (o v : Nat) (r : Tab W64) : { regPut s o v with regs := r } = { s with regs := r } := rfl

theorem refused_lessRegs (s : State) (v : Nat × Nat) : { refused s v with regs := s.regs } = s := by
  rw [refused, regPut_lessRegs, regSet_lessRegs, regSet_lessRegs]

/-! ### The check's first refusals (R506) -/

theorem checkVerdict_state (h : s.life.lc = 0 ∨ s.life.lc = 3 ∨ mode s = 2) : checkVerdict s = some (0x13, 0xFFFF) := by
  have first : (s.life.lc == 0 || s.life.lc == 3 || mode s == 2) = true := by
    rcases h with h | h | h <;> simp [h]
  unfold checkVerdict
  rw [first]
  rfl

section Open
variable (blank : s.life.lc ≠ 0) (ended : s.life.lc ≠ 3) (tests : mode s ≠ 2)
include blank ended tests

theorem checkVerdict_unwiped (unwiped : s.tiers.wCanopy = false) : checkVerdict s = some (0x14, 0xFFFF) := by
  have first : (s.life.lc == 0 || s.life.lc == 3 || mode s == 2) = false := by simp [blank, ended, tests]
  unfold checkVerdict
  rw [first, unwiped, Bool.and_false]
  rfl

theorem checkVerdict_unloaded (plates : s.tiers.wPlates = true) (caches : s.tiers.wCaches = true) (erased : s.tiers.wErased = true)
    (canopy : s.tiers.wCanopy = true) (firmware : fwState s ≠ 2) : checkVerdict s = some (0x01, 0xFFFF) := by
  have first : (s.life.lc == 0 || s.life.lc == 3 || mode s == 2) = false := by simp [blank, ended, tests]
  have third : (regField s 0x20020 3 0 != 2) = true := bne_iff_ne.mpr firmware
  unfold checkVerdict
  rw [first, plates, caches, erased, canopy, third]
  rfl

end Open

/-! ### An acceptance (R507) -/

/-- What an acceptance shows once all of it has been done. -/
theorem Ready.shows {t : State} (h : Ready s t) : mode t = 3 ∧ regField t 0x20008 2 2 = 0 ∧ regField t 0x20000 0 0 = 1 ∧
    regGet t 0x20010 = 0xFFFF * 2 ^ 16 := by
  obtain ⟨mode_, check, enable, reason⟩ := entered_shows s
  have same : ∀ {a : Nat} (hi lo : Nat), isModeReg a → regField t a hi lo = regField (entered s) a hi lo := by
    intro a hi lo isMode
    rw [regField, h.regs a isMode]
    rfl
  exact ⟨(same _ _ (.inr (.inl rfl))).trans mode_, (same _ _ (.inr (.inl rfl))).trans check, (same _ _ (.inl rfl)).trans enable,
    (h.regs _ (.inr (.inr (.inl rfl)))).trans reason⟩

theorem Ready.core {t : State} (h : Ready s t) {c : Nat} (below_ : c < 2400) :
    (coreGet t c).st = (if fenceAsked s c then .fenced else if (nextServing s (groveOf c)).contains c then .idle else .unused) ∧
    (coreGet t c).fenced = fenceAsked s c ∧ (coreGet t c).a.stip = [] ∧ (coreGet t c).a.tags = [] ∧
    (coreGet t c).a.plate = (coreGet s c).a.plate := by
  obtain ⟨k, ⟨j, made⟩, same⟩ := h.cores c below_
  have state : (coreGet t c).st = k.st := (congrArg Core.st same :)
  have fence : (coreGet t c).fenced = k.fenced := (congrArg Core.fenced same :)
  have arch : (coreGet t c).a = k.a := (congrArg Core.a same :)
  rw [state, fence, arch, made]
  exact ⟨rfl, rfl, rfl, rfl, rfl⟩

/-! ### A disable starts (R509) -/

theorem regField_regs {t : State} (regs : t.regs = s.regs) (a hi lo : Nat) : regField t a hi lo = regField s a hi lo := by
  rw [regField, regField, regGet, regGet, regs]


/-- What a disable shows when it has begun. -/
def Stops (t : State) : Prop :=
  mode t = 4 ∧ regField t 0x20000 0 0 = 0 ∧ t.qsu.clears = [⟨0, 0, true, List.range 48, 1, true⟩]

theorem disableStart_idle (off : mode s ≠ 3) : disableStart s = s := if_pos off
theorem shutdownDo_idle (off : mode s ≠ 3) : shutdownDo s = s := if_pos off

/-- The registers of a disable. -/
def leftRun (s : State) : State := regSet (regSet s 0x20008 18 16 4) 0x20000 0 0 0

/-- The complex with one clearing standing. -/
def clearingStands (s : State) (c : Clearing) : State := { s with qsu := { s.qsu with clears := [c] } }

theorem leftRun_only (s : State) : { leftRun s with regs := s.regs } = s := by
  rw [leftRun, regSet_lessRegs, regSet_lessRegs]

theorem leftRun_shows (s : State) : mode (leftRun s) = 4 ∧ regField (leftRun s) 0x20000 0 0 = 0 := by
  unfold leftRun mode
  constructor
  · rw [regField_regSet_ne _ _ _ _ _ _ (by decide), regField_regSet_same _ _ _ _ _ (by decide)]
    decide
  · rw [regField_regSet_same _ _ _ _ _ (by decide)]
    exact Nat.zero_mod _

/-- What a disable finds when its clearing may begin at once and has nothing to cut. -/
structure Unburdened (s : State) : Prop where
  rest : resting s
  streams : s.movers = []
  kernels : s.qsu.launches = []
  clears : s.qsu.clears = []
  waits : s.host.defer = []
  proof : s.prf.run = none
  commands : ∀ p ∈ s.qsu.queues, p.2.run = []

theorem Unburdened.begins (h : Unburdened s) {c : Clearing} (first : c.step = 0) :
    clearNext (clearingStands s c) c = clearTo (cutBuffers (clearingStands s c) c) c 1 := by
  obtain ⟨rest, streams, kernels, -, waits, proof, commands⟩ := h
  have open_ : clearBlocked (clearingStands s c) c = false := by
    unfold clearBlocked
    rw [show (clearingStands s c).prf.run = none from proof, show (clearingStands s c).qsu.clears = [c] from rfl]
    cases auto : c.auto <;> simp [auto]
  have begins : clearNext (clearingStands s c) c = clearBegin (clearingStands s c) c := by
    unfold clearNext
    simp only [first]
    rw [open_]
    exact if_neg (by decide)
  rw [begins]
  refine clearBegin_resting (resting_congr (s := s) rfl rfl rest) streams kernels waits fun p hp r hr => ?_
  rw [commands p hp] at hr
  cases hr

theorem disableStart_on (on : mode s = 3) (clears : (leftRun s).qsu.clears = []) :
    disableStart s = clearNext (clearingStands (leftRun s) disableClearing) disableClearing := by
  unfold disableStart
  rw [if_neg (not_not.mpr on)]
  generalize disableClearing = c
  have stands : (leftRun s).qsu.clears ++ [c] = [c] := by rw [clears]; rfl
  exact congrArg (fun l => clearNext { leftRun s with qsu := { (leftRun s).qsu with clears := l } } c) stands

/-- A clearing that finds nothing to cut has begun; beside the queues nothing has changed. -/
theorem Unburdened.stands (h : Unburdened s) {c : Clearing} (first : c.step = 0) :
    (clearNext (clearingStands s c) c).qsu.clears = [{ c with step := 1 }] ∧ { clearNext (clearingStands s c) c with qsu := s.qsu } = s := by
  have cut := cutBuffers_only (clearingStands s c) c
  rw [h.begins first]
  have sole : (cutBuffers (clearingStands s c) c).qsu.clears = [c] := (congrArg (fun x : State => x.qsu.clears) cut :)
  have beside : { cutBuffers (clearingStands s c) c with qsu := s.qsu } = s := (congrArg (fun x : State => { x with qsu := s.qsu }) cut :)
  generalize cutBuffers (clearingStands s c) c = z at sole beside ⊢
  rw [clearTo_sole sole]
  exact ⟨rfl, beside⟩

theorem Unburdened.leftRun (h : Unburdened s) : Unburdened (leftRun s) := by
  have left := leftRun_only s
  generalize Machine.leftRun s = w at left
  have qsu : w.qsu = s.qsu := (congrArg State.qsu left :)
  refine ⟨resting_congr (congrArg State.cores left :) (congrArg State.ride left :) h.rest, (congrArg State.movers left :).trans h.streams, ?_, ?_,
    (congrArg (fun x : State => x.host.defer) left :).trans h.waits, (congrArg (fun x : State => x.prf.run) left :).trans h.proof, ?_⟩
  · rw [qsu]
    exact h.kernels
  · rw [qsu]
    exact h.clears
  · rw [qsu]
    exact h.commands

/-- A disable that finds nothing to cut. -/
theorem Unburdened.disableStart_stops (h : Unburdened s) (on : mode s = 3) :
    Stops (disableStart s) ∧ { disableStart s with regs := s.regs, qsu := s.qsu } = s := by
  have burden := h.leftRun
  have left := leftRun_only s
  obtain ⟨mode_, enable⟩ := leftRun_shows s
  rw [disableStart_on on burden.clears]
  generalize Machine.leftRun s = w at burden left mode_ enable ⊢
  obtain ⟨sole, beside⟩ := burden.stands (c := disableClearing) rfl
  generalize clearNext (clearingStands w disableClearing) disableClearing = t at sole beside ⊢
  have regs : t.regs = w.regs := (congrArg State.regs beside :)
  have same := congrArg (fun x : State => { x with regs := s.regs, qsu := s.qsu }) beside
  refine ⟨⟨(regField_regs regs _ _ _).trans mode_, (regField_regs regs _ _ _).trans enable, sole⟩, same.trans ?_⟩
  exact congrArg (fun x : State => { x with qsu := s.qsu }) left

/-! ### A disable ends (R509) -/

theorem disableFinish_idle (h : ¬(mode s = 4 ∧ s.qsu.clears.any (fun c => c.auto && decide (9 ≤ c.step)) = true)) : disableFinish s = s := if_neg h

/-- A queue at the end of a disable: DISABLED, and without a command. -/
def queueEnded (k : Queue) : Queue := { k with en := false, st := .disabled, buf := [], run := [] }

theorem tabGet_queueEnded (t : Tab Queue) (q : Nat) :
    tabGet (fun _ => queue0) (t.map (fun p => (p.1, queueEnded p.2))) q = queueEnded (tabGet (fun _ => queue0) t q) := by
  induction t with
  | nil => rfl
  | cons p t ih =>
    obtain ⟨j, k⟩ := p
    rw [List.map_cons, tabGet, tabGet, ih]
    split <;> rfl

/-- The complex whose queues are DISABLED and whose clearing is over. -/
def queuesEnded (s : State) : State :=
  { s with qsu := { s.qsu with clears := [], queues := s.qsu.queues.map (fun p => (p.1, queueEnded p.2)) } }

/-- The registers of a disable's end: BRINGUP, and a shutdown's end shown. -/
def backUp (s : State) : State :=
  if s.life.shut then regSet (regSet s 0x20008 18 16 0) 0x20008 3 3 1 else regSet s 0x20008 18 16 0

theorem backUp_only (s : State) : { backUp s with regs := s.regs } = s := by
  unfold backUp
  split
  · rw [regSet_lessRegs, regSet_lessRegs]
  · exact regSet_lessRegs _ _ _ _ _ _

theorem backUp_shows (s : State) : mode (backUp s) = 0 ∧ (s.life.shut = true → regField (backUp s) 0x20008 3 3 = 1) ∧
    (s.life.shut = false → regField (backUp s) 0x20008 3 3 = regField s 0x20008 3 3) := by
  unfold backUp mode
  split
  · next shut =>
    refine ⟨?_, fun _ => regField_regSet_same _ _ _ _ _ (by decide), fun off => by rw [shut] at off; cases off⟩
    rw [regField_regSet_bits _ _ _ _ _ _ _ (by decide) (by decide) (by decide), regField_regSet_same _ _ _ _ _ (by decide)]
    exact Nat.zero_mod _
  · next stays =>
    refine ⟨?_, fun shut => absurd shut stays, fun _ => regField_regSet_bits _ _ _ _ _ _ _ (by decide) (by decide) (by decide)⟩
    rw [regField_regSet_same _ _ _ _ _ (by decide)]
    exact Nat.zero_mod _

theorem regGet_backUp (s : State) {a : Nat} (other : a ≠ 0x20008) : regGet (backUp s) a = regGet s a := by
  unfold backUp
  split
  · rw [regGet_regSet_ne _ _ _ _ other, regGet_regSet_ne _ _ _ _ other]
  · exact regGet_regSet_ne _ _ _ _ other

/-- The complex at the end of a disable. -/
def disabled (s : State) : State := { backUp (queuesEnded s) with life := { s.life with shut := false } }

theorem disableFinish_ends {c : Clearing} (stopping : mode s = 4) (sole : s.qsu.clears = [c]) (auto : c.auto = true) (late : 9 ≤ c.step)
    (none_ : s.life.wearPend = false) : disableFinish s = disabled s := by
  have gone : s.qsu.clears.filter (fun c => !c.auto) = [] := by simp [sole, auto]
  have ends : mode s = 4 ∧ s.qsu.clears.any (fun c => c.auto && decide (9 ≤ c.step)) = true := ⟨stopping, by simp [sole, auto, late]⟩
  have queues : { s with qsu := { s.qsu with
      clears := s.qsu.clears.filter (fun c => !c.auto)
      queues := s.qsu.queues.map (fun p => (p.1, { p.2 with en := false, st := .disabled, buf := [], run := [] })) } } = queuesEnded s := by
    rw [gone]
    rfl
  unfold disableFinish disabled
  rw [if_pos ends]
  dsimp only
  rw [queues]
  have life : (queuesEnded s).life = s.life := rfl
  generalize queuesEnded s = z at life ⊢
  have same := backUp_only z
  have kept : (backUp z).life = s.life := (congrArg State.life same :).trans life
  have shape : (if (regSet z 0x20008 18 16 0).life.shut = true then regSet (regSet z 0x20008 18 16 0) 0x20008 3 3 1 else regSet z 0x20008 18 16 0) = backUp z := rfl
  rw [shape, kept, none_]
  rfl

end Sys2Proof.Machine
end


section
/-! PROOFS. The wear area, as a shutdown writes it (R504, R509). -/

namespace Sys2Proof.Machine

variable {s : State}

/-! ### Whole lines written in plaintext, where nothing is cached -/

/-- What a write of the lines from `lo` to below `hi` leaves. -/
structure LinesPut (s t : State) (lo hi : Nat) : Prop where
  stores : { t with tiers := s.tiers, regs := s.regs, out := s.out, host := s.host } = s
  calm : uncached t
  links : { t.host with links := s.host.links } = s.host
  regs : ∀ a, a < 0x100000 → regGet t a = regGet s a
  reads : ∀ line, line < lo ∨ hi ≤ line → memRead t 0 line = memRead s 0 line

theorem LinesPut.refl (calm : uncached s) (lo hi : Nat) : LinesPut s s lo hi := ⟨rfl, calm, rfl, fun _ _ => rfl, fun _ _ => rfl⟩

theorem LinesPut.trans {t u : State} {lo mid hi : Nat} (first : LinesPut s t lo mid) (then_ : LinesPut t u mid hi) (a : lo ≤ mid) (b : mid ≤ hi) :
    LinesPut s u lo hi where
  stores := (congrArg (fun x : State => { x with tiers := s.tiers, regs := s.regs, out := s.out, host := s.host }) then_.stores).trans first.stores
  calm := then_.calm
  links := (congrArg (fun x : HostPort => { x with links := s.host.links }) then_.links).trans first.links
  regs x low := (then_.regs x low).trans (first.regs x low)
  reads line out := (then_.reads line (by omega)).trans (first.reads line (by omega))

theorem injTaken_low (s : State) (line : Nat) {a : Nat} (low : a < 0x100000) : regGet (injTaken s line) a = regGet s a := by
  unfold injTaken
  dsimp only
  generalize below_ : 0x100030 + 0x100 * ctlRecord line = o
  split
  · exact regGet_regSet_ne _ _ _ _ (by omega)
  · rfl

/-- A plaintext store leaves the registers below the fault records, and what every other line reads as. -/
theorem memWrite_beside (calm : uncached s) (line mask : Nat) (data : List Byte) :
    (∀ a, a < 0x100000 → regGet (memWrite s 0 line mask data false) a = regGet s a) ∧
    ∀ other, other ≠ line → memRead (memWrite s 0 line mask data false) 0 other = memRead s 0 other := by
  unfold memWrite
  rw [if_neg (by simp [selEmpty])]
  split
  · exact ⟨fun _ _ => rfl, fun _ _ => rfl⟩
  · refine ⟨fun a low => injTaken_low s line low, fun other differs => ?_⟩
    have tiers := injTaken_bytes s line
    have clean := memRead_clean (injTaken s line) line (by rw [tiers]; exact calm.2)
    unfold memStore
    dsimp only
    generalize injTaken s line = u at tiers clean ⊢
    rw [clean, tiers, ← memRead_congr tiers 0 other]
    have len : (mergeBytes mask data (memRead u 0 line).1).length = 64 := by simp [mergeBytes]
    generalize mergeBytes mask data (memRead u 0 line).1 = put at len ⊢
    have raw : tabBytes (tabPut s.tiers.bytes (64 * line) put) (64 * other) 64 = tabBytes s.tiers.bytes (64 * other) 64 :=
      tabBytes_tabPut_other _ _ _ _ _ (by omega)
    have enc : ∀ v, tabGet (fun _ => 0) (tabSet (fun _ => 0) s.tiers.enc line v) other = tabGet (fun _ => 0) s.tiers.enc other :=
      fun v => tabGet_tabSet_ne _ _ v differs
    simp only [memRead, rawLine, selEmpty, pairOf, raw, enc, tiers, calm.2, owReached, setDel, Bool.false_and, Bool.or_false, Bool.false_eq_true, if_false]

theorem LinesPut.of_sends {t : State} (calm : uncached s) (sends : justSends s t) (lo hi : Nat) : LinesPut s t lo hi := by
  have after := sends.same calm
  obtain ⟨only, tiers, links⟩ := sends
  exact ⟨(congrArg (fun x : State => { x with tiers := s.tiers, regs := s.regs }) only :), after.1, links,
    fun a _ => (congrArg (regGet · a) only :), fun line _ => memRead_congr tiers 0 line⟩

theorem cohPutLine_linesPut (calm : uncached s) (pa : Nat) (data : List Byte) :
    LinesPut s (cohPutLine s 0 pa data false) (pa / 64) (pa / 64 + 1) := by
  unfold cohPutLine
  dsimp only
  rw [cohWrite_uncached s _ _ _ _ _ calm.1]
  generalize (2 ^ data.length - 1) * 2 ^ (pa % 64) = mask
  have sent := LinesPut.of_sends calm (writeNote_sent s (pa / 64) mask) (pa / 64) (pa / 64)
  generalize writeNote s (pa / 64) mask = w at sent ⊢
  obtain ⟨regs, reads⟩ := memWrite_beside sent.calm (pa / 64) mask (List.replicate (pa % 64) 0 ++ data)
  obtain ⟨calm', -⟩ := memWrite_same w (pa / 64) mask (List.replicate (pa % 64) 0 ++ data) sent.calm
  have stores := memWrite_stores w (pa / 64) mask (List.replicate (pa % 64) 0 ++ data)
  generalize memWrite w 0 (pa / 64) mask (List.replicate (pa % 64) 0 ++ data) false = m at regs reads calm' stores ⊢
  refine sent.trans ⟨?_, calm', ?_, regs, fun line out => reads line (by omega)⟩ le_rfl (Nat.le_succ _)
  · exact (congrArg (fun x : State => { x with out := w.out, host := w.host }) stores :)
  · have host : m.host = w.host := (congrArg State.host stores :)
    rw [host]

/-- A whole canopy line written reads back. -/
theorem memRead_cohPutLine (calm : uncached s) {pa : Nat} (aligned : pa % 64 = 0) (canopy : lineTier (pa / 64) = 0) {data : List Byte}
    (len : data.length = 64) : memRead (cohPutLine s 0 pa data false) 0 (pa / 64) = (data, false) := by
  have whole : ∀ old, mergeBytes ((2 ^ data.length - 1) * 2 ^ 0) (List.replicate 0 0 ++ data) old = data := by
    intro old
    have back := mergeBytes_within (o := 0) (data := data) (by omega) old
    rwa [List.drop_zero, List.take_of_length_le (by simp [mergeBytes, len])] at back
  unfold cohPutLine
  dsimp only
  rw [cohWrite_uncached s _ _ _ _ _ calm.1, memRead_memWrite_canopy ((writeNote_sent s _ _).same calm).1 canopy, aligned, whole]

theorem cohPut_line {f pa : Nat} {l : List Byte} (aligned : pa % 64 = 0) (some_ : 64 ≤ l.length) :
    cohPut s 0 pa (f + 1) l = cohPut (cohPutLine s 0 pa (l.take 64) false) 0 (pa + 64) f (l.drop 64) := by
  have filled : l.isEmpty = false := by
    cases l
    · simp at some_
    · rfl
  have piece : min (64 - pa % 64) l.length = 64 := by omega
  simp only [cohPut, filled, piece, Bool.false_eq_true, if_false]

/-- Whole lines written, one after the other. -/
theorem cohPut_linesPut (calm : uncached s) (n : Nat) {f pa : Nat} {l : List Byte} (aligned : pa % 64 = 0) (len : l.length = 64 * n) (fuel : n < f) :
    LinesPut s (cohPut s 0 pa f l) (pa / 64) (pa / 64 + n) := by
  induction n generalizing s f pa l with
  | zero =>
    obtain rfl : l = [] := List.eq_nil_of_length_eq_zero (by omega)
    cases f <;> exact .refl calm _ _
  | succ n ih =>
    obtain ⟨f, rfl⟩ : ∃ g, f = g + 1 := ⟨f - 1, by omega⟩
    rw [cohPut_line aligned (by omega)]
    have first := cohPutLine_linesPut calm pa (l.take 64)
    generalize cohPutLine s 0 pa (l.take 64) false = u at first ⊢
    have rest := ih (s := u) (f := f) (pa := pa + 64) (l := l.drop 64) first.calm (by omega) (by simp [len]; omega) (by omega)
    rw [show (pa + 64) / 64 = pa / 64 + 1 by omega] at rest
    rw [show pa / 64 + (n + 1) = pa / 64 + 1 + n by omega]
    exact first.trans rest (Nat.le_succ _) (Nat.le_add_right _ _)

/-- The first of whole canopy lines written reads back. -/
theorem memRead_cohPut_first (calm : uncached s) (n : Nat) {f pa : Nat} {l : List Byte} (aligned : pa % 64 = 0) (canopy : lineTier (pa / 64) = 0)
    (len : l.length = 64 * (n + 1)) (fuel : n + 1 < f) : memRead (cohPut s 0 pa f l) 0 (pa / 64) = (l.take 64, false) := by
  obtain ⟨f, rfl⟩ : ∃ g, f = g + 1 := ⟨f - 1, by omega⟩
  rw [cohPut_line aligned (by omega)]
  have first := cohPutLine_linesPut calm pa (l.take 64)
  have read := memRead_cohPutLine calm aligned canopy (data := l.take 64) (by simp [len])
  generalize cohPutLine s 0 pa (l.take 64) false = u at first read ⊢
  have rest := cohPut_linesPut (s := u) first.calm n (f := f) (pa := pa + 64) (l := l.drop 64) (by omega) (by simp [len]; omega) (by omega)
  exact (rest.reads _ (.inl (by omega))).trans read

/-! ### The wear area's bytes (R504) -/

theorem tabBytes_foldl_tabPut (l : List (Nat × List Byte)) (t : Tab Byte) {a n : Nat} (beyond : ∀ p ∈ l, a + n ≤ p.1) :
    tabBytes (l.foldl (fun t p => tabPut t p.1 p.2) t) a n = tabBytes t a n := by
  induction l generalizing t with
  | nil => rfl
  | cons p l ih =>
    obtain ⟨here, rest⟩ := List.forall_mem_cons.mp beyond
    rw [List.foldl_cons, ih _ rest, tabBytes_tabPut_other _ _ _ _ _ (.inl here)]

/-- A table's bytes with their checksum in place. -/
def summed (t : Tab Byte) : List Byte := listPut (tabBytes t 0 65536) 0x20 (leBytes 4 (crc32 (tabBytes t 0 65536)))

theorem summed_length (t : Tab Byte) : (summed t).length = 65536 := by
  simp [summed, listPut, tabBytes]

/-- The checksum leaves the bytes before it. -/
theorem summed_count (t : Tab Byte) : ((summed t).take 64 |>.drop 0x10).take 8 = tabBytes t 0x10 8 := by
  have slice : (tabBytes t 0 65536 |>.drop 0x10).take 8 = tabBytes t 0x10 8 := bytesFrom_slice (tabGet (fun _ => 0) t) 0 65536 0x10 8 (by decide)
  have len : (tabBytes t 0 65536).length = 65536 := bytesFrom_length _ _ _
  rw [← slice, summed, listPut, List.append_assoc, List.take_drop, List.take_drop, List.take_take,
    List.take_append_of_le_length (by simp [len]), List.take_take]
  rfl

/-- A wear area holds its marks, its serial number, its count, and beyond them the rest. -/
theorem wearBytes_eq (s : State) (count : Nat) : ∃ rest : List (Nat × List Byte), (∀ p ∈ rest, 24 ≤ p.1) ∧
    wearBytes s count = summed (rest.foldl (fun t p => tabPut t p.1 p.2)
      (tabPut (tabPut (tabPut [] 0 (leBytes 8 0x000152414557)) 8 (leBytes 8 (Config.serial % 2 ^ 64))) 0x10 (leBytes 8 (count % 2 ^ 64)))) := by
  unfold wearBytes
  dsimp only
  rw [List.foldl_cons, List.foldl_cons, List.foldl_cons]
  refine ⟨_, ?_, rfl⟩
  simp only [List.forall_mem_cons]
  decide

theorem wearBytes_length (s : State) (count : Nat) : (wearBytes s count).length = 65536 := by
  obtain ⟨rest, -, bytes⟩ := wearBytes_eq s count
  rw [bytes, summed_length]

theorem wearBytes_count (s : State) (count : Nat) : (((wearBytes s count).take 64).drop 0x10).take 8 = leBytes 8 (count % 2 ^ 64) := by
  obtain ⟨rest, beyond, bytes⟩ := wearBytes_eq s count
  have read := fun t => tabBytes_tabPut_same t 0x10 (leBytes 8 (count % 2 ^ 64))
  simp only [length_leBytes] at read
  rw [bytes, summed_count, tabBytes_foldl_tabPut rest _ beyond, read]

/-! ### A shutdown (R509) -/

/-- The wear area's count, one above what stands there. -/
def wearNext (s : State) : Nat := leNat (paRead s 0 (wearPA s + 0x10) 8).1 + 1

theorem wearPA_lines (s : State) : ∃ p, wearPA s / 64 = 1024 * p ∧ wearPA s = 65536 * p :=
  ⟨regField s 0x20028 45 16, by unfold wearPA; omega, Nat.mul_comm _ _⟩

theorem wearPA_canopy (inside : wearInCanopy s = true) : lineTier (wearPA s / 64) = 0 := by
  obtain ⟨-, low⟩ := Bool.and_eq_true_iff.mp inside
  have bound := of_decide_eq_true low
  unfold lineTier gib at *
  omega

theorem wearWrite_writes (ranger : rangerUp s = true) (inside : wearInCanopy s = true) :
    wearWrite s = paWrite s 0 (wearPA s) (wearBytes s (wearNext s)) := by
  have both : (rangerUp s && wearInCanopy s) = true := Bool.and_eq_true_iff.mpr ⟨ranger, inside⟩
  unfold wearWrite
  rw [if_pos both, wearNext]

/-- A page of whole canopy lines written at an aligned place. -/
theorem paWrite_page (calm : uncached s) {pa : Nat} {l : List Byte} (aligned : pa % 64 = 0) (canopy : lineTier (pa / 64) = 0) (len : l.length = 65536) :
    LinesPut s (paWrite s 0 pa l) (pa / 64) (pa / 64 + 1024) ∧ memRead (paWrite s 0 pa l) 0 (pa / 64) = (l.take 64, false) := by
  rw [paWrite, len]
  exact ⟨cohPut_linesPut calm 1024 aligned len (by decide), memRead_cohPut_first calm 1023 aligned canopy len (by decide)⟩

theorem wearWrite_put (calm : uncached s) (ranger : rangerUp s = true) (inside : wearInCanopy s = true) :
    LinesPut s (wearWrite s) (wearPA s / 64) (wearPA s / 64 + 1024) ∧
    memRead (wearWrite s) 0 (wearPA s / 64) = ((wearBytes s (wearNext s)).take 64, false) := by
  obtain ⟨p, -, place⟩ := wearPA_lines s
  rw [wearWrite_writes ranger inside]
  exact paWrite_page calm (by omega) (wearPA_canopy inside) (wearBytes_length s _)

theorem wearWrite_idle (off : rangerUp s = false) : wearWrite s = s := by
  unfold wearWrite
  rw [off]
  rfl

theorem LinesPut.unburdened {t : State} {lo hi : Nat} (put : LinesPut s t lo hi) (h : Unburdened s) : Unburdened t := by
  obtain ⟨stores, -, links, -, -⟩ := put
  have qsu : t.qsu = s.qsu := (congrArg State.qsu stores :)
  refine ⟨resting_congr (congrArg State.cores stores :) (congrArg State.ride stores :) h.rest, (congrArg State.movers stores :).trans h.streams, ?_, ?_,
    (congrArg HostPort.defer links :).trans h.waits, (congrArg (fun x : State => x.prf.run) stores :).trans h.proof, ?_⟩
  · rw [qsu]
    exact h.kernels
  · rw [qsu]
    exact h.clears
  · rw [qsu]
    exact h.commands

theorem LinesPut.mode {t : State} {lo hi : Nat} (put : LinesPut s t lo hi) : mode t = mode s := by
  rw [Machine.mode, regField, put.regs _ (by decide)]
  rfl

/-- The complex at the end of what a shutdown writes. -/
def shutWritten (s : State) : State := { s with life := { s.life with shut := true } }

theorem Unburdened.shutWritten (h : Unburdened s) : Unburdened (shutWritten s) :=
  ⟨h.rest, h.streams, h.kernels, h.clears, h.waits, h.proof, h.commands⟩

theorem shutdownDo_on (on : mode s = 3) : shutdownDo s = disableStart (shutWritten (wearWrite s)) := if_neg (not_not.mpr on)

/-- A shutdown that finds nothing to cut, once its wear area stands. -/
theorem Unburdened.shutdownDo_stops {w : State} (h : Unburdened w) (on : Machine.mode w = 3) :
    Stops (disableStart (Machine.shutWritten w)) ∧
    { disableStart (Machine.shutWritten w) with regs := w.regs, qsu := w.qsu } = Machine.shutWritten w :=
  h.shutWritten.disableStart_stops on

/-- The count of a wear area that a shutdown has written. -/
theorem paRead_wearWritten {t : State} (calm : uncached t)
    (line : memRead t 0 (wearPA s / 64) = ((wearBytes s (wearNext s)).take 64, false)) :
    (paRead t 0 (wearPA s + 0x10) 8).1 = leBytes 8 (wearNext s % 2 ^ 64) := by
  obtain ⟨p, -, place⟩ := wearPA_lines s
  have same : (wearPA s + 0x10) / 64 = wearPA s / 64 := by omega
  have offset : (wearPA s + 0x10) % 64 = 0x10 := by omega
  rw [paRead_word calm (by omega), same, offset, line, wearBytes_count]

end Sys2Proof.Machine
end


section
/-! PROOFS. Enable and disable (R506, R507, R509, R515): the commands. -/

namespace Sys2Proof.Machine

variable {s : State}

theorem exec_refuses (live : Live s) (under : regField s 0x20008 2 2 = 1) (serves : s.host.hold = false) {code unit : Nat}
    (verdict : checkVerdict s = some (code, unit)) (fits : code < 2 ^ 16) (named : unit < 2 ^ 16) : ∃ t, exec .enableCheckDone s = .next t ∧
    regField t 0x20008 2 2 = 0 ∧ mode t = mode s ∧ regField t 0x20000 0 0 = 0 ∧ regGet t 0x20010 = unit * 2 ^ 16 + code ∧
    (∀ a, a ≠ 0x20000 → a ≠ 0x20008 → a ≠ 0x20010 → regGet t a = regGet s a) ∧ { t with regs := s.regs } = s := by
  obtain ⟨check, same, enable, reason⟩ := refused_shows s fits named
  have only := refused_lessRegs s (code, unit)
  exact ⟨refused s (code, unit), runLive_next s _ enableDone live (enableDone_refuses under serves verdict) (congrArg State.errs only :)
    (congrArg State.pending only :), check, same, enable, reason, fun _ one two three => regGet_refused s _ one two three, only⟩

theorem exec_accepts (live : Live s) (under : regField s 0x20008 2 2 = 1) (serves : s.host.hold = false) (verdict : checkVerdict s = none)
    (queueless : enabledEntries s = []) (calm : uncached s) : exec .enableCheckDone s = .next (accept s) := by
  obtain ⟨ready, -⟩ := accept_ready calm queueless
  exact runLive_next s _ enableDone live (enableDone_accepts under serves verdict) ready.errs ready.pending

theorem Ready.window_shows {t : State} (h : Ready s t) : t.tiers.winBase = regField s 0x50010 45 30 ∧ t.tiers.winSel = regField s 0x50010 63 58 :=
  ⟨congrArg Prod.fst h.window, congrArg Prod.snd h.window⟩

theorem exec_disables (live : Live s) (h : Unburdened s) (on : mode s = 3) :
    ∃ t, exec .disableCmd s = .next t ∧ Stops t ∧ t.tiers = s.tiers ∧ t.life = s.life := by
  obtain ⟨stops, beside⟩ := h.disableStart_stops on
  exact ⟨disableStart s, runLive_next s _ disableStart live rfl (congrArg State.errs beside :) (congrArg State.pending beside :), stops,
    (congrArg State.tiers beside :), (congrArg State.life beside :)⟩

section Shutdown
variable (live : Live s) (h : Unburdened s) (on : mode s = 3)
include live h on

theorem exec_shutsDown_unwritten (off : rangerUp s = false) :
    ∃ t, exec .shutdown s = .next t ∧ Stops t ∧ t.tiers = s.tiers ∧ t.life = { s.life with shut := true } := by
  obtain ⟨stops, beside⟩ := h.shutdownDo_stops on
  have starts : shutdownDo s = disableStart (shutWritten s) := by rw [shutdownDo_on on, wearWrite_idle off]
  exact ⟨_, runLive_next s _ shutdownDo live starts (congrArg State.errs beside :) (congrArg State.pending beside :), stops,
    (congrArg State.tiers beside :), (congrArg State.life beside :)⟩

theorem exec_shutsDown (calm : uncached s) (ranger : rangerUp s = true) (inside : wearInCanopy s = true) :
    ∃ t, exec .shutdown s = .next t ∧ Stops t ∧ t.life = { s.life with shut := true } ∧
      (paRead t 0 (wearPA s + 0x10) 8).1 = leBytes 8 ((leNat (paRead s 0 (wearPA s + 0x10) 8).1 + 1) % 2 ^ 64) ∧
      ∀ line, line < wearPA s / 64 ∨ wearPA s / 64 + 1024 ≤ line → memRead t 0 line = memRead s 0 line := by
  obtain ⟨put, first⟩ := wearWrite_put calm ranger inside
  have starts := shutdownDo_on on
  generalize wearWrite s = w at put first starts
  obtain ⟨stops, beside⟩ := (put.unburdened h).shutdownDo_stops (put.mode.trans on)
  generalize disableStart (shutWritten w) = t at stops beside starts
  have tiers : t.tiers = w.tiers := (congrArg State.tiers beside :)
  have reads : ∀ line, memRead t 0 line = memRead w 0 line := memRead_congr tiers 0
  have uncached_ : uncached t := ⟨(congrArg State.coh beside :).trans put.calm.1, (congrArg Tiers.poison tiers).trans put.calm.2⟩
  have errs : t.errs = s.errs := (congrArg State.errs beside :).trans (congrArg State.errs put.stores :)
  have pending : t.pending = s.pending := (congrArg State.pending beside :).trans (congrArg State.pending put.stores :)
  have life : w.life = s.life := (congrArg State.life put.stores :)
  refine ⟨t, runLive_next s t shutdownDo live starts errs pending, stops, ?_, paRead_wearWritten uncached_ ((reads _).trans first),
    fun line out => (reads line).trans (put.reads line out)⟩
  rw [← life]
  exact (congrArg State.life beside :)

end Shutdown

theorem exec_endsDisable (live : Live s) {c : Clearing} (stopping : mode s = 4) (sole : s.qsu.clears = [c]) (auto : c.auto = true)
    (late : 9 ≤ c.step) (none_ : s.life.wearPend = false) : ∃ t, exec .disableEnd s = .next t ∧ mode t = 0 ∧ t.qsu.clears = [] ∧
    (∀ q, (queueGet t q).en = false ∧ (queueGet t q).st = .disabled ∧ (queueGet t q).run = []) ∧
    (s.life.shut = true → regField t 0x20008 3 3 = 1) ∧ (s.life.shut = false → regField t 0x20008 3 3 = regField s 0x20008 3 3) ∧
    t.life = { s.life with shut := false } ∧ (∀ a, a ≠ 0x20008 → regGet t a = regGet s a) ∧ t.cores = s.cores ∧ t.tiers = s.tiers := by
  have ends := disableFinish_ends stopping sole auto late none_
  have ended : ∀ q, queueGet (queuesEnded s) q = queueEnded (queueGet s q) := fun q => tabGet_queueEnded s.qsu.queues q
  have frame : { queuesEnded s with qsu := s.qsu } = s := rfl
  have empty : (queuesEnded s).qsu.clears = [] := rfl
  unfold disabled at ends
  generalize queuesEnded s = z at ends ended frame empty
  have only := backUp_only z
  obtain ⟨mode_, shuts, stays⟩ := backUp_shows z
  have regs := fun a (other : a ≠ 0x20008) => regGet_backUp z other
  have life : z.life = s.life := (congrArg State.life frame :)
  have same : z.regs = s.regs := (congrArg State.regs frame :)
  rw [life] at shuts stays
  generalize backUp z = b at ends only mode_ shuts stays regs
  have beside : { b with regs := s.regs, qsu := s.qsu } = s :=
    (congrArg (fun x : State => { x with regs := s.regs, qsu := s.qsu }) only).trans (congrArg (fun x : State => { x with regs := s.regs }) frame)
  have qsu : b.qsu = z.qsu := (congrArg State.qsu only :)
  refine ⟨_, runLive_next s _ disableFinish live ends (congrArg State.errs beside :) (congrArg State.pending beside :), mode_,
    (congrArg Qsu.clears qsu).trans empty, fun q => ?_, shuts, fun stay => (stays stay).trans (regField_regs same _ _ _), rfl,
    fun a other => (regs a other).trans (congrArg (fun r => (tabGet regReset r a).toNat) same), (congrArg State.cores beside :),
    (congrArg State.tiers beside :)⟩
  have queue : tabGet (fun _ => queue0) b.qsu.queues q = queueEnded (queueGet s q) := by
    rw [qsu]
    exact ended q
  rw [queueGet, queue]
  exact ⟨rfl, rfl, rfl⟩

end Sys2Proof.Machine

open Sys2Proof Sys2Proof.Machine in
/-- Settles O49: each command's cases are those of its function; an accepted enable is followed step by step through its copies. -/
theorem enableAndDisable : Obligations.EnableAndDisable := by
  unfold Obligations.EnableAndDisable
  intro s live calm stops
  refine ⟨fun h => exec_idle live (enableStart_idle h),
    fun low rests released => runLive_next s _ enableStart live (enableStart_starts low rests released) rfl rfl,
    fun h => exec_idle live (enableDone_idle h), fun under serves => ⟨?_, checkVerdict_state, ?_, ?_, ?_⟩,
    fun off => ⟨exec_idle live (disableStart_idle off), exec_idle live (shutdownDo_idle off)⟩, ?_,
    fun off => exec_idle live (disableFinish_idle fun h => off h.1), ?_⟩
  · exact fun code unit verdict fits named => exec_refuses live under serves verdict fits named
  · exact checkVerdict_unwiped
  · exact checkVerdict_unloaded
  · intro verdict queueless quiet _
    obtain ⟨ready, opened, armed⟩ := accept_ready quiet queueless
    obtain ⟨mode_, check, enable, reason⟩ := ready.shows
    obtain ⟨base, sel⟩ := ready.window_shows
    exact ⟨accept s, exec_accepts live under serves verdict queueless quiet, mode_, check, enable, reason, base, sel, ready.queues, ready.period, opened, armed, fun c low => ready.core low⟩
  · rintro on ⟨quiet, rest, streams, kernels, clears, waits, proof, commands⟩
    have h : Unburdened s := ⟨rest, streams, kernels, clears, waits, proof, commands⟩
    exact ⟨exec_disables live h on, exec_shutsDown_unwritten live h on, exec_shutsDown live h on quiet⟩
  · intro c stopping sole
    refine ⟨fun h => exec_idle live (disableFinish_idle ?_), fun auto late none_ => exec_endsDisable live stopping sole auto late none_⟩
    rintro ⟨-, over_⟩
    rcases h with other | early
    · simp [sole, other] at over_
    · simp [sole] at over_
      omega
end
